-- ==== Sys2Proof/Word.lean ====
section
/-! DEFINITION. Words, bytes and sparse tables: the plain data every other file is written in. -/

namespace Sys2Proof

/-- A byte (R10). -/
abbrev Byte := BitVec 8
/-- A 16-bit word. -/
abbrev W16 := BitVec 16
/-- A 32-bit register (R10). -/
abbrev W32 := BitVec 32
/-- A 64-bit register (R10). -/
abbrev W64 := BitVec 64
/-- A 128-bit value: a store-path digest (R26, R327). -/
abbrev W128 := BitVec 128

/-- A sparse table by number: an unlisted number reads as the table's default. -/
abbrev Tbl (α : Type) := List (Nat × α)

/-- Read a table; `d` is what an unlisted number reads as. -/
def Tbl.get {α : Type} (d : α) : Tbl α → Nat → α
  | [], _ => d
  | (k', v) :: t, k => if k' = k then v else Tbl.get d t k

/-- Write a table. -/
def Tbl.set {α : Type} : Tbl α → Nat → α → Tbl α
  | [], k, v => [(k, v)]
  | (k', v') :: t, k, v => if k' = k then (k, v) :: t else (k', v') :: Tbl.set t k v

/-- Remove an entry, which then reads as the default. -/
def Tbl.del {α : Type} (t : Tbl α) (k : Nat) : Tbl α := t.filter (fun p => p.1 != k)

/-- Is a number listed? -/
def Tbl.has {α : Type} (t : Tbl α) (k : Nat) : Bool := t.any (fun p => p.1 == k)

end Sys2Proof
end

