-- ==== Sys2Proof/Syntax/Payload.lean ====
section
/-! DEFINITION. What commands carry: the names of units, and the data that arrives with an event. -/

namespace Sys2Proof

/-- A rill core: that of a jet by module-wide number (R83), or update core `n` of Runnel die `r` (R283). -/
inductive CoreId where
  | jet (j : Fin 160)
  | upd (r : Fin 2) (n : Fin 16)
  deriving DecidableEq, Repr

/-- The fields of a rill instruction word below OP (R163): [25:21], [20:16], [15:11], [10:0]. -/
structure RFields where
  d : BitVec 5
  a : BitVec 5
  b : BitVec 5
  lo : BitVec 11
  deriving DecidableEq, Repr

/-- The two accumulator tiles of an array (R87). -/
inductive TileId where
  | a
  | b
  deriving DecidableEq, Repr

/-- Who makes a register access: the host through its BARs, the Fountainhead firmware over the register bus
(R23, R457), or the Keeper. -/
inductive Agent where
  | host
  | firmware
  | keeper
  deriving DecidableEq, Repr

/-- The register bases of R10 and the maps of the chapters. `fh` holds the FH_ and WR_ registers (R456), `config` is the function's
configuration space (R451, R452). -/
inductive RegBlock where
  | fh
  | mailbox (n : Fin 8)
  | msix
  | bar2 (n : Fin 8)
  | basin (d : Fin 4)
  | jet (j : Fin 160)
  | runnel (r : Fin 2)
  | update (r : Fin 2) (n : Fin 16)
  | cistern (s : Fin 32)
  | keeper
  | sluice
  | config
  | mirror
  deriving DecidableEq, Repr

/-- A data-plane write into the step commit record (R26, R28). -/
inductive RecordWrite where
  | done (phase : Fin 12)
  | digest (v : W128)
  | result (v : Byte)
  deriving DecidableEq, Repr

/-- A unit of memory: a fast-tier channel of a domain, or a local LP6 package of a half (R241, R245). -/
inductive MemUnit where
  | channel (d : Fin 4) (c : Fin 256)
  | package (r : Fin 2) (p : Fin 18)
  deriving DecidableEq, Repr

/-- A region of the map-out rules: a fast domain or a slow half (R263). -/
inductive MemRegion where
  | domain (d : Fin 4)
  | half (r : Fin 2)
  deriving DecidableEq, Repr

/-- How a training attempt ends (R366): which lanes locked, and what the TRAIN exchange showed. -/
structure TrainReport where
  lanes : W16
  peerAddr : BitVec 15
  peerPort : Nat
  rttNs : Nat
  completed : Bool
  deriving DecidableEq, Repr

/-- A packet (R367): its header's fields and its payload words, 36 bytes each. `rsvd` is the reserved bits of the header: bit 15
of DEST, of SRC, CLASS [7:4], byte 0x07, HOPFLAGS [7:3], bytes 0x1E and 0x1F, from its bit 0 up. -/
structure Packet where
  dest : BitVec 15
  src : BitVec 15
  opcode : Byte
  cls : BitVec 2
  epoch : BitVec 2
  addr : W64
  tag : W32
  oparg : W64
  hops : Nat
  vc : Bool
  esc : Bool
  mark : Bool
  rsvd : Nat
  payload : List (List Byte)
  deriving DecidableEq, Repr

/-- A partial block record of a BX node result (R414). -/
structure BlockPartial where
  s : List Int
  g : Int
  poison : List Bool
  zero : Bool
  deriving DecidableEq, Repr

/-- The five element formats of the collective engine (R409). -/
inductive CollFmt where
  | binary64
  | binary32
  | jf16
  | bx16
  | bx8
  deriving DecidableEq, Repr

/-- The operations of the collective engine (R409). -/
inductive CollOp where
  | allReduce
  | reduceScatter
  | allGather
  | broadcast (source : Nat)
  | max
  | min
  deriving DecidableEq, Repr

/-- What a chunk carries (R413): elements as codes, partial block records, or MAX and MIN entries, each a binary64
value and a global index. -/
inductive ChunkData where
  | elems (codes : List Nat)
  | blocks (b : List BlockPartial)
  | source (codes : List Nat) (exps : List Nat)
  | winners (l : List (Nat × Nat))
  deriving DecidableEq, Repr

/-- KIND of a chunk (R415). ACK, READY and START have commands of their own. -/
inductive ChunkKind where
  | leaf
  | partialNode
  | result
  deriving DecidableEq, Repr

/-- A chunk's sequence number (R415) with its membership epoch. -/
structure ChunkId where
  kind : ChunkKind
  coll : Nat
  occ : Nat
  a : Nat
  m : Nat
  c : Nat
  step : W32
  epoch : W32
  deriving DecidableEq, Repr

/-- A membership table (R425). A rank's STATE is 0 ACTIVE, 1 FAILED, 2 JOINING. -/
structure MembTable where
  epoch : W32
  tieBreak : Nat
  entries : List (BitVec 15 × Nat)
  deriving DecidableEq, Repr

/-- An update descriptor (R293). ABSENT and CARRIED list ranks; T_AGREED lists the groups' counts. -/
structure UpdateDesc where
  globalStep : W64
  srcSlot : Bool
  drop : Bool
  groups : Nat
  ranks : Nat
  tAgreed : List W32
  absent : List Nat
  carried : List Nat
  deriving DecidableEq, Repr

/-- A reservoir entry as it arrives (R321). Lane tables are by the entry's own index; `wordsOk` says that no word
was uncorrectable. -/
structure ResEntry where
  globalStep : W64
  sourceRank : Nat
  epoch : W32
  gradRecords : Nat
  terraceGen : W16
  imageHash : List Byte
  digestV : W128
  desc : UpdateDesc
  windows : Tbl W64
  jetLanesStart : Tbl W64
  jetLanesEnd : Tbl W64
  coreLanes : Tbl W64
  grads : List (List Byte)
  wordsOk : Bool
  deriving DecidableEq, Repr

/-- A tensor declaration (R213). `reserved` is the value of bytes 0x44 to 0x5F. -/
structure TensorDecl where
  id : Nat
  format : Byte
  rank : Nat
  raxis : Nat
  tier : Nat
  lifetime : Nat
  place : Nat
  group : Nat
  scale : W32
  shape : List Nat
  jets : List Nat
  reserved : Nat
  deriving DecidableEq, Repr

/-- The operation of a REDUCE node (R215). -/
inductive RedKind where
  | sum
  | max
  | min
  deriving DecidableEq, Repr

/-- What an operation-graph node is (R215). -/
inductive NodeKind where
  | matmul (stream stationary out spout : Nat) (split : Option (List (Nat × Nat)))
  | reduce (op : RedKind) (src dst : Nat)
  | kernel (index : Nat) (args : List Nat) (tiles : List (Nat × Bool × Bool)) (jets : List Nat) (issuesArrays : Bool) (usesQuads : Bool)
  | solver (index : Nat) (args : List Nat)
  | collective (op : CollOp) (tensor : Nat)
  | update (groups : List Nat)
  | windowIn (window tensor : Nat)
  | windowOut (window tensor : Nat)
  | unknown (type : Nat)
  deriving DecidableEq, Repr

/-- An operation-graph node (R215, R219). `stores` names the tensors it stores into. -/
structure GraphNode where
  id : Nat
  kind : NodeKind
  tag : W16
  phase : Nat
  preds : List Nat
  stores : List Nat
  moverConv : Bool
  deriving DecidableEq, Repr

/-- A capability requirement (R211). -/
structure CapReq where
  id : Nat
  op : Nat
  byte3 : Nat
  index : W32
  value : W64
  deriving DecidableEq, Repr

/-- A spout descriptor (R221), its fields by byte position; `reserved` is the value of the bytes that are to be zero. -/
structure SpoutDesc where
  dest : Byte
  round : Byte
  blockDir : Byte
  flags : Byte
  scale : W64
  bias : W64
  lo : W64
  hi : W64
  outElem : W32
  outExp : W32
  reserved : Nat
  deriving DecidableEq, Repr

/-- A host window (R225). -/
structure HostWindow where
  id : Nat
  out : Bool
  addr : Nat
  stride : Nat
  slots : Nat
  length : Nat
  deriving DecidableEq, Repr

/-- A parameter group (R226); `rest` is the value of the FLAGS bits and bytes that are to be zero. -/
structure ParamGroup where
  lr : W32
  beta1 : W32
  beta2 : W32
  eps : W32
  wd : W32
  kernel : Nat
  frozen : Bool
  tInit : W32
  rest : Nat
  deriving DecidableEq, Repr

/-- A recompute plan entry (R224). -/
structure Recompute where
  checkpoint : Nat
  nodes : List Nat
  deriving DecidableEq, Repr

/-- A section directory entry (R208). -/
structure Section where
  type : Nat
  flags : W16
  offset : Nat
  length : Nat
  deriving DecidableEq, Repr

/-- The straggler policy fields (R227) and the securing policy fields (R228). -/
structure Policy where
  k : Nat
  g : Nat
  d : Nat
  windowPermille : Nat
  windowMinMs : Nat
  drop : Nat
  deriving DecidableEq, Repr

/-- A program image as it lies in host memory (R206): its bytes, and the content of the sections whose byte form the spec does not
give (log 66): the operation graph, the recompute plan, the host windows, the two policies, and the scratch of R285. -/
structure ImageFile where
  bytes : List Byte
  nodes : List GraphNode
  recompute : List Recompute
  windows : List HostWindow
  policy : Policy
  scratch : Nat
  deriving DecidableEq, Repr

/-- A program image as the loader reads it (R206 to R228). `hashOk` is the comparison of IMAGE_HASH with SHA-256 of the image, and
`length` the bytes that it has. -/
structure Image where
  length : Nat
  magic : W32
  formatVer : Nat
  headerBytes : Nat
  imageBytes : Nat
  dirOffset : Nat
  buildId : W64
  name : List Byte
  hash : List Byte
  hashOk : Bool
  sections : List Section
  reqs : List CapReq
  tensors : List TensorDecl
  nodes : List GraphNode
  vectorBits : Nat
  handlerIndex : Nat
  kernels : List (Nat × Nat)
  code : List Byte
  scratch : Nat
  tags : List (W16 × Nat)
  spouts : List SpoutDesc
  recompute : List Recompute
  windows : List HostWindow
  groups : List ParamGroup
  shards : List Nat
  policy : Policy
  deriving DecidableEq, Repr

/-- A firmware slot as R567 reads it: what its checks answer, the measurements of R577, and the bytes themselves. -/
structure SlotImage where
  layoutOk : Bool
  keyIndex : Fin 4
  svn : Nat
  revokeMask : BitVec 4
  publicKeyHash : List Byte
  signatureOk : Bool
  keeperHashOk : Bool
  otherHashesOk : Bool
  versions : W32 × W32 × W32
  measurements : List (List Byte)
  bytes : Nat
  content : List Host.Cell := []
  deriving DecidableEq, Repr

/-- The supplies of R509. -/
inductive Supply where
  | main
  | aux
  deriving DecidableEq, Repr

/-- The sensors of R598 and R600. -/
inductive Sensor where
  | basin (d : Fin 4)
  | hub
  | runnel (r : Fin 2)
  | stack (s : Fin 32)
  | inlet
  | outlet
  | flow
  | mainMv
  | auxMv
  | mainMa
  | auxMa
  deriving DecidableEq, Repr

/-- What the start-up step just completed showed of the parts it tests (R542, R116): channels and packages that failed training,
ports that failed calibration, and by jet the arrays that passed their self-test (an unlisted jet passed with all). -/
structure StepReport where
  failedUnits : List MemUnit
  failedPorts : List (Fin 6)
  arrayPass : Tbl Byte
  deriving DecidableEq, Repr

/-- A fill stream's content (R346): `securedPiece` is bytes of the secured image from an offset on, and `reseed` names the step about to
run (R343). -/
inductive FillData where
  | ownRecord (index : Nat) (bytes : List Byte)
  | heldRecord (index : Nat) (bytes : List Byte)
  | securedPiece (offset : Nat) (bytes : List Byte)
  | ownCounts (t : List W32)
  | heldCounts (t : List W32)
  | ownEntry (e : ResEntry)
  | heldEntry (e : ResEntry)
  | parityPiece (offset : Nat) (bytes : List Byte)
  | parityHeader (gen : W16) (securedStep : W64) (len : Nat) (member : Nat) (digest : W128)
  | jetLanes (l : Tbl W64)
  | coreLanes (l : Tbl W64)
  | reseed (step : W64)
  deriving DecidableEq, Repr

/-- The checkpoint's part for one rank, as RUN imports it (R486): state records in job parameter order. -/
structure Checkpoint where
  own : List (List Byte)
  held : List (List Byte)
  ok : Bool
  deriving DecidableEq, Repr

/-- What a dispatcher stages (R296): a record of the own bank, of whose gradient record the listed words cannot be used, or one of the
held bank. -/
inductive StageFrom where
  | own (bad : List Nat)
  | held
  deriving DecidableEq, Repr

/-- Is it of the held bank? -/
def StageFrom.isHeld : StageFrom → Bool
  | .own _ => false
  | .held => true

/-- Words of the gradient record that cannot be used. -/
def StageFrom.bad : StageFrom → List Nat
  | .own l => l
  | .held => []

/-- The rank that broadcasts, and the step it speaks of (R331). -/
structure RankStep where
  rank : Nat
  step : W64
  deriving DecidableEq, Repr

/-- A job-wide command as the leader broadcasts it (R493). `sel` is ARG7 bits [5:0] of SET_POLICY. -/
inductive JobCmd where
  | halt
  | setPolicy (sel : BitVec 6) (p : Policy)
  | secureNow
  deriving DecidableEq, Repr

end Sys2Proof
end

