-- ==== Sys2Proof/Syntax.lean ====
section
/-! DEFINITION. The commands of the block: one constructor for each row of spec/opcode_table.json, in the table's order.
Each docstring is the row's rule and what the row's step is. -/

namespace Sys2Proof

/-- A command: an operation of the host, the chassis, the fabric or an engine of the module, or an event. -/
inductive Instr where
  /-- R13. A write to a register field that has no row of its own sets RW fields, clears W1C bits or sets W1S bits, ignores reserved
  fields and leaves reserved values unchanged. -/
  | registerWrite (who : Agent) (blk : RegBlock) (off : Nat) (wide : Bool) (v : W64)
  /-- R15. A 32-bit read of the low half of a 64-bit register latches the high half for the following high-half read. -/
  | reg64LowHalfRead (who : Agent) (blk : RegBlock) (off : Nat)
  /-- R40. The step sequencer writes the next PHASE, and GLOBAL_STEP where needed, into the step commit record once DONE_MASK shows the
  current phase complete; the data plane starts the phase it names. -/
  | phaseAdvance
  /-- R28. A data-plane write of DONE_MASK, DIGEST or COMMIT_RESULT reaches the step commit record, carrying the step it refers to. -/
  | dataPlaneRecordWrite (step : W64) (w : RecordWrite)
  /-- R29. The collective engine writes a suspect entry at SUSPECT_PUT mod 16 and advances SUSPECT_PUT, waiting while the queue holds 16
  unread entries. -/
  | suspectEntryWrite (rank : BitVec 15) (cause : BitVec 4)
  /-- R29. The membership logic reads the suspect entries up to SUSPECT_PUT, acts on each, and advances SUSPECT_TAKE. -/
  | suspectEntryRead
  /-- R517. A domain reports a new PHASE_TAG; it adopts a valid pending budget, and the Sluice learns the finished occurrence and
  allocates for the predicted next tag. -/
  | phaseTagChange (d : Fin 10) (tag : W16) (us : Nat) (power : Rat)
  /-- R32. Every 100 µs each domain reports its ACTIVE_CYCLES and BYTES_MOVED into the budget file. -/
  | budgetIntervalReport (d : Fin 10) (cycles bytes : W32)
  /-- R38. FW_ALIVE has not toggled for 1 s; the Keeper requests a firmware restart, or a warm reset on the third within 60 s, and logs
  FW_HANG. -/
  | fwHang
  /-- R39. The restarted firmware reads the step commit record, resumes from the phase it names and sets CTRL_READY again. -/
  | fwRestartDone
  /-- R539. The firmware sets CTRL_READY once it serves the mailboxes, and READY follows under R36. -/
  | ctrlReadySet
  /-- R80. The firmware sets or clears MOVER_CONV_EN, and may set it only while PHASE reads IDLE during start-up, a test or a recovery. -/
  | moverConvEnWrite (j : Fin 160) (v : Bool)
  /-- R163. The ALU instruction applies the integer function FUNC to scalar registers A and B and writes D. -/
  | alu (c : CoreId) (f : RFields)
  /-- R163. ADDI adds a signed 16-bit immediate to s_A and writes D. -/
  | addi (c : CoreId) (f : RFields)
  /-- R163. ANDI ands s_A with a zero-extended immediate. -/
  | andi (c : CoreId) (f : RFields)
  /-- R163. ORI ors s_A with a zero-extended immediate. -/
  | ori (c : CoreId) (f : RFields)
  /-- R163. XORI xors s_A with a zero-extended immediate. -/
  | xori (c : CoreId) (f : RFields)
  /-- R163. SHI shifts s_A by an immediate amount, logically or arithmetically. -/
  | shi (c : CoreId) (f : RFields)
  /-- R163. LUI writes the sign-extended immediate times 2^16 into D. -/
  | lui (c : CoreId) (f : RFields)
  /-- R164. LD loads 8 to 64 bits from the jet store, sign- or zero-extended, raising ACCESS or UNCORRECTABLE where the bytes cannot be
  used. -/
  | ld (c : CoreId) (f : RFields)
  /-- R164. ST stores the low bits of a scalar register into the jet store, raising ACCESS for an address outside it or in the code
  region. -/
  | st (c : CoreId) (f : RFields)
  /-- R163. BR compares s_A and s_B under COND and branches by a word offset. -/
  | br (c : CoreId) (f : RFields)
  /-- R163. JAL jumps by a word offset and writes the return address into D. -/
  | jal (c : CoreId) (f : RFields)
  /-- R163. JALR jumps to s_A plus an offset, raising ACCESS when the target is not a multiple of 4. -/
  | jalr (c : CoreId) (f : RFields)
  /-- R171. FENCE waits until every earlier load, store, ARR and MOVE of the core has been accepted. -/
  | fence (c : CoreId) (d a b : BitVec 5)
  /-- R172. WAITC waits until the chain named in s_A has drained and its drain's last write has been made. -/
  | waitc (c : CoreId) (d a b : BitVec 5)
  /-- R172. The chain awaited by WAITC completes its drain's last write and the core continues. -/
  | waitcEnd (c : CoreId)
  /-- R172. WAITM waits until the mover descriptor with the tag in s_A has completed. -/
  | waitm (c : CoreId) (d a b : BitVec 5)
  /-- R172. The mover descriptor awaited by WAITM completes and the core continues. -/
  | waitmEnd (c : CoreId)
  /-- R196. RETX leaves handler mode and re-executes the instruction at JT_VX_PC from element or row JT_VX_INDEX, and is ILLEGAL outside
  handler mode. -/
  | retx (c : CoreId) (d a b : BitVec 5)
  /-- R192. BREAK raises the BREAK cause. -/
  | breakpoint (c : CoreId) (d a b : BitVec 5)
  /-- R197. HALT ends an update kernel, or in handler mode halts the jet with its cause registers as they stand. -/
  | halt (c : CoreId) (d a b : BitVec 5)
  /-- R610. A CSR read operation returns the register's value into D. -/
  | csrRead (c : CoreId) (d a : BitVec 5) (off : BitVec 14)
  /-- R610. A CSR write operation returns the old value, writes RW fields from s_A and clears W1C bits where s_A holds 1. -/
  | csrWrite (c : CoreId) (d a : BitVec 5) (off : BitVec 14)
  /-- R610. A CSR set-bits operation returns the old value and sets RW bits where s_A holds 1. -/
  | csrSet (c : CoreId) (d a : BitVec 5) (off : BitVec 14)
  /-- R610. A CSR clear-bits operation returns the old value and clears RW and W1C bits where s_A holds 1. -/
  | csrClear (c : CoreId) (d a : BitVec 5) (off : BitVec 14)
  /-- R167. FSC applies one floating-point function to a scalar element, giving the same bits and flags as element 0 of the vector
  operation. -/
  | fsc (c : CoreId) (f : RFields)
  /-- R170. VLD loads 512 × G consecutive bytes of the jet store into a register group. -/
  | vld (c : CoreId) (f : RFields)
  /-- R170. VST stores a register group into 512 × G consecutive bytes of the jet store. -/
  | vst (c : CoreId) (f : RFields)
  /-- R165. VFP applies the floating-point function F5 element by element in binary64, binary32 or JF16. -/
  | vfp (c : CoreId) (f : RFields)
  /-- R163. VFMA computes VA × VB + VC element by element with one rounding. -/
  | vfma (c : CoreId) (f : RFields)
  /-- R163. VFMS computes VA × VB − VC element by element with one rounding. -/
  | vfms (c : CoreId) (f : RFields)
  /-- R163. VFNMA computes −(VA × VB) + VC element by element with one rounding. -/
  | vfnma (c : CoreId) (f : RFields)
  /-- R165. VINT applies the integer function F5 element by element, wrapping modulo 2^w. -/
  | vint (c : CoreId) (f : RFields)
  /-- R180. VRED forms the sum by the reference tree, or the maximum or minimum with its index, of a register group and writes scalar
  registers. -/
  | vred (c : CoreId) (f : RFields)
  /-- R182. VCVT converts elements between two element types under the rounding RND names. -/
  | vcvt (c : CoreId) (f : RFields)
  /-- R183. VCVTB encodes a group into a block format or a plain integer format. -/
  | vcvtb (c : CoreId) (f : RFields)
  /-- R184. VCVTW widens block or plain integer codes to binary64, binary32 or JF16. -/
  | vcvtw (c : CoreId) (f : RFields)
  /-- R185. VCVTSB converts binary64 or binary32 elements to SB64 or SB32 planes and exponents. -/
  | vcvtsb (c : CoreId) (f : RFields)
  /-- R189. VRAND writes draws from vector lanes 0 to 63 as raw integers or uniform values. -/
  | vrand (c : CoreId) (f : RFields)
  /-- R609. VSPLAT writes the low bits of a scalar register into every element of VD. -/
  | vsplat (c : CoreId) (d a b : BitVec 5) (lo : BitVec 6)
  /-- R609. VGET writes element s_B of VA into a scalar register. -/
  | vget (c : CoreId) (d a b : BitVec 5) (lo : BitVec 6)
  /-- R609. VPUT writes the low bits of a scalar register into element s_B of VD. -/
  | vput (c : CoreId) (d a b : BitVec 5) (lo : BitVec 6)
  /-- R173. ARR pushes a 16-byte pass descriptor onto an array queue, waiting while the queue holds 16. -/
  | arr (c : CoreId) (f : RFields)
  /-- R173. An ARR waiting at a full array queue finds room and pushes its descriptor. -/
  | arrWaitEnd (c : CoreId)
  /-- R175. MOVE queues a mover descriptor and writes its tag to D, waiting while the mover queue holds 32. -/
  | move (c : CoreId) (f : RFields)
  /-- R175. A MOVE waiting at a full mover queue finds room and queues its descriptor. -/
  | moveWaitEnd (c : CoreId)
  /-- R176. PCOMB forms node_add of two sets of RAW row records and writes the result records. -/
  | pcomb (c : CoreId) (f : RFields)
  /-- R177. VSPOUT applies the spout steps to RAW row records under a spout descriptor, drawing from the named array's lanes. -/
  | vspout (c : CoreId) (f : RFields)
  /-- R177. A VSPOUT waiting for its array's queue to empty and its tiles to be IDLE starts. -/
  | vspoutWaitEnd (c : CoreId)
  /-- R172. A rill-core load or store held on a pending pass read, drain write or mover range proceeds once the condition clears. -/
  | hazardHoldEnd (c : CoreId) (cycles : Nat)
  /-- R195. A pending ARRAY_FAULT or MOVER_FAULT is taken at an instruction boundary while IN_HANDLER is 0. -/
  | asyncCauseTake (c : CoreId)
  /-- R191. The firmware writes JT_RNGk_STATE, accepted only while PHASE reads IDLE and otherwise ignored and logged. -/
  | laneStateWrite (c : CoreId) (k : Fin 192) (v : W64)
  /-- R304. The firmware writes a held-bank lane state, accepted only while PHASE reads IDLE or RESERVE. -/
  | heldLaneWrite (r : Fin 2) (n : Fin 16) (k : Fin 64) (v : W64)
  /-- R104. A pass descriptor at the head of an array queue starts on its tile, or is held for a tile in use, or completes with an array
  fault. -/
  | queueHeadPass (j : Fin 160) (n : Fin 8)
  /-- R92. A shadow stationary load begins as soon as the shadow bank is free and streams one row per cycle. -/
  | shadowLoadStart (j : Fin 160) (n : Fin 8)
  /-- R92. The sixteenth shadow row is written and the shadow bank is loaded. -/
  | shadowLoadDone (j : Fin 160) (n : Fin 8)
  /-- R93. The shadow bank becomes active in the later of the cycle after the last old vector left multiply and the cycle after the load
  completed. -/
  | bankSwap (j : Fin 160) (n : Fin 8) (stall : Nat)
  /-- R97. A pass's last vector is accumulated and the pass acts on its BLOCK_END, SEG_END and LAST flags. -/
  | passComplete (j : Fin 160) (n : Fin 8)
  /-- R113. A spout begins a tile in DRAIN_WAIT, with its lockstep partner for BLOCK_DIR 1, reading one row per cycle. -/
  | spoutDrainStart (j : Fin 160) (n : Fin 8) (t : TileId)
  /-- R103. The last row leaves the spout's first step and the tile clears and returns to IDLE. -/
  | tileReturnIdle (j : Fin 160) (n : Fin 8) (t : TileId)
  /-- R113. The drain's last result is written to the jet store, releasing stores and WAITC held on it. -/
  | drainLastWrite (j : Fin 160) (n : Fin 8) (t : TileId)
  /-- R145. The gap counter reaches zero, the chain is sampled and copied into the sentinel buffer, and a new gap is drawn. -/
  | sentinelSample (d : Fin 4)
  /-- R147. The sentinel saves an idle array's banks and starts recomputing the sample as an SB64 chain. -/
  | sentinelRecomputeStart (d : Fin 4) (j : Fin 40) (n : Fin 8)
  /-- R147. A program descriptor entering a sentinel-used array's queue makes the sentinel release the array at the end of its pass and
  restore the banks. -/
  | sentinelPreempt (d : Fin 4)
  /-- R148. The sentinel compares the recomputed reference with the tile output, counts, and logs a disagreement. -/
  | sentinelCompare (d : Fin 4)
  /-- R152. A write to BS_SNT_SEED reloads the sentinel generator and draws a new gap. -/
  | sentinelSeedWrite (d : Fin 4) (v : W32)
  /-- R150. Writing 0 to BS_SNT_CTRL.EN stops sampling and discards any held sample. -/
  | sentinelDisable (d : Fin 4)
  /-- R216. An operation-graph node starts once its predecessors and phase allow it. -/
  | graphNodeStart (node : Nat) (finished : List Nat)
  /-- R258. The mover starts the next descriptor in queue order once no earlier overlapping descriptor is incomplete. -/
  | moverDescriptorStart (j : Fin 160) (hostData : List Byte)
  /-- R258. Every word of a descriptor has reached its destination and the descriptor completes. -/
  | moverDescriptorComplete (j : Fin 160) (tag : W16)
  /-- R260. The scrubber reads the next word of a channel or package, correcting and writing back where needed. -/
  | scrubRead (u : MemUnit) (addr : Nat) (e1 e2 : List Byte)
  /-- R263. A scrub pass ends and the unit's error counts are checked against the map-out limits. -/
  | scrubPassEnd (u : MemUnit)
  /-- R263. A unit leaves three consecutive commands unanswered within 2 µs each and is requested for map-out as dead. -/
  | unitCommandTimeout (u : MemUnit)
  /-- R265. A queued readable map-out proceeds once it fits, withdrawing the region's top, changing the capability table and recording
  MAP_OUT_START. -/
  | mapOutStart (g : MemRegion)
  /-- R266. A granule's copy into reserve rows completes and held accesses to it go to the new place. -/
  | relocationGranuleDone (g : MemRegion) (slot group : Nat)
  /-- R262. During the next pause or idle period the Cistern repairs a hard-error row by post-package repair. -/
  | rowRepair (u : MemUnit) (addr : Nat)
  /-- R261. Every 1 ms each Cistern reports its stack temperature to the Sluice and sets the refresh rate. -/
  | stackTempReport (s : Fin 32) (temp : Int)
  /-- R531. A memory with eye margin below 0.150 UI re-trains at the next pause or idle period, a failure being map-out REASON 0x05. -/
  | memoryRetrain (u : MemUnit) (ok : Bool)
  /-- R296. The dispatcher stages the next record and gradient into a free staging set, writes the group block and enters the update
  kernel. -/
  | recordStage (r : Fin 2) (n : Fin 16) (b : StageFrom)
  /-- R296. On the kernel's HALT the dispatcher zeroes padding, writes the header and the new version, feeds the digest and writes own
  weights through. -/
  | recordWriteback (r : Fin 2) (n : Fin 16)
  /-- R300. Both dispatchers have finished both banks, write-through and digest, and DONE_MASK bit 8 is set. -/
  | updatePassComplete
  /-- R322. The partner's reservoir entry arrives whole, is checked and written to the ring, and RESERVE_ACK is returned. -/
  | reserveEntryReceive (e : ResEntry)
  /-- R322. The sender receives RESERVE_ACK for its entry. -/
  | reserveAckReceive (src : Nat) (step : W64) (records : Nat)
  /-- R324. An entry still missing at the deadline records RESERVE_TIMEOUT naming the silent rank. -/
  | reserveTimeout (silent : Nat)
  /-- R329. An owner receives its partner's held digest and forms its vote. -/
  | heldDigestReceive (src : Nat) (step : W64) (digest : W128)
  /-- R330. The vote all-reduce delivers its result: COMMIT_RESULT is set and the step commits, reverts or waits for the failed rank. -/
  | voteResult (key winner : Nat)
  /-- R331. A STEP_ABORT broadcast arrives and the member reverts to version V and re-runs the step. -/
  | stepAbort (src : RankStep)
  /-- R336. After a commit with K steps since the last pause or SECURE_NOW pending, the sequencer writes PHASE SECURE and stage 1 begins. -/
  | securePauseStart
  /-- R337. A holder receives a piece of a stripe and folds it into its parity share, setting COMPLETE when all stripes have arrived. -/
  | parityPieceReceive (member : Nat) (offset : Nat) (data : List Byte) (digest : W128) (last : Bool)
  /-- R337. A holder's COMPLETE report arrives and the group leaves stage 1 when all G have reported. -/
  | holderCompleteReceive (member : Nat)
  /-- R337. A member whose group has left stage 1 and whose secured copy is written enters stage 2. -/
  | secureStage2Enter
  /-- R337. Every member is in stage 2, DONE_MASK bit 10 is set and the next step begins. -/
  | securePauseEnd (takenUs : Nat)
  /-- R344. The SPARE_JOIN command checks the spare for a rank, sends JOIN to the leader and enters JOINING or refuses. -/
  | spareJoin (n : Fin 8)
  /-- R346. Fill data from a donor arrives at the spare and is written and summed. -/
  | fillStreamReceive (f : FillData)
  /-- R348. The fill ends and its digests are compared, accepting it, filling again, or making the spare REFUSED. -/
  | fillVerify (ownDigest heldDigest securedDigest : W128)
  /-- R362. A frame arrives whole; its ACK and XON are taken, and a DATA frame is accepted or discarded with NAK. -/
  | frameReceive (p : Fin 6) (hdr body : List Byte) (fecOk : Bool) (fecCorr fecUncorr : Nat)
  /-- R363. No ACK advance for 1 µs with frames outstanding resends from the oldest unacknowledged frame. -/
  | retryTimeout (p : Fin 6)
  /-- R364. No frame with a correct HCRC for 10 µs puts the port out of lock. -/
  | heartbeatTimeout (p : Fin 6)
  /-- R364. A lane in use loses clock recovery and the port goes out of lock. -/
  | laneLockLoss (p : Fin 6) (lane : Fin 16)
  /-- R364. A port out of lock for 50 µs without a break declares its link DOWN. -/
  | lockLossTimeout (p : Fin 6)
  /-- R366. Every 1 ms a DOWN or REFUSED port with its bypass open starts a training attempt. -/
  | trainingAttempt (p : Fin 6)
  /-- R366. Training completes with UP, fails to DOWN or is refused with a reason. -/
  | trainingDone (p : Fin 6) (rep : TrainReport)
  /-- R376. At a packet boundary an output port chooses the next ready packet by class priority and deficit round-robin. -/
  | packetSendStart (p : Fin 6)
  /-- R373. A weir receives a whole packet, checks its words, opcode, epoch and hops, and routes or delivers it. -/
  | packetReceive (p : Fin 6)
  /-- R370. A WRITE packet is written at ADDR when its range is open to its SRC, otherwise discarded and counted. -/
  | write (pkt : Packet)
  /-- R395. An ECHO halves the source rate of the named flow. -/
  | echo (dest : BitVec 15) (cls : BitVec 2)
  /-- R388. A RING_NOTICE adds or clears ring breaks once and is passed on along the line. -/
  | ringNotice (p : Fin 6) (dim : Fin 3) (coord span : Nat) (clear : Bool)
  /-- R395. 8 µs without an ECHO raises a flow's rate by 2 GB/s up to 400 GB/s. -/
  | flowRateIncrease (dest : BitVec 15) (cls : BitVec 2)
  /-- R396. Every 100 ns each weir samples receive-buffer occupancy into the histograms. -/
  | rippleSample
  /-- R396. Every 100 µs the histograms close as one ripple record. -/
  | rippleRecordClose
  /-- R397. A MGMT request for ripple records is answered with MGMT packets carrying them. -/
  | rippleMapRequest (src : BitVec 15) (first : W64) (count : Nat)
  /-- R399. In start-up step 7 the Keeper opens the X, Y and Z bypass switches in turn. -/
  | bypassOpen (dim : Fin 3)
  /-- R489. ROUTE_STAGE writes geometry and override entries into the idle route bank. -/
  | routeStage (n : Fin 8) (entries : List W16)
  /-- R384. ROUTE_COMMIT FLIP sets the injection epoch to the staged bank's epoch. -/
  | routeCommitFlip (n : Fin 8)
  /-- R386. ROUTE_COMMIT RELEASE releases a drained epoch and frees its bank for staging. -/
  | routeCommitRelease (n : Fin 8)
  /-- R432. A collective opens on a HELD member under the current epoch. -/
  | collectiveOpen (coll occ : Nat) (op : CollOp) (fmt : CollFmt) (chunks : Nat) (own : Tbl ChunkData)
  /-- R416. A LEAF or PARTIAL chunk arrives and is accepted, or discarded as duplicate, stale or lost. -/
  | chunkReceive (src : Nat) (id : ChunkId) (data : ChunkData) (lost : Bool)
  /-- R416. Once both children are present and the chunk store has room, the engine evaluates a tree node and sends it to its parent. -/
  | nodeEvaluate (coll occ c a m : Nat)
  /-- R417. A RESULT chunk arrives and is forwarded to the next ranks of the fan-out. -/
  | resultReceive (src : Nat) (id : ChunkId) (data : ChunkData) (lost : Bool)
  /-- R418. 50 µs after accepting an unacknowledged chunk the receiver sends the stream's ACK. -/
  | chunkAckTimer (src : Nat) (id : ChunkId)
  /-- R419. An ACK frees the chunks it covers. -/
  | chunkAckReceive (src : Nat) (id : ChunkId) (bitmap : List Bool)
  /-- R419. A chunk unacknowledged for 2 ms is resent, and four unacknowledged resends report the destination as a suspect. -/
  | chunkRetransmit (dest : Nat) (id : ChunkId) (readable : Bool)
  /-- R419. The member holds all outputs and all its chunks are acknowledged. -/
  | collectiveComplete (coll occ : Nat)
  /-- R422. The leader receives a rank's READY and opens the exchange window at half the active ranks. -/
  | ready (rank : Nat) (carried : Bool)
  /-- R422. The window closes, the leader sends START with the absent and carried bitmaps and counts misses. -/
  | exchangeWindowClose
  /-- R423. A member receives START and opens its reduce-scatter, carrying or dropping a left-out contribution. -/
  | start (absent carried : List Nat)
  /-- R428. Every 250 µs a member sends LIVE to its partner and predecessor. -/
  | liveSend
  /-- R428. A LIVE message arrives and renews the sender's liveness. -/
  | live (rank : Nat) (epoch : W32)
  /-- R428. No LIVE from a rank for 750 µs makes the member suspect it and send SUSPECT. -/
  | liveTimeout (rank : Nat)
  /-- R429. A SUSPECT message reaches the lowest-ranked unsuspected rank, which proposes. -/
  | suspect (src : Nat) (epoch : W32) (suspects : List Nat)
  /-- R429. No PROPOSE within 1 ms of suspecting makes the member propose itself. -/
  | suspectWaitTimeout
  /-- R430. A PROPOSE arrives and the rank answers ACCEPT to the lowest proposer. -/
  | propose (src : Nat) (epoch : W32) (suspects : List Nat)
  /-- R430. An ACCEPT arrives at the proposer with the answerer's suspects and entry report. -/
  | accept (src : Nat) (epoch : W32) (suspects : List Nat) (complete : Bool)
  /-- R430. 2 ms after PROPOSE the round ends and the proposer sends COMMIT with quorum or ABANDON. -/
  | roundTimeout
  /-- R433. A member adopts a committed membership table, abandoning earlier collectives and applying the failure outcome. -/
  | commit (table : MembTable) (complete : Bool)
  /-- R434. An ABANDON arrives and the member fences. -/
  | abandon (src : Nat) (epoch : W32)
  /-- R434. 5 ms after answering a PROPOSE without COMMIT or ABANDON the member fences. -/
  | fenceTimeout
  /-- R431. The leader receives a spare's JOIN and runs a round setting the rank to JOINING. -/
  | join (rank : Nat) (addr : BitVec 15)
  /-- R493. The leader receives a forwarded job-wide command and broadcasts its step boundary. -/
  | jobCommandForward (src : Nat) (cmd : JobCmd)
  /-- R493. At the chosen boundary each member applies HALT, SET_POLICY or SECURE_NOW. -/
  | jobCommandApply (cmd : JobCmd) (step : W64)
  /-- R442. The CXL link trains at the highest rate and width available, recording degradation. -/
  | cxlLinkUp (rate width : Nat) (flit256 : Bool)
  /-- R465. The CXL link goes down; host interface state resets, the decoder uncommits and host-window descriptors are held. -/
  | cxlLinkDown
  /-- R465. A CXL hot reset resets the host interface as a link down does. -/
  | hotReset
  /-- R465. An Initiate Function Level Reset resets configuration space and interrupt registers while commands run on. -/
  | flr
  /-- R447. The host commits the HDM decoder, accepted only for the window size, one way and zero skip. -/
  | hdmDecoderCommit (size ways skip : Nat)
  /-- R449. A CXL.mem read of the host window returns data, with poison for a lost word. -/
  | cxlMemRead (line : Nat)
  /-- R449. A CXL.mem write encodes whole lines or merges partial ones into the window. -/
  | cxlMemWrite (line : Nat) (data : List Byte) (enables : W64)
  /-- R448. The host answers a back-invalidation snoop and the waiting device access proceeds. -/
  | bisnpResponse (line : Nat)
  /-- R445. A host snoop is answered with RspIHitI. -/
  | hostSnoop (addr : Nat)
  /-- R445. A CXL.cache request without completion in 50 ms faults its descriptor with REASON 0x06. -/
  | cxlCacheTimeout (j : Fin 160) (tag : W16)
  /-- R464. A descriptor held for a downed link beyond LINK_HOLD faults with REASON 0x06. -/
  | linkHoldExpiry (j : Fin 160) (tag : W16)
  /-- R454. A DOE request is served with discovery or the CDAT. -/
  | doeTableAccess (discovery : Bool)
  /-- R462. Unmasking a vector with its pending bit set sends its message. -/
  | msixVectorUnmask (v : Fin 16)
  /-- R463. Every 1 ms the management plane rewrites the telemetry mirror under SEQ. -/
  | telemetryRewrite
  /-- R474. A write of 1 to GO latches the command, checks it and passes it to its server. -/
  | mailboxGo (n : Fin 8)
  /-- R480. A write of 1 to ABORT aborts a pending or abortable background command, or is discarded. -/
  | mailboxAbort (n : Fin 8)
  /-- R476. A server takes a pending command, sets BUSY and checks its arguments and state. -/
  | serverTake (n : Fin 8)
  /-- R479. A command left PENDING beyond its service timeout completes with NO_SERVICE. -/
  | serviceTimeout (n : Fin 8)
  /-- R477. A background command's server updates PERMILLE and HEARTBEAT at least once per second. -/
  | progressUpdate (n : Fin 8) (permille : Nat)
  /-- R484. IDENTIFY returns the 128-byte identity record. -/
  | identify (n : Fin 8)
  /-- R483. GET_CAPS returns the capability table in ID order. -/
  | getCaps (n : Fin 8)
  /-- R494. GET_EVENT_LOG returns entries of the ring or flash log from FROM_SEQ. -/
  | getEventLog (n : Fin 8)
  /-- R485. STEP_STATUS returns the step commit record and the selected step totals. -/
  | stepStatus (n : Fin 8)
  /-- R487. SET_HOST_WINDOW sets HOST_WINDOW_BYTES and rewrites the CDAT while no program is loaded. -/
  | setHostWindow (n : Fin 8)
  /-- R229. LOAD_PROGRAM pulls and checks an image stage by stage and loads it on acceptance. -/
  | loadProgram (n : Fin 8) (img : Option ImageFile)
  /-- R229. VERIFY_PROGRAM runs every load check and discards the image. -/
  | verifyProgram (n : Fin 8) (img : Option ImageFile)
  /-- R486. RUN imports the checkpoint, seeds lanes, forms the digest key, agrees the image hash and runs the first pause. -/
  | run (n : Fin 8) (cp : Checkpoint) (others : List (List Byte))
  /-- R488. HALT halts the job, unloads the program and releases a fenced module. -/
  | haltCommand (n : Fin 8)
  /-- R228. SET_POLICY changes the selected securing and straggler fields from a chosen step. -/
  | setPolicy (n : Fin 8)
  /-- R336. SECURE_NOW brings the next securing pause forward and completes when it completes. -/
  | secureNow (n : Fin 8)
  /-- R435. MEMBERSHIP_SET installs a membership table, or an empty table releasing the module. -/
  | membershipSet (n : Fin 8) (table : MembTable) (othersIdle : Bool)
  /-- R397. GET_RIPPLE_MAP returns held ripple records from FIRST_INDEX. -/
  | getRippleMap (n : Fin 8)
  /-- R514. SET_POWER_LIMITS sets power, throttle and sag limits within 1 ms and records LIMITS_SET. -/
  | setPowerLimits (n : Fin 8)
  /-- R526. GET_THROTTLE_LOG returns count, duration and last onset of every reason. -/
  | getThrottleLog (n : Fin 8)
  /-- R532. GET_AGEING returns the margin ledger. -/
  | getAgeing (n : Fin 8)
  /-- R529. REPLAN_MARGINS makes a re-plan due at once and completes when every domain is planned. -/
  | replanMargins (n : Fin 8)
  /-- R491. SET_TIME_ANCHOR pairs WALL with UPTIME_NS and BOOT_COUNT and returns the anchor table. -/
  | setTimeAnchor (n : Fin 8)
  /-- R554. SET_POWER_STATE requests Flowing, Trickle, Still or Dry. -/
  | setPowerState (n : Fin 8)
  /-- R553. A power-state transition completes, STATE_NOW changes and POWER_STATE is recorded. -/
  | powerStateChangeDone
  /-- R492. WARM_RESET completes and schedules a warm reset 10 ms later, setting the preserve request if asked. -/
  | warmReset (n : Fin 8)
  /-- R548. A class 3 reset begins: READY falls, the step is copied, memories enter self-refresh and the dies are held. -/
  | warmResetBegin (trigger : Fin 5)
  /-- R571. FW_UPDATE_BEGIN opens an update session over the slot not running. -/
  | fwUpdateBegin (n : Fin 8)
  /-- R571. FW_UPDATE_CHUNK writes image bytes into the slot at an offset. -/
  | fwUpdateChunk (n : Fin 8)
  /-- R571. FW_UPDATE_COMMIT checks the slot and stages it as PENDING with TRIES 1, unless a restart or a reset cuts it off (R572). -/
  | fwUpdateCommit (n : Fin 8) (cut : Bool)
  /-- R578. GET_EVIDENCE snapshots measurements and returns a signed evidence record with the certificate. -/
  | getEvidence (n : Fin 8)
  /-- R494. An ERROR or FATAL entry is copied to the flash log within 10 ms. -/
  | flashLogCopy
  /-- R496. At the end of a millisecond with over 256 entries one EVENTS_DROPPED entry is stored. -/
  | eventsDropped
  /-- R501. A pending ACLK divider switches at an alignment boundary, after the rail is ready and any stretch has released. -/
  | dividerSwitch (d : Fin 10)
  /-- R502. A domain's rail reaches the V_need of the point asked for. -/
  | railRampDone (d : Fin 10)
  /-- R506. A rail falling below the droop threshold starts suppressing every second ACLK edge and holds any divider switch. -/
  | stretchBegin (d : Fin 10)
  /-- R506. The rail stays above the threshold for 100 ns and the stretch releases. -/
  | stretchRelease (d : Fin 10) (edges : Nat)
  /-- R510. A sag warning begins on an input; SAG_WARN# asserts, up-shifts stop and an URGENT entry lowers every domain. -/
  | sagWarn (i : Supply) (mv : Nat)
  /-- R509. An input stays above warning plus hysteresis for 1 ms and the warning clears. -/
  | sagClear (i : Supply) (us : Nat)
  /-- R512. An input falls below its sag reset threshold and the Keeper takes MAIN_POR or AUX_POR. -/
  | sagReset (i : Supply)
  /-- R518. Every 10 µs while the 1 ms mean exceeds PEAK_W an URGENT entry lowers every domain. -/
  | peakControllerStep
  /-- R518. Every 1 ms while the 100 ms mean exceeds l an URGENT entry lowers every domain. -/
  | sustainedControllerStep
  /-- R517. Input above l for 1 s with every domain at the floor records CAP_FLOOR. -/
  | capFloor
  /-- R520. Every 100 µs the management plane reads the hottest junction of each die. -/
  | dieTempSample (die : Fin 7) (temp : Int)
  /-- R521. Every 1 ms above the limit a die or stack ceiling is lowered one point or pace 8. -/
  | thermalCeilingLower (d : Fin 10)
  /-- R521. Every 10 ms below the release level a ceiling is raised one point or pace 8. -/
  | thermalCeilingRaise (d : Fin 10)
  /-- R522. An analog comparator trips at 115 °C die or 105 °C stack, stopping ACLK, the rails and closing the bypass. -/
  | thermalTrip (x : Sensor) (temp : Int)
  /-- R598. A sensor sample is range-checked and applied, setting the coolant limit where flow or inlet is out of range. -/
  | sensorSample (x : Sensor) (v : Int)
  /-- R600. A sensor with 10 discarded samples or 10 silent periods fails, asserting ALERT# and applying its fallback. -/
  | sensorFail (x : Sensor)
  /-- R589. The deglitched FLOW_OK level changes. -/
  | flowOkChange (level : Bool)
  /-- R523. Loss of flow lasting 500 ms in Flowing or 5 s in Trickle or Still triggers an emergency stop. -/
  | flowLossTimeout
  /-- R523. A deglitched LEAK# assertion triggers an emergency stop. -/
  | leakAssert
  /-- R523. Inlet above 45 °C for 1 s triggers an emergency stop. -/
  | inletOvertempTimeout
  /-- R500. The root PLL loses lock and the Keeper takes MAIN_POR. -/
  | pllUnlock
  /-- R555. REFCLK± goes absent and the Keeper switches its time base without losing a count. -/
  | refclkLoss
  /-- R529. 24 h of UPTIME_NS since the last complete plan make a re-plan due. -/
  | replanDue
  /-- R528. During a pause or idle time one domain's V_min is found at each point and guards set or points withdrawn. -/
  | replanDomain (d : Fin 7) (vmins : List Nat)
  /-- R529. 48 h, then every further 24 h, without a complete plan records REPLAN_DEFERRED. -/
  | replanDeferred
  /-- R547. The auxiliary input is present above 10.7 V for 10 ms and everything resets, start-up entering at step 1. -/
  | auxPor
  /-- R547. Main power-on resets every die outside the Keeper island and start-up enters at step 2. -/
  | mainPor (trigger : Fin 5)
  /-- R548. PERST# asserts and a warm reset begins, or Dry is prepared to exit. -/
  | perstAssert
  /-- R548. PERST# releases and the held warm reset enters start-up at step 4, or Dry exits as MAIN_POR. -/
  | perstRelease
  /-- R590. PWR_EN deasserts with rails on; rails go off, bypass closes and MAIN_POR is held in Dry. -/
  | pwrEnDeassert
  /-- R541. PWR_EN asserts, permitting main power enable. -/
  | pwrEnAssert
  /-- R541. Once PWR_EN, the 100 ms main input hold and any required PWR_EN cycle are met, the Keeper raises the main rails. -/
  | mainPowerEnable
  /-- R539. A start-up step completes and the next begins, ending with DATA_READY and READY. -/
  | startupStepAdvance (rep : StepReport)
  /-- R569. The Keeper ROM verifies a slot and boots its Keeper component, or stays in step 1 with ALERT#. -/
  | keeperBoot
  /-- R543. A start-up step fails or exceeds its maximum; the Keeper records STARTUP_FAIL and takes a warm reset, or abandons. -/
  | startupStepTimeout (ms : Nat)
  /-- R591. A change on SLOT_ID pins after the latch is ignored and recorded once per AUX_POR. -/
  | slotIdChanged (v : BitVec 4)
  /-- R594. The I3C controller assigns the Keeper a dynamic address by SETDASA. -/
  | setdasa (addr : BitVec 7)
  /-- R594. The I3C controller assigns the Keeper a dynamic address by ENTDAA. -/
  | entdaa (addr : BitVec 7)
  /-- R596. An MCTP packet arrives and is assembled, or discarded when out of order. -/
  | mctpPacketReceive (src : Byte) (som eom : Bool) (seq : BitVec 2) (tag : BitVec 3) (data : List Byte)
  /-- R596. A partial message without its next packet for 100 ms is discarded and counted. -/
  | mctpReassemblyTimeout (src : Byte)
  /-- R595. Set Endpoint ID assigns the Keeper's MCTP endpoint ID. -/
  | setEndpointId (eid : Byte)
  /-- R595. Get Endpoint ID returns the endpoint ID. -/
  | getEndpointId
  /-- R595. Get MCTP Version Support returns the supported versions. -/
  | getMctpVersionSupport
  /-- R595. Get Message Type Support returns the supported message types. -/
  | getMessageTypeSupport
  /-- R595. GetTID returns the PLDM terminus ID. -/
  | gettid
  /-- R595. GetPLDMVersion returns the PLDM version. -/
  | getpldmversion
  /-- R595. GetPLDMTypes returns the supported PLDM types. -/
  | getpldmtypes
  /-- R595. GetPLDMCommands returns the supported PLDM commands. -/
  | getpldmcommands
  /-- R597. GetSensorReading returns a numeric sensor's reading and state. -/
  | getsensorreading (id : W16)
  /-- R595. GetPDRRepositoryInfo returns the PDR repository information. -/
  | getpdrrepositoryinfo
  /-- R597. GetPDR returns a numeric sensor PDR. -/
  | getpdr (handle : W32)
  /-- R35. The Fountainhead firmware toggles FW_ALIVE, at least every 10 ms, and the Keeper's 1 s hang timer restarts. -/
  | fwAliveToggle
  /-- R547. A fault in the Fountainhead control cores triggers a class 6 firmware restart under R39. -/
  | controlCoreFault
  /-- R555. REFCLK± becomes present again and the Keeper switches its time base back to it without losing or repeating a count, setting
  KP_PIN_STATUS.REFCLK_OK. -/
  | refclkReturn
  /-- R364. A lane in use regains clock recovery, so the port can leave out of lock once frames with a good HCRC arrive. -/
  | laneLockRegain (p : Fin 6) (lane : Fin 16)
  /-- R589. The deglitched LEAK# input returns to its released level and KP_PIN_STATUS.LEAK clears. -/
  | leakRelease
  /-- R399. A de-energised bypass switch reaches its closed position within 8 ms, its position sensor reads closed and both ports of the
  dimension become BYPASSED. -/
  | bypassSwitchClosed (dim : Fin 3)
  /-- R548. The minimum 1 ms hold of a warm reset not driven by PERST# ends and start-up enters at step 4. -/
  | warmResetHoldEnd
  /-- R12. A read of an RC field by the Fountainhead firmware or Keeper returns its value and clears it, keeping an event of the same
  cycle for the next read. -/
  | rcFieldRead (blk : RegBlock) (off : Nat) (arriving : Nat)
  /-- R486. RUN_WAIT elapses before every member has joined and RUN completes with JOB_START on every waiting member, nothing running. -/
  | runWaitExpiry (n : Fin 8)
  /-- R361. A port sends its next 128-byte frame, a DATA frame from the retry stream or an IDLE frame, carrying the current ACK, NAK and
  XON. -/
  | frameTransmit (p : Fin 6)
  deriving DecidableEq, Repr

end Sys2Proof
end

