-- ==== Sys2Proof/Machine/State.lean ====
section
/-! DEFINITION. The state of the module: every register, queue, buffer, counter, mode and pin the spec names.
A field's docstring gives the rule that names it, its width where the type does not show it, and its reset value;
"log n" is the assumption log's row for a value the spec does not give. -/

namespace Sys2Proof.Machine

/-! ## Rill cores -/

/-- Format counters and sticky flags of a jet or an update core (R77, R78). -/
structure Fmt where
  /-- R77 JT_FMT_SAT_CNT, 0x0400. Reset 0. -/
  sat : W32 := 0
  /-- R77 JT_FMT_POISON_CNT, 0x0404. Reset 0. -/
  poison : W32 := 0
  /-- R77 JT_FMT_BLK_UFL_CNT, 0x0408. Reset 0. -/
  blkUfl : W32 := 0
  /-- R77 JT_FMT_UFL_CNT, 0x040C. Reset 0. -/
  ufl : W32 := 0
  /-- R78 JT_FMT_FLAGS bits [3:0]: UFL, BLK_UFL, POISON, SAT. Reset 0. -/
  flags : BitVec 4 := 0
  /-- R78 JT_FMT_FLAGS bit [4], MOVER_CONV_EN. Reset 0. -/
  moverConvEn : Bool := false
  deriving DecidableEq, Repr

/-- Why a core is waiting (R172, R173, R175, R177). -/
inductive HoldKind where
  | chain (c : Nat)
  | tag (t : Nat)
  | arrFull
  | moveFull
  | vspout
  | hazard
  deriving DecidableEq, Repr

/-- A rill core with its store (R156, R284, R198 to R205). -/
structure Core where
  /-- R156 s0 to s31, 64 bits each; s0 is never written. The spec gives no reset value: DESIGN CHOICE 0, log 1. -/
  s : Vector W64 32 := Vector.replicate 32 0
  /-- R156, R158 v0 to v31, 4,096 bits each. No reset value given: DESIGN CHOICE 0, log 1. -/
  v : Vector (BitVec 4096) 32 := Vector.replicate 32 0
  /-- R163, R195 address of the instruction the core executes next, 64 bits. No reset value given: DESIGN CHOICE 0, log 1. -/
  pc : W64 := 0
  /-- R199 JT_VX_CTRL, 0x0104. Reset 0. -/
  ctrl : W32 := 0
  /-- R200 JT_VX_FLAGS, 0x0108. Reset 0. -/
  flags : W32 := 0
  /-- R201 JT_VX_CAUSE, 0x010C. Reset 0. -/
  cause : W32 := 0
  /-- R202 JT_VX_INDEX, 0x0110. Reset 0. -/
  index : W32 := 0
  /-- R203 JT_VX_PC, 0x0118. Reset 0. -/
  vxpc : W64 := 0
  /-- R203 JT_VX_VAL, 0x0120. Reset 0. -/
  val : W64 := 0
  /-- R203 JT_VX_TVEC, 0x0128. Reset 0. -/
  tvec : W64 := 0
  /-- R196 the element, byte or row from which the instruction RETX re-executes starts; 0 for every other. The model's own, reset 0. -/
  resume : Nat := 0
  /-- R195 the instruction RETX resumed has not completed. The model's own, reset false. -/
  resumed : Bool := false
  /-- R197 the core has halted. Reset false. -/
  halted : Bool := false
  /-- R172, R173, R175, R177 what the core waits for, with the command it waits in. Reset none. -/
  held : Option (HoldKind × Instr) := none
  /-- R220 the declared code region: first address and length in bytes. Reset (0, 0), no image loaded. -/
  code : Nat × Nat := (0, 0)
  /-- R205 JT_RNGk_STATE (own bank, R303), by lane. Reset 1. -/
  lanes : Tbl W64 := []
  /-- R205 JT_RNGk_SAVED, by lane. Reset 1. -/
  saved : Tbl W64 := []
  /-- R317 RN_UCn_HRNGk_STATE, held-bank lanes of an update core. Reset 1. -/
  heldLanes : Tbl W64 := []
  /-- R77, R78 the format counters. -/
  fmt : Fmt := {}
  /-- R204 JT_RC_HAZARD_CNT. Reset 0. -/
  hazard : W32 := 0
  /-- R195 pending ARRAY_FAULT causes: array and CHAIN. Reset empty. -/
  pendArray : List (Nat × Nat) := []
  /-- R195 pending MOVER_FAULT causes: tags. Reset empty. -/
  pendMover : List Nat := []
  /-- R82, R248 the jet store or update store, as code-word bytes: byte i of word w at 36 w + i. Reset: every word the zero word (R552). -/
  store : List Host.Cell := []
  /-- R284, R296 the staging set (false A, true B) the update kernel was entered with. Reset none. -/
  staged : Option Bool := none
  /-- R296, R304 the kernel in progress draws from the held-bank lanes. Reset false. -/
  heldBank : Bool := false
  deriving DecidableEq, Repr

/-! ## Arrays -/

/-- A pass descriptor (R90, R173). -/
structure PassDesc where
  mode : Nat
  quad : Bool
  tile : TileId
  chain : Nat
  first : Bool
  blockEnd : Bool
  segEnd : Bool
  last : Bool
  rows : Nat
  khalf : Bool
  sliceX : Nat
  sliceW : Nat
  stat : Nat
  statAddr : Nat
  xAddr : Nat
  spout : Nat
  opX : Nat
  opW : Nat
  zeroBit : Bool
  deriving DecidableEq, Repr

/-- A stationary bank (R92): rows k of columns n, each code with its poison mark, and the unit exponent of each
column's block (R97). An empty list is 16 rows of zero codes without marks. -/
structure Bank where
  codes : List (List (Nat × Bool)) := []
  exps : List Int := []
  deriving DecidableEq, Repr

/-- A tile entry (R96): S or I in `s`, X, P and the 128-bit block register BR (R97), two's complement. -/
structure Entry where
  s : Int := 0
  x : Int := 0
  p : Bool := false
  br : W128 := 0
  deriving DecidableEq, Repr

/-- A tile row (R96, R97): row base RB, 16 bits two's complement, none until set; 16 entries, an empty list being 16 zero entries; the
product exponents of the row's latest pass by column; and in MAX and MIN modes whether an element has been met and the winner
(significand, exponent, index) among those that are not poison. -/
structure TileRow where
  rb : Option W16 := none
  es : List Entry := []
  pe : List Int := []
  win : Option (Int × Int × Nat) := none
  met : Bool := false
  deriving DecidableEq, Repr

/-- Tile states (R103). -/
inductive TileState where
  | idle
  | filling
  | drainWait
  | draining
  deriving DecidableEq, Repr

/-- A set of jet-store bytes a drain will write (R172): first address and length. -/
abbrev Range := Nat × Nat

/-- An accumulator tile (R96 to R103). -/
structure Tile where
  /-- R103 state. Reset IDLE. -/
  state : TileState := .idle
  /-- R103 CHAIN that owns the tile. Reset 0. -/
  chain : Nat := 0
  /-- R90 MODE of the owning chain. Reset 0. -/
  mode : Nat := 0
  /-- R89 the chain runs on a quad. Reset false. -/
  quad : Bool := false
  /-- R90 SPOUT of the owning chain. Reset 0. -/
  spout : Nat := 0
  /-- R113 ROWS of the chain's latest pass. Reset 0. -/
  rows : Nat := 0
  /-- R113 columns of the chain's tiles that lie inside its output tensor; 32 where the loader has given none. Reset 32. -/
  cols : Nat := 32
  /-- R107 elements of the reduction dimension already met by the chain. Reset 0. -/
  kpos : Nat := 0
  /-- R102 segments pushed. Reset 0. -/
  segs : Nat := 0
  /-- R96 the running entries by row; an unlisted row is zero. Reset empty. -/
  run : Tbl TileRow := []
  /-- R102 the segment stack: level and partial, newest first. Reset empty. -/
  stack : List (Nat × Tbl TileRow) := []
  /-- R113, R172 words the drain in progress is still to write. Reset empty. -/
  drainTo : List Range := []
  /-- R172 the chain whose drain is still to write. Reset 0. -/
  drainChain : Nat := 0
  deriving DecidableEq, Repr

/-- A pass that has started (R88): its streaming codes with marks, row by row, the unit exponent of each row's block,
whether it met bytes it cannot use (R608), and whether a swap made for it has taken effect (R93). -/
structure PassRun where
  desc : PassDesc
  x : List (List (Nat × Bool))
  ex : List Int
  fault : Bool
  swapped : Bool := false
  deriving DecidableEq, Repr

/-- A matrix array (R82 to R122). -/
structure Arr where
  /-- R82 the array queue, at most 16, oldest first. Reset empty. -/
  queue : List PassDesc := []
  /-- R88 the pass that streams. Reset none. -/
  running : Option PassRun := none
  /-- R92 the two stationary banks. Reset zero codes. -/
  bank0 : Bank := {}
  bank1 : Bank := {}
  /-- R120 ACTIVE_BANK. Reset 0. -/
  active : Bool := false
  /-- R120 SHADOW: 0 free, 1 loading, 2 loaded. Reset 0. -/
  shadow : Nat := 0
  /-- R608 the shadow load met a stationary code it cannot use. Reset false. -/
  loadFault : Bool := false
  /-- R120 HELD. Reset 0. -/
  held : Bool := false
  /-- R120 IN_QUAD. Reset 0. -/
  inQuad : Bool := false
  /-- R89, R92 a shadow load for a quad pass still in the queue has formed the quad. The model's own, reset false. -/
  formed : Bool := false
  /-- R96 tile A. -/
  tileA : Tile := {}
  /-- R96 tile B. -/
  tileB : Tile := {}
  /-- R121 JT_ARRn_FLAGS: FAULT, XSAT, ISAT_B, ISAT_A. Reset 0. -/
  flags : BitVec 4 := 0
  /-- R122 JT_ARRn_STALL_CNT. Reset 0. -/
  stall : W32 := 0
  /-- R122 JT_ARRn_ISAT_CNT. Reset 0. -/
  isat : W32 := 0
  /-- R122 JT_ARRn_XSAT_CNT. Reset 0. -/
  xsat : W32 := 0
  /-- R122 JT_ARRn_RPOISON_CNT. Reset 0. -/
  rpoison : W32 := 0
  deriving DecidableEq, Repr

/-- A mover descriptor (R256) with its place in the jet store. -/
structure MvDesc where
  src : Nat
  dst : Nat
  rowBytes : Nat
  rows : Nat
  srcStride : Nat
  dstStride : Nat
  tag : Nat
  transpose : Nat
  conv : Bool
  srcJs : Bool
  dstJs : Bool
  optZero : Bool
  srcFmt : Byte
  dstFmt : Byte
  scale : W32
  addr : Nat
  deriving DecidableEq, Repr

/-- A jet (R82). -/
structure Jet where
  /-- R82 the rill core. -/
  core : Core := {}
  /-- R82 arrays 0 to 7. -/
  arrays : Vector Arr 8 := Vector.replicate 8 {}
  /-- R118 JT_ARR_EN.FUSED_EN, per part: DESIGN CHOICE 0xFF, log 2. -/
  fused : Byte := 0xFF
  /-- R118 JT_ARR_EN.TEST_EN, per part: DESIGN CHOICE 0xFF, log 2. -/
  test : Byte := 0xFF
  /-- R175 the mover queue, at most 32, oldest first. Reset empty. -/
  mvQueue : List MvDesc := []
  /-- R258 descriptors started and not complete. Reset empty. -/
  mvActive : List MvDesc := []
  /-- R464 tags of descriptors held for the host link. Reset empty. -/
  mvHeld : List Nat := []
  /-- R448 the snoops for the descriptor at the head of the queue have been issued. Reset false. -/
  mvSnooped : Bool := false
  /-- R281 JT_MV_FAULT_INFO: TAG and REASON. Reset 0. -/
  mvInfo : W32 := 0
  /-- R282 JT_MV_FAULT_ADDR. Reset 0. -/
  mvAddr : W64 := 0
  /-- R113, R235 columns inside the output tensor of the chains that the loader has placed, by CHAIN. Reset empty. -/
  chainCols : Tbl Nat := []
  /-- R90 where the loader put the spout descriptors, 64 bytes each by index (log 12). Reset 0. -/
  spoutBase : Nat := 0
  deriving DecidableEq, Repr

/-! ## Basin dies -/

/-- A sample the tile sentinel holds (R146). -/
structure Sample where
  jet : Nat
  array : Nat
  tile : TileId
  chain : Nat
  cls : Nat
  mode : Nat
  quad : Bool
  step : W64
  passes : List (PassRun × List Bank)
  outs : List (List (Option Rat))
  scale : List (Option Nat)
  bias : List (Option Nat)
  lo : Nat
  hi : Nat
  drained : Bool
  deriving DecidableEq, Repr

/-- The tile sentinel of a basin die (R144 to R155). -/
structure Sentinel where
  /-- R150 BS_SNT_CTRL.EVENT_LIMIT. Reset 0x01. -/
  eventLimit : Byte := 1
  /-- R150 BS_SNT_CTRL.LOG2N. Reset 0x0C. -/
  log2n : BitVec 5 := 0x0C
  /-- R150 BS_SNT_CTRL.EN. Reset 1. -/
  en : Bool := true
  /-- R151 BS_SNT_THRESH. Reset: the fields' values. -/
  thresh : W64 := BitVec.ofNat 64 (0x0C + 0x05 * 2^5 + 0x02 * 2^10 + 0x05 * 2^15 + 0x02 * 2^20 + 0x08 * 2^25 + 0x14 * 2^30)
  /-- R152 BS_SNT_SEED. Reset 1. -/
  seed : W32 := 1
  /-- R145 the generator, loaded from BS_SNT_SEED and stepped for the first gap (DESIGN CHOICE, log 30). -/
  gen : W32 := 270369
  /-- R145 the gap counter: the gap drawn from the reset seed with N = 2^12 (DESIGN CHOICE, log 30). -/
  gap : Nat := 1 + 270369 % (2 * 4096 - 1)
  /-- R145 the chain whose FIRST pass brought the gap to zero: jet, array, tile, CHAIN. Reset none. -/
  due : Option (Nat × Nat × TileId × Nat) := none
  /-- R146 the sample held; BUSY reads 1 while there is one. Reset none. -/
  sample : Option Sample := none
  /-- R147 the array the sentinel runs on and its banks as saved: jet, array, active bank, shadow bank. Reset none. -/
  runsOn : Option (Nat × Nat × Bank × Bank) := none
  /-- R153 BS_SNT_SAMPLED_CNT. Reset 0. -/
  sampled : W32 := 0
  /-- R153 BS_SNT_DISAGREE_CNT. Reset 0. -/
  disagree : W32 := 0
  /-- R153 BS_SNT_SKIP_CNT. Reset 0. -/
  skip : W32 := 0
  /-- R153 BS_SNT_PREEMPT_CNT. Reset 0. -/
  preempt : W32 := 0
  /-- R154 BS_SNT_LOG_HEAD.NEXT. Reset 0. -/
  next : BitVec 4 := 0
  /-- R154 BS_SNT_LOG_HEAD.WRAPPED. Reset 0. -/
  wrapped : Bool := false
  /-- R155 the log entries: BS_SNT_LOGk_STEP and BS_SNT_LOGk_WHERE. Reset 0. -/
  log : Tbl (W64 × W64) := []
  /-- R149 disagreements counted in the current GLOBAL_STEP: the step and the count. Reset (0, 0). -/
  inStep : W64 × Nat := (0, 0)
  deriving DecidableEq, Repr

/-- A channel or package (R274, R275, R280). -/
structure UnitSt where
  /-- R262, R274 spare rows left by bank, which SPARE_ROWS sums. Per part: DESIGN CHOICE none, log 2. -/
  spares : Tbl Nat := []
  /-- R274 REASON, per part: DESIGN CHOICE 0, log 2. -/
  reason : Byte := 0
  /-- R274 STATE, per part: DESIGN CHOICE 0 IN_SERVICE, log 2. -/
  state : BitVec 3 := 0
  /-- R275 CE_CNT. Reset 0. -/
  ce : W32 := 0
  /-- R275 HARD_CNT. Reset 0. -/
  hard : W32 := 0
  /-- R275 UE_CNT. Reset 0. -/
  ue : W32 := 0
  /-- R275 LOST_CNT. Reset 0. -/
  lost : W32 := 0
  /-- R275 REPAIR_CNT. Reset 0. -/
  repair : W32 := 0
  /-- R263 corrected words in the scrub pass in progress. Reset 0. -/
  passCe : Nat := 0
  /-- R263 uncorrectable words other than lost words in the pass in progress. Reset 0. -/
  passUe : Nat := 0
  /-- R262, R263 hard-error words not repaired, by their byte address in the unit. Reset empty. -/
  hardAt : List Nat := []
  /-- R263 consecutive commands left unanswered. Reset 0. -/
  silent : Nat := 0
  deriving DecidableEq, Repr

/-- Map-out in one region (R264 to R280). -/
structure RegionSt where
  /-- R276 BS_MAP_STATUS.MAPPED, per part: DESIGN CHOICE 0, log 2. -/
  mapped : Nat := 0
  /-- R267, R276 requests waiting: unit and REASON, in order of arrival. Reset empty. -/
  queue : List (Nat × Nat) := []
  /-- R276 STATE. Reset 0. -/
  state : BitVec 2 := 0
  /-- R276 CHANNEL. Reset 0. -/
  unit : Nat := 0
  /-- R277 BS_MAP_PROGRESS. Reset 0. -/
  progress : W64 := 0
  /-- R268 the unit relocated is dead: the reserve is filled with the lost pattern. Reset false. -/
  dead : Bool := false
  /-- R278 BS_MAP_RATE.RATE, 10 bits. Reset 0x040, and 0x020 on a Runnel die (R280). -/
  rate : Nat := 0x40
  /-- R279 BS_SLOTk where it differs from the manufacture table of R243 and R246. Reset empty, log 2. -/
  slots : Tbl W16 := []
  /-- R242, R266 the units mapped out or being relocated, in the order of their map-outs: with `moved`, the relocation map (log
  54). Class F with `mapped`: DESIGN CHOICE none, log 2. -/
  outs : List Nat := []
  /-- R266, R267 granules (slot, group) that the relocation in progress has copied to their new place. Reset empty. -/
  moved : List (Nat × Nat) := []
  /-- R264 units whose wait has been recorded as MAP_OUT_WAIT. The model's own, reset empty. -/
  waits : List Nat := []
  /-- R265 units' worth of capacity withdrawn. Reset 0. -/
  withdrawn : Nat := 0
  /-- R269 dead check packages of a half, local numbers. Reset empty. -/
  deadCheck : List Nat := []
  deriving DecidableEq, Repr

/-- A stack's Cistern (R271 to R275). -/
structure Cistern where
  /-- R271 CB_SCRUB_CTRL.PERIOD_H. Reset 0x0C. -/
  periodH : Byte := 0x0C
  /-- R271 CB_SCRUB_CTRL.EN. Reset 1. -/
  en : Bool := true
  /-- R272 CB_LIMITS. Reset 0x0810_0400. -/
  limits : W32 := 0x08100400
  /-- R273 CB_TEMP.TEMP, 1/16 degree, two's complement. Reset 0. -/
  temp : W16 := 0
  /-- R261 refresh at twice the base rate. Reset false. -/
  refresh2 : Bool := false
  /-- R275 CB_XPOSE_CNT. Reset 0. -/
  xpose : W32 := 0
  deriving DecidableEq, Repr

/-- A basin die's own registers. -/
structure Basin where
  /-- R122 BS_TILE_CONFLICT_CNT. Reset 0. -/
  conflict : W32 := 0
  /-- R144 the tile sentinel. -/
  snt : Sentinel := {}
  /-- R276 map-out in the die's domain. -/
  map : RegionSt := {}
  /-- R241, R274 the domain's channels. -/
  units : Tbl UnitSt := []
  deriving DecidableEq, Repr

/-! ## Runnel dies -/

/-- What a dispatcher has staged on an update core (R296). -/
structure Staged where
  set : Bool
  held : Bool
  number : Nat
  index : Nat
  group : Nat
  halted : Bool
  deriving DecidableEq, Repr

/-- A Runnel die (R283 to R317, R280, R353). -/
structure Runnel where
  /-- R283 update cores 0 to 15. -/
  cores : Vector Core 16 := Vector.replicate 16 {}
  /-- R296 the record of each core's kernel, and the next one in the other staging set. Reset none. -/
  staged : Tbl Staged := []
  ahead : Tbl Staged := []
  /-- R295 the next record number of each core's own bank. Reset: the core's number. -/
  nextOwn : Tbl Nat := []
  /-- R295 the next record number of each core's held bank. Reset: the core's number. -/
  nextHeld : Tbl Nat := []
  /-- R314 RN_DISP_STATUS.FAULT_CORE. Reset 0. -/
  faultCore : BitVec 4 := 0
  /-- R314 HELD_DONE. Reset 0. -/
  heldDone : Bool := false
  /-- R314 OWN_DONE. Reset 0. -/
  ownDone : Bool := false
  /-- R314 STATE. Reset 0. -/
  state : BitVec 2 := 0
  /-- R315 RN_DISP_OWN_DONE. Reset 0. -/
  ownCount : W64 := 0
  /-- R315 RN_DISP_HELD_DONE. Reset 0. -/
  heldCount : W64 := 0
  /-- R316 RN_FROZEN_SKIP_CNT, RN_STEP_SKEW_CNT, RN_TG_SAT_CNT, RN_STRAG_ABSENT_CNT, RN_STRAG_DROP_CNT, RN_UPD_FAULT_CNT, by position.
  Reset 0. -/
  cnt : Tbl W32 := []
  /-- R353 RN_DIG_OWN. Reset 0. -/
  digOwn : W128 := 0
  /-- R353 RN_DIG_HELD. Reset 0. -/
  digHeld : W128 := 0
  /-- R280 RN_SCRUB_CTRL.PERIOD_H. Reset 0x18. -/
  periodH : Byte := 0x18
  /-- R280 RN_SCRUB_CTRL.EN. Reset 1. -/
  en : Bool := true
  /-- R280 RN_LIMITS. Reset 0x0810_0400. -/
  limits : W32 := 0x08100400
  /-- R280 map-out in the half. -/
  map : RegionSt := { rate := 0x20 }
  /-- R280 RN_PKGp. -/
  units : Tbl UnitSt := []
  deriving DecidableEq, Repr

/-! ## Step, program and survival -/

/-- The step commit record (R26). -/
structure StepRecord where
  /-- R26 GLOBAL_STEP. No reset value given: DESIGN CHOICE 0, log 1. -/
  globalStep : W64 := 0
  /-- R26 PHASE. No reset value given: DESIGN CHOICE 0x00 IDLE, log 1. -/
  phase : Byte := 0
  /-- R26 VERSION_SLOT bit [0]. DESIGN CHOICE 0, log 1. -/
  slot : Bool := false
  /-- R26 MEMB_FLAGS bit [0], HELD. DESIGN CHOICE 0, log 1. -/
  held : Bool := false
  /-- R26 MEMB_EPOCH. DESIGN CHOICE 0, log 1. -/
  epoch : W32 := 0
  /-- R26 DONE_STEP. DESIGN CHOICE 0, log 1. -/
  doneStep : W64 := 0
  /-- R26 DONE_MASK. DESIGN CHOICE 0, log 1. -/
  doneMask : W16 := 0
  /-- R26 COMMIT_RESULT. DESIGN CHOICE 0x00 pending, log 1. -/
  result : Byte := 0
  /-- R26 DIGEST. DESIGN CHOICE 0, log 1. -/
  digest : W128 := 0
  /-- R26 SUSPECT_PUT. DESIGN CHOICE 0, log 1. -/
  put : W16 := 0
  /-- R26 SUSPECT_TAKE. DESIGN CHOICE 0, log 1. -/
  take : W16 := 0
  /-- R26, R29 SUSPECT[0..15]. DESIGN CHOICE 0, log 1. -/
  suspects : Vector W32 16 := Vector.replicate 16 0
  /-- R29 reports the engine keeps while the queue is full, oldest first. Reset empty. -/
  kept : List W32 := []
  /-- R30 FH_STALE_DONE_CNT. Reset 0. -/
  stale : W32 := 0
  deriving DecidableEq, Repr

/-- The t_g tables of the two versions of a shard (R290). Its records lie in the slow tier (R319). -/
structure Shard where
  t0 : List W32 := []
  t1 : List W32 := []
  deriving DecidableEq, Repr

/-- The header of the parity share a holder keeps (R335), and the members whose stripes are whole; the share lies in the slow tier. -/
structure Parity where
  gen : W16 := 0
  complete : Bool := false
  group : Nat := 0
  stripe : Nat := 0
  securedStep : W64 := 0
  len : Nat := 0
  digests : Tbl W128 := []
  lastFrom : List Nat := []
  deriving DecidableEq, Repr

/-- A pass that the loader has placed for a MATMUL node (R117, R133, R217): jet and array, the descriptor, the first segment and
the segments of the chain's run, the output tile, and the tile's columns inside the output tensor. -/
structure Placed where
  node : Nat
  jet : Nat
  array : Nat
  desc : PassDesc
  run : Nat × Nat
  out : Nat
  cols : Nat
  deriving DecidableEq, Repr

/-- A loaded program and the job on it. -/
structure Job where
  /-- R229 the loaded image. Reset none. -/
  image : Option Image := none
  /-- R227, R228 the policy in force. Reset: the defaults of R227 and R228. -/
  policy : Policy := ⟨100, 8, 2, 50, 2, 0⟩
  /-- R244 size of the spread region. Reset 0. -/
  spread : Nat := 0
  /-- R216 nodes of the phase started. Reset empty. -/
  started : List Nat := []
  /-- R216 nodes that have finished. Reset empty. -/
  finished : List Nat := []
  /-- R224 FORWARD nodes of the recompute plan started again in BACKWARD, and those of them that have finished. Reset empty. -/
  rerun : List Nat := []
  rerunDone : List Nat := []
  /-- R117, R133 passes of started MATMUL nodes that wait for room in their array's queue, oldest first. Reset empty. -/
  toPlace : List Placed := []
  /-- R486 RUN has been accepted and the job has not halted. Reset false. -/
  running : Bool := false
  /-- R486 START_STEP. Reset 0. -/
  startStep : W64 := 0
  /-- R486 the mailbox whose RUN is still to complete. Reset none. -/
  runBox : Option Nat := none
  /-- R486 the first rank that RUN still waits for. Reset 0. -/
  runWaits : Nat := 0
  /-- R336 the mailboxes whose SECURE_NOW is still to complete. Reset empty. -/
  secureBoxes : List Nat := []
  /-- R493 the mailboxes whose HALT is still to complete. Reset empty. -/
  haltBoxes : List Nat := []
  /-- R493 the mailboxes whose SET_POLICY waits for the leader's answer. Reset empty. -/
  policyBoxes : List Nat := []
  /-- R493 the step at whose end the job halts. Reset none. -/
  haltAt : Option W64 := none
  /-- R336 steps committed since the previous pause. Reset 0. -/
  sincePause : Nat := 0
  /-- R336 SECURE_NOW received since the previous commit. Reset false. -/
  secureNow : Bool := false
  /-- R336 K and G waiting for the next pause. Reset none. -/
  nextKG : Option (Nat × Nat) := none
  /-- R493 D and the straggler fields waiting for the next step. Reset none. -/
  nextPolicy : Option Policy := none
  /-- R190 the job's 32-byte seed. Reset empty. -/
  seed : List Byte := []
  /-- R326 the digest key H. DESIGN CHOICE 0 before a job, log 1. -/
  key : W128 := 0
  /-- R310 steps run since RUN. Reset 0. -/
  stepsRun : Nat := 0
  /-- R293 the update descriptor of the step. Reset none. -/
  desc : Option UpdateDesc := none
  /-- R288 own gradient records of the step by RECORD_INDEX. Reset empty. -/
  ownGrad : Tbl (List Byte) := []
  /-- R290 own state: its t_g tables. -/
  own : Shard := {}
  /-- R290 the replica held for the preceding rank: its t_g tables. -/
  held : Shard := {}
  /-- R312 the contribution carried: chunk data by chunk number. Reset none. -/
  carried : Option (Tbl ChunkData) := none
  /-- R312 the contribution left out of the step in progress, carried once it commits. Reset none. -/
  leftOut : Option (Tbl ChunkData) := none
  /-- R321 the reservoir ring by slot. Reset empty. -/
  ring : Tbl ResEntry := []
  /-- R325 the entry this module sent last, kept until its step commits. Reset none. -/
  outgoing : Option ResEntry := none
  /-- R325 kept lane sections: JET_LANES_END and CORE_LANES of the newest committed entry. Reset none. -/
  keptLanes : Option (Tbl W64 × Tbl W64) := none
  /-- R324 own entry acknowledged. Reset false. -/
  acked : Bool := false
  /-- R324 predecessor's entry complete. Reset false. -/
  predComplete : Bool := false
  /-- R324 held-bank lanes loaded. Reset false. -/
  heldLoaded : Bool := false
  /-- R328 own and held digests of committed version V. Reset 0. -/
  digestV : W128 := 0
  heldDigestV : W128 := 0
  /-- R328 the held digest of version V + 1. Reset 0. -/
  heldDigest : W128 := 0
  /-- R329 the digest the partner sent for this step. Reset none. -/
  fromPartner : Option W128 := none
  /-- R329 this owner's vote of the step. Reset none. -/
  vote : Option Nat := none
  /-- R330 the vote's result (key and winner) that has arrived and the sequencer has not acted on. Reset none. -/
  decided : Option (Nat × Nat) := none
  /-- R39, R331 what waits for the firmware's restart: a revert, 2 on a STEP_ABORT received, 3 on a fault here, or a halt, 4 on a
  STEP_ABORT of a spare in the step in which it took its rank (R340). Reset none. -/
  abortDue : Option Nat := none
  /-- R340 records of version V (held, RECORD_INDEX) to be copied from the other side of their pair. Reset empty. -/
  repair : List (Bool × Nat) := []
  /-- R332 winner index of a first 0x02 vote of the step. Reset none. -/
  mismatch : Option Nat := none
  /-- R340 a fault of this module already reverted the step. Reset false. -/
  faulted : Bool := false
  /-- R340 ranks that a spare has taken in the step in progress. Reset empty. -/
  joined : List Nat := []
  /-- R337 the t_g table of the secured copy. Reset empty. -/
  securedT : List W32 := []
  /-- R335 the parity share held. -/
  parity : Parity := {}
  /-- R337 member indexes whose COMPLETE has been heard in the pause. Reset empty. -/
  completeFrom : List Nat := []
  /-- R337 the secured copy has been written in the pause. Reset false. -/
  copyWritten : Bool := false
  /-- R341 the failed set F. Reset empty. -/
  failed : List Nat := []
  /-- R335 SECURED_STEP of the newest completed pause. Reset 0. -/
  securedStep : W64 := 0
  /-- R346 the rank whose secured image this holder rebuilds, the XOR of the stripes received by offset, and the members whose stripes
  are whole. Reset none. -/
  rebuild : Option (Nat × Tbl (List Byte) × List Nat) := none
  /-- R348 a fill has failed once. Reset false. -/
  fillFailed : Bool := false
  /-- R344 the rank a spare is to take and the mailbox of its SPARE_JOIN. Reset none. -/
  spareRank : Option (Nat × Nat) := none
  /-- R351 FH_SURV_STATUS.GEN. Reset 0. -/
  gen : W16 := 0
  /-- R351 COVER. Reset 0. -/
  cover : Bool := false
  /-- R350 groups without cover until the next pause completes. Reset empty. -/
  uncovered : List Nat := []
  /-- R351 NO_TERRACE. Reset 0. -/
  noTerrace : Bool := false
  /-- R351 PAUSE. Reset 0. -/
  pause : BitVec 2 := 0
  /-- R351, R345 SPARE. Reset 0. -/
  spare : BitVec 4 := 0
  /-- R351 LAST. Reset 0. -/
  last : BitVec 2 := 0
  /-- R529 UPTIME_NS at the start of the securing pause. Reset 0. -/
  pauseStart : W64 := 0
  /-- R352 FH_PAUSE_STATED_US. Reset 0. -/
  statedUs : W32 := 0
  /-- R352 FH_NEXT_SECURE_STEP. Reset 0. -/
  nextSecure : W64 := 0
  /-- R354 FH_REVERT_CNT, FH_MISMATCH_CNT, FH_FILL_CNT, FH_REBUILD_CNT, FH_SECURE_LATE_CNT, FH_RESERVE_REJECT_CNT, by position. Reset 0. -/
  cnt : Tbl W32 := []
  /-- R79, R485 totals of the 16 latest step boundaries, newest first: GLOBAL_STEP, duration in µs, totals by number. Reset empty. -/
  totals : List (W64 × W64 × Tbl W64) := []
  /-- R485 UPTIME_NS at the start of the step. Reset 0. -/
  stepStart : W64 := 0
  deriving DecidableEq, Repr

/-- The capability table's live entries that no other field gives (R209). -/
structure Caps where
  /-- R209 CAP_GEN. No reset value given: DESIGN CHOICE 0, log 1. -/
  gen : W32 := 0
  /-- R209 HOST_WINDOW_BYTES. No reset value given: DESIGN CHOICE 0, log 1. -/
  hostWindow : Nat := 0
  /-- R209 PORTS. Reset 0: every port is BYPASSED (R406). -/
  ports : BitVec 6 := 0
  /-- R233 CAP_GEN as the load in progress recorded it, and whether its stages have been repeated. Reset none. -/
  loadGen : Option (W32 × Bool) := none
  deriving DecidableEq, Repr

/-! ## Fabric -/

/-- A packet waiting at an output, with the input port and channel whose buffer holds it (R374), none for injection, and the
channel in which R385 counts it. -/
structure Queued where
  pkt : Packet
  src : Option (Fin 6 × Nat)
  v : Nat
  deriving DecidableEq, Repr

/-- An optical port with its weir's buffers (R355 to R366, R405 to R407). -/
structure Port where
  /-- R406 STATE. Reset 0b011 BYPASSED. -/
  state : BitVec 3 := 3
  /-- R406 REFUSE. Reset 0. -/
  refuse : Byte := 0
  /-- R406 RTT_NS. Reset 0. -/
  rtt : W16 := 0
  /-- R405 PEER_ADDR. Reset 0. -/
  peer : BitVec 15 := 0
  /-- R405 PACED. Reset 0. -/
  paced : Bool := false
  /-- R405 LANE_SET. Reset 0. -/
  laneSet : BitVec 2 := 0
  /-- R405 XON_RX. Reset 0xFF. -/
  xonRx : Byte := 0xFF
  /-- R364 lanes in use that have lost clock recovery. Reset none. -/
  lostLanes : W16 := 0
  /-- R364 no frame with a correct HCRC has arrived for 10 µs. Reset false. -/
  silent : Bool := false
  /-- R361, R363 SEQ of the last DATA frame sent, 12 bits. R366 sets it to zero at training; before, DESIGN CHOICE 0, log 1. -/
  txSeq : BitVec 12 := 0
  /-- R360, R362 SEQ of the last DATA frame accepted in order, which ACK carries, 12 bits. R366 sets it to zero at training;
  before, DESIGN CHOICE 0, log 1. -/
  rxSeq : BitVec 12 := 0
  /-- R362 NAK is to go out in the next frame. Reset false. -/
  nak : Bool := false
  /-- R362 NAK has been set for the expected SEQ. Reset false. -/
  nakSent : Bool := false
  /-- R363 the retry buffer: SEQ and body of each frame not acknowledged, oldest first. Reset empty. -/
  retry : List (BitVec 12 × List Byte) := []
  /-- R363 frames of the retry buffer still to be sent again. Reset 0. -/
  resend : Nat := 0
  /-- R364 consecutive retries without the ACK advancing. Reset 0. -/
  retries : Nat := 0
  /-- R359 16-byte units sent, modulo 16. Reset 0. -/
  unit : Nat := 0
  /-- R361 the word stream still to be put into frames. Reset empty. -/
  txStream : List Byte := []
  /-- R389 packets that have a frame in the retry buffer or the stream, with the bytes still to be acknowledged. Reset empty. -/
  inFlight : List (Queued × Nat) := []
  /-- R361 the word stream received. Reset empty. -/
  rxStream : List Byte := []
  /-- R374 words held in the receive buffer of each virtual channel. Reset 0. -/
  rxWords : Tbl Nat := []
  /-- R377 receive buffers that are OFF. Reset none. -/
  off : Byte := 0
  /-- R376 packets waiting for this output, oldest first. Reset empty. -/
  outQ : List Queued := []
  /-- R378 packets started within the last RTT of a PACED port: UPTIME_NS, channel, words; newest first. Reset empty. -/
  sentWin : List (Nat × Nat × Nat) := []
  /-- R376 deficit of each sharing class in words, and the class whose turn it is. Reset: class 0 on its turn with
  its quantum, log 40. -/
  deficit : Tbl Nat := [(0, 65)]
  turn : Nat := 0
  /-- R407 RETRY, NAK, FEC_CORR, FEC_UNCORR, HDR_ERR, WORD_CORR, WORD_LOST, LOST_FWD, MARK and DOWN counters, by position. Reset 0. -/
  cnt : Tbl W32 := []
  deriving DecidableEq, Repr

/-- A route bank (R379). Sizes and coordinates: DESIGN CHOICE 1 and 0 before staging (R402's SIZE resets to 1), log 1. -/
structure RouteBank where
  nx : Nat := 1
  ny : Nat := 1
  nz : Nat := 1
  x : Nat := 0
  y : Nat := 0
  z : Nat := 0
  overrides : Tbl W16 := []
  deriving DecidableEq, Repr

/-- A flow of the source rate control (R395): destination, class, rate in GB/s, UPTIME_NS of its last halving and of the last
ECHO or raise. -/
structure Flow where
  dest : BitVec 15
  cls : BitVec 2
  rate : Rat
  halved : Option W64
  echoed : Option W64
  /-- UPTIME_NS from which its next packet may start. -/
  next : W64 := 0
  deriving DecidableEq, Repr

/-- The weirs (R355 to R407). -/
structure Weir where
  /-- R355 ports 0 to 5. -/
  ports : Vector Port 6 := Vector.replicate 6 {}
  /-- R401 LIVE. Reset 0x1. -/
  live : BitVec 4 := 1
  /-- R401 INJ_EPOCH. Reset 0. -/
  inj : BitVec 2 := 0
  /-- R401 STAGED. Reset 0. -/
  staged : Bool := false
  /-- R379, R383 the banks of even and odd epochs. -/
  bank0 : RouteBank := {}
  bank1 : RouteBank := {}
  /-- R387, R402 known breaks of each ring, at most four. Reset empty. -/
  breaks : Tbl (List Nat) := []
  /-- R387 rings with more than four breaks. Reset none. -/
  tooMany : BitVec 3 := 0
  /-- R403 WR_MARK_THRESH.KIB. Reset 0x30. -/
  markKib : Byte := 0x30
  /-- R404 WR_EPe_VCv_IN at 8e + v. Reset 0. -/
  epIn : Tbl W64 := []
  /-- R404 WR_EPe_VCv_OUT at 8e + v. Reset 0. -/
  epOut : Tbl W64 := []
  /-- R407 STALE_EPOCH, UNREACH, HOPS, ESCAPE, WRITE_REJECT and BAD_OP counters, by position. Reset 0. -/
  cnt : Tbl W32 := []
  /-- R374 messages of the outbox that have joined the injection queues, and the packets that wait there, oldest first. The model's own,
  reset 0 and empty. -/
  taken : Nat := 0
  injQ : List Packet := []
  /-- R395 the flow table, least recently used first, at most 1,024. Reset empty. -/
  flows : List Flow := []
  /-- R394 UPTIME_NS of the last ECHO of each flow, by 4 × SRC + class. Reset empty. -/
  echoAt : Tbl W64 := []
  /-- R370 ranges opened: SRC, first address, length, membership epoch. Reset empty. -/
  opened : List (BitVec 15 × Nat × Nat × W32) := []
  /-- R391 SRC and TAG of the MGMT packets received last, newest first. Reset empty. -/
  mgmtSeen : List (BitVec 15 × W32) := []
  /-- R369 packets delivered to this module, oldest first. The model's own, reset empty. -/
  delivered : List Packet := []
  /-- R396 the histograms in progress, at 128p + 16v + k. Reset 0. -/
  hist : Tbl Nat := []
  /-- R397 ports UP since the interval began. Reset 0. -/
  histUp : BitVec 6 := 0
  /-- R397 the 64 most recent records, oldest first: START_NS, INDEX, PORTS_UP, COUNTS. Reset empty. -/
  records : List (W64 × W64 × BitVec 6 × Tbl Nat) := []
  deriving DecidableEq, Repr

/-! ## Collectives and membership -/

/-- A chunk sent and not acknowledged (R419). -/
structure Sent where
  dest : Nat
  id : ChunkId
  data : ChunkData
  resends : Nat
  deriving DecidableEq, Repr

/-- An open collective (R409 to R421). -/
structure OpenColl where
  coll : Nat
  occ : Nat
  op : CollOp
  fmt : CollFmt
  chunks : Nat
  step : W64
  epoch : W32
  /-- Own contribution by chunk number. -/
  own : Tbl ChunkData
  /-- Node and leaf values present: first leaf, leaves, chunk number, value. -/
  nodes : List (Nat × Nat × Nat × ChunkData)
  /-- Results held by chunk number. -/
  results : Tbl ChunkData
  /-- Leaves left out of the step (R311). -/
  absent : List Nat
  /-- Whether a ring was a line while it ran (R421). -/
  line : BitVec 3
  /-- Nodes evaluated here: first leaf, leaves, chunk number. -/
  evald : List (Nat × Nat × Nat)
  deriving DecidableEq, Repr

/-- A proposal round this member takes part in (R430). -/
structure Round where
  proposer : Nat
  suspects : List Nat
  /-- Answers: rank, its suspects, whether a failed predecessor's entry is complete. -/
  answers : List (Nat × List Nat × Bool)
  /-- A rank whose entry this round sets, with its address and new STATE (R431). -/
  entry : Option (Nat × BitVec 15 × Nat)
  deriving DecidableEq, Repr

/-- The collective engine and the membership logic (R409 to R440). -/
structure Coll where
  /-- R409 open collectives. Reset empty. -/
  opened : List OpenColl := []
  /-- R419 chunks kept until acknowledged. Reset empty. -/
  sent : List Sent := []
  /-- R420 chunk sequence numbers accepted, with sender and whether acknowledged. Reset empty. -/
  accepted : List (Nat × ChunkId × Bool) := []
  /-- R418, R420 chunks accepted for a collective that has not been opened yet: identity and data. The model's own, reset empty. -/
  early : List (ChunkId × ChunkData) := []
  /-- R419 collectives of the step that are complete here, 16 × COLL + occurrence. Reset empty. -/
  finished : List Nat := []
  /-- R409 what a collective delivered last, at 16 × COLL + occurrence, by chunk number: the spec does not give the place of its
  tensor. The model's own, reset empty. -/
  outputs : Tbl (Tbl ChunkData) := []
  /-- R422 ranks whose READY the leader holds, and those with a carried contribution. Reset empty. -/
  readyFrom : List Nat := []
  readyCarried : List Nat := []
  /-- R436 WINDOW. Reset 0. -/
  window : Bool := false
  /-- R422 UPTIME_NS when the window opened. Reset 0. -/
  openNs : W64 := 0
  /-- R423 the absent and carried sets of the step's START. Reset none. -/
  started : Option (List Nat × List Nat) := none
  /-- R312, R313 ranks that carry a contribution left out of the latest step. Reset empty. -/
  carrying : List Nat := []
  /-- R423 consecutive misses by rank. Reset 0. -/
  misses : Tbl Nat := []
  /-- R310 exchange times of the last 31 committed steps in µs, newest first. Reset empty. -/
  times : List Nat := []
  /-- R422 UPTIME_NS when START was sent, and the exchange time of the step in µs. Reset 0. -/
  startNs : W64 := 0
  exchUs : Nat := 0
  /-- R439 FH_EXCH_MEDIAN_US. Reset 0. -/
  median : W32 := 0
  /-- R425 the membership table. Reset none. -/
  table : Option MembTable := none
  /-- R437 RANK. Reset 0. -/
  rank : Nat := 0
  /-- R438 STATE. Reset 0. -/
  state : BitVec 3 := 0
  /-- R428 ranks suspected. Reset empty. -/
  suspects : List Nat := []
  /-- R428 ranks from which a LIVE has arrived and the UPTIME_NS of the last. Reset empty. -/
  lives : Tbl W64 := []
  /-- R430 the round in progress. Reset none. -/
  round : Option Round := none
  /-- R431 JOIN requests waiting at the leader. Reset empty. -/
  joins : List (Nat × BitVec 15) := []
  /-- R440 RETX, DUP, STALE, LOST, ABANDON, LINE, FMT, ROUND, FAIL and FENCE counters, by position. Reset 0. -/
  cnt : Tbl W32 := []
  deriving DecidableEq, Repr

/-! ## Host interface -/

/-- The CXL port (R441 to R465). -/
structure Cxl where
  /-- R459 RATE. Reset 0 down. -/
  rate : BitVec 3 := 0
  /-- R459 WIDTH. Reset 0. -/
  width : BitVec 5 := 0
  /-- R459 DEGRADED. Reset 0. -/
  degraded : Bool := false
  /-- R441 the CXL protocols are enabled. Reset false. -/
  enabled : Bool := false
  /-- R447 the HDM decoder is committed. No reset value given: DESIGN CHOICE false, log 1. -/
  committed : Bool := false
  /-- R447 CXL Commit Error. Reset false. -/
  commitError : Bool := false
  /-- R448 the ownership filter: tracked lines, oldest first. Reset empty. -/
  filter : List Nat := []
  /-- R448 lines with a back-invalidation snoop outstanding. Reset empty. -/
  snoops : List Nat := []
  /-- R454 the CDAT header's sequence number. DESIGN CHOICE 0, log 1. -/
  cdatSeq : Nat := 0
  /-- R460 LINK_HOLD. Reset 0x0A. -/
  linkHold : Byte := 0x0A
  /-- R460 INT_EN. Reset 0. -/
  intEn : Bool := false
  /-- R461 FH_INT_CAUSE. Reset 0. -/
  cause : BitVec 15 := 0
  /-- R461 FH_INT_MASK. Reset all ones. -/
  mask : BitVec 15 := 0x7FFF
  /-- R456, R462 the MSI-X table's vector mask bits. No reset value given: PRESUMED all 1 (PCIe's), log 3. -/
  vecMask : W16 := 0xFFFF
  /-- R456 the words of the MSI-X table other than the vector control words: word k (0 to 2) of entry v at 4 v + k. PRESUMED 0,
  log 3. -/
  msixTable : Tbl W32 := []
  /-- R456, R462 the pending-bit array. PRESUMED 0, log 3. -/
  pba : W16 := 0
  /-- R462 MSI-X enable and function mask of configuration space. PRESUMED 0, log 3. -/
  msixEn : Bool := false
  funcMask : Bool := false
  /-- R463 SEQ of the telemetry mirror. DESIGN CHOICE 0, log 1. -/
  mirrorSeq : W64 := 0
  /-- R463 the mirror's bytes 0x008 to 0x0FF as last rewritten. DESIGN CHOICE empty, log 1. -/
  mirror : List Byte := []
  deriving DecidableEq, Repr

/-- A mailbox (R466 to R482). -/
structure Mailbox where
  /-- R468 FH_MBn_CMD: TAG and OPCODE. Reset 0. -/
  tag : Byte := 0
  opcode : W16 := 0
  /-- R469 LEN, 17 bits. Reset 0. -/
  len : Nat := 0
  /-- R470 MS. Reset 0. -/
  ms : W16 := 0
  /-- R473 ARG0 to ARG7. Reset 0. -/
  args : Vector W64 8 := Vector.replicate 8 0
  /-- R455 buffer n, 64 KiB. Reset zero bytes; a shorter list is filled with zeros. -/
  buf : List Byte := []
  /-- R471 ABORT. Reset 0. -/
  abort : Bool := false
  /-- R472 TAG. Reset 0. -/
  stTag : Byte := 0
  /-- R472 SERVER. Reset 0. -/
  server : BitVec 2 := 0
  /-- R472 STATE. Reset 0 IDLE. -/
  state : BitVec 3 := 0
  /-- R473 RESULT.STATUS. Reset 0. -/
  status : W16 := 0
  /-- R473 RESULT.DETAIL. Reset 0. -/
  detail : W32 := 0
  /-- R473 OUT_LEN, 17 bits. Reset 0. -/
  outLen : Nat := 0
  /-- R473 PERMILLE, 10 bits. Reset 0. -/
  permille : Nat := 0
  /-- R473 HEARTBEAT. Reset 0. -/
  heartbeat : W64 := 0
  /-- R474 the latched OPCODE, LEN and arguments. Reset 0. -/
  lOpcode : W16 := 0
  lLen : Nat := 0
  lArgs : Vector W64 8 := Vector.replicate 8 0
  /-- R491 UPTIME_NS when the server took the command. Reset 0. -/
  taken : W64 := 0
  /-- R578 bytes 0x000 to 0x13F of the evidence record as the server took GET_EVIDENCE. Reset empty. -/
  snapshot : List Byte := []
  deriving DecidableEq, Repr

/-- An event-log entry (R495). -/
structure Event where
  seq : W64
  uptime : W64
  boot : W32
  code : Nat
  severity : Nat
  source : Nat
  step : W64
  args : List Nat
  deriving DecidableEq, Repr

/-- The event log (R494 to R498). -/
structure Log where
  /-- R494 the ring, oldest first, at most 4,096. Reset empty. -/
  ring : List Event := []
  /-- R494 the flash log, oldest first, at most 16,384. Class F: DESIGN CHOICE empty, log 2. -/
  flash : List Event := []
  /-- R494 SEQ of the entries that the flash log has overwritten. The model's own, reset empty. -/
  flashGone : List W64 := []
  /-- R494 ERROR and FATAL entries still to be copied to flash. Reset empty. -/
  toFlash : List Event := []
  /-- R498 FH_EVT_NEXT_SEQ. Reset 0. -/
  nextSeq : W64 := 0
  /-- R498 FH_EVT_CTRL.LEVEL. Reset 0b010. -/
  level : BitVec 3 := 2
  /-- R496 entries that have arrived in the millisecond in progress. Reset 0. -/
  inMs : Nat := 0
  /-- R496 the millisecond of UPTIME_NS that `inMs` and `dropped` count. Reset 0. -/
  msNo : Nat := 0
  /-- R496 entries left out in it. Reset 0. -/
  dropped : Nat := 0
  deriving DecidableEq, Repr

/-! ## Management plane -/

/-- A power domain of the Sluice (R32, R502, R506, R521, R536). -/
structure Dom where
  /-- R536 DIVIDER: 0 to 4 for ÷8 to ÷20. Reset 0. -/
  div : Nat := 0
  /-- R536 PENDING and PEND_VALID. Reset none. -/
  pending : Option Nat := none
  /-- R502 the rail has reached the V_need of the pending point, or need not. Reset true. -/
  railReady : Bool := true
  /-- R502 the point to whose V_need the rail is going. Reset 0. -/
  railTo : Nat := 0
  /-- R536 STRETCH. Reset 0. -/
  stretch : Bool := false
  /-- R536 HOLD. Reset 0. -/
  hold : Bool := false
  /-- R507 UPTIME_NS at the last release of a stretch. Reset 0. -/
  releaseNs : W64 := 0
  /-- R536 PACE. Reset 0x40. -/
  pace : Nat := 64
  /-- R503 the divider point and pace of the budget adopted. Reset 0 and 64. -/
  budgetDiv : Nat := 0
  budgetPace : Nat := 64
  /-- R503 the slowest point and pace that lowerings have asked for since the last adoption. Reset 0 and 64. -/
  lowDiv : Nat := 0
  lowPace : Nat := 64
  /-- R521 the thermal ceiling. Reset 0 and 64: none. -/
  ceilDiv : Nat := 0
  ceilPace : Nat := 64
  /-- R521 a thermal episode is in progress. Reset false. -/
  episode : Bool := false
  /-- R530 the ageing top. Reset 0. -/
  top : Nat := 0
  /-- R537 SL_DOMd_STRETCH_CNT. Reset 0. -/
  stretchCnt : W32 := 0
  /-- R32, R33 URGENT of the entry adopted last. No reset value given: DESIGN CHOICE 0, log 1. -/
  urgent : Bool := false
  /-- R536 BIND. Reset 0xFF. -/
  bind : Byte := 0xFF
  /-- R32 PHASE_TAG. No reset value given: DESIGN CHOICE 0, log 1. -/
  tag : W16 := 0
  /-- R32 ACTIVE_CYCLES of the last interval. DESIGN CHOICE 0, log 1. -/
  cycles : W32 := 0
  /-- R32 BYTES_MOVED of the last interval. DESIGN CHOICE 0, log 1. -/
  bytes : W32 := 0
  /-- R516 sums over the intervals of the occurrence in progress. Reset 0. -/
  occCycles : Nat := 0
  occBytes : Nat := 0
  occCount : Nat := 0
  /-- R517 the domain has taken the pending copy. Reset false. -/
  taken : Bool := false
  /-- R526 what asked for `lowDiv` and `lowPace`: 1 peak controller, 2 sustained controller, 3 a sag step. Reset 0. -/
  capped : Nat := 0
  /-- R517 the budget loop, or PHASE_FIT alone, gave the point: 1 budget, 2 PHASE_FIT. Reset 0. -/
  fit : Nat := 0
  /-- R499 root cycles into the ACLK period, and ACLK cycles since reset (R203). Reset 0. -/
  rootPhase : Nat := 0
  aclk : W64 := 0
  deriving DecidableEq, Repr

/-- A throttle reason (R526, R538). -/
structure Throttle where
  /-- R538 KP_THRc_COUNT. Reset 0. -/
  count : W64 := 0
  /-- R538 active time in ns, from which KP_THRc_DURATION reads in µs. Reset 0. -/
  ns : Nat := 0
  /-- R538 KP_THRc_ONSET. Reset 0. -/
  onset : W64 := 0
  /-- R463 THROTTLE_ACTIVE bit. Reset 0. -/
  active : Bool := false
  deriving DecidableEq, Repr

/-- A divider point of the margin ledger (R505, R528, R532). -/
structure Point where
  vmin : Nat
  vneed : Nat
  guard : Nat
  withdrawn : Bool
  deriving DecidableEq, Repr

/-- The points of a part as made: V_need is per part. DESIGN CHOICE, log 2, after the voltages of the chapter's worked example,
with the 75 mV guard of R505. -/
def Point.made (vneed : Nat) : Point := ⟨vneed - 75, vneed, 75, false⟩

/-- The Sluice and the protections (R499 to R538). -/
structure Sluice where
  /-- R534 SL_LIMITS: THROTTLE_C, PEAK_W, SUSTAINED_W. Reset 0x64, 0x1450, 0x1068. -/
  throttleC : Nat := 0x64
  peakW : Nat := 0x1450
  sustainedW : Nat := 0x1068
  /-- R535 SL_SAG: WARN_MV, RESET_MV. Reset 0xA410, 0x9470. -/
  warnMv : Nat := 0xA410
  resetMv : Nat := 0x9470
  /-- R32 domains 0 to 9. -/
  doms : Vector Dom 10 := Vector.replicate 10 {}
  /-- R33 the pending copy: the tag it was written for, none when no prediction was made, and per domain the divider point,
  the pace and whether PHASE_FIT or the loop gave it. Reset none. -/
  copy : Option (Option W16 × List (Nat × Nat × Nat)) := none
  /-- R537 SL_URGENT_CNT. Reset 0. -/
  urgent : W32 := 0
  /-- R537 SL_MISPREDICT_CNT. Reset 0. -/
  mispredict : W32 := 0
  /-- R516 learned D and U by tag, then domain. Reset empty. -/
  learned : Tbl (Tbl (Rat × Rat)) := []
  /-- R517 the tag that followed each tag last time. Reset empty. -/
  follow : Tbl Nat := []
  /-- R516 measured static power of each domain in W. DESIGN CHOICE 0, log 1. -/
  static : Tbl Rat := []
  /-- R517 power of each domain in W as last measured. DESIGN CHOICE 0, log 1. -/
  power : Tbl Rat := []
  /-- R513 input power samples in mW, newest first, at most 100,000. DESIGN CHOICE empty, log 1. -/
  samples : List Nat := []
  /-- R518 the peak and sustained controllers are stepping. Reset false. -/
  peakOn : Bool := false
  sustainedOn : Bool := false
  /-- R517 a CAP_FLOOR episode is in progress. Reset false. -/
  floorEpisode : Bool := false
  /-- R510 a warning is active on the main and on the auxiliary input. Reset false. -/
  sagMain : Bool := false
  sagAux : Bool := false
  /-- R523 the coolant limit in W; none when flow and inlet are in range. Reset none. -/
  coolant : Option Rat := none
  /-- R523 flow or inlet is out of its range. Reset false. -/
  coolantRange : Bool := false
  /-- R526 the throttle reasons. -/
  thr : Tbl Throttle := []
  /-- R505, R528 the points of the six ACLK domains, at 5 d + k. Per part: DESIGN CHOICE, log 2. -/
  points : Tbl Point := []
  /-- R528 M of the Fountainhead in mV. Per part: DESIGN CHOICE 75, log 2. -/
  hubMargin : Int := 75
  /-- R532 LAST_PLAN_NS. DESIGN CHOICE 0, log 1. -/
  lastPlan : W64 := 0
  /-- R532 PLAN_COUNT. Per part: DESIGN CHOICE 0, log 2. -/
  planCount : W32 := 0
  /-- R529 a re-plan is due, and the domains already planned in it (6 is the hub). Reset false, none. -/
  planDue : Bool := false
  planned : List Nat := []
  /-- R529 times REPLAN_DEFERRED has been recorded since the last complete plan. Reset 0. -/
  deferred : Nat := 0
  /-- R529 the mailboxes whose REPLAN_MARGINS is still to complete. Reset empty. -/
  planBoxes : List Nat := []
  deriving DecidableEq, Repr

/-- A sensor (R598, R600): its last good value and its run of discarded samples. -/
structure SensorSt where
  /-- DESIGN CHOICE 0 before the first sample, log 1. -/
  good : Int := 0
  rejects : Nat := 0
  failed : Bool := false
  deriving DecidableEq, Repr

/-- A PLDM or MCTP message being put together (R596). -/
structure Partial where
  src : Byte
  tag : BitVec 3
  nextSeq : BitVec 2
  data : List Byte
  deriving DecidableEq, Repr

/-- What the Keeper's always-on domain holds (R535 to R563, R588 to R605). -/
structure Keeper where
  /-- R560 FAIL_STEP. Reset 0. -/
  failStep : Nat := 0
  /-- R560 STEP: R560 gives 0; start-up then enters at step 1 (R547), log 4. -/
  step : Nat := 1
  /-- R560 ABANDONED. Reset 0. -/
  abandoned : Bool := false
  /-- R560 TRIGGER. Reset 0. -/
  trigger : Nat := 0
  /-- R560 CLASS. Reset 1. -/
  cls : Nat := 1
  /-- R559 the start-up step at which this start-up entered, and UPTIME_NS then. -/
  entry : Nat := 1
  entryNs : W64 := 0
  /-- R543 UPTIME_NS when the start-up step in progress began. Reset 0. -/
  stepNs : W64 := 0
  /-- R543 failures in the start-up chain. Reset 0. -/
  chainFails : Nat := 0
  /-- R561 KP_UPTIME_NS. Reset 0. -/
  uptime : W64 := 0
  /-- R561 KP_BOOT_COUNT, class F. Reset 0. -/
  boot : W32 := 0
  /-- R562 KP_PRESERVE. Reset 0. -/
  vslot : Bool := false
  pvalid : Bool := false
  pused : Bool := false
  preq : Bool := false
  /-- R563 KP_PRESERVE_STEP. Reset 0. -/
  pstep : W64 := 0
  /-- R35 FW_ALIVE, CTRL_READY and DATA_READY. DESIGN CHOICE 0, log 1. -/
  fwAlive : Bool := false
  ctrlReady : Bool := false
  dataReady : Bool := false
  /-- R39 a firmware restart is in progress. Reset false. -/
  fwRestart : Bool := false
  /-- R38 UPTIME_NS of recent hangs, newest first. Reset empty. -/
  hangs : List W64 := []
  /-- R35 STATE_NOW. Reset 0 (R459). -/
  powerState : Nat := 0
  /-- R35 STATE_REQ while a change is in progress, with the mailbox that asked. Reset none. -/
  stateReq : Option (Nat × Option Nat) := none
  /-- R492 a commanded warm reset waits for its 10 ms. Reset false. -/
  warmPending : Bool := false
  /-- R548 a class 3 reset holds the dies. Reset false. -/
  warmHold : Bool := false
  /-- R541 the main rails are up. Reset false. -/
  rails : Bool := false
  /-- R522 ACLK runs. Reset false. -/
  aclkOn : Bool := false
  /-- R541 a trip or emergency stop asks for PWR_EN deasserted and asserted: 0 none, 1 wait for deassertion, 2 seen. Reset 0. -/
  tripLatch : Nat := 0
  /-- R524, R546 records held for the next start-up: code, severity, arguments. Reset empty. -/
  heldRecords : List (Nat × Nat × List Nat) := []
  /-- R408 ENERGISED. Reset 0. -/
  energised : BitVec 3 := 0
  /-- R399 UPTIME_NS of the last opening of a bypass switch: the model's own, reset 0. -/
  openNs : W64 := 0
  /-- R408 CLOSED. Reset 0b111. -/
  closed : BitVec 3 := 7
  /-- R491 the anchor table, newest first: UPTIME_NS, WALL, BOOT_COUNT. Reset empty. -/
  anchors : List (W64 × W64 × W32) := []
  /-- R604 the inputs as deglitched: FLOW_OK, LEAK, PWR_EN, PERST (asserted). Reset 0, 1, 0, 1. -/
  flowOk : Bool := false
  leak : Bool := true
  pwrEn : Bool := false
  perst : Bool := true
  /-- R604 REFCLK_OK. Reset 0. -/
  refclk : Bool := false
  /-- R588 SLOT_ID pins as deglitched: an undriven pin reads 0. -/
  slotPins : BitVec 4 := 0
  /-- R591, R604 SLOT_ID latched. Reset 0. -/
  slotId : BitVec 4 := 0
  slotChanged : Bool := false
  /-- R36, R604 READY. Reset 0. -/
  ready : Bool := false
  /-- R592 THERMTRIP#. Reset released. -/
  thermtrip : Bool := false
  /-- R569 the ROM found no valid slot. Reset false. -/
  noSlot : Bool := false
  /-- R269 a region is MEM_FATAL; R530 a domain is MARGIN_EXHAUSTED. Reset false. -/
  memFatal : Bool := false
  exhausted : Bool := false
  /-- R598 the sensors, numbered as `sensorNo`. -/
  sensors : Tbl SensorSt := []
  /-- R463, R597 the readings of the numeric sensors at the last rewrite of the telemetry mirror. DESIGN CHOICE none before the first, log
  1. -/
  readings : Tbl Int := []
  /-- R523 a loss of flow is in progress. Reset false. -/
  flowLost : Bool := false
  /-- R605 KP_SENSOR_REJECT_CNT. Reset 0. -/
  rejectCnt : W32 := 0
  /-- R605 KP_MCTP_DROP_CNT. Reset 0. -/
  mctpDrop : W32 := 0
  /-- R594 the I3C dynamic address. Reset none. -/
  dynAddr : Option (BitVec 7) := none
  /-- R594 the MCTP endpoint ID. Reset 0. -/
  eid : Byte := 0
  /-- R596 partly assembled messages, at most one per source endpoint. Reset empty. -/
  partials : List Partial := []
  /-- R596 whole messages still to be answered: source and bytes. Reset empty. -/
  requests : List (Byte × List Byte) := []
  deriving DecidableEq, Repr

/-- Flash, fuses and firmware (R564 to R583). -/
structure Firmware where
  /-- R565 ACTIVE. Per part: DESIGN CHOICE slot A, log 2. -/
  active : Bool := false
  /-- R565 PENDING: none, or a slot. Per part: DESIGN CHOICE none, log 2. -/
  pend : Option Bool := none
  /-- R565 TRIES. Per part: DESIGN CHOICE 0, log 2. -/
  tries : Bool := false
  /-- R565 the record sequence number. Per part: DESIGN CHOICE 0, log 2. -/
  recSeq : W32 := 0
  /-- R565 the other copy of the boot record: ACTIVE, PENDING, TRIES, sequence number. Per part: DESIGN CHOICE 0, log 2. -/
  older : Bool × Option Bool × Bool × W32 := (false, none, false, 0)
  /-- R564 slots A and B; none is a slot marked invalid or never written. Per part: DESIGN CHOICE none, log 2. -/
  slotA : Option SlotImage := none
  slotB : Option SlotImage := none
  /-- R583 RUNNING. Reset 0. -/
  running : Bool := false
  /-- R583 KEY_INDEX of the running slot. Reset 0. -/
  keyIndex : Nat := 0
  /-- R573 the slot running is a trial that has not reached READY. Reset false. -/
  trial : Bool := false
  /-- R582 the start-up step the trial has reached. Reset 0. -/
  trialStep : Nat := 0
  /-- R570 the Keeper component running: its SHA-256. Reset empty. -/
  keeperHash : List Byte := []
  /-- R568 key-hash fuses; none is not programmed. Per part: DESIGN CHOICE none, log 2. -/
  keys : Vector (Option (List Byte)) 4 := Vector.replicate 4 none
  /-- R568 revocation fuses. Per part: DESIGN CHOICE 0, log 2. -/
  revoked : BitVec 4 := 0
  /-- R568 the anti-rollback count. Per part: DESIGN CHOICE 0, log 2. -/
  rollback : Nat := 0
  /-- R575 the identity engine's fuses SK.seed, SK.prf and PK.seed, 16 bytes each. Per part: DESIGN CHOICE empty, log 2. -/
  skSeed : List Byte := []
  skPrf : List Byte := []
  pkSeed : List Byte := []
  /-- R575 the key pair derived at start-up: private key and 32-byte public key. Reset none. -/
  keyPair : Option (List Byte × List Byte) := none
  /-- R571 the update session: slot, length (0 for a slot opened as it stands), granules written. Reset none. -/
  session : Option (Bool × Nat × List Nat) := none
  /-- R571 bytes written into the slot of the session, by address. Reset empty. -/
  image : List Host.Cell := []
  /-- R577 the measurements. Reset empty. -/
  measures : List (List Byte) := []
  /-- R484 firmware versions running: Keeper, Fountainhead, Runnel. Reset 0. -/
  versions : W32 × W32 × W32 := (0, 0, 0)
  deriving DecidableEq, Repr

/-- What a part is made with (R3, R458, R484). Per part: DESIGN CHOICE, log 2. -/
structure Part where
  grade : Nat := 1280
  stepping : Byte := 0
  serial : List Byte := []
  deriving DecidableEq, Repr

/-! ## Messages that leave the module -/

/-- A message the module sends: the model's own record of what crosses its boundary, in order. -/
inductive Msg where
  | frame (p : Nat) (lanes : List Nat) (hdr body : List Byte)
  | packet (dest : Nat) (what : String) (args : List Nat)
  | chunk (dest : Nat) (id : ChunkId) (data : ChunkData)
  | ack (dest : Nat) (id : ChunkId) (bitmap : List Bool)
  | entry (e : ResEntry)
  | descriptor (d : UpdateDesc)
  | fill (dest : Nat) (f : FillData)
  | proposal (dest : Nat) (what : String) (epoch : W32) (ranks : List Nat)
  | table (dest : Nat) (t : MembTable) (complete : Bool)
  | job (dest : Nat) (cmd : JobCmd) (step : W64)
  | notice (p dim coord span : Nat) (clear : Bool)
  | stripe (holder offset : Nat) (data : List (Option (List Byte))) (digest : W128)
  | msix (vector : Nat)
  | cxlMem (line : Nat) (data : List Byte) (poison : Bool)
  | cxlDone (line : Nat)
  | bisnp (line : Nat) (invalidate : Bool)
  | cxlCache (op : String) (addr : Nat) (data : List Byte)
  | snoopRsp (addr : Nat)
  | doe (data : List Nat)
  | mctp (dest : Nat) (what : String) (args : List Int)
  | ripple (dest : Nat) (index : W64)
  deriving DecidableEq, Repr

/-! ## The whole -/

/-- The module. -/
structure State where
  /-- The commands waiting, first in first out. -/
  pending : List Instr
  /-- Data of the last register read (R12, R15), the model's own. Reset 0. -/
  readData : W64
  /-- R15 the high half latched by a low-half read: block, offset, value. Reset none. -/
  latch : Option (RegBlock × Nat × W32)
  /-- Messages sent, oldest first: the model's own. Reset empty. -/
  outbox : List Msg
  /-- Free values taken so far: the model's own, log 5. Reset 0. -/
  freeCount : Nat
  /-- R82, R83 jets by module-wide number. -/
  jets : Vector Jet 160
  /-- R17 basin dies 0 to 3. -/
  basins : Vector Basin 4
  /-- R17 Cisterns of stacks 0 to 31. -/
  cisterns : Vector Cistern 32
  /-- R17 Runnel dies 0 and 1. -/
  runnels : Vector Runnel 2
  /-- R238 the fast and slow tiers as code-word bytes: byte i of the word at device address 32 w at 36 w + i. -/
  tiers : List Host.Cell
  /-- R26 the step commit record. -/
  record : StepRecord
  /-- R206 to R354 the program and the job. -/
  job : Job
  /-- R209 the capability table. -/
  caps : Caps
  /-- R355 to R408 the weirs. -/
  weir : Weir
  /-- R409 to R440 collectives and membership. -/
  coll : Coll
  /-- R441 to R465 the CXL port. -/
  cxl : Cxl
  /-- R466 mailboxes 0 to 7. -/
  boxes : Vector Mailbox 8
  /-- R494 the event log. -/
  log : Log
  /-- R499 to R538 the Sluice. -/
  sluice : Sluice
  /-- R539 to R563, R588 to R605 the Keeper. -/
  keeper : Keeper
  /-- R564 to R583 flash and fuses. -/
  fw : Firmware
  /-- R3, R458 the part. -/
  part : Part
  deriving DecidableEq, Repr

/-- V_need of the five points as made: DESIGN CHOICE, log 2. -/
def madePoints : Tbl Point :=
  (List.range 6).flatMap fun d =>
    [(5 * d, .made 780), (5 * d + 1, .made 720), (5 * d + 2, .made 680), (5 * d + 3, .made 620), (5 * d + 4, .made 580)]

/-- The module right after AUX_POR (R547, R551, R552): every field at the value its register map gives. -/
def State.reset : State where
  pending := []
  readData := 0
  latch := none
  outbox := []
  freeCount := 0
  jets := Vector.replicate 160 {}
  basins := Vector.replicate 4 {}
  cisterns := Vector.replicate 32 {}
  runnels := Vector.replicate 2 {}
  tiers := []
  record := {}
  job := {}
  caps := {}
  weir := {}
  coll := {}
  cxl := {}
  boxes := Vector.replicate 8 {}
  log := {}
  sluice := { points := madePoints }
  keeper := {}
  fw := {}
  part := {}

/-- Why the machine stops. No command of this block raises a fault: an unusable access is an exception or an error flag of
the module, which is a next state. -/
inductive Fault where
  /-- Raised by no command. Safe. -/
  | none
  deriving DecidableEq, Repr

/-- Why a command has no meaning. -/
inductive Refusal where
  /-- Raised by an arm of Dispatch.lean whose command is not modelled yet, named by its mnemonic. Safe. -/
  | notModelled (mnemonic : String)
  deriving DecidableEq, Repr

/-- What a command answers. -/
abbrev Out := Host.Outcome State Fault Refusal

end Sys2Proof.Machine
end

