-- ==== Sys2Proof/Config.lean ====
section
/-! DEFINITION. What the spec leaves open or names by a published standard only: opaque functions, so that no proof can
rest on a value of theirs. -/

namespace Sys2Proof.Config

/-- A value the spec leaves undefined, numbered by the count of values taken before it (log 5). -/
opaque freeWord : Nat → W64

/-- SLH-DSA-SHA2-128f signing (R578): the signature over an evidence record, of the private key and the record (log 6). -/
opaque evidenceSignature : List Byte → List Byte → List Byte

/-- The error that the second read after a corrected demand read meets: what the memory cell then gives (R251, log 5). -/
opaque secondRead : Nat → List Byte

/-- The bank of a unit's byte address, and its row in the bank: the geometry of HBM4 and LP6 parts is not given (R262, log 54). -/
opaque bankOf : Nat → Nat
opaque rowIn : Nat → Nat

/-- The arrays that a part of a grade is made without (R3, log 2): FUSED_EN by jet. -/
opaque fuses : Nat → Nat → Byte

/-- Where the loader places the passes of a MATMUL node, by the image's hash, the arrays enabled on each jet and the node (R117, R133, log
67). -/
opaque matmulPlan : Nat → List Nat → Nat → List Machine.Placed

/-- The drain home, jet and logical array, of a node's output tile, by the image's hash (R235, log 67). -/
opaque drainHome : Nat → Nat → Nat → Nat × Nat

/-- Where the loader places a tensor, by the image's hash and its ID: the address of its word `k` (R240, R247, log 67). -/
opaque tensorWord : Nat → Nat → Nat → Nat

/-- SLH-DSA-SHA2-128s verification (R567, FIPS 205): a public key, a message and a signature. -/
opaque slhVerify : List Byte → List Byte → List Byte → Bool

/-- SLH-DSA-SHA2-128f key generation (R575): the private key and the public key of SK.seed, SK.prf and PK.seed (log 6). -/
opaque slhKeyPair : List Byte → List Byte → List Byte → List Byte × List Byte

/-- The device certificate chain as flash holds it (R580, log 6). -/
opaque deviceCertificate : List Byte

/-- The terminus ID that GetTID returns: the spec gives none (log 41). -/
opaque terminusId : Nat

/-- The version that Get MCTP Version Support and GetPLDMVersion return, by PLDM type, or 256 for MCTP: the spec gives none (log 41). -/
opaque sidebandVersion : Nat → Nat

end Sys2Proof.Config
end

