-- ==== Sys2Proof/Machine/Bits.lean ====
section
/-! DEFINITION. Bit fields, byte order, sign reading and saturating counts: the helpers every meaning uses. -/

namespace Sys2Proof

/-- Add one, stopping at all-ones: every event, error and duration counter (R16). -/
def satInc {w : Nat} (c : BitVec w) : BitVec w := if c = BitVec.allOnes w then c else c + 1#w

/-- Add `n`, stopping at all-ones (R16). -/
def satAdd {w : Nat} (c : BitVec w) (n : Nat) : BitVec w :=
  if c.toNat + n < 2 ^ w then BitVec.ofNat w (c.toNat + n) else BitVec.allOnes w

/-- Bits `[hi:lo]` of a word (R9). -/
def bits {w : Nat} (x : BitVec w) (hi lo : Nat) : Nat := (x.toNat >>> lo) % 2 ^ (hi + 1 - lo)

/-- Replace bits `[hi:lo]` of a word. -/
def setBits {w : Nat} (x : BitVec w) (hi lo : Nat) (v : Nat) : BitVec w :=
  let m : BitVec w := BitVec.ofNat w ((2 ^ (hi + 1 - lo) - 1) * 2 ^ lo)
  (x &&& ~~~ m) ||| (BitVec.ofNat w (v * 2 ^ lo) &&& m)

/-- One bit of a word set or cleared. -/
def setBit {w : Nat} (x : BitVec w) (n : Nat) (b : Bool) : BitVec w := setBits x n n (if b then 1 else 0)

/-- The value of a little-endian byte string (R10). -/
def leNat : List Byte → Nat
  | [] => 0
  | b :: t => b.toNat + 256 * leNat t

/-- The `n` little-endian bytes of a number (R10). -/
def leBytes : Nat → Nat → List Byte
  | 0, _ => []
  | n + 1, v => BitVec.ofNat 8 v :: leBytes n (v / 256)

/-- Two's complement reading of the low `w` bits. -/
def toSigned (w : Nat) (v : Nat) : Int := (BitVec.ofNat w v).toInt

/-- The low `w` bits of an integer, two's complement. -/
def ofSigned (w : Nat) (v : Int) : Nat := (BitVec.ofInt w v).toNat

/-- `n` zero bytes. -/
def zeroBytes (n : Nat) : List Byte := List.replicate n 0#8

/-- A byte string cut or filled with zero bytes to a length. -/
def fitBytes (n : Nat) (l : List Byte) : List Byte := l.take n ++ zeroBytes (n - l.length)

/-- `xs` with position `i` replaced, where there is one. -/
def setAt {α : Type} (xs : List α) (i : Nat) (v : α) : List α := xs.set i v

end Sys2Proof
end

