-- ==== Sys2Proof/Machine/Float.lean ====
section
/-! DEFINITION. The scalar number formats: binary64 and binary32 (R46 to R48), JF16 (R49 to R55) and their rounding
(R72 to R76, R179). Every result is formed exactly and rounded once. -/

namespace Sys2Proof.Machine

/-- Rounding (R179, R182): the five attributes of IEEE 754-2019, and stochastic with its 16-bit number `r` (R73). -/
inductive Rnd where
  | even
  | zero
  | down
  | up
  | away
  | stoch (r : Nat)
  deriving DecidableEq, Repr

/-- The attribute that FRM 0 to 4 names; 5 acts as nearest-even on binary64 and binary32 (R179). -/
def Rnd.ofFrm : Nat → Rnd
  | 1 => .zero
  | 2 => .down
  | 3 => .up
  | 4 => .away
  | _ => .even

/-- `m × 2^e` in units of `2^unit`, rounded to an integer, and whether it was inexact. `sticky` says that the exact
value lies just above `m × 2^e`. -/
def roundUnits (rnd : Rnd) (neg : Bool) (m : Nat) (e unit : Int) (sticky : Bool) : Nat × Bool :=
  if unit ≤ e then (m <<< (e - unit).toNat, sticky)
  else
    let sh := (unit - e).toNat
    let q := m >>> sh
    let rem := m % 2 ^ sh
    let half := 2 ^ (sh - 1)
    let inexact := rem != 0 || sticky
    let up := match rnd with
      | .even => decide (half < rem) || (rem == half && (sticky || q % 2 == 1))
      | .zero => false
      | .down => inexact && neg
      | .up => inexact && !neg
      | .away => decide (half ≤ rem)
      | .stoch r => decide (65536 ≤ rem * 65536 / 2 ^ sh + r)
    (if up then q + 1 else q, inexact)

/-- The weight of the leading bit of `m × 2^e`, as an exponent of two. -/
def topExp (m : Nat) (e : Int) : Int := (Nat.log2 m : Int) + e

/-! ## IEEE binary formats -/

/-- A binary interchange format: fraction bits and exponent bits. -/
structure IFmt where
  fb : Nat
  eb : Nat
  deriving DecidableEq, Repr

/-- binary64. -/
def b64 : IFmt := ⟨52, 11⟩
/-- binary32. -/
def b32 : IFmt := ⟨23, 8⟩

/-- The width of a format. -/
def IFmt.width (f : IFmt) : Nat := 1 + f.eb + f.fb
/-- The exponent of the smallest subnormal. -/
def IFmt.minUnit (f : IFmt) : Int := 2 - (2 ^ (f.eb - 1) : Nat) - (f.fb : Int)
/-- The sign bit's weight. -/
def IFmt.signBit (f : IFmt) : Nat := 2 ^ (f.eb + f.fb)
/-- The code of +infinity. -/
def IFmt.infCode (f : IFmt) : Nat := (2 ^ f.eb - 1) * 2 ^ f.fb
/-- The default quiet NaN (R48). -/
def IFmt.qnan (f : IFmt) : Nat := f.infCode + 2 ^ (f.fb - 1)
/-- A sign put on a magnitude code. -/
def IFmt.signed (f : IFmt) (neg : Bool) (mag : Nat) : Nat := if neg then f.signBit + mag else mag

/-- What a code of a format stands for: a NaN, an infinity, or `± m × 2^e`. -/
inductive Fl where
  | nan (code : Nat)
  | inf (neg : Bool)
  | fin (neg : Bool) (m : Nat) (e : Int)
  deriving DecidableEq, Repr

/-- Read a code (IEEE 754-2019). -/
def IFmt.read (f : IFmt) (c : Nat) : Fl :=
  let c := c % (2 * f.signBit)
  let neg := decide (f.signBit ≤ c)
  let mag := c % f.signBit
  let ex := mag >>> f.fb
  let fr := mag % 2 ^ f.fb
  if ex = 2 ^ f.eb - 1 then (if fr = 0 then .inf neg else .nan c)
  else if ex = 0 then .fin neg fr f.minUnit
  else .fin neg (2 ^ f.fb + fr) (f.minUnit + ((ex : Int) - 1))

/-- Is the code a NaN? -/
def IFmt.isNan (f : IFmt) (c : Nat) : Bool := match f.read c with | .nan _ => true | _ => false
/-- Is the code a signalling NaN? -/
def IFmt.isSnan (f : IFmt) (c : Nat) : Bool :=
  f.isNan c && decide (c / 2 ^ (f.fb - 1) % 2 = 0)
/-- A NaN made quiet (R48). -/
def IFmt.quiet (f : IFmt) (c : Nat) : Nat := if f.isSnan c then c + 2 ^ (f.fb - 1) else c

/-- IEEE flags, bits as in JT_VX_FLAGS (R200): NX, UF, OF, DZ, NV from bit 4 to bit 0. -/
abbrev IFlags := BitVec 5
/-- Invalid. -/
def fNV : IFlags := 1
/-- Divide by zero. -/
def fDZ : IFlags := 2
/-- Overflow. -/
def fOF : IFlags := 4
/-- Underflow. -/
def fUF : IFlags := 8
/-- Inexact. -/
def fNX : IFlags := 16

/-- Round `± m × 2^e` once into a format, with its flags. Tininess is detected after rounding (R47). -/
def IFmt.round (f : IFmt) (rnd : Rnd) (neg : Bool) (m : Nat) (e : Int) (sticky : Bool) : Nat × IFlags :=
  if m = 0 then (f.signed neg 0, 0)
  else
    let top := topExp m e
    let unit := max (top - f.fb) f.minUnit
    let (k, nx) := roundUnits rnd neg m e unit sticky
    let mag := (unit - f.minUnit).toNat * 2 ^ f.fb + k
    if f.infCode ≤ mag then
      let toInf := match rnd with
        | .zero => false
        | .down => neg
        | .up => !neg
        | _ => true
      (f.signed neg (if toInf then f.infCode else f.infCode - 1), fOF ||| fNX)
    else
      let minTop := f.minUnit + f.fb
      let tiny := decide (top < minTop) &&
        !(decide (top + 1 = minTop) && (roundUnits rnd neg m e (top - f.fb) sticky).1 == 2 ^ (f.fb + 1))
      (f.signed neg mag, (if nx then fNX else 0) ||| (if nx && tiny then fUF else 0))

/-- The exact sum of two finite values; an exact zero of unlike signs is +0, and −0 under roundTowardNegative. -/
def finAdd (rnd : Rnd) (n1 : Bool) (m1 : Nat) (e1 : Int) (n2 : Bool) (m2 : Nat) (e2 : Int) : Bool × Nat × Int :=
  let e := if m1 = 0 then e2 else if m2 = 0 then e1 else min e1 e2
  let a : Int := if m1 = 0 then 0 else ((m1 <<< (e1 - e).toNat : Nat) : Int)
  let b : Int := if m2 = 0 then 0 else ((m2 <<< (e2 - e).toNat : Nat) : Int)
  let r := (if n1 then -a else a) + (if n2 then -b else b)
  if r = 0 then ((if n1 == n2 then n1 else rnd == .down), 0, 0) else (decide (r < 0), r.natAbs, e)

/-- The first NaN of the operands made quiet, with invalid when one signals (R48). -/
def IFmt.nanOf (f : IFmt) (ops : List Nat) (invalid : Bool) : Nat × IFlags :=
  ((ops.find? f.isNan).elim f.qnan f.quiet, if invalid || ops.any f.isSnan then fNV else 0)

/-- `± a × b ± c`, rounded once: the negations act on the product and on the addend, never on a NaN (R48, R163). -/
def IFmt.fma (f : IFmt) (rnd : Rnd) (negP negC : Bool) (a b c : Nat) : Nat × IFlags :=
  let zeroInf := match f.read a, f.read b with
    | .inf _, .fin _ 0 _ => true
    | .fin _ 0 _, .inf _ => true
    | _, _ => false
  if f.isNan a || f.isNan b || f.isNan c then f.nanOf [a, b, c] zeroInf
  else if zeroInf then (f.qnan, fNV)
  else
    let prod : Fl := match f.read a, f.read b with
      | .fin n1 m1 e1, .fin n2 m2 e2 => .fin ((n1 != n2) != negP) (m1 * m2) (e1 + e2)
      | .inf n1, .inf n2 => .inf ((n1 != n2) != negP)
      | .inf n1, .fin n2 _ _ => .inf ((n1 != n2) != negP)
      | .fin n1 _ _, .inf n2 => .inf ((n1 != n2) != negP)
      | _, _ => .nan 0
    match prod, f.read c with
    | .inf n, .inf n' => if n == (n' != negC) then (f.signed n f.infCode, 0) else (f.qnan, fNV)
    | .inf n, _ => (f.signed n f.infCode, 0)
    | _, .inf n' => (f.signed (n' != negC) f.infCode, 0)
    | .fin n m e, .fin n' m' e' =>
      let (s, k, x) := finAdd rnd n m e (n' != negC) m' e'
      f.round rnd s k x false
    | _, _ => (f.qnan, 0)

/-- `a + b`, or `a − b`. -/
def IFmt.add (f : IFmt) (rnd : Rnd) (sub : Bool) (a b : Nat) : Nat × IFlags :=
  if f.isNan a || f.isNan b then f.nanOf [a, b] false
  else match f.read a, f.read b with
    | .inf n, .inf n' => if n == (n' != sub) then (f.signed n f.infCode, 0) else (f.qnan, fNV)
    | .inf n, _ => (f.signed n f.infCode, 0)
    | _, .inf n' => (f.signed (n' != sub) f.infCode, 0)
    | .fin n m e, .fin n' m' e' =>
      let (s, k, x) := finAdd rnd n m e (n' != sub) m' e'
      f.round rnd s k x false
    | _, _ => (f.qnan, 0)

/-- `a × b`. -/
def IFmt.mul (f : IFmt) (rnd : Rnd) (a b : Nat) : Nat × IFlags :=
  if f.isNan a || f.isNan b then f.nanOf [a, b] false
  else match f.read a, f.read b with
    | .fin n m e, .fin n' m' e' => f.round rnd (n != n') (m * m') (e + e') false
    | .inf _, .fin _ 0 _ => (f.qnan, fNV)
    | .fin _ 0 _, .inf _ => (f.qnan, fNV)
    | .inf n, .inf n' => (f.signed (n != n') f.infCode, 0)
    | .inf n, .fin n' _ _ => (f.signed (n != n') f.infCode, 0)
    | .fin n _ _, .inf n' => (f.signed (n != n') f.infCode, 0)
    | _, _ => (f.qnan, 0)

/-- `a ÷ b`. -/
def IFmt.div (f : IFmt) (rnd : Rnd) (a b : Nat) : Nat × IFlags :=
  if f.isNan a || f.isNan b then f.nanOf [a, b] false
  else match f.read a, f.read b with
    | .inf _, .inf _ => (f.qnan, fNV)
    | .inf n, .fin n' _ _ => (f.signed (n != n') f.infCode, 0)
    | .fin n _ _, .inf n' => (f.signed (n != n') 0, 0)
    | .fin n m e, .fin n' m' e' =>
      if m' = 0 then (if m = 0 then (f.qnan, fNV) else (f.signed (n != n') f.infCode, fDZ))
      else if m = 0 then (f.signed (n != n') 0, 0)
      else
        let sh := f.fb + 4 + Nat.log2 m'
        let q := (m <<< sh) / m'
        f.round rnd (n != n') q (e - e' - sh) ((m <<< sh) % m' != 0)
    | _, _ => (f.qnan, 0)

/-- The integer square root, one bit of the root per turn from bit `n - 1` down. -/
def isqrtFrom : Nat → Nat → Nat → Nat
  | 0, _, r => r
  | n + 1, x, r => isqrtFrom n x (if (r + 2 ^ n) * (r + 2 ^ n) ≤ x then r + 2 ^ n else r)

/-- The integer square root. -/
def isqrt (x : Nat) : Nat := isqrtFrom (Nat.log2 x / 2 + 1) x 0

/-- The square root of `a`. -/
def IFmt.sqrt (f : IFmt) (rnd : Rnd) (a : Nat) : Nat × IFlags :=
  match f.read a with
  | .nan _ => f.nanOf [a] false
  | .inf n => if n then (f.qnan, fNV) else (f.infCode, 0)
  | .fin n m e =>
    if m = 0 then (f.signed n 0, 0)
    else if n then (f.qnan, fNV)
    else
      let sh := 2 * f.fb + 8 + (e % 2).toNat
      let x := m <<< sh
      let r := isqrt x
      f.round rnd false r ((e - sh) / 2) (r * r != x)

/-- The order of two values that are not NaN, −0 counting as equal to +0. -/
def IFmt.lt (f : IFmt) (a b : Nat) : Bool :=
  let key (c : Nat) : Int :=
    let mag : Int := ((c % f.signBit : Nat) : Int)
    if f.signBit ≤ c % (2 * f.signBit) then -mag else mag
  decide (key a < key b)

/-- minimumNumber, or maximumNumber (R48, R165). −0 lies below +0. -/
def IFmt.minMax (f : IFmt) (max : Bool) (a b : Nat) : Nat × IFlags :=
  let fl : IFlags := if f.isSnan a || f.isSnan b then fNV else 0
  if f.isNan a && f.isNan b then (f.quiet a, fl)
  else if f.isNan a then (b, fl)
  else if f.isNan b then (a, fl)
  else
    let negA := decide (f.signBit ≤ a)
    let negB := decide (f.signBit ≤ b)
    let aLess := f.lt a b || (!f.lt b a && negA && !negB)
    let bLess := f.lt b a || (!f.lt a b && negB && !negA)
    (if max then (if aLess then b else a) else (if bLess then b else a), fl)

/-- compareQuietEqual. -/
def IFmt.cmpEq (f : IFmt) (a b : Nat) : Bool × IFlags :=
  if f.isNan a || f.isNan b then (false, if f.isSnan a || f.isSnan b then fNV else 0)
  else (!f.lt a b && !f.lt b a, 0)

/-- compareSignalingLess, or with `orEq` compareSignalingLessEqual. -/
def IFmt.cmpLt (f : IFmt) (orEq : Bool) (a b : Nat) : Bool × IFlags :=
  if f.isNan a || f.isNan b then (false, fNV)
  else (if orEq then !f.lt b a else f.lt a b, 0)

/-- Narrow binary64 to binary32, or widen (R48). -/
def convertIF (src dst : IFmt) (rnd : Rnd) (c : Nat) : Nat × IFlags :=
  match src.read c with
  | .nan code =>
    let q := src.quiet code
    let neg := decide (src.signBit ≤ q)
    let fr := q % 2 ^ src.fb
    let fr' := if dst.fb ≤ src.fb then fr >>> (src.fb - dst.fb) else fr <<< (dst.fb - src.fb)
    (dst.signed neg (dst.infCode + fr'), if src.isSnan code then fNV else 0)
  | .inf n => (dst.signed n dst.infCode, 0)
  | .fin n m e => dst.round rnd n m e false

/-- An integer converted to a binary format. -/
def intToIF (dst : IFmt) (rnd : Rnd) (v : Int) : Nat × IFlags :=
  dst.round rnd (decide (v < 0)) v.natAbs 0 false

/-- A binary value converted to a signed `w`-bit integer (R182). Of IEEE 754's two forms it is the one
that signals inexact where the value is not an integer (R46 names neither; DESIGN CHOICE, log 71). -/
def ifToInt (src : IFmt) (rnd : Rnd) (w : Nat) (c : Nat) : Int × IFlags :=
  let hi : Int := 2 ^ (w - 1) - 1
  let lo : Int := -(2 ^ (w - 1))
  match src.read c with
  | .nan _ => (0, fNV)
  | .inf n => (if n then lo else hi, fNV)
  | .fin n m e =>
    let (k, nx) := roundUnits rnd n m e 0 false
    let v : Int := if n then -(k : Int) else k
    if hi < v then (hi, fNV) else if v < lo then (lo, fNV) else (v, if nx then fNX else 0)

/-! ## JF16 -/

/-- Format events of a conversion (R77). -/
structure Ev where
  sat : Nat := 0
  poison : Nat := 0
  blkUfl : Nat := 0
  ufl : Nat := 0
  deriving DecidableEq, Repr

/-- Events of two conversions together. -/
def Ev.add (a b : Ev) : Ev := ⟨a.sat + b.sat, a.poison + b.poison, a.blkUfl + b.blkUfl, a.ufl + b.ufl⟩

/-- The JF16 poison code (R50). -/
def jfPoison : Nat := 0x8000

/-- An exact source value of a conversion: poison or a NaN, an infinity, or `± m × 2^e`. -/
inductive Src where
  | poison
  | inf (neg : Bool)
  | fin (neg : Bool) (m : Nat) (e : Int)
  deriving DecidableEq, Repr

/-- A binary value as a source. -/
def IFmt.src (f : IFmt) (c : Nat) : Src :=
  match f.read c with
  | .nan _ => .poison
  | .inf n => .inf n
  | .fin n m e => .fin n m e

/-- Read a JF16 code (R50). -/
def jfRead (c : Nat) : Src :=
  let c := c % 65536
  if c = jfPoison then .poison
  else
    let neg := decide (0x8000 ≤ c)
    let ex := c / 512 % 64
    let fr := c % 512
    if ex = 0 then .fin neg fr (-39) else .fin neg (512 + fr) ((ex : Int) - 40)

/-- Round a source once to JF16 (R51 to R53, R73). -/
def jfRound (rnd : Rnd) (x : Src) : Nat × Ev :=
  match x with
  | .poison => (jfPoison, { poison := 1 })
  | .inf n => (if n then 0xFFFF else 0x7FFF, { sat := 1 })
  | .fin n m e =>
    if m = 0 then (0, {})
    else
      let unit := max (topExp m e - 9) (-39)
      let (k, _) := roundUnits rnd n m e unit false
      let mag := (unit + 39).toNat * 512 + k
      if 0x7FFF < mag then (if n then 0xFFFF else 0x7FFF, { sat := 1 })
      else if mag = 0 then (0, { ufl := 1 })
      else ((if n then 0x8000 else 0) + mag, {})

/-- Widen JF16 exactly (R55). -/
def jfToIF (dst : IFmt) (c : Nat) : Nat :=
  match jfRead c with
  | .fin n m e => (dst.round .even n m e false).1
  | _ => dst.qnan

/-- The exact JF16 result of `± a × b ± c` (R54). -/
def jfFma (rnd : Rnd) (negP negC : Bool) (a b c : Nat) : Nat × Ev :=
  match jfRead a, jfRead b, jfRead c with
  | .fin n1 m1 e1, .fin n2 m2 e2, .fin n3 m3 e3 =>
    let (s, k, x) := finAdd .even ((n1 != n2) != negP) (m1 * m2) (e1 + e2) (n3 != negC) m3 e3
    jfRound rnd (.fin s k x)
  | _, _, _ => jfRound rnd .poison

/-- The order of two JF16 codes that are not poison. -/
def jfLt (a b : Nat) : Bool :=
  let key (c : Nat) : Int :=
    let mag : Int := ((c % 32768 : Nat) : Int)
    if 0x8000 ≤ c then -mag else mag
  decide (key a < key b)

end Sys2Proof.Machine
end

