-- ==== Sys2Proof/Machine/Memory.lean ====
section
/-! DEFINITION. Memory held as code words of the common code (R248 to R253): the byte list in canonical form, the
Reed-Solomon code, and loads and stores of bytes. Word w has its 36 bytes, data then check, at 36 w to 36 w + 35. -/

namespace Sys2Proof.Machine

/-- Code-word bytes by address; an unlisted address reads 0 (R248's zero word, R552). -/
abbrev Mem := List Host.Cell

/-- What an unlisted address reads as: the zero word's bytes (R544, R552). -/
def memDefault : Byte := 0

/-- Read one byte. -/
def memGet : Mem → Nat → Byte
  | [], _ => memDefault
  | (k, v) :: t, a => if k = a then v else memGet t a

/-- Write one byte, keeping the canonical form. -/
def memSet : Mem → Nat → Byte → Mem
  | [], a, v => if v = memDefault then [] else [(a, v)]
  | (k, w) :: t, a, v =>
    if a < k then (if v = memDefault then (k, w) :: t else (a, v) :: (k, w) :: t)
    else if a = k then (if v = memDefault then t else (k, v) :: t)
    else (k, w) :: memSet t a v

/-- The canonical form: addresses strictly rising from `lo`, and no listed byte equal to the default. -/
def Mem.wfFrom : Nat → Mem → Bool
  | _, [] => true
  | lo, (k, v) :: t => decide (lo ≤ k) && decide (v ≠ memDefault) && Mem.wfFrom (k + 1) t

/-- The canonical form. -/
def Mem.wf (m : Mem) : Bool := Mem.wfFrom 0 m

/-- Write consecutive bytes. -/
def memPut : Mem → Nat → List Byte → Mem
  | m, _, [] => m
  | m, a, v :: t => memPut (memSet m a v) (a + 1) t

/-- Read consecutive bytes. -/
def memTake (m : Mem) (a n : Nat) : List Byte := (List.range n).map fun i => memGet m (a + i)

/-! ## The code -/

/-- Double in GF(2^8) modulo 0x11D. -/
def gfDouble (a : Nat) : Nat := let d := 2 * a; if 256 ≤ d then (d ^^^ 0x11D) % 256 else d

/-- Product in GF(2^8): `n` bits of `b` from the top. -/
def gfMulBits : Nat → Nat → Nat → Nat → Nat
  | 0, _, _, acc => acc
  | n + 1, a, b, acc =>
    let d := gfDouble acc
    gfMulBits n a b (if b / 2 ^ n % 2 = 1 then d ^^^ a else d)

/-- Product in GF(2^8). -/
def gfMul (a b : Nat) : Nat := gfMulBits 8 a b 0

/-- Check bytes of 32 data bytes: the remainder of R248, one data byte at a time. -/
def codeChecks : List Nat → Nat × Nat × Nat × Nat → Nat × Nat × Nat × Nat
  | [], r => r
  | d :: t, (r0, r1, r2, r3) =>
    let f := d ^^^ r0
    codeChecks t (r1 ^^^ gfMul f 0x0F, r2 ^^^ gfMul f 0x36, r3 ^^^ gfMul f 0x78, gfMul f 0x40)

/-- Encode a word (R248): its data bytes followed by C0 to C3. -/
def encodeWord (data : List Byte) : List Byte :=
  let (c0, c1, c2, c3) := codeChecks (data.map (·.toNat)) (0, 0, 0, 0)
  data ++ [BitVec.ofNat 8 c0, BitVec.ofNat 8 c1, BitVec.ofNat 8 c2, BitVec.ofNat 8 c3]

/-- c(x) at a point (R249). -/
def syndrome (x : Nat) (w : List Byte) : Nat := w.foldl (fun acc b => gfMul acc x ^^^ b.toNat) 0

/-- Find p with `s0 × α^p = s1`, from p upward. -/
def gfLog : Nat → Nat → Nat → Nat → Option Nat
  | 0, _, _, _ => none
  | n + 1, p, cur, s1 => if cur = s1 then some p else gfLog n (p + 1) (gfDouble cur) s1

/-- The lost pattern (R252). -/
def lostWord : List Byte := zeroBytes 32 ++ [1, 1, 0, 0]

/-- What a checker finds (R249, R252). -/
inductive WordCheck where
  | clean (data : List Byte)
  | corrected (data word : List Byte)
  | lost
  | bad
  deriving DecidableEq, Repr

/-- Check a word of 36 bytes (R249). -/
def checkWord (w : List Byte) : WordCheck :=
  let s0 := syndrome 1 w
  let s1 := syndrome 2 w
  let s2 := syndrome 4 w
  let s3 := syndrome 8 w
  if s0 = 0 ∧ s1 = 0 ∧ s2 = 0 ∧ s3 = 0 then .clean (w.take 32)
  else if w = lostWord then .lost
  else if s0 ≠ 0 ∧ s1 ≠ 0 ∧ s2 ≠ 0 ∧ s3 ≠ 0 ∧ gfMul s1 s1 = gfMul s0 s2 ∧ gfMul s2 s2 = gfMul s1 s3 then
    match gfLog 36 0 s0 s1 with
    | some p =>
      let i := 35 - p
      let w' := setAt w i ((w.getD i 0) ^^^ BitVec.ofNat 8 s0)
      .corrected (w'.take 32) w'
    | none => .bad
  else .bad

/-- The stored bytes of word `w`. -/
def rawWord (m : Mem) (w : Nat) : List Byte := memTake m (36 * w) 36

/-- Store the bytes of word `w`. -/
def putWord (m : Mem) (w : Nat) (b : List Byte) : Mem := memPut m (36 * w) b

/-- The data of word `w`, none when it cannot be used, and the memory after any correction is written back (R251). -/
def readWord (m : Mem) (w : Nat) : Option (List Byte) × Mem :=
  match checkWord (rawWord m w) with
  | .clean d => (some d, m)
  | .corrected d c => (some d, putWord m w c)
  | _ => (none, m)

/-- The data of word `w`, without the write-back. -/
def wordData (m : Mem) (w : Nat) : Option (List Byte) := (readWord m w).1

/-- One byte of memory, none when its word cannot be used. -/
def byteAt (m : Mem) (a : Nat) : Option Byte := (wordData m (a / 32)).map fun d => d.getD (a % 32) 0

/-- Words touched by `n` bytes at `a`. -/
def wordsOf (a n : Nat) : List Nat :=
  if n = 0 then [] else (List.range ((a + n - 1) / 32 + 1 - a / 32)).map (a / 32 + ·)

/-- Write back corrections in a list of words (R251). -/
def scrubWords : Mem → List Nat → Mem
  | m, [] => m
  | m, w :: t => scrubWords (readWord m w).2 t

/-- Read `n` bytes at `a`, none for a byte of a word that cannot be used, with corrections written back. -/
def loadBytes (m : Mem) (a n : Nat) : List (Option Byte) × Mem :=
  let ws := wordsOf a n
  let tbl := ws.map fun w => (w, wordData m w)
  ((List.range n).map fun i => ((tbl.find? fun p => p.1 == (a + i) / 32).bind (·.2)).map fun d => d.getD ((a + i) % 32) 0,
   scrubWords m ws)

/-- Write the bytes of `bs` (at `a`) that fall in word `w`: a whole word is encoded anew, part of a word is merged, and a
word that cannot be merged becomes the lost pattern (R251, R252). -/
def storeInWord (m : Mem) (w a : Nat) (bs : List Byte) : Mem :=
  let covered := decide (a ≤ 32 * w) && decide (32 * w + 32 ≤ a + bs.length)
  let new (d : List Byte) : List Byte :=
    (List.range 32).map fun i =>
      let p := 32 * w + i
      if a ≤ p ∧ p < a + bs.length then bs.getD (p - a) 0 else d.getD i 0
  if covered then putWord m w (encodeWord (new []))
  else match wordData m w with
    | some d => putWord m w (encodeWord (new d))
    | none => putWord m w lostWord

/-- Store into a list of words. -/
def storeInWords : Mem → List Nat → Nat → List Byte → Mem
  | m, [], _, _ => m
  | m, w :: t, a, bs => storeInWords (storeInWord m w a bs) t a bs

/-- Write bytes at `a`. -/
def storeBytes (m : Mem) (a : Nat) (bs : List Byte) : Mem := storeInWords m (wordsOf a bs.length) a bs

/-- The lost pattern put in every word of a range (R252, R255). -/
def storeLost (m : Mem) (a n : Nat) : Mem := (wordsOf a n).foldl (fun m w => putWord m w lostWord) m

end Sys2Proof.Machine
end

