-- ==== Sys2Proof/Machine/Ops.lean ====
section
/-! DEFINITION. The named operations over State: access to units, the event log, interrupts, counters, register access of
a core, and taking an exception. -/

namespace Sys2Proof.Machine

/-! ## Grades (R2 to R4) -/

/-- How many arrays one jet of a grade may lack (R3): none for a number that is no grade. -/
def gradeLimit : Nat → Option Nat
  | 1280 => some 0
  | 1152 => some 1
  | 1024 => some 2
  | _ => none

/-- The arrays that FUSED_EN leaves a jet. -/
def fusedCount (m : Byte) : Nat := (List.range 8).countP fun n => m.getLsbD n

/-- Is this how a grade ships (R3): exactly its number of enabled arrays, and no jet lacking more than it may? -/
def gradeFuses (grade : Nat) (fused : List Byte) : Bool :=
  match gradeLimit grade with
  | some k => (fused.map fusedCount).sum == grade && fused.all fun m => decide (8 ≤ fusedCount m + k)
  | none => false

/-- FUSED_EN of a part of a grade, jet by jet: as that part's fuses have it (R3, R118). Which arrays they leave out is per part; values
that R3 does not allow stand for a part of which 128 jets lack their highest one or two arrays (log 2). -/
def madeFuses (grade : Nat) : List Byte :=
  let part := (List.range 160).map (Config.fuses grade)
  if gradeFuses grade part then part
  else (List.range 160).map fun j => if 128 ≤ j ∨ grade = 1280 then 0xFF else if grade = 1152 then 0x7F else 0x3F

/-- A part of a grade right after its first AUX_POR (R2, R3): the grades differ in nothing but their arrays. -/
def State.made (grade : Nat) : State :=
  let jet (j : Fin 160) : Jet := { fused := (madeFuses grade).getD j.val 0xFF }
  { State.reset with part := { grade := grade }, jets := Vector.ofFn jet }

/-- Does a module have the arrays its grade ships with (R3)? Only FUSED_EN counts: the self-test's results are R4's. -/
def State.gradeOk (s : State) : Bool := gradeFuses s.part.grade (s.jets.toList.map (·.fused))

/-! ## Units -/

/-- A vector with one element replaced. -/
def vset {α : Type} {n : Nat} (v : Vector α n) (i : Fin n) (x : α) : Vector α n := v.set i.val x i.isLt

/-- Jet `j` (R83). -/
def State.jet (s : State) (j : Fin 160) : Jet := s.jets.get j
/-- Jet `j` replaced. -/
def State.putJet (s : State) (j : Fin 160) (x : Jet) : State := { s with jets := vset s.jets j x }
/-- Jet `j` changed. -/
def State.modJet (s : State) (j : Fin 160) (f : Jet → Jet) : State := s.putJet j (f (s.jet j))
/-- Array `n` of jet `j`. -/
def State.arr (s : State) (j : Fin 160) (n : Fin 8) : Arr := (s.jet j).arrays.get n
/-- Array `n` of jet `j` changed. -/
def State.modArr (s : State) (j : Fin 160) (n : Fin 8) (f : Arr → Arr) : State :=
  s.modJet j fun x => { x with arrays := vset x.arrays n (f (x.arrays.get n)) }
/-- Basin die `d` changed. -/
def State.modBasin (s : State) (d : Fin 4) (f : Basin → Basin) : State :=
  { s with basins := vset s.basins d (f (s.basins.get d)) }
/-- Cistern `i` changed. -/
def State.modCistern (s : State) (i : Fin 32) (f : Cistern → Cistern) : State :=
  { s with cisterns := vset s.cisterns i (f (s.cisterns.get i)) }
/-- Runnel die `r` changed. -/
def State.modRunnel (s : State) (r : Fin 2) (f : Runnel → Runnel) : State :=
  { s with runnels := vset s.runnels r (f (s.runnels.get r)) }
/-- Mailbox `n` changed. -/
def State.modBox (s : State) (n : Fin 8) (f : Mailbox → Mailbox) : State :=
  { s with boxes := vset s.boxes n (f (s.boxes.get n)) }
/-- Port `p` changed. -/
def State.modPort (s : State) (p : Fin 6) (f : Port → Port) : State :=
  { s with weir := { s.weir with ports := vset s.weir.ports p (f (s.weir.ports.get p)) } }
/-- Domain `d` of the Sluice changed. -/
def State.modDom (s : State) (d : Fin 10) (f : Dom → Dom) : State :=
  { s with sluice := { s.sluice with doms := vset s.sluice.doms d (f (s.sluice.doms.get d)) } }

/-- The rill core a command names. -/
def State.core (s : State) : CoreId → Core
  | .jet j => (s.jet j).core
  | .upd r n => (s.runnels.get r).cores.get n

/-- The rill core a command names, replaced. -/
def State.putCore (s : State) (c : CoreId) (k : Core) : State :=
  match c with
  | .jet j => s.modJet j fun x => { x with core := k }
  | .upd r n => s.modRunnel r fun x => { x with cores := vset x.cores n k }

/-- The rill core a command names, changed. -/
def State.modCore (s : State) (c : CoreId) (f : Core → Core) : State := s.putCore c (f (s.core c))

/-- Send a message. -/
def State.send (s : State) (m : Msg) : State := { s with outbox := s.outbox ++ [m] }

/-- Take a free value (log 5). -/
def State.fresh (s : State) : W64 × State := (Config.freeWord s.freeCount, { s with freeCount := s.freeCount + 1 })

/-- UPTIME_NS (R555). -/
def State.uptime (s : State) : Nat := s.keeper.uptime.toNat

/-- Count one event in a table of saturating 32-bit counters (R16). -/
def bump (t : Tbl W32) (k : Nat) : Tbl W32 := t.set k (satInc (t.get 0 k))

/-- Count `n` events in a table of saturating 32-bit counters (R16). -/
def bumpBy (t : Tbl W32) (k n : Nat) : Tbl W32 := if n = 0 then t else t.set k (satAdd (t.get 0 k) n)

/-! ## Interrupts and the event log -/

/-- May vector `n` send (R462)? -/
def Cxl.mayRaise (x : Cxl) (n : Nat) : Bool := x.intEn && x.msixEn && !x.funcMask && !x.mask.getLsbD n

/-- Set interrupt cause `n`; a rising cause sends its message, or sets its pending bit (R461, R462). -/
def State.raise (s : State) (n : Nat) : State :=
  if s.cxl.cause.getLsbD n then s
  else
    let x := { s.cxl with cause := setBit s.cxl.cause n true }
    if !x.mayRaise n then { s with cxl := x }
    else if x.vecMask.getLsbD n then { s with cxl := { x with pba := setBit x.pba n true } }
    else ({ s with cxl := x } : State).send (.msix n)

/-- Interrupt cause of a power event (R461). -/
def icPower : Nat := 11
/-- Interrupt cause of the event log (R461). -/
def icEvent : Nat := 8
/-- Interrupt cause of READY (R461). -/
def icReady : Nat := 9
/-- Interrupt cause of a step outcome (R461). -/
def icStep : Nat := 10
/-- Interrupt cause of the fabric (R461). -/
def icFabric : Nat := 12
/-- Interrupt cause of memory (R461). -/
def icMemory : Nat := 13
/-- Interrupt cause of the host link (R461). -/
def icHostLink : Nat := 14

/-- SOURCE of an event (R495). -/
def srcFront : Nat := 0
/-- The Fountainhead firmware (R495). -/
def srcFw : Nat := 1
/-- The Keeper (R495). -/
def srcKeeper : Nat := 2
/-- A basin die (R495). -/
def srcBasin : Nat := 3
/-- A Runnel die (R495). -/
def srcRunnel : Nat := 4
/-- A Cistern (R495). -/
def srcCistern : Nat := 5
/-- A weir (R495). -/
def srcWeir : Nat := 6
/-- The collective engine (R495). -/
def srcColl : Nat := 7

/-- Append to the ring, which overwrites its oldest entry when full (R494). -/
def pushRing (cap : Nat) (l : List Event) (e : Event) : List Event :=
  if cap ≤ l.length then l.drop (l.length + 1 - cap) ++ [e] else l ++ [e]

/-- Store an event-log entry (R494, R495), without the limit of R496. -/
def State.store (s : State) (code sev src : Nat) (args : List Nat) : State :=
  let e : Event :=
    { seq := s.log.nextSeq, uptime := s.keeper.uptime, boot := s.keeper.boot, code := code, severity := sev,
      source := src, step := if s.job.running then s.record.globalStep else BitVec.allOnes 64, args := args }
  let l := { s.log with
    ring := pushRing 4096 s.log.ring e, nextSeq := s.log.nextSeq + 1,
    toFlash := if 3 ≤ sev then s.log.toFlash ++ [e] else s.log.toFlash }
  let s' := { s with log := l }
  if l.level.toNat ≤ sev then s'.raise icEvent else s'

/-- An entry arrives at the front end: stored, or left out and counted once 256 have arrived in the millisecond and the
entry is INFO or NOTICE (R496). -/
def State.event (s : State) (code sev src : Nat) (args : List Nat) : State :=
  let ms := s.uptime / 1000000
  let l := if s.log.msNo = ms then s.log else { s.log with msNo := ms, inMs := 0 }
  let l' := { l with inMs := l.inMs + 1 }
  if 256 ≤ l.inMs ∧ sev ≤ 1 then { s with log := { l' with dropped := l'.dropped + 1 } }
  else ({ s with log := l' } : State).store code sev src args

/-- RSVD_WRITE: a write of a reserved value (R13, R497). -/
def State.rsvdWrite (s : State) (addr v : Nat) : State := s.event 0x0001 1 srcFront [addr, v]

/-- A live entry of the capability table changed (R210). -/
def State.capChange (s : State) : State := { s with caps := { s.caps with gen := s.caps.gen + 1 } }

/-! ## Mailboxes -/

/-- Is a mailbox's command outstanding (R474)? -/
def Mailbox.outstanding (b : Mailbox) : Bool := b.state == 1 || b.state == 2 || b.state == 3

/-- Complete an outstanding command (R478): output, OUT_LEN and RESULT, then DONE and its interrupt cause. -/
def State.complete (s : State) (n : Fin 8) (status detail : Nat) (out : List Byte) : State :=
  if (s.boxes.get n).outstanding then
    (s.modBox n fun b =>
      { b with buf := out ++ b.buf.drop out.length, outLen := out.length, status := BitVec.ofNat 16 status,
               detail := BitVec.ofNat 32 detail, state := 4, abort := false }).raise n.val
  else s

/-- Complete the command of each mailbox listed. -/
def State.completeAll (s : State) (ns : List Nat) (status detail : Nat) : State :=
  ns.foldl (fun s n => if h : n < 8 then s.complete ⟨n, h⟩ status detail [] else s) s

/-! ## Register access of a core -/

/-- Scalar register `r`; s0 reads as zero (R156). -/
def Core.rs (k : Core) (r : BitVec 5) : W64 := if r = 0 then 0 else k.s.get ⟨r.toNat, r.isLt⟩
/-- Write scalar register `r`; a write of s0 is ignored (R156). -/
def Core.ws (k : Core) (r : BitVec 5) (v : W64) : Core :=
  if r = 0 then k else { k with s := vset k.s ⟨r.toNat, r.isLt⟩ v }
/-- Vector register `r` (R156). -/
def Core.rv (k : Core) (r : BitVec 5) : BitVec 4096 := k.v.get ⟨r.toNat, r.isLt⟩
/-- Write vector register `r`. -/
def Core.wv (k : Core) (r : BitVec 5) (v : BitVec 4096) : Core := { k with v := vset k.v ⟨r.toNat, r.isLt⟩ v }

/-- Is the core in handler mode (R201)? -/
def Core.inHandler (k : Core) : Bool := k.cause.getLsbD 31

/-- Count format events and set their sticky flags (R77, R78). -/
def Fmt.count (f : Fmt) (e : Ev) : Fmt :=
  { f with
    sat := satAdd f.sat e.sat, poison := satAdd f.poison e.poison, blkUfl := satAdd f.blkUfl e.blkUfl,
    ufl := satAdd f.ufl e.ufl,
    flags := f.flags ||| (if e.sat = 0 then 0 else 1) ||| (if e.poison = 0 then 0 else 2) |||
      (if e.blkUfl = 0 then 0 else 4) ||| (if e.ufl = 0 then 0 else 8) }

/-- Count format events of a core. -/
def Core.count (k : Core) (e : Ev) : Core := { k with fmt := k.fmt.count e }

/-- One draw from a lane with state `x` (R187): the value and the new state. -/
def drawFrom (x : W64) : W64 × W64 :=
  let a := x ^^^ (x <<< 13)
  let b := a ^^^ (a >>> 7)
  let c := b ^^^ (b <<< 17)
  let t := c * 0xB5A3C6E91D247F3B#64
  (t ^^^ (t >>> 29), c)

/-- Draw from vector or spout lane `n` of a core; a held-bank kernel draws from the held-bank lanes (R188, R304). -/
def Core.draw (k : Core) (n : Nat) : W64 × Core :=
  if k.heldBank then
    let (o, x) := drawFrom (k.heldLanes.get 1 n)
    (o, { k with heldLanes := k.heldLanes.set n x })
  else
    let (o, x) := drawFrom (k.lanes.get 1 n)
    (o, { k with lanes := k.lanes.set n x })

/-- The 16-bit number of a draw (R74). -/
def draw16 (o : W64) : Nat := bits o 63 48

/-! ## Memory a core addresses -/

/-- Bytes of a core's store: 20 MiB for a jet (R169), 512 KiB for an update core (R284). -/
def storeSize : CoreId → Nat
  | .jet _ => 0x1400000
  | .upd _ _ => 0x80000

/-- Does a byte lie in the declared code region? -/
def Core.inCode (k : Core) (a : Nat) : Bool := decide (k.code.1 ≤ a) && decide (a < k.code.1 + k.code.2)

/-- First bytes of the staging set a kernel was entered with (R284). -/
def stageBase (b : Bool) : Nat := if b then 0x70000 else 0x60000

/-- May a byte be read or written (R169, R285)? -/
def mayAccess (c : CoreId) (k : Core) (write : Bool) (a : Nat) : Bool :=
  match c with
  | .jet _ => decide (a < 0x1400000) && !(write && k.inCode a)
  | .upd _ _ =>
    let stage := match k.staged with
      | some b =>
        let o := a - stageBase b
        decide (stageBase b ≤ a) &&
          (decide (o < 0x1840) || (decide (0x2000 ≤ o) && decide (o < 0x2820)) || (decide (0x3000 ≤ o) && decide (o < 0x3040)))
      | none => false
    let scratch := decide (k.code.1 + k.code.2 ≤ a) && decide (a < 0x60000)
    (scratch || stage || (!write && k.inCode a))

/-! ## Exceptions -/

/-- A cause to be taken (R192): CODE, DETAIL, EFLAGS, JT_VX_VAL, JT_VX_INDEX. -/
structure Exc where
  code : Nat
  detail : Nat := 0
  eflags : IFlags := 0
  val : W64 := 0
  index : Nat := 0
  deriving DecidableEq, Repr

/-- JT_VX_CAUSE of a cause, with IN_HANDLER set (R195, R201). -/
def Exc.word (e : Exc) : W32 :=
  BitVec.ofNat 32 (e.code % 256 + 256 * (e.detail % 256) + 65536 * e.eflags.toNat + 2 ^ 31)

/-- The registers an exception sets (R195), with JT_VX_PC. -/
def Core.enterExc (k : Core) (e : Exc) (pc : W64) : Core :=
  { k with vxpc := pc, index := BitVec.ofNat 32 e.index, cause := e.word, val := e.val, resume := 0, resumed := false,
           held := none }

end Sys2Proof.Machine
end

