-- ==== Sys2Proof/Machine/Flags.lean ====
section
/-! DEFINITION. Flags of the vector unit: accrual, trap enables and the cause a trapping element raises (R192 to R194). -/

namespace Sys2Proof.Machine

/-- Trap enables JT_VX_CTRL.TE (R199). -/
def Core.te (k : Core) : IFlags := BitVec.ofNat 5 (bits k.ctrl 12 8)
/-- Rounding field JT_VX_CTRL.FRM (R199). -/
def Core.frm (k : Core) : Nat := bits k.ctrl 2 0
/-- SLANE of JT_VX_CTRL (R199). -/
def Core.slane (k : Core) : Nat := bits k.ctrl 21 16

/-- Accrue flags into JT_VX_FLAGS (R200). -/
def Core.accrue (k : Core) (f : IFlags) : Core := { k with flags := k.flags ||| f.setWidth 32 }

/-- The flags of an element that trap (R194). -/
def Core.traps (k : Core) (f : IFlags) : IFlags := f &&& k.te

/-- CODE of the highest-priority trapping flag (R193): FP_INVALID, FP_DIVZERO, FP_OVERFLOW, FP_UNDERFLOW, FP_INEXACT. -/
def trapCode (t : IFlags) : Nat :=
  if t.getLsbD 0 then 4 else if t.getLsbD 1 then 5 else if t.getLsbD 2 then 6 else if t.getLsbD 3 then 7 else 8

/-- The cause a trapping element raises (R192, R194, R195). -/
def trapExc (k : Core) (f : IFlags) (elem : Nat) : Exc :=
  { code := trapCode (k.traps f), eflags := f, val := BitVec.ofNat 64 elem, index := elem }

end Sys2Proof.Machine
end

