-- ==== Sys2Proof/Machine/Operands.lean ====
section
/-! DEFINITION. Operand forms of rill instructions: element types, register groups, broadcast operands, immediates and the
legality checks of R158 to R163. -/

namespace Sys2Proof.Machine

/-! ## Fields of an instruction word -/

/-- The instruction word of OP and its fields (R163). -/
def rillWord (op : Nat) (f : RFields) : Nat :=
  op * 2 ^ 26 + f.d.toNat * 2 ^ 21 + f.a.toNat * 2 ^ 16 + f.b.toNat * 2 ^ 11 + f.lo.toNat

/-- Bits [15:0] of the word. -/
def low16 (f : RFields) : Nat := f.b.toNat * 2 ^ 11 + f.lo.toNat
/-- Bits [20:0] of the word. -/
def low21 (f : RFields) : Nat := f.a.toNat * 2 ^ 16 + low16 f
/-- Bits [hi:lo] of the low half of the word. -/
def fld (f : RFields) (hi lo : Nat) : Nat := bits (BitVec.ofNat 16 (low16 f)) hi lo

/-- A signed field as a 64-bit value. -/
def sext (w v : Nat) : W64 := BitVec.ofInt 64 (toSigned w v)

/-- ILLEGAL with a DETAIL (R192, R201); JT_VX_VAL is the instruction word. -/
def illegal (word detail : Nat) : Exc := { code := 1, detail := detail, val := BitVec.ofNat 64 word }
/-- DETAIL encoding. -/
def dEnc : Nat := 1
/-- DETAIL group base. -/
def dBase : Nat := 2
/-- DETAIL overlap. -/
def dOverlap : Nat := 3
/-- DETAIL array. -/
def dArray : Nat := 4
/-- DETAIL CSR. -/
def dCsr : Nat := 5
/-- DETAIL handler-mode draw. -/
def dDraw : Nat := 6
/-- DETAIL RETX outside handler mode. -/
def dRetx : Nat := 7
/-- DETAIL element index. -/
def dElem : Nat := 8

/-! ## Element types -/

/-- Element width of a TYPE (R158). -/
def typeWidth : Nat → Nat
  | 0 => 64
  | 1 => 32
  | 2 => 16
  | 3 => 64
  | 4 => 32
  | 5 => 16
  | _ => 8

/-- The binary format of TYPE 0 or 1. -/
def typeFmt (t : Nat) : IFmt := if t = 0 then b64 else b32

/-- Element `k` of a value of packed elements of width `w` (R158). -/
def elemOf (w : Nat) (v k : Nat) : Nat := (v >>> (w * k)) % 2 ^ w

/-- Element `k` of packed elements replaced. -/
def putElem (w : Nat) (v k x : Nat) : Nat :=
  v - elemOf w v k * 2 ^ (w * k) + (x % 2 ^ w) * 2 ^ (w * k)

/-! ## Groups -/

/-- Group size G of a GROUP field (R159). -/
def groupSize (g : Nat) : Nat := 2 ^ (g % 4)

/-- Registers an operand of width `w` takes when the widest operand of the instruction has width `wide` (R161). -/
def regsOf (g w wide : Nat) : Nat := max 1 (groupSize g * w / wide)

/-- Does a group of `n` registers start at `base` (R159)? -/
def baseOk (base : BitVec 5) (n : Nat) : Bool := base.toNat % n == 0

/-- Registers overlap. -/
def overlaps (a n b m : Nat) : Bool := decide (a < b + m) && decide (b < a + n)

/-- A destination group overlapping a source group has the same base (R160). -/
def inPlaceOk (d : BitVec 5) (nd : Nat) (a : BitVec 5) (na : Nat) : Bool :=
  d == a || !overlaps d.toNat nd a.toNat na

/-- Register `r + i`. -/
def regAt (r : BitVec 5) (i : Nat) : BitVec 5 := r + BitVec.ofNat 5 i

/-- A group of `n` registers as one value, the base register lowest (R159). -/
def groupVal (k : Core) (r : BitVec 5) : Nat → Nat
  | 0 => 0
  | n + 1 => groupVal k r n + (k.rv (regAt r n)).toNat * 2 ^ (4096 * n)

/-- Write a value into a group of `n` registers. -/
def putGroup (k : Core) (r : BitVec 5) (v : Nat) : Nat → Core
  | 0 => k
  | n + 1 => (putGroup k r v n).wv (regAt r n) (BitVec.ofNat 4096 (v >>> (4096 * n)))

/-- A source operand: elements of a group, or one scalar broadcast to every element (R162). -/
structure Oper where
  width : Nat
  val : Nat
  scalar : Bool
  deriving DecidableEq, Repr

/-- Element `i` of an operand. -/
def Oper.at (o : Oper) (i : Nat) : Nat := if o.scalar then o.val % 2 ^ o.width else elemOf o.width o.val i

/-! ## Running over elements -/

/-- What one element gives: its result, flags, format events and the core after its draw. -/
structure ElemOut where
  val : Nat
  fl : IFlags := 0
  ev : Ev := {}
  core : Core

/-- Elements `i` to `i + n - 1` in turn (R193): the destination value, the core, and the trapping element with its flags.
A trapping element writes nothing and draws nothing. -/
def runElems (w : Nat) (f : Core → Nat → ElemOut) : Nat → Nat → Core → Nat → Nat × Core × Option (Nat × IFlags)
  | 0, _, k, acc => (acc, k, none)
  | n + 1, i, k, acc =>
    let e := f k i
    if k.traps e.fl ≠ 0 then (acc, k, some (i, e.fl))
    else runElems w f n (i + 1) ((e.core.accrue e.fl).count e.ev) (putElem w acc i e.val)

end Sys2Proof.Machine
end

