-- ==== Sys2Proof/Machine/Blocks.lean ====
section
/-! DEFINITION. Block formats, plain integers, SB64 and SB32: their codes, encoding and decoding (R56 to R71). -/

namespace Sys2Proof.Machine

/-- A block format (R57, R60): code width, largest element, top-bit index, and whether codes are unsigned. -/
structure BlkFmt where
  width : Nat
  mmax : Nat
  t : Nat
  uns : Bool
  deriving DecidableEq, Repr

/-- The poison element code (R57). -/
def BlkFmt.poison (f : BlkFmt) : Nat := if f.uns then 2 ^ f.width - 1 else 2 ^ (f.width - 1)

/-- The block formats by the format code of R213. -/
def blkFmt? : Nat → Option BlkFmt
  | 0x10 => some ⟨16, 32767, 14, false⟩
  | 0x11 => some ⟨8, 127, 6, false⟩
  | 0x12 => some ⟨4, 7, 2, false⟩
  | 0x13 => some ⟨8, 254, 7, true⟩
  | 0x14 => some ⟨4, 14, 3, true⟩
  | _ => none

/-- A plain integer format (R66): width and whether it is unsigned. -/
structure IntFmt where
  width : Nat
  uns : Bool
  deriving DecidableEq, Repr

/-- The plain integer formats by the format code of R213. -/
def intFmt? : Nat → Option IntFmt
  | 0x20 => some ⟨8, false⟩
  | 0x21 => some ⟨8, true⟩
  | 0x22 => some ⟨4, false⟩
  | 0x23 => some ⟨4, true⟩
  | _ => none

/-- The format code of R213 for a DFMT or SFMT of R183. -/
def dfmtCode : Nat → Option Nat
  | 0 => some 0x10
  | 1 => some 0x11
  | 2 => some 0x12
  | 3 => some 0x13
  | 4 => some 0x14
  | 8 => some 0x20
  | 9 => some 0x21
  | 10 => some 0x22
  | 11 => some 0x23
  | _ => none

/-- Largest magnitude of the finite sources as (mantissa, exponent); (0, 0) when every one is zero. -/
def maxMag : List Src → Nat × Int
  | [] => (0, 0)
  | .fin _ m e :: t =>
    let (m', e') := maxMag t
    if m = 0 then (m', e')
    else if m' = 0 then (m, e)
    else
      let lo := min e e'
      if m' <<< (e' - lo).toNat ≤ m <<< (e - lo).toNat then (m, e) else (m', e')
  | _ :: t => maxMag t

/-- Is a source poison or a NaN? -/
def Src.isPoison : Src → Bool
  | .poison => true
  | _ => false
/-- Is a source infinite? -/
def Src.isInf : Src → Bool
  | .inf _ => true
  | _ => false

/-- An element code of a signed or unsigned value. -/
def elemCode (width : Nat) (neg : Bool) (k : Nat) : Nat := if neg && k != 0 then 2 ^ width - k else k

/-- One element of a block at unit `2^unit` (R60, R61, R64). `noTop`: every clamp is a saturation. -/
def encodeElem (f : BlkFmt) (stoch rescue : Bool) (unit q : Int) (noTop : Bool) (r : Nat) (x : Src) : Nat × Ev :=
  match x with
  | .poison => (f.poison, { poison := 1 })
  | .inf n =>
    if n && f.uns then (0, { sat := 1, blkUfl := 1 }) else (elemCode f.width n f.mmax, { sat := 1 })
  | .fin n m e =>
    if m = 0 then (0, {})
    else
      let rnd : Rnd := if stoch || (rescue && decide (topExp m e < unit)) then .stoch r else .even
      let (k, _) := roundUnits rnd n m e unit false
      if k = 0 then (0, { blkUfl := 1 })
      else if n && f.uns then (0, { sat := 1, blkUfl := 1 })
      else if f.mmax < k then
        (elemCode f.width n f.mmax, { sat := if !noTop && decide (topExp m e = q) then 0 else 1 })
      else (elemCode f.width n k, {})

/-- Encode elements against their numbers, element by element. -/
def encodeElems (f : BlkFmt) (stoch rescue : Bool) (unit q : Int) (noTop : Bool) : List Src → List Nat → List Nat × Ev
  | [], _ => ([], {})
  | x :: xs, rs =>
    let (c, ev) := encodeElem f stoch rescue unit q noTop (rs.headD 0) x
    let (cs, ev') := encodeElems f stoch rescue unit q noTop xs rs.tail
    (c :: cs, ev.add ev')

/-- `encode_block` of R60: E, the element codes and the events, those of elements below `skip` left out (R196). `rs` holds one
16-bit number for each element. -/
def encodeBlockFrom (f : BlkFmt) (stoch rescue : Bool) (skip : Nat) (rs : List Nat) (xs : List Src) : Nat × List Nat × Ev :=
  if xs.all Src.isPoison then (0xFF, xs.map fun _ => 0, { poison := xs.length - skip })
  else
    let (m, e) := maxMag xs
    let go (E : Nat) (q : Int) (noTop : Bool) : Nat × List Nat × Ev :=
      let codes := encodeElems f stoch rescue ((E : Int) - 127) q noTop
      (E, (codes xs rs).1, (codes (xs.drop skip) (rs.drop skip)).2)
    if xs.any Src.isInf then go 0xFE 0 true
    else if m = 0 then
      if xs.any Src.isPoison then go 0x7F 0 false else (0, xs.map fun _ => 0, {})
    else
      let q := topExp m e
      let E := q - f.t + 127
      if 0xFE < E then go 0xFE q true else go (max E 1).toNat q false

/-- A whole block encoded (R60). -/
def encodeBlock (f : BlkFmt) (stoch rescue : Bool) (rs : List Nat) (xs : List Src) : Nat × List Nat × Ev :=
  encodeBlockFrom f stoch rescue 0 rs xs

/-- The value of an element code under E (R57, R58). -/
def blkRead (f : BlkFmt) (E : Nat) (code : Nat) : Src :=
  if E = 0 then .fin false 0 0
  else if E = 0xFF then .poison
  else if code = f.poison then .poison
  else
    let v : Int := if f.uns then (code : Int) else toSigned f.width code
    .fin (decide (v < 0)) v.natAbs ((E : Int) - 127)

/-- Convert a source to a plain integer (R67): its code and events. -/
def encodeInt (f : IntFmt) (rnd : Rnd) (x : Src) : Nat × Ev :=
  let hi : Int := if f.uns then 2 ^ f.width - 1 else 2 ^ (f.width - 1) - 1
  let lo : Int := if f.uns then 0 else -(2 ^ (f.width - 1))
  match x with
  | .poison => (0, { poison := 1 })
  | .inf n => (ofSigned f.width (if n then lo else hi), { sat := 1 })
  | .fin n m e =>
    let k : Int := (roundUnits rnd n m e 0 false).1
    let v := if n then -k else k
    if hi < v then (ofSigned f.width hi, { sat := 1 })
    else if v < lo then (ofSigned f.width lo, { sat := 1 })
    else (ofSigned f.width v, {})

/-- The integer an element code of a plain integer format holds (R66). -/
def intRead (f : IntFmt) (code : Nat) : Int := if f.uns then (code : Int) else toSigned f.width code

/-- The exact product of a source and a binary32 factor (R183); an infinity times zero is a NaN. -/
def srcMul (x : Src) (factor : Nat) : Src :=
  match x, b32.src factor with
  | .poison, _ => .poison
  | _, .poison => .poison
  | .inf n, .inf n' => .inf (n != n')
  | .inf n, .fin n' m _ => if m = 0 then .poison else .inf (n != n')
  | .fin n m _, .inf n' => if m = 0 then .poison else .inf (n != n')
  | .fin n m e, .fin n' m' e' => .fin (n != n') (m * m') (e + e')

/-- The packed bytes of element codes (R59). -/
def packCodes : Nat → List Nat → List Byte
  | 16, l => l.flatMap (leBytes 2)
  | 4, l => go4 l
  | _, l => l.map (BitVec.ofNat 8)
where
  /-- Two elements to a byte, the even one low. -/
  go4 : List Nat → List Byte
    | a :: b :: t => BitVec.ofNat 8 (a % 16 + 16 * (b % 16)) :: go4 t
    | [a] => [BitVec.ofNat 8 (a % 16)]
    | [] => []

/-- Element `k` of packed codes (R59). -/
def unpackCode (width : Nat) (bytes : List Byte) (k : Nat) : Nat :=
  let at' (i : Nat) : Nat := (bytes.getD i 0).toNat
  if width = 16 then at' (2 * k) + 256 * at' (2 * k + 1)
  else if width = 4 then at' (k / 2) / 16 ^ (k % 2) % 16
  else at' k

/-! ## SB64 and SB32 -/

/-- Convert a block to SB with `P` planes (R70): F, the integers N, and the events, those of elements below `skip` left out
(R196). -/
def encodeSbFrom (P skip : Nat) (xs : List Src) : Nat × List Int × Ev :=
  let bad (l : List Src) : Nat := (l.filter fun x => x.isPoison || x.isInf).length
  let (m, e) := maxMag xs
  if bad xs ≠ 0 then (0xFFFF, xs.map fun _ => 0, { poison := bad (xs.drop skip) })
  else if m = 0 then (0, xs.map fun _ => 0, {})
  else
    let unit := topExp m e - (8 * P - 2 : Nat)
    let ns : List Int := xs.map fun x => match x with
      | .fin n m e =>
        let k : Int := ((roundUnits .zero n m e unit false).1 : Nat)
        if n then -k else k
      | _ => 0
    let ufl := (((xs.zip ns).drop skip).filter fun p => match p.1 with | .fin _ m _ => m != 0 && p.2 == 0 | _ => false).length
    ((unit + 16384).toNat, ns, { blkUfl := ufl })

/-- A whole block converted to SB (R70). -/
def encodeSb (P : Nat) (xs : List Src) : Nat × List Int × Ev := encodeSbFrom P 0 xs

/-- Plane `i` of an integer N of `8 P` bits (R68). -/
def sbPlane (P : Nat) (n : Int) (i : Nat) : Nat := ofSigned (8 * P) n / 256 ^ (P - 1 - i) % 256

end Sys2Proof.Machine
end

