-- ==== Sys2Proof/Machine/RefSum.lean ====
section
/-! DEFINITION. The reference order: the align-adder (R126 to R129), the tree (R130), node addition (R131) and the row
records of a raw partial (R132). -/

namespace Sys2Proof.Machine

/-- An integer times `2^k`, truncated toward zero. -/
def shiftTrunc (a k : Int) : Int :=
  if 0 ≤ k then a * 2 ^ k.toNat else Int.tdiv a (2 ^ (-k).toNat)

/-- Bits of a magnitude. -/
def bitLen (n : Nat) : Nat := if n = 0 then 0 else Nat.log2 n + 1

/-- `align_add` of R126 with significands of `w` bits: S, X and whether the entry saturated under R99. A sum that is not zero and is
cut to zero keeps the X of the formula (log 44). -/
def alignAdd (w : Nat) (rb s g t e : Int) : Int × Int × Bool :=
  if s = 0 ∧ t = 0 then (0, 0, false)
  else
    let q := if t = 0 then g else if s = 0 then e else max (min g e) (max g e - 3)
    let r := shiftTrunc s (g - q) + shiftTrunc t (e - q)
    let k : Int := max ((bitLen r.natAbs : Int) - (w - 1 : Nat)) (max 0 (rb - 128 - q))
    let s' := shiftTrunc r (-k)
    let x' := q + k - rb
    if r = 0 then (0, 0, false)
    else if 127 < x' then ((if r < 0 then -(2 ^ (w - 1) - 1) else 2 ^ (w - 1) - 1), 127, true)
    else (s', x', false)

/-- An addition in INT mode with the clamp of R100. -/
def clampAdd (a b : Int) : Int × Bool :=
  if 2147483647 < a + b then (2147483647, true)
  else if a + b < -2147483647 then (-2147483647, true)
  else (a + b, false)

/-- W of R126 by the MODE of R90. -/
def modeW (mode : Nat) : Nat := if mode = 3 then 64 else 32

/-- Entry `c` of a tile row; an empty list is 16 zero entries. -/
def TileRow.entry (r : TileRow) (c : Nat) : Entry := r.es.getD c {}

/-- Is the candidate the winner over the one held (R107)? `max` says which is sought. -/
def beats (max : Bool) (s e : Int) (i : Nat) (s' e' : Int) (i' : Nat) : Bool :=
  let lo := min e e'
  let a := shiftTrunc s (e - lo)
  let b := shiftTrunc s' (e' - lo)
  if a = b then decide (i < i') else if max then decide (b < a) else decide (a < b)

/-- Combine two winners. -/
def winAdd (max : Bool) : Option (Int × Int × Nat) → Option (Int × Int × Nat) → Option (Int × Int × Nat)
  | none, b => b
  | a, none => a
  | some a, some b => if beats max b.1 b.2.1 b.2.2 a.1 a.2.1 a.2.2 then some b else some a

/-- `node_add` of R131 on one row of a record, with the number of entries clamped or saturated. -/
def nodeAddRow (mode : Nat) (l r : TileRow) : TileRow × Nat :=
  if mode = 0 then
    let es := (List.range 16).map fun c =>
      let (v, sat) := clampAdd (l.entry c).s (r.entry c).s
      (({ s := v, p := (l.entry c).p || (r.entry c).p } : Entry), sat)
    ({ es := es.map (·.1) }, (es.filter (·.2)).length)
  else if 4 ≤ mode then
    ({ win := winAdd (mode = 4) l.win r.win, met := l.met || r.met }, 0)
  else
    let rb : Option W16 := match l.rb, r.rb with
      | some a, some b => some (if a.toInt < b.toInt then b else a)
      | some a, none => some a
      | none, b => b
    let b := (rb.getD 0).toInt
    let side (t : TileRow) (c : Nat) : Int × Int := match t.rb with
      | some tb => ((t.entry c).s, tb.toInt + (t.entry c).x)
      | none => (0, 0)
    let es := (List.range 16).map fun c =>
      let (s, g) := side l c
      let (t, e) := side r c
      let (s', x', sat) := alignAdd (modeW mode) b s g t e
      (({ s := s', x := x', p := (l.entry c).p || (r.entry c).p } : Entry), sat)
    ({ rb := rb, es := es.map (·.1) }, (es.filter (·.2)).length)

/-- The reference tree over a list of leaves (R130): the left part is the largest power of two below the length. -/
def refTree {α : Type} (node : α → α → α) (d : α) : Nat → List α → α
  | 0, l => l.headD d
  | fuel + 1, l =>
    if l.length ≤ 1 then l.headD d
    else
      let p := 2 ^ Nat.log2 (l.length - 1)
      node (refTree node d fuel (l.take p)) (refTree node d fuel (l.drop p))

/-- Bytes of one row record (R132). -/
def recBytes (mode : Nat) : Nat := if mode = 3 then 0xA0 else 0x60

/-- A row record as R132 lays it out. -/
def packRow (mode : Nat) (r : TileRow) : List Byte :=
  let cols := List.range 16
  let rb := match r.rb with
    | some v => v.toNat
    | none => 0x8000
  let pm := cols.foldl (fun a c => if (r.entry c).p then a + 2 ^ c else a) 0
  let sb := if mode = 3 then 8 else 4
  leBytes 2 rb ++ leBytes 2 pm ++
    (cols.map fun c => BitVec.ofNat 8 (if mode = 0 then 0 else ofSigned 8 (r.entry c).x)) ++ zeroBytes 12 ++
    cols.flatMap fun c => leBytes sb (ofSigned (8 * sb) (r.entry c).s)

/-- Read a row record (R132). -/
def unpackRow (mode : Nat) (b : List Byte) : TileRow :=
  let rb := leNat (b.take 2)
  let pm := leNat ((b.drop 2).take 2)
  let sb := if mode = 3 then 8 else 4
  let es := (List.range 16).map fun c =>
    ({ s := toSigned (8 * sb) (leNat ((b.drop (0x20 + sb * c)).take sb)),
       x := if mode = 0 then 0 else toSigned 8 (leNat ((b.drop (4 + c)).take 1)),
       p := decide (pm / 2 ^ c % 2 = 1) } : Entry)
  { rb := if rb = 0x8000 ∨ mode = 0 then none else some (BitVec.ofNat 16 rb), es := es }

/-- The exact value of an entry (R96): significand and exponent of two. -/
def entryVal (mode : Nat) (r : TileRow) (c : Nat) : Int × Int :=
  if mode = 0 then ((r.entry c).s, 0)
  else match r.rb with
    | some rb => ((r.entry c).s, rb.toInt + (r.entry c).x)
    | none => (0, 0)

end Sys2Proof.Machine
end

