-- ==== Sys2Proof/Machine/TierOps.lean ====
section
/-! DEFINITION. The words of the memory tiers: the device address map, where a word lies, the check of a word and its reads and
writes (R238 to R253, R266 to R269). Tier memory is kept under canonical addresses: an address of a fast domain or a slow half. -/

namespace Sys2Proof.Machine

/-! ## Regions (R238, R263) -/

/-- A region of the map-out rules. -/
def State.region (s : State) : MemRegion → RegionSt
  | .domain d => (s.basins.get d).map
  | .half r => (s.runnels.get r).map

/-- A region changed. -/
def State.modRegion (s : State) (g : MemRegion) (f : RegionSt → RegionSt) : State :=
  match g with
  | .domain d => s.modBasin d fun b => { b with map := f b.map }
  | .half r => s.modRunnel r fun x => { x with map := f x.map }

/-- Capacity in use of a region (R209, R265). -/
def State.capOf (s : State) (g : MemRegion) : Nat :=
  match g with
  | .domain _ => 2 ^ 39 - (s.region g).withdrawn * 2 ^ 31
  | .half _ => 2 ^ 41 - (s.region g).withdrawn * 2 ^ 37

/-- Units of a region (R263). -/
def regionUnits : MemRegion → Nat
  | .domain _ => 256
  | .half _ => 16
/-- Slots of a region's table, as a power of two (R242, R246). -/
def slotBits : MemRegion → Nat
  | .domain _ => 12
  | .half _ => 8
/-- Slots of a region's table. -/
def slotCount (g : MemRegion) : Nat := 2 ^ slotBits g
/-- Bytes of a unit (R265). -/
def unitBytes : MemRegion → Nat
  | .domain _ => 2 ^ 31
  | .half _ => 2 ^ 37
/-- Groups that one unit's worth of capacity holds (R265). -/
def unitGroups (g : MemRegion) : Nat := unitBytes g / (256 * slotCount g)
/-- First canonical address of a region (R238). -/
def regionBase : MemRegion → Nat
  | .domain d => d.val * 2 ^ 39
  | .half r => 2 ^ 43 + r.val * 2 ^ 41
/-- Groups of a region in use (R265, R266). -/
def State.groupsOf (s : State) (g : MemRegion) : Nat := s.capOf g / (256 * slotCount g)

/-! ## The device address map (R238, R239, R244, R247) -/

/-- First device address of the spread region. -/
def spreadBase : Nat := 2 ^ 42
/-- First device address of the slow tier. -/
def slowBase : Nat := 2 ^ 43
/-- First device address of the host windows. -/
def hostBase : Nat := 2 ^ 44

/-- A region of the device address map (R238). -/
inductive AddrRegion where
  | fast (d : Fin 4)
  | spread
  | slow (r : Fin 2)
  | host
  deriving DecidableEq, Repr

/-- The region of a device address and the offset in it; none outside every region (R238). -/
def regionOf (a : Nat) : Option (AddrRegion × Nat) :=
  if a < 2 ^ 41 then some (.fast ⟨a / 2 ^ 39 % 4, by omega⟩, a % 2 ^ 39)
  else if a < spreadBase then none
  else if a < spreadBase + 2 ^ 41 then some (.spread, a - spreadBase)
  else if a < slowBase then none
  else if a < slowBase + 2 ^ 42 then some (.slow ⟨(a - slowBase) / 2 ^ 41 % 2, by omega⟩, (a - slowBase) % 2 ^ 41)
  else if a < hostBase then none
  else if a < hostBase + 2 ^ 44 then some (.host, a - hostBase)
  else none

/-- Bytes of a region's range (R238). -/
def AddrRegion.size : AddrRegion → Nat
  | .fast _ => 2 ^ 39
  | .spread => 2 ^ 41
  | .slow _ => 2 ^ 41
  | .host => 2 ^ 44

/-- The canonical address of a device address in the tiers: none where it is unmapped (R239) or a host window's. A
spread-region address is that of its domain (R244). -/
def State.canon (s : State) (a : Nat) : Option Nat :=
  match regionOf a with
  | some (.fast d, o) => if o < s.capOf (.domain d) then some a else none
  | some (.spread, x) =>
    let j := x / 256
    if x < s.job.spread then some (j % 4 * 2 ^ 39 + 256 * (j / 4) + x % 256) else none
  | some (.slow r, o) => if o < s.capOf (.half r) then some a else none
  | _ => none

/-- The canonical address of host window byte h (R247). -/
def windowAddr (h : Nat) : Nat := let j := h / 256; slowBase + j % 2 * 2 ^ 41 + 256 * (j / 2) + h % 256

/-! ## Where a word lies (R242 to R246, R266, R267) -/

/-- fold12 and fold8 (R242, R246). -/
def foldBits (n g : Nat) : Nat := g * 2654435769 % 2 ^ 32 / 2 ^ (32 - n)

/-- The region of a canonical address. -/
def regionAt (a : Nat) : MemRegion :=
  if a < 2 ^ 41 then .domain ⟨a / 2 ^ 39 % 4, by omega⟩ else .half ⟨(a - slowBase) / 2 ^ 41 % 2, by omega⟩

/-- Slot and group of a region offset (R242, R246). -/
def slotOf (g : MemRegion) (o : Nat) : Nat × Nat :=
  let n := o / 256
  let grp := n / slotCount g
  ((n % slotCount g) ^^^ foldBits (slotBits g) grp, grp)

/-- The canonical address of granule (slot, group). -/
def granuleAddr (g : MemRegion) (slot group : Nat) : Nat :=
  regionBase g + 256 * (group * slotCount g + (slot ^^^ foldBits (slotBits g) group))

/-- Units in service beside a list of units mapped out. -/
def inService (g : MemRegion) (outs : List Nat) : List Nat := (List.range (regionUnits g)).filter (!outs.contains ·)

/-- Unit and row of a granule with the units of `outs` mapped out (R242, R266): slot k points at unit k mod C with rank k ÷ C; the
granules of the k-th unit mapped out lie in reserve rows, dealt over the units in service from their top down (log 54). -/
def rowOf (g : MemRegion) (outs : List Nat) (slot group : Nat) : Nat × Nat :=
  let c := regionUnits g
  let u := slot % c
  let rank := slot / c
  if !outs.contains u then (u, 16 * group + rank)
  else
    let us := inService g outs
    let n := 16 * group + rank
    let q := n / max 1 us.length
    (us.getD (n % max 1 us.length) 0, 16 * c * unitGroups g - 1 - (outs.idxOf u * 16 * unitGroups g + q))

/-- Is a granule still where it was before the relocation in progress? -/
def RegionSt.unmoved (m : RegionSt) (slot group : Nat) : Bool := m.state == 1 && !m.moved.contains (slot, group)

/-- Unit and row of a granule now (R266): a granule not yet copied lies where it did. -/
def RegionSt.place (m : RegionSt) (g : MemRegion) (slot group : Nat) : Nat × Nat :=
  rowOf g (if m.unmoved slot group then m.outs.dropLast else m.outs) slot group

/-- An entry of a slot table: as made where nothing else is listed (R243, R246, R279). -/
def RegionSt.slot (m : RegionSt) (c k : Nat) : W16 := m.slots.get (BitVec.ofNat 16 (k % c + 256 * (k / c))) k

/-! ## Units -/

/-- The region of a unit. -/
def unitRegion : MemUnit → MemRegion
  | .channel d _ => .domain d
  | .package r _ => .half r
/-- A unit's number in its region. -/
def unitNo : MemUnit → Nat
  | .channel _ c => c.val
  | .package _ p => p.val

/-- A unit's registers. -/
def State.unitSt (s : State) (u : MemUnit) : UnitSt :=
  match u with
  | .channel d c => (s.basins.get d).units.get {} c.val
  | .package r p => (s.runnels.get r).units.get {} p.val

/-- A unit's registers changed. -/
def State.modUnit (s : State) (u : MemUnit) (f : UnitSt → UnitSt) : State :=
  match u with
  | .channel d c => s.modBasin d fun b => { b with units := b.units.set c.val (f (b.units.get {} c.val)) }
  | .package r p => s.modRunnel r fun x => { x with units := x.units.set p.val (f (x.units.get {} p.val)) }

/-- The unit of a region with a number. -/
def unitOf (g : MemRegion) (n : Nat) : MemUnit :=
  match g with
  | .domain d => .channel d ⟨n % 256, by omega⟩
  | .half r => .package r ⟨n % 18, by omega⟩

/-- The unit that a canonical address lies in, and its byte address there (R242, R246, R266). -/
def State.placeAt (s : State) (a : Nat) : MemUnit × Nat :=
  let g := regionAt a
  let (slot, grp) := slotOf g (a - regionBase g)
  let (u, row) := (s.region g).place g slot grp
  (unitOf g u, 256 * row + a % 256)

/-- The unit that a canonical address lies in. -/
def State.unitAt (s : State) (a : Nat) : MemUnit := (s.placeAt a).1

/-- The canonical address of a byte of a unit (R242, R246, R266): none for a row that holds no data. Bytes 2k and 2k + 1 of a check
package are those of the half's k-th word (R245, log 54). -/
def State.unitAddr (s : State) (u : MemUnit) (b : Nat) : Option Nat :=
  let g := unitRegion u
  let c := regionUnits g
  let m := s.region g
  let n := unitNo u
  if c ≤ n then some (regionBase g + 32 * (b / 2))
  else
    let row := b / 256
    let home : Nat × Nat := (n + c * (row % 16), row / 16)
    let reserve (outs : List Nat) : Nat × Nat :=
      let us := inService g outs
      let t := 16 * c * unitGroups g - 1 - row
      let k := t % (16 * unitGroups g) * us.length + us.idxOf n
      (outs.getD (t / (16 * unitGroups g)) 0 + c * (k % 16), k / 16)
    (([home, reserve m.outs, reserve m.outs.dropLast]).find? fun p => m.place g p.1 p.2 == (n, row)).map fun p =>
      granuleAddr g p.1 p.2 + b % 256

/-- Is a unit dead, so that what it held is lost (R268)? -/
def State.unitDead (s : State) (u : MemUnit) : Bool :=
  let m := s.region (unitRegion u)
  (s.unitSt u).state == 4 || (m.dead && m.unit == unitNo u)

/-- Does a canonical address lie in a dead unit? -/
def State.deadGranule (s : State) (a : Nat) : Bool := s.unitDead (s.unitAt a)

/-! ## Words (R249 to R253, R269) -/

/-- Division in GF(2^8): the e with e × k = t. -/
def gfDiv (t k : Nat) : Nat := ((List.range 256).find? fun e => gfMul e k == t).getD 0

/-- Decode with the two symbols at positions `p` and `p + 1` erased (R269): one further symbol is corrected. A word stored as the
lost pattern stays lost (R252, log 54). -/
def checkErased (w : List Byte) (p : Nat) : WordCheck :=
  let x1 := (List.range p).foldl (fun a _ => gfDouble a) 1
  let x2 := gfDouble x1
  let s (k : Nat) : Nat := syndrome ((List.range k).foldl (fun a _ => gfDouble a) 1) w
  let t (j : Nat) : Nat := s (j + 2) ^^^ gfMul (x1 ^^^ x2) (s (j + 1)) ^^^ gfMul (gfMul x1 x2) (s j)
  if w = lostWord then .lost
  else if t 0 = 0 ∧ t 1 = 0 then .clean (w.take 32)
  else if t 0 = 0 then .bad
  else match gfLog 36 0 (t 0) (t 1) with
    | some q =>
      let y := (List.range q).foldl (fun a _ => gfDouble a) 1
      let e := gfDiv (t 0) (gfMul (y ^^^ x1) (y ^^^ x2))
      let i := 35 - q
      let d := (setAt w i ((w.getD i 0) ^^^ BitVec.ofNat 8 e)).take 32
      .corrected d (encodeWord d)
    | none => .bad

/-- Check the bytes of the word at a canonical address (R249, R269): check bytes of a dead package are erasures. -/
def State.tierCheck (s : State) (a : Nat) (raw : List Byte) : WordCheck :=
  match regionAt a with
  | .domain _ => checkWord raw
  | .half r =>
    match (s.region (.half r)).deadCheck with
    | [p] => checkErased raw (if p = 16 then 2 else 0)
    | _ => checkWord raw

/-- The stored bytes of the tier word at a canonical address: the lost pattern in a dead unit. -/
def State.tierRaw (s : State) (a : Nat) : List Byte := if s.deadGranule a then lostWord else rawWord s.tiers (a / 32)

/-- Write the word at a canonical address; a word of a dead unit takes no write (R268). -/
def State.tierPut (s : State) (a : Nat) (w : List Byte) : State :=
  if s.deadGranule a then s else { s with tiers := putWord s.tiers (a / 32) w }

/-- The unit that a corrected word's error counts on: the one that holds the corrected symbol (R245, log 54). -/
def State.errUnit (s : State) (a : Nat) (raw w : List Byte) : MemUnit :=
  match regionAt a, (List.range 36).find? fun i => raw.getD i 0 != w.getD i 0 with
  | .half r, some i => if h : 32 ≤ i ∧ i < 36 then .package r ⟨16 + (i - 32) / 2, by omega⟩ else s.unitAt a
  | _, _ => s.unitAt a

/-- Bytes of an error pattern put on a word. -/
def xorBytes (w e : List Byte) : List Byte := (List.range w.length).map fun i => w.getD i 0 ^^^ e.getD i 0

/-- A corrected word is counted and written back; where the second read needs correction too, with the error `e2` that it meets,
the word is a hard error (R251, R263, R275). -/
def State.writeBack (s : State) (u : MemUnit) (a : Nat) (w e2 : List Byte) : State :=
  let b := if regionUnits (unitRegion u) ≤ unitNo u then (a - regionBase (unitRegion u)) / 32 * 2 else (s.placeAt a).2
  let s := (s.modUnit u fun x => { x with ce := satInc x.ce, passCe := x.passCe + 1 }).tierPut a w
  match s.tierCheck a (xorBytes w e2) with
  | .clean _ => s
  | _ => s.modUnit u fun x =>
    { x with hard := satInc x.hard, hardAt := if x.hardAt.contains b then x.hardAt else b :: x.hardAt }

/-- What a reader counts of a word that cannot be used (R252, R275). -/
def State.countBad (s : State) (u : MemUnit) (lost : Bool) : State :=
  if lost then s.modUnit u fun x => { x with lost := satInc x.lost }
  else s.modUnit u fun x => { x with ue := satInc x.ue, passUe := x.passUe + 1 }

/-- Read the word at a canonical address as a demand read (R251, R253): its data, none when it cannot be used, and the unit that an
error counts on. What the second read after a correction meets is a free value (log 5). -/
def State.tierRead (s : State) (a : Nat) : Option (List Byte) × Option MemUnit × State :=
  let raw := s.tierRaw a
  match s.tierCheck a raw with
  | .clean d => (some d, none, s)
  | .corrected d w =>
    let u := s.errUnit a raw w
    let e := Config.secondRead s.freeCount
    (some d, some u, ({ s with freeCount := s.freeCount + 1 } : State).writeBack u a w e)
  | .lost => (none, some (s.unitAt a), s.countBad (s.unitAt a) true)
  | .bad => (none, some (s.unitAt a), s.countBad (s.unitAt a) false)

/-! ## Runs of whole words -/

/-- Read `n` words from a device address, a word that is unmapped or cannot be used giving none. -/
def State.readWords : Nat → State → Nat → List (Option (List Byte)) × State
  | 0, s, _ => ([], s)
  | n + 1, s, a =>
    let (w, s) := match s.canon a with
      | some c => let (d, _, s) := s.tierRead c; (d, s)
      | none => (none, s)
    let (ws, s) := s.readWords n (a + 32)
    (w :: ws, s)

/-- Write words from a device address, none as the lost pattern (R252); unmapped words move nothing (R239). -/
def State.writeWords : List (Option (List Byte)) → State → Nat → State
  | [], s, _ => s
  | w :: ws, s, a =>
    let raw := match w with | some d => encodeWord d | none => lostWord
    let s := match s.canon a with
      | some c => s.tierPut c raw
      | none => s
    State.writeWords ws s (a + 32)

/-- Bytes as words of 32, the last filled with zeros. -/
def toWords : Nat → List Byte → List (Option (List Byte))
  | 0, _ => []
  | n + 1, bs => some (fitBytes 32 (bs.take 32)) :: toWords n (bs.drop 32)

/-- The bytes of words, zeros for a word that cannot be used. -/
def plainBytes (ws : List (Option (List Byte))) : List Byte := ws.flatMap fun w => w.getD (zeroBytes 32)

/-- Can every word be used? -/
def wordsGood (ws : List (Option (List Byte))) : Bool := ws.all (·.isSome)

end Sys2Proof.Machine
end

