-- ==== Sys2Proof/Machine/Layout.lean ====
section
/-! DEFINITION. Where a program and its job lie in the tiers: sizes of tensors, job parameter order, terrace groups, the survival
regions of each half and the records in them, and the write-through area (R213, R214, R231, R240, R247, R286 to R292, R299, R318,
R319, R326, R327, R333 to R335). -/

namespace Sys2Proof.Machine

/-- The rank before another (R319). -/
def prevRank (n rank : Nat) : Nat := if n = 0 then 0 else (rank + n - 1) % n
/-- The rank after another. -/
def nextRank (n rank : Nat) : Nat := if n = 0 then 0 else (rank + 1) % n
/-- The sum of a list. -/
def sumOf (l : List Nat) : Nat := l.foldl (· + ·) 0
/-- A number rounded up to a multiple of `k`. -/
def upTo (k n : Nat) : Nat := (n + k - 1) / k * k

end Sys2Proof.Machine

namespace Sys2Proof

open Machine (sumOf upTo)

/-! ## Sizes (R56, R59, R69, R214) -/

/-- Bytes of 32 elements of a format, exponents included. -/
def blockBytes (fmt : Nat) : Nat :=
  match fmt with
  | 0x00 => 256
  | 0x01 => 128
  | 0x02 => 64
  | 0x10 => 65
  | 0x11 | 0x13 => 33
  | 0x12 | 0x14 => 17
  | 0x20 | 0x21 => 32
  | 0x22 | 0x23 => 16
  | 0x30 => 226
  | 0x31 => 98
  | _ => 0

/-- The product of the dimensions other than the reduction axis, and the padded length along it (R56). -/
def TensorDecl.dims (t : TensorDecl) : Nat × Nat :=
  let ds := t.shape.take (max 1 t.rank)
  ((List.range ds.length).foldl (fun a i => if i = t.raxis then a else a * ds.getD i 1) 1, upTo 32 (ds.getD t.raxis 1))

/-- Elements along the reduction axis, without padding. -/
def TensorDecl.along (t : TensorDecl) : Nat := t.shape.getD t.raxis 1

/-- Bytes of a tensor (R214). -/
def TensorDecl.bytes (t : TensorDecl) : Nat := let (o, n) := t.dims; o * (n / 32) * blockBytes t.format.toNat

/-- Positions of a STATE tensor in job parameter order (R286): rounded up to 1,024. -/
def TensorDecl.positions (t : TensorDecl) : Nat := let (o, n) := t.dims; upTo 1024 (o * n)

/-- Parameters of a rank's shard (R226). -/
def Image.shard (i : Image) (rank : Nat) : Nat := i.shards.getD rank 0

/-- S: state-record bytes of a shard with its t_g table (R231, R287, R290). -/
def Image.stateBytes (i : Image) (rank : Nat) : Nat := i.shard rank / 1024 * 6208 + 16384

/-- Q: reduced-gradient bytes of a shard (R231, R288). -/
def Image.gradBytes (i : Image) (rank : Nat) : Nat := i.shard rank / 1024 * 2080

/-- Size of the spread region an image asks for (R231). -/
def Image.spread (i : Image) : Nat := upTo (2 ^ 32) (sumOf ((i.tensors.filter (·.tier == 2)).map (·.bytes)))

/-! ## Live tensors (R224, R231) -/

/-- Tensors that a node writes (R215). -/
def GraphNode.outs (n : GraphNode) : List Nat :=
  n.stores ++ match n.kind with
    | .matmul _ _ out _ _ => [out]
    | .reduce _ _ dst => [dst]
    | .collective _ t | .windowIn _ t => [t]
    | _ => []

/-- Tensors that a node names. -/
def GraphNode.tensors (n : GraphNode) : List Nat :=
  n.outs ++ match n.kind with
    | .matmul a b _ _ _ => [a, b]
    | .reduce _ src _ => [src]
    | .kernel _ args _ _ _ _ | .solver _ args => args
    | .windowOut _ t => [t]
    | _ => []

/-- Is a tensor one that the recompute plan rebuilds in BACKWARD (R224)? -/
def Image.rebuilt (i : Image) (t : Nat) : Bool :=
  i.recompute.any fun e => i.nodes.any fun n => e.nodes.contains n.id && n.outs.contains t

/-- Is a tensor named by a node of a phase, or as a checkpoint in BACKWARD (phase 5)? -/
def Image.usedIn (i : Image) (t p : Nat) : Bool :=
  (i.nodes.any fun n => n.phase == p && n.tensors.contains t) || (p == 5 && i.recompute.any (·.checkpoint == t))

/-- Does a tensor live in a phase: from the first that uses it to the last, a tensor that is rebuilt again in BACKWARD, and one
that is not a STEP tensor always (R224, R231, log 66)? -/
def Image.live (i : Image) (t : TensorDecl) (p : Nat) : Bool :=
  let again := i.rebuilt t.id
  let uses := (List.range 12).filter fun q => i.usedIn t.id q && !(again && q == 5)
  t.lifetime != 0 || (uses.any (decide <| · ≤ p) && uses.any (decide <| p ≤ ·)) || (again && p == 5)

/-- The most bytes over the phases of the live tensors that a test picks. -/
def Image.peak (i : Image) (here : TensorDecl → Bool) : Nat :=
  ((List.range 12).map fun p => sumOf ((i.tensors.filter fun t => here t && i.live t p).map (·.bytes))).foldl max 0

/-- TIER 1 tensors of a fast domain at their peak (R231). -/
def Image.peakFast (i : Image) (d : Nat) : Nat := i.peak fun t => t.tier == 1 && t.place == d
/-- TIER 0 tensors of a jet at their peak. -/
def Image.peakStore (i : Image) (j : Nat) : Nat := i.peak fun t => t.tier == 0 && t.jets.contains j

/-- Bytes that the update writes through to a fast domain (R231, R299): record i of the shard goes to domain i mod 4. -/
def Image.weightBytes (i : Image) (rank d : Nat) : Nat := (i.shard rank / 1024 + 3 - d) / 4 * 2080

/-- Bytes a fast domain needs (R231). -/
def Image.fastNeed (i : Image) (rank d : Nat) : Nat := i.peakFast d + i.spread / 4 + i.weightBytes rank d

/-- A of R231. -/
def Image.survivalNeed (i : Image) (rank depth g : Nat) : Nat :=
  let p := Machine.prevRank i.shards.length rank
  2 * i.stateBytes rank + 2 * i.stateBytes p + (depth + 1) * i.gradBytes p + i.stateBytes rank / max 1 g

/-- TIER 3 tensors of a half: those placed in it and half of those placed in both (R231); a STATE tensor lies in the state records. -/
def Image.tier3 (i : Image) (r : Nat) : Nat :=
  let of (p : Nat) : Nat := sumOf ((i.tensors.filter fun t => t.tier == 3 && t.lifetime != 2 && t.place == p).map (·.bytes))
  of r + of 2 / 2

/-- Bytes a slow half needs (R231). -/
def Image.slowNeed (i : Image) (rank depth g host r : Nat) : Nat := i.survivalNeed rank depth g / 2 + host / 2 + i.tier3 r

/-! ## Job parameter order (R286, R289) -/

/-- STATE tensors in the order declared. -/
def Image.stateTensors (i : Image) : List TensorDecl := i.tensors.filter fun t => t.lifetime == 2

/-- The tensor that holds a record, with the record's place in it. -/
def tensorAt : List TensorDecl → Nat → Option (TensorDecl × Nat)
  | [], _ => none
  | t :: ts, k => let n := t.positions / 1024; if k < n then some (t, k) else tensorAt ts (k - n)

/-- The tensor of a record by RECORD_INDEX. -/
def Image.recordAt (i : Image) (idx : Nat) : Option (TensorDecl × Nat) := tensorAt i.stateTensors idx

/-- The parameter group of a record. -/
def Image.recordGroup (i : Image) (idx : Nat) : Nat := ((i.recordAt idx).map fun p => p.1.group).getD 0

/-- Is a group frozen (R226)? -/
def Image.frozen (i : Image) (g : Nat) : Bool := (i.groups[g]?).any (·.frozen)

/-- The half a record lies in (R289). -/
def Image.recordHalf (i : Image) (idx : Nat) : Nat :=
  match i.recordAt idx with
  | some (t, k) => if t.place = 2 then k % 2 else t.place
  | none => 0

/-- Is a position of a record a padding position (R286)? -/
def Image.paddingAt (i : Image) (idx p : Nat) : Bool :=
  match i.recordAt idx with
  | some (t, k) =>
    let (o, n) := t.dims
    let q := 1024 * k + p
    decide (o * n ≤ q) || decide ((t.shape.take (max 1 t.rank)).getD t.raxis 1 ≤ q % n)
  | none => true

/-- RECORD_INDEX of the first record of a rank's shard (R286). -/
def Image.shardFirst (i : Image) (rank : Nat) : Nat := sumOf (i.shards.take rank) / 1024

/-- RECORD_INDEX of the records of a rank's shard (R286). -/
def Image.shardRecords (i : Image) (rank : Nat) : List Nat := (List.range (i.shard rank / 1024)).map (i.shardFirst rank + ·)

/-- Records of a rank's shard that lie in a half, in job parameter order (R295). -/
def Image.bank (i : Image) (rank r : Nat) : List Nat := (i.shardRecords rank).filter fun x => i.recordHalf x == r

/-- Bytes of one version of a shard in a half: its records, and in half 0 the t_g table (R290, R319). -/
def Image.slotBytes (i : Image) (rank r : Nat) : Nat := (i.bank rank r).length * 6208 + (if r = 0 then 16384 else 0)

/-- Place of a record among the records of its shard in its half, in bytes from the start of a version. -/
def Image.recordOffset (i : Image) (rank idx : Nat) : Nat :=
  let r := i.recordHalf idx
  (if r = 0 then 16384 else 0) + 6208 * (i.bank rank r).idxOf idx

/-- Bytes of a ring slot in a half (R319). -/
def Image.ringBytes (i : Image) (rank r : Nat) : Nat := (i.bank rank r).length * 2080 + (if r = 0 then 534848 else 0)

end Sys2Proof

namespace Sys2Proof.Machine

/-! ## Ranks and terrace groups (R318, R333, R334) -/

/-- Ranks in the job's rank table. -/
def State.ranks (s : State) : Nat := (s.job.image.map (·.shards.length)).getD 0
/-- The rank whose replica this module holds (R318). -/
def State.predecessor (s : State) : Nat := prevRank s.ranks s.coll.rank
/-- The partner of this module (R318). -/
def State.partnerRank (s : State) : Nat := nextRank s.ranks s.coll.rank

/-- Does the job have terrace cover (R333)? -/
def State.hasTerrace (s : State) : Bool :=
  let g := s.job.policy.g
  decide (0 < g) && s.ranks % g == 0 && decide (3 ≤ s.ranks / g)
/-- Number of terrace groups. -/
def State.groupsN (s : State) : Nat := if s.job.policy.g = 0 then 0 else s.ranks / s.job.policy.g
/-- Terrace group of a rank. -/
def State.groupOf (s : State) (rank : Nat) : Nat := rank % max 1 s.groupsN
/-- Member index of a rank. -/
def State.memberOf (s : State) (rank : Nat) : Nat := rank / max 1 s.groupsN
/-- The rank of a group's member. -/
def State.rankAt (s : State) (group member : Nat) : Nat := group + member * s.groupsN
/-- The group that holds a group's parity. -/
def State.holderGroup (s : State) (group : Nat) : Nat := (group + 2) % max 1 s.groupsN
/-- The group whose parity a rank holds. -/
def State.heldGroup (s : State) (rank : Nat) : Nat := (s.groupOf rank + 2 * s.groupsN - 2) % max 1 s.groupsN

/-- L of a group (R334): a rank's secured image is its records and its t_g table. -/
def State.groupLen (s : State) (j : Nat) : Nat :=
  match s.job.image with
  | some i =>
    let g := s.job.policy.g
    upTo (32 * max 1 g) (((List.range g).map fun k => i.stateBytes (s.rankAt j k)).foldl max 0)
  | none => 0

/-- S_par: bytes of the parity share this module holds (R334); none without terrace cover. -/
def State.shareBytes (s : State) : Nat :=
  if s.hasTerrace then s.groupLen (s.heldGroup s.coll.rank) / max 1 s.job.policy.g else 0

/-! ## The survival regions (R319) -/

/-- Offsets in a half of the regions of R319, in the order of its table, and the end of the last. -/
structure Regions where
  own : Nat
  held : Nat
  ring : Nat
  lanes : Nat
  parity : Nat
  secured : Nat
  finish : Nat
  deriving DecidableEq, Repr

/-- Bytes of the parity share with its header that lie in each half (R319, log 66). -/
def State.parityHalf (s : State) : Nat := if s.hasTerrace then upTo 64 (s.shareBytes + 4096) / 2 else 0

/-- The survival regions of a half, upward from the end of its TIER 3 tensors (R319, log 66). -/
def State.regions (s : State) (i : Image) (r : Nat) : Regions :=
  let own := upTo 32 (s.caps.hostWindow / 2 + i.tier3 r)
  let held := own + 2 * i.slotBytes s.coll.rank r
  let ring := held + 2 * i.slotBytes s.predecessor r
  let lanes := ring + (s.job.policy.d + 1) * i.ringBytes s.predecessor r
  let parity := lanes + (if r = 0 then 262144 else 0)
  let secured := parity + s.parityHalf
  ⟨own, held, ring, lanes, parity, secured, secured + (if s.hasTerrace then i.slotBytes s.coll.rank r else 0)⟩

/-- First device address of a half. -/
def halfBase (r : Nat) : Nat := slowBase + r * 2 ^ 41

/-- First device address of a version of the own or held records in a half, the t_g table of half 0 first. -/
def State.slotAddr (s : State) (i : Image) (held slot : Bool) (r : Nat) : Nat :=
  let g := s.regions i r
  let rank := if held then s.predecessor else s.coll.rank
  halfBase r + (if held then g.held else g.own) + (if slot then i.slotBytes rank r else 0)

/-- Device address of a record of a version; a frozen record has one copy (R290, R291, R319). -/
def State.recordAddr (s : State) (i : Image) (held slot : Bool) (idx : Nat) : Nat :=
  s.slotAddr i held (slot && !i.frozen (i.recordGroup idx)) (i.recordHalf idx) +
    i.recordOffset (if held then s.predecessor else s.coll.rank) idx

/-- Device address of a record of the secured copy (R319). -/
def State.securedAddr (s : State) (i : Image) (idx : Nat) : Nat :=
  let r := i.recordHalf idx
  halfBase r + (s.regions i r).secured + i.recordOffset s.coll.rank idx

/-- Device addresses of a ring slot: its fixed part in half 0, and a gradient record in the half of its state record (R319). -/
def State.ringAddr (s : State) (i : Image) (slot : Nat) : Nat := halfBase 0 + (s.regions i 0).ring + slot * i.ringBytes s.predecessor 0
/-- Device address of the gradient record of a record in a ring slot. -/
def State.gradAddr (s : State) (i : Image) (slot idx : Nat) : Nat :=
  let r := i.recordHalf idx
  halfBase r + (s.regions i r).ring + slot * i.ringBytes s.predecessor r + (if r = 0 then 534848 else 0) +
    2080 * (i.bank s.predecessor r).idxOf idx

/-- Device address of byte `o` of the parity share with its header, the header first and the first part of both in half 0 (R319, log
66). -/
def State.parityAddr (s : State) (i : Image) (o : Nat) : Nat :=
  let h := s.parityHalf
  let r := if o < h then 0 else 1
  halfBase r + (s.regions i r).parity + (if o < h then o else o - h)

/-- Device ranges of the state-record slots, own and held (R292). -/
def State.slotRanges (s : State) (i : Image) : List (Nat × Nat) :=
  [false, true].flatMap fun held => [false, true].flatMap fun slot => (List.range 2).map fun r =>
    (s.slotAddr i held slot r + (if r = 0 then 16384 else 0),
     6208 * (i.bank (if held then s.predecessor else s.coll.rank) r).length)

/-- The ranges that job set-up opens, by rank of the sender: the ring to the predecessor and the parity share to the members whose
parity it is; on a spare also the own state and the held replica to its donors, and the secured copy to the holders (R319, R346,
R370, log 37). -/
def State.openRanges (s : State) (i : Image) : List (Nat × Nat × Nat) :=
  let halves (f : Nat → Nat × Nat) : List (Nat × Nat) := (List.range 2).map fun r => (halfBase r + (f r).1, (f r).2)
  let towards (ranks : List Nat) (l : List (Nat × Nat)) : List (Nat × Nat × Nat) := ranks.flatMap fun k => l.map fun q => (k, q.1, q.2)
  let members (j : Nat) : List Nat := (List.range s.job.policy.g).map fun k => s.rankAt j k
  let ring := halves fun r => ((s.regions i r).ring, (s.job.policy.d + 1) * i.ringBytes s.predecessor r)
  let parity := halves fun r => ((s.regions i r).parity, s.parityHalf)
  let own := halves fun r => ((s.regions i r).own, 2 * i.slotBytes s.coll.rank r)
  let held := halves fun r => ((s.regions i r).held, 2 * i.slotBytes s.predecessor r)
  let secured := halves fun r => ((s.regions i r).secured, i.slotBytes s.coll.rank r)
  let holders := if s.hasTerrace then members (s.holderGroup (s.groupOf s.coll.rank)) else []
  towards [s.predecessor] ring ++ (if s.hasTerrace then towards (members (s.heldGroup s.coll.rank)) parity else []) ++
    if s.job.spareRank.isSome then
      towards [s.partnerRank] own ++ towards [s.predecessor] held ++ towards holders (own ++ secured)
    else []

/-! ## Records -/

/-- The t_g table of a version (R290). -/
def Shard.t (sh : Shard) (b : Bool) : List W32 := if b then sh.t1 else sh.t0
/-- A version's t_g table replaced. -/
def Shard.putT (sh : Shard) (b : Bool) (x : List W32) : Shard := if b then { sh with t1 := x } else { sh with t0 := x }

/-- Words of a state record (R287). -/
def recordWords : Nat := 194

/-- Read a record of a version, a word that cannot be used giving none. -/
def State.readRecord (s : State) (i : Image) (held slot : Bool) (idx : Nat) : List (Option (List Byte)) × State :=
  s.readWords recordWords (s.recordAddr i held slot idx)

/-- Write a record of a version. -/
def State.writeRecord (s : State) (i : Image) (held slot : Bool) (idx : Nat) (bs : List Byte) : State :=
  State.writeWords (toWords recordWords bs) s (s.recordAddr i held slot idx)

/-- A record of version V with a word that cannot be used is to be copied from the other side of its pair (R340). -/
def State.noteBad (s : State) (held : Bool) (idx : Nat) : State :=
  if s.job.repair.contains (held, idx) then s else { s with job := { s.job with repair := s.job.repair ++ [(held, idx)] } }

/-- The bytes of a record of version V as a reader takes them: a record that cannot be used is noted for repair (R340). -/
def State.takeRecord (s : State) (i : Image) (held : Bool) (idx : Nat) : List (Option (List Byte)) × State :=
  let (ws, s) := s.readRecord i held s.record.slot idx
  (ws, if wordsGood ws then s else s.noteBad held idx)

/-! ## The store-path digest (R327, R328) -/

/-- Double in GF(2^128). -/
def gf128Double (a : Nat) : Nat := let d := 2 * a; if 2 ^ 128 ≤ d then (d ^^^ (2 ^ 128 + 0x87)) % 2 ^ 128 else d

/-- Product in GF(2^128): `n` bits of `b` from the top. -/
def gf128MulBits : Nat → Nat → Nat → Nat → Nat
  | 0, _, _, acc => acc
  | n + 1, a, b, acc =>
    let d := gf128Double acc
    gf128MulBits n a b (if b / 2 ^ n % 2 = 1 then d ^^^ a else d)

/-- Product in GF(2^128). -/
def gf128Mul (a b : Nat) : Nat := gf128MulBits 128 a b 0

/-- record_term over 16-byte blocks. -/
def recordTermFrom (key : Nat) : Nat → Nat → List Byte → Nat
  | 0, h, _ => h
  | n + 1, h, bs => recordTermFrom key n (gf128Mul (h ^^^ leNat (bs.take 16)) key) (bs.drop 16)

/-- record_term of R327. -/
def recordTerm (key : W128) (bs : List Byte) : W128 := BitVec.ofNat 128 (recordTermFrom key.toNat (bs.length / 16) 0 bs)

/-- A t_g table as stored: 4,096 counts of 4 bytes (R290). -/
def tTableBytes (t : List W32) : List Byte := (List.range 4096).flatMap fun g => leBytes 4 (t.getD g 0).toNat

/-- The digest of a version of the own or held shard (R327): every record as stored, and the t_g table. -/
def State.shardDigest (s : State) (i : Image) (held slot : Bool) : W128 × State :=
  let rank := if held then s.predecessor else s.coll.rank
  let t := if held then s.job.held.t slot else s.job.own.t slot
  (i.shardRecords rank).foldl (fun (a : W128 × State) x =>
    let (ws, s) := a.2.readRecord i held slot x
    (a.1 + recordTerm s.job.key (plainBytes ws), s)) (recordTerm s.job.key (tTableBytes t), s)

/-! ## Write-through (R240, R299, R300) -/

/-- First device address of a fast domain's write-through area, above its share of the spread region and its TIER 1 tensors (R240,
log 66). -/
def throughBase (i : Image) (d : Nat) : Nat := d * 2 ^ 39 + i.spread / 4 + upTo 256 (i.peakFast d)

/-- Device address of the written-through W and WE of own record number `n` (R299). -/
def throughAddr (i : Image) (n : Nat) : Nat := throughBase i (n % 4) + 2080 * (n / 4)

/-- Write an own record's W and WE through to the fast tier (R299): words 1 to 65 of the record. -/
def State.writeThrough (s : State) (i : Image) (idx : Nat) (ws : List (Option (List Byte))) : State :=
  State.writeWords ((ws.drop 1).take 65) s (throughAddr i (idx - i.shardFirst s.coll.rank))

/-- Rewrite the written-through weights from slot V (R300). -/
def State.rewriteWeights (s : State) : State :=
  match s.job.image with
  | some i =>
    (i.shardRecords s.coll.rank).foldl (fun s idx =>
      let (ws, s) := s.takeRecord i false idx
      s.writeThrough i idx ws) s
  | none => s

end Sys2Proof.Machine
end

