-- ==== Sys2Proof/Machine/Totals.lean ====
section
/-! DEFINITION. The step totals: at a step boundary the firmware reads every counter, which clears it, and keeps the sums (R12,
R79, R123, R149, R316, R354, R485). -/

namespace Sys2Proof.Machine

/-- A sum, stopping at all-ones of 64 bits. -/
def satSum (l : List W32) : W64 := satAdd (0 : W64) ((l.map (·.toNat)).foldl (· + ·) 0)

/-- Every rill core of the module. -/
def State.allCores (s : State) : List Core := s.jets.toList.map (·.core) ++ s.runnels.toList.flatMap fun r => r.cores.toList

/-- Every array of the module. -/
def State.allArrays (s : State) : List Arr := s.jets.toList.flatMap fun j => j.arrays.toList

/-- The registers of every memory unit. -/
def State.allUnits (s : State) : List UnitSt :=
  s.basins.toList.flatMap (fun b => b.units.map (·.2)) ++ s.runnels.toList.flatMap fun r => r.units.map (·.2)

/-- Total `i` of STEP_STATUS (R485) as the counters stand. -/
def State.total (s : State) (i : Nat) : W64 :=
  let f (g : Core → W32) : W64 := satSum (s.allCores.map g)
  let a (g : Arr → W32) : W64 := satSum (s.allArrays.map g)
  let b (g : Basin → W32) : W64 := satSum (s.basins.toList.map g)
  let u (g : UnitSt → W32) : W64 := satSum (s.allUnits.map g)
  match i with
  | 0 => f (·.fmt.sat)
  | 1 => f (·.fmt.poison)
  | 2 => f (·.fmt.blkUfl)
  | 3 => f (·.fmt.ufl)
  | 4 => a (·.stall)
  | 5 => a (·.isat)
  | 6 => a (·.xsat)
  | 7 => a (·.rpoison)
  | 8 => b (·.conflict)
  | 9 => b (·.snt.sampled)
  | 10 => b (·.snt.disagree)
  | 11 => b (·.snt.skip)
  | 12 => b (·.snt.preempt)
  | 13 => f (·.hazard)
  | 14 => u (·.ce)
  | 15 => u (·.hard)
  | 16 => u (·.ue)
  | 17 => u (·.lost)
  | 18 => u (·.repair)
  | 19 => satSum (s.cisterns.toList.map (·.xpose))
  | 58 => satSum [s.record.stale]
  | i =>
    if i < 26 then satSum (s.runnels.toList.map fun r => r.cnt.get 0 (i - 20))
    else if i < 32 then satSum [s.job.cnt.get 0 (i - 26)]
    else if i < 38 then satSum [s.weir.cnt.get 0 (i - 32)]
    else if i < 48 then satSum (s.weir.ports.toList.map fun p => p.cnt.get 0 (i - 38))
    else satSum [s.coll.cnt.get 0 (i - 48)]

/-- A memory unit's counters cleared by the read. -/
def UnitSt.read (u : UnitSt) : UnitSt := { u with ce := 0, hard := 0, ue := 0, lost := 0, repair := 0 }
/-- A core's counters cleared by the read; the sticky flags stay. -/
def Core.readCounters (k : Core) : Core := { k with fmt := { k.fmt with sat := 0, poison := 0, blkUfl := 0, ufl := 0 }, hazard := 0 }
/-- An array's counters cleared by the read. -/
def Arr.readCounters (a : Arr) : Arr := { a with stall := 0, isat := 0, xsat := 0, rpoison := 0 }
/-- A jet's counters cleared by the read. -/
def Jet.readCounters (j : Jet) : Jet := { j with core := j.core.readCounters, arrays := j.arrays.map Arr.readCounters }
/-- A basin die's counters cleared by the read. -/
def Basin.readCounters (b : Basin) : Basin :=
  { b with conflict := 0, snt := { b.snt with sampled := 0, disagree := 0, skip := 0, preempt := 0 },
           units := b.units.map fun p => (p.1, p.2.read) }
/-- A Runnel die's counters cleared by the read. -/
def Runnel.readCounters (r : Runnel) : Runnel :=
  { r with cores := r.cores.map Core.readCounters, cnt := [], units := r.units.map fun p => (p.1, p.2.read) }

/-- Every counter of R485 read, which clears it (R12). -/
def State.readCounters (s : State) : State :=
  { s with
    jets := s.jets.map Jet.readCounters
    basins := s.basins.map Basin.readCounters
    cisterns := s.cisterns.map fun c => { c with xpose := 0 }
    runnels := s.runnels.map Runnel.readCounters
    record := { s.record with stale := 0 }
    job := { s.job with cnt := [] }
    weir := { s.weir with cnt := [], ports := s.weir.ports.map fun p => { p with cnt := [] } }
    coll := { s.coll with cnt := [] } }

/-- A step boundary (R79, R485): the counters are read, and the totals kept with those of the 15 boundaries before. -/
def State.boundary (s : State) : State :=
  let t : Tbl W64 := (List.range 59).map fun i => (i, s.total i)
  let us := (s.uptime - s.job.stepStart.toNat) / 1000
  let s' := s.readCounters
  { s' with job := { s'.job with totals := ((s.record.globalStep, BitVec.ofNat 64 us, t) :: s.job.totals).take 16 } }

end Sys2Proof.Machine
end

