-- ==== Sys2Proof/Machine/StepOps.lean ====
section
/-! DEFINITION. Operations on a step that several commands share: lane capture and restoring, the revert of R331, the
resumable halt of R342, and what a fault of a core does to the step (R197, R301, R340). -/

namespace Sys2Proof.Machine

/-- Copy every lane's state into its SAVED register (R191, R303). -/
def State.captureLanes (s : State) : State :=
  { s with
    jets := s.jets.map fun j => { j with core := { j.core with saved := j.core.lanes } },
    runnels := s.runnels.map fun r => { r with cores := r.cores.map fun k => { k with saved := k.lanes } } }

/-- Restore every lane from its SAVED register (R331). -/
def State.restoreLanes (s : State) : State :=
  { s with
    jets := s.jets.map fun j => { j with core := { j.core with lanes := j.core.saved } },
    runnels := s.runnels.map fun r => { r with cores := r.cores.map fun k => { k with lanes := k.saved } } }

/-- A dispatcher as a step starts: its counts are those of the current step (R315), and a halt on UPDATE_FAULT shows until the pass
runs again (R314). -/
def Runnel.clearStep (x : Runnel) : Runnel :=
  { x with state := if x.state = 3 then 3 else 0, ownDone := false, heldDone := false, ownCount := 0, heldCount := 0 }

/-- The data plane's fields of the record and the job's view of the step as a step starts. -/
def State.clearStep (s : State) : State :=
  { s with
    runnels := s.runnels.map Runnel.clearStep
    record := { s.record with doneStep := s.record.globalStep, doneMask := 0, result := 0 },
    coll := { s.coll with
      readyFrom := [], readyCarried := [], window := false, started := none, finished := [],
      accepted := s.coll.accepted.filter fun e => e.2.1.step == s.record.globalStep.truncate 32 },
    job := { s.job with
      started := [], finished := [], rerun := [], rerunDone := [], toPlace := [], desc := none, acked := false,
      predComplete := false, heldLoaded := false, leftOut := none, vote := none, decided := none, fromPartner := none,
      stepStart := s.keeper.uptime } }

/-- Set bit `n` of DONE_MASK for the step in progress (R26). -/
def State.setDone (s : State) (n : Nat) : State :=
  { s with record := { s.record with doneStep := s.record.globalStep, doneMask := setBit s.record.doneMask n true } }

/-- A phase the image has no work in is passed through at once, with its DONE_MASK bit set (R40). -/
def State.passEmpty (s : State) : State :=
  let p := s.record.phase.toNat
  let work := match s.job.image with
    | some i => i.nodes.any fun n => n.phase == p
    | none => false
  if (decide (1 ≤ p) && decide (p ≤ 5) || p == 8) && !work then s.setDone p else s

/-- PHASE becomes FORWARD: lanes are captured and the step starts (R191, R27). -/
def State.enterForward (s : State) : State :=
  let s := s.captureLanes.clearStep
  ({ s with record := { s.record with phase := 1 } } : State).passEmpty

/-- The program is unloaded (R488): memory contents stay. -/
def State.unload (s : State) : State :=
  { s with
    jets := s.jets.map fun j => { j with core := { j.core with code := (0, 0) } }
    runnels := s.runnels.map fun r => { r with cores := r.cores.map fun k => { k with code := (0, 0) } }
    weir := { s.weir with opened := [] }
    job := { s.job with image := none, spread := 0, started := [], finished := [], rerun := [], rerunDone := [], toPlace := [],
                        spare := 0, spareRank := none } }

/-- DETAIL of WRONG_STATE (R482). -/
def State.wrongDetail (s : State) : Nat := s.record.phase.toNat + 256 * s.coll.state.toNat

/-- The refusal record of an acceptance (R230). -/
def acceptRecord : List Byte := leBytes 2 0 ++ leBytes 2 0xFFFF ++ zeroBytes 28

/-- Complete a mailbox named by number. -/
def State.completeAt (s : State) (n status detail : Nat) (out : List Byte) : State :=
  if h : n < 8 then s.complete ⟨n, h⟩ status detail out else s

/-- GLOBAL_STEP of the last committed step (R488). -/
def State.lastCommitted (s : State) : W64 :=
  let r := s.record
  if (r.doneStep == r.globalStep && r.doneMask.getLsbD 9 && r.result == 1) || r.globalStep == 0 then r.globalStep
  else r.globalStep - 1

/-- A job ends at its step boundary in a resumable halt (R342): the counters of the step are read (R123), commands that wait for the
job complete, and the module that HALT was issued to unloads its program (R488). -/
def State.jobHalt (s : State) (cause : Nat) : State :=
  let last := s.lastCommitted
  let s := if s.record.phase = 0x0A then s else s.boundary
  let j := s.job
  let s := { s with
    record := { s.record with phase := 0 }
    job := { j with running := false, last := 3, haltAt := none, haltBoxes := [], secureBoxes := [], policyBoxes := [],
                    runBox := none, abortDue := none, decided := none, repair := [] } }
  let s := (s.event 0x0046 3 srcFw [cause]).raise icStep
  let s := if j.haltBoxes.isEmpty then s else s.unload
  let s := j.haltBoxes.foldl (fun s n => s.completeAt n 0 0 (leBytes 8 last.toNat)) s
  let s := s.completeAll (j.secureBoxes ++ j.policyBoxes) 7 s.wrongDetail
  match j.runBox with
  | some n => s.completeAt n 0xD s.coll.rank []
  | none => s

/-- Unhalt and release every core: the step runs again from its start. -/
def State.freeCores (s : State) : State :=
  { s with
    jets := s.jets.map fun j => { j with core := { j.core with held := none, resume := 0, resumed := false } },
    runnels := s.runnels.map fun r =>
      { r with staged := [], ahead := [], nextOwn := [], nextHeld := [],
               cores := r.cores.map fun k => { k with halted := true, held := none, staged := none, heldBank := false } } }

/-- The collectives of a step that is not finished are dropped (log 35). -/
def Coll.dropStep (c : Coll) : Coll :=
  { c with opened := [], sent := [], accepted := [], early := [], finished := [], readyFrom := [], readyCarried := [], window := false, started := none }

/-- A reason becomes active or inactive; an onset is counted, stamped, and sets FH_INT_CAUSE.POWER (R526). -/
def State.setThr (s : State) (c : Nat) (on : Bool) : State :=
  let t := s.sluice.thr.get {} c
  if on && !t.active then
    let t' := { t with count := satInc t.count, onset := s.keeper.uptime, active := true }
    ({ s with sluice := { s.sluice with thr := s.sluice.thr.set c t' } } : State).raise icPower
  else if !on && t.active then
    { s with sluice := { s.sluice with thr := s.sluice.thr.set c { t with active := false } } }
  else s

/-- Does the firmware serve (R39)? -/
def State.fwServes (s : State) : Bool := s.keeper.rails && s.keeper.ctrlReady && !s.keeper.fwRestart

/-- The records of version V with a word that cannot be used, own and held (R340). -/
def State.findBad (s : State) : State :=
  match s.job.image with
  | some i =>
    let bad (held : Bool) (idx : Nat) : Bool :=
      let a := s.recordAddr i held s.record.slot idx
      (List.range recordWords).any fun k => match s.canon (a + 32 * k) with
        | some c => match s.tierCheck c (s.tierRaw c) with
          | .clean _ | .corrected _ _ => false
          | _ => true
        | none => true
    let find (held : Bool) (rank : Nat) (s : State) : State :=
      ((i.shardRecords rank).filter (bad held)).foldl (fun s idx => s.noteBad held idx) s
    find true s.predecessor (find false s.coll.rank s)
  | none => s

/-- The other side of each pair is asked for the records of version V that cannot be used here (R340, log 68). -/
def State.askRepair (s : State) : State :=
  s.job.repair.foldl (fun s (q : Bool × Nat) =>
    s.send (.packet (if q.1 then s.predecessor else s.partnerRank) "RECORD_COPY" [if q.1 then 0 else 1, q.2])) s

/-- After a revert the step runs again from FORWARD, unless the job halts at its end (R493), once the records that cannot be used have
been copied from the other side of their pair (R340): PHASE stays IDLE until they are there (log 68). -/
def State.rerunStep (s : State) : State :=
  if s.job.haltAt == some s.record.globalStep then s.jobHalt 0
  else if s.job.repair.isEmpty then s.enterForward
  else s.askRepair

/-- The revert of R331. STEP_REVERT carries the cause as log 20 numbers it. -/
def State.revert (s : State) (cause : Nat) : State :=
  let s := { s with
    record := { s.record with phase := 0 }
    job := { s.job with cnt := bump s.job.cnt 0, last := 2, abortDue := none, decided := none }
    coll := s.coll.dropStep }
  (((s.setThr 9 false).rewriteWeights.findBad.restoreLanes.freeCores.event 0x0040 2 srcFw [cause]).raise icStep).rerunStep

/-- The ring slot of the step in progress (R322). -/
def State.ringSlot (s : State) : Nat := s.record.globalStep.toNat % (s.job.policy.d + 1)

/-- The predecessor's entry for the step in progress, where it is complete. -/
def State.predEntry (s : State) : Option ResEntry :=
  match s.job.ring.find? (fun p => p.1 == s.ringSlot) with
  | some (_, e) => if e.globalStep = s.record.globalStep then some e else none
  | none => none

/-- Are the held-bank lanes those of an entry (R304)? -/
def State.heldLanesMatch (s : State) (e : ResEntry) : Bool :=
  (List.range 2).all fun r => (List.range 16).all fun n => (List.range 64).all fun k =>
    if h : r < 2 ∧ n < 16 then
      ((s.runnels.get ⟨r, h.1⟩).cores.get ⟨n, h.2⟩).heldLanes.get 1 k == e.coreLanes.get 1 (64 * (16 * r + n) + k)
    else true

/-- RESERVE is complete when the own entry is acknowledged, the predecessor's is complete and its lanes are loaded: DONE_MASK
bit 7 is set (R324). -/
def State.reserveCheck (s : State) : State :=
  let loaded := s.job.predComplete && (match s.predEntry with | some e => s.heldLanesMatch e | none => false)
  let s := { s with job := { s.job with heldLoaded := loaded } }
  if s.record.phase == 7 && s.job.acked && s.job.predComplete && loaded then s.setDone 7 else s

/-- Has a phase completed in the step in progress (R26)? -/
def StepRecord.done (r : StepRecord) (p : Nat) : Bool := r.doneStep == r.globalStep && r.doneMask.getLsbD p

/-- Has the step in progress committed (R330)? -/
def State.committed (s : State) : Bool := s.record.phase == 9 && s.record.done 9 && s.record.result == 1

/-- Is a step in progress that can be aborted: one that has neither committed nor left for a pause (R330, R331)? -/
def State.inStep (s : State) : Bool :=
  s.job.running && decide (1 ≤ s.record.phase.toNat) && decide (s.record.phase.toNat ≤ 9) && !s.committed

/-- The firmware acts on a STEP_ABORT or a fault by its number in `abortDue` (R331, R340). -/
def State.takeAbort (s : State) (n : Nat) : State :=
  if n = 4 then s.jobHalt 3
  else if n = 3 then (s.send (.packet 0xFFFF "STEP_ABORT" [s.record.globalStep.toNat])).revert 3
  else s.revert 2

/-- The sequencer broadcasts STEP_ABORT and the step reverts; while the firmware restarts both wait for it (R39, R331). -/
def State.abortStep (s : State) : State :=
  if !s.inStep then s
  else if !s.fwServes then { s with job := { s.job with abortDue := some 3 } }
  else s.takeAbort 3

/-- A core of this module faulted in the step (R340): STEP_ABORT is broadcast and the step reverts. A second fault in the
re-run makes the module report itself failed and stop with PHASE IDLE (log 21); a fault of a spare in the step in which it took its
rank halts the job. -/
def State.faultStep (s : State) : State :=
  if !s.inStep then s
  else if s.job.joined.contains s.coll.rank then
    (s.send (.packet 0xFFFF "STEP_ABORT" [s.record.globalStep.toNat])).jobHalt 3
  else if s.job.faulted then
    ({ s with record := { s.record with phase := 0 }, job := { s.job with running := false } } : State).send
      (.proposal 0xFFFF "FAILED" s.record.epoch [s.coll.rank])
  else ({ s with job := { s.job with faulted := true } } : State).abortStep

/-- A core halts on a fault (R197, R301): it is recorded, and the step is aborted (R340). -/
def State.haltCore (s : State) (c : CoreId) : State :=
  let k := s.core c
  let s := s.putCore c { k with halted := true, held := none }
  match c with
  | .jet j =>
    (s.event 0x0021 3 srcBasin [j.val / 40, j.val, k.cause.toNat, (setBits k.vxpc 1 0 0).toNat]).faultStep
  | .upd r n =>
    let st := (s.runnels.get r).staged.get ⟨false, false, 0, 0, 0, false⟩ n.val
    let s := s.modRunnel r fun x =>
      { x with cnt := bump x.cnt 5, faultCore := BitVec.ofNat 4 n.val, state := 3 }
    (s.event 0x0022 3 srcRunnel [r.val, n.val, if st.held then 1 else 0, st.index]).faultStep

/-- Take an exception (R195): the cause registers are set and the core continues at JT_VX_TVEC; one raised in handler mode
halts the core instead (R197). -/
def State.takeExc (s : State) (c : CoreId) (e : Exc) (pc : W64) : State :=
  let k := s.core c
  let k' := k.enterExc e pc
  if k.inHandler then (s.putCore c k').haltCore c
  else s.putCore c { k' with pc := k.tvec }

/-- HALT in handler mode (R197): the cause registers stay as they stand. -/
def State.haltInHandler (s : State) (c : CoreId) : State := s.haltCore c

/-! ## Sending data to a rank (R395) -/

/-- Module address of a rank by the membership table (R425). -/
def State.addrOf (s : State) (rank : Nat) : BitVec 15 := ((s.coll.table.bind fun t => t.entries[rank]?).map (·.1)).getD 0

/-- A flow of the point-to-point or securing class is used (R395): a new flow starts at 400 GB/s and, when the table is full, takes
the place of the one used least recently. -/
def State.useFlow (s : State) (dest : BitVec 15) (cls : BitVec 2) : State :=
  let mine (f : Flow) : Bool := f.dest == dest && f.cls == cls
  let f := (s.weir.flows.find? mine).getD ⟨dest, cls, 400, none, none, 0⟩
  let rest := s.weir.flows.filter fun g => !mine g
  { s with weir := { s.weir with flows := (if 1024 ≤ rest.length then rest.drop 1 else rest) ++ [f] } }

/-- Send data to a rank on the securing class. -/
def State.sendSecuring (s : State) (rank : Nat) (m : Msg) : State := (s.useFlow (s.addrOf rank) 2).send m

end Sys2Proof.Machine
end

