-- ==== Sys2Proof/Machine/ArrayOps.lean ====
section
/-! DEFINITION. Shared operations on arrays: descriptors, the layout of a pass's operands and of a drain's output in the jet
store, and the byte ranges that hold a core's accesses (R90, R111, R113, R172 to R174, R607). -/

namespace Sys2Proof.Machine

/-- A pass descriptor from the value of its 16 bytes (R173). -/
def parsePass (v : Nat) : PassDesc :=
  let f (hi lo : Nat) : Nat := bits (BitVec.ofNat 128 v) hi lo
  { mode := f 31 29, quad := f 28 28 == 1, tile := if f 27 27 = 1 then .b else .a, chain := f 47 32,
    first := f 26 26 == 1, blockEnd := f 25 25 == 1, segEnd := f 24 24 == 1, last := f 23 23 == 1, rows := f 22 16,
    khalf := f 15 15 == 1, sliceX := f 14 12, sliceW := f 11 9, stat := f 8 7, statAddr := f 95 64, xAddr := f 127 96,
    spout := f 63 48, opX := f 6 4, opW := f 3 1, zeroBit := f 0 0 == 1 }

/-- LAST implies BLOCK_END (R90). -/
def PassDesc.endsBlock (p : PassDesc) : Bool := p.blockEnd || p.last
/-- LAST implies SEG_END (R90). -/
def PassDesc.endsSeg (p : PassDesc) : Bool := p.segEnd || p.last

/-- The OPFMT and SLICE values each MODE allows (R607). -/
def opfmtOk (p : PassDesc) : Bool :=
  let sl (op s : Nat) : Bool := if op = 4 then decide (s ≤ 1) else s == 0
  match p.mode with
  | 0 => decide (p.opX ≤ 3) && decide (p.opW ≤ 3) && p.sliceX == 0 && p.sliceW == 0
  | 1 => decide (p.opX ≤ 4) && decide (p.opW ≤ 4) && sl p.opX p.sliceX && sl p.opW p.sliceW
  | 2 => p.opX == 5 && p.opW == 5 && decide (p.sliceX ≤ 2) && decide (p.sliceW ≤ 2)
  | 3 => p.opX == 5 && p.opW == 5 && decide (p.sliceX ≤ 6) && decide (p.sliceW ≤ 6)
  | 4 | 5 => decide (p.opX ≤ 4) && decide (p.opW ≤ 1) && !(p.opW == 1 && p.opX == 4) && p.sliceX == 0 && p.sliceW == 0
  | _ => false

/-- Is array `n` enabled (R119)? -/
def Jet.enabled (x : Jet) (n : Nat) : Bool := x.fused.getLsbD n && x.test.getLsbD n
/-- Are all four arrays of quad `q` enabled (R118)? -/
def Jet.quadOk (x : Jet) (q : Nat) : Bool := (List.range 4).all fun i => x.enabled (4 * q + i)

/-- A descriptor that ARR may issue to array `n` (R174). -/
def passLegal (x : Jet) (n : Nat) (p : PassDesc) : Bool :=
  x.enabled n && (!p.quad || ((n == 0 || n == 4) && x.quadOk (n / 4))) && decide (p.mode ≤ 5) && decide (p.stat ≤ 2) &&
    opfmtOk p && decide (1 ≤ p.rows) && decide (p.rows ≤ 64) && !p.zeroBit

/-! ## Operand layout (log 7) -/

/-- Bytes of one operand block of 32 elements by its OPFMT (R59, R607). -/
def opBlockBytes (op : Nat) : Nat := if op = 2 ∨ op = 3 then 16 else if op = 4 then 64 else 32

/-- Bytes of one block exponent by MODE and OPFMT (R59, R69): none for plain integers. -/
def expBytes (p : PassDesc) (op : Nat) : Nat :=
  if p.mode = 0 then 0
  else if 4 ≤ p.mode then (if p.opW = 0 then 1 else 0)
  else if op = 5 then 2 else 1

/-- Columns of the stationary operand. -/
def PassDesc.cols (p : PassDesc) : Nat := if p.quad then 32 else 16

/-- The jet-store range of the streaming operand with its exponents. -/
def xRange (p : PassDesc) : Range := (p.xAddr, p.rows * (opBlockBytes p.opX + expBytes p p.opX))

/-- Does the pass load the shadow bank (R90)? STAT acts in every MODE; a MAX or MIN pass loads 8-bit codes as its OPFMT_W
reads them (DESIGN CHOICE, log 62). -/
def PassDesc.loads (p : PassDesc) : Bool := p.stat == 1
/-- Does the pass swap banks (R90)? -/
def PassDesc.swaps (p : PassDesc) : Bool := p.stat == 1 || p.stat == 2

/-- Is the swap of a running pass still to take effect (R93)? -/
def PassRun.toSwap (r : PassRun) : Bool := r.desc.swaps && !r.swapped
/-- Is the shadow load of a running pass still to lead to its swap? -/
def PassRun.toLoad (r : PassRun) : Bool := r.desc.loads && !r.swapped

/-- The jet-store range of the stationary operand with its exponents. -/
def wRange (p : PassDesc) : Range :=
  if p.loads then (p.statAddr, p.cols * (opBlockBytes p.opW + expBytes p p.opW)) else (0, 0)

/-! ## Spout descriptors -/

/-- A spout descriptor from its 64 bytes (R221). -/
def parseSpout (b : List Byte) : SpoutDesc :=
  let w (o n : Nat) : Nat := leNat ((b.drop o).take n)
  { dest := BitVec.ofNat 8 (w 0 1), round := BitVec.ofNat 8 (w 1 1), blockDir := BitVec.ofNat 8 (w 2 1),
    flags := BitVec.ofNat 8 (w 3 1), scale := BitVec.ofNat 64 (w 8 8), bias := BitVec.ofNat 64 (w 0x10 8),
    lo := BitVec.ofNat 64 (w 0x18 8), hi := BitVec.ofNat 64 (w 0x20 8), outElem := BitVec.ofNat 32 (w 0x28 4),
    outExp := BitVec.ofNat 32 (w 0x2C 4), reserved := w 4 4 + w 0x30 16 * 2 ^ 32 }

/-- Element width of a destination format in bits (R44, R213). -/
def destWidth (dest : Nat) : Nat :=
  match blkFmt? dest, intFmt? dest with
  | some f, _ => f.width
  | _, some f => f.width
  | _, _ => if dest = 0 then 64 else if dest = 1 then 32 else 16

/-- Bytes of jet store read without a write-back; none where a byte cannot be used or lies outside. -/
def peekBytes (m : Mem) (limit a n : Nat) : Option (List Byte) :=
  if a + n ≤ limit then (loadBytes m a n).1.mapM id else none

/-- The spout descriptor with an index (R90, log 12). -/
def Jet.spoutDesc (x : Jet) (idx : Nat) : Option SpoutDesc :=
  (peekBytes x.core.store 0x1400000 (x.spoutBase + 64 * idx) 64).map parseSpout

/-- Output columns a drain covers: 32 for a quad and for a lockstep pair. -/
def outCols (quad : Bool) (d : SpoutDesc) : Nat :=
  if quad || ((blkFmt? d.dest.toNat).isSome && d.blockDir == 1) then 32 else 16

/-- The byte ranges a drain or VSPOUT writes (R113, R132, R172). -/
def outRanges (mode : Nat) (quad : Bool) (rows : Nat) (d : SpoutDesc) : List Range :=
  let dest := d.dest.toNat
  let C := outCols quad d
  let w := destWidth dest
  if dest = 0xFF then [(d.outElem.toNat, rows * recBytes mode * (if quad then 2 else 1))]
  else if (blkFmt? dest).isSome then
    let nb := if d.blockDir = 1 then rows else C * ((rows + 31) / 32)
    [(d.outElem.toNat, nb * (4 * w)), (d.outExp.toNat, nb)]
  else [(d.outElem.toNat, (rows * C * w + 7) / 8)]

/-- The byte ranges of a drain's scale and bias vectors (R111). -/
def vecRanges (quad : Bool) (d : SpoutDesc) : List Range :=
  let n := outCols quad d * (if d.dest = 0 then 8 else 4)
  (if d.flags.getLsbD 0 then [(d.scale.toNat % 2 ^ 32, n)] else []) ++
    (if d.flags.getLsbD 1 then [(d.bias.toNat % 2 ^ 32, n)] else [])

/-! ## Holds (R172) -/

/-- Do two byte ranges meet? -/
def meets (a n : Nat) (r : Range) : Bool := decide (0 < n) && decide (0 < r.2) && decide (a < r.1 + r.2) && decide (r.1 < a + n)

/-- A range widened to whole 32-byte words. -/
def wordRange (r : Range) : Range := (r.1 / 32 * 32, (r.1 + r.2 + 31) / 32 * 32 - r.1 / 32 * 32)

/-- A tile of an array. -/
def Arr.tile (x : Arr) : TileId → Tile
  | .a => x.tileA
  | .b => x.tileB
/-- A tile of an array replaced. -/
def Arr.putTile (x : Arr) (t : TileId) (v : Tile) : Arr :=
  match t with
  | .a => { x with tileA := v }
  | .b => { x with tileB := v }

/-- Has the shadow load of the pass at the head of the queue begun? -/
def Arr.headLoaded (x : Arr) : Bool := x.shadow != 0 && x.running.all fun r => !r.toSwap

/-- Ranges a pass in the queue or in the array is still to read. -/
def Arr.readRanges (x : Arr) : List Range :=
  (x.queue.take 1).flatMap (fun p => if x.headLoaded then [xRange p] else [xRange p, wRange p]) ++
    (x.queue.drop 1).flatMap (fun p => [xRange p, wRange p]) ++
    (match x.running with
     | some r => if r.toLoad && x.shadow == 0 then [wRange r.desc] else []
     | none => [])

/-- The owner of the tiles that the sentinel's own chain takes (R147): no CHAIN of a descriptor, which has 16 bits. -/
def sentinelChain : Nat := 65536

/-- The chains issued and not yet drained: MODE, quad, ROWS and SPOUT of each. -/
def Arr.chains (x : Arr) : List (Nat × Bool × Nat × Nat) :=
  let t (v : Tile) : List (Nat × Bool × Nat × Nat) :=
    if v.state == .idle || v.chain == sentinelChain then [] else [(v.mode, v.quad, v.rows, v.spout)]
  x.queue.map (fun p => (p.mode, p.quad, p.rows, p.spout)) ++
    (match x.running with
     | some r => [(r.desc.mode, r.desc.quad, r.desc.rows, r.desc.spout)]
     | none => []) ++ t x.tileA ++ t x.tileB

/-- Words a drain will write, or is still writing. -/
def Jet.writeRanges (j : Jet) (x : Arr) : List Range :=
  ((x.chains.flatMap fun c => match j.spoutDesc c.2.2.2 with
    | some d => outRanges c.1 c.2.1 c.2.2.1 d
    | none => []) ++ x.tileA.drainTo ++ x.tileB.drainTo).map wordRange

/-- Scale and bias vectors of chains issued and not yet drained (R111). -/
def Jet.vectorRanges (j : Jet) (x : Arr) : List Range :=
  x.chains.flatMap fun c => match j.spoutDesc c.2.2.2 with
    | some d => vecRanges c.2.1 d
    | none => []

/-- Bytes of a row in another format (R56, R81): a block that is not full takes its whole size. -/
def convBytes (src dst n : Nat) : Nat :=
  let elems := if [0x10, 0x11, 0x12, 0x13, 0x14, 0x30, 0x31].contains src then n / blockBytes src * 32 else n * 32 / max 1 (blockBytes src)
  if [0x10, 0x11, 0x12, 0x13, 0x14, 0x30, 0x31].contains dst then (elems + 31) / 32 * blockBytes dst else (elems * blockBytes dst + 31) / 32

/-- Bytes of a destination row: under CONV those of the converted row in whole words (log 29). -/
def MvDesc.dstBytes (d : MvDesc) : Nat := if d.conv then upTo 32 (convBytes d.srcFmt.toNat d.dstFmt.toNat d.rowBytes) else d.rowBytes

/-- Jet-store rows of a mover descriptor: first address, bytes a row, rows, stride. -/
def MvDesc.jsRanges (d : MvDesc) : List Range :=
  let rows (a stride n : Nat) : List Range := (List.range d.rows).map fun i => (a + i * stride, n)
  if d.srcJs && !d.dstJs then rows d.src d.srcStride d.rowBytes
  else if d.dstJs && !d.srcJs then
    if d.transpose = 0 then rows d.dst d.dstStride d.dstBytes
    else
      let r := if d.transpose = 1 then 32 else 64
      (List.range r).map fun k => (d.dst + k * d.dstStride, 64 * (d.rows / r))
  else []

/-- Is an access of `n` bytes at `a` held (R172, and R111 for stores)? -/
def Jet.hazard (j : Jet) (store : Bool) (a n : Nat) : Bool :=
  let arrs := j.arrays.toList
  arrs.any (fun x => (x.readRanges.any (meets a n)) || (j.writeRanges x).any (meets a n) ||
    (store && (j.vectorRanges x).any (meets a n))) ||
  (j.mvQueue ++ j.mvActive).any fun d => d.jsRanges.any (meets a n)

end Sys2Proof.Machine
end

