-- ==== Sys2Proof/Machine/Power.lean ====
section
/-! DEFINITION. Operations the management plane's commands share: READY, the throttle reasons, divider changes and URGENT
entries, what a reset clears and keeps, and the Keeper's clock (R36, R499 to R511, R526, R547 to R555). -/

namespace Sys2Proof.Machine

/-! ## READY (R36) -/

/-- Is READY to be asserted? -/
def State.readyCond (s : State) : Bool :=
  s.keeper.ctrlReady && s.keeper.dataReady && decide (s.keeper.powerState ≤ 1)

/-- READY follows its conditions; a change sets the READY cause (R36, R461). -/
def State.readyUpdate (s : State) : State :=
  if s.keeper.ready = s.readyCond then s
  else ({ s with keeper := { s.keeper with ready := s.readyCond } } : State).raise icReady

/-- A module that reports itself failed to its job (R268, R530). -/
def State.reportFailed (s : State) : State :=
  if s.job.running then s.send (.proposal 0xFFFF "FAILED" s.record.epoch [s.coll.rank]) else s

/-! ## Domains (R32, R499) -/

/-- Is a domain of R32 an ACLK domain (R500)? -/
def isAclk (d : Fin 10) : Bool := decide (d.val < 4) || decide (8 ≤ d.val)

/-- The ledger's number of an ACLK domain (R532). -/
def ledgerNo (d : Fin 10) : Nat := if d.val < 4 then d.val else d.val - 4

/-- Root cycles of a divider point (R499). -/
def rootCycles (k : Nat) : Nat := [8, 10, 12, 16, 20].getD k 20

/-- The ledger's entry for point `k` of an ACLK domain. -/
def State.point (s : State) (d : Fin 10) (k : Nat) : Point := s.sluice.points.get (.made 0) (5 * ledgerNo d + k)

/-! ## Changing a divider (R502, R507, R508) -/

/-- Is a sag warning active (R508)? -/
def Sluice.sag (x : Sluice) : Bool := x.sagMain || x.sagAux

/-- Ask a domain for divider point `k` (R502): a new request replaces any pending one; with a sag warning active no up-shift
proceeds (R508). A change asked for during a stretch is held (R507). -/
def State.askDivider (s : State) (d : Fin 10) (k : Nat) : State :=
  let x := s.sluice.doms.get d
  let same := decide ((s.point d k).vneed ≤ (s.point d x.div).vneed)
  s.modDom d fun x =>
    if k = x.div ∨ (k < x.div ∧ s.sluice.sag) then { x with pending := none, railTo := x.div, hold := false }
    else if x.pending = some k then x
    else { x with pending := some k, hold := x.stretch || (x.hold && x.pending.isSome), railReady := decide (x.div < k) || same,
                  railTo := if k < x.div then k else x.div }

/-- The divider point a domain is bound for: the slower of the one in force and the one pending. -/
def Dom.bound (x : Dom) : Nat := max x.div (x.pending.getD x.div)

/-- The slowest divider point that settings other than the one in force ask for (R503). -/
def Dom.slowest (x : Dom) : Nat := max (max x.budgetDiv x.lowDiv) (max x.ceilDiv x.top)
/-- The lowest pace that settings ask for (R503). -/
def Dom.lowestPace (x : Dom) : Nat := min (min x.budgetPace x.lowPace) x.ceilPace

/-- A setting was lowered: the domain slows at once where that asks for a slower point or pace, and never speeds up (R503,
R504). -/
def State.settle (s : State) (d : Fin 10) : State :=
  let x := s.sluice.doms.get d
  if isAclk d then (if x.bound < x.slowest then s.askDivider d x.slowest else s)
  else s.modDom d fun x => { x with pace := min x.pace x.lowestPace }

/-- A budget was adopted: the domain takes the slowest setting, which may raise it (R503). -/
def State.adoptSettings (s : State) (d : Fin 10) : State :=
  let x := s.sluice.doms.get d
  if isAclk d then s.askDivider d x.slowest
  else s.modDom d fun x => { x with pace := x.lowestPace }

/-- A pace lowered by `n`, to a minimum of 8 (R510, R518). -/
def paceDown (p n : Nat) : Nat := if p ≤ 8 then p else max 8 (p - n)

/-- An URGENT entry (R33, R510, R518): every basin and Runnel domain one point slower, every pace down by `n`; `why` is what
asked. The entry's URGENT field stands in each domain until it adopts a budget (R32). -/
def State.urgentEntry (s : State) (n why : Nat) : State :=
  let lower (s : State) (d : Fin 10) : State :=
    (s.modDom d fun x =>
      if isAclk d then { x with lowDiv := max x.lowDiv (min 4 (x.bound + 1)), capped := why, urgent := true }
      else { x with lowPace := min x.lowPace (paceDown x.pace n), capped := why, urgent := true }).settle d
  let s := (List.finRange 10).foldl lower s
  { s with sluice := { s.sluice with urgent := satInc s.sluice.urgent } }

/-- Is every domain at the floor (R517)? -/
def State.atFloor (s : State) : Bool :=
  (List.finRange 10).all fun d => if isAclk d then (s.sluice.doms.get d).bound == 4 else decide ((s.sluice.doms.get d).pace ≤ 8)

/-! ## Throttle reasons (R525, R526, R538) -/

/-- A sensor's number in the Keeper's table. -/
def sensorNo : Sensor → Nat
  | .basin d => d.val
  | .hub => 4
  | .runnel r => 5 + r.val
  | .stack i => 7 + i.val
  | .inlet => 39
  | .outlet => 40
  | .flow => 41
  | .mainMv => 42
  | .auxMv => 43
  | .mainMa => 44
  | .auxMa => 45

/-- A sensor's entry. -/
def State.sensor (s : State) (x : Sensor) : SensorSt := s.keeper.sensors.get {} (sensorNo x)

/-- Does an input of the power sum count as failed (R600)? -/
def State.inputFailed (s : State) : Bool :=
  [Sensor.mainMv, .auxMv, .mainMa, .auxMa].any fun x => (s.sensor x).failed

/-- SUSTAINED_W as the controllers take it (R600). -/
def State.sustainedW (s : State) : Nat := if s.inputFailed then 2100 else s.sluice.sustainedW
/-- PEAK_W as the controllers take it (R600). -/
def State.peakW (s : State) : Nat := if s.inputFailed then 2600 else s.sluice.peakW

/-- l of R517 in W: SUSTAINED_W, or the coolant limit where it is lower. -/
def State.powerLimit (s : State) : Rat :=
  match s.sluice.coolant with
  | some c => if c < (s.sustainedW : Rat) then c else (s.sustainedW : Rat)
  | none => (s.sustainedW : Rat)

/-- Does the coolant limit lie below SUSTAINED_W? -/
def State.coolantBinds (s : State) : Bool :=
  match s.sluice.coolant with
  | some c => decide (c < (s.sustainedW : Rat))
  | none => false

/-- The settings of a domain that slow it, each with the reason code it counts under (R525, R526): how slow it is and the
code. -/
def State.settings (s : State) (d : Fin 10) : List (Nat × Nat) :=
  let x := s.sluice.doms.get d
  let peak := if s.peakW < 5200 then 7 else 0
  let sust := if s.sustainedW < 4200 then 7 else 1
  let (b, l, c, t) :=
    if isAclk d then (x.budgetDiv, x.lowDiv, x.ceilDiv, x.top)
    else (64 - x.budgetPace, 64 - x.lowPace, 64 - x.ceilPace, 0)
  let lim := [sust] ++ (if s.coolantBinds then [6] else [])
  let budget := if x.fit = 1 then lim else if x.fit = 2 then [10] else []
  let low := if x.capped = 1 then [peak] else if x.capped = 2 then lim else if x.capped = 3 then [4] else []
  ((budget.map fun r => (b, r)) ++ (low.map fun r => (l, r)) ++ [(c, if isAclk d then 2 else 3), (t, 8)]).filter (·.1 != 0)

/-- BIND of a domain: the lowest code among its slowest settings, 0xFF for none (R526). -/
def State.bindOf (s : State) (d : Fin 10) : Byte :=
  let l := s.settings d
  let m := l.foldl (fun a p => max a p.1) 0
  BitVec.ofNat 8 ((l.filter (·.1 == m)).foldl (fun a p => min a p.2) 255)

/-- The reasons that the domains' settings and the inputs give (R525). -/
def State.reasonOn (s : State) (c : Nat) : Bool :=
  let doms := List.finRange 10
  match c with
  | 4 => s.sluice.sag
  | 5 => doms.any fun d => (s.sluice.doms.get d).stretch
  | 8 => doms.any fun d => isAclk d && decide ((s.sluice.doms.get d).budgetDiv < (s.sluice.doms.get d).top)
  | 11 => s.keeper.powerState == 1 || s.keeper.powerState == 2
  | _ => doms.any fun d => (s.settings d).any fun p => p.2 == c

/-- Every reason but STALL_REMOTE, which the collective engine gives, and every BIND, brought up to date (R526). -/
def State.throttles (s : State) : State :=
  let s := [0, 1, 2, 3, 4, 5, 6, 7, 8, 10, 11].foldl (fun s c => s.setThr c (s.reasonOn c)) s
  (List.finRange 10).foldl (fun s d => let b := s.bindOf d; s.modDom d fun x => { x with bind := b }) s

/-! ## The bypass switches (R399) -/

/-- Every actuator is let go: each switch then closes within 8 ms. -/
def State.bypassRelease (s : State) : State := { s with keeper := { s.keeper with energised := 0 } }

/-! ## Resets (R547 to R552) -/

/-- A unit of memory after a reset: its class F fields. -/
def UnitSt.kept (u : UnitSt) : UnitSt := { spares := u.spares, reason := u.reason, state := u.state }

/-- Units after a reset. -/
def keepUnits (t : Tbl UnitSt) : Tbl UnitSt := t.map fun p => (p.1, p.2.kept)

/-- Everything outside the Keeper island after a reset of class 1 to 3: class W and V fields take their reset values, class F and K fields
are kept (R551, R552); PORTS going to zero is a change of a live entry (R210). The queue of commands, the messages already sent and the
free-value counter are the model's own and stay. -/
def State.diesReset (s : State) (warm : Bool) : State :=
  { State.reset with
    pending := s.pending, outbox := s.outbox, freeCount := s.freeCount
    jets := s.jets.map fun j => { fused := j.fused, test := j.test }
    basins := s.basins.map fun b => { map := b.map, units := keepUnits b.units }
    cisterns := s.cisterns.map fun c => { periodH := c.periodH, en := c.en, limits := c.limits }
    runnels := s.runnels.map fun r =>
      { periodH := r.periodH, en := r.en, limits := r.limits, map := r.map, units := keepUnits r.units }
    tiers := if warm then s.tiers else []
    caps := if warm then { gen := if s.caps.ports = 0 then s.caps.gen else s.caps.gen + 1, hostWindow := s.caps.hostWindow } else {}
    log := { flash := s.log.flash, flashGone := s.log.flashGone, nextSeq := s.log.nextSeq }
    sluice :=
      { throttleC := s.sluice.throttleC, peakW := s.sluice.peakW, sustainedW := s.sluice.sustainedW,
        warnMv := s.sluice.warnMv, resetMv := s.sluice.resetMv, sagMain := s.sluice.sagMain, sagAux := s.sluice.sagAux,
        thr := s.sluice.thr, points := s.sluice.points, hubMargin := s.sluice.hubMargin, lastPlan := s.sluice.lastPlan,
        planCount := s.sluice.planCount, deferred := s.sluice.deferred,
        doms := s.sluice.doms.map fun d => { top := d.top } }
    keeper := s.keeper
    fw := { s.fw with session := none, image := [], measures := [], keyPair := none }
    part := s.part }

/-- The Keeper's record of a reset (R559), which the front end stores in step 4 (R546). -/
def State.resetTaken (s : State) (cls trigger : Nat) : State :=
  { s with keeper := { s.keeper with heldRecords := s.keeper.heldRecords ++ [(0x0110, 1, [cls, trigger, s.uptime])] } }

/-- The Keeper's fields at the start of a reset: READY, CTRL_READY and DATA_READY fall (R36), and a state change or a warm
reset that was waiting is absorbed (R37). -/
def Keeper.atReset (k : Keeper) (cls trigger entry : Nat) : Keeper :=
  { k with
    step := entry, entry := entry, entryNs := k.uptime, stepNs := k.uptime, cls := cls, trigger := trigger, abandoned := false
    fwAlive := false, ctrlReady := false, dataReady := false, ready := false, fwRestart := false
    stateReq := none, warmPending := false, warmHold := cls == 3, powerState := 0, energised := 0
    exhausted := k.exhausted }

/-- MAIN_POR (R547): rails off, so that STATE_NOW reads Dry (R553, R590), the bypass let go, start-up at step 2; sensors that failed
are tried again (R600). -/
def State.mainReset (s : State) (trigger : Nat) : State :=
  let s := ((s.resetTaken 2 trigger).diesReset false).throttles
  let k := s.keeper.atReset 2 trigger 2
  { s with keeper := { k with
      rails := false, aclkOn := false, chainFails := 0, preq := false, powerState := 3,
      sensors := k.sensors.map fun p => (p.1, { p.2 with rejects := 0, failed := false }) } }

/-- A warm reset begins (R546, R548): the step and the slot are copied, the dies are held, and start-up will enter at step 4.
`chain` says that the Keeper takes it under R543. -/
def State.warmReset (s : State) (trigger : Nat) (chain : Bool) : State :=
  let k := s.keeper
  let s := { s with keeper := { k with
    pstep := s.record.globalStep, vslot := s.record.slot, pvalid := true,
    chainFails := if chain then k.chainFails else 0 } }
  let s := ((s.resetTaken 3 trigger).diesReset true).throttles
  { s with keeper := s.keeper.atReset 3 trigger 4 }

/-- AUX_POR (R547): everything but class F. -/
def State.auxReset (s : State) (trigger : Nat) : State :=
  let k : Keeper := { boot := s.keeper.boot, trigger := trigger, slotPins := s.keeper.slotPins,
                      exhausted := s.keeper.exhausted, memFatal := s.keeper.memFatal }
  let t : State := { s with
    keeper := k
    sluice := { s.sluice with thr := [], sagMain := false, sagAux := false, lastPlan := 0, deferred := 0 } }
  let t := t.diesReset false
  let clearMap (m : RegionSt) : RegionSt :=
    { mapped := m.mapped, rate := m.rate, slots := m.slots, outs := m.outs, withdrawn := m.withdrawn, deadCheck := m.deadCheck }
  let t := { t with
    basins := t.basins.map fun (b : Basin) => { b with map := clearMap b.map }
    runnels := t.runnels.map fun (r : Runnel) => { r with map := clearMap r.map }
    fw := { t.fw with running := false, keyIndex := 0, trial := false, keeperHash := [], versions := (0, 0, 0) } }
  t.resetTaken 1 trigger

/-! ## The Keeper's clock (R499, R555) -/

/-- ACLK cycles of a domain in 100 root cycles (10 ns): every second edge is missing during a stretch (R506). -/
def Dom.tick (x : Dom) : Dom :=
  let per := rootCycles x.div * (if x.stretch then 2 else 1)
  let n := x.rootPhase + 100
  { x with rootPhase := n % per, aclk := satAdd x.aclk (n / per) }

/-- One cycle of the Keeper's 100 MHz clock (log 9): UPTIME_NS advances by 10 and saturates (R555), ACLK runs in each ACLK
domain (R203, R499) but the basin domains that Still gates (R554), and the active throttle reasons accrue time (R526). -/
def State.tick (s : State) : State :=
  { s with
    keeper := { s.keeper with uptime := satAdd s.keeper.uptime 10 }
    sluice := { s.sluice with
      doms := if s.keeper.aclkOn then
          Vector.ofFn fun (d : Fin 10) =>
            let x := s.sluice.doms.get d
            if 2 ≤ s.keeper.powerState ∧ d.val < 4 then x else x.tick
        else s.sluice.doms
      thr := s.sluice.thr.map fun p => (p.1, if p.2.active then { p.2 with ns := p.2.ns + 10 } else p.2) } }

end Sys2Proof.Machine
end

