-- ==== Sys2Proof/Machine/Sluice.lean ====
section
/-! DEFINITION. The Sluice's commands: budgets, dividers, droop, sag, the power controllers, and the re-plan (R32, R33, R501 to
R518, R528 to R530). -/

namespace Sys2Proof.Machine

/-! ## Learning and allocation (R516, R517) -/

/-- The ACLK slot of a domain's settings, as a rational clock ratio f_k ÷ 1.25 GHz. -/
def clockRatio (k : Nat) : Rat := 8 / (rootCycles k : Rat)

/-- The learned D and U of a tag in a domain. -/
def State.learnedOf (s : State) (tag : Nat) (d : Fin 10) : Rat × Rat := Tbl.get (0, 0) (Tbl.get [] s.sluice.learned tag) d.val

/-- Ratio of the voltages of point `k` and ÷8. -/
def State.voltRatio (s : State) (d : Fin 10) (k : Nat) : Rat :=
  ((s.point d k).vneed : Rat) / ((s.point d 0).vneed : Rat)

/-- Predicted power of a domain for a tag at a divider point or pace (R516). -/
def State.predicted (s : State) (d : Fin 10) (tag k p : Nat) : Rat :=
  let st := s.sluice.static.get 0 d.val
  let dyn := (s.learnedOf tag d).1
  if isAclk d then st + dyn * clockRatio k * (s.voltRatio d k * s.voltRatio d k) else st + dyn * (p : Rat) / 64

/-- Mean of the newest `n` power samples in W; a sample not yet taken counts as zero (R513). -/
def State.meanW (s : State) (n : Nat) : Rat := ((s.sluice.samples.take n).foldl (· + ·) 0 : Nat) / ((n * 1000 : Nat) : Rat)

/-- Is a point available to a domain? -/
def State.pointOk (s : State) (d : Fin 10) (k : Nat) : Bool :=
  decide (k < 5) && !(s.point d k).withdrawn && decide ((s.sluice.doms.get d).top ≤ k)

/-- The slowest available point at which the learned activity stays within 0.90 (PHASE_FIT, R517); the fastest available
where none does. -/
def State.phaseFit (s : State) (d : Fin 10) (u : Rat) : Nat :=
  let ok := (List.range 5).filter fun k => s.pointOk d k && decide (u * (rootCycles k : Rat) / 8 ≤ 9 / 10)
  ok.getLast?.getD ((List.range 5).find? (s.pointOk d ·) |>.getD 4)

/-- One domain one step slower: the next available point, or its pace down by 8; none at ÷20 or pace 8. -/
def State.slower (s : State) (d : Fin 10) (a : Nat × Nat × Nat) : Option (Nat × Nat × Nat) :=
  if isAclk d then ((List.range 5).find? fun k => decide (a.1 < k) && s.pointOk d k).map fun k => (k, a.2.1, 1)
  else if a.2.1 ≤ 8 then none else some (a.1, a.2.1 - 8, 1)

/-- The budget loop of R517: while the predicted sum exceeds the budget, the domain with the smallest activity that can still
move goes one step slower. -/
def State.budgetLoop (s : State) (tag : Nat) (budget : Rat) : Nat → List (Nat × Nat × Nat) → List (Nat × Nat × Nat)
  | 0, al => al
  | n + 1, al =>
    let doms := List.finRange 10
    let sum := doms.foldl (fun (x : Rat) d => let a := al.getD d.val (0, 64, 0); x + s.predicted d tag a.1 a.2.1) 0
    if sum ≤ budget then al
    else
      let cand := doms.filterMap fun d => (s.slower d (al.getD d.val (0, 64, 0))).map fun a => (d, a)
      match cand with
      | [] => al
      | c :: cs =>
        let best := cs.foldl (fun b x => if (s.learnedOf tag x.1).2 < (s.learnedOf tag b.1).2 then x else b) c
        s.budgetLoop tag budget n (al.set best.1.val best.2)

/-- allocate of R517 for a tag, or with no tag predicted: the pending copy is written and made valid. -/
def State.allocate (s : State) (tag : Option W16) : State :=
  let doms := List.finRange 10
  let full : List (Nat × Nat × Nat) := List.replicate 10 (0, 64, 0)
  let al := match tag with
    | none => full
    | some u =>
      if !s.sluice.learned.has u.toNat then full
      else
        let fit := doms.map fun d =>
          if isAclk d then let k := s.phaseFit d (s.learnedOf u.toNat d).2; (k, 64, if k = 0 then 0 else 2) else (0, 64, 0)
        let own := doms.foldl (fun (x : Rat) d => x + s.sluice.power.get 0 d.val) 0
        s.budgetLoop u.toNat (s.powerLimit - (s.meanW 100000 - own)) 64 fit
  { s with sluice := { s.sluice with copy := some (tag, al), doms := s.sluice.doms.map fun (x : Dom) => { x with taken := false } } }

/-- A domain adopts the pending copy where there is one it has not taken (R33, R517): the budget it adopts replaces every
lowering since the last, and a copy adopted for another tag is counted. -/
def State.adopt (s : State) (d : Fin 10) (tag : W16) : State × Bool :=
  match s.sluice.copy with
  | none => (s, false)
  | some (t, al) =>
    if (s.sluice.doms.get d).taken then (s, false)
    else
      let a := al.getD d.val (0, 64, 0)
      let miss := match t with | some u => u != tag | none => false
      let s := (s.modDom d fun x =>
        { x with budgetDiv := a.1, budgetPace := a.2.1, fit := a.2.2, lowDiv := 0, lowPace := 64, capped := 0, urgent := false, taken := true })
      let s := s.adoptSettings d
      ({ s with sluice := { s.sluice with
          mispredict := if miss then satInc s.sluice.mispredict else s.sluice.mispredict } }, miss)

/-- The cycles that ÷8 gives in 100 µs, and the peak bytes of an HBM domain in 100 µs in units of 64 bytes (R18, R499). -/
def fullActivity (d : Fin 10) : Nat := if isAclk d then 125000 else 32000000

/-- The Sluice takes up an occurrence of at least 100 µs (R516). -/
def State.learn (s : State) (d : Fin 10) (us : Nat) (power : Rat) : State :=
  let x := s.sluice.doms.get d
  if us < 100 ∨ x.occCount = 0 then s
  else
    let st := s.sluice.static.get 0 d.val
    let dyn := power - st
    let full := if isAclk d then dyn / (clockRatio x.div * (s.voltRatio d x.div * s.voltRatio d x.div))
      else dyn * 64 / (x.pace : Rat)
    let u := ((if isAclk d then x.occCycles else x.occBytes : Nat) : Rat) / ((fullActivity d * x.occCount : Nat) : Rat)
    let t : Tbl (Rat × Rat) := Tbl.get [] s.sluice.learned x.tag.toNat
    let new := if t.has d.val then
        let o := t.get (0, 0) d.val
        (o.1 + (full - o.1) / 8, o.2 + (u - o.2) / 8)
      else (full, u)
    { s with sluice := { s.sluice with
        learned := s.sluice.learned.set x.tag.toNat (t.set d.val new), power := s.sluice.power.set d.val power } }

/-- A domain reports a new PHASE_TAG (R33, R517): `us` and `power` are the finished occurrence's length and its measured power
in W. -/
def execPhaseTagChange (d : Fin 10) (tag : W16) (us : Nat) (power : Rat) (s : State) : Out :=
  let old := (s.sluice.doms.get d).tag
  let s := s.learn d us power
  let (s, miss) := s.adopt d tag
  let s := s.modDom d fun x => { x with tag := tag, occCycles := 0, occBytes := 0, occCount := 0 }
  let s := { s with sluice := { s.sluice with follow := s.sluice.follow.set old.toNat tag.toNat } }
  let next : Option W16 := if miss then some tag
    else if s.sluice.follow.has tag.toNat then some (BitVec.ofNat 16 (s.sluice.follow.get 0 tag.toNat)) else none
  .next (s.allocate next).throttles

/-- A domain's report of the last 100 µs (R32). -/
def execBudgetIntervalReport (d : Fin 10) (cycles bytes : W32) (s : State) : Out :=
  .next (s.modDom d fun x =>
    { x with cycles := cycles, bytes := bytes, occCycles := x.occCycles + cycles.toNat, occBytes := x.occBytes + bytes.toNat,
             occCount := x.occCount + 1 })

/-! ## Dividers and droop (R501 to R507) -/

/-- A pending switch takes place at an alignment boundary (R501, R502), unless a stretch holds it, until 1 µs after the release (R507), or
its rail has not arrived. After a down-shift the rail goes to the new point's V_need. -/
def execDividerSwitch (d : Fin 10) (s : State) : Out :=
  let x := s.sluice.doms.get d
  match x.pending with
  | none => .next s
  | some k =>
    let held := x.stretch || (x.hold && decide (s.uptime < x.releaseNs.toNat + 1000))
    if !isAclk d || held || !(decide (x.div < k) || x.railReady) then .next s
    else .next (s.modDom d fun x =>
      { x with div := k, pending := none, hold := false, railTo := k, railReady := decide (k ≤ x.div), rootPhase := 0 }).throttles

/-- The rail reaches the V_need it was going to (R502). -/
def execRailRampDone (d : Fin 10) (s : State) : Out :=
  .next (if isAclk d then s.modDom d fun x => { x with railReady := true } else s)

/-- A rail falls below its droop threshold (R506): the stretch begins and holds a pending switch (R507). -/
def execStretchBegin (d : Fin 10) (s : State) : Out :=
  .next (if isAclk d && s.keeper.aclkOn then
      (s.modDom d fun x => { x with stretch := true, hold := x.pending.isSome }).throttles
    else s)

/-- The rail has stayed above the threshold for 100 ns (R506): `edges` edges were suppressed. A held switch stays held until
the boundary that takes it (R507). -/
def execStretchRelease (d : Fin 10) (edges : Nat) (s : State) : Out :=
  .next (if (s.sluice.doms.get d).stretch then
      (s.modDom d fun x => { x with stretch := false, stretchCnt := satAdd x.stretchCnt edges, releaseNs := s.keeper.uptime }).throttles
    else s)

/-! ## Sag (R509 to R512) -/

/-- The warning threshold of an input in mV (R509). -/
def State.warnMv (s : State) : Supply → Nat
  | .main => s.sluice.warnMv
  | .aux => 10700

/-- The warning state of an input. -/
def Sluice.sagOf (x : Sluice) : Supply → Bool
  | .main => x.sagMain
  | .aux => x.sagAux
/-- The warning state of an input set. -/
def Sluice.setSag (x : Sluice) (i : Supply) (b : Bool) : Sluice :=
  match i with
  | .main => { x with sagMain := b }
  | .aux => { x with sagAux := b }
/-- The number of an input in an event's ARG0. -/
def supplyNo : Supply → Nat
  | .main => 0
  | .aux => 1

/-- Cancel the pending up-shifts (R508): each rail goes back to the V_need of the point in force. -/
def State.cancelUpshifts (s : State) : State :=
  { s with sluice := { s.sluice with doms := s.sluice.doms.map fun (x : Dom) =>
      match x.pending with
      | some k => if k < x.div then { x with pending := none, hold := false, railTo := x.div } else x
      | none => x } }

/-- A sag warning begins (R510): recorded, up-shifts cancelled, and one URGENT entry unless the other input's warning is
active already (R511). -/
def execSagWarn (i : Supply) (mv : Nat) (s : State) : Out :=
  .next (if s.sluice.sagOf i || !decide (mv < s.warnMv i) then s
    else
      let first := !s.sluice.sag
      let s := ({ s with sluice := s.sluice.setSag i true } : State).raise icPower
      let s := s.event 0x0100 2 srcKeeper [supplyNo i, mv]
      let s := s.cancelUpshifts
      (if first then s.urgentEntry 16 3 else s).throttles)

/-- A sag warning clears (R509, R510). -/
def execSagClear (i : Supply) (us : Nat) (s : State) : Out :=
  .next (if s.sluice.sagOf i then
      (({ s with sluice := s.sluice.setSag i false } : State).event 0x0101 1 srcKeeper [supplyNo i, us]).throttles
    else s)

/-- An input falls below its reset threshold (R512). -/
def execSagReset (i : Supply) (s : State) : Out :=
  .next (match i with
    | .main => if s.keeper.rails || s.keeper.step != 2 then s.mainReset 3 else s
    | .aux => s.auxReset 3)

/-! ## The controllers (R517, R518) -/

/-- A step of the peak controller: it trips above PEAK_W and goes on until the 1 ms mean is at most 0.98 × PEAK_W. -/
def execPeakControllerStep (s : State) : Out :=
  let m := s.meanW 1000
  let p : Rat := (s.peakW : Rat)
  let on := if s.sluice.peakOn then decide (p * 98 / 100 < m) else decide (p < m)
  let s := { s with sluice := { s.sluice with peakOn := on } }
  .next (if on && !s.atFloor then s.urgentEntry 8 1 else s).throttles

/-- A step of the sustained controller: as the peak controller, over the 100 ms mean and l of R517. -/
def execSustainedControllerStep (s : State) : Out :=
  let m := s.meanW 100000
  let l := s.powerLimit
  let on := if s.sluice.sustainedOn then decide (l * 98 / 100 < m) else decide (l < m)
  let s := { s with sluice := { s.sluice with sustainedOn := on } }
  .next (if on && !s.atFloor then s.urgentEntry 8 2 else s).throttles

/-- An episode of CAP_FLOOR ends when the 100 ms mean falls to l or below (R517). -/
def State.floorEnd (s : State) : State :=
  if s.sluice.floorEpisode && decide (s.meanW 100000 ≤ s.powerLimit) then
    { s with sluice := { s.sluice with floorEpisode := false } }
  else s

/-- A rational in whole watts, for an event's arguments. -/
def watts (r : Rat) : Nat := r.floor.toNat

/-- Input above l for 1 s with every domain at the floor (R517): recorded once for the episode. -/
def execCapFloor (s : State) : Out :=
  let s := s.floorEnd
  .next (if !s.sluice.floorEpisode && s.atFloor && decide (s.powerLimit < s.meanW 100000) then
      ({ s with sluice := { s.sluice with floorEpisode := true } } : State).event 0x010D 2 srcKeeper
        [0, watts (s.meanW 100000), watts s.powerLimit]
    else s)

/-! ## Margins (R528 to R530) -/

/-- Clock in MHz of a divider point, as ACLK_TOP_MHZ gives it. -/
def pointMhz (k : Nat) : Nat := 10000 / rootCycles k

/-- The domain of R32 of a ledger domain. -/
def ledgerDom (l : Nat) : Fin 10 := if h : l < 4 then ⟨l, by omega⟩ else ⟨(l + 4) % 10, by omega⟩

/-- ACLK_TOP_MHZ: the lowest top of the six ACLK domains (R209, R530). -/
def State.aclkTop (s : State) : Nat :=
  ((List.range 6).map fun l => pointMhz (s.sluice.doms.get (ledgerDom l)).top).foldl min 1250

/-- The least margin of a point not withdrawn, in mV (R532). -/
def State.leastMargin (s : State) : Int :=
  ((s.sluice.points.filter fun p => !p.2.withdrawn).map fun p => (850 - p.2.vmin : Int)).foldl min 850

/-- A re-plan may run: PHASE reads IDLE, a securing pause with at least 50 ms of its stated length left, or start-up step 8
(R529). -/
def State.planTime (s : State) : Bool :=
  s.record.phase == 0 || s.keeper.step == 8 ||
    (s.record.phase == 0x0A &&
      decide ((s.uptime - s.job.pauseStart.toNat) / 1000 + 50000 ≤ s.job.statedUs.toNat))

/-- The plan of one point (R528). -/
def planPoint (old : Point) (vmin : Nat) : Point :=
  let m : Int := 850 - vmin
  if old.withdrawn then { old with vmin := vmin, vneed := vmin + old.guard }
  else if 75 ≤ m then ⟨vmin, vmin + 75, 75, false⟩
  else if 45 ≤ m then ⟨vmin, vmin + m.toNat, m.toNat, false⟩
  else ⟨vmin, vmin + old.guard, old.guard, true⟩

/-- An integer argument of an event: 64-bit two's complement. -/
def argInt (v : Int) : Nat := ofSigned 64 v

/-- The plan of an ACLK domain is in place: withdrawn points lower the top (R530). -/
def State.planDom (s : State) (l : Nat) (vmins : List Nat) : State :=
  let d := ledgerDom l
  let old := (List.range 5).map fun k => s.sluice.points.get (.made 0) (5 * l + k)
  let new := (List.range 5).map fun k => let o := old.getD k (.made 0); planPoint o (vmins.getD k o.vmin)
  let top0 := s.aclkTop
  let pts := (List.range 5).foldl (fun (t : Tbl Point) k => t.set (5 * l + k) (new.getD k (.made 0))) s.sluice.points
  let s := { s with sluice := { s.sluice with points := pts } }
  let lost := (List.range 5).filter fun k => (new.getD k (.made 0)).withdrawn && !(old.getD k (.made 0)).withdrawn
  let top := ((List.range 5).find? fun k => !(new.getD k (.made 0)).withdrawn).getD 4
  let s := (s.modDom d fun x => { x with top := max x.top top }).settle d
  let s := lost.foldl (fun s k =>
    s.event 0x010A 3 srcKeeper [d.val, k, argInt (850 - (new.getD k (.made 0)).vmin)]) s
  let s := if s.aclkTop = top0 then s else s.capChange
  let gone := new.all (·.withdrawn)
  if gone && !s.keeper.exhausted then
    (({ s with keeper := { s.keeper with exhausted := true } } : State).event 0x010B 4 srcKeeper [d.val]).reportFailed
  else s

/-- The plan of the Fountainhead (R528). -/
def State.planHub (s : State) (vmin : Nat) : State :=
  let m : Int := 850 - vmin
  let s := { s with sluice := { s.sluice with hubMargin := m } }
  if m < 45 then s.event 0x010A 3 srcKeeper [6, 0, argInt m] else s

/-- A plan of every domain is complete (R529): recorded, and a REPLAN_MARGINS that waits completes. -/
def State.planComplete (s : State) : State :=
  let x := s.sluice
  let s := { s with sluice := { x with planDue := false, planned := [], lastPlan := s.keeper.uptime,
                                       planCount := satInc x.planCount, deferred := 0, planBoxes := [] } }
  let s := s.event 0x0108 0 srcKeeper [0, s.aclkTop, argInt s.leastMargin]
  x.planBoxes.foldl (fun s n => s.completeAt n 0 0 (leBytes 2 s.aclkTop ++ leBytes 2 (ofSigned 16 s.leastMargin))) s

/-- One domain is planned (R528, R529); 6 is the Fountainhead. -/
def execReplanDomain (d : Fin 7) (vmins : List Nat) (s : State) : Out :=
  .next (if !s.sluice.planDue || s.sluice.planned.contains d.val || !s.planTime || !s.keeper.rails then s
    else
      let s := if d.val < 6 then s.planDom d.val vmins else s.planHub (vmins.headD 0)
      let pl := d.val :: s.sluice.planned
      let s := { s with sluice := { s.sluice with planned := pl } }
      (if pl.length = 7 then s.planComplete else s).throttles)

/-- 24 h since the last complete plan (R529). -/
def execReplanDue (s : State) : Out :=
  .next (if s.sluice.lastPlan.toNat + 24 * 3600 * 10 ^ 9 ≤ s.uptime then
      { s with sluice := { s.sluice with planDue := true } }
    else s)

/-- 48 h, and every further 24 h, without a complete plan (R529). -/
def execReplanDeferred (s : State) : Out :=
  let hours := 48 + 24 * s.sluice.deferred
  .next (if s.sluice.lastPlan.toNat + hours * 3600 * 10 ^ 9 ≤ s.uptime then
      ({ s with sluice := { s.sluice with deferred := s.sluice.deferred + 1 } } : State).event 0x0109 1 srcKeeper [0, hours]
    else s)

end Sys2Proof.Machine
end

