-- ==== Sys2Proof/Machine/Capacity.lean ====
section
/-! DEFINITION. The capability table, whether a program fits, and logical arrays (R209 to R212, R231, R235). -/

namespace Sys2Proof.Machine

/-- Enabled arrays of a jet (R119). -/
def Jet.arrayMask (x : Jet) : Nat := (x.fused &&& x.test).toNat
/-- Number of enabled arrays of a jet. -/
def Jet.arrayCount (x : Jet) : Nat := ((List.range 8).filter fun n => x.enabled n).length

/-- The capability table in ID order (R209). -/
def State.capTable (s : State) : List (Nat × List Nat) :=
  let jets := (List.finRange 160).map s.jet
  let mask (x : Jet) : Nat := x.arrayMask + (if x.quadOk 0 then 256 else 0) + (if x.quadOk 1 then 512 else 0)
  let doms := (List.finRange 4).map MemRegion.domain
  [(0x0001, [s.caps.gen.toNat]), (0x0002, [0x00010000]), (0x0003, [1]), (0x0004, [1]), (0x0005, [1]), (0x0006, [4096]),
   (0x0007, [8]), (0x0010, [s.part.grade]), (0x0011, [160]), (0x0012, jets.map mask),
   (0x0013, [(jets.map Jet.arrayCount).foldl (· + ·) 0]), (0x0014, [20971520]), (0x0015, [s.aclkTop]),
   (0x0020, doms.map s.capOf), (0x0021, doms.map fun g => 256 - (s.region g).withdrawn),
   (0x0022, [s.capOf (.half 0), s.capOf (.half 1)]), (0x0023, [s.caps.hostWindow]), (0x0030, [s.caps.ports.toNat]),
   (0x0031, [32]), (0x0032, [4096]), (0x0033, [8])]

/-- Values of an entry of the capability table. -/
def State.capValues (s : State) (id : Nat) : Option (List Nat) := (s.capTable.find? fun e => e.1 == id).map (·.2)

/-- Does the loaded program pass R231 in a region with `less` bytes of its capacity gone (R264, R268)? -/
def State.fits (s : State) (g : MemRegion) (less : Nat) : Bool :=
  match s.job.image with
  | none => true
  | some i =>
    let cap := s.capOf g - less
    match g with
    | .domain d => decide (i.fastNeed s.coll.rank d.val ≤ cap)
    | .half r => decide (i.slowNeed s.coll.rank s.job.policy.d s.job.policy.g s.caps.hostWindow r.val ≤ cap)

/-- Is a program being loaded or verified: its server has taken the command and has not completed it (R233)? -/
def State.loading (s : State) : Bool :=
  (List.finRange 8).any fun n =>
    let b := s.boxes.get n
    (b.lOpcode == 0x11 || b.lOpcode == 0x12) && (b.state == 2 || b.state == 3)

/-- Logical array l of a jet is its l-th enabled array (R235). -/
def Jet.logical (x : Jet) (l : Nat) : Option Nat := ((List.range 8).filter fun n => x.enabled n)[l]?
/-- The logical number of a physical array. -/
def Jet.logicalOf (x : Jet) (n : Nat) : Option Nat :=
  if x.enabled n then some (((List.range n).filter fun i => x.enabled i).length) else none

/-- Is a requirement that of LOGICAL_ARRAYS (R212)? -/
def isLogical (r : CapReq) : Bool := r.id == 0x12 && r.op == 3 && r.index == 0xFFFFFFFF && r.value == 0

/-- L of an image (R212): byte 3 of its LOGICAL_ARRAYS requirement. -/
def logicalL (i : Image) : Nat := ((i.reqs.find? isLogical).map (·.byte3)).getD 0

/-- L of the loaded image; 8 with no image. -/
def State.logicalArrays (s : State) : Nat := (s.job.image.map logicalL).getD 8

/-- May a program use array `n`, or the quad from it: enabled arrays beyond L draw nothing for a job (R236)? -/
def Jet.within (x : Jet) (L n : Nat) (quad : Bool) : Bool :=
  let ok (k : Nat) : Bool := (x.logicalOf k).any (decide <| · < L)
  ok n && (!quad || ok (n + 3))

end Sys2Proof.Machine
end

