-- ==== Sys2Proof/Machine/RillCore.lean ====
section
/-! DEFINITION. What every rill instruction shares: when a core runs, the fetch, advancing, and memory access with its holds
and causes (R163, R169 to R172, R192 to R197). -/

namespace Sys2Proof.Machine

/-- Is the unit of a core powered and clocked (R539, R553)? In Trickle the vector units are clock-gated. -/
def State.coreOn (s : State) (c : CoreId) (vector : Bool) : Bool :=
  s.keeper.rails && s.keeper.aclkOn && s.keeper.step == 11 &&
    (match c with
     | .jet _ => s.keeper.powerState == 0 || (s.keeper.powerState == 1 && !vector)
     | .upd _ _ => decide (s.keeper.powerState ≤ 2))

/-- Does a core execute now? An update core executes only a kernel its dispatcher has entered (R296). -/
def State.runs (s : State) (c : CoreId) (vector : Bool) : Bool :=
  let k := s.core c
  s.coreOn c vector && !k.halted && k.held.isNone &&
    (match c with
     | .jet _ => true
     | .upd _ _ => k.staged.isSome)

/-- The cause of a fetch that cannot be made: ACCESS outside the store (R169), UNCORRECTABLE for a word that cannot be used
(log 8). -/
def fetchExc (c : CoreId) (k : Core) : Option Exc :=
  let a := k.pc.toNat
  let ok := match c with
    | .jet _ => decide (a + 4 ≤ 0x1400000)
    | .upd _ _ => decide (a + 4 ≤ 0x80000) && (List.range 4).all fun i => k.inCode (a + i)
  if !ok then some { code := 2, val := k.pc }
  else if (wordData k.store (a / 32)).isNone then some { code := 3, val := BitVec.ofNat 64 (a / 32 * 32) }
  else none

/-- An instruction of core `c`: its fetch, then its own effect on a core that executes. -/
def State.rill (s : State) (c : CoreId) (vector : Bool) (body : State → State) : Out :=
  .next (if s.runs c vector then
      match fetchExc c (s.core c) with
      | some e => s.takeExc c e (s.core c).pc
      | none => body s
    else s)

/-- The core after an instruction that is not a jump: at the next instruction, and done with what RETX resumed (R195,
R196). -/
def Core.advance (k : Core) : Core := { k with pc := k.pc + 4, resume := 0, resumed := false }

/-- A core after a jump. -/
def Core.jump (k : Core) (t : W64) : Core := { k with pc := t, resume := 0, resumed := false }

/-- The end of a vector instruction, PCOMB or VSPOUT: outside handler mode JT_VX_INDEX becomes 0 (R196). -/
def Core.vdone (k : Core) : Core := (if k.inHandler then k else { k with index := 0 }).advance

/-- Raise a cause of the instruction at pc (R195). -/
def State.raiseExc (s : State) (c : CoreId) (e : Exc) : State := s.takeExc c e (s.core c).pc

/-- Hold a core in its instruction. -/
def State.hold (s : State) (c : CoreId) (kind : HoldKind) (i : Instr) : State :=
  s.modCore c fun k => { k with held := some (kind, i) }

/-- Is an access held (R172)? Update cores have no arrays and no mover. -/
def State.hazard (s : State) (c : CoreId) (store : Bool) (a n : Nat) : Bool :=
  match c with
  | .jet j => (s.jet j).hazard store a n
  | .upd _ _ => false

/-- The 64-bit sum of a base register and an offset (R169). -/
def effAddr (k : Core) (a : BitVec 5) (off : W64) : Nat := (k.rs a + off).toNat

/-- The first byte of an access that raises a cause, from byte `i` on, with the cause (R169, R170, R193). -/
def accessFault (c : CoreId) (k : Core) (store : Bool) (a : Nat) : Nat → Nat → Option (Nat × Exc)
  | 0, _ => none
  | n + 1, i =>
    let p := (a + i) % 2 ^ 64
    if !mayAccess c k store p then some (i, { code := 2, val := BitVec.ofNat 64 p, index := i })
    else accessFault c k store a n (i + 1)

/-- The lowest byte, from byte `i` on, that lies in a word that cannot be used (R192, R253). -/
def wordFault (k : Core) (a : Nat) : Nat → Nat → Option (Nat × Exc)
  | 0, _ => none
  | n + 1, i =>
    if (wordData k.store ((a + i) / 32)).isNone then
      some (i, { code := 3, val := BitVec.ofNat 64 ((a + i) / 32 * 32), index := i })
    else wordFault k a n (i + 1)

/-- The cause a load of `n` bytes raises, the lowest byte first and ACCESS before UNCORRECTABLE (R170, R193). -/
def loadFault (c : CoreId) (k : Core) (a n start : Nat) : Option (Nat × Exc) :=
  match accessFault c k false a (n - start) start with
  | some (i, e) =>
    match wordFault k a (i - start) start with
    | some x => some x
    | none => some (i, e)
  | none => wordFault k a (n - start) start

end Sys2Proof.Machine
end

