-- ==== Sys2Proof/Machine/SpoutOps.lean ====
section
/-! DEFINITION. The spout's steps (R108 to R114), shared by a tile's drain and VSPOUT. -/

namespace Sys2Proof.Machine

/-- What a drain or VSPOUT works from: the descriptor, MODE, ROWS, output columns, how many of them lie inside the output tensor
(R113), the lane of each column, none for a column that no lane serves, and the SCALE and BIAS code of each column, none for
one that cannot be used (R111). -/
structure SpoutEnv where
  d : SpoutDesc
  mode : Nat
  rows : Nat
  cols : Nat
  real : Nat
  lanes : List (Option Nat)
  scale : List (Option Nat)
  bias : List (Option Nat)
  deriving DecidableEq, Repr

/-- The format of step 1: binary64 for a binary64 destination, otherwise binary32 (R108, R112). -/
def SpoutEnv.fmt (e : SpoutEnv) : IFmt := if e.d.dest = 0 then b64 else b32

/-- A finite nonzero code? (R111) -/
def goodScale (f : IFmt) (c : Nat) : Bool :=
  match f.read c with
  | .fin _ m _ => m != 0
  | _ => false

/-- scale × acc + bias, exact and rounded once to nearest-even (R108): `s × 2^g` is the accumulated value. -/
def spoutFma (f : IFmt) (scale bias : Nat) (s g : Int) : Nat :=
  match f.read scale, f.read bias with
  | _, .nan c => f.quiet c
  | .nan c, _ => f.quiet c
  | .inf n, b =>
    if s = 0 then f.qnan
    else
      let neg := n != decide (s < 0)
      match b with
      | .inf n' => if n' = neg then f.signed neg f.infCode else f.qnan
      | _ => f.signed neg f.infCode
  | .fin _ _ _, .inf n => f.signed n f.infCode
  | .fin n m e, .fin n' m' e' =>
    let (sg, k, x) := finAdd .even (n != decide (s < 0)) (m * s.natAbs) (e + g) n' m' e'
    (f.round .even sg k x false).1

/-- Clip to [lo, hi] (R108); a NaN passes. -/
def spoutClip (f : IFmt) (lo hi y : Nat) : Nat :=
  if f.isNan y then y
  else
    let y := if !f.isNan lo && f.lt y lo then lo else y
    if !f.isNan hi && f.lt hi y then hi else y

/-- y of an entry (R108, R110, R111): none for poison. -/
def SpoutEnv.y (e : SpoutEnv) (c : Nat) (acc : Int × Int) (p : Bool) : Option Nat :=
  let f := e.fmt
  match p, e.scale.getD c none, e.bias.getD c none with
  | false, some sc, some b =>
    if e.d.flags.getLsbD 0 && !goodScale f sc then none
    else some (spoutClip f (e.d.lo.toNat % 2 ^ f.width) (e.d.hi.toNat % 2 ^ f.width) (spoutFma f sc b acc.1 acc.2))
  | _, _, _ => none

/-- The source that step 3 converts (R110). -/
def SpoutEnv.ySrc (e : SpoutEnv) (y : Option Nat) : Src :=
  match y with
  | some c => e.fmt.src c
  | none => .poison

/-- Is ROUND stochastic (R221)? -/
def SpoutEnv.stoch (e : SpoutEnv) : Bool := e.d.round == 1

/-- A draw from the lane of a column (R114): a column that no lane serves advances none. -/
def Core.drawLane (k : Core) : Option Nat → W64 × Core
  | some l => k.draw l
  | none => (0, k)

/-- Convert one element to a destination that is not a block format (R108 to R112): its code, its value as read back, and the
core after its draw (R75). -/
def SpoutEnv.elem (e : SpoutEnv) (k : Core) (c : Nat) (y : Option Nat) : Nat × Src × Core :=
  let dest := e.d.dest.toNat
  let rnd (k : Core) : Rnd × Core :=
    if e.stoch then let (o, k') := k.drawLane (e.lanes.getD c none); (.stoch (draw16 o), k') else (.even, k)
  match intFmt? dest with
  | some fi =>
    let (r, k') := rnd k
    let (x, ev) := encodeInt fi r (e.ySrc y)
    let v := intRead fi x
    (x, .fin (decide (v < 0)) v.natAbs 0, k'.count ev)
  | none =>
    if dest = 2 then
      let (r, k') := rnd k
      let (x, ev) := jfRound r (e.ySrc y)
      (x, jfRead x, k'.count ev)
    else match y.filter fun v => !e.fmt.isNan v with
      | some v => (v, e.fmt.src v, k)
      | none => (e.fmt.qnan, .poison, k.count { poison := 1 })

/-- Convert the columns of one row in turn. -/
def SpoutEnv.elems (e : SpoutEnv) : Core → Nat → List (Option Nat) → List Nat × List Src × Core
  | k, _, [] => ([], [], k)
  | k, c, y :: ys =>
    let (x, v, k1) := e.elem k c y
    let (xs, vs, k2) := e.elems k1 (c + 1) ys
    (x :: xs, v :: vs, k2)

/-- Draws of the elements of one block, each from the lane given. -/
def drawLanes : Core → List (Option Nat) → List Nat × Core
  | k, [] => ([], k)
  | k, l :: ls =>
    let (o, k1) := k.drawLane l
    let (rs, k2) := drawLanes k1 ls
    (draw16 o :: rs, k2)

/-- Encode one block of 32 from the given lanes (R60, R64, R75): E, codes, values and the core. Elements below `skip` draw and
count nothing (R196). -/
def SpoutEnv.block (e : SpoutEnv) (f : BlkFmt) (skip : Nat) (k : Core) (lanes : List (Option Nat)) (xs : List Src) :
    Nat × List Nat × List Src × Core :=
  let (rs, k') := drawLanes k (lanes.drop skip)
  let (E, cs, ev) := encodeBlockFrom f e.stoch true skip (List.replicate skip 0 ++ rs) xs
  (E, cs, cs.map (blkRead f E), k'.count ev)

/-- What one step of the spout writes: byte strings by address, the values written by row, and the core after its draws. -/
structure SpoutOut where
  writes : List (Nat × List Byte)
  vals : List (List Src)
  core : Core

/-- y of each column of a row; a column beyond the row or the output tensor is padding of value zero (R113). -/
def SpoutEnv.rowY (e : SpoutEnv) (row : List ((Int × Int) × Bool)) : List (Option Nat) :=
  (List.range e.cols).map fun c => match (row.take e.real)[c]? with
    | some x => e.y c x.1 x.2
    | none => some 0

/-- One row to a destination that is not a block format: row-major, packed (log 7). -/
def SpoutEnv.plainRow (e : SpoutEnv) (k : Core) (r : Nat) (row : List ((Int × Int) × Bool)) : SpoutOut :=
  let w := destWidth e.d.dest.toNat
  let (xs, vs, k') := e.elems k 0 (e.rowY row)
  let bytes := if w ≤ 16 then packCodes w xs else xs.flatMap (leBytes (w / 8))
  { writes := [(e.d.outElem.toNat + r * (e.cols * w / 8), bytes)], vals := [vs], core := k' }

/-- One row as a block of 32 columns (BLOCK_DIR 1, R113). -/
def SpoutEnv.blockRow (e : SpoutEnv) (f : BlkFmt) (k : Core) (r : Nat) (row : List ((Int × Int) × Bool)) : SpoutOut :=
  let (E, cs, vs, k') := e.block f 0 k e.lanes ((e.rowY row).map e.ySrc)
  { writes := [(e.d.outElem.toNat + r * (4 * f.width), packCodes f.width cs), (e.d.outExp.toNat + r, [BitVec.ofNat 8 E])],
    vals := [vs], core := k' }

/-- The columns of up to 32 rows, each a block (BLOCK_DIR 0, R113): rows beyond the last are padding of value zero. Rows below
`skip` keep the codes they have, and draw and count nothing (R196). -/
def SpoutEnv.blockCols (e : SpoutEnv) (f : BlkFmt) (b skip : Nat) (rows : List (List (Option Nat))) :
    Nat → Nat → Core → List (Nat × List Byte) × List (List Src) × Core
  | 0, _, k => ([], [], k)
  | n + 1, c, k =>
    let xs := (List.range 32).map fun i => match rows[i]? with
      | some ys => e.ySrc (ys.getD c none)
      | none => .fin false 0 0
    let (E, cs, vs, k1) := e.block f skip k (List.replicate 32 (e.lanes.getD c none)) xs
    let idx := c * ((e.rows + 31) / 32) + b
    let at' := e.d.outElem.toNat + idx * (4 * f.width)
    let old := (List.range skip).map (unpackCode f.width ((loadBytes k.store at' (4 * f.width)).1.map fun x => x.getD 0))
    let (ws, vss, k2) := e.blockCols f b skip rows n (c + 1) k1
    ((at', packCodes f.width (old ++ cs.drop skip)) :: (e.d.outExp.toNat + idx, [BitVec.ofNat 8 E]) :: ws,
     vs :: vss, k2)

/-- Rows a step of the spout takes together: 32 for blocks along tile rows, otherwise one. -/
def SpoutEnv.stepRows (e : SpoutEnv) : Nat := if (blkFmt? e.d.dest.toNat).isSome && e.d.blockDir != 1 then 32 else 1

/-- One step of the spout from row `r`: `rows` are the entries of the rows it takes, the first `skip` of them done before
(R196). -/
def SpoutEnv.stepFrom (e : SpoutEnv) (skip : Nat) (k : Core) (r : Nat) (rows : List (List ((Int × Int) × Bool))) : SpoutOut :=
  match blkFmt? e.d.dest.toNat with
  | some f =>
    if e.d.blockDir = 1 then e.blockRow f k r (rows.headD [])
    else
      let ys := rows.map e.rowY
      let (ws, vs, k') := e.blockCols f (r / 32) skip ys e.cols 0 k
      { writes := ws, vals := (List.range rows.length).map fun i => vs.map fun col => col.getD i .poison, core := k' }
  | none => e.plainRow k r (rows.headD [])

/-- One step of the spout with no row done before. -/
def SpoutEnv.step (e : SpoutEnv) (k : Core) (r : Nat) (rows : List (List ((Int × Int) × Bool))) : SpoutOut := e.stepFrom 0 k r rows

/-- Make the writes of a step. -/
def storeAll (m : Mem) (ws : List (Nat × List Byte)) : Mem := ws.foldl (fun m w => storeBytes m w.1 w.2) m

/-- The per-column values of a scale or bias field (R109, R111, R221): one value for all, zero, or a vector in the jet store;
with the store after any correction. -/
def colValues (m : Mem) (vec : Bool) (field : W64) (wide : Bool) (n : Nat) (single : Nat) : List (Option Nat) × Mem :=
  if !vec then (List.replicate n (some single), m)
  else
    let sz := if wide then 8 else 4
    let a := field.toNat % 2 ^ 32
    let inStore := a + n * sz ≤ 0x1400000
    let (bs, m') := loadBytes m a (n * sz)
    ((List.range n).map fun c =>
      if a + c * sz + sz ≤ 0x1400000 then
        (((bs.drop (c * sz)).take sz).mapM id).map leNat
      else none, if inStore then m' else m)

/-- The environment of a drain or VSPOUT, with the store after the vectors are read. -/
def spoutEnv (m : Mem) (d : SpoutDesc) (mode rows cols real : Nat) (lanes : List (Option Nat)) : SpoutEnv × Mem :=
  let wide := d.dest = 0
  let one (v : W64) : Nat := if wide then v.toNat else v.toNat % 2 ^ 32
  let (sc, m1) := colValues m (d.flags.getLsbD 0) d.scale wide cols (one d.scale)
  let (bi, m2) := colValues m1 (d.flags.getLsbD 1) d.bias wide cols 0
  (⟨d, mode, rows, cols, real, lanes, sc, bi⟩, m2)

/-- The entries of a row of a partial: values and poison marks of its 16 columns. -/
def rowEntries (mode : Nat) (r : TileRow) : List ((Int × Int) × Bool) :=
  (List.range 16).map fun c => (entryVal mode r c, (r.entry c).p)

/-- The MODE of R90 that a MODE field of PCOMB or VSPOUT names (R176, R177). -/
def recMode (m : Nat) : Nat := if m = 0 then 0 else if m = 1 then 1 else 3

end Sys2Proof.Machine
end

