-- ==== Sys2Proof/Machine/Arrays.lean ====
section
/-! DEFINITION. Matrix arrays: operand reading, passes, shadow loads and swaps, accumulation, segments, drains and the tile
sentinel's captures (R84 to R114, R145, R146, R608). -/

namespace Sys2Proof.Machine

/-! ## A jet's arrays -/

/-- Array `n` of a jet. -/
def Jet.arr (x : Jet) (n : Nat) : Arr := if h : n < 8 then x.arrays.get ⟨n, h⟩ else {}
/-- Array `n` of a jet replaced. -/
def Jet.putArr (x : Jet) (n : Nat) (a : Arr) : Jet := if h : n < 8 then { x with arrays := vset x.arrays ⟨n, h⟩ a } else x
/-- Array `n` of a jet changed. -/
def Jet.modArr (x : Jet) (n : Nat) (f : Arr → Arr) : Jet := x.putArr n (f (x.arr n))

/-- An array fault (R105, R608): the flag is set, and ARRAY_FAULT is pending at the core. -/
def Jet.arrayFault (x : Jet) (n chain : Nat) : Jet :=
  let x := x.modArr n fun a => { a with flags := a.flags ||| 8 }
  { x with core := { x.core with pendArray := x.core.pendArray ++ [(n, chain)] } }

/-- Arrays a pass occupies (R89). -/
def passArrays (n : Nat) (quad : Bool) : List Nat := if quad then [n, n + 1, n + 2, n + 3] else [n]
/-- Arrays whose tiles a chain uses (R89). -/
def tileArrays (n : Nat) (quad : Bool) : List Nat := if quad then [n, n + 1] else [n]
/-- The tiles a chain uses, that of its data first (R89, R96, R106). -/
def chainTiles (n : Nat) (quad : Bool) (mode : Nat) (t : TileId) : List (Nat × TileId) :=
  (tileArrays n quad).flatMap fun i => if mode = 3 then [(i, .a), (i, .b)] else [(i, t)]
/-- The tile that holds the data of a chain: tile A in SB64 mode (R96). -/
def dataTile (mode : Nat) (t : TileId) : TileId := if mode = 3 then .a else t

/-- Tiles of a jet changed. -/
def Jet.modTiles (x : Jet) (l : List (Nat × TileId)) (f : Tile → Tile) : Jet :=
  l.foldl (fun x p => x.modArr p.1 fun a => a.putTile p.2 (f (a.tile p.2))) x

/-! ## Reading operands (R85 to R87, R607, R608; layout: log 7) -/

/-- Bytes of the jet store, none for a byte that cannot be used (R608), with the store after corrections. -/
def jsLoad (m : Mem) (a n : Nat) : List (Option Byte) × Mem :=
  let k := min n (0x1400000 - a)
  let (b, m') := loadBytes m a k
  (b ++ List.replicate (n - k) none, m')

/-- Bits of a code by OPFMT (R607). -/
def opWidth (op : Nat) : Nat := if op = 2 ∨ op = 3 then 4 else if op = 4 then 16 else 8

/-- The block format of an OPFMT (R607). -/
def opBlk (op : Nat) : Option BlkFmt := blkFmt? ([0x11, 0x13, 0x12, 0x14, 0x10].getD op 0)

/-- Code `i` of the bytes read. -/
def codeOf (w : Nat) (bs : List (Option Byte)) (i : Nat) : Option Nat :=
  let b (k : Nat) : Option Nat := (bs.getD k none).map (·.toNat)
  if w = 16 then match b (2 * i), b (2 * i + 1) with
    | some l, some h => some (l + 256 * h)
    | _, _ => none
  else if w = 4 then (b (i / 2)).map fun v => v / 16 ^ (i % 2) % 16
  else b i

/-- A code as it enters the array (R86, R87): 4-bit codes are expanded to 8 bits, BX16 is sliced but in MAX and MIN modes. -/
def enterCode (mode op slice c : Nat) : Nat :=
  if op = 2 then (if 8 ≤ c then c + 240 else c)
  else if op = 4 ∧ mode ≤ 3 then (if slice = 0 then c / 256 else c % 256)
  else c

/-- One block of an operand as it enters the array. -/
structure OpBlock where
  codes : List (Nat × Bool)
  unit : Int
  bad : Bool

/-- Read elements `k0` to `k0 + cnt - 1` of the block at `a` with its exponent at `ea`. The codes of a zero block and of a
poison block are not read. -/
def readBlock (p : PassDesc) (op slice : Nat) (m : Mem) (a ea k0 cnt : Nat) : OpBlock × Mem :=
  let eb := expBytes p op
  let (ebs, m) := if eb = 0 then ([], m) else jsLoad m ea eb
  let E : Option Nat := (ebs.mapM id).map leNat
  let unit : Int := if eb = 0 then 0 else if eb = 1 then (E.getD 255 : Int) - 127 else (E.getD 65535 : Int) - 16384
  if eb ≠ 0 ∧ E = some 0 then (⟨List.replicate cnt (0, false), unit, false⟩, m)
  else if eb ≠ 0 ∧ (E = none ∨ E = some (256 ^ eb - 1)) then (⟨List.replicate cnt (0, true), unit, E.isNone⟩, m)
  else
    let w := opWidth op
    let (bs, m) := jsLoad m (a + k0 * w / 8) (cnt * w / 8)
    let codes := (List.range cnt).map fun i => match codeOf w bs i with
      | none => (0, true)
      | some c =>
        if eb = 1 ∧ (opBlk op).any (fun f => f.poison == c) then (0, true) else (enterCode p.mode op slice c, false)
    (⟨codes, unit, bs.any (·.isNone)⟩, m)

/-- Elements of each block that a pass covers: all 32 on a quad, or the half that KHALF names. -/
def PassDesc.span (p : PassDesc) : Nat × Nat := if p.quad then (0, 32) else (if p.khalf then 16 else 0, 16)

/-- Read `n` blocks of an operand, block `i` onward, of `total`. -/
def readBlocks (p : PassDesc) (op slice base total : Nat) : Nat → Nat → Mem → List OpBlock × Mem
  | 0, _, m => ([], m)
  | n + 1, i, m =>
    let (b, m) := readBlock p op slice m (base + i * opBlockBytes op) (base + total * opBlockBytes op + i * expBytes p op)
      p.span.1 p.span.2
    let (bs, m) := readBlocks p op slice base total n (i + 1) m
    (b :: bs, m)

/-- A pass starts: its streaming operand is read (R88). -/
def PassDesc.begin (p : PassDesc) (m : Mem) : PassRun × Mem :=
  let (bs, m) := readBlocks p p.opX p.sliceX p.xAddr p.rows p.rows 0 m
  ({ desc := p, x := bs.map (·.codes), ex := bs.map (·.unit), fault := bs.any (·.bad) }, m)

/-- The banks that a load fills, in the order of `passArrays` (R89, R92), and whether it met bytes it cannot use. -/
def PassDesc.loadBanks (p : PassDesc) (m : Mem) : List Bank × Bool × Mem :=
  let (cs, m) := readBlocks p p.opW p.sliceW p.statAddr p.cols p.cols 0 m
  let bank (k0 c0 : Nat) : Bank :=
    { codes := (List.range 16).map fun k => (List.range 16).map fun c =>
        ((cs[c0 + c]?).map fun b => b.codes.getD (k0 + k) (0, false)).getD (0, false)
      exps := (List.range 16).map fun c => ((cs[c0 + c]?).map (·.unit)).getD 0 }
  (if p.quad then [bank 0 0, bank 0 16, bank 16 0, bank 16 16] else [bank 0 0], cs.any (·.bad), m)

/-! ## Shadow loads and swaps (R92 to R95) -/

/-- The active bank. -/
def Arr.bank (x : Arr) : Bank := if x.active then x.bank1 else x.bank0
/-- The shadow bank replaced. -/
def Arr.putShadow (x : Arr) (b : Bank) : Arr := if x.active then { x with bank0 := b } else { x with bank1 := b }

/-- The partner of an array's spout in lockstep (R113, R235). -/
def Jet.partner (x : Jet) (L n : Nat) : Option Nat :=
  match x.logicalOf n with
  | some l =>
    let m := if l % 2 = 0 then l + 1 else l - 1
    if l < L ∧ m < L then x.logical m else none
  | none => none

/-- Does a descriptor call for blocks along tile columns (R113)? -/
def SpoutDesc.lockstep (d : SpoutDesc) : Bool := (blkFmt? d.dest.toNat).isSome && d.blockDir == 1

/-- How a pass stands to its tiles (R104 to R106, R113). -/
inductive Gate where
  | start
  | go
  | fault
  | held
  deriving DecidableEq, Repr

/-- The gate of the pass at the head of array `n`. -/
def Jet.gate (x : Jet) (L n : Nat) (p : PassDesc) : Gate :=
  let ts := (chainTiles n p.quad p.mode p.tile).map fun q => (x.arr q.1).tile q.2
  if !p.quad && (x.spoutDesc p.spout).any SpoutDesc.lockstep && (x.partner L n).isNone then .fault
  else
    let own (t : Tile) : Bool := t.state == .filling && t.chain == p.chain
    let idle (t : Tile) : Bool := t.state == .idle
    if p.first then (if ts.any own then .fault else if ts.all idle then .start else .held)
    else if ts.all own then .go
    else if ts.all fun t => own t || idle t then .fault
    else .held

/-- The arrays of the jet the sentinel of its die runs on (R147). -/
def State.sentinelOn (s : State) (j : Fin 160) (n : Nat) : Bool :=
  match (s.basins.get ⟨j.val / 40, by omega⟩).snt.runsOn with
  | some (j', n', _, _) => j' == j.val && n' == n
  | none => false

/-- Does the array serve the quad of array 4q, or is it kept for it (R89)? -/
def Arr.served (x : Arr) (n : Nat) : Bool := (x.inQuad || x.formed) && n % 4 != 0

/-- May a quad form for the pass at the head of array `n` (R89)? -/
def Jet.quadFree (x : Jet) (n : Nat) : Bool :=
  [n + 1, n + 2, n + 3].all fun i => (x.arr i).queue.isEmpty && (x.arr i).running.isNone

/-- The pass that the next shadow load of array `n` is for: that in the array which has still to load, or the head of the
queue, unless a swap is pending (R92, R95). -/
def Arr.loadFor (x : Arr) : Option PassDesc :=
  match x.running with
  | some r => if r.toLoad then some r.desc else if r.toSwap then none else x.queue.head?
  | none => x.queue.head?

/-- A shadow load begins (R92): the shadow bank is free, and the pass it is for will run. A load for a quad pass forms the quad,
so that descriptors which reach its other arrays afterwards wait (R89; log 62). -/
def execShadowLoadStart (j : Fin 160) (n : Fin 8) (s : State) : Out :=
  let x := s.jet j
  let a := x.arr n.val
  .next (match a.loadFor with
    | none => s
    | some p =>
      let inArray := a.running.any PassRun.toLoad
      let quadRuns := a.running.any fun r => r.desc.quad
      let arrs := passArrays n.val p.quad
      let free := arrs.all fun i => (x.arr i).shadow == 0 && !s.sentinelOn j i
      if !s.keeper.aclkOn || !p.loads || !free || a.served n.val then s
      else if !inArray && (x.gate s.logicalArrays n.val p == .fault || (p.quad && !quadRuns && !x.quadFree n.val)) then s
      else
        let (banks, bad, m) := p.loadBanks x.core.store
        let x := { x with core := { x.core with store := m } }
        let x := (arrs.zip banks).foldl (fun x q =>
          x.modArr q.1 fun a => { a.putShadow q.2 with shadow := 1, formed := p.quad && !inArray }) x
        s.putJet j (x.modArr n.val fun a => { a with loadFault := bad }))

/-- The sixteenth row is written (R92). -/
def execShadowLoadDone (j : Fin 160) (n : Fin 8) (s : State) : Out :=
  let x := s.jet j
  let a := x.arr n.val
  .next (if a.shadow != 1 || a.served n.val then s
    else
      let quad := a.loadFor.any fun p => p.quad
      s.putJet j ((passArrays n.val quad).foldl (fun x i =>
        x.modArr i fun a => if a.shadow = 1 then { a with shadow := 2 } else a) x))

/-- The shadow bank becomes active (R93): `stall` is the number of cycles counted under R94. -/
def execBankSwap (j : Fin 160) (n : Fin 8) (stall : Nat) (s : State) : Out :=
  let x := s.jet j
  let a := x.arr n.val
  .next (match a.running with
    | none => s
    | some r =>
      if !r.toSwap || (r.desc.loads && a.shadow != 2) || (!r.desc.loads && a.shadow == 1) then s
      else
        let r' := { r with swapped := true, fault := r.fault || (r.desc.loads && a.loadFault) }
        let x := (passArrays n.val r.desc.quad).foldl (fun x i =>
          x.modArr i fun a => { a with active := !a.active, shadow := 0, loadFault := false }) x
        s.putJet j (x.modArr n.val fun a =>
          { a with running := some r', stall := if r.desc.loads then satAdd a.stall stall else a.stall }))

/-! ## The sentinel's sampling (R144 to R146) -/

/-- Destination class of R151; none for a destination that is not eligible. -/
def destClass (dest : Nat) : Option Nat :=
  match dest with
  | 0x10 => some 0
  | 0x11 | 0x13 => some 1
  | 0x12 | 0x14 => some 2
  | 0x20 | 0x21 => some 3
  | 0x22 | 0x23 => some 4
  | 0x02 => some 5
  | 0x01 => some 6
  | _ => none

/-- Threshold T of a destination class (R151). -/
def Sentinel.threshold (x : Sentinel) (cls : Nat) : Nat := bits x.thresh (5 * cls + 4) (5 * cls)

/-- One step of the generator (R145). -/
def sntStep (x : W32) : W32 :=
  let a := x ^^^ (x <<< 13)
  let b := a ^^^ (a >>> 17)
  b ^^^ (b <<< 5)

/-- Step the generator and load a new gap (R145). -/
def Sentinel.newGap (x : Sentinel) : Sentinel :=
  let g := sntStep x.gen
  { x with gen := g, gap := 1 + g.toNat % (2 * 2 ^ x.log2n.toNat - 1) }

/-- The chain that brought the gap to zero is sampled, or skipped while an earlier sample is held; a new gap is drawn. -/
def Sentinel.takeDue (x : Sentinel) (cls mode : Nat) (quad : Bool) (step : W64) : Sentinel :=
  match x.due with
  | none => x
  | some (j, n, t, chain) =>
    let x := ({ x with due := none } : Sentinel).newGap
    if x.sample.isSome then { x with skip := satInc x.skip }
    else { x with sample := some ⟨j, n, t, chain, cls, mode, quad, step, [], [], [], [], 0, 0, false⟩ }

/-- Take the chain that is due on a die, where there is one. -/
def State.sampleDue (s : State) (d : Fin 4) : State :=
  match (s.basins.get d).snt.due with
  | none => s
  | some (j, n, t, _) =>
    let x := if h : j < 160 then s.jet ⟨j, h⟩ else {}
    let tile := (x.arr n).tile t
    let cls := ((x.spoutDesc tile.spout).bind fun d => destClass d.dest.toNat).getD 0
    s.modBasin d fun b => { b with snt := b.snt.takeDue cls tile.mode tile.quad s.record.globalStep }

/-- The FIRST pass of an eligible chain (R144, R145): the gap falls by one, and at zero the chain is due. It stands still while EN
is 0 (DESIGN CHOICE, log 30). -/
def State.sentinelGap (s : State) (j : Fin 160) (n : Nat) (p : PassDesc) : State :=
  let d : Fin 4 := ⟨j.val / 40, by omega⟩
  let x := (s.basins.get d).snt
  let ok := x.en && decide (p.mode ≤ 2) &&
    (((s.jet j).spoutDesc p.spout).bind fun d => destClass d.dest.toNat).any fun c => x.threshold c != 0
  if !ok then s
  else
    let s := s.sampleDue d
    s.modBasin d fun b => { b with snt :=
      { b.snt with gap := b.snt.gap - 1, due := if b.snt.gap ≤ 1 then some (j.val, n, p.tile, p.chain) else b.snt.due } }

/-- Bytes of a pass's copy in a sample (R146, log 30): the streaming codes, a byte each as they enter the array, with their
exponents, and the stationary codes with theirs for a bank that a STAT of 1 or 2 made active, or that the chain began on. -/
def sampleBytes (first : Bool) (r : PassRun) (banks : List Bank) : Nat :=
  let p := r.desc
  r.x.length * (p.span.2 + expBytes p p.opX) +
    (if first || p.stat != 0 then banks.length * 256 + p.cols * expBytes p p.opW else 0)

/-- Bytes of a converted output before packing by its class (R146, R151). -/
def outBytes (cls : Nat) : Nat := if cls = 0 ∨ cls = 5 then 2 else if cls = 6 then 4 else 1

/-- Bytes of a sample (the copy of R146; log 30). -/
def Sample.bytes (x : Sample) : Nat :=
  (x.passes.zipIdx.map fun p => sampleBytes (p.2 == 0) p.1.1 p.1.2).foldl (· + ·) 0 +
    4 * (x.scale.length + x.bias.length) + 8 + (x.outs.map fun r => outBytes x.cls * r.length).foldl (· + ·) 0

/-- A sample is abandoned and counted (R146). -/
def Sentinel.abandon (x : Sentinel) : Sentinel := { x with sample := none, skip := satInc x.skip }

/-- A pass of the sampled chain is copied (R146). -/
def State.samplePass (s : State) (j : Fin 160) (n : Nat) (r : PassRun) (banks : List Bank) : State :=
  let d : Fin 4 := ⟨j.val / 40, by omega⟩
  let s := s.sampleDue d
  s.modBasin d fun b => { b with snt :=
    match b.snt.sample with
    | some x =>
      if x.jet = j.val ∧ x.array = n ∧ x.tile = r.desc.tile ∧ x.chain = r.desc.chain ∧ !x.drained then
        let x := { x with passes := x.passes ++ [(r, banks)] }
        if 2 ^ 20 < x.bytes then b.snt.abandon else { b.snt with sample := some x }
      else b.snt
    | none => b.snt }

/-! ## A pass starts (R104 to R106, R173) -/

/-- A fault of a pass that does not run (R105): a load made for it leads to no swap. -/
def Jet.refusePass (x : Jet) (n : Nat) (p : PassDesc) : Jet :=
  let loaded := p.loads && (x.arr n).headLoaded
  let x := x.modArr n fun a => { a with queue := a.queue.drop 1, held := false }
  let x := if loaded then (passArrays n p.quad).foldl (fun x i =>
      x.modArr i fun a => { a with shadow := 0, loadFault := false, formed := false }) x
    else x
  x.arrayFault n p.chain

/-- Passes that the loader has placed enter their arrays' queues in order, as far as there is room (R82, R117): those that wait stay. -/
def placeFrom : List Placed → List (Nat × Nat) → State → State × List Placed
  | [], _, s => (s, [])
  | q :: l, full, s =>
    if h : q.jet < 160 ∧ q.array < 8 then
      let room := !full.contains (q.jet, q.array) && decide ((s.arr ⟨q.jet, h.1⟩ ⟨q.array, h.2⟩).queue.length < 16)
      if room then
        placeFrom l full ((s.modArr ⟨q.jet, h.1⟩ ⟨q.array, h.2⟩ fun a => { a with queue := a.queue ++ [q.desc] }).modJet ⟨q.jet, h.1⟩ fun x =>
          { x with chainCols := x.chainCols.set q.desc.chain q.cols })
      else
        let (s, r) := placeFrom l ((q.jet, q.array) :: full) s
        (s, q :: r)
    else placeFrom l full s

/-- The loader's waiting passes go on. -/
def State.placeWork (s : State) : State :=
  let (t, l) := placeFrom s.job.toPlace [] s
  { t with job := { t.job with toPlace := l } }

/-- The descriptor at the head of an array queue starts, is held, or completes with an array fault (R104 to R106). -/
def execQueueHeadPass (j : Fin 160) (n : Fin 8) (s : State) : Out :=
  let x := s.jet j
  let a := x.arr n.val
  .next (match a.queue with
    | [] => s
    | p :: rest =>
      let wait := !s.keeper.aclkOn || a.running.isSome || a.served n.val || (p.quad && !a.formed && !x.quadFree n.val) ||
        (passArrays n.val p.quad).any fun i => s.sentinelOn j i
      if wait then s
      else match x.gate s.logicalArrays n.val p with
        | .fault => (s.putJet j (x.refusePass n.val p)).placeWork
        | .held =>
          if a.held then s
          else
            let s := s.putJet j (x.modArr n.val fun a => { a with held := true })
            s.modBasin ⟨j.val / 40, by omega⟩ fun b => { b with conflict := satInc b.conflict }
        | g =>
          let (r, m) := p.begin x.core.store
          let x := { x with core := { x.core with store := m } }
          let x := x.modArr n.val fun a => { a with queue := rest, held := false, running := some r }
          let x := if p.quad then (passArrays n.val true).foldl (fun x i => x.modArr i fun a => { a with inQuad := true, formed := false }) x else x
          let ts := chainTiles n.val p.quad p.mode p.tile
          let x := if g = .start then
              x.modTiles ts fun t => { state := .filling, chain := p.chain, mode := p.mode, quad := p.quad, spout := p.spout,
                                       cols := x.chainCols.get 32 p.chain, drainTo := t.drainTo, drainChain := t.drainChain }
            else x
          let x := if p.last then x.modTiles ts fun t => { t with rows := p.rows } else x
          let s := s.putJet j x
          (if g = .start then s.sentinelGap j n.val p else s).placeWork)

/-! ## Accumulation (R97 to R102, R107) -/

/-- Is the code of an operand read signed (R85, R87)? -/
def codeSigned (op slice : Nat) : Bool := op == 0 || op == 2 || (decide (4 ≤ op) && slice == 0)

/-- The value of a code as the array multiplies it. -/
def codeVal (op slice c : Nat) : Int := if codeSigned op slice then toSigned 8 c else (c : Int)

/-- Weight of a slice pair, as an exponent of two (R98). -/
def pairShift (p : PassDesc) : Nat :=
  let bx (op slice : Nat) : Nat := if op = 4 ∧ slice = 0 then 8 else 0
  if p.mode = 2 then 8 * (4 - p.sliceX - p.sliceW)
  else if p.mode = 3 then 8 * (12 - p.sliceX - p.sliceW)
  else bx p.opX p.sliceX + bx p.opW p.sliceW

/-- Column `c`: the exact sum of the products of a row's codes from `k0` on and the bank, and whether a product is marked. -/
def colSum (p : PassDesc) (xs : List (Nat × Bool)) (k0 : Nat) (b : Bank) (c : Nat) : Int × Bool :=
  (List.range 16).foldl (fun acc k =>
    let x := xs.getD (k0 + k) (0, false)
    let w := (b.codes.getD k []).getD c (0, false)
    (acc.1 + codeVal p.opX p.sliceX x.1 * codeVal p.opW p.sliceW w.1, acc.2 || x.2 || w.2)) (0, false)

/-- Add a pass's column sums into the 128-bit block registers of one tile row (R97, R98, R101): `lo` is the bank of the lower rows, `hi`
that of rows 16 to 31 on a quad. -/
def accRow (p : PassDesc) (xs : List (Nat × Bool)) (ux : Int) (lo : Bank) (hi : Option Bank) (r : TileRow) : TileRow :=
  let es := (List.range 16).map fun c =>
    let (v, m) := colSum p xs 0 lo c
    let (v', m') := match hi with
      | some b => colSum p xs 16 b c
      | none => (0, false)
    let e := r.entry c
    { e with br := e.br + BitVec.ofInt 128 ((v + v') * 2 ^ pairShift p), p := e.p || m || m' }
  { r with es := es, pe := (List.range 16).map fun c => ux + lo.exps.getD c 0 }

/-- The row base a block sets (R97): the largest product exponent of its nonzero sums. -/
def firstBase (r : TileRow) : Option Int :=
  (List.range 16).foldl (fun a c =>
    if (r.entry c).br = 0 then a
    else some (match a with
      | some v => max v (r.pe.getD c 0)
      | none => r.pe.getD c 0)) none

/-- BLOCK_END on one row (R97, R99, R100): block sums are taken up and BR cleared; with the entries clamped or saturated. A row
base that 16 bits do not hold is kept modulo 2^16 (DESIGN CHOICE, log 64). -/
def takeUp (mode : Nat) (r : TileRow) : TileRow × Nat :=
  if mode = 0 then
    let es := (List.range 16).map fun c =>
      let e := r.entry c
      let (v, sat) := clampAdd e.s e.br.toInt
      (({ e with s := v, br := 0 } : Entry), sat)
    ({ r with es := es.map (·.1) }, (es.filter (·.2)).length)
  else
    match r.rb.orElse fun _ => (firstBase r).map (BitVec.ofInt 16) with
    | none => (r, 0)
    | some base =>
      let rb := base.toInt
      let es := (List.range 16).map fun c =>
        let e := r.entry c
        if e.br = 0 then (e, false)
        else
          let (v, x, sat) := alignAdd (modeW mode) rb e.s (rb + e.x) e.br.toInt (r.pe.getD c 0)
          (({ e with s := v, x := x, br := 0 } : Entry), sat)
      ({ r with rb := some base, es := es.map (·.1) }, (es.filter (·.2)).length)

/-- node_add of two partials, row by row (R131), with the entries clamped or saturated. -/
def nodeAdd (mode : Nat) (l r : Tbl TileRow) : Tbl TileRow × Nat :=
  (List.range 64).foldl (fun (acc : Tbl TileRow × Nat) m =>
    if Tbl.has l m || Tbl.has r m then
      let (x, n) := nodeAddRow mode (Tbl.get {} l m) (Tbl.get {} r m)
      (acc.1 ++ [(m, x)], acc.2 + n)
    else acc) ([], 0)

/-- Fold equal levels at the top of the segment stack (R102, R130). -/
def foldEqual (mode : Nat) : Nat → List (Nat × Tbl TileRow) → List (Nat × Tbl TileRow) × Nat
  | 0, st => (st, 0)
  | f + 1, (l, a) :: (k, b) :: t =>
    if l = k then
      let (x, n) := nodeAdd mode b a
      let (st, n') := foldEqual mode f ((l + 1, x) :: t)
      (st, n + n')
    else ((l, a) :: (k, b) :: t, 0)
  | _ + 1, st => (st, 0)

/-- Fold the whole stack from the most recent level down (R130). -/
def foldAll (mode : Nat) (acc : Tbl TileRow) : List (Nat × Tbl TileRow) → Tbl TileRow × Nat
  | [] => (acc, 0)
  | (_, b) :: t =>
    let (x, n) := nodeAdd mode b acc
    let (y, n') := foldAll mode x t
    (y, n + n')

/-- What the flags of a pass do to a tile (R97, R102; SEG_END without BLOCK_END pushes the running entries, and the block register of the
unfinished block goes with them unused: DESIGN CHOICE, log 64): the tile, the entries clamped or saturated, and whether a 256th segment
was pushed (log 31). -/
def Tile.endPass (t : Tile) (p : PassDesc) : Tile × Nat × Bool :=
  let rows : List (Nat × TileRow × Nat) :=
    if p.endsBlock && decide (p.mode ≤ 3) then t.run.map fun q => (q.1, takeUp p.mode q.2) else t.run.map fun q => (q.1, q.2, 0)
  let n0 := rows.foldl (fun a q => a + q.2.2) 0
  let t := { t with run := rows.map fun q => (q.1, q.2.1), kpos := if p.endsBlock then t.kpos + 32 else t.kpos }
  if !p.endsSeg then (t, n0, false)
  else
    let full := decide (255 ≤ t.segs)
    let (st, n1) := if full then (t.stack, 0) else foldEqual p.mode 9 ((0, t.run) :: t.stack)
    let t := { t with run := [], stack := st, segs := t.segs + 1 }
    if !p.last then (t, n0 + n1, full)
    else
      let (x, n2) := match st with
        | [] => ([], 0)
        | (_, a) :: rest => foldAll p.mode a rest
      ({ t with run := x, stack := [] }, n0 + n1 + n2, full)

/-- Count entries clamped or saturated in a tile of an array (R99, R100). -/
def Arr.countSat (x : Arr) (mode : Nat) (t : TileId) (n : Nat) : Arr :=
  if n = 0 then x
  else if mode = 0 then { x with isat := satAdd x.isat n, flags := x.flags ||| (if t = .a then 1 else 2) }
  else { x with xsat := satAdd x.xsat n, flags := x.flags ||| 4 }

/-- One row of a MAX or MIN pass (R107): the winner among the row's elements and the poison elements ignored. -/
def winRow (p : PassDesc) (base : Nat) (xs : List (Nat × Bool)) (ux : Int) : Option (Int × Int × Nat) × Nat :=
  (List.range xs.length).foldl (fun acc k =>
    let x := xs.getD k (0, false)
    if x.2 then (acc.1, acc.2 + 1)
    else
      let w := if p.opX = 4 then 16 else 8
      let v : Int := if codeSigned p.opX 0 then toSigned w x.1 else (x.1 : Int)
      (winAdd (p.mode = 4) acc.1 (some (v, ux, base + p.span.1 + k)), acc.2)) (none, 0)

/-- Accumulate a pass into the tiles of its arrays (R88, R97, R107). The poison elements of a MAX or MIN pass on a quad count on
array 4q (DESIGN CHOICE, log 62). -/
def Jet.accumulate (x : Jet) (n : Nat) (r : PassRun) : Jet :=
  let p := r.desc
  let t := dataTile p.mode p.tile
  let rows := List.range p.rows
  if 4 ≤ p.mode then
    let tile := (x.arr n).tile t
    let res := rows.map fun i => (i, winRow p tile.kpos (r.x.getD i []) (r.ex.getD i 0))
    let run := res.foldl (fun (tb : Tbl TileRow) q =>
      let o := tb.get {} q.1
      tb.set q.1 { o with win := winAdd (p.mode = 4) o.win q.2.1, met := true }) tile.run
    x.modArr n fun a =>
      { a.putTile t { tile with run := run } with rpoison := satAdd a.rpoison (res.foldl (fun k q => k + q.2.2) 0) }
  else
    (tileArrays n p.quad).foldl (fun x i =>
      let lo := (x.arr i).bank
      let hi := if p.quad then some (x.arr (i + 2)).bank else none
      let tile := (x.arr i).tile t
      let run := rows.foldl (fun (tb : Tbl TileRow) m =>
        tb.set m (accRow p (r.x.getD m []) (r.ex.getD m 0) lo hi (tb.get {} m))) tile.run
      x.modArr i fun a => a.putTile t { tile with run := run }) x

/-- The flags of a pass act on its tiles (R97, R102, R103); with whether a 256th segment was pushed. -/
def Jet.passFlags (x : Jet) (n : Nat) (p : PassDesc) : Jet × Bool :=
  let t := dataTile p.mode p.tile
  let (x, full) := (tileArrays n p.quad).foldl (fun (acc : Jet × Bool) i =>
    let (tile, sat, o) := ((acc.1.arr i).tile t).endPass p
    (acc.1.modArr i fun a => (a.putTile t tile).countSat p.mode t sat, acc.2 || o)) (x, false)
  (if p.last then x.modTiles (chainTiles n p.quad p.mode p.tile) fun t => { t with state := .drainWait } else x, full)

/-- A pass's last vector is accumulated (R97): the pass acts on its flags, and reports its fault (R608). -/
def execPassComplete (j : Fin 160) (n : Fin 8) (s : State) : Out :=
  let x := s.jet j
  .next (match (x.arr n.val).running with
    | none => s
    | some r =>
      if r.toSwap then s
      else
        let arrs := passArrays n.val r.desc.quad
        let banks := arrs.map fun i => (x.arr i).bank
        let s := s.samplePass j n.val r banks
        let (x, full) := (x.accumulate n.val r).passFlags n.val r.desc
        let x := x.modArr n.val fun a => { a with running := none }
        let x := if r.desc.quad then arrs.foldl (fun x i => x.modArr i fun a => { a with inQuad := false }) x else x
        s.putJet j (if r.fault || full then x.arrayFault n.val r.desc.chain else x))

/-! ## Drains (R103, R108 to R114, R132) -/

/-- A MAX or MIN row as it drains (R96, R107): column 0 the value and column 1 the winner's index. RB is the unit exponent of the
winner's block, S its code and X 0, for a winner of value zero too (DESIGN CHOICE, log 7). -/
def winEntry (r : TileRow) : TileRow :=
  match r.win with
  | some (v, e, i) => { rb := some (BitVec.ofInt 16 e), es := [{ s := v }, { s := (i : Int) }] }
  | none => if r.met then { es := [{ p := true }, { s := 4294967295 }] } else {}

/-- The entries of a result row of a tile, each a value and its poison mark. -/
def resultEntries (mode : Nat) (r : TileRow) : List ((Int × Int) × Bool) :=
  if 4 ≤ mode then
    let w := winEntry r
    (List.range 16).map fun c =>
      (if c = 0 then ((w.entry 0).s, (w.rb.getD 0).toInt) else if c = 1 then ((w.entry 1).s, 0) else (0, 0), (w.entry c).p)
  else rowEntries mode r

/-- A record of a result row as RAW writes it (R132). -/
def resultRecord (mode : Nat) (r : TileRow) : List Byte := packRow mode (if 4 ≤ mode then winEntry r else r)

/-- Rows of a drain from `row` on: each step's writes are made, with its values. -/
def drainSteps (e : SpoutEnv) (rows : Nat → List ((Int × Int) × Bool)) : Nat → Nat → Core → Core × List (List Src)
  | 0, _, k => (k, [])
  | n + 1, row, k =>
    if e.rows ≤ row then (k, [])
    else
      let cnt := min e.stepRows (e.rows - row)
      let o := e.step k row ((List.range cnt).map fun i => rows (row + i))
      let (k', vs) := drainSteps e rows n (row + cnt) { o.core with store := storeAll o.core.store o.writes }
      (k', o.vals ++ vs)

/-- Clear tiles to IDLE (R103); words a drain is still to write stay listed. -/
def Jet.clearTiles (x : Jet) (l : List (Nat × TileId)) : Jet :=
  x.modTiles l fun t => { drainTo := t.drainTo, drainChain := t.drainChain }

/-- The tiles a drain starts with: the arrays in column order whose tile `t` it reads; none while it must wait. -/
inductive DrainPlan where
  | wait
  | mismatch (l : List Nat)
  | go (l : List Nat)
  deriving DecidableEq, Repr

/-- Which tiles drain together (R89, R113). -/
def Jet.drainPlan (x : Jet) (L n : Nat) (t : TileId) (d : Option SpoutDesc) : DrainPlan :=
  let tile := (x.arr n).tile t
  if tile.quad then .go [n, n + 1]
  else if d.any SpoutDesc.lockstep then
    match x.partner L n with
    | none => .go [n]
    | some m =>
      let pt := (x.arr m).tile t
      if pt.state != .drainWait || pt.quad || (pt.mode == 3 && t == .b) then .wait
      else
        let l := if n < m then [n, m] else [m, n]
        if pt.spout = tile.spout then .go l else .mismatch l
  else .go [n]

/-- The value of a source; none for poison and for an infinity. -/
def Src.rat : Src → Option Rat
  | .fin n m e =>
    let v : Rat := if 0 ≤ e then (m : Rat) * (2 : Rat) ^ e.toNat else (m : Rat) / (2 : Rat) ^ (-e).toNat
    some (if n then -v else v)
  | _ => none

/-- A drained tile's part of a sample (R146): its converted outputs and the descriptor's values. A sample with a poison entry
is abandoned, and so is one with an output that is poison (log 30). -/
def State.sampleDrain (s : State) (j : Fin 160) (n : Nat) (t : TileId) (chain : Nat) (e : SpoutEnv) (vals : List (List Src))
    (poison : Bool) : State :=
  s.modBasin ⟨j.val / 40, by omega⟩ fun b => { b with snt :=
    match b.snt.sample with
    | some x =>
      if x.jet = j.val ∧ x.array = n ∧ x.tile = t ∧ x.chain = chain ∧ !x.drained then
        let outs := vals.map fun r => r.map Src.rat
        let x := { x with outs := outs, scale := e.scale, bias := e.bias, lo := e.d.lo.toNat % 2 ^ 32,
                          hi := e.d.hi.toNat % 2 ^ 32, drained := true }
        if poison || (outs.any fun r => r.any (·.isNone)) || decide (2 ^ 20 < x.bytes) then b.snt.abandon
        else { b.snt with sample := some x }
      else b.snt
    | none => b.snt }

/-- A sampled chain that drains nothing (R608, R113) leaves no sample (log 30). -/
def State.sampleLost (s : State) (j : Fin 160) (n : Nat) (t : TileId) (chain : Nat) : State :=
  s.modBasin ⟨j.val / 40, by omega⟩ fun b => { b with snt :=
    match b.snt.sample with
    | some x => if x.jet = j.val ∧ x.array = n ∧ x.tile = t ∧ x.chain = chain ∧ !x.drained then b.snt.abandon else b.snt
    | none => b.snt }

/-- The tiles that drain with tile `t` of array `i`: both where the chain is SB64 (R96, R106). -/
def Tile.parts (x : Tile) (i : Nat) (t : TileId) : List (Nat × TileId) := if x.mode = 3 then [(i, .a), (i, .b)] else [(i, t)]

/-- A drain that cannot be made (R113, R608): nothing is written or drawn, the tiles return to IDLE, and each array reports. -/
def State.dropDrain (s : State) (j : Fin 160) (l : List Nat) (t : TileId) : State :=
  l.foldl (fun s i =>
    let x := s.jet j
    let tile := (x.arr i).tile t
    let quadPart := tile.quad && i % 4 != 0
    let s := s.sampleLost j i t tile.chain
    s.putJet j (let y := x.clearTiles (tile.parts i t)
                if quadPart then y else y.arrayFault i tile.chain)) s

/-- Bytes of a range that a drain may not write (R608). -/
def badOutput (k : Core) (r : Range) : Bool :=
  decide (0 < r.2) && (decide (0x1400000 < r.1 + r.2) || (decide (0 < k.code.2) && meets k.code.1 k.code.2 r))

/-- Columns of a drain's tiles that lie inside the output tensor, those beyond being padding (R113). -/
def realCols (quad : Bool) (tiles : List Tile) : Nat :=
  match quad, tiles with
  | false, [a, b] => if 16 ≤ a.cols then 16 + min 16 b.cols else a.cols
  | _, l => (l.headD {}).cols

/-- A drain of the tiles `t` of the arrays `l`, in column order (R103, R108 to R114). Each tile of a lockstep pair is read and
cleared by its own chain's MODE. The spec does not say two things of a pair, and both are DESIGN CHOICES (log 65): where the two
LAST passes have different ROWS the larger number drains of both, and a scale or bias value that cannot be used is one fault,
of the pair's first array. -/
def State.drain (s : State) (j : Fin 160) (l : List Nat) (t : TileId) (d : SpoutDesc) : State :=
  let x := s.jet j
  let tiles := l.map fun i => (x.arr i).tile t
  let first := tiles.headD {}
  let rows := tiles.foldl (fun a y => max a y.rows) 0
  let mode := first.mode
  let quad := first.quad
  let out := outRanges mode quad rows d
  if out.any (badOutput x.core) then s.dropDrain j l t
  else
    let cols := outCols quad d
    let lanes := l.flatMap fun i => (List.range 16).map fun c => some (64 + 16 * i + c)
    let real := realCols quad tiles
    let (k, vals, e, bad) : Core × List (List Src) × SpoutEnv × Bool :=
      if d.dest = 0xFF then
        let bytes := (List.range rows).flatMap fun r => tiles.flatMap fun y => resultRecord y.mode (y.run.get {} r)
        ({ x.core with store := storeBytes x.core.store d.outElem.toNat bytes }, [],
         ⟨d, mode, rows, cols, real, lanes, [], []⟩, false)
      else
        let (e, m) := spoutEnv x.core.store d mode rows cols real lanes
        let at' (r : Nat) := tiles.flatMap fun y => resultEntries y.mode (y.run.get {} r)
        let (k, vs) := drainSteps e at' rows 0 { x.core with store := m }
        (k, vs, e, (e.scale ++ e.bias).any (·.isNone))
    let cut {α : Type} (i : Nat) (v : List α) : List α :=
      if quad || l.length = 1 then v else (v.drop (if i = l.headD 0 then 0 else 16)).take 16
    let marked (i : Nat) : Bool :=
      (if quad then tiles else [(x.arr i).tile t]).any fun y => y.run.any fun q => q.2.es.any (·.p)
    let badScale (i : Nat) : Bool := d.flags.getLsbD 0 && (cut i e.scale).any fun c => c.all fun v => !goodScale e.fmt v
    let x := { x with core := k }
    let x := l.foldl (fun x i => x.modTiles (((x.arr i).tile t).parts i t) fun y => { y with state := .draining }) x
    let x := l.foldl (fun x i => x.modTiles [(i, t)] fun y => { y with drainTo := out, drainChain := y.chain }) x
    let x := if bad then x.arrayFault (l.headD 0) first.chain else x
    l.foldl (fun s i => s.sampleDrain j i t ((x.arr i).tile t).chain
      { e with scale := cut i e.scale, bias := cut i e.bias } (vals.map (cut i)) (marked i || badScale i)) (s.putJet j x)

/-- A spout begins a tile in DRAIN_WAIT (R103, R113): the tile drains with its lockstep partner, and waits while its own or its
partner's spout is draining the other tile. The spouts of arrays 4q + 2 and 4q + 3 stay idle while a quad uses them (R89). -/
def execSpoutDrainStart (j : Fin 160) (n : Fin 8) (t : TileId) (s : State) : Out :=
  let x := s.jet j
  let tile := (x.arr n.val).tile t
  let desc := x.spoutDesc tile.spout
  .next (if tile.state != .drainWait || !s.keeper.aclkOn || (tile.quad && n.val % 4 != 0) || (tile.mode == 3 && t == .b) then s
    else
      let busy (l : List Nat) : Bool := l.any fun i => (x.arr i).tileA.state == .draining || (x.arr i).tileB.state == .draining ||
        ((x.arr i).inQuad && decide (2 ≤ i % 4))
      match x.drainPlan s.logicalArrays n.val t desc with
      | .wait => s
      | .mismatch l => if busy l then s else s.dropDrain j l t
      | .go l =>
        if busy l then s
        else match desc with
          | none => s.dropDrain j l t
          | some d => s.drain j l t d)

/-- The last row has left the spout's first step (R103): the tile, and those held with it, clear and return to IDLE. -/
def execTileReturnIdle (j : Fin 160) (n : Fin 8) (t : TileId) (s : State) : Out :=
  let x := s.jet j
  let tile := (x.arr n.val).tile t
  .next (if tile.state != .draining then s
    else s.putJet j (x.clearTiles (chainTiles n.val (tile.quad && n.val % 4 == 0) tile.mode t)))

/-- The drain's last result is written (R113), which releases the accesses and WAITC held on it (R172). -/
def execDrainLastWrite (j : Fin 160) (n : Fin 8) (t : TileId) (s : State) : Out :=
  let x := s.jet j
  let tile := (x.arr n.val).tile t
  .next (if tile.state == .draining then s
    else s.putJet j (x.modArr n.val fun a => a.putTile t { tile with drainTo := [], drainChain := 0 }))

end Sys2Proof.Machine
end

