-- ==== Sys2Proof/Machine/Tiers.lean ====
section
/-! DEFINITION. The memory tiers: scrubbing, repair, map-out, demand reads and writes of bytes (R251, R252, R260 to R270). -/

namespace Sys2Proof.Machine

/-! ## Regions -/

/-- Die of a region's events. -/
def regionDie : MemRegion → Nat
  | .domain d => d.val
  | .half r => r.val
/-- SOURCE of a region's events. -/
def regionSrc : MemRegion → Nat
  | .domain _ => srcBasin
  | .half _ => srcRunnel

/-- Is scrubbing enabled for a unit (R271, R280)? -/
def State.scrubOn (s : State) (u : MemUnit) : Bool :=
  s.keeper.rails &&
    match u with
    | .channel d c => (s.cisterns.get ⟨8 * d.val + c.val / 32, by omega⟩).en
    | .package r _ => (s.runnels.get r).en

/-! ## Map-out (R263 to R269) -/

/-- MEM_FATAL (R268, R269): recorded, with the unit DEAD; the module halts its part of the job and reports itself failed. -/
def State.memFatal (s : State) (g : MemRegion) (unit reason : Nat) : State :=
  let s := s.modUnit (unitOf g unit) fun x => { x with state := 4, reason := BitVec.ofNat 8 reason }
  let s := s.modRegion g fun m => { m with state := 3 }
  let s := { s with keeper := { s.keeper with memFatal := true } }
  let s := (s.event 0x0033 4 (regionSrc g) [regionDie g, unit, reason]).raise icMemory
  if s.job.running then s.reportFailed.jobHalt 4 else s

/-- Map-outs a region can still take (R269). -/
def mapLimit : MemRegion → Nat
  | .domain _ => 32
  | .half _ => 2

/-- May a readable map-out proceed (R233, R264)? -/
def State.mayMapOut (s : State) (g : MemRegion) : Bool := s.fits g (unitBytes g) && !s.loading

/-- Is a unit dead by its STATE (R274)? -/
def State.isDead (s : State) (g : MemRegion) (n : Nat) : Bool := (s.unitSt (unitOf g n)).state == 4

/-- MAP_OUT_WAIT is recorded once for each queued readable unit that may not proceed, and while no relocation runs the region shows
the first as waiting (R264, R276). -/
def State.waitCheck (s : State) (g : MemRegion) : State :=
  let ready := s.mayMapOut g
  let waiting := ((s.region g).queue.filter fun q => !s.isDead g q.1 && !ready)
  let s := match waiting with
    | (n, _) :: _ => s.modRegion g fun m => if m.state = 0 then { m with state := 2, unit := n } else m
    | [] => s
  waiting.foldl (fun s q =>
    if (s.region g).waits.contains q.1 then s
    else (s.modRegion g fun m => { m with waits := q.1 :: m.waits }).event 0x0030 1 (regionSrc g) [regionDie g, q.1, q.2]) s

/-- A map-out starts (R265): the region's capacity falls by one unit, the capability table changes, and MAP_OUT_START is
recorded. A dead unit's data is lost, its slots are served by the relocation map, and the step aborts (R268). -/
def State.mapOutBegin (s : State) (g : MemRegion) (unit reason : Nat) (dead : Bool) : State :=
  if mapLimit g ≤ (s.region g).withdrawn then s.memFatal g unit reason
  else
    let c := regionUnits g
    let reloc (m : RegionSt) : Tbl W16 :=
      if dead then (List.range 16).foldl (fun (t : Tbl W16) r => t.set (unit + c * r) 0x8000) m.slots else m.slots
    let s := s.modRegion g fun m =>
      { m with state := 1, unit := unit, progress := 0, dead := dead, moved := [], withdrawn := m.withdrawn + 1,
               outs := m.outs ++ [unit], waits := m.waits.filter (· != unit), slots := reloc m }
    let s := s.modUnit (unitOf g unit) fun x => { x with state := 2, reason := BitVec.ofNat 8 reason }
    let s := (s.capChange.event 0x0031 2 (regionSrc g) [regionDie g, unit, reason]).raise icMemory
    if !dead then s
    else if s.fits g 0 then s.abortStep
    else s.abortStep.memFatal g unit reason

/-- A check package passes a readable threshold, recorded once, or dies (R269). -/
def State.checkPackage (s : State) (g : MemRegion) (unit reason : Nat) (dead : Bool) : State :=
  if !dead then
    if (s.region g).waits.contains unit then s
    else (s.modRegion g fun m => { m with waits := unit :: m.waits }).event 0x0035 2 (regionSrc g) [regionDie g, unit, reason]
  else if (s.region g).deadCheck.contains unit then s
  else
    let s := s.modUnit (unitOf g unit) fun x => { x with state := 4, reason := BitVec.ofNat 8 reason }
    let s := s.modRegion g fun m => { m with deadCheck := unit :: m.deadCheck }
    if 2 ≤ (s.region g).deadCheck.length then s.memFatal g unit reason
    else (s.event 0x0034 3 (regionSrc g) [regionDie g, unit, reason]).raise icMemory

/-- A request for map-out (R263, R264, R267, R268): a readable unit queues, PENDING; a dead unit loses its data at once and is mapped
out, or while a relocation runs goes behind the dead units that wait and ahead of every readable one. -/
def State.mapOutRequest (s : State) (u : MemUnit) (reason : Nat) (dead : Bool) : State :=
  let g := unitRegion u
  let n := unitNo u
  let x := s.unitSt u
  if regionUnits g ≤ n then s.checkPackage g n reason dead
  else if !(x.state == 0 || (x.state == 1 && dead)) then s
  else if dead then
    let s := s.modRegion g fun m => { m with queue := m.queue.filter fun q => q.1 != n }
    if (s.region g).state == 1 then
      let first := (s.region g).queue.takeWhile fun q => s.isDead g q.1
      let s := s.modUnit u fun x => { x with state := 4, reason := BitVec.ofNat 8 reason }
      (s.modRegion g fun m => { m with queue := first ++ (n, reason) :: m.queue.drop first.length }).abortStep
    else s.mapOutBegin g n reason true
  else
    let s := s.modUnit u fun x => { x with state := 1, reason := BitVec.ofNat 8 reason }
    (s.modRegion g fun m => { m with queue := m.queue ++ [(n, reason)] }).waitCheck g

/-- The limits of a unit's region registers: SOFT, HARD, UE (R272, R280). -/
def State.limitsOf (s : State) (u : MemUnit) : Nat × Nat × Nat :=
  let l := match u with
    | .channel d c => (s.cisterns.get ⟨8 * d.val + c.val / 32, by omega⟩).limits
    | .package r _ => (s.runnels.get r).limits
  (bits l 15 0, bits l 23 16, bits l 31 24)

/-- The checks of R263 on a unit's counts. -/
def State.mapOutCheck (s : State) (u : MemUnit) : State :=
  let x := s.unitSt u
  let (soft, hard, ue) := s.limitsOf u
  if ue < x.passUe then s.mapOutRequest u 3 true
  else if soft < x.passCe then s.mapOutRequest u 1 false
  else if hard < x.hardAt.length then s.mapOutRequest u 2 false
  else s

/-- A scrub pass ends (R263). -/
def execScrubPassEnd (u : MemUnit) (s : State) : Out :=
  .next ((s.mapOutCheck u).modUnit u fun x => { x with passCe := 0, passUe := 0 })

/-- A unit has left three consecutive commands unanswered (R263). -/
def execUnitCommandTimeout (u : MemUnit) (s : State) : Out := .next (s.mapOutRequest u 4 true)

/-- Re-training after a low eye margin, at a pause or idle period (R531); a failure is REASON 0x05 (R263). -/
def execMemoryRetrain (u : MemUnit) (ok : Bool) (s : State) : Out :=
  .next (if !(s.record.phase == 0 || s.record.phase == 0x0A) || ok then s else s.mapOutRequest u 5 true)

/-- The queued map-out at the front proceeds once no relocation runs and it fits (R264, R265, R267). -/
def execMapOutStart (g : MemRegion) (s : State) : Out :=
  let m := s.region g
  .next (match m.queue with
    | [] => s
    | (n, reason) :: rest =>
      let dead := s.isDead g n
      if m.state == 1 || m.state == 3 then s
      else if dead || s.mayMapOut g then
        (s.modRegion g fun m => { m with queue := rest, state := 0 }).mapOutBegin g n reason dead
      else s.waitCheck g)

/-- The last granule is relocated (R266): the unit is MAPPED_OUT and MAP_OUT_DONE is recorded; a unit that waits shows (R264, R276). -/
def State.mapOutDone (s : State) (g : MemRegion) : State :=
  let m := s.region g
  let reason := (s.unitSt (unitOf g m.unit)).reason.toNat
  let s := s.modUnit (unitOf g m.unit) fun x => { x with state := 3 }
  let s := s.modRegion g fun m => { m with state := 0, progress := 0, dead := false, moved := [], mapped := m.mapped + 1, unit := 0 }
  ((s.event 0x0032 1 (regionSrc g) [regionDie g, m.unit, reason]).raise icMemory).waitCheck g

/-- A granule's copy completes (R266), one of the unit being mapped out or one that an earlier map-out relocated (R267); a granule
that lay in a dead unit is filled with the lost pattern (R268). Relocation does not run in Still (R270). -/
def execRelocationGranuleDone (g : MemRegion) (slot group : Nat) (s : State) : Out :=
  let m := s.region g
  .next (if !s.keeper.rails || 2 ≤ s.keeper.powerState || m.state != 1 || !m.outs.contains (slot % regionUnits g) ||
      slotCount g ≤ slot || s.groupsOf g ≤ group || m.moved.contains (slot, group) then s
    else
      let a := granuleAddr g slot group
      let s := if s.deadGranule a then { s with tiers := storeLost s.tiers a 256 } else s
      let s := s.modRegion g fun m => { m with moved := (slot, group) :: m.moved, progress := m.progress + 256 }
      let done := slot % regionUnits g == m.unit &&
        ((s.region g).moved.filter fun p => p.1 == slot).length == s.groupsOf g
      let s := if done then s.modRegion g fun m => { m with slots := m.slots.set slot 0x8000 } else s
      if (s.region g).moved.length = 16 * m.outs.length * s.groupsOf g then s.mapOutDone g else s)

/-! ## Scrubbing, repair and demand accesses (R251, R252, R260, R262) -/

/-- A scrub read of the word at a unit's byte address (R251, R260): `e1` is the error the read meets and `e2` the one the
second read meets after a correction. An uncorrectable word is left as it is. -/
def execScrubRead (u : MemUnit) (addr : Nat) (e1 e2 : List Byte) (s : State) : Out :=
  .next (match s.unitAddr u (if regionUnits (unitRegion u) ≤ unitNo u then addr else addr / 32 * 32) with
    | none => s
    | some c =>
      if !s.scrubOn u || (s.canon c).isNone then s
      else
        let raw := xorBytes (s.tierRaw c) e1
        match s.tierCheck c raw with
        | .clean _ => s
        | .corrected _ w => s.writeBack (s.errUnit c raw w) c w e2
        | .lost => s.countBad u true
        | .bad => (s.tierPut c raw).countBad u false)

/-- Post-package repair of the row of a hard error during a pause or idle period (R262), where its bank has a spare row: the hard
errors of the row no longer count. -/
def execRowRepair (u : MemUnit) (addr : Nat) (s : State) : Out :=
  let x := s.unitSt u
  let here (b : Nat) : Bool := Config.bankOf b == Config.bankOf addr && Config.rowIn b == Config.rowIn addr
  let left := x.spares.get 0 (Config.bankOf addr)
  .next (if (s.record.phase == 0 || s.record.phase == 0x0A) && x.hardAt.any here && decide (0 < left) then
      s.modUnit u fun x =>
        { x with spares := x.spares.set (Config.bankOf addr) (left - 1), repair := satInc x.repair,
                 hardAt := x.hardAt.filter fun b => !here b }
    else s)

/-- A demand read of the word at a canonical address, with the checks of R263 made on a demand error. -/
def State.demandRead (s : State) (a : Nat) : Option (List Byte) × State :=
  match s.tierRead a with
  | (d, some u, s) => (d, s.mapOutCheck u)
  | (d, none, s) => (d, s)

/-- Write bytes that lie in one word at a canonical address: a whole word is encoded, part of a word is merged, and a word
that cannot be merged becomes the lost pattern (R251, R252). -/
def State.tierWriteIn (s : State) (a : Nat) (bs : List Byte) : State :=
  let w := a / 32 * 32
  if bs.length = 32 then s.tierPut w (encodeWord bs)
  else
    match s.demandRead w with
    | (some d, s) => s.tierPut w (encodeWord (d.take (a % 32) ++ bs ++ d.drop (a % 32 + bs.length)))
    | (none, s) => s.tierPut w lostWord

/-- Write bytes at a device address, word by word; bytes at unmapped addresses move nothing (R239). -/
def State.deviceWrite : Nat → State → Nat → List Byte → State
  | 0, s, _, _ => s
  | n + 1, s, a, bs =>
    if bs.isEmpty then s
    else
      let k := min bs.length (32 - a % 32)
      let s := match s.canon a with
        | some c => s.tierWriteIn c (bs.take k)
        | none => s
      s.deviceWrite n (a + k) (bs.drop k)

/-- Is every byte of a range mapped and in one region (R239)? -/
def State.mapped (s : State) (a n : Nat) : Bool :=
  match regionOf a, regionOf (a + n - 1) with
  | some (g, _), some (h, _) => g == h && (s.canon a).isSome && (s.canon (a + n - 1)).isSome
  | _, _ => false

/-! ## Temperature (R261, R273) -/

/-- A Cistern's report of its stack's temperature (R261), checked as any sample (R598). -/
def execStackTempReport (i : Fin 32) (temp : Int) (s : State) : Out :=
  let ok := decide (-640 ≤ temp) && decide (temp ≤ 2400)
  let n := 7 + i.val
  let k := s.keeper.sensors.get {} n
  if ok then
    .next (({ s with keeper := { s.keeper with sensors := s.keeper.sensors.set n { k with good := temp, rejects := 0 } } } : State).modCistern i
      fun c => { c with temp := BitVec.ofInt 16 temp, refresh2 := decide (1360 ≤ temp) })
  else
    .next { s with keeper := { s.keeper with sensors := s.keeper.sensors.set n { k with rejects := k.rejects + 1 },
                                             rejectCnt := satInc s.keeper.rejectCnt } }

end Sys2Proof.Machine
end

