-- ==== Sys2Proof/Machine/Fabric.lean ====
section
/-! DEFINITION. The weirs: packets and their words, routes and rings, queues and flow control (R367 to R395). -/

namespace Sys2Proof.Machine

/-- Bytes of a word on the fabric (R361). -/
def wordBytes : Nat := 36

end Sys2Proof.Machine

namespace Sys2Proof

/-! ## Packets (R367 to R369) -/

/-- The data bytes of a header word (R367). -/
def Packet.header (p : Packet) : List Byte :=
  let r (hi lo : Nat) : Nat := p.rsvd / 2 ^ lo % 2 ^ (hi + 1 - lo)
  let b (x : Bool) : Nat := if x then 1 else 0
  leBytes 2 (p.dest.toNat + 2 ^ 15 * r 0 0) ++ leBytes 2 (p.src.toNat + 2 ^ 15 * r 1 1) ++ [p.opcode] ++
    leBytes 1 (p.cls.toNat + 4 * p.epoch.toNat + 16 * r 5 2) ++ leBytes 1 p.payload.length ++ leBytes 1 (r 13 6) ++
    leBytes 8 p.addr.toNat ++ leBytes 4 p.tag.toNat ++ leBytes 8 p.oparg.toNat ++ leBytes 1 p.hops ++
    leBytes 1 (b p.vc + 2 * b p.esc + 4 * b p.mark + 8 * r 18 14) ++ leBytes 2 (r 34 19)

/-- The words of a packet as its bytes (R361, R371): only the header word is encoded anew. -/
def Packet.bytes (p : Packet) : List Byte := Machine.encodeWord p.header ++ p.payload.flatMap (fitBytes Machine.wordBytes)

/-- Words of a packet. -/
def Packet.words (p : Packet) : Nat := 1 + p.payload.length

/-- Virtual channel of a packet (R374). -/
def Packet.channel (p : Packet) : Nat := 2 * p.cls.toNat + (if p.vc then 1 else 0)

/-- Does the opcode match its class (R369)? -/
def Packet.opOk (p : Packet) : Bool :=
  match p.opcode.toNat with
  | 1 => p.cls == 1 || p.cls == 2
  | 2 => p.cls == 0
  | 3 | 4 | 5 => p.cls == 3
  | _ => false

end Sys2Proof

namespace Sys2Proof.Machine

/-- A header's data bytes read (R367). -/
def parseHeader (h : List Byte) (payload : List (List Byte)) : Packet :=
  let n (o k : Nat) : Nat := leNat ((h.drop o).take k)
  let c := n 5 1
  let f := n 0x1D 1
  { dest := BitVec.ofNat 15 (n 0 2), src := BitVec.ofNat 15 (n 2 2), opcode := h.getD 4 0, cls := BitVec.ofNat 2 c,
    epoch := BitVec.ofNat 2 (c / 4), addr := BitVec.ofNat 64 (n 8 8), tag := BitVec.ofNat 32 (n 0x10 4),
    oparg := BitVec.ofNat 64 (n 0x14 8), hops := n 0x1C 1, vc := f % 2 == 1, esc := f / 2 % 2 == 1, mark := f / 4 % 2 == 1,
    rsvd := n 0 2 / 2 ^ 15 + 2 * (n 2 2 / 2 ^ 15) + 4 * (c / 16) + 2 ^ 6 * n 7 1 + 2 ^ 14 * (f / 8) + 2 ^ 19 * n 0x1E 2,
    payload := payload }

/-! ## Counters (R385, R407) -/

/-- Count an event of the weirs: 0 STALE_EPOCH, 1 UNREACH, 2 HOPS, 3 ESCAPE, 4 WRITE_REJECT, 5 BAD_OP. -/
def State.countWeir (s : State) (k : Nat) : State := { s with weir := { s.weir with cnt := bump s.weir.cnt k } }

/-- Count `n` events of a port: 0 RETRY, 1 NAK, 2 FEC_CORR, 3 FEC_UNCORR, 4 HDR_ERR, 5 WORD_CORR, 6 WORD_LOST, 7 LOST_FWD,
8 MARK, 9 DOWN. -/
def State.countPort (s : State) (p : Fin 6) (k n : Nat) : State := s.modPort p fun x => { x with cnt := bumpBy x.cnt k n }

/-- A packet of an epoch enters a channel (R385). -/
def State.enterChannel (s : State) (e : BitVec 2) (v : Nat) : State :=
  let k := 8 * e.toNat + v
  { s with weir := { s.weir with epIn := s.weir.epIn.set k (s.weir.epIn.get 0 k + 1) } }

/-- A packet of an epoch leaves a channel (R385). -/
def State.leaveChannel (s : State) (e : BitVec 2) (v : Nat) : State :=
  let k := 8 * e.toNat + v
  { s with weir := { s.weir with epOut := s.weir.epOut.set k (s.weir.epOut.get 0 k + 1) } }

/-! ## Flow control (R374, R377) -/

/-- RT_BYTES of a port. -/
def Port.rtBytes (x : Port) : Nat := x.rtt.toNat * 375 + 2340
/-- OFF_LEVEL of a port. -/
def Port.offLevel (x : Port) : Nat := min x.rtBytes 57344

/-- Words of the packets in a stream, by channel: packets whose words have arrived in part count what has arrived. -/
def streamWords : Nat → List Byte → Tbl Nat → Tbl Nat
  | 0, _, t => t
  | n + 1, bs, t =>
    if bs.length < wordBytes then t
    else
      let h := parseHeader (bs.take 32) []
      let len := ((bs.drop 6).headD 0).toNat
      let have' := min (1 + len) (bs.length / wordBytes)
      streamWords n (bs.drop (wordBytes * (1 + len))) (t.set h.channel (t.get 0 h.channel + have'))

/-- Bytes held in the receive buffer of a channel (R374). -/
def Port.occupied (x : Port) (v : Nat) : Nat :=
  wordBytes * (x.rxWords.get 0 v + (streamWords x.rxStream.length x.rxStream []).get 0 v)

/-- The buffers' on and off states follow their free space (R377). -/
def Port.reflow (x : Port) : Port :=
  let free (v : Nat) : Nat := 65536 - x.occupied v
  { x with off := (List.range 8).foldl (fun (b : Byte) v =>
      if b.getLsbD v then (if x.offLevel + 4096 ≤ free v then setBit b v false else b)
      else if free v < x.offLevel then setBit b v true else b) x.off }

/-- Words taken into a receive buffer. -/
def State.holdWords (s : State) (p : Fin 6) (v n : Nat) : State :=
  s.modPort p fun x => { x with rxWords := x.rxWords.set v (x.rxWords.get 0 v + n) }.reflow

/-- A packet leaves its channel (R385) and its receive buffer. -/
def State.leave (s : State) (x : Queued) : State :=
  let s := s.leaveChannel x.pkt.epoch x.v
  match x.src with
  | some (p, v) => s.modPort p fun y => { y with rxWords := y.rxWords.set v (y.rxWords.get 0 v - x.pkt.words) }.reflow
  | none => s

/-- A packet is discarded and counted. -/
def State.discard (s : State) (x : Queued) (k : Nat) : State := (s.leave x).countWeir k

/-! ## Routes (R379 to R383) -/

/-- The bank of an epoch (R383). -/
def Weir.bank (w : Weir) (e : BitVec 2) : RouteBank := if e.getLsbD 0 then w.bank1 else w.bank0
/-- Ring size of a dimension. -/
def RouteBank.size (b : RouteBank) (d : Nat) : Nat := if d = 0 then b.nx else if d = 1 then b.ny else b.nz
/-- Own coordinate in a dimension. -/
def RouteBank.own (b : RouteBank) (d : Nat) : Nat := if d = 0 then b.x else if d = 1 then b.y else b.z
/-- Module address of a bank's coordinates (R368). -/
def RouteBank.addr (b : RouteBank) : Nat := b.x + 32 * b.y + 1024 * b.z
/-- A coordinate of a module address (R368). -/
def coordOf (a d : Nat) : Nat := a / 32 ^ d % 32
/-- The module's own address: that of the injection epoch's bank. -/
def Weir.addr (w : Weir) : BitVec 15 := BitVec.ofNat 15 (w.bank w.inj).addr

/-- The other port of a port's dimension. -/
def otherPort (p : Fin 6) : Fin 6 := if h : p.val % 2 = 0 then ⟨p.val + 1, by omega⟩ else ⟨p.val - 1, by omega⟩
/-- The port of a dimension in a direction: true is +. -/
def portOf (d : Nat) (plus : Bool) : Fin 6 := ⟨(2 * d + (if plus then 1 else 0)) % 6, by omega⟩
/-- Distance from `a` to `b` in a direction of a ring of `n`. -/
def ringDist (n a b : Nat) (plus : Bool) : Nat := if plus then (b + n - a % n) % n else (a + n - b % n) % n

/-- Is no known break on the `k` links from `own` in a direction (R380, R387)? -/
def linksOk (breaks : List Nat) (n own k : Nat) (plus : Bool) : Bool :=
  (List.range k).all fun i => !breaks.contains (if plus then (own + i) % n else (own + n * (i + 1) - (i + 1)) % n)

/-- choose of R380: true is +, none is no allowed direction. -/
def chooseDir (breaks : List Nat) (n own dest : Nat) : Option Bool :=
  let d := ringDist n own dest true
  let plus := linksOk breaks n own d true
  let minus := linksOk breaks n own (n - d) false
  if plus && minus then (if d < n - d then some true else if n - d < d then some false else some (own % 2 == 0))
  else if plus then some true else if minus then some false else none

/-- Coordinate of a port's peer, or of the adjacent module where the port is not UP. -/
def Weir.peerCoord (w : Weir) (b : RouteBank) (q : Fin 6) : Nat :=
  let d := q.val / 2
  let n := max 1 (b.size d)
  let x := w.ports.get q
  if x.state = 2 then coordOf x.peer.toNat d else if q.val % 2 = 1 then (b.own d + 1) % n else (b.own d + n - 1) % n

/-- Does a destination lie in the gap between the module and a port's peer (R381)? -/
def Weir.inGap (w : Weir) (b : RouteBank) (q : Fin 6) (dest : Nat) : Bool :=
  let d := q.val / 2
  let n := max 1 (b.size d)
  let plus := q.val % 2 == 1
  let k := ringDist n (b.own d) (coordOf dest d) plus
  let g := ringDist n (b.own d) (w.peerCoord b q) plus
  (w.ports.get q).state == 2 && decide (0 < k) && decide (k < (if g = 0 then n else g))

/-- Where a packet goes next. -/
inductive Hop where
  | deliver
  | out (q : Fin 6) (vc : Bool)
  | drop
  deriving DecidableEq, Repr

/-- The channel bit of a packet on the link out of `q` (R375). -/
def Weir.nextVc (w : Weir) (b : RouteBank) (p : Packet) (arr : Option (Fin 6)) (q : Fin 6) : Bool :=
  let d := q.val / 2
  let same := arr.any fun a => a.val / 2 == d
  let next := w.peerCoord b q
  let cross := if q.val % 2 = 1 then decide (next < b.own d) else decide (b.own d < next)
  (same && p.vc) || cross

/-- The route of a packet that arrived on a port (none: injected) by the bank of its epoch (R379, R380, R381). -/
def Weir.route (w : Weir) (p : Packet) (arr : Option (Fin 6)) : Hop :=
  let b := w.bank p.epoch
  let dest := p.dest.toNat
  let o := b.overrides.get 0 dest
  let via (q : Fin 6) (force : Bool) : Hop := if w.inGap b q dest then .drop else .out q (force || w.nextVc b p arr q)
  if o.getLsbD 15 then
    let port := bits o 14 12
    if h : port < 6 then via ⟨port, h⟩ (o.getLsbD 11) else if port = 6 then .deliver else .drop
  else if dest = b.addr then .deliver
  else match (List.range 3).find? fun d => coordOf dest d != b.own d with
    | none => .deliver
    | some d =>
      let keep := if p.esc then (arr.filter fun a => a.val / 2 == d).map fun a => a.val % 2 == 0 else none
      match keep.orElse fun _ => chooseDir (w.breaks.get [] d) (max 1 (b.size d)) (b.own d) (coordOf dest d) with
      | some plus => via (portOf d plus) false
      | none => .drop

/-! ## Queues (R376, R389, R393, R394) -/

/-- A packet joins the queue of an output (R393): one of the point-to-point or securing class is marked where the queue holds more
than the threshold of its class. -/
def State.join (s : State) (q : Fin 6) (x : Queued) : State :=
  let port := s.weir.ports.get q
  let held := (port.outQ.filter fun y => y.pkt.cls == x.pkt.cls).foldl (fun n y => n + wordBytes * y.pkt.words) 0
  let mark := (x.pkt.cls == 1 || x.pkt.cls == 2) && decide (1024 * s.weir.markKib.toNat < held)
  let x := if mark then { x with pkt := { x.pkt with mark := true } } else x
  let s := if mark then s.countPort q 8 1 else s
  s.modPort q fun y => { y with outQ := y.outQ ++ [x] }

/-- A packet of a port that is down goes out of the other port of its dimension with ESCAPE and VC 1, or is discarded (R389). -/
def State.reinject (s : State) (p : Fin 6) (x : Queued) : State :=
  let o := otherPort p
  let b := s.weir.bank x.pkt.epoch
  let d := p.val / 2
  let n := max 1 (b.size d)
  let plus := o.val % 2 == 1
  let dest := x.pkt.dest.toNat
  let k := ringDist n (b.own d) (coordOf dest d) plus
  let ok := (s.weir.ports.get o).state == 2 && linksOk (s.weir.breaks.get [] d) n (b.own d) k plus && !s.weir.inGap b o dest
  if !ok then s.discard x 1
  else
    let s := (s.leave x).countWeir 3
    let y : Queued := { pkt := { x.pkt with esc := true, vc := true }, src := none, v := 2 * x.pkt.cls.toNat + 1 }
    (s.enterChannel y.pkt.epoch y.v).join o y

/-- Send an ECHO for a marked packet (R394), at most one for a flow every 4 µs. -/
def State.echoFor (s : State) (p : Packet) : State :=
  let k := 4 * p.src.toNat + p.cls.toNat
  let recent := s.weir.echoAt.has k && decide (s.uptime < (s.weir.echoAt.get 0 k).toNat + 4000)
  if !p.mark || recent then s
  else
    let s := { s with weir := { s.weir with echoAt := s.weir.echoAt.set k s.keeper.uptime } }
    s.send (.packet p.src.toNat "ECHO" [p.dest.toNat, p.cls.toNat])

/-- The first `n` entries of a source, and every entry of the others. -/
def keepSeen (n : Nat) (src : BitVec 15) : List (BitVec 15 × W32) → List (BitVec 15 × W32)
  | [] => []
  | x :: t => if x.1 = src then (match n with | 0 => keepSeen 0 src t | k + 1 => x :: keepSeen k src t) else x :: keepSeen n src t

/-- A packet is delivered to this module (R369): a MGMT packet seen before is discarded (R391). -/
def State.deliver (s : State) (p : Packet) : State :=
  let s := s.echoFor p
  if p.opcode = 3 ∧ s.weir.mgmtSeen.contains (p.src, p.tag) then s
  else
    let seen := if p.opcode = 3 then (p.src, p.tag) :: keepSeen 63 p.src s.weir.mgmtSeen else s.weir.mgmtSeen
    { s with weir := { s.weir with mgmtSeen := seen, delivered := s.weir.delivered ++ [p] } }

/-- A packet that has entered channel `x.v` goes on (R379 to R381, R383, R390). -/
def State.routePacket (s : State) (x : Queued) (arr : Option (Fin 6)) : State :=
  match s.weir.route x.pkt arr with
  | .deliver => (s.leave x).deliver x.pkt
  | .drop => s.discard x 1
  | .out q vc =>
    if (s.weir.ports.get q).state = 2 then s.join q { x with pkt := { x.pkt with vc := vc } }
    else if x.pkt.esc then s.discard x 1
    else s.reinject q x

/-! ## Receiving packets (R371 to R373) -/

/-- A payload word checked (R372): the word as it is passed on, and 1 corrected, 2 made lost, 3 lost already. -/
def checkPayload (w : List Byte) : List Byte × Nat :=
  match checkWord w with
  | .clean _ => (w, 0)
  | .corrected _ w' => (w', 1)
  | .lost => (w, 3)
  | .bad => (lostWord, 2)

/-- Split a byte string into words. -/
def splitWords : Nat → List Byte → List (List Byte)
  | 0, _ => []
  | n + 1, bs => bs.take wordBytes :: splitWords n (bs.drop wordBytes)

/-- Is an epoch live (R383)? -/
def Weir.epochLive (w : Weir) (e : BitVec 2) : Bool := w.live.getLsbD e.toNat

/-- A weir takes the next whole packet received on a port (R369, R372, R373, R383). -/
def execPacketReceive (p : Fin 6) (s : State) : Out :=
  let st := (s.weir.ports.get p).rxStream
  let len := ((st.drop 6).headD 0).toNat
  let total := wordBytes * (1 + len)
  .next (if st.length < wordBytes ∨ st.length < total then s
    else
      let s := s.modPort p fun x => { x with rxStream := x.rxStream.drop total }
      let ws := (splitWords len (st.drop wordBytes)).map checkPayload
      let n (k : Nat) : Nat := (ws.filter fun w => w.2 == k).length
      let s := ((s.countPort p 5 (n 1)).countPort p 6 (n 2)).countPort p 7 (n 3)
      let head := match checkWord (st.take wordBytes) with
        | .clean d => some d
        | .corrected d _ => some d
        | _ => none
      match head with
      | none => (s.countPort p 6 1).modPort p Port.reflow
      | some h =>
        let pkt := parseHeader h (ws.map (·.1))
        let v := pkt.channel
        let s := (s.enterChannel pkt.epoch v).holdWords p v pkt.words
        let x : Queued := ⟨pkt, some (p, v), v⟩
        if !pkt.opOk then s.discard x 5
        else if !s.weir.epochLive pkt.epoch then s.discard x 0
        else if 128 ≤ pkt.hops then s.discard x 2
        else s.routePacket x (some p))

/-! ## Sending packets (R376, R378) -/

/-- May a packet start on its channel (R376, R378)? -/
def Port.mayStart (x : Port) (now : Nat) (q : Queued) : Bool :=
  let v := q.pkt.channel
  let recent := (x.sentWin.filter fun e => e.2.1 == v && decide (now < e.1 + x.rtt.toNat)).foldl (fun n e => n + e.2.2) 0
  x.xonRx.getLsbD v && (!x.paced || decide (wordBytes * (recent + q.pkt.words) ≤ 55004))

/-- The packet of a class that goes next: VC 1 before VC 0. -/
def Port.head (x : Port) (now c : Nat) : Option Queued :=
  let pick (vc : Bool) : Option Queued :=
    (x.outQ.find? fun q => q.pkt.cls.toNat == c && q.pkt.vc == vc).filter (x.mayStart now)
  (pick true).orElse fun _ => pick false

/-- Deficit round-robin over the sharing classes from the class whose turn it is (R376): the packet, the deficits and the turn. -/
def drrPick (heads : Nat → Option Queued) : Nat → Tbl Nat → Nat → Option (Queued × Tbl Nat × Nat)
  | 0, _, _ => none
  | n + 1, deficit, turn =>
    let next := (turn + 1) % 3
    let go (t : Tbl Nat) := drrPick heads n (t.set next (t.get 0 next + 65)) next
    match heads turn with
    | none => go (deficit.set turn 0)
    | some q =>
      let have' := deficit.get 0 turn
      if q.pkt.words ≤ have' then some (q, deficit.set turn (have' - q.pkt.words), turn) else go deficit

/-- The packet a port starts next. -/
def Port.next (x : Port) (now : Nat) : Option (Queued × Tbl Nat × Nat) :=
  match x.head now 3 with
  | some q => some (q, x.deficit, x.turn)
  | none => drrPick (x.head now) 4 x.deficit x.turn

/-! ## Writes (R370, R391) -/

/-- Put a payload word at a device address: a lost word is stored as lost (R252, R372). -/
def State.putPayload (s : State) (a : Nat) (w : List Byte) : State :=
  match checkWord w with
  | .clean d => s.deviceWrite 3 a d
  | .corrected d _ => s.deviceWrite 3 a d
  | _ => match s.canon a with
    | some c => if a % 32 = 0 then s.tierPut c lostWord else
        let s := s.tierPut (c / 32 * 32) lostWord
        match s.canon (a + 31) with
        | some c' => s.tierPut (c' / 32 * 32) lostWord
        | none => s
    | none => s

/-- Is the target range of a WRITE open to its SRC in the current membership epoch (R370)? -/
def State.writeOpen (s : State) (p : Packet) : Bool :=
  let a := p.addr.toNat % 2 ^ 48
  s.weir.opened.any fun o => o.1 == p.src && o.2.2.2 == s.record.epoch && decide (o.2.1 ≤ a) &&
    decide (a + 32 * p.payload.length ≤ o.2.1 + o.2.2.1)

/-- A WRITE packet at its destination (R370). -/
def execWrite (pkt : Packet) (s : State) : Out :=
  let s := { s with weir := { s.weir with delivered := s.weir.delivered.erase pkt } }
  .next (if !(pkt.opcode == 1 && pkt.opOk) then s
    else if !s.writeOpen pkt then s.countWeir 4
    else (List.range pkt.payload.length).foldl (fun s i =>
      s.putPayload (pkt.addr.toNat % 2 ^ 48 + 32 * i) (pkt.payload.getD i [])) s)

/-! ## Source rate (R394, R395) -/

/-- Change a flow of the table. -/
def State.modFlow (s : State) (dest : BitVec 15) (cls : BitVec 2) (f : Flow → Flow) : State :=
  { s with weir := { s.weir with flows := s.weir.flows.map fun x => if x.dest = dest ∧ x.cls = cls then f x else x } }

/-- Has a time at least `n` ns before now passed since a moment, or was there none? -/
def since (now : Nat) (t : Option W64) (n : Nat) : Bool := t.all fun x => decide (x.toNat + n ≤ now)

/-- An ECHO names a flow (R395): its rate halves, at most once in 4 µs. -/
def execEcho (dest : BitVec 15) (cls : BitVec 2) (s : State) : Out :=
  .next (s.modFlow dest cls fun f =>
    let f := { f with echoed := some s.keeper.uptime }
    if since s.uptime f.halved 4000 then
      { f with rate := if f.rate / 2 < 1 then 1 else f.rate / 2, halved := some s.keeper.uptime }
    else f)

/-- 8 µs without an ECHO (R395). -/
def execFlowRateIncrease (dest : BitVec 15) (cls : BitVec 2) (s : State) : Out :=
  .next (s.modFlow dest cls fun f =>
    if since s.uptime f.echoed 8000 then
      { f with rate := if 400 < f.rate + 2 then 400 else f.rate + 2, echoed := some s.keeper.uptime }
    else f)

/-! ## Ripple maps (R396, R397) -/

/-- The ports that are UP. -/
def Weir.upPorts (w : Weir) : BitVec 6 :=
  (List.finRange 6).foldl (fun (b : BitVec 6) p => if (w.ports.get p).state = 2 then setBit b p.val true else b) 0

/-- A 100 ns sample of every receive buffer (R396). -/
def execRippleSample (s : State) : Out :=
  .next (if !s.keeper.rails then s
    else
      let hist := (List.finRange 6).foldl (fun (t : Tbl Nat) p =>
        let x := s.weir.ports.get p
        (List.range 8).foldl (fun (t : Tbl Nat) v =>
          let k := 128 * p.val + 16 * v + min 15 (x.occupied v / 4096)
          t.set k (t.get 0 k + 1)) t) s.weir.hist
      { s with weir := { s.weir with hist := hist } })

/-- The end of a 100 µs interval (R396, R397): the record is numbered by the interval of UPTIME_NS that ends. -/
def execRippleRecordClose (s : State) : Out :=
  let k := s.uptime / 100000 - 1
  .next (if !s.keeper.rails then s
    else { s with weir := { s.weir with
      records := (s.weir.records ++ [(BitVec.ofNat 64 (100000 * k), BitVec.ofNat 64 k, s.weir.histUp, s.weir.hist)]).drop
        (s.weir.records.length + 1 - 64),
      hist := [], histUp := s.weir.upPorts } })

/-- Held records from an INDEX on, at most `n` (R397). -/
def Weir.recordsFrom (w : Weir) (first n : Nat) : List (W64 × W64 × BitVec 6 × Tbl Nat) :=
  (w.records.filter fun r => decide (first ≤ r.2.1.toNat)).take n

/-- The bytes of a ripple record (R397). -/
def rippleBytes (r : W64 × W64 × BitVec 6 × Tbl Nat) : List Byte :=
  leBytes 8 r.1.toNat ++ leBytes 8 r.2.1.toNat ++ leBytes 1 r.2.2.1.toNat ++ zeroBytes 15 ++
    (List.range 768).flatMap fun k => leBytes 2 (r.2.2.2.get 0 k)

/-- A MGMT request for ripple records (R397). -/
def execRippleMapRequest (src : BitVec 15) (first : W64) (count : Nat) (s : State) : Out :=
  .next ((s.weir.recordsFrom first.toNat count).foldl (fun s r => s.send (.ripple src.toNat r.2.1)) s)

/-! ## Rings (R387, R388, R421) -/

/-- A ring turns into a line while collectives are open (R421). -/
def State.lineSeen (s : State) (d : Nat) : State :=
  { s with coll := { s.coll with opened := s.coll.opened.map fun c => { c with line := setBit c.line d true } } }

/-- Add a break to a ring (R387, R388): RING_LINE for each added; a fifth is not kept. False where it was known already. -/
def State.addBreak (s : State) (p : Fin 6) (d coord : Nat) : State × Bool :=
  let bs := s.weir.breaks.get [] d
  if bs.contains coord then (s, false)
  else if 4 ≤ bs.length then
    if s.weir.tooMany.getLsbD d then (s, false)
    else ({ s with weir := { s.weir with tooMany := setBit s.weir.tooMany d true } }, true)
  else
    let s := { s with weir := { s.weir with breaks := s.weir.breaks.set d (bs ++ [coord]) } }
    ((s.lineSeen d).event 0x0053 2 srcWeir [p.val, coord, d], true)

/-- Clear the breaks of `span` links from `coord` (R388): RING_WHOLE when the list becomes empty. False where there was none. -/
def State.clearBreaks (s : State) (p : Fin 6) (d coord span : Nat) : State × Bool :=
  let n := max 1 ((s.weir.bank s.weir.inj).size d)
  let bs := s.weir.breaks.get [] d
  let left := bs.filter fun b => !decide (ringDist n coord b true < span)
  if left.length = bs.length then (s, false)
  else
    let s := { s with weir := { s.weir with breaks := s.weir.breaks.set d left } }
    if left.isEmpty then
      let s := { s with weir := { s.weir with tooMany := setBit s.weir.tooMany d false } }
      (s.event 0x0054 1 srcWeir [p.val, coord, d], true)
    else (s, true)

/-- A RING_NOTICE goes out of a port that is UP. -/
def State.sendNotice (s : State) (q : Fin 6) (d coord span : Nat) (clear : Bool) : State :=
  if (s.weir.ports.get q).state = 2 then s.send (.notice q.val d coord span clear) else s

/-- A RING_NOTICE arrives (R388, R391): applied once, and passed on along the line. -/
def execRingNotice (p : Fin 6) (dim : Fin 3) (coord span : Nat) (clear : Bool) (s : State) : Out :=
  let (s, new) := if clear then s.clearBreaks p dim.val coord span else s.addBreak p dim.val coord
  .next (if new && p.val / 2 == dim.val then s.sendNotice (otherPort p) dim.val coord span clear else s)

end Sys2Proof.Machine
end

