-- ==== Sys2Proof/Machine/Records.lean ====
section
/-! DEFINITION. The byte layouts of the update descriptor (R293), the reservoir entry (R321) and the header of a parity share (R335),
and an entry's place in the ring (R319, R322). -/

namespace Sys2Proof

open Machine (sumOf)

/-! ## The update descriptor (R293) -/

/-- A bitmap of `n` bytes: bit k set where the list holds k. -/
def bitmapBytes (n : Nat) (l : List Nat) : List Byte :=
  (List.range n).map fun b => BitVec.ofNat 8 (sumOf ((List.range 8).map fun k => if l.contains (8 * b + k) then 2 ^ k else 0))

/-- The 24,640 bytes of an update descriptor (R293). -/
def UpdateDesc.bytes (d : UpdateDesc) : List Byte :=
  leBytes 8 d.globalStep.toNat ++ leBytes 1 (if d.srcSlot then 1 else 0) ++ leBytes 1 (if d.drop then 1 else 0) ++ zeroBytes 2 ++
    leBytes 4 d.groups ++ leBytes 4 d.ranks ++ leBytes 4 d.absent.eraseDups.length ++ zeroBytes 0x28 ++
    ((List.range 4096).flatMap fun g => leBytes 4 (if g < d.groups then (d.tAgreed.getD g 0).toNat else 0)) ++
    bitmapBytes 4096 d.absent ++ bitmapBytes 4096 d.carried

/-! ## The reservoir entry (R321) -/

/-- The 256-byte header of an entry. -/
def ResEntry.header (e : ResEntry) : List Byte :=
  leBytes 8 e.globalStep.toNat ++ leBytes 4 e.sourceRank ++ leBytes 4 e.epoch.toNat ++ leBytes 8 e.gradRecords ++
    leBytes 2 e.terraceGen.toNat ++ zeroBytes 6 ++ fitBytes 32 e.imageHash ++ leBytes 16 e.digestV.toNat ++ zeroBytes 0xB0

/-- `n` values of 8 bytes from a table, those not listed being `x`. -/
def tableBytes (n : Nat) (x : W64) (t : Tbl W64) : List Byte := (List.range n).flatMap fun k => leBytes 8 (t.get x k).toNat

/-- The fixed part of an entry, 534,848 bytes: header, descriptor, window offsets and lane states. -/
def ResEntry.fixed (e : ResEntry) : List Byte :=
  e.header ++ e.desc.bytes ++ tableBytes 256 0 e.windows ++ tableBytes 30720 0 e.jetLanesStart ++
    tableBytes 30720 0 e.jetLanesEnd ++ tableBytes 2048 0 e.coreLanes

/-- An entry as it is laid out (R321). -/
def ResEntry.bytes (e : ResEntry) : List Byte := e.fixed ++ e.grads.flatMap (fitBytes 2080)

end Sys2Proof

namespace Sys2Proof.Machine

/-- Write bytes as whole words. -/
def State.writeBytes (s : State) (a : Nat) (bs : List Byte) : State := State.writeWords (toWords (bs.length / 32) bs) s a

/-- The predecessor's entry takes its slot of the ring (R319, R322): its fixed part in half 0, each gradient record in the half of its
state record. -/
def State.keepEntry (s : State) (i : Image) (e : ResEntry) : State :=
  let slot := e.globalStep.toNat % (s.job.policy.d + 1)
  let s := s.writeBytes (s.ringAddr i slot) e.fixed
  let s := ((i.shardRecords s.predecessor).zip e.grads).foldl
    (fun (s : State) p => s.writeBytes (s.gradAddr i slot p.1) (fitBytes 2080 p.2)) s
  { s with job := { s.job with ring := s.job.ring.set slot { e with grads := [] }, predComplete := true } }

/-- Read the word at each of a list of device addresses. -/
def State.readEach : List Nat → State → List (Option (List Byte)) × State
  | [], s => ([], s)
  | a :: t, s =>
    let (w, s) := s.readWords 1 a
    let (ws, s) := State.readEach t s
    (w.headD none :: ws, s)

/-- Write a word at each of a list of device addresses. -/
def State.writeEach : List (Nat × Option (List Byte)) → State → State
  | [], s => s
  | (a, w) :: t, s => State.writeEach t (State.writeWords [w] s a)

/-! ## The parity share (R335, R337) -/

/-- The 4 KiB header of a parity share (R335). -/
def Parity.header (p : Parity) : List Byte :=
  leBytes 2 p.gen.toNat ++ leBytes 1 (if p.complete then 1 else 0) ++ zeroBytes 1 ++ leBytes 4 p.group ++ leBytes 2 p.stripe ++
    zeroBytes 6 ++ leBytes 8 p.securedStep.toNat ++ leBytes 8 p.len ++
    ((List.range 16).flatMap fun k => leBytes 16 (p.digests.get 0 k).toNat) ++ zeroBytes 0xEE0

/-- Write words of the parity share with its header from byte `o` on, wherever the halves place them. -/
def State.putShare (s : State) (i : Image) : Nat → List (Option (List Byte)) → State
  | _, [] => s
  | o, w :: ws => State.putShare (State.writeWords [w] s (s.parityAddr i o)) i (o + 32) ws

/-- The header is written as the share's fields stand. -/
def State.putHeader (s : State) (i : Image) : State := s.putShare i 0 (toWords 128 s.job.parity.header)

/-- The share is zeroed (R337). -/
def State.clearShare (s : State) (i : Image) : State := s.putShare i 4096 (toWords (s.shareBytes / 32) [])

/-- Fold words into the share from its byte `o` on by XOR (R337): a word that cannot be used gives the lost pattern (R252). -/
def State.foldShare (s : State) (i : Image) : Nat → List (Option (List Byte)) → State
  | _, [] => s
  | o, w :: ws =>
    let a := s.parityAddr i (4096 + o)
    let (old, s) := s.readWords 1 a
    let new := match old.headD none, w with
      | some x, some y => some (xorBytes x y)
      | _, _ => none
    State.foldShare (State.writeWords [new] s a) i (o + 32) ws

end Sys2Proof.Machine
end

