-- ==== Sys2Proof/Machine/Update.lean ====
section
/-! DEFINITION. Runnel dies: state records, the update descriptor, the dispatcher's staging and write-back, the store-path digest
and the end of the update pass (R283 to R309, R326 to R328, R353). -/

namespace Sys2Proof.Machine

/-! ## The pass begins (R307, R308, R353) -/

/-- t_g of version V + 1 from the agreed counts (R307). -/
def nextCounts (i : Image) (agreed : List W32) : List W32 :=
  (List.range i.groups.length).map fun g =>
    let t := agreed.getD g 0
    if i.frozen g then t else satInc t

/-- STEP_SKEW of one bank of a die (R308): the group and the bank share ARG1 (log 32). -/
def State.stepSkew (s : State) (r : Fin 2) (held : Bool) (local' agreed : List W32) (groups : Nat) : State :=
  (List.range groups).foldl (fun s g =>
    if local'.getD g 0 = agreed.getD g 0 then s
    else
      (s.modRunnel r fun x => { x with cnt := bump x.cnt 1 }).event 0x0023 1 srcRunnel
        [r.val, g + (if held then 65536 else 0), (local'.getD g 0).toNat, (agreed.getD g 0).toNat]) s

/-- Does the image have an UPDATE node (R215)? -/
def Image.updates (i : Image) : Bool := i.nodes.any fun n => match n.kind with | .update _ => true | _ => false

/-- The update descriptor of a bank: the module's own, and for the replica the copy in the predecessor's entry (R294). -/
def State.descOf (s : State) (held : Bool) : Option UpdateDesc := if held then s.predEntry.map (·.desc) else s.job.desc

/-- One bank takes up its descriptor: skews are adopted (R308), and the t_g table of V + 1 is written (R307). -/
def State.takeDesc (s : State) (i : Image) (held : Bool) : State :=
  match s.descOf held with
  | some d =>
    let v := s.record.slot
    let sh := if held then s.job.held else s.job.own
    let s := (List.finRange 2).foldl (fun s r => s.stepSkew r held (sh.t v) d.tAgreed d.groups) s
    let sh := sh.putT (!v) (nextCounts i d.tAgreed)
    { s with job := if held then { s.job with held := sh } else { s.job with own := sh } }
  | none => s

/-- UPDATE begins: the banks take up their descriptors, and the dispatchers start with the terms of the t_g tables (R307, R308,
R353). An image with no UPDATE node passes through, and version V + 1 is version V (R40, log 66). -/
def State.beginUpdate (s : State) : State :=
  match s.job.image, s.job.desc with
  | some i, some d =>
    if !Image.updates i then
      ({ s with record := { s.record with digest := s.job.digestV }
                job := { s.job with heldDigest := s.job.heldDigestV } } : State).setDone 8
    else
      let s := (s.takeDesc i false).takeDesc i true
      let v := s.record.slot
      let sat := ((List.range i.groups.length).filter fun g => !i.frozen g && d.tAgreed.getD g 0 == BitVec.allOnes 32).length
      let term (sh : Shard) : W128 := recordTerm s.job.key (tTableBytes (sh.t (!v)))
      (List.finRange 2).foldl (fun s r => s.modRunnel r fun x =>
        { x with
          staged := [], ahead := [], nextOwn := [], nextHeld := [], state := 1, ownCount := 0, heldCount := 0,
          ownDone := (i.bank s.coll.rank r.val).isEmpty, heldDone := (i.bank s.predecessor r.val).isEmpty,
          digOwn := if r.val = 0 then term s.job.own else 0, digHeld := if r.val = 0 then term s.job.held else 0,
          cnt := if r.val = 0 then bumpBy x.cnt 2 sat else x.cnt }) s
  | _, _ => s

/-! ## Bias correction (R298) -/

/-- β^t by the dispatcher's loop: `n` bits of t from the top. -/
def powBits (b t : Nat) : Nat → Nat → Nat
  | 0, p => p
  | n + 1, p =>
    let q := (b64.mul .even p p).1
    powBits b t n (if t / 2 ^ n % 2 = 1 then (b64.mul .even q b).1 else q)

/-- The binary64 code of 1.0. -/
def one64 : Nat := 0x3FF0000000000000

/-- bias_correction of R298, a binary32 code. -/
def biasCorrection (beta : W32) (t : Nat) : Nat :=
  if 2 ^ 20 ≤ t then 0x3F800000
  else
    let b := (convertIF b32 b64 .even beta.toNat).1
    (convertIF b64 b32 .even (b64.add .even true one64 (powBits b t 32 one64)).1).1

/-- The group block of R297. -/
def groupBlock (g : ParamGroup) (t : Nat) (step : W64) (group : Nat) : List Byte :=
  [g.lr, g.beta1, g.beta2, g.eps, g.wd].flatMap (fun x => leBytes 4 x.toNat) ++ leBytes 4 (biasCorrection g.beta1 t) ++
    leBytes 4 (biasCorrection g.beta2 t) ++ leBytes 4 t ++ leBytes 8 step.toNat ++ leBytes 2 group ++ zeroBytes 0x16

/-! ## Staging (R295 to R297, R304, R309) -/

/-- Words put into an update store, none as the lost pattern (R252). -/
def storeWords : Mem → Nat → List (Option (List Byte)) → Mem
  | m, _, [] => m
  | m, w, x :: t => storeWords (putWord m w (match x with | some b => encodeWord b | none => lostWord)) (w + 1) t

/-- A record, its gradient record and its group block put into a staging set (R284, R296): a word that cannot be used is staged as the
lost pattern, and raises UNCORRECTABLE when the kernel reads it (R301). -/
def Core.stageSet (k : Core) (set : Bool) (record grad : List (Option (List Byte))) (block : List Byte) : Core :=
  let w := stageBase set / 32
  let m := storeWords (storeWords (storeWords k.store w record) (w + 0x2000 / 32) grad) (w + 0x3000 / 32) (toWords 2 block)
  { k with store := m }

/-- The core as the kernel is entered on a staging set (R296, R297). -/
def Core.enterKernel (k : Core) (set held : Bool) (entry : Nat) : Core :=
  let base := stageBase set
  let k := { k with
    s := Vector.replicate 32 0, v := Vector.replicate 32 0, ctrl := 0, flags := 0, halted := false, held := none,
    resume := 0, resumed := false, staged := some set, heldBank := held, pc := BitVec.ofNat 64 (k.code.1 + entry) }
  ((k.ws 1 (BitVec.ofNat 64 base)).ws 2 (BitVec.ofNat 64 (base + 0x2000))).ws 3 (BitVec.ofNat 64 (base + 0x3000))

/-- Note a record of a bank as written or skipped (R314, R315). -/
def Runnel.countRecord (x : Runnel) (held : Bool) (total : Nat) : Runnel :=
  if held then { x with heldCount := x.heldCount + 1, heldDone := x.heldDone || decide (x.heldCount.toNat + 1 = total) }
  else { x with ownCount := x.ownCount + 1, ownDone := x.ownDone || decide (x.ownCount.toNat + 1 = total) }

/-- The digest engine takes a record (R328). -/
def Runnel.addDigest (x : Runnel) (held : Bool) (term : W128) : Runnel :=
  if held then { x with digHeld := x.digHeld + term } else { x with digOwn := x.digOwn + term }

/-- The number the dispatcher gives core `n` next in a bank (R295). -/
def Runnel.nextNo (x : Runnel) (held : Bool) (n : Nat) : Nat := (if held then x.nextHeld else x.nextOwn).get n n
/-- That number taken. -/
def Runnel.takeNo (x : Runnel) (held : Bool) (n : Nat) : Runnel :=
  if held then { x with nextHeld := x.nextHeld.set n (x.nextNo held n + 16) }
  else { x with nextOwn := x.nextOwn.set n (x.nextNo held n + 16) }

/-- The gradient record of a record: the exchange's output for the own bank, of which the words in `bad` cannot be used, and that of the
predecessor's entry in the ring for the held one (R288, R294). -/
def State.gradOf (s : State) (i : Image) (held : Bool) (idx : Nat) (bad : List Nat) : List (Option (List Byte)) × State :=
  if held then s.readWords 65 (s.gradAddr i s.ringSlot idx)
  else (((toWords 65 (fitBytes 2080 (Tbl.get [] s.job.ownGrad idx))).zipIdx).map fun p => if bad.contains p.2 then none else p.1, s)

/-- The entry of the kernel that updates a group (R226). -/
def Image.entryOf (i : Image) (g : Nat) : Nat :=
  (i.kernels.getD ((i.groups[g]?).map (·.kernel) |>.getD 0) (0, 0)).1

/-- Does the data plane work in phase `p` of the step (R27)? -/
def State.inPhase (s : State) (p : Nat) : Bool :=
  s.job.running && s.record.phase.toNat == p && s.keeper.rails && s.keeper.aclkOn && s.keeper.step == 11

/-- A frozen record is skipped (R309): its term is that of its single copy (R328). -/
def State.skipRecord (s : State) (i : Image) (r : Fin 2) (n : Nat) (held : Bool) (idx total : Nat) : State :=
  let (ws, s) := s.readRecord i held s.record.slot idx
  s.modRunnel r fun x =>
    let x := ((x.takeNo held n).countRecord held total).addDigest held (recordTerm s.job.key (plainBytes ws))
    { x with cnt := bump x.cnt 0 }

/-- A record is staged with its gradient record and group block into the staging set that no kernel uses (R296): the kernel is entered,
or runs on it after the one in progress. -/
def State.stageRecord (s : State) (i : Image) (r : Fin 2) (n : Fin 16) (held : Bool) (no idx : Nat) (bad : List Nat) : State :=
  let g := i.recordGroup idx
  let t := satInc (((s.descOf held).map (·.tAgreed)).getD [] |>.getD g 0)
  let grp := i.groups.getD g ⟨0, 0, 0, 0, 0, 0, false, 0, 0⟩
  let (rec', s) := s.takeRecord i held idx
  let (grad, s) := s.gradOf i held idx bad
  s.modRunnel r fun x =>
    let x := x.takeNo held n.val
    let running := Tbl.has x.staged n.val
    let set := running && !(x.staged.get ⟨true, false, 0, 0, 0, false⟩ n.val).set
    let st : Staged := ⟨set, held, no, idx, g, false⟩
    let k := (x.cores.get n).stageSet set rec' grad (groupBlock grp t.toNat s.record.globalStep g)
    if running then { x with ahead := x.ahead.set n.val st, cores := vset x.cores n k }
    else { x with staged := x.staged.set n.val st, cores := vset x.cores n (k.enterKernel set held (Image.entryOf i g)) }

/-- The dispatcher takes core `n`'s next record of a bank (R296): a frozen one is skipped (R309), any other is staged. None
is issued to a core that has halted on a fault (R301). -/
def execRecordStage (r : Fin 2) (n : Fin 16) (b : StageFrom) (s : State) : Out :=
  let x := s.runnels.get r
  let held := b.isHeld
  .next (match s.job.image with
    | none => s
    | some i =>
      let bank := i.bank (if held then s.predecessor else s.coll.rank) r.val
      let no := x.nextNo held n.val
      let stopped := Tbl.has x.staged n.val && (x.cores.get n).halted && !(x.staged.get ⟨false, false, 0, 0, 0, false⟩ n.val).halted
      if !s.inPhase 8 || x.state = 0 || x.state = 2 || Tbl.has x.ahead n.val || stopped then s
      else match bank[no]? with
        | none => s
        | some idx =>
          if i.frozen (i.recordGroup idx) then s.skipRecord i r n.val held idx bank.length
          else s.stageRecord i r n held no idx b.bad)

/-! ## Write-back (R287, R296, R299) -/

/-- The new record from the staged bytes: padding positions at zero codes, and WRITE_STEP (R287, R296). -/
def closeRecord (i : Image) (idx : Nat) (step : W64) (old staged : List Byte) : List Byte :=
  let pad (p : Nat) : Bool := i.paddingAt idx p
  let at' (o : Nat) : Byte := staged.getD o 0
  let elems (base : Nat) : List Byte :=
    (List.range 1024).flatMap fun p => if pad p then [0, 0] else [at' (base + 2 * p), at' (base + 2 * p + 1)]
  let exps := (List.range 32).map fun b => if (List.range 32).all fun k => pad (32 * b + k) then 0 else at' (0x820 + b)
  old.take 8 ++ leBytes 8 step.toNat ++ (old.drop 16).take 16 ++ elems 0x20 ++ exps ++ elems 0x840 ++ elems 0x1040

/-- The kernel has ended with HALT (R296): the record goes to the other slot and to the digest engine, an own-bank record's
weights are written through, and the kernel is entered on the record staged next. -/
def execRecordWriteback (r : Fin 2) (n : Fin 16) (s : State) : Out :=
  let x := s.runnels.get r
  .next (match s.job.image with
    | none => s
    | some i =>
      let st := x.staged.get ⟨false, false, 0, 0, 0, false⟩ n.val
      if !s.inPhase 8 || !(Tbl.has x.staged n.val && st.halted) then s
      else
        let k := x.cores.get n
        let v := s.record.slot
        let (old, s) := s.readWords 1 (s.recordAddr i st.held v st.index)
        let ws := (List.range recordWords).map fun w => wordData k.store (stageBase st.set / 32 + w)
        let new := closeRecord i st.index s.record.globalStep (plainBytes old) (plainBytes ws)
        let out := ((toWords recordWords new).zip ws).zipIdx.map fun p => if p.2 = 0 ∨ p.1.2.isSome then p.1.1 else none
        let s := State.writeWords out s (s.recordAddr i st.held (!v) st.index)
        let s := if st.held then s else s.writeThrough i st.index out
        let total := (i.bank (if st.held then s.predecessor else s.coll.rank) r.val).length
        s.modRunnel r fun x =>
          let x := (x.countRecord st.held total).addDigest st.held (recordTerm s.job.key (plainBytes out))
          let k := { k with staged := none, heldBank := false }
          if Tbl.has x.ahead n.val then
            let nx := x.ahead.get ⟨false, false, 0, 0, 0, false⟩ n.val
            { x with staged := x.staged.set n.val nx, ahead := Tbl.del x.ahead n.val,
                     cores := vset x.cores n (k.enterKernel nx.set nx.held (Image.entryOf i nx.group)) }
          else { x with staged := Tbl.del x.staged n.val, cores := vset x.cores n k })

/-- Both dispatchers have finished (R300): DIGEST is published and DONE_MASK bit 8 set. -/
def execUpdatePassComplete (s : State) : Out :=
  let all := (List.finRange 2).all fun r => let x := s.runnels.get r; x.state == 1 && x.ownDone && x.heldDone
  .next (if s.inPhase 8 && all then
      let a := s.runnels.get 0
      let b := s.runnels.get 1
      let s := (List.finRange 2).foldl (fun s r => s.modRunnel r fun x => { x with state := 2 }) s
      ({ s with record := { s.record with digest := a.digOwn + b.digOwn }
                job := { s.job with heldDigest := a.digHeld + b.digHeld } } : State).setDone 8
    else s)

end Sys2Proof.Machine
end

