-- ==== Sys2Proof/Machine/CollOps.lean ====
section
/-! DEFINITION. The collective engine: the membership table it works by, placement and evaluation of nodes, distribution of results,
and the exchange window (R136, R137, R409 to R425). -/

namespace Sys2Proof.Machine

/-! ## The membership table (R425) -/

/-- STATE of a rank; a rank outside the table counts as FAILED. -/
def MembTable.st (t : MembTable) (rank : Nat) : Nat := ((t.entries[rank]?).map (·.2)).getD 1
/-- ACTIVE ranks in ascending order. -/
def MembTable.actives (t : MembTable) : List Nat := (List.range t.entries.length).filter fun r => MembTable.st t r == 0

/-- ACTIVE ranks by the table held. -/
def State.actives (s : State) : List Nat := (s.coll.table.map MembTable.actives).getD []
/-- Ranks of the table held. -/
def State.tableRanks (s : State) : Nat := (s.coll.table.map (·.entries.length)).getD 0
/-- The leader (R422). -/
def State.leader (s : State) : Nat := s.actives.headD 0
/-- Does the membership logic take part: a table is held and the member is not fenced? -/
def State.isMember (s : State) : Bool := s.coll.table.isSome && s.coll.state != 0 && s.coll.state != 5

/-- Count an event of the engine or of the membership logic: 0 RETX, 1 DUP, 2 STALE, 3 LOST, 4 ABANDON, 5 LINE, 6 FMT, 7 ROUND, 8
FAIL, 9 FENCE (R440). -/
def State.countColl (s : State) (k n : Nat) : State := { s with coll := { s.coll with cnt := bumpBy s.coll.cnt k n } }

/-! ## The suspect queue (R29) -/

/-- Unread entries of the suspect queue. -/
def StepRecord.unread (r : StepRecord) : Nat := (r.put - r.take).toNat

/-- Write one suspect entry. -/
def StepRecord.putSuspect (r : StepRecord) (w : W32) : StepRecord :=
  { r with suspects := r.suspects.set (r.put.toNat % 16) w (Nat.mod_lt _ (by omega)), put := r.put + 1 }

/-- The engine reports a rank (R29): while 16 entries are unread it keeps the report. -/
def State.reportSuspect (s : State) (rank : BitVec 15) (cause : Nat) : State :=
  let w : W32 := BitVec.ofNat 32 (rank.toNat + 2 ^ 16 * cause)
  { s with record := if s.record.unread < 16 then s.record.putSuspect w else { s.record with kept := s.record.kept ++ [w] } }

/-! ## Formats and node additions (R137, R410, R413, R414) -/

/-- Elements of a chunk (R413). -/
def collPerChunk : CollFmt → Nat
  | .binary64 => 256
  | .binary32 => 512
  | .jf16 => 1024
  | _ => 128

/-- The block format of a BX element format. -/
def collBlk : CollFmt → Option BlkFmt
  | .bx16 => blkFmt? 0x10
  | .bx8 => blkFmt? 0x11
  | _ => none

/-- Is the operation MAX or MIN? -/
def collWins : CollOp → Bool
  | .max => true
  | .min => true
  | _ => false

/-- A block that is zero. -/
def zeroBlock : BlockPartial := { s := List.replicate 32 0, g := 0, poison := List.replicate 32 false, zero := true }

/-- A BX leaf block as a partial block (R414). -/
def leafBlock (f : BlkFmt) (E : Nat) (codes : List Nat) : BlockPartial :=
  if E = 0 then zeroBlock
  else if E = 0xFF then { s := List.replicate 32 0, g := (E : Int) - 127, poison := List.replicate 32 true, zero := false }
  else
    let at' (k : Nat) : Nat := codes.getD k 0
    { s := (List.range 32).map fun k => if at' k = f.poison then 0 else toSigned f.width (at' k)
      g := (E : Int) - 127, poison := (List.range 32).map fun k => at' k == f.poison, zero := false }

/-- A leaf in the form in which nodes add it. -/
def toPartial (fmt : CollFmt) (d : ChunkData) : ChunkData :=
  match d, collBlk fmt with
  | .source codes exps, some f =>
    .blocks ((List.range exps.length).map fun b => leafBlock f (exps.getD b 0) ((codes.drop (32 * b)).take 32))
  | d, _ => d

/-- The zero leaf of a chunk (R136); in MAX and MIN it holds no candidate. -/
def zeroLeaf (op : CollOp) (fmt : CollFmt) : ChunkData :=
  if collWins op then .winners (List.replicate 128 (b64.qnan, 2 ^ 64 - 1))
  else match collBlk fmt with
    | some _ => .blocks (List.replicate 4 zeroBlock)
    | none => .elems (List.replicate (collPerChunk fmt) 0)

/-- One element addition (R137). -/
def elemAdd (fmt : CollFmt) (a b : Nat) : Nat × Ev :=
  match fmt with
  | .binary64 => ((b64.add .even false a b).1, {})
  | .binary32 => ((b32.add .even false a b).1, {})
  | _ => jfFma .even false false 0x3E00 a b

/-- Shortening that makes every element of a block fit in 64 bits (R126, R137). -/
def blockShift (rs : List Int) : Nat :=
  (rs.map fun r => (bitLen r.natAbs) - 63).foldl max 0

/-- The addition of two blocks (R126, R137): one q and one k for the block. -/
def blockAdd (l r : BlockPartial) : BlockPartial :=
  let pm := (List.range 32).map fun k => l.poison.getD k false || r.poison.getD k false
  if l.zero && r.zero then { zeroBlock with poison := pm }
  else
    let q := if r.zero then l.g else if l.zero then r.g else max (min l.g r.g) (max l.g r.g - 3)
    let side (b : BlockPartial) (k : Nat) : Int := if b.zero then 0 else shiftTrunc (b.s.getD k 0) (b.g - q)
    let rs := (List.range 32).map fun k => side l k + side r k
    if rs.all (· == 0) then { zeroBlock with poison := pm }
    else
      let k := blockShift rs
      { s := rs.map fun x => shiftTrunc x (-(k : Int)), g := q + k, poison := pm, zero := false }

/-- The order of binary64 values with −0 below +0 (R410). -/
def orderKey (c : Nat) : Int := if 2 ^ 63 ≤ c then -((c - 2 ^ 63 : Nat) : Int) - 1 else (c : Int)

/-- The winner of two candidates (R410). -/
def winner (mx : Bool) (a b : Nat × Nat) : Nat × Nat :=
  if b64.isNan a.1 then b
  else if b64.isNan b.1 then a
  else
    let x := orderKey a.1
    let y := orderKey b.1
    if x = y then (if a.2 ≤ b.2 then a else b) else if (decide (y < x)) == mx then a else b

/-- Two lists combined position by position. -/
def zipAll {α : Type} (f : α → α → α) (a b : List α) : List α := (a.zip b).map fun p => f p.1 p.2

/-- node_add of two chunks (R137, R410) with its format events. -/
def chunkAdd (op : CollOp) (fmt : CollFmt) (l r : ChunkData) : ChunkData × Ev :=
  match l, r with
  | .elems a, .elems b =>
    let rs := (a.zip b).map fun p => elemAdd fmt p.1 p.2
    (.elems (rs.map (·.1)), rs.foldl (fun (e : Ev) x => e.add x.2) {})
  | .blocks a, .blocks b => (.blocks (zipAll blockAdd a b), {})
  | .winners a, .winners b => (.winners (zipAll (winner (op == .max)) a b), {})
  | l, _ => (l, {})

/-- A partial block as the sources of its elements. -/
def BlockPartial.srcs (b : BlockPartial) : List Src :=
  (List.range 32).map fun k =>
    if b.poison.getD k false then .poison
    else if b.zero then .fin false 0 0
    else let v := b.s.getD k 0; .fin (decide (v < 0)) v.natAbs b.g

/-- The root in the source format (R137, R416), with its format events. -/
def encodeRoot (fmt : CollFmt) (d : ChunkData) : ChunkData × Ev :=
  match d, collBlk fmt with
  | .blocks bs, some f =>
    let es := bs.map fun b => encodeBlock f false false [] (BlockPartial.srcs b)
    (.source (es.flatMap fun e => e.2.1) (es.map (·.1)), es.foldl (fun (e : Ev) x => e.add x.2.2) {})
  | d, _ => (d, {})

/-- Events that FH_COLL_FMT_CNT counts (R440). -/
def Ev.engine (e : Ev) : Nat := e.sat + e.poison + e.blkUfl

/-! ## Runs and placement (R130, R411, R416, R417) -/

/-- COLL of the EXCHANGE node (R415): its place among the COLLECTIVE nodes in NODE_ID order. -/
def exchangeColl (i : Image) : Option Nat :=
  let cs := i.nodes.filter fun n => match n.kind with | .collective _ _ => true | _ => false
  (cs.find? fun n => n.phase == 6).map fun x => (cs.filter fun n => decide (n.id < x.id)).length

/-- Is a collective the reduce-scatter of EXCHANGE? -/
def State.isExchange (s : State) (coll : Nat) : Bool := s.job.image.any fun i => exchangeColl i == some coll

/-- The owner of the run that holds a place, from a list of run lengths: rank and place within the run. -/
def ownerIn : List Nat → Nat → Nat → Nat × Nat
  | [], o, j => (o, j)
  | n :: t, o, j => if j < n then (o, j) else ownerIn t (o + 1) (j - n)

/-- The owner of a chunk's run, and the chunk's place j in it (R411). -/
def State.chunkRun (s : State) (x : OpenColl) (c : Nat) : Nat × Nat :=
  if s.isExchange x.coll then
    ownerIn ((s.job.image.map fun i => i.shards.map (· / collPerChunk x.fmt)).getD []) 0 c
  else
    let q := max 1 ((x.chunks + s.tableRanks - 1) / max 1 s.tableRanks)
    (c / q, c % q)

/-- The first rank at or after `r` in [a, a + m), wrapping, that a test holds of. -/
def firstActive (act : Nat → Bool) (a m r : Nat) : Option Nat :=
  ((List.range m).map fun k => a + (r - a + k) % m).find? act

/-- The rank that evaluates a node (R416): none where no rank under it is ACTIVE. -/
def State.evalRank (s : State) (x : OpenColl) (a m c : Nat) : Option Nat :=
  let act (r : Nat) : Bool := s.actives.contains r
  let (o, j) := s.chunkRun x c
  let n := s.tableRanks
  if m = n then firstActive act 0 n (o % max 1 n)
  else if m ≤ 1 then (if act a then some a else none)
  else firstActive act a m (a + (o + j) % m)

/-- The parent of a node in tree(leaf, 0, n) (R130). -/
def treeParent : Nat → Nat → Nat → Nat × Nat → Option (Nat × Nat)
  | 0, _, _, _ => none
  | fuel + 1, a, n, x =>
    if n ≤ 1 then none
    else
      let p := 2 ^ Nat.log2 (n - 1)
      if x = (a, p) ∨ x = (a + p, n - p) then some (a, n)
      else if x.1 < a + p then treeParent fuel a p x
      else treeParent fuel (a + p) (n - p) x

/-- Every node of tree(leaf, a, n) with more than one leaf (R130). -/
def treeNodes : Nat → Nat → Nat → List (Nat × Nat)
  | 0, _, _ => []
  | fuel + 1, a, n =>
    if n ≤ 1 then []
    else
      let p := 2 ^ Nat.log2 (n - 1)
      (a, n) :: (treeNodes fuel a p ++ treeNodes fuel (a + p) (n - p))

/-- The rank that distributes a chunk's result (R417). -/
def State.origin (s : State) (x : OpenColl) (c : Nat) : Option Nat :=
  match x.op with
  | .broadcast src => some src
  | .allGather =>
    let o := (s.chunkRun x c).1
    if s.actives.contains o then some o else none
  | _ => s.evalRank x 0 s.tableRanks c

/-- The ranks to which a rank passes a result (R417). -/
def fanOut (acts : List Nat) (org me : Nat) : List Nat :=
  let n := acts.length
  let io := acts.idxOf org
  let u := (acts.idxOf me + n - io) % max 1 n
  ((List.range 16).filter fun r => decide (u < 2 ^ r) && decide (u + 2 ^ r < n)).map fun r => acts.getD ((io + u + 2 ^ r) % max 1 n) 0

/-! ## Changing an open collective -/

/-- Is an open collective the one named? -/
def OpenColl.isNo (coll occ : Nat) (x : OpenColl) : Bool := x.coll == coll && x.occ == occ
/-- The open collective named. -/
def State.findColl (s : State) (coll occ : Nat) : Option OpenColl := s.coll.opened.find? (OpenColl.isNo coll occ)
/-- The open collective named, changed. -/
def State.modColl (s : State) (coll occ : Nat) (f : OpenColl → OpenColl) : State :=
  { s with coll := { s.coll with opened := s.coll.opened.map fun x => if OpenColl.isNo coll occ x then f x else x } }

/-- The identity of a chunk of a collective (R415). -/
def OpenColl.chunk (x : OpenColl) (kind : ChunkKind) (a m c : Nat) : ChunkId :=
  ⟨kind, x.coll, x.occ, a, m, c, BitVec.ofNat 32 x.step.toNat, x.epoch⟩

/-- Send a chunk and keep it until it is acknowledged (R419). -/
def State.sendChunk (s : State) (dest : Nat) (id : ChunkId) (d : ChunkData) : State :=
  ({ s with coll := { s.coll with sent := s.coll.sent ++ [⟨dest, id, d, 0⟩] } } : State).send (.chunk dest id d)

/-- Bytes that a chunk takes in the chunk store (R413, R419): only partial chunks lie there. -/
def storeBytesOf (x : Sent) : Nat :=
  if x.id.kind = .partialNode then (match x.data with | .blocks _ => 1152 | _ => 2048) else 0

/-- Bytes of the chunk store in use (R419). -/
def Coll.storeUsed (c : Coll) : Nat := (c.sent.map storeBytesOf).foldl (· + ·) 0

/-- Has the chunk store room for one more partial chunk? -/
def Coll.storeRoom (c : Coll) : Bool := decide (c.storeUsed + 2048 ≤ 192 * 2 ^ 20)

/-- A node's value goes to its parent: kept here where this rank evaluates it, and sent otherwise (R416). -/
def State.feed (s : State) (coll occ a m c : Nat) (d : ChunkData) : State :=
  match s.findColl coll occ with
  | none => s
  | some x =>
    match treeParent 64 0 s.tableRanks (a, m) with
    | none => s
    | some (pa, pm) =>
      match s.evalRank x pa pm c with
      | none => s
      | some r =>
        if r = s.coll.rank then s.modColl coll occ fun x => { x with nodes := x.nodes ++ [(a, m, c, toPartial x.fmt d)] }
        else s.sendChunk r (x.chunk (if m = 1 then .leaf else .partialNode) a m c) d

/-- A result is held here and passed on (R417). -/
def State.takeResult (s : State) (coll occ c : Nat) (d : ChunkData) : State :=
  match s.findColl coll occ with
  | none => s
  | some x =>
    let s := s.modColl coll occ fun x => { x with results := x.results.set c d }
    match x.op, s.origin x c with
    | .reduceScatter, _ => s
    | _, none => s
    | _, some org => (fanOut s.actives org s.coll.rank).foldl (fun s r => s.sendChunk r (x.chunk .result 0 s.tableRanks c) d) s

/-! ## Opening (R409, R423) -/

/-- The own contribution as this member puts it in: MAX and MIN candidates with their global indices (R410). -/
def State.ownLeaf (s : State) (d : ChunkData) : ChunkData :=
  match d with
  | .winners l => .winners (l.map fun p => (p.1, s.coll.rank * 2 ^ 32 + p.2 % 2 ^ 32))
  | d => d

/-- A chunk that was accepted before the collective opened here takes its place. -/
def State.takeEarly (s : State) (e : ChunkId × ChunkData) : State :=
  if e.1.kind = .result then s.takeResult e.1.coll e.1.occ e.1.c e.2
  else s.modColl e.1.coll e.1.occ fun x => { x with nodes := x.nodes ++ [(e.1.a, e.1.m, e.1.c, toPartial x.fmt e.2)] }

/-- A collective opens here with the leaves left out of it and the own contribution. -/
def State.openColl (s : State) (coll occ : Nat) (op : CollOp) (fmt : CollFmt) (chunks : Nat) (own : Tbl ChunkData) (absent : List Nat) : State :=
  let lines : BitVec 3 := s.weir.tooMany ||| (List.range 3).foldl (fun (b : BitVec 3) d =>
    setBit b d (!(Tbl.get [] s.weir.breaks d).isEmpty)) 0
  let x : OpenColl := ⟨coll, occ, op, fmt, chunks, s.record.globalStep, s.record.epoch, own, [], [], absent, lines, []⟩
  let mine (e : ChunkId × ChunkData) : Bool :=
    e.1.coll == coll && e.1.occ == occ && e.1.step == s.record.globalStep.truncate 32 && e.1.epoch == s.record.epoch
  let early := s.coll.early.filter mine
  let s := { s with coll := { s.coll with opened := s.coll.opened ++ [x], early := s.coll.early.filter (!mine ·) } }
  let s := match op with
    | .broadcast src => if src = s.coll.rank then own.foldl (fun s p => s.takeResult coll occ p.1 p.2) s else s
    | .allGather => own.foldl (fun s p => s.takeResult coll occ p.1 p.2) s
    | _ =>
      if absent.contains s.coll.rank then s
      else own.foldl (fun s p => s.feed coll occ s.coll.rank 1 p.1 (s.ownLeaf p.2)) s
  early.foldl State.takeEarly s

/-! ## The exchange window (R311, R312, R422, R423) -/

/-- COLL of the T_AGREED broadcast (R415). -/
def collTAgreed : Nat := 0xFFE
/-- COLL of the commit vote (R415). -/
def collVote : Nat := 0xFFF

/-- The counts of a t_g table as chunks of 512 (R294, R413). -/
def countChunks (t : List W32) : Tbl ChunkData :=
  (List.range 8).map fun c => (c, .elems ((List.range 512).map fun k => (t.getD (512 * c + k) 0).toNat))

/-- A member has START (R311, R312, R423): left-out contributions are counted, and the lowest-ranked present member broadcasts its
t_g table. -/
def State.takeStart (s : State) (absent carried : List Nat) : State :=
  let late := s.actives.filter absent.contains
  let dropMode := s.job.policy.drop == 1
  let s := { s with coll := { s.coll with
    started := some (absent, carried), window := false, startNs := s.keeper.uptime, carrying := if dropMode then [] else late } }
  let s := s.modRunnel 0 fun r =>
    let c := bumpBy r.cnt 3 late.length
    { r with cnt := if dropMode then bumpBy c 4 late.length else c }
  match s.actives.find? (!absent.contains ·) with
  | some p =>
    let own := if p = s.coll.rank then countChunks (s.job.own.t s.record.slot) else []
    s.openColl collTAgreed 0 (.broadcast p) .binary32 8 own []
  | none => s

/-- The leader sends START (R422, R423): every rank without READY is absent, and a third miss in a row is reported. -/
def State.sendStart (s : State) : State :=
  let here := s.actives.filter s.coll.readyFrom.contains
  let absent := (List.range s.tableRanks).filter (!here.contains ·)
  let carried := here.filter s.coll.readyCarried.contains
  let late := s.actives.filter absent.contains
  let misses : Tbl Nat := late.map fun r => (r, s.coll.misses.get 0 r + 1)
  let s := { s with coll := { s.coll with misses := misses } }
  let s := (s.actives.filter (· != s.coll.rank)).foldl
    (fun s r => s.send (.packet r "START" ([absent.length] ++ absent ++ carried))) s
  let s := (misses.filter (·.2 == 3)).foldl (fun s p => s.reportSuspect (BitVec.ofNat 15 p.1) 2) s
  s.takeStart absent carried

/-- The leader holds a rank's READY (R422): half the active ranks open the window, and all of them close it. -/
def State.takeReady (s : State) (rank : Nat) (carried : Bool) : State :=
  if s.coll.readyFrom.contains rank || s.coll.started.isSome then s
  else
    let s := { s with coll := { s.coll with
      readyFrom := rank :: s.coll.readyFrom, readyCarried := if carried then rank :: s.coll.readyCarried else s.coll.readyCarried } }
    let a := s.actives.length
    let k := (s.actives.filter s.coll.readyFrom.contains).length
    if k = a then s.sendStart
    else if a ≤ 2 * k && !s.coll.window then { s with coll := { s.coll with window := true, openNs := s.keeper.uptime } }
    else s

/-- EXCHANGE begins (R422, R424): the own leaf is complete, and READY goes to the leader. -/
def State.beginExchange (s : State) : State :=
  let carried := s.job.carried.isSome
  let s := s.setThr 9 true
  if s.leader = s.coll.rank then s.takeReady s.coll.rank carried
  else s.send (.packet s.leader "READY" [s.record.globalStep.toNat % 2 ^ 32, if carried then 1 else 0])

/-- EXCHANGE ends at the leader (R422): the exchange time of the step. -/
def State.endExchange (s : State) : State :=
  { s with coll := { s.coll with exchUs := (s.uptime - s.coll.startNs.toNat) / 1000 } }

/-- The element that stands in the middle of a list of times, the lower of two (R310). -/
def medianOf (l : List Nat) : Nat := (l.mergeSort (fun a b => decide (a ≤ b))).getD ((l.length - 1) / 2) 0

/-- Length of the exchange window in ns (R227, R310): a share of the median exchange time, and no less than the policy's least. -/
def State.windowNs (s : State) : Nat :=
  max (s.job.policy.windowPermille * s.coll.median.toNat) (s.job.policy.windowMinMs * 1000000)

/-- A step commits: its exchange time joins the last 31 (R310, R439). -/
def State.keepExchange (s : State) : State :=
  let ts := (s.coll.exchUs :: s.coll.times).take 31
  { s with coll := { s.coll with times := ts, median := BitVec.ofNat 32 (medianOf ts) } }

end Sys2Proof.Machine
end

