-- ==== Sys2Proof/Machine/Sequencer.lean ====
section
/-! DEFINITION. The step sequencer and the step commit record (R26 to R31, R40, R80), the update descriptor (R293, R294), and the
reservoir entry this module sends (R321, R322). -/

namespace Sys2Proof.Machine

/-! ## The descriptor and the entry -/

/-- The update descriptor of the step (R293, R294): the agreed counts are those broadcast, or this module's own where none have
arrived, and the absent and carried sets those of START. -/
def State.formDesc (s : State) : UpdateDesc :=
  let (absent, carried) := s.coll.started.getD ([], [])
  { globalStep := s.record.globalStep, srcSlot := s.record.slot, drop := s.job.policy.drop == 1,
    groups := (s.job.image.map (·.groups.length)).getD 0, ranks := s.ranks,
    tAgreed := (s.job.desc.map (·.tAgreed)).getD (s.job.own.t s.record.slot), absent := absent, carried := carried }

/-- The lane of a jet by logical number (R236): none for a lane that is not seeded. -/
def Jet.physLane (x : Jet) (L k : Nat) : Option Nat :=
  if k < 64 then some k
  else
    let l := (k - 64) / 16
    if l < L then (x.logical l).map fun n => 64 + 16 * n + (k - 64) % 16 else none

/-- Lane states of every jet by logical lane, at 192 times the jet's number plus the lane (R321). -/
def State.jetLanes (s : State) (f : Core → Tbl W64) : Tbl W64 :=
  (List.finRange 160).flatMap fun j => (List.range 192).map fun k =>
    (192 * j.val + k, match (s.jet j).physLane s.logicalArrays k with
      | some p => (f (s.jet j).core).get 1 p
      | none => 0)

/-- Saved lane states of every update core, at 64 times (16 r + n) plus the lane (R321). -/
def State.coreLanes (s : State) : Tbl W64 :=
  (List.finRange 2).flatMap fun r => (List.finRange 16).flatMap fun n => (List.range 64).map fun k =>
    (64 * (16 * r.val + n.val) + k, ((s.runnels.get r).cores.get n).saved.get 1 k)

/-- The input window offsets for GLOBAL_STEP by window ID (R225, R321). -/
def State.windowOffsets (s : State) : Tbl W64 :=
  match s.job.image with
  | some i => (i.windows.filter fun w => !w.out).map fun w =>
      (w.id, BitVec.ofNat 64 (s.record.globalStep.toNat % max 1 w.slots * w.stride))
  | none => []

/-- The reservoir entry of the step (R321). -/
def State.formEntry (s : State) (d : UpdateDesc) : ResEntry :=
  let recs := (s.job.image.map fun i => i.shardRecords s.coll.rank).getD []
  { globalStep := s.record.globalStep, sourceRank := s.coll.rank, epoch := s.record.epoch, gradRecords := recs.length,
    terraceGen := s.job.gen, imageHash := (s.job.image.map (·.hash)).getD [], digestV := s.job.digestV, desc := d,
    windows := s.windowOffsets, jetLanesStart := s.jetLanes (·.saved), jetLanesEnd := s.jetLanes (·.lanes),
    coreLanes := s.coreLanes, grads := recs.map fun i => fitBytes 2080 (Tbl.get [] s.job.ownGrad i), wordsOk := true }

/-! ## Phases -/

/-- RESERVE begins (R294, R322): the descriptor is formed, and the entry built and sent to the partner. -/
def State.beginReserve (s : State) : State :=
  let d := s.formDesc
  let e := s.formEntry d
  (({ s with job := { s.job with desc := some d, outgoing := some e, acked := false } } : State).sendSecuring s.partnerRank (.entry e)).reserveCheck

/-- The binary64 code of a vote's key: 1 for the vote 0x01, 2 for 0x03 and 3 for 0x02 (R329, log 69). -/
def voteCode (v : Nat) : Nat := if v = 1 then 0x3FF0000000000000 else if v = 3 then 0x4000000000000000 else 0x4008000000000000

/-- The vote that this owner can form now (R329): by the digest its partner sent, or 0x03 for a partner declared failed before. -/
def State.ownVote (s : State) : Option Nat :=
  match s.job.fromPartner with
  | some d => some (if d = s.record.digest then 1 else 2)
  | none => if s.actives.contains s.partnerRank then none else some 3

/-- This owner forms its vote (R329) and opens the all-reduce of maximum with winner index over the keys; a member that is not HELD
starts no collective (R432). -/
def State.formVote (s : State) : State :=
  match s.ownVote, s.job.vote with
  | some v, none =>
    if !s.record.held then s
    else
      let s := { s with job := { s.job with vote := some v, cnt := if v = 2 then bump s.job.cnt 1 else s.job.cnt } }
      (s.setThr 9 true).openColl collVote 0 .max .binary64 1 [(0, .winners [(voteCode v, 0)])] []
  | _, _ => s

/-- COMMIT begins (R329): the held digest of V + 1 goes to the predecessor. While a failed rank is waited for, STALL_REMOTE is on (R340). -/
def State.beginCommit (s : State) : State :=
  let s := s.send (.packet s.predecessor "HELD_DIGEST" [s.record.globalStep.toNat, s.job.heldDigest.toNat])
  (if s.job.failed.isEmpty then s else s.setThr 9 true).formVote

/-- PHASE becomes `p`, 2 to 9 (R27, R40). -/
def State.enterPhase (s : State) (p : Nat) : State :=
  let s := { s with record := { s.record with phase := BitVec.ofNat 8 p } }
  if p = 6 then s.beginExchange else if p = 7 then s.endExchange.beginReserve else if p = 8 then s.beginUpdate else if p = 9 then s.beginCommit else s.passEmpty

/-- Is a securing pause due after the commit (R336)? -/
def State.pauseDue (s : State) : Bool :=
  s.hasTerrace && (decide (s.job.policy.k ≤ s.job.sincePause) || s.job.secureNow)

/-- The ranges that other ranks write into are opened (R319, R370). -/
def State.openRegions (s : State) : State :=
  match s.job.image with
  | some i =>
    let l := (s.openRanges i).map fun (e : Nat × Nat × Nat) => (s.addrOf e.1, e.2.1, e.2.2, s.record.epoch)
    { s with weir := { s.weir with opened := l } }
  | none => s

/-- Addresses of what the regions behind the ring hold, in one order whatever D is: the entries listed, the parity share with its header,
and the secured copy. -/
def State.movedWords (s : State) (i : Image) (entries : List ResEntry) : List Nat :=
  let run (n a : Nat) : List Nat := (List.range n).map (a + 32 * ·)
  let entry (e : ResEntry) : List Nat :=
    let slot := e.globalStep.toNat % (s.job.policy.d + 1)
    run (534848 / 32) (s.ringAddr i slot) ++ (i.shardRecords s.predecessor).flatMap fun x => run 65 (s.gradAddr i slot x)
  entries.flatMap entry ++
    if s.hasTerrace then
      (List.range ((s.shareBytes + 4096) / 32)).map (fun k => s.parityAddr i (32 * k)) ++
        (i.shardRecords s.coll.rank).flatMap fun x => run recordWords (s.securedAddr i x)
    else []

/-- D changes (R493): the ring's slots and the regions behind it keep their content at their new places (R319, log 66). -/
def State.relay (s : State) (i : Image) (p : Policy) : State :=
  let kept := (s.job.ring.map (·.2)).filter fun e =>
    decide (e.globalStep.toNat < s.record.globalStep.toNat) && decide (s.record.globalStep.toNat ≤ e.globalStep.toNat + p.d)
  let (ws, s) := State.readEach (s.movedWords i kept) s
  let s := { s with job := { s.job with policy := p, ring := kept.map fun e => (e.globalStep.toNat % (p.d + 1), e) } }
  (State.writeEach ((s.movedWords i kept).zip ws) s).openRegions

/-- Changes that wait for the next step take effect (R493). -/
def State.applyPolicy (s : State) : State :=
  match s.job.nextPolicy with
  | some q =>
    let p := { s.job.policy with d := q.d, windowPermille := q.windowPermille, windowMinMs := q.windowMinMs, drop := q.drop }
    let s := { s with job := { s.job with nextPolicy := none } }
    match s.job.image with
    | some i => if p.d = s.job.policy.d then { s with job := { s.job with policy := p } } else s.relay i p
    | none => { s with job := { s.job with policy := p } }
  | none => s

/-- Step GLOBAL_STEP starts from FORWARD. -/
def State.startStep (s : State) : State := s.applyPolicy.enterForward

/-- The next step begins. -/
def State.nextStep (s : State) : State :=
  let s := s.boundary
  ({ s with record := { s.record with globalStep := s.record.globalStep + 1 } } : State).startStep

/-- The step after a securing pause begins (R337), once the records that cannot be used have been copied (R340, log 68). -/
def State.afterPause (s : State) : State :=
  if s.job.repair.isEmpty then s.startStep
  else ({ s with record := { s.record with phase := 0 } } : State).applyPolicy.askRepair

/-- The sequencer writes the next PHASE (R40); after COMMIT the job halts where HALT applies (R493), or the next step begins unless a
pause is due. A pause that ended while the firmware restarted is left here (R39). -/
def execPhaseAdvance (s : State) : Out :=
  let p := s.record.phase.toNat
  .next (if !s.job.running || !s.fwServes || s.job.decided.isSome || s.job.abortDue.isSome then s
    else if decide (1 ≤ p) && decide (p ≤ 8) && s.record.done p then s.enterPhase (p + 1)
    else if p == 0x0A && s.record.done 10 then s.afterPause
    else if s.committed && s.job.haltAt == some s.record.globalStep then s.jobHalt 0
    else if s.committed && !s.pauseDue then s.nextStep
    else s)

/-! ## The record -/

/-- A data-plane write of the record (R28): discarded and counted where its step is not the one in progress. -/
def execDataPlaneRecordWrite (step : W64) (w : RecordWrite) (s : State) : Out :=
  let r := s.record
  .next { s with record :=
    if step ≠ r.globalStep then { r with stale := satInc r.stale }
    else match w with
      | .done p => { r with doneStep := step, doneMask := setBit r.doneMask p.val true }
      | .digest v => { r with doneStep := step, digest := v }
      | .result v => { r with result := v } }

/-! ## The mover's converters -/

/-- The firmware sets MOVER_CONV_EN only while PHASE reads IDLE; it may clear it at any time (R80). DESIGN CHOICE (log 71): the bit stays
as written when PHASE leaves IDLE, since the spec names no one who clears it; conversions are then refused (`State.convOk`). -/
def execMoverConvEnWrite (j : Fin 160) (v : Bool) (s : State) : Out :=
  .next (if v && s.record.phase != 0 then s
    else s.modJet j fun x => { x with core := { x.core with fmt := { x.core.fmt with moverConvEn := v } } })

end Sys2Proof.Machine
end

