-- ==== Sys2Proof/Machine/Sha256.lean ====
section
/-! DEFINITION. SHA-256, which the spec names for lane seeds, the digest key, image hashes and measurements (R190, R326, R343,
R579), after FIPS 180-4 (log 36). -/

namespace Sys2Proof.Machine

/-- The first 64 primes. -/
def shaPrimes : List Nat := (List.range 312).filter fun p => decide (2 ≤ p) && (List.range p).all fun d => decide (d < 2) || p % d != 0

/-- The largest `r` with `r^k ≤ n`, found from bit `b` down. -/
def rootFrom (k n : Nat) : Nat → Nat → Nat
  | 0, r => r
  | b + 1, r => rootFrom k n b (if (r + 2 ^ b) ^ k ≤ n then r + 2 ^ b else r)

/-- The first 32 fractional bits of the `k`-th root of a prime. -/
def rootFrac (k p : Nat) : W32 := BitVec.ofNat 32 (rootFrom k (p * 2 ^ (32 * k)) 37 0)

/-- The round constants: the cube roots of the 64 primes. -/
def shaK : List W32 := shaPrimes.map (rootFrac 3)

/-- The initial hash value: the square roots of the first eight primes. -/
def shaInit : List W32 := (shaPrimes.take 8).map (rootFrac 2)

/-- A 32-bit word from four bytes, the first highest. -/
def beWord (bs : List Byte) : W32 := BitVec.ofNat 32 ((bs.take 4).foldl (fun a b => 256 * a + b.toNat) 0)

/-- The four bytes of a word, the highest first. -/
def beBytes (x : W32) : List Byte := (leBytes 4 x.toNat).reverse

/-- The exclusive or of three right rotations. -/
def rot3 (i j k : Nat) (x : W32) : W32 := [i, j, k].foldl (fun v n => v ^^^ x.rotateRight n) 0

/-- The exclusive or of two right rotations and a right shift. -/
def rot2s (i j k : Nat) (x : W32) : W32 := [i, j].foldl (fun v n => v ^^^ x.rotateRight n) (x >>> k)

/-- The message schedule, newest word first, lengthened by `n` words. -/
def shaSchedule : Nat → List W32 → List W32
  | 0, w => w
  | n + 1, w =>
    let ago (i : Nat) : W32 := w.getD (i - 1) 0
    shaSchedule n ((rot2s 17 19 10 (ago 2) + ago 7 + rot2s 7 18 3 (ago 15) + ago 16) :: w)

/-- One round over the last four values of the two working sequences, newest first: the words a to d are one sequence, e to h the
other, and `kw` is the round constant with the schedule word. -/
def shaRound (st : List W32 × List W32) (kw : W32) : List W32 × List W32 :=
  let (u, v) := st
  let at' (l : List W32) (i : Nat) : W32 := l.getD i 0
  let pick := ((at' v 1 ^^^ at' v 2) &&& at' v 0) ^^^ at' v 2
  let most := (at' u 0 &&& at' u 1) ||| (at' u 2 &&& (at' u 0 ||| at' u 1))
  let t := at' v 3 + rot3 6 11 25 (at' v 0) + pick + kw
  ((t + rot3 2 13 22 (at' u 0) + most) :: u.take 3, (at' u 3 + t) :: v.take 3)

/-- The hash value after one block of 64 bytes. -/
def shaBlock (ks : List W32) (h : List W32) (block : List Byte) : List W32 :=
  let first := (List.range 16).map fun i => beWord (block.drop (4 * i))
  let ws := (shaSchedule 48 first.reverse).reverse
  let (u, v) := (List.zipWith (· + ·) ks ws).foldl shaRound (h.take 4, h.drop 4)
  List.zipWith (· + ·) h (u ++ v)

/-- The hash value after the blocks of a padded message, `n` at most. -/
def shaBlocks (ks : List W32) : Nat → List Byte → List W32 → List W32
  | 0, _, h => h
  | n + 1, bs, h => shaBlocks ks n (bs.drop 64) (shaBlock ks h (bs.take 64))

/-- SHA-256 of a byte string. -/
def sha256 (bs : List Byte) : List Byte :=
  let pad := bs ++ [0x80] ++ zeroBytes ((119 - bs.length % 64) % 64) ++ (leBytes 8 (8 * bs.length)).reverse
  (shaBlocks shaK (pad.length / 64) pad shaInit).flatMap beBytes

end Sys2Proof.Machine
end

