-- ==== Sys2Proof/Machine/Status.lean ====
section
/-! DEFINITION. Status registers and the byte strings that commands return of them: FH_SURV_STATUS, FH_MEMB_ID, FH_MEMB_STATE,
the capability table, the membership table and the evidence record (R209, R351, R425, R437, R438, R483, R577 to R580). -/

namespace Sys2Proof.Machine

/-! ## Registers -/

/-- FH_SURV_STATUS (R351). -/
def Job.survStatus (j : Job) : Nat :=
  j.gen.toNat * 2 ^ 16 + (if j.cover then 2 ^ 15 else 0) + (if j.noTerrace then 2 ^ 14 else 0) + j.pause.toNat * 2 ^ 12 +
    j.spare.toNat * 2 ^ 4 + j.last.toNat

/-- FH_MEMB_ID (R437). -/
def State.membId (s : State) : Nat :=
  s.record.epoch.toNat * 2 ^ 32 + ((s.coll.table.map (·.tieBreak)).getD 0) * 2 ^ 16 + s.coll.rank

/-- FH_MEMB_STATE (R438). -/
def State.membState (s : State) : Nat := s.actives.length * 2 ^ 16 + s.coll.state.toNat

/-! ## Byte strings -/

/-- The output of GET_CAPS (R483). -/
def State.capBytes (s : State) : List Byte :=
  s.capTable.flatMap fun e => leBytes 2 e.1 ++ leBytes 2 e.2.length ++ zeroBytes 4 ++ e.2.flatMap (leBytes 8)

/-- A membership table as R425 lays it out. -/
def MembTable.image (t : MembTable) : List Byte :=
  leBytes 4 t.epoch.toNat ++ leBytes 2 t.entries.length ++ leBytes 2 t.tieBreak ++ leBytes 4 (MembTable.actives t).length ++ zeroBytes 20 ++
    t.entries.flatMap fun e => leBytes 4 (e.1.toNat + e.2 * 2 ^ 16)

/-- Bits of the key-hash fuses that are programmed (R568). -/
def Firmware.keysBits (f : Firmware) : Nat :=
  (List.finRange 4).foldl (fun (a : Nat) k => if (f.keys.get k).isSome then a + 2 ^ k.val else a) 0

/-- The number of a slot (R565). -/
def slotNo (b : Bool) : Nat := if b then 1 else 0

/-- M_CONFIG (R579). -/
def State.measureConfig (s : State) : List Byte :=
  let p := s.job.policy
  sha256 (s.capBytes ++ [p.k, p.g, p.d, p.windowPermille, p.windowMinMs, p.drop].flatMap (leBytes 8) ++ leBytes 8 s.caps.hostWindow ++
    ((s.coll.table.map MembTable.image).getD (zeroBytes 32)))

/-- The private key of the identity engine (R575). -/
def Firmware.privateKey (f : Firmware) : List Byte := (f.keyPair.map Prod.fst).getD []

/-- Bytes 0x000 to 0x13F of an evidence record (R578): what its signature covers. -/
def State.evidence (s : State) (nonce : List Byte) : List Byte :=
  let f := s.fw
  [0x4A, 0x45, 0x56, 0x44] ++ leBytes 2 1 ++ zeroBytes 2 ++ fitBytes 32 nonce ++ fitBytes 12 (s.cxl.mirror.take 12) ++
    leBytes 1 (slotNo f.running) ++ leBytes 1 f.keyIndex ++ leBytes 1 f.rollback ++
    leBytes 1 (f.keysBits + 16 * f.revoked.toNat) ++ fitBytes 16 s.part.serial ++
    ((List.range 4).flatMap fun k => fitBytes 32 (f.measures.getD k [])) ++
    fitBytes 32 ((s.job.image.map (·.hash)).getD []) ++ s.measureConfig ++
    leBytes 8 (if s.job.running then s.record.globalStep.toNat else 2 ^ 64 - 1) ++
    leBytes 8 (if s.job.running then s.membId else 0) ++ leBytes 4 s.caps.gen.toNat ++ zeroBytes 36

end Sys2Proof.Machine
end

