-- ==== Sys2Proof/Machine/Boxes.lean ====
section
/-! DEFINITION. The mailboxes: the command table, the latch and its checks, servers, aborts and timeouts (R466 to R483). -/

namespace Sys2Proof.Machine

/-! ## The command table (R483) -/

/-- A row of the command table: server 0 front end, 1 control, 2 management; group 0 none, 1 P, 2 R, 3 W, 4 U; input lengths are
multiples of `unit` from `lenMin` to `lenMax`. -/
structure CmdRow where
  opcode : Nat
  server : Nat
  background : Bool
  group : Nat
  abortable : Bool := false
  lenMin : Nat := 0
  lenMax : Nat := 0
  unit : Nat := 1
  deriving DecidableEq, Repr

/-- The command set of CMDSET_VER 0x0001_0000. -/
def cmdTable : List CmdRow :=
  [⟨0x0001, 1, false, 0, false, 0, 0, 1⟩, ⟨0x0002, 1, false, 0, false, 0, 0, 1⟩, ⟨0x0003, 0, false, 0, false, 0, 0, 1⟩,
   ⟨0x0004, 1, false, 0, false, 0, 0, 1⟩, ⟨0x0010, 1, false, 1, false, 0, 0, 1⟩, ⟨0x0011, 1, true, 1, true, 0, 0, 1⟩,
   ⟨0x0012, 1, true, 1, true, 0, 0, 1⟩, ⟨0x0013, 1, true, 1, false, 32, 32, 1⟩, ⟨0x0014, 1, true, 1, false, 0, 0, 1⟩,
   ⟨0x0015, 1, false, 0, false, 0, 0, 1⟩, ⟨0x0016, 1, true, 0, false, 0, 0, 1⟩, ⟨0x0017, 1, true, 1, false, 32, 32, 1⟩,
   ⟨0x0020, 1, false, 1, false, 0, 0, 1⟩, ⟨0x0021, 1, false, 2, false, 0, 0, 1⟩, ⟨0x0022, 1, false, 2, false, 0, 0, 1⟩,
   ⟨0x0023, 1, false, 0, false, 0, 0, 1⟩] ++
  [⟨0x0030, 2, false, 0, false, 0, 0, 1⟩, ⟨0x0031, 2, false, 0, false, 0, 0, 1⟩, ⟨0x0032, 2, false, 0, false, 0, 0, 1⟩,
   ⟨0x0033, 2, true, 0, false, 0, 0, 1⟩, ⟨0x0034, 2, false, 0, false, 0, 0, 1⟩, ⟨0x0035, 1, true, 3, false, 0, 0, 1⟩,
   ⟨0x0036, 1, false, 3, false, 0, 0, 1⟩, ⟨0x0040, 1, false, 4, false, 0, 0, 1⟩, ⟨0x0041, 1, false, 4, false, 64, 65536, 64⟩,
   ⟨0x0042, 1, true, 4, false, 0, 0, 1⟩, ⟨0x0043, 1, true, 0, false, 32, 32, 1⟩]

/-- The row of an opcode. -/
def cmdRow (op : Nat) : Option CmdRow := cmdTable.find? fun r => r.opcode == op

/-- Argument `k` as latched. -/
def Mailbox.arg (b : Mailbox) (k : Nat) : Nat := (b.lArgs.toList.getD k 0).toNat

/-- The row of the command latched last. -/
def Mailbox.row (b : Mailbox) : Option CmdRow := cmdRow b.lOpcode.toNat

/-! ## Checks by a server (R476) -/

/-- Arguments a command does not list are reserved and must be zero: BAD_ARG with the argument. -/
def unlisted (b : Mailbox) (used : List Nat) : List (Bool × Nat × Nat) :=
  (List.range 8).map fun k => (!used.contains k && b.arg k != 0, 3, k)

/-- The first failing check: status and DETAIL. -/
def firstOf (l : List (Bool × Nat × Nat)) : Option (Nat × Nat) := (l.find? (·.1)).map (·.2)

/-- Is STAGE_OPEN of WR_ROUTE_STATUS set (R401)? -/
def Weir.stageOpen (w : Weir) : Bool :=
  (List.range 4).all fun e => !(w.live.getLsbD e && e % 2 == (w.inj.toNat + 1) % 2)

/-- IN = OUT on every channel of an epoch at this module (R385, R386). -/
def Weir.drained (w : Weir) (e : Nat) : Bool := (List.range 8).all fun v => w.epIn.get 0 (8 * e + v) == w.epOut.get 0 (8 * e + v)

/-- The bank that staging writes (R384). -/
def Weir.idle (w : Weir) : RouteBank := w.bank (w.inj + 1)

/-- The geometry of ARG0 of ROUTE_STAGE put into a bank (R489). -/
def stageGeometry (b : RouteBank) (a : Nat) : RouteBank :=
  let f (o : Nat) : Nat := a / 2 ^ o % 32
  { b with nx := f 0 + 1, ny := f 8 + 1, nz := f 16 + 1, x := f 32, y := f 40, z := f 48 }

/-- Reserved bits of ARG0 of ROUTE_STAGE. -/
def stageReserved (a : Nat) : Bool :=
  a / 32 % 8 != 0 || a / 2 ^ 13 % 8 != 0 || a / 2 ^ 21 % 2 ^ 11 != 0 || a / 2 ^ 37 % 8 != 0 || a / 2 ^ 45 % 8 != 0 || a / 2 ^ 53 != 0

/-- The slot running is `b`, and a slot's content. -/
def Firmware.slot (f : Firmware) (b : Bool) : Option SlotImage := if b then f.slotB else f.slotA

/-- IMAGE_BYTES of the update session (R571): the slot's own where it was opened as it stands. -/
def Firmware.sessionBytes (f : Firmware) : Nat :=
  match f.session with
  | some (b, 0, _) => ((f.slot b).map (·.bytes)).getD 0
  | some (_, n, _) => n
  | none => 0

/-- Granules that a chunk covers. -/
def chunkGranules (offset len : Nat) : List Nat := (List.range (len / 64)).map (offset / 64 + ·)

/-- The limits in force in the order of ARG0 to ARG4 (R490). -/
def Sluice.limits (x : Sluice) : List Nat := [x.sustainedW, x.peakW, x.throttleC, x.warnMv, x.resetMv]

/-- The limits that SET_POWER_LIMITS asks for: the fields selected, with the others as they stand. -/
def State.newLimits (s : State) (b : Mailbox) : List Nat :=
  (List.range 5).map fun k => if (b.arg 7).testBit k then b.arg k else s.sluice.limits.getD k 0

/-- The policy that SET_POLICY asks for: the fields selected, with the others as they stand. -/
def pickPolicy (sel : Nat) (n o : Policy) : Policy :=
  { k := if sel.testBit 0 then n.k else o.k, g := if sel.testBit 1 then n.g else o.g, d := if sel.testBit 2 then n.d else o.d,
    windowPermille := if sel.testBit 3 then n.windowPermille else o.windowPermille,
    windowMinMs := if sel.testBit 4 then n.windowMinMs else o.windowMinMs, drop := if sel.testBit 5 then n.drop else o.drop }

/-- The policy fields in a mailbox's arguments. -/
def Mailbox.policy (b : Mailbox) : Policy := ⟨b.arg 0, b.arg 1, b.arg 2, b.arg 3, b.arg 4, b.arg 5⟩

/-- Does the loaded program pass R231 in both slow halves with a policy's D and G (R228)? -/
def State.policyFits (s : State) (p : Policy) : Bool :=
  match s.job.image with
  | none => true
  | some i => (List.range 2).all fun r =>
      decide (i.slowNeed s.coll.rank p.d p.g s.caps.hostWindow r ≤ s.capOf (.half ⟨r % 2, by omega⟩))

/-- Does a value lie outside a range? -/
def outside (v lo hi : Nat) : Bool := decide (v < lo) || decide (hi < v)

/-- The checks of R476 on a command's arguments and the module's state. -/
def State.cmdCheck (s : State) (b : Mailbox) : Option (Nat × Nat) :=
  let a := b.arg
  let w : Nat × Nat := (7, s.wrongDetail)
  let range (bad : Bool) (k : Nat) : Bool × Nat × Nat := (bad, 4, k)
  let badArg (bad : Bool) (k : Nat) : Bool × Nat × Nat := (bad, 3, k)
  let wrong (bad : Bool) : Bool × Nat × Nat := (bad, w)
  let phase := s.record.phase.toNat
  firstOf (match b.lOpcode.toNat with
    | 0x0003 => unlisted b [0, 1, 2] ++
        [range (outside (a 1) 1 1023) 1, badArg (decide (16 ≤ a 2) || decide (4 < a 2 / 2 % 8)) 2]
    | 0x0004 => unlisted b [0] ++ [range (decide (15 < a 0)) 0]
    | 0x0010 => unlisted b [0] ++
        [range (decide (2 ^ 40 < a 0) || a 0 % 2 ^ 28 != 0) 0,
         wrong (s.job.image.isSome || s.cxl.committed ||
           (List.range 2).any fun r => decide (s.capOf (.half ⟨r % 2, by omega⟩) < a 0 / 2))]
    | 0x0011 | 0x0012 => unlisted b [0, 1, 2] ++
        [badArg (decide (1 < a 0)) 0, range (a 1 % 4096 != 0) 1, range (outside (a 2) 1 (2 ^ 32)) 2,
         wrong (b.lOpcode == 0x0011 && s.job.image.isNone && phase != 0)]
    | 0x0013 => unlisted b [0, 1, 2, 3] ++
        [range (a 0 == 0) 0, badArg (decide (3 < a 1)) 1, range (a 2 % 4096 != 0) 2,
         range (a 3 != 0 && outside (a 3) 1000 600000) 3,
         wrong (s.job.image.isNone || s.coll.table.isNone || s.coll.state != 1 || s.job.running || phase != 0)]
    | 0x0015 => unlisted b [0, 1, 2, 3, 4, 5, 7] ++
        [badArg (decide (64 ≤ a 7)) 7] ++
        ([(0, 1, 65535), (1, 4, 16), (2, 0, 8), (3, 10, 500), (4, 2, 1000)].map fun (k, lo, hi) =>
          range ((a 7).testBit k && outside (a k) lo hi) k) ++
        [badArg ((a 7).testBit 5 && decide (1 < a 5)) 5, wrong (!s.job.running),
         range (!s.policyFits (pickPolicy (a 7) b.policy s.job.policy)) (if (a 7).testBit 2 then 2 else 1)]
    | 0x0016 => unlisted b [] ++ [wrong (!s.job.running || !s.hasTerrace)]
    | 0x0017 => unlisted b [0, 1] ++ [range (decide (2 ^ 15 ≤ a 0)) 0, range (decide (2 ^ 32 ≤ a 1)) 1]
    | 0x0020 => unlisted b [0, 1] ++ [range (a 1 % 4 != 0 || outside (a 1) 0x20 (0x20 + 4 * 32768)) 1]
    | 0x0021 => unlisted b [0, 1, 2, 3, 4] ++
        [badArg (stageReserved (a 0)) 0, range (decide (32767 < a 1)) 1, range (decide (32768 - a 1 < a 2)) 2,
         badArg (decide (1 < a 4)) 4,
         wrong (!s.weir.stageOpen ||
           (s.job.running && BitVec.ofNat 15 (stageGeometry s.weir.idle (a 0)).addr != s.weir.addr))]
    | 0x0022 => unlisted b [0, 1] ++
        [badArg (decide (1 < a 0)) 0, range (decide (3 < a 1)) 1,
         wrong (if a 0 = 0 then !(s.weir.staged && s.weir.stageOpen) ||
             (s.job.running && BitVec.ofNat 15 s.weir.idle.addr != s.weir.addr)
           else !(s.weir.live.getLsbD (a 1) && a 1 != s.weir.inj.toNat && s.weir.drained (a 1)))]
    | 0x0023 => unlisted b [0, 1] ++ [range (outside (a 1) 1 41) 1]
    | 0x0030 =>
        let n := s.newLimits b
        let v (k : Nat) : Nat := n.getD k 0
        let sel (k : Nat) : Bool := (a 7).testBit k
        unlisted b [0, 1, 2, 3, 4, 7] ++
        [badArg (decide (32 ≤ a 7)) 7, range (sel 0 && outside (v 0) 1000 4200) 0, range (sel 1 && outside (v 1) (v 0) 5200) 1,
         range (sel 2 && outside (v 2) 85 105) 2, range (sel 3 && outside (v 3) 38000 46000) 3,
         range (sel 4 && outside (v 4) 36000 42000) 4, range (sel 0 && decide (v 1 < v 0)) 0,
         range ((sel 3 || sel 4) && decide (v 3 ≤ v 4)) (if sel 4 then 4 else 3)]
    | 0x0034 => unlisted b [0, 1] ++ [badArg (decide (1 < a 1)) 1]
    | 0x0035 => unlisted b [0] ++
        [badArg (decide (3 < a 0)) 0, wrong ((a 0 != 0 && phase != 0) || (decide (2 ≤ a 0) && s.job.image.isSome))]
    | 0x0036 => unlisted b [0] ++ [badArg (decide (3 < a 0)) 0, wrong (s.job.running && !(a 0).testBit 1)]
    | 0x0040 => unlisted b [0, 1] ++
        [range (a 0 != 0 && (outside (a 0) 12288 67108864 || a 0 % 64 != 0)) 0, badArg (decide (1 < a 1)) 1,
         wrong ((a 1 == 1) == s.fw.running)]
    | 0x0041 => unlisted b [0] ++
        [wrong s.fw.session.isNone, range (a 0 % 64 != 0 || decide (s.fw.sessionBytes < a 0 + b.lLen)) 0,
         range ((chunkGranules (a 0) b.lLen).any fun g => (s.fw.session.map (·.2.2)).any (·.contains g)) 0]
    | 0x0042 => unlisted b [] ++ [wrong s.fw.session.isNone]
    | _ => unlisted b [])

/-! ## The latch (R474, R475) -/

/-- The other mailboxes whose command is outstanding, by number. -/
def State.others (s : State) (n : Fin 8) (f : Mailbox → Bool) : Option Nat :=
  ((List.finRange 8).find? fun m => m != n && (s.boxes.get m).outstanding && f (s.boxes.get m)).map (·.val)

/-- The checks of R475 on the command a mailbox has latched: status and DETAIL of the first failure. -/
def State.latchCheck (s : State) (n : Fin 8) : Option (Nat × Nat) :=
  let b := s.boxes.get n
  match b.row with
  | none => some (1, 0)
  | some r =>
    if b.lLen < r.lenMin ∨ r.lenMax < b.lLen ∨ b.lLen % r.unit ≠ 0 then some (2, r.lenMax)
    else if b.ms ≠ 0 ∧ (b.ms.toNat < 100 ∨ 60000 < b.ms.toNat) then some (4, 8)
    else match s.others n fun c => c.stTag == b.stTag with
      | some m => some (5, m)
      | none =>
        match (if r.group = 0 then none else s.others n fun c => c.row.any fun q => q.group == r.group) with
        | some m => some (6, m)
        | none => none

/-- A write of 1 to GO (R474, R475). -/
def State.go (s : State) (n : Fin 8) : State :=
  if (s.boxes.get n).outstanding || !s.keeper.rails then s
  else
    let s := s.modBox n fun b =>
      { b with
        lOpcode := b.opcode, lLen := b.len, lArgs := b.args, stTag := b.tag,
        server := BitVec.ofNat 2 (((cmdRow b.opcode.toNat).map (·.server)).getD 0), status := 0, detail := 0, outLen := 0,
        permille := 0, heartbeat := 0, abort := false, state := 1 }
    match s.latchCheck n with
    | some (st, d) => s.complete n st d []
    | none => s

/-- GO (R474, R475). -/
def execMailboxGo (n : Fin 8) (s : State) : Out := .next (s.go n)

/-! ## Servers (R476 to R480) -/

/-- Does the server of a mailbox's command serve? The control plane does while its firmware does (R39, R481), and not after a start-up
that ended with DATA_READY clear (R542). -/
def State.serverUp (s : State) (b : Mailbox) : Bool :=
  if b.server = 1 then s.fwServes && (s.keeper.step != 11 || s.keeper.dataReady) else true

/-- A server takes a pending command (R476). -/
def execServerTake (n : Fin 8) (s : State) : Out :=
  let b := s.boxes.get n
  .next (if b.state ≠ 1 || !s.serverUp b then s
    else
      let s := s.modBox n fun b =>
        { b with state := 2, taken := s.keeper.uptime,
                 snapshot := if b.lOpcode = 0x0043 then s.evidence (b.buf.take 32) else b.snapshot }
      match s.cmdCheck b with
      | some (st, d) => s.complete n st d []
      | none => s)

/-- The service timeout of a pending command expires (R479). -/
def execServiceTimeout (n : Fin 8) (s : State) : Out :=
  .next (if (s.boxes.get n).state = 1 then s.complete n 8 0 [] else s)

/-- A write of 1 to ABORT (R480). -/
def State.abortBox (s : State) (n : Fin 8) : State :=
  let b := s.boxes.get n
  if b.state = 1 then s.complete n 9 0 []
  else if b.state = 3 && (b.row.any (·.abortable)) && s.serverUp b then
    ({ s with caps := { s.caps with loadGen := none } } : State).complete n 9 0 []
  else s

/-- ABORT (R480). -/
def execMailboxAbort (n : Fin 8) (s : State) : Out := .next (s.abortBox n)

/-- The loader watches CAP_GEN from the start of stage 2 (R233): a first change repeats the stages against the new table. -/
def State.watchCaps (s : State) : State :=
  match s.caps.loadGen with
  | none => { s with caps := { s.caps with loadGen := some (s.caps.gen, false) } }
  | some (g, false) => if g = s.caps.gen then s else { s with caps := { s.caps with loadGen := some (s.caps.gen, true) } }
  | some (_, true) => s

/-- A background command's server moves it to BACKGROUND and updates its progress (R477). -/
def execProgressUpdate (n : Fin 8) (permille : Nat) (s : State) : Out :=
  let b := s.boxes.get n
  .next (if !(b.state == 2 || b.state == 3) || !(b.row.any (·.background)) || !s.serverUp b then s
    else
      let s := s.modBox n fun b => { b with state := 3, permille := min 1000 permille, heartbeat := s.keeper.uptime }
      if b.lOpcode = 0x0011 ∨ b.lOpcode = 0x0012 then s.watchCaps else s)

/-- Is the server at work on a command with an opcode? -/
def State.inHand (s : State) (n : Fin 8) (op : Nat) : Bool :=
  let b := s.boxes.get n
  (b.state == 2 || b.state == 3) && b.lOpcode.toNat == op && s.serverUp b

/-- A server's work on a command: `f` is its effect once the checks of R476 pass; a command that fails them changes nothing. -/
def State.serve (s : State) (n : Fin 8) (op : Nat) (f : State → Mailbox → State) : State :=
  if s.inHand n op then
    match s.cmdCheck (s.boxes.get n) with
    | some (st, d) => s.complete n st d []
    | none => f s (s.boxes.get n)
  else s

end Sys2Proof.Machine
end

