-- ==== Sys2Proof/Machine/Container.lean ====
section
/-! DEFINITION. Reading a program image from its bytes: the header, the section directory and the sections whose layout the spec gives
(R206 to R208, R211 to R213, R220, R221, R223, R226). -/

namespace Sys2Proof

open Machine (sha256 parseSpout)

/-- The `n`-byte little-endian number at offset `o` (R10, R206). -/
def field (b : List Byte) (o n : Nat) : Nat := leNat ((b.drop o).take n)

/-- Entries of `n` bytes from a byte string. -/
def entries (n : Nat) (b : List Byte) : List (List Byte) := (List.range (b.length / n)).map fun k => (b.drop (n * k)).take n

/-- A directory entry (R208). -/
def parseSection (b : List Byte) : Section :=
  { type := field b 0 2, flags := BitVec.ofNat 16 (field b 2 2), offset := field b 4 4, length := field b 8 8 }

/-- The directory of an image (R207, R208). -/
def ImageFile.directory (f : ImageFile) : List Section :=
  (List.range (field f.bytes 0x10 2)).map fun k => parseSection ((f.bytes.drop (field f.bytes 0x14 4 + 16 * k)).take 16)

/-- The bytes of the section of a type; none of an absent section. -/
def ImageFile.sectionBytes (f : ImageFile) (type : Nat) : List Byte :=
  match f.directory.find? fun s => s.type == type with
  | some s => (f.bytes.drop s.offset).take s.length
  | none => []

/-- Is there a section of a type? -/
def ImageFile.has (f : ImageFile) (type : Nat) : Bool := f.directory.any fun s => s.type == type

/-- A capability requirement (R211). -/
def parseReq (b : List Byte) : CapReq :=
  { id := field b 0 2, op := field b 2 1, byte3 := field b 3 1, index := BitVec.ofNat 32 (field b 4 4), value := BitVec.ofNat 64 (field b 8 8) }

/-- Bits of a mask, as the numbers that it lists. -/
def maskList (n mask : Nat) : List Nat := (List.range n).filter mask.testBit

/-- A tensor declaration (R213). -/
def parseTensor (b : List Byte) : TensorDecl :=
  { id := field b 0 4, format := BitVec.ofNat 8 (field b 4 1), rank := field b 5 1, raxis := field b 6 1, tier := field b 7 1,
    lifetime := field b 8 1, place := field b 9 1, group := field b 0xA 2, scale := BitVec.ofNat 32 (field b 0xC 4),
    shape := (List.range 4).map fun k => field b (0x10 + 8 * k) 8, jets := maskList 160 (field b 0x30 20), reserved := field b 0x44 28 }

/-- A parameter group (R226). -/
def parseGroup (b : List Byte) : ParamGroup :=
  let w (k : Nat) : W32 := BitVec.ofNat 32 (field b (4 * k) 4)
  { lr := w 0, beta1 := w 1, beta2 := w 2, eps := w 3, wd := w 4, kernel := field b 0x14 2, frozen := (field b 0x16 2).testBit 0,
    tInit := w 6, rest := field b 0x16 2 / 2 + 2 ^ 15 * field b 0x1C 4 }

/-- A phase tag (R223). -/
def parseTag (b : List Byte) : W16 × Nat := (BitVec.ofNat 16 (field b 0 2), field b 2 1)

/-- The image that a file holds (R206 to R228). The parameter group section begins with a 4-byte count (log 66). -/
def ImageFile.parse (f : ImageFile) : Image :=
  let b := f.bytes
  let kern := f.sectionBytes 4
  let n := field kern 8 2
  let grp := f.sectionBytes 9
  let count := field grp 0 4
  let hash := (b.drop 0x20).take 32
  { length := b.length, magic := BitVec.ofNat 32 (field b 0 4), formatVer := field b 4 2, headerBytes := field b 6 2,
    imageBytes := field b 8 8, dirOffset := field b 0x14 4, buildId := BitVec.ofNat 64 (field b 0x18 8), name := (b.drop 0x40).take 32,
    hash := hash, hashOk := sha256 (b.take 0x20 ++ zeroBytes 32 ++ b.drop 0x40) == hash,
    sections := f.directory, reqs := (entries 16 (f.sectionBytes 1)).map parseReq,
    tensors := (entries 96 (f.sectionBytes 2)).map parseTensor, nodes := if f.has 3 then f.nodes else [],
    vectorBits := field kern 0 4, handlerIndex := field kern 0xA 2,
    kernels := (List.range n).map fun k => (field kern (0x20 + 8 * k) 4, field kern (0x24 + 8 * k) 4),
    code := (kern.drop (0x20 + 8 * n)).take (field kern 4 4), scratch := f.scratch,
    tags := (entries 4 (f.sectionBytes 5)).map parseTag, spouts := (entries 64 (f.sectionBytes 6)).map parseSpout,
    recompute := if f.has 7 then f.recompute else [], windows := if f.has 8 then f.windows else [],
    groups := (entries 32 ((grp.drop 4).take (32 * count))).map parseGroup,
    shards := (entries 8 (grp.drop (4 + 32 * count))).map (field · 0 8), policy := f.policy }

end Sys2Proof
end

