-- ==== Sys2Proof/Machine/Survival.lean ====
section
/-! DEFINITION. Reservoir entries, the commit, reverts, securing pauses and the filling of a spare (R318 to R350). -/

namespace Sys2Proof.Machine

/-! ## Reserve (R322 to R324) -/

/-- Why an entry is discarded, by its place in the list of R323 (log 33); none where it is accepted. -/
def State.entryFault (s : State) (e : ResEntry) : Option Nat :=
  if e.globalStep ≠ s.record.globalStep then some 1
  else if e.sourceRank ≠ s.predecessor then some 2
  else if e.epoch ≠ s.record.epoch then some 3
  else if s.job.image.any (fun i => i.hash != e.imageHash) then some 4
  else if s.job.image.any (fun i => (i.shardRecords s.predecessor).length != e.gradRecords) then some 5
  else if !e.wordsOk then some 6
  else none

/-- The predecessor's entry arrives (R322, R323): it is written to the ring and acknowledged, or discarded. -/
def execReserveEntryReceive (e : ResEntry) (s : State) : Out :=
  .next (if !s.job.running || s.job.image.isNone then s
    else match s.entryFault e with
      | some r =>
        ({ s with job := { s.job with cnt := bump s.job.cnt 5 } } : State).event 0x0042 2 srcFw [e.sourceRank, r]
      | none =>
        let s := (s.job.image.map fun i => s.keepEntry i e).getD s
        (s.send (.packet e.sourceRank "RESERVE_ACK" [e.globalStep.toNat, e.gradRecords])).reserveCheck)

/-- RESERVE_ACK for this module's entry (R322, R324). -/
def execReserveAckReceive (src : Nat) (step : W64) (records : Nat) (s : State) : Out :=
  let own := (s.job.image.map fun i => (i.shardRecords s.coll.rank).length).getD 0
  .next (if s.job.running && s.job.outgoing.isSome && src == s.partnerRank && step == s.record.globalStep && records == own then
      ({ s with job := { s.job with acked := true } } : State).reserveCheck
    else s)

/-! ## Commit (R329 to R332) -/

/-- The partner's digest of this module's shard arrives (R329). -/
def execHeldDigestReceive (src : Nat) (step : W64) (digest : W128) (s : State) : Out :=
  .next (if s.job.running && src == s.partnerRank && step == s.record.globalStep then
      let s := { s with job := { s.job with fromPartner := some digest } }
      if s.record.phase == 9 then s.formVote else s
    else s)

/-- The digests of a commit, lanes kept, and the counts of steps (R325, R328, R330, R336). -/
def State.commitStep (s : State) : State :=
  let absent := ((s.job.desc.map (·.absent)).getD []).contains s.coll.rank
  let lanes := match s.predEntry with
    | some e => some (e.jetLanesEnd, e.coreLanes)
    | none => s.job.keptLanes
  let s := { s with
    record := { s.record with slot := !s.record.slot }
    job := { s.job with
      digestV := s.record.digest, heldDigestV := s.job.heldDigest, keptLanes := lanes, outgoing := none,
      carried := if absent then s.job.leftOut else none, leftOut := none, mismatch := none, faulted := false, joined := [], last := 1,
      sincePause := s.job.sincePause + 1, stepsRun := s.job.stepsRun + 1 } }
  (s.keepExchange.setThr 9 false).raise icStep

/-- DIGEST_MISMATCH (R332): the winner's module holds both digests of the pair, and records both ranks with them, packed as log 34
says. -/
def State.recordMismatch (s : State) (winner : Nat) : State :=
  if s.coll.rank ≠ winner then s
  else
    let a := s.record.digest.toNat
    let b := (s.job.fromPartner.getD 0).toNat
    s.event 0x0041 3 srcFw [winner + 65536 * nextRank s.ranks winner, a % 2 ^ 64, b % 2 ^ 64, a / 2 ^ 96 + b / 2 ^ 96 * 2 ^ 32]

/-- The result of the vote that is held here, as its key and winner (R329, R410). -/
def State.voteHeld (s : State) : Option (Nat × Nat) :=
  let res : Tbl ChunkData := match s.findColl collVote 0 with
    | some x => x.results
    | none => if s.coll.finished.contains (16 * collVote) then Tbl.get [] s.coll.outputs (16 * collVote) else []
  match Tbl.get (.elems []) res 0 with
  | .winners ((c, w) :: _) =>
    if c = voteCode 1 then some (1, w / 2 ^ 32) else if c = voteCode 3 then some (2, w / 2 ^ 32)
    else if c = voteCode 2 then some (3, w / 2 ^ 32) else none
  | _ => none

/-- The sequencer acts on the vote's result (R330 to R332): the commit, the wait for a failed rank, or the revert with one re-run. -/
def State.actVote (s : State) : State :=
  match s.job.decided with
  | none => s
  | some (key, winner) =>
    let s := { s with job := { s.job with decided := none } }
    if key = 1 then s.commitStep
    else if key = 2 then s
    else if s.job.mismatch = some winner then (s.recordMismatch winner).jobHalt 2
    else ({ s with job := { s.job with mismatch := some winner } } : State).revert 1

/-- The vote's result arrives (R329): COMMIT_RESULT and DONE_MASK bit 9 are set, and the sequencer acts on it, after a restart of the
firmware that is in progress (R39). -/
def execVoteResult (key winner : Nat) (s : State) : Out :=
  .next (if !s.job.running || s.record.phase != 9 || s.record.done 9 || s.voteHeld != some (key, winner) then s
    else
      let r : Byte := if key = 1 then 1 else if key = 2 then 3 else 2
      let s := ({ s with record := { s.record with result := r }, job := { s.job with decided := some (key, winner) } } : State).setDone 9
      if s.fwServes then s.actVote else s)

/-- A STEP_ABORT of the step in progress arrives (R331): the member reverts, or halts where it comes from a spare in the step in which
that took its rank (R340). While the firmware restarts it waits (R39). -/
def execStepAbort (src : RankStep) (s : State) : Out :=
  let n := if s.job.joined.contains src.rank then 4 else 2
  .next (if !s.inStep || src.step != s.record.globalStep then s
    else if s.fwServes then s.takeAbort n
    else { s with job := { s.job with abortDue := some n } })

/-- What waited for the firmware goes on once it serves again (R39). -/
def State.resumeStep (s : State) : State :=
  match s.job.abortDue with
  | some n => if s.inStep then s.takeAbort n else { s with job := { s.job with abortDue := none } }
  | none => s.actVote

/-! ## The secured image (R334, R337) -/

/-- A secured image of this module's shard as words: its records in job parameter order as `take` reads them, and a t_g table (R334). -/
def State.imageOf (s : State) (i : Image) (take : State → Nat → List (Option (List Byte)) × State) (t : List W32) :
    List (Option (List Byte)) × State :=
  let r := (i.shardRecords s.coll.rank).foldl (fun (a : List (Option (List Byte)) × State) x =>
    let (ws, s) := take a.2 x
    (a.1 ++ ws, s)) ([], s)
  (r.1 ++ toWords 512 (tTableBytes t), r.2)

/-- The secured image of committed version V. -/
def State.liveImage (s : State) (i : Image) : List (Option (List Byte)) × State :=
  s.imageOf i (fun s x => s.takeRecord i false x) (s.job.own.t s.record.slot)

/-- The secured image of the newest generation: the secured copy, and during a pause committed V in its place (R337). -/
def State.copyImage (s : State) (i : Image) : List (Option (List Byte)) × State :=
  if s.record.phase = 0x0A then s.liveImage i
  else s.imageOf i (fun s x => s.readWords recordWords (s.securedAddr i x)) s.job.securedT

/-- The digest of a secured image (R327): its records, and the t_g table, the last 512 words. -/
def imageDigest (key : W128) (ws : List (Option (List Byte))) : W128 :=
  let recs := (ws.length - 512) / recordWords
  (List.range recs).foldl (fun (a : W128) k => a + recordTerm key (plainBytes ((ws.drop (recordWords * k)).take recordWords)))
    (recordTerm key (plainBytes (ws.drop (recordWords * recs))))

/-- Word `k` of a t_g table replaced: eight counts (R290). -/
def putCounts (t : List W32) (k : Nat) (bs : List Byte) : List W32 :=
  let new (g : Nat) : W32 := BitVec.ofNat 32 (leNat ((bs.drop (4 * (g % 8))).take 4))
  (List.range 4096).map fun g => if g / 8 = k then new g else t.getD g 0

/-- Write words of the secured image from word `w` on into the secured copy: the last 512 are the t_g table (R334). -/
def State.putSecured (s : State) (i : Image) : Nat → List (Option (List Byte)) → State
  | _, [] => s
  | w, x :: t =>
    let recs := i.shardRecords s.coll.rank
    let s := match recs[w / recordWords]? with
      | some idx => State.writeWords [x] s (s.securedAddr i idx + 32 * (w % recordWords))
      | none =>
        { s with job := { s.job with securedT := putCounts s.job.securedT (w - recordWords * recs.length) (x.getD (zeroBytes 32)) } }
    State.putSecured s i (w + 1) t

/-- The stated length of the next pause in µs (R338). -/
def State.statedLength (s : State) : Nat :=
  match s.job.image with
  | some i => ((List.range s.ranks).map i.stateBytes).foldl max 0 / 800000 + 20000
  | none => 0

/-- Words of a stripe piece (R337). -/
def pieceWords : Nat := 2 ^ 15

/-- Stripe pieces of an image for group `j`: piece k of every stripe before piece k + 1 of any, as stripe, word in the stripe, and words
(R337); an image shorter than L is filled with zero words (R334). -/
def State.pieces (s : State) (j : Nat) (img : List (Option (List Byte))) : List (Nat × Nat × List (Option (List Byte))) :=
  let g := s.job.policy.g
  let len := s.groupLen j / max 1 g / 32
  let img := img ++ List.replicate (s.groupLen j / 32 - img.length) (some (zeroBytes 32))
  (List.range ((len + pieceWords - 1) / pieceWords)).flatMap fun k => (List.range g).map fun i =>
    let o := k * pieceWords
    (i, o, (img.drop (i * len + o)).take (min pieceWords (len - o)))

/-- Send every stripe of an image to the holders of the own group, with the digest of its version (R337). -/
def State.sendStripes (s : State) (img : List (Option (List Byte))) (digest : W128) : State :=
  let j := s.groupOf s.coll.rank
  (s.pieces j img).foldl (fun s p =>
    let holder := s.rankAt (s.holderGroup j) p.1
    s.sendSecuring holder (.stripe holder (32 * p.2.1) p.2.2 digest)) s

/-- K and G that wait for the next pause take effect (R336): a new G moves the parity share and the secured copy, which the pause writes
anew. -/
def State.applyKG (s : State) : State :=
  match s.job.nextKG with
  | some (k, g) =>
    ({ s with job := { s.job with nextKG := none, policy := { s.job.policy with k := k, g := g } } } : State).openRegions
  | none => s

/-- NO_TERRACE is recorded for a job without terrace cover (R333). -/
def State.noTerraceCheck (s : State) : State :=
  if s.hasTerrace then { s with job := { s.job with noTerrace := false } }
  else ({ s with job := { s.job with noTerrace := true, cover := false, nextSecure := BitVec.allOnes 64 } } : State).event 0x0044 1 srcFw
    [s.ranks, s.job.policy.g]

/-- Stage 1 of a pause (R337): the share is cleared, committed V read once and its stripes sent, and the secured copy written. A job
that a new G leaves without terrace cover runs no pause (R333, log 70). -/
def State.beginPause (s : State) : State :=
  let s := s.applyKG
  match s.job.image with
  | none => s
  | some i =>
    let boxes := s.job.secureBoxes
    if !s.hasTerrace then
      let s := ({ s with job := { s.job with secureBoxes := [], secureNow := false } } : State).noTerraceCheck
      (s.completeAll boxes 7 s.wrongDetail).startStep
    else
      let s := { s with
        record := { s.record with phase := 0x0A, doneStep := s.record.globalStep, doneMask := 0, result := 0 }
        job := { s.job with
          pause := 1, pauseStart := s.keeper.uptime, statedUs := BitVec.ofNat 32 s.statedLength, secureNow := false,
          completeFrom := [], copyWritten := false, cover := false,
          parity := { s.job.parity with complete := false, digests := [], lastFrom := [] } } }
      let (img, s) := ((s.clearShare i).putHeader i).liveImage i
      let s := (s.sendStripes img s.job.digestV).putSecured i 0 img
      { s with job := { s.job with copyWritten := true } }

/-- The pause after a commit begins (R336, R337); GLOBAL_STEP names the next step. -/
def execSecurePauseStart (s : State) : Out :=
  .next (if s.job.running && s.fwServes && s.committed && s.job.decided.isNone && s.pauseDue && s.job.haltAt != some s.record.globalStep then
      let s := s.boundary
      ({ s with record := { s.record with globalStep := s.record.globalStep + 1 } } : State).beginPause
    else s)

/-- Is this module a holder in the pause (R333)? -/
def State.inPause (s : State) : Bool := s.job.running && s.record.phase == 0x0A

/-- The generation after another (R339). -/
def nextGen (g : W16) : W16 := if g = 0xFFFF then 1 else g + 1

/-- Is a generation newer than another: they compare as serial numbers within a half-range window (R339). -/
def genNewer (x y : W16) : Bool := let d := (x - y).toNat; decide (1 ≤ d) && decide (d < 2 ^ 15)

/-- Bytes as the words that hold them. -/
def allWords (bs : List Byte) : List (Option (List Byte)) := toWords ((bs.length + 31) / 32) bs

/-- A piece of a stripe is folded into the share in a pause (R337): after the last of every member the header is written and COMPLETE
reported. -/
def State.foldPiece (s : State) (i : Image) (member offset : Nat) (data : List Byte) (digest : W128) (last : Bool) : State :=
  let g := s.job.policy.g
  let group := s.heldGroup s.coll.rank
  let s := s.foldShare i offset (allWords data)
  let p := s.job.parity
  let from' := if last then member :: p.lastFrom else p.lastFrom
  let p := { p with digests := p.digests.set member digest, lastFrom := from' }
  if from'.length = g then
    let p := { p with
      gen := nextGen s.job.gen, complete := true, group := group, stripe := s.memberOf s.coll.rank,
      securedStep := s.record.globalStep - 1, len := s.groupLen group }
    let s := ({ s with job := { s.job with parity := p } } : State).putHeader i
    (List.range g).foldl (fun s k => s.send (.packet (s.rankAt group k) "COMPLETE" [p.gen.toNat, p.stripe])) s
  else { s with job := { s.job with parity := p } }

/-- XOR of two byte strings, the shorter filled with zeros. -/
def xorAll (a b : List Byte) : List Byte := (List.range (max a.length b.length)).map fun k => a.getD k 0 ^^^ b.getD k 0

/-- A stripe of the image of the rank that a spare takes, as this holder rebuilds it (R346): its share with the stripes of the other
members of the group taken out. It goes to the spare. -/
def State.sendRebuilt (s : State) (i : Image) (rank : Nat) (pieces : Tbl (List Byte)) : State :=
  let base := s.memberOf s.coll.rank * s.shareBytes
  pieces.foldl (fun s p =>
    let n := (p.2.length + 31) / 32
    let (ws, s) := State.readEach ((List.range n).map fun k => s.parityAddr i (4096 + p.1 + 32 * k)) s
    s.sendSecuring rank (.fill rank (.securedPiece (base + p.1) (xorAll (plainBytes ws) p.2)))) s

/-- A piece of another member's stripe arrives while a holder rebuilds a rank's image (R346). -/
def State.rebuildPiece (s : State) (i : Image) (rank : Nat) (pieces : Tbl (List Byte)) (whole : List Nat) (member offset : Nat)
    (data : List Byte) (last : Bool) : State :=
  if whole.contains member || member == s.memberOf rank || decide (s.job.policy.g ≤ member) then s
  else
    let pieces := pieces.set offset (xorAll (Tbl.get [] pieces offset) data)
    let whole := if last then member :: whole else whole
    if whole.length + 1 = s.job.policy.g then
      ({ s with job := { s.job with rebuild := none } } : State).sendRebuilt i rank pieces
    else { s with job := { s.job with rebuild := some (rank, pieces, whole) } }

/-- A piece of a stripe arrives at its holder: in stage 1 of a pause (R337), or for the rebuilding of a rank that a spare takes (R346). -/
def execParityPieceReceive (member offset : Nat) (data : List Byte) (digest : W128) (last : Bool) (s : State) : Out :=
  let p := s.job.parity
  .next (match s.job.image, s.job.rebuild with
    | none, _ => s
    | some i, none =>
      if !s.inPause || s.job.pause != 1 || p.complete || s.job.policy.g ≤ member || p.lastFrom.contains member then s
      else s.foldPiece i member offset data digest last
    | some i, some (rank, pieces, whole) => if s.job.running then s.rebuildPiece i rank pieces whole member offset data last else s)

/-- A holder of this module's group reports COMPLETE (R337). -/
def execHolderCompleteReceive (member : Nat) (s : State) : Out :=
  .next (if s.inPause && s.job.pause == 1 && decide (member < s.job.policy.g) && !s.job.completeFrom.contains member then
      { s with job := { s.job with completeFrom := member :: s.job.completeFrom } }
    else s)

/-- The group has left stage 1 and the secured copy is written (R337). -/
def execSecureStage2Enter (s : State) : Out :=
  .next (if s.inPause && s.job.pause == 1 && s.job.completeFrom.length == s.job.policy.g && s.job.copyWritten then
      { s with job := { s.job with pause := 2 } }
    else s)

/-- What SECURE_NOW answers: GEN, six zero bytes and SECURED_STEP. -/
def State.secureOutput (s : State) (step : W64) : List Byte := leBytes 2 s.job.gen.toNat ++ zeroBytes 6 ++ leBytes 8 step.toNat

/-- Every member is in stage 2 (R337): the generation advances, commands that waited complete, and the next step begins, after a restart
of the firmware that is in progress (R39). -/
def execSecurePauseEnd (takenUs : Nat) (s : State) : Out :=
  .next (if !(s.inPause && s.job.pause == 2) then s
    else
      let s := s.setDone 10
      let late := decide (s.job.statedUs.toNat < takenUs)
      let secured := s.record.globalStep - 1
      let s := { s with job := { s.job with
        gen := nextGen s.job.gen, pause := 0, cover := true, uncovered := [], sincePause := 0, securedStep := secured,
        nextSecure := secured + BitVec.ofNat 64 s.job.policy.k,
        cnt := if late then bump s.job.cnt 4 else s.job.cnt } }
      let s := if late then s.event 0x0045 1 srcFw [s.job.statedUs.toNat, takenUs] else s
      let s := s.job.secureBoxes.foldl (fun s n =>
        if h : n < 8 then s.complete ⟨n, h⟩ 0 0 (s.secureOutput secured) else s) s
      let s := match s.job.runBox with
        | some n => s.completeAt n 0 0 acceptRecord
        | none => s
      let s := { s with job := { s.job with secureBoxes := [], runBox := none } }
      if s.fwServes then s.afterPause else s)

/-! ## The cover rule (R341) -/

/-- May the job go on with the failed set F (R341)? Of another group this member does not see when it leaves stage 1: it counts as in
stage 1 until the pause ends (log 70). -/
def State.covered (s : State) (f : List Nat) : Bool :=
  let n := s.ranks
  let stage1 (x : Nat) : Bool := s.inPause && (s.job.pause == 1 || s.groupOf x != s.groupOf s.coll.rank)
  f.all fun x =>
    !f.contains (nextRank n x) ||
      (s.hasTerrace && !(f.any fun y => y != x && s.groupOf y == s.groupOf x) &&
        !(f.any fun y => s.groupOf y == s.holderGroup (s.groupOf x)) && !stage1 x)

/-! ## Filling a spare (R344 to R349) -/

/-- A rank's lane state from the seed input (R190): `h` is SHA-256 of the input. -/
def seedState (h : List Byte) : W64 := let v := BitVec.ofNat 64 (leNat (h.take 8)); if v = 0 then 1 else v

/-- Take a jet's lanes by logical number (R236). -/
def State.setJetLanes (s : State) (l : Tbl W64) : State :=
  { s with jets := Vector.ofFn fun (j : Fin 160) =>
      let x := s.jet j
      let lanes := (List.range 192).foldl (fun (t : Tbl W64) k =>
        match x.physLane s.logicalArrays k with
        | some p => t.set p (l.get 1 (192 * j.val + k))
        | none => t) x.core.lanes
      { x with core := { x.core with lanes := lanes, saved := lanes } } }

/-- Take the update cores' own-bank lanes. -/
def State.setCoreLanes (s : State) (l : Tbl W64) : State :=
  { s with runnels := Vector.ofFn fun (r : Fin 2) =>
      let x := s.runnels.get r
      { x with cores := Vector.ofFn fun (n : Fin 16) =>
          let k := x.cores.get n
          let lanes : Tbl W64 := (List.range 64).map fun i => (i, l.get 1 (64 * (16 * r.val + n.val) + i))
          { k with lanes := lanes, saved := lanes } } }

end Sys2Proof.Machine
end

