-- ==== Sys2Proof/Machine/Membership.lean ====
section
/-! DEFINITION. Membership: the suspect queue, liveness, proposal rounds, commits, fencing and MEMBERSHIP_SET (R29, R324, R425 to
R435). -/

namespace Sys2Proof.Machine

/-! ## The table (R425 to R427) -/

/-- Does a set of ranks hold quorum (R427)? -/
def MembTable.quorum (t : MembTable) (q : List Nat) : Bool :=
  let k := ((MembTable.actives t).filter fun r => q.contains r).length
  let a := (MembTable.actives t).length
  decide (a < 2 * k) || (2 * k == a && q.contains t.tieBreak)
/-- STATE of a rank replaced. -/
def MembTable.put (t : MembTable) (rank : Nat) (f : BitVec 15 × Nat → BitVec 15 × Nat) : MembTable :=
  match t.entries[rank]? with
  | some e => { t with entries := t.entries.set rank (f e) }
  | none => t

/-- Is epoch x newer than y (R426)? -/
def epochNewer (x y : W32) : Bool := let d := (x - y).toNat; decide (1 ≤ d) && decide (d < 2 ^ 31)

/-- HELD follows STATE (R432). -/
def State.memb (s : State) (st : Nat) : State :=
  { s with coll := { s.coll with state := BitVec.ofNat 3 st }, record := { s.record with held := st == 1 } }

/-! ## Abandoning collectives and fencing (R433, R434) -/

/-- Every open collective is abandoned (R433): COLL_ABANDON carries the epoch it was opened under. -/
def State.abandonColls (s : State) : State :=
  let open' := s.coll.opened
  let s := { s with coll := s.coll.dropStep }
  open'.foldl (fun s c => (s.countColl 4 1).event 0x005A 2 srcColl [c.coll, c.epoch.toNat]) s

/-- Commands that wait for the job complete. -/
def State.dropWaiters (s : State) : State :=
  let j := s.job
  let s := { s with job := { j with secureBoxes := [], policyBoxes := [], runBox := none } }
  let s := s.completeAll (j.secureBoxes ++ j.policyBoxes) 7 s.wrongDetail
  match j.runBox with
  | some n => s.completeAt n 0xD s.coll.rank []
  | none => s

/-- A carried contribution of a module that fails is discarded, and counts as dropped (R313). -/
def State.dropCarried (s : State) : State :=
  if s.job.carried.isNone && s.job.leftOut.isNone then s
  else ({ s with job := { s.job with carried := none, leftOut := none } } : State).modRunnel 0 fun r => { r with cnt := bumpBy r.cnt 4 1 }

/-- The member fences (R434): the step and the collectives are abandoned, VERSION_SLOT stays, PHASE reads FENCED. -/
def State.fence (s : State) : State :=
  let s := s.abandonColls.memb 5
  let s := { s with
    coll := { s.coll with round := none, suspects := [], joins := [] }
    record := { s.record with phase := 0x0B }
    job := { s.job with running := false, abortDue := none, decided := none } }
  (((s.dropCarried.countColl 9 1).event 0x005D 3 srcFw [s.record.epoch.toNat]).raise icFabric).dropWaiters

/-! ## Adopting a table (R340, R341, R350, R433) -/

/-- Groups whose parity share was lost with a failed holder and cannot be recomputed (R350): recorded once each. -/
def State.uncoverGroups (s : State) : State :=
  let lost := (s.job.failed.map fun h => s.heldGroup h).filter fun g =>
    s.hasTerrace && s.job.failed.any (fun x => s.groupOf x == g) && !s.job.uncovered.contains g
  lost.eraseDups.foldl (fun s g =>
    ({ s with job := { s.job with uncovered := g :: s.job.uncovered } } : State).event 0x0049 3 srcFw [g]) s

/-- COVER follows the holders of the own group (R351). -/
def State.coverUpdate (s : State) : State :=
  let own := s.groupOf s.coll.rank
  let holder := s.holderGroup own
  let ok := s.hasTerrace && s.job.gen != 0 && !s.job.uncovered.contains own && s.job.pause != 1 &&
    !s.job.failed.any fun x => s.groupOf x == holder
  { s with job := { s.job with cover := ok } }

/-- A vote that was abandoned opens again once the incident has ended (R433), and a vote not yet formed may now be 0x03 (R329). -/
def State.reopenVote (s : State) : State :=
  if !s.job.running || s.record.phase != 9 || s.record.result == 1 then s
  else if s.job.vote.isNone && !s.record.done 9 && !s.job.failed.isEmpty then s.formVote
  else
    let s := { s with
      record := { s.record with result := 0, doneMask := setBit s.record.doneMask 9 false }
      job := { s.job with vote := none, decided := none } }
    if s.job.failed.isEmpty then s.beginCommit else s

/-- What a failure does to the job (R340, R341). -/
def State.failureOutcome (s : State) (newly : List Nat) (complete : Bool) : State :=
  if newly.isEmpty || !s.job.running then s
  else if !s.covered s.job.failed then s.jobHalt 1
  else if s.record.phase == 0x0A || s.committed then s
  else if complete then (if s.record.phase == 9 then s.setThr 9 true else s)
  else s.revert 4

/-- Job-wide commands that an old leader had not broadcast complete with RESTARTED (R493). -/
def State.leaderLost (s : State) : State :=
  let h := if s.job.haltAt.isNone then s.job.haltBoxes else []
  let q := if s.job.secureNow then [] else s.job.secureBoxes
  let p := s.job.policyBoxes
  let s := { s with job := { s.job with
    haltBoxes := s.job.haltBoxes.filter (!h.contains ·), secureBoxes := s.job.secureBoxes.filter (!q.contains ·),
    policyBoxes := [] } }
  s.completeAll (h ++ q ++ p) 0xA 0

/-- Fills that a table completes count at their donors, and a shard rebuilt from parity at the holders (R346, R354); the ranks filled
have joined in this step (R340). -/
def State.countFills (s : State) (t : MembTable) : State :=
  let filled := (List.range t.entries.length).filter fun r =>
    MembTable.st t r == 0 && (s.coll.table.map fun o => MembTable.st o r) == some 2
  let n := t.entries.length
  filled.foldl (fun s r =>
    let donor := nextRank n r == s.coll.rank || prevRank n r == s.coll.rank
    let rebuilt := s.job.failed.contains (nextRank n r) && s.groupOf s.coll.rank == s.holderGroup (s.groupOf r)
    let c := if donor then bump s.job.cnt 2 else s.job.cnt
    { s with job := { s.job with cnt := if rebuilt then bump c 3 else c, joined := r :: s.job.joined } }) s

/-! ## What donors send (R325, R346) -/

/-- Send fill data to the spare that takes a rank. -/
def State.sendFill (s : State) (rank : Nat) (f : FillData) : State := s.sendSecuring rank (.fill rank f)

/-- The records of version V, own or held, go to a spare as its held replica or its own state. -/
def State.sendRecords (s : State) (i : Image) (rank : Nat) (held : Bool) : State :=
  let from' := if held then s.predecessor else s.coll.rank
  (i.shardRecords from').foldl (fun s x =>
    let (ws, s) := s.takeRecord i held x
    s.sendFill rank (if held then .ownRecord x (plainBytes ws) else .heldRecord x (plainBytes ws))) s

/-- The held-bank lanes of the update cores, as CORE_LANES lists lanes (R321). -/
def State.heldLaneTable (s : State) : Tbl W64 :=
  (List.finRange 2).flatMap fun r => (List.finRange 16).flatMap fun n => (List.range 64).map fun k =>
    (64 * (16 * r.val + n.val) + k, ((s.runnels.get r).cores.get n).heldLanes.get 1 k)

/-- An entry of the ring with its gradient records. -/
def State.wholeEntry (s : State) (i : Image) (e : ResEntry) : ResEntry × State :=
  let r := (i.shardRecords s.predecessor).foldl (fun (a : List (List Byte) × State) x =>
    let (ws, s) := a.2.readWords 65 (a.2.gradAddr i s.ringSlot x)
    (a.1 ++ [plainBytes ws], s)) ([], s)
  ({ e with grads := r.1 }, r.2)

/-- The partner of a rank fills its own state, and the entry of the step in progress or the lanes kept (R343, R346). -/
def State.fillOwn (s : State) (i : Image) (rank : Nat) : State :=
  let s := (s.sendRecords i rank true).sendFill rank (.ownCounts (s.job.held.t s.record.slot))
  match s.predEntry, s.job.predComplete && !s.committed with
  | some e, true => let (e, s) := s.wholeEntry i e; s.sendFill rank (.ownEntry e)
  | _, _ => match s.job.keptLanes with
    | some (jets, _) => (s.sendFill rank (.jetLanes jets)).sendFill rank (.coreLanes s.heldLaneTable)
    | none => s.sendFill rank (.reseed s.record.globalStep)

/-- The predecessor of a rank fills its held replica, and sends its outgoing entry again (R325, R346). -/
def State.fillHeld (s : State) (i : Image) (rank : Nat) : State :=
  let s := (s.sendRecords i rank false).sendFill rank (.heldCounts (s.job.own.t s.record.slot))
  match s.job.outgoing, s.committed with
  | some e, false => if e.globalStep = s.record.globalStep then s.sendFill rank (.heldEntry e) else s
  | _, _ => s

/-- The members of a rank's group send their stripes to its holders, and those of the group whose parity it holds send it the stripes of
its share with the header (R346). -/
def State.fillParity (s : State) (i : Image) (rank : Nat) : State :=
  let me := s.groupOf s.coll.rank
  let (img, s) := s.copyImage i
  let digest := imageDigest s.job.key img
  let s := if me = s.groupOf rank then s.sendStripes img digest else s
  if me ≠ s.heldGroup rank then s
  else
    let mine := (s.pieces me img).filter fun p => p.1 == s.memberOf rank
    let s := mine.foldl (fun s p => s.sendFill rank (.parityPiece (32 * p.2.1) (plainBytes p.2.2))) s
    s.sendFill rank (.parityHeader s.job.gen s.job.securedStep (s.groupLen me) (s.memberOf s.coll.rank) digest)

/-- What this member does for a rank that a spare begins to fill (R346). A holder of the rank's group rebuilds its stripe; where the rank
has no live replica its lanes are reseeded, for the step about to run, which the leader names (R343). -/
def State.donate (s : State) (i : Image) (rank : Nat) : State :=
  let n := s.tableRanks
  let me := s.coll.rank
  let s := if me = nextRank n rank then s.fillOwn i rank else s
  let s := if me = prevRank n rank then s.fillHeld i rank else s
  let s := if me = s.leader && !s.actives.contains (nextRank n rank) then s.sendFill rank (.reseed s.record.globalStep) else s
  if !s.hasTerrace || s.job.gen == 0 || me == rank then s
  else
    let s := if s.groupOf me = s.holderGroup (s.groupOf rank) then { s with job := { s.job with rebuild := some (rank, [], []) } } else s
    if s.groupOf me = s.groupOf rank ∨ s.groupOf me = s.heldGroup rank then s.fillParity i rank else s

/-- The ranks that a table makes JOINING are donated to; one that loses its partner while it fills is reseeded (R346, R349). -/
def State.donateAll (s : State) (was : Option MembTable) (t : MembTable) (newly : List Nat) : State :=
  let n := t.entries.length
  let filling := (List.range n).filter fun r => MembTable.st t r == 2
  match s.job.image with
  | some i =>
    filling.foldl (fun s r =>
      if (was.map fun o => MembTable.st o r) ≠ some 2 then s.donate i r
      else if newly.contains (nextRank n r) && s.leader == s.coll.rank then s.sendFill r (.reseed s.record.globalStep)
      else s) s
  | none => s

/-! ## Adopting -/

/-- A member adopts a table with its outcome (R430, R433). The failed set keeps every rank of the incident until each is a member again
(R341). -/
def State.adoptTable (s : State) (t : MembTable) (complete : Bool) : State :=
  let old := s.coll.table
  let lead := s.leader
  let newly := (List.range t.entries.length).filter fun r => MembTable.st t r == 1 && (old.map fun o => MembTable.st o r) != some 1
  let s := (s.countFills t).abandonColls.memb 1
  let s := { s with
    coll := { s.coll with table := some t, suspects := [], round := none }
    record := { s.record with epoch := t.epoch }
    weir := { s.weir with opened := s.weir.opened.map fun (o : BitVec 15 × Nat × Nat × W32) => (o.1, o.2.1, o.2.2.1, t.epoch) }
    job := { s.job with
      failed := if (s.job.failed ++ newly).all fun r => MembTable.st t r == 0 then [] else (s.job.failed ++ newly).eraseDups
      fromPartner := if newly.contains s.partnerRank then none else s.job.fromPartner } }
  let lost := s.coll.carrying.filter newly.contains
  let s := ({ s with coll := { s.coll with carrying := s.coll.carrying.filter (!newly.contains ·) } } : State).modRunnel 0 fun r =>
    { r with cnt := bumpBy r.cnt 4 lost.length }
  let s := (s.event 0x005B 1 srcFw [t.epoch.toNat, (MembTable.actives t).length]).raise icFabric
  let s := newly.foldl (fun s r => (s.countColl 8 1).event 0x005C 2 srcFw [r]) s
  let s := if newly.contains lead then s.leaderLost else s
  let s := (((s.failureOutcome newly complete).uncoverGroups).coverUpdate).reopenVote
  if s.job.running then s.donateAll old t newly else s

/-- The output of SPARE_JOIN: the spare state, and the refusal record from byte 8 (R483). -/
def spareOutput (st : Nat) (rec' : List Byte) : List Byte := leBytes 8 st ++ rec'

/-- A spare begins to fill (R345): the regions open to its donors, and the parity share is clear. -/
def State.beginFill (s : State) (t : MembTable) (rank : Nat) : State :=
  let s := { s with
    coll := { s.coll with table := some t, rank := rank }
    job := { s.job with spare := 2, fillFailed := false, outgoing := none, desc := none, acked := false, predComplete := false,
                        parity := {}, keptLanes := none, ring := [], carried := none, leftOut := none }
    record := { s.record with epoch := t.epoch, globalStep := 0 } }
  match s.job.image with
  | some i => (s.clearShare i).openRegions
  | none => s

/-- A spare becomes a member (R345): its next pause is due as every member's is (R336), its weights are written through (R300), and the
step in progress goes on: in UPDATE where it completes the step from the entries, from FORWARD otherwise. -/
def State.becomeMember (s : State) (t : MembTable) (rank box : Nat) : State :=
  let s := { s with
    coll := { s.coll with table := some t, rank := rank }, record := { s.record with epoch := t.epoch }
    job := { s.job with
      running := true, spareRank := none, spare := 4, joined := [rank], carried := none, leftOut := none,
      failed := (List.range t.entries.length).filter fun r => MembTable.st t r != 0
      sincePause := (s.record.globalStep - 1 - s.job.securedStep).toNat
      nextSecure := if s.hasTerrace then s.job.securedStep + BitVec.ofNat 64 s.job.policy.k else BitVec.allOnes 64
      noTerrace := !s.hasTerrace } }
  let s := (((s.memb 1).coverUpdate).openRegions.completeAt box 0 0 (spareOutput 4 acceptRecord)).rewriteWeights
  if s.job.acked && s.job.predComplete then
    ({ s with record := { s.record with doneStep := s.record.globalStep } } : State).enterPhase 8
  else s.enterForward

/-- A spare learns that the table names it (R344, R345, R431): JOINING begins the fill, ACTIVE makes it a member. -/
def State.spareTable (s : State) (t : MembTable) (rank box : Nat) : State :=
  match t.entries[rank]? with
  | some (a, st) =>
    if a ≠ s.weir.addr then s
    else if st = 2 ∧ s.job.spare = 1 then s.beginFill t rank
    else if st = 0 ∧ s.job.spare = 3 then s.becomeMember t rank box
    else if st = 2 then { s with coll := { s.coll with table := some t }, record := { s.record with epoch := t.epoch } }
    else s
  | none => s

/-- A committed table arrives (R433, R434): one that names the member FAILED makes it fence. -/
def execCommit (table : MembTable) (complete : Bool) (s : State) : Out :=
  .next (match s.job.spareRank with
    | some (rank, box) => s.spareTable table rank box
    | none =>
      if !s.isMember || !epochNewer table.epoch s.record.epoch then s
      else if MembTable.st table s.coll.rank = 1 then s.fence
      else s.adoptTable table complete)

/-! ## Rounds (R429 to R431) -/

/-- Is the predecessor's entry for the step in progress complete here? -/
def State.holdsEntry (s : State) : Bool := s.job.predComplete && s.predEntry.isSome

/-- A member proposes (R430): PROPOSE goes to every ACTIVE rank outside S. -/
def State.propose (s : State) (entry : Option (Nat × BitVec 15 × Nat)) : State :=
  let S := s.coll.suspects
  let s := (s.memb 3).countColl 7 1
  let s := { s with coll := { s.coll with round := some ⟨s.coll.rank, S, [], entry⟩ } }
  (s.actives.filter fun r => !S.contains r && r != s.coll.rank).foldl (fun s r =>
    s.send (.proposal r "PROPOSE" s.record.epoch S)) s

/-- A member suspects ranks (R428, R429): it proposes where it is the lowest rank it does not suspect, and otherwise sends SUSPECT to
that rank. -/
def State.suspectRanks (s : State) (rs : List Nat) : State :=
  let new := rs.filter fun r => s.actives.contains r && r != s.coll.rank && !s.coll.suspects.contains r
  if !s.isMember || new.isEmpty then s
  else
    let s := { s with coll := { s.coll with suspects := s.coll.suspects ++ new.eraseDups } }
    if s.coll.state == 3 || s.coll.state == 4 then s
    else match s.actives.find? fun r => !s.coll.suspects.contains r with
      | some r =>
        if r = s.coll.rank then s.propose none
        else (s.memb 2).send (.proposal r "SUSPECT" s.record.epoch s.coll.suspects)
      | none => s

/-- The table a round commits (R430): every rank of S FAILED, TIE_BREAK moved where it fell, an admitted rank set (R431). -/
def nextTable (t : MembTable) (S : List Nat) (entry : Option (Nat × BitVec 15 × Nat)) : MembTable :=
  let t' := S.foldl (fun t r => MembTable.put t r fun e => (e.1, 1)) { t with epoch := t.epoch + 1 }
  let t' := match entry with
    | some (r, a, st) => MembTable.put t' r fun _ => (a, st)
    | none => t'
  { t' with tieBreak := if S.contains t.tieBreak then (MembTable.actives t').headD 0 else t.tieBreak }

/-- A JOIN at the leader (R431): a rank that has failed becomes JOINING, one that is JOINING becomes ACTIVE. -/
def State.admitRank (s : State) (rank : Nat) (addr : BitVec 15) : State :=
  match s.coll.table with
  | some t =>
    match MembTable.st t rank with
    | 1 => if rank < t.entries.length then s.propose (some (rank, addr, 2)) else s
    | 2 => if (t.entries[rank]?).map (·.1) = some addr then s.propose (some (rank, addr, 0)) else s
    | _ => s
  | none => s

/-- The leader takes the next JOIN that waited for a round to end. -/
def State.nextJoin (s : State) : State :=
  match s.coll.joins with
  | (r, a) :: t =>
    if s.coll.state == 1 && s.leader == s.coll.rank then
      ({ s with coll := { s.coll with joins := t } } : State).admitRank r a
    else s
  | [] => s

/-- The proposer ends its round (R430): COMMIT with quorum, otherwise ABANDON and fencing (R434). The outcome is COMPLETE where every rank
that failed left its entry complete, and no rank that is filling has lost its partner with its entry (R349). -/
def State.endRound (s : State) : State :=
  match s.coll.round, s.coll.table with
  | some r, some t =>
    let answered := s.coll.rank :: r.answers.map (·.1)
    let S := (MembTable.actives t).filter fun x => r.suspects.contains x || !answered.contains x
    let holds (x : Nat) : Bool :=
      let p := nextRank t.entries.length x
      if p = s.coll.rank then s.holdsEntry else r.answers.any fun a => a.1 == p && a.2.2
    let others := answered.filter (· != s.coll.rank)
    if MembTable.quorum t answered then
      let t' := nextTable t S r.entry
      let orphan := (List.range t.entries.length).any fun x => MembTable.st t x == 2 && S.contains (nextRank t.entries.length x)
      let complete := S.all holds && !orphan
      let dest := match r.entry with | some (x, _, _) => others ++ [x] | none => others
      let s := dest.foldl (fun s x => s.send (.table x t' complete)) s
      (s.adoptTable t' complete).nextJoin
    else
      ((MembTable.actives t).filter (· != s.coll.rank)).foldl
        (fun s x => s.send (.proposal x "ABANDON" s.record.epoch [])) s |>.fence
  | _, _ => s

/-- The round ends once every ACTIVE rank outside S has answered. -/
def State.roundCheck (s : State) : State :=
  match s.coll.round with
  | some r =>
    if s.actives.all fun x => x == s.coll.rank || r.suspects.contains x || r.answers.any fun a => a.1 == x then s.endRound else s
  | none => s

/-- Answer a proposer with ACCEPT (R430): the own suspects, and whether the predecessor's entry is complete. -/
def State.answer (s : State) (src : Nat) (suspects : List Nat) : State :=
  let first := s.coll.round.isNone
  let s := s.memb 4
  let s := { s with coll := { s.coll with round := some ⟨src, suspects, [], none⟩ } }
  let s := if first then s.countColl 7 1 else s
  let done := s.coll.suspects.contains s.predecessor && s.holdsEntry
  s.send (.packet src "ACCEPT" ([s.record.epoch.toNat, if done then 1 else 0] ++ s.coll.suspects))

/-! ## Messages and timers (R428 to R431, R434) -/

/-- Every 250 µs (R428): LIVE to the partner and to the predecessor. -/
def execLiveSend (s : State) : Out :=
  let n := s.tableRanks
  .next (if s.isMember then
      [nextRank n s.coll.rank, prevRank n s.coll.rank].foldl
        (fun s r => s.send (.packet r "LIVE" [s.record.epoch.toNat, s.coll.rank])) s
    else s)

/-- A LIVE arrives (R428); one of an older epoch is ignored (R426). -/
def execLive (rank : Nat) (epoch : W32) (s : State) : Out :=
  .next (if s.isMember && !epochNewer s.record.epoch epoch then
      { s with coll := { s.coll with lives := s.coll.lives.set rank s.keeper.uptime } }
    else s)

/-- No LIVE for 750 µs from the partner or the predecessor (R428). -/
def execLiveTimeout (rank : Nat) (s : State) : Out :=
  let n := s.tableRanks
  let mine := rank == nextRank n s.coll.rank || rank == prevRank n s.coll.rank
  let due := !s.coll.lives.has rank || decide ((s.coll.lives.get 0 rank).toNat + 750000 ≤ s.uptime)
  .next (if s.isMember && mine && due then s.suspectRanks [rank] else s)

/-- A SUSPECT arrives (R429): the rank it reaches proposes. -/
def execSuspect (_src : Nat) (epoch : W32) (suspects : List Nat) (s : State) : Out :=
  .next (if !s.isMember || epochNewer s.record.epoch epoch then s
    else
      let new := suspects.filter fun r => s.actives.contains r && r != s.coll.rank && !s.coll.suspects.contains r
      let s := { s with coll := { s.coll with suspects := s.coll.suspects ++ new.eraseDups } }
      if s.coll.state == 3 || s.coll.state == 4 || s.coll.suspects.isEmpty then s else s.propose none)

/-- No PROPOSE within 1 ms of suspecting (R429). -/
def execSuspectWaitTimeout (s : State) : Out := .next (if s.coll.state = 2 && s.isMember then s.propose none else s)

/-- A PROPOSE arrives (R430): the lowest-ranked proposer heard from is answered, and an own round of a higher rank abandoned. -/
def execPropose (src : Nat) (epoch : W32) (suspects : List Nat) (s : State) : Out :=
  .next (if !s.isMember || epochNewer s.record.epoch epoch || suspects.contains s.coll.rank then s
    else match s.coll.round with
      | some r => if src < r.proposer then s.answer src suspects else s
      | none => s.answer src suspects)

/-- An ACCEPT arrives at the proposer (R430). -/
def execAccept (src : Nat) (epoch : W32) (suspects : List Nat) (complete : Bool) (s : State) : Out :=
  .next (match s.coll.round with
    | some r =>
      if s.coll.state = 3 && epoch == s.record.epoch && s.actives.contains src && !r.suspects.contains src &&
          !r.answers.any (fun a => a.1 == src) then
        ({ s with coll := { s.coll with round := some { r with answers := r.answers ++ [(src, suspects, complete)] } } } : State).roundCheck
      else s
    | none => s)

/-- 2 ms after PROPOSE (R430). -/
def execRoundTimeout (s : State) : Out := .next (if s.coll.state = 3 then s.endRound else s)

/-- An ABANDON arrives (R434). -/
def execAbandon (_src : Nat) (epoch : W32) (s : State) : Out :=
  .next (if s.isMember && !epochNewer s.record.epoch epoch then s.fence else s)

/-- 5 ms after answering a PROPOSE, with neither COMMIT nor ABANDON (R434). -/
def execFenceTimeout (s : State) : Out := .next (if s.coll.state = 4 then s.fence else s)

/-- A JOIN arrives at the leader (R431); while a round is open it waits. -/
def execJoin (rank : Nat) (addr : BitVec 15) (s : State) : Out :=
  .next (if s.isMember && s.leader == s.coll.rank then
      if s.coll.state = 1 then s.admitRank rank addr else { s with coll := { s.coll with joins := s.coll.joins ++ [(rank, addr)] } }
    else s)

/-! ## The suspect queue (R29) -/

/-- Write the reports kept while the queue was full, as space opens. -/
def StepRecord.flushKept : Nat → StepRecord → StepRecord
  | 0, r => r
  | n + 1, r =>
    match r.kept with
    | w :: t => if r.unread < 16 then StepRecord.flushKept n ({ r with kept := t }.putSuspect w) else r
    | [] => r

/-- The collective engine writes a suspect entry (R29): cause 1 or 2, other values being reserved. -/
def execSuspectEntryWrite (rank : BitVec 15) (cause : BitVec 4) (s : State) : Out :=
  .next (if cause = 1 ∨ cause = 2 then s.reportSuspect rank cause.toNat else s)

/-- The membership logic reads the unread entries and acts on each (R29, R428). -/
def execSuspectEntryRead (s : State) : Out :=
  let r := s.record
  let ranks := (List.range (min 16 r.unread)).map fun i =>
    bits (r.suspects.get ⟨(r.take.toNat + i) % 16, Nat.mod_lt _ (by omega)⟩) 14 0
  .next (if !s.fwServes then s
    else
      let s := { s with record := StepRecord.flushKept 16 { r with take := r.put } }
      ranks.foldl (fun s x => s.suspectRanks [x]) s)

/-- An entry is still missing at the deadline (R324): RESERVE_TIMEOUT names the silent rank, which is then suspected (R428). -/
def execReserveTimeout (silent : Nat) (s : State) : Out :=
  let missing := (silent == s.partnerRank && !s.job.acked) || (silent == s.predecessor && !s.job.predComplete)
  .next (if s.job.running && s.record.phase == 7 && !s.record.done 7 && missing then
      (s.event 0x0043 2 srcFw [silent]).suspectRanks [silent]
    else s)

/-! ## MEMBERSHIP_SET (R425, R435) -/

/-- The first rule of R425 that a table given to MEMBERSHIP_SET breaks: status and DETAIL, with the byte's offset. -/
def tableCheck (t : MembTable) : Option (Nat × Nat) :=
  let n := t.entries.length
  firstOf ([(outside n 2 32768, 4, 2 ^ 31 + 4), (decide (n ≤ t.tieBreak), 4, 2 ^ 31 + 6)] ++
    (List.range n).map fun k => (MembTable.st t k != 0, 3, 2 ^ 31 + 0x20 + 4 * k))

/-- The rank that a table gives this module. -/
def State.rankIn (s : State) (t : MembTable) : Option Nat :=
  (List.range t.entries.length).find? fun k => (t.entries[k]?).map (·.1) == some s.weir.addr

/-- A table is installed: PHASE FENCED ends, and a HALT that waited for the release completes (R435, R488). -/
def State.installTable (s : State) (t : Option MembTable) (rank st : Nat) (epoch : W32) : State :=
  let s := { s with
    coll := { s.coll with table := t, rank := rank, suspects := [], round := none, lives := [], joins := [] }
    record := { s.record with epoch := epoch, phase := if s.record.phase = 0x0B then 0 else s.record.phase }
    job := { s.job with failed := [] } }
  let s := s.memb st
  let boxes := s.job.haltBoxes
  let s := { s with job := { s.job with haltBoxes := [] } }
  boxes.foldl (fun s n => s.completeAt n 0 0 (leBytes 8 s.lastCommitted.toNat)) s

/-- MEMBERSHIP_SET (R425, R435): `table` is what host memory holds, and `othersIdle` says that every member it names has PHASE IDLE or
FENCED. -/
def execMembershipSet (n : Fin 8) (table : MembTable) (othersIdle : Bool) (s : State) : Out :=
  .next (s.serve n 0x0020 fun s b =>
    let k := table.entries.length
    let fenced := s.coll.state == 5
    if b.arg 1 ≠ 0x20 + 4 * k then s.complete n 4 1 []
    else if s.job.running || !(s.record.phase == 0 || s.record.phase == 0x0B) then s.complete n 7 s.wrongDetail []
    else if k = 0 then (s.installTable none 0 0 table.epoch).complete n 0 0 (leBytes 4 table.epoch.toNat)
    else match tableCheck table with
      | some (st, d) => s.complete n st d []
      | none =>
        if fenced && !othersIdle then s.complete n 7 s.wrongDetail []
        else
          let s := match s.rankIn table with
            | some r => s.installTable (some table) r 1 table.epoch
            | none => s.installTable (some table) 0 0 table.epoch
          s.complete n 0 0 (leBytes 4 table.epoch.toNat))

end Sys2Proof.Machine
end

