-- ==== Sys2Proof/Machine/JobCmds.lean ====
section
/-! DEFINITION. Job-wide commands: HALT, SET_POLICY and SECURE_NOW (R228, R336, R488, R493). -/

namespace Sys2Proof.Machine

/-- A job-wide command as it goes to the leader (R493). -/
def jobCmdWords : JobCmd → List Nat
  | .halt => [0]
  | .setPolicy sel p => [1, sel.toNat, p.k, p.g, p.d, p.windowPermille, p.windowMinMs, p.drop]
  | .secureNow => [2]

/-- The boundary at which the leader lets a command apply (R493). -/
def State.jobCmdStep (s : State) : JobCmd → W64
  | .setPolicy _ _ => s.record.globalStep + 1
  | _ => s.record.globalStep

/-- The SET_POLICY mailboxes of this module that a broadcast answers. -/
def State.policyAnswered (s : State) (sel : BitVec 6) (p : Policy) : List Nat :=
  s.job.policyBoxes.filter fun n => if h : n < 8 then
    let b := s.boxes.get ⟨n, h⟩
    b.arg 7 == sel.toNat && pickPolicy sel.toNat b.policy s.job.policy == pickPolicy sel.toNat p s.job.policy
  else false

/-- A selected change waits for its boundary: K and G for the next pause, the other fields for the next step. A later change of a
field takes the place of an earlier one (R493). -/
def State.policyChange (s : State) (sel : BitVec 6) (p : Policy) (step : W64) : State :=
  let j := s.job
  let kg := j.nextKG.getD (j.policy.k, j.policy.g)
  let asked := pickPolicy sel.toNat p { j.nextPolicy.getD j.policy with k := kg.1, g := kg.2 }
  let answered := s.policyAnswered sel p
  let s := { s with job := { j with
    nextKG := if sel.getLsbD 0 || sel.getLsbD 1 then some (asked.k, asked.g) else j.nextKG
    nextPolicy := if sel.toNat / 4 = 0 then j.nextPolicy else some asked
    policyBoxes := j.policyBoxes.filter (!answered.contains ·) } }
  answered.foldl (fun s n => s.completeAt n 0 0 (leBytes 8 step.toNat))
    (s.event 0x0004 1 srcFw [sel.toNat, step.toNat])

/-- A member takes a job-wide command with the step its leader chose (R493). -/
def State.applyJob (s : State) (cmd : JobCmd) (step : W64) : State :=
  if !s.job.running then s
  else match cmd with
    | .halt =>
      let at' := if step.toNat < s.record.globalStep.toNat then s.record.globalStep else step
      let s := { s with job := { s.job with haltAt := some at' } }
      if s.record.phase = 0 then s.jobHalt 0 else s
    | .setPolicy sel p => s.policyChange sel p step
    | .secureNow => { s with job := { s.job with secureNow := true, nextSecure := s.record.globalStep } }

/-- The leader chooses the boundary and broadcasts the command (R493). -/
def State.leadJob (s : State) (cmd : JobCmd) : State :=
  let step := s.jobCmdStep cmd
  let s := (s.actives.filter (· != s.coll.rank)).foldl (fun s r => s.send (.job r cmd step)) s
  s.applyJob cmd step

/-- The member that the host issued a job-wide command to sends it to the leader (R493). -/
def State.forwardJob (s : State) (cmd : JobCmd) : State :=
  if s.leader = s.coll.rank then s.leadJob cmd else s.send (.packet s.leader "JOB_COMMAND" (jobCmdWords cmd))

/-- A forwarded command arrives at the leader (R493). -/
def execJobCommandForward (src : Nat) (cmd : JobCmd) (s : State) : Out :=
  .next (if s.job.running && s.isMember && s.leader == s.coll.rank && s.actives.contains src then s.leadJob cmd else s)

/-- The leader's broadcast arrives (R493). -/
def execJobCommandApply (cmd : JobCmd) (step : W64) (s : State) : Out := .next (s.applyJob cmd step)

/-- HALT (R488, R493). -/
def execHaltCommand (n : Fin 8) (s : State) : Out :=
  .next (s.serve n 0x0014 fun s _ =>
    if s.job.haltBoxes.contains n.val then s
    else
      let wait : State := { s with job := { s.job with haltBoxes := s.job.haltBoxes ++ [n.val] } }
      if s.job.running then wait.forwardJob .halt
      else if s.record.phase = 0x0B then wait.unload
      else s.unload.complete n 0 0 (leBytes 8 s.lastCommitted.toNat))

/-- SET_POLICY (R228, R493). -/
def execSetPolicy (n : Fin 8) (s : State) : Out :=
  .next (s.serve n 0x0015 fun s b =>
    if s.job.policyBoxes.contains n.val then s
    else ({ s with job := { s.job with policyBoxes := s.job.policyBoxes ++ [n.val] } } : State).forwardJob
      (.setPolicy (BitVec.ofNat 6 (b.arg 7)) b.policy))

/-- SECURE_NOW (R336, R493). -/
def execSecureNow (n : Fin 8) (s : State) : Out :=
  .next (s.serve n 0x0016 fun s _ =>
    if s.job.secureBoxes.contains n.val then s
    else ({ s with job := { s.job with secureBoxes := s.job.secureBoxes ++ [n.val] } } : State).forwardJob .secureNow)

end Sys2Proof.Machine
end

