-- ==== Sys2Proof/Machine/ImageChecks.lean ====
section
/-! DEFINITION. The load-time checks of a program image, stage by stage (R206 to R233). -/

namespace Sys2Proof.Machine

/-! ## Refusals (R229, R230) -/

/-- A refusal: CODE, the section type it concerns (0 none), ITEM, NEED, HAVE. -/
structure LoadFault where
  code : Nat
  sect : Nat := 0
  item : Nat := 0
  need : Nat := 0
  have' : Nat := 0
  deriving DecidableEq, Repr

/-- The refusal record (R230); `n` is the directory index of the section. -/
def LoadFault.record (f : LoadFault) (n : Nat) : List Byte :=
  leBytes 2 f.code ++ leBytes 2 n ++ leBytes 4 f.item ++ leBytes 8 f.need ++ leBytes 8 f.have' ++ zeroBytes 8

/-- Directory index of a section type; 0xFFFF where there is none. -/
def sectionIndex (i : Image) (t : Nat) : Nat :=
  ((List.range i.sections.length).find? fun k => ((i.sections[k]?).map (·.type)) == some t).getD 0xFFFF

/-- The record that a refusal, or its absence, puts into the completion payload. -/
def refusalRecord (i : Option Image) (f : Option LoadFault) : List Byte :=
  match f with
  | none => acceptRecord
  | some f => f.record ((i.map fun i => sectionIndex i f.sect).getD 0xFFFF)

/-- A check that refuses where it holds. -/
def refuse (bad : Bool) (code : Nat) (sect : Nat := 0) (item : Nat := 0) : Option LoadFault :=
  if bad then some { code := code, sect := sect, item := item } else none

/-- The first refusal of a list of checks. -/
def firstRefusal (l : List (Option LoadFault)) : Option LoadFault := l.findSome? id

/-- A refusal with the first item of a list that breaks a check. -/
def refuseItem {α : Type} (l : List α) (bad : α → Bool) (code sect : Nat) (item : α → Nat) : Option LoadFault :=
  (l.find? bad).map fun x => { code := code, sect := sect, item := item x }

/-- Is a list free of repeats? -/
def distinct (l : List Nat) : Bool := l.eraseDups.length == l.length

/-! ## Stage 1: container (R206 to R208) -/

/-- Is there a section of a type? -/
def hasSection (i : Image) (t : Nat) : Bool := i.sections.any fun s => s.type == t

/-- Do the sections lie apart, aligned and inside, clear of the header and the directory (R206, R208), with kernel entries at multiples
of 4 (R220, log 66)? -/
def layoutOk (i : Image) : Bool :=
  let dir := (i.dirOffset, 16 * i.sections.length)
  let secs := i.sections.map fun s => (s.offset, s.length)
  let apart (a b : Nat × Nat) : Bool := decide (a.1 + a.2 ≤ b.1) || decide (b.1 + b.2 ≤ a.1)
  let all' := (0, 128) :: dir :: secs
  i.headerBytes == 128 && !outside i.sections.length 1 64 && i.dirOffset % 64 == 0 &&
    i.sections.all (fun s => s.offset % 64 == 0 && decide (s.flags.toNat ≤ 1)) &&
    all'.all (fun a => decide (a.1 + a.2 ≤ i.imageBytes)) &&
    i.kernels.all (fun k => k.1 % 4 == 0) &&
    (List.range all'.length).all fun x => (List.range x).all fun y => apart (all'.getD x (0, 0)) (all'.getD y (0, 0))

/-- Is a node a MATMUL? -/
def isMatmul (n : GraphNode) : Bool := match n.kind with | .matmul .. => true | _ => false
/-- Is a node a COLLECTIVE? -/
def isCollective (n : GraphNode) : Bool := match n.kind with | .collective _ _ => true | _ => false
/-- Is a node an UPDATE? -/
def isUpdate (n : GraphNode) : Bool := match n.kind with | .update _ => true | _ => false

/-- Stage 1. -/
def stage1 (i : Image) (len : Nat) : Option LoadFault :=
  firstRefusal
    [refuse (i.magic != 0x4D49504A) 0x0101,
     refuse (decide (1 < i.formatVer)) 0x0102,
     refuse (i.imageBytes != len || !i.hashOk) 0x0103,
     refuse (!layoutOk i) 0x0104,
     (i.sections.find? fun s => outside s.type 1 0xB && s.flags.getLsbD 0).map fun s => { code := 0x0105, sect := s.type },
     refuse ([1, 2, 3, 4, 5].any (fun t => !hasSection i t) || (i.nodes.any isMatmul && !hasSection i 6) ||
       (i.nodes.any isUpdate && !hasSection i 9) ||
       !distinct ((i.sections.map (·.type)).filter fun t => !outside t 1 0xB)) 0x0106]

/-! ## Stage 2: capability (R211, R212, R235, R237) -/

/-- Does a value meet a requirement (R211)? -/
def meetsReq (op v want : Nat) : Bool :=
  match op with
  | 0 => decide (want ≤ v)
  | 1 => v == want
  | 2 => decide (v ≤ want)
  | 3 => v &&& want == want
  | _ => false

/-- Is a requirement met by the capability table (R211)? -/
def State.reqMet (s : State) (r : CapReq) : Bool :=
  (isLogical r || r.byte3 == 0) && match s.capValues r.id with
    | none => false
    | some vs =>
      if r.index = 0xFFFFFFFF then vs.all fun v => meetsReq r.op v r.value.toNat
      else match vs[r.index.toNat]? with
        | some v => meetsReq r.op v r.value.toNat
        | none => false

/-- Does a node declare quad use (R237)? -/
def usesQuads (n : GraphNode) : Bool := match n.kind with | .kernel _ _ _ _ _ q => q | _ => false

/-- Stage 2. -/
def State.stage2 (s : State) (i : Image) : Option LoadFault :=
  let L := logicalL i
  firstRefusal
    [refuseItem i.reqs (fun r => !s.reqMet r) 0x0201 1 (·.id),
     refuse (i.vectorBits != 0 && i.vectorBits != 4096) 0x0202 4,
     refuse (!(i.reqs.any fun r => r.id == 4 && r.op == 1 && r.value == 1) || !(i.reqs.any fun r => r.id == 5 && r.op == 0) ||
       !(i.reqs.any fun r => r.id == 2 && r.op == 0) || outside L 1 8) 0x0203 1,
     ((List.finRange 160).find? fun j => decide ((s.jet j).arrayCount < L)).map fun j =>
       { code := 0x0204, sect := 1, item := j.val, need := L, have' := (s.jet j).arrayCount },
     if i.nodes.any usesQuads then
       ((List.finRange 160).find? fun j => L != 8 || !((s.jet j).quadOk 0 && (s.jet j).quadOk 1)).map fun j =>
         { code := 0x0205, sect := 3, item := j.val }
     else none]

/-! ## Stage 3: declarations (R213, R214, R221 to R228, R286) -/

/-- Is a tensor declaration well formed (R213, R214)? -/
def tensorOk (i : Image) (t : TensorDecl) : Bool :=
  let f := t.format.toNat
  let known := [0, 1, 2, 0x10, 0x11, 0x12, 0x13, 0x14, 0x20, 0x21, 0x22, 0x23, 0x30, 0x31].contains f
  let plain := !outside f 0x20 0x23
  let place := match t.tier with
    | 1 => decide (t.place ≤ 3)
    | 3 => decide (t.place ≤ 2)
    | 4 => i.windows.any fun w => w.id == t.place
    | _ => t.place == 0
  known && !outside t.rank 1 4 && decide (t.raxis < t.rank) && decide (t.tier ≤ 4) && decide (t.lifetime ≤ 2) && place &&
    t.reserved == 0 && (plain || t.scale == 0) &&
    (if t.lifetime = 2 then f == 0x10 && t.tier == 3 && decide (t.group < i.groups.length) else t.group == 0xFFFF) &&
    (!([0, 1, 0x30, 0x31].contains f) || t.lifetime == 0) &&
    t.shape.length == 4 && t.shape.all (fun d => decide (1 ≤ d)) && (t.shape.drop t.rank).all (· == 1) &&
    (if t.tier = 0 then t.jets.all fun j => decide (j < 160) else t.jets.isEmpty)

/-- Is a phase one that a node can run in (R215)? -/
def nodePhase (p : Nat) : Bool := !outside p 1 6 || p == 8

/-- Is a parameter group within its ranges (R226)? -/
def groupOk (i : Image) (g : ParamGroup) : Bool :=
  let rd (x : W32) : Option Rat := match b32.src x.toNat with
    | .fin n m e => some ((if n then -1 else 1) * (m : Rat) * (if 0 ≤ e then (2 : Rat) ^ e.toNat else 1 / (2 : Rat) ^ (-e).toNat))
    | _ => none
  (rd g.lr).any (fun x => decide (0 ≤ x)) && (rd g.eps).any (fun x => decide (0 < x)) && (rd g.wd).any (fun x => decide (0 ≤ x)) &&
    (rd g.beta1).any (fun x => decide (0 ≤ x) && decide (x < 1)) && (rd g.beta2).any (fun x => decide (0 ≤ x) && decide (x < 1)) &&
    decide (g.kernel < i.kernels.length) && g.rest == 0

/-- Is the shard table one of R286? -/
def shardsOk (i : Image) : Bool :=
  i.shards.all (fun n => n % 1024 == 0) &&
    i.shards.foldl (· + ·) 0 == ((i.stateTensors.map (·.positions)).foldl (· + ·) 0)

/-- The policy an image asks for: defaults where its section is missing (R227, R228). -/
def imagePolicy (i : Image) : Policy :=
  let d : Policy := ⟨100, 8, 2, 50, 2, 0⟩
  let a := if hasSection i 0xA then { d with windowPermille := i.policy.windowPermille, windowMinMs := i.policy.windowMinMs, drop := i.policy.drop } else d
  if hasSection i 0xB then { a with k := i.policy.k, g := i.policy.g, d := i.policy.d } else a

/-- Is a policy within its ranges (R227, R228)? -/
def policyOk (p : Policy) : Bool :=
  !outside p.k 1 65535 && !outside p.g 4 16 && decide (p.d ≤ 8) && !outside p.windowPermille 10 500 &&
    !outside p.windowMinMs 2 1000 && decide (p.drop ≤ 1)

/-- Host addresses a window spans (R225). -/
def HostWindow.span (w : HostWindow) : Nat := (w.slots - 1) * w.stride + w.length

/-- Are the host windows those of R225? -/
def windowsOk (i : Image) : Bool :=
  let apart (a b : HostWindow) : Bool := decide (a.addr + HostWindow.span a ≤ b.addr) || decide (b.addr + HostWindow.span b ≤ a.addr)
  i.windows.all (fun w => decide (w.id ≤ 255) && w.addr % 4096 == 0 && w.stride % 256 == 0 && !outside w.slots 1 (2 ^ 32 - 1)) &&
    distinct (i.windows.map (·.id)) && decide ((i.windows.map HostWindow.span).foldl (· + ·) 0 ≤ 2 ^ 44) &&
    i.windows.all fun w => !w.out || i.windows.all fun v => v.id == w.id || apart v w

/-- Is a code finite? -/
def finiteCode (f : IFmt) (c : Nat) : Bool := match f.src c with | .fin _ _ _ => true | _ => false

/-- Is a spout descriptor of an image one of R222? `sb64` says that every chain that uses it is SB64. -/
def spoutOk (d : SpoutDesc) (sb64 : Bool) : Bool :=
  let f := if d.dest = 0 then b64 else b32
  let wide := d.dest == 0
  let low (v : W64) : Nat := v.toNat % 2 ^ f.width
  let hiOk (v : W64) (addr : Bool) : Bool := (wide && !addr) || decide (v.toNat < 2 ^ 32)
  let vec := d.flags.getLsbD 0
  let bias := d.flags.getLsbD 1
  let dst := d.dest.toNat
  let known := [0, 1, 2, 0x10, 0x11, 0x12, 0x13, 0x14, 0x20, 0x21, 0x22, 0x23, 0xFF].contains dst
  known && d.reserved == 0 && decide (d.flags.toNat < 4) && decide (d.blockDir.toNat ≤ 1) &&
    decide (d.round.toNat ≤ (if [0, 1, 0xFF].contains dst then 0 else 1)) && (!wide || sb64) &&
    (bias || d.bias == 0) && hiOk d.scale vec && hiOk d.bias true && hiOk d.lo false && hiOk d.hi false &&
    (vec || goodScale f (low d.scale)) && finiteCode f (low d.lo) && finiteCode f (low d.hi) && !f.lt (low d.hi) (low d.lo)

/-- Format of a tensor by ID. -/
def formatOf (i : Image) (id : Nat) : Option Nat := (i.tensors.find? fun t => t.id == id).map (·.format.toNat)

/-- Is every chain that uses a spout descriptor SB64? -/
def spoutChains (i : Image) (k : Nat) : Bool :=
  i.nodes.all fun n => match n.kind with
    | .matmul a _ _ sp _ => sp != k || formatOf i a == some 0x30
    | _ => true

/-- Stage 3. -/
def stage3 (i : Image) : Option LoadFault :=
  let tags := i.tags.map fun t => t.1.toNat
  firstRefusal
    [refuseItem i.tensors (fun t => !tensorOk i t) 0x0301 2 (·.id),
     refuse (!distinct (i.tensors.map (·.id))) 0x0301 2,
     refuse (tags.contains 0 || !distinct tags || i.tags.any (fun t => decide (0x0B < t.2))) 0x0302 5,
     refuseItem i.nodes (fun n => !i.tags.any fun t => t.1 == n.tag && t.2 == n.phase) 0x0302 5 (·.id),
     refuse (hasSection i 9 && (outside i.groups.length 1 4096 || i.groups.any (fun g => !groupOk i g) || !shardsOk i)) 0x0303 9,
     refuse (!policyOk (imagePolicy i)) 0x0304 (if hasSection i 0xB then 0xB else 0xA),
     refuse (!windowsOk i) 0x0305 8,
     ((List.range i.spouts.length).find? fun k => (i.spouts[k]?).any fun d => !spoutOk d (spoutChains i k)).map fun k =>
       { code := 0x0306, sect := 6, item := k }]

/-! ## Stage 4: graph (R134, R215 to R219, R224, R409, R415) -/

/-- Nodes that lead to any of a list, the list included. -/
def ancestors (ns : List GraphNode) : Nat → List Nat → List Nat
  | 0, l => l
  | n + 1, l => ancestors ns n ((l ++ (ns.filter fun x => l.contains x.id).flatMap (·.preds)).eraseDups)

/-- Does a path lead from node `a` to node `b`? -/
def leadsTo (i : Image) (a b : GraphNode) : Bool := (ancestors i.nodes i.nodes.length b.preds).contains a.id

/-- Is a tensor the gradient that EXCHANGE reduces (R215, R288): BX16, with an element for each position of job parameter order, where the
image has a shard table? -/
def isGradient (i : Image) (t : Nat) : Bool :=
  (i.tensors.find? fun d => d.id == t).any fun d =>
    d.format == 0x10 && (!hasSection i 9 || TensorDecl.positions d == sumOf i.shards)

/-- Are a node's phase and operands allowed (R215, R219, R409)? -/
def nodeOk (i : Image) (n : GraphNode) : Bool :=
  let tensor (t : Nat) : Bool := i.tensors.any fun d => d.id == t
  let compute := !outside n.phase 1 5
  let kernel (k : Nat) : Bool := decide (k < i.kernels.length)
  let window (w : Nat) (out : Bool) : Bool := i.windows.any fun x => x.id == w && x.out == out
  let ends := n.phase == 1 || n.phase == 5
  n.preds.all (fun p => i.nodes.any fun m => m.id == p) && n.stores.all tensor &&
    (isUpdate n || n.stores.all fun t => i.tensors.all fun d => d.id != t || d.lifetime != 2 || i.frozen d.group) &&
    match n.kind with
    | .matmul a b c sp _ => compute && [a, b, c].all tensor && decide (sp < i.spouts.length)
    | .reduce _ a b => compute && [a, b].all tensor
    | .kernel k args _ jets _ _ => compute && kernel k && args.all tensor && jets.all fun j => decide (j < 160)
    | .solver k args => (n.phase == 2 || n.phase == 4) && kernel k && args.all tensor
    | .collective op t =>
      (compute || (n.phase == 6 && op == .reduceScatter && isGradient i t)) && (formatOf i t).any (fun f => [0, 1, 2, 0x10, 0x11].contains f) &&
        (match op with | .broadcast src => decide (src < i.shards.length) | _ => true)
    | .update gs => n.phase == 8 && gs.all fun g => decide (g < i.groups.length)
    | .windowIn w t => ends && window w false && tensor t
    | .windowOut w t => ends && window w true && tensor t
    | .unknown _ => false

/-- Padded reduction length of a MATMUL. -/
def reductionLen (i : Image) (n : GraphNode) : Nat :=
  match n.kind with
  | .matmul a _ _ _ _ => ((i.tensors.find? fun t => t.id == a).map fun t => t.dims.2).getD 0
  | _ => 0

/-- Is a run of leaves a node of the reference tree over `n` leaves from `a` (R130)? -/
def isTreeNode : Nat → Nat → Nat → Nat × Nat → Bool
  | 0, _, _, _ => false
  | fuel + 1, a, n, r =>
    if r = (a, n) then true
    else if n ≤ 1 then false
    else
      let p := 2 ^ Nat.log2 (n - 1)
      if r.1 < a + p then isTreeNode fuel a p r else isTreeNode fuel (a + p) (n - p) r

/-- Is a MATMUL's split list one of R217? -/
def splitOk (i : Image) (n : GraphNode) : Bool :=
  match n.kind with
  | .matmul _ _ _ _ split =>
    let segs := (reductionLen i n + 1023) / 1024
    match split with
    | none => decide (segs ≤ 255)
    | some runs =>
      runs.all (fun r => !outside r.2 1 255 && isTreeNode 64 0 segs r) &&
        (runs.foldl (fun (a : Option Nat) r => a.bind fun x => if r.1 = x then some (x + r.2) else none) (some 0)) == some segs
  | _ => true

/-- Tiles a KERNEL node declares, as (jet, 2 × logical array + tile) (R218). -/
def declaredTiles (n : GraphNode) : List (Nat × Nat) :=
  match n.kind with
  | .kernel _ _ tiles jets _ _ => jets.flatMap fun j => tiles.flatMap fun (l, a, b) =>
      (if a then [(j, 2 * l)] else []) ++ (if b then [(j, 2 * l + 1)] else [])
  | _ => []

/-- Do two unordered nodes of one phase declare the same tile on the same jet (R216, R218)? -/
def tileConflict (i : Image) (n : GraphNode) : Bool :=
  let mine := declaredTiles n
  !mine.isEmpty && i.nodes.any fun m =>
    m.id != n.id && m.phase == n.phase && (declaredTiles m).any (mine.contains ·) && !leadsTo i n m && !leadsTo i m n

/-- Does a node run before another in every order that R216 allows? -/
def runsBefore (i : Image) (a b : GraphNode) : Bool := decide (a.phase < b.phase) || (a.phase == b.phase && leadsTo i a b)

/-- Is a recompute entry one of R224: its checkpoint a STEP tensor that is written once before the entry's last use, the last BACKWARD
node that reads a tensor which the entry rebuilds? -/
def recomputeOk (i : Image) (r : Recompute) : Bool :=
  let made := (i.nodes.filter fun n => r.nodes.contains n.id).flatMap GraphNode.outs
  let uses := i.nodes.filter fun n => n.phase == 5 && (GraphNode.tensors n).any made.contains
  let late (w : GraphNode) : Bool := decide (5 < w.phase) || (!uses.isEmpty && uses.all fun u => runsBefore i u w)
  (i.tensors.any fun t => t.id == r.checkpoint && t.lifetime == 0) &&
    decide ((i.nodes.filter fun n => (GraphNode.outs n).contains r.checkpoint && !late n).length ≤ 1) &&
    r.nodes.all fun x => i.nodes.any fun n => n.id == x && n.phase == 1

/-- Stage 4. -/
def stage4 (i : Image) : Option LoadFault :=
  let frozenStore (n : GraphNode) : Bool := n.stores.any fun t => i.tensors.any fun d => d.id == t && d.lifetime == 2 && i.frozen d.group
  firstRefusal
    [refuse (!distinct (i.nodes.map (·.id)) || decide (3840 < (i.nodes.filter isCollective).length)) 0x0401 3,
     refuseItem i.nodes (fun n => !nodeOk i n) 0x0401 3 (·.id),
     refuse ((i.nodes.filter fun n => n.phase == 6).length != 1) 0x0401 3,
     refuseItem i.nodes (fun n => leadsTo i n n) 0x0401 3 (·.id),
     refuseItem i.nodes (fun n => decide (2 ^ 27 < reductionLen i n)) 0x0402 3 (·.id),
     refuseItem i.nodes (fun n => !splitOk i n) 0x0403 3 (·.id),
     refuseItem i.nodes (tileConflict i) 0x0404 3 (·.id),
     refuseItem i.nodes (·.moverConv) 0x0405 3 (·.id),
     refuseItem i.nodes (fun n => frozenStore n && !isUpdate n) 0x0406 3 (·.id),
     refuseItem i.recompute (fun r => !recomputeOk i r) 0x0407 7 (·.checkpoint)]

/-! ## Stage 5: capacity (R231, R285), and stage 6 -/

/-- A capacity check. -/
def capacity (code item need cap : Nat) : Option LoadFault :=
  if cap < need then some { code := code, item := item, need := need, have' := cap } else none

/-- Stage 5 for a rank and a policy. -/
def State.stage5 (s : State) (i : Image) (rank : Nat) (p : Policy) : Option LoadFault :=
  let caps := (List.finRange 4).map fun d => s.capOf (.domain d)
  firstRefusal
    ((List.range 160).map (fun j => capacity 0x0501 j (i.code.length + i.peakStore j) 20971520) ++
     (if i.nodes.any isUpdate then
        (List.range 32).map fun n => capacity 0x0501 (0x100 + n) (i.code.length + i.scratch) 0x60000
      else []) ++
     (List.range 4).map (fun d => capacity 0x0502 d (i.fastNeed rank d) (caps.getD d 0)) ++
     [capacity 0x0503 0 i.spread (4 * caps.foldl min (2 ^ 40))] ++
     (List.finRange 2).map fun r => capacity 0x0504 r.val (i.slowNeed rank p.d p.g s.caps.hostWindow r.val) (s.capOf (.half r)))

/-- Stage 6 (R233): the module, and a second change of the capability table. -/
def State.stage6 (s : State) : Option LoadFault :=
  firstRefusal
    [refuse (!s.keeper.ready || s.job.image.isSome) 0x0601,
     refuse (match s.caps.loadGen with | some (g, true) => g != s.caps.gen | _ => false) 0x0602]

/-- Every check of R229 in its order. -/
def State.loadCheck (s : State) (i : Image) (len : Nat) : Option LoadFault :=
  firstRefusal [stage1 i len, s.stage2 i, stage3 i, stage4 i, s.stage5 i s.coll.rank (imagePolicy i), s.stage6]

/-! ## Space beside the need of R231 (R319, R320) -/

/-- Bytes that R320 adds to a half: the secured copy, the entries' fixed parts, the kept lane sections, and the parity share above
S_own ÷ G; the share's header is not among them (log 66). -/
def State.extraNeed (s : State) (i : Image) (rank : Nat) (r : Fin 2) : Nat :=
  let p := s.job.policy
  let share := if s.hasTerrace then
      s.groupLen (s.heldGroup rank) / max 1 p.g - i.stateBytes rank / max 1 p.g
    else 0
  let fixed := if r.val = 0 then (p.d + 1) * 534848 + 262144 + 16384 else 0
  (i.bank rank r.val).length * 6208 + fixed + (share + 1) / 2

/-- The check of R320 for a rank. -/
def State.survivalCheck (s : State) (i : Image) (rank : Nat) : Option LoadFault :=
  let p := s.job.policy
  firstRefusal ((List.finRange 2).map fun r =>
    capacity 0x0504 r.val (i.slowNeed rank p.d p.g s.caps.hostWindow r.val + s.extraNeed i rank r) (s.capOf (.half r)))

end Sys2Proof.Machine
end

