-- ==== Sys2Proof/Machine/Mover.lean ====
section
/-! DEFINITION. The jet mover: descriptor checks, transfers, transposition, conversion, host windows and faults (R80, R81, R216,
R225, R254 to R259, R281, R282, R292, R445, R448, R464). -/

namespace Sys2Proof.Machine

/-- A mover's device-side end: the source of a load, the destination of a store. -/
def MvDesc.devBase (d : MvDesc) : Nat := if d.srcJs then d.dst else d.src
/-- The stride of the device side. -/
def MvDesc.devStride (d : MvDesc) : Nat := if d.srcJs then d.dstStride else d.srcStride
/-- Does the descriptor write to the device side? -/
def MvDesc.devWrites (d : MvDesc) : Bool := d.srcJs
/-- Bytes of a device row. -/
def MvDesc.devBytes (d : MvDesc) : Nat := if d.srcJs then d.dstBytes else d.rowBytes
/-- Device rows of a descriptor: first address and bytes. -/
def MvDesc.devRows (d : MvDesc) : List Range := (List.range d.rows).map fun i => (d.devBase + i * d.devStride, d.devBytes)

/-- Does the device side lie among the host windows? -/
def MvDesc.host (d : MvDesc) : Bool := decide (hostBase ≤ d.devBase) && decide (d.devBase < hostBase + 2 ^ 44)

/-! ## Host windows (R225; placement in the device range: log 28) -/

/-- The window that holds an offset of the host-window range, with the offset in it: windows lie in the order of their IDs,
each taking LENGTH bytes rounded up to 256. -/
def windowAt : List HostWindow → Nat → Option (HostWindow × Nat)
  | [], _ => none
  | w :: t, o =>
    let n := (w.length + 255) / 256 * 256
    if o < n then (if o < w.length then some (w, o) else none) else windowAt t (o - n)

/-- Insert a window by its ID. -/
def insertWindow (w : HostWindow) : List HostWindow → List HostWindow
  | [] => [w]
  | v :: t => if w.id ≤ v.id then w :: v :: t else v :: insertWindow w t

/-- The loaded image's windows by ID. -/
def State.windows (s : State) : List HostWindow :=
  match s.job.image with
  | some i => i.windows.foldr insertWindow []
  | none => []

/-- The window and the host address of a device address (R225): the slot is that of GLOBAL_STEP. -/
def State.hostAddr (s : State) (a : Nat) : Option (HostWindow × Nat) :=
  (windowAt s.windows (a - hostBase)).map fun p =>
    (p.1, p.1.addr + s.record.globalStep.toNat % max 1 p.1.slots * p.1.stride + p.2)

/-! ## Validity (R80, R254, R257, R292) -/

/-- Does a row stay in its region (R257)? -/
def rowInRegion (a n : Nat) : Bool :=
  match regionOf a with
  | some (g, o) => decide (o + n ≤ g.size)
  | none => true

/-- Destination ranges in the jet store of a load. -/
def MvDesc.jsWrites (d : MvDesc) : List Range := if d.dstJs then d.jsRanges else []

/-- Is SRC_SCALE allowed: it is zero but for plain integers under CONV (R256)? -/
def MvDesc.scaleOk (d : MvDesc) : Bool :=
  d.scale == 0 || (d.conv && ((intFmt? d.srcFmt.toNat).isSome || (intFmt? d.dstFmt.toNat).isSome))

/-- Does every window that a device row touches go the descriptor's way (R257)? -/
def State.dirOk (s : State) (d : MvDesc) : Bool :=
  !d.host || d.devRows.all fun r => (List.range ((r.2 + 31) / 32)).all fun k => match s.hostAddr (r.1 + 32 * k) with
    | some (w, _) => w.out == d.devWrites
    | none => true

/-- Is the descriptor valid under R256, R257 and R292? Reserved bits and TRANSPOSE 3 are invalid too. -/
def State.mvValid (s : State) (j : Fin 160) (d : MvDesc) : Bool :=
  let k := (s.jet j).core
  let slots := (s.job.image.map fun i => s.slotRanges i).getD []
  (d.srcJs != d.dstJs) && d.src % 32 == 0 && d.dst % 32 == 0 && d.rowBytes % 32 == 0 && decide (32 ≤ d.rowBytes) &&
    decide (d.rowBytes ≤ 16777216) && decide (1 ≤ d.rows) && decide (d.rows ≤ 65535) && d.srcStride % 32 == 0 && d.dstStride % 32 == 0 && d.optZero &&
    d.scaleOk && decide (d.transpose ≤ 2) &&
    d.jsRanges.all (fun r => decide (r.1 + r.2 ≤ 0x1400000)) &&
    d.devRows.all (fun r => rowInRegion r.1 r.2) && s.dirOk d &&
    !(d.jsWrites.any fun r => decide (0 < k.code.2) && meets k.code.1 k.code.2 r) &&
    !(d.devWrites && d.devRows.any fun r => slots.any fun q => meets q.1 q.2 r)

/-- Is a transposition valid (R254): every source row lies in the fast tier? -/
def MvDesc.transposeOk (d : MvDesc) : Bool :=
  let r := if d.transpose = 1 then 32 else 64
  let fast (a : Nat) : Bool := match regionOf a with | some (.fast _, _) => true | some (.spread, _) => true | _ => false
  d.transpose == 0 ||
    (d.dstJs && ((List.range d.rows).all fun i => fast (d.src + i * d.srcStride)) &&
      d.rowBytes == 64 && d.rows % r == 0 && d.src % 64 == 0 && d.srcStride % 64 == 0 &&
      decide (64 * d.rows / r ≤ d.dstStride))

/-- May the mover convert (R80), and does it know the formats (R213)? DESIGN CHOICE (log 71): MOVER_CONV_EN keeps its value when PHASE
leaves IDLE, and conversions are refused until PHASE reads IDLE again. -/
def State.convOk (s : State) (j : Fin 160) (d : MvDesc) : Bool :=
  (s.jet j).core.fmt.moverConvEn && s.record.phase == 0 &&
    decide (0 < blockBytes d.srcFmt.toNat) && decide (0 < blockBytes d.dstFmt.toNat)

/-! ## Transfers -/

/-- A mover fault (R259): recorded, and pending at the core as MOVER_FAULT. -/
def State.mvFault (s : State) (j : Fin 160) (tag reason addr : Nat) : State :=
  s.modJet j fun x => { x with
    mvInfo := BitVec.ofNat 32 (tag % 65536 * 65536 + reason), mvAddr := BitVec.ofNat 64 (addr % 2 ^ 48)
    core := { x.core with pendMover := x.core.pendMover ++ [tag] } }

/-- What reading one 32-byte word for a descriptor gives. -/
inductive MvWord where
  | data (d : List Byte)
  | lost
  | unmapped
  | hostError
  deriving DecidableEq, Repr

/-- Read the word at `a` of the source side; `host` is what the host returned for the rows in order, `pos` the place in it. -/
def State.mvRead (s : State) (j : Fin 160) (d : MvDesc) (host : List Byte) (pos a : Nat) : MvWord × State :=
  if d.srcJs then
    let (w, m) := readWord (s.jet j).core.store (a / 32)
    let s := s.modJet j fun x => { x with core := { x.core with store := m } }
    match w with
    | some b => (.data b, s)
    | none => (.lost, s)
  else if d.host then
    match s.hostAddr a with
    | none => (.unmapped, s)
    | some _ => if pos + 32 ≤ host.length then (.data ((host.drop pos).take 32), s) else (.hostError, s)
  else match s.canon a with
    | none => (.unmapped, s)
    | some c =>
      match s.demandRead c with
      | (some b, s) => (.data b, s)
      | (none, s) => (.lost, s)

/-- Read the 64-byte lines that host rows touch (R445). -/
def State.hostReads (s : State) (d : MvDesc) : State :=
  if !d.host || d.devWrites then s
  else d.devRows.foldl (fun s r => match s.hostAddr r.1 with
    | some (_, h) => (List.range ((h % 64 + r.2 + 63) / 64)).foldl (fun s k => s.send (.cxlCache "RdCurr" (h / 64 * 64 + 64 * k) [])) s
    | none => s) s

/-- Write a word of a row to a host window (R445): a line that the row of `len` bytes covers goes whole, when its second half `w` follows
its first half `prev`, and part of a line goes with byte enables. `o` is the word's place in the row. -/
def State.hostWrite (s : State) (b o len : Nat) (prev w : List Byte) : Bool × State :=
  match s.hostAddr b with
  | none => (false, s)
  | some (_, h) =>
    let start := h - o
    let line := h / 64 * 64
    if start ≤ line ∧ line + 64 ≤ start + len then
      (true, if h % 64 = 0 then s else s.send (.cxlCache "ItoMWr" line (prev ++ w)))
    else (true, s.send (.cxlCache "WOWrInv" h w))

/-- Write a whole word at `a` of the destination side, none for the lost pattern; false where it is unmapped. `o`, `len` and `prev` place
it in its row, as `hostWrite` takes them. -/
def State.mvWrite (s : State) (j : Fin 160) (d : MvDesc) (a o len : Nat) (prev : List Byte) (w : Option (List Byte)) : Bool × State :=
  let raw := match w with | some b => encodeWord b | none => lostWord
  if d.dstJs then (true, s.modJet j fun x => { x with core := { x.core with store := putWord x.core.store (a / 32) raw } })
  else if d.host then s.hostWrite a o len prev (w.getD (zeroBytes 32))
  else match s.canon a with
    | none => (false, s)
    | some c => (true, s.tierPut c raw)

/-- Move the words of a plain descriptor, word `i` onward after a word `prev`: the reason and address of the first fault. -/
def State.mvCopy (s : State) (j : Fin 160) (d : MvDesc) (host : List Byte) : Nat → Nat → List Byte → State × Option (Nat × Nat)
  | 0, _, _ => (s, none)
  | n + 1, i, prev =>
    let per := d.rowBytes / 32
    let row := i / per
    let o := i % per * 32
    let a := d.src + row * d.srcStride + o
    let b := d.dst + row * d.dstStride + o
    match s.mvRead j d host (32 * i) a with
    | (.unmapped, s) => (s, some (1, a))
    | (.hostError, s) => (s, some (6, a))
    | (.lost, s) => ((s.mvWrite j d b o d.rowBytes prev none).2, some (4, a))
    | (.data w, s) =>
      match s.mvWrite j d b o d.rowBytes prev (some w) with
      | (false, s) => (s, some (1, b))
      | (true, s) => s.mvCopy j d host n (i + 1) w

/-! ## Transposition (R254, R255) -/

/-- A tile's source rows, none where a word cannot be used, and the reason and address of the first word at fault (R282): reading ends at
a word that is unmapped. -/
def State.tileRows (s : State) (d : MvDesc) : Nat → Nat → List (List Byte) × Option (Nat × Nat) × State
  | 0, _ => ([], none, s)
  | n + 1, i =>
    let a := d.src + i * d.srcStride
    match s.canon a, s.canon (a + 32) with
    | some c, some c' =>
      let (x, s) := s.demandRead c
      let (y, s) := s.demandRead c'
      let bad := if x.isNone then some (4, a) else if y.isNone then some (4, a + 32) else none
      let (r, f, s) := s.tileRows d n (i + 1)
      ((x.getD [] ++ y.getD []) :: r, bad.orElse fun _ => f, s)
    | _, _ => ([], some (1, if (s.canon a).isNone then a else a + 32), s)

/-- Column `k` of a tile whose elements have `w` bytes. -/
def tileColumn (rows : List (List Byte)) (w k : Nat) : List Byte := rows.flatMap fun r => (r.drop (k * w)).take w

/-- Count a tile at the Cistern of the stack that holds its row 0 (R255, R275). -/
def State.countTile (s : State) (a : Nat) : State :=
  match s.canon a with
  | some c =>
    match s.unitAt c with
    | .channel d u => s.modCistern ⟨8 * d.val + u.val / 32, by omega⟩ fun x => { x with xpose := satInc x.xpose }
    | _ => s
  | none => s

/-- Transpose tile by tile (R254, R255). -/
def State.mvTranspose (s : State) (j : Fin 160) (d : MvDesc) : Nat → Nat → State × Option (Nat × Nat)
  | 0, _ => (s, none)
  | n + 1, t =>
    let r := if d.transpose = 1 then 32 else 64
    let w := if d.transpose = 1 then 2 else 1
    match s.tileRows d r (t * r) with
    | (_, some (1, a), s) => (s, some (1, a))
    | (rows, bad, s) =>
      let s := s.countTile (d.src + t * r * d.srcStride)
      let col (k : Nat) : Option (List Byte) := if bad.isSome then none else some (tileColumn rows w k)
      let s := (List.range (64 / w)).foldl (fun s k =>
        let a := d.dst + 64 * t + k * d.dstStride
        let half (i : Nat) : Option (List Byte) := (col k).map fun c => (c.drop (32 * i)).take 32
        (((s.mvWrite j d a 0 64 [] (half 0)).2).mvWrite j d (a + 32) 32 64 [] (half 1)).2) s
      match bad with
      | some f => (s, some f)
      | none => s.mvTranspose j d n (t + 1)

/-! ## Conversion (R81; a row's layout: log 29) -/

/-- The elements of a row of a format, its block exponents after its codes (log 29), with plain integers scaled (R66). -/
def convRead (fmt : Nat) (scale : W32) (bs : List Byte) : List Src :=
  let le (o n : Nat) : Nat := leNat ((bs.drop o).take n)
  let sc := b32.src scale.toNat
  match blkFmt? fmt, intFmt? fmt with
  | some f, _ =>
    let nb := bs.length / (4 * f.width + 1)
    (List.range nb).flatMap fun b =>
      let E := le (nb * 4 * f.width + b) 1
      (List.range 32).map fun k => blkRead f E (unpackCode f.width (bs.drop (b * 4 * f.width)) k)
  | none, some f =>
    (List.range (bs.length * 8 / f.width)).map fun k =>
      let v := intRead f (unpackCode f.width bs k)
      match sc with
      | .fin n m e => .fin (n != decide (v < 0)) (m * v.natAbs) e
      | x => x
  | none, none =>
    if fmt = 0 then (List.range (bs.length / 8)).map fun k => b64.src (le (8 * k) 8)
    else if fmt = 1 then (List.range (bs.length / 4)).map fun k => b32.src (le (4 * k) 4)
    else if fmt = 2 then (List.range (bs.length / 2)).map fun k => jfRead (le (2 * k) 2)
    else
      let P := if fmt = 0x30 then 7 else 3
      let nb := bs.length / (32 * P + 2)
      (List.range nb).flatMap fun b =>
        let F := le (nb * 32 * P + 2 * b) 2
        (List.range 32).map fun k =>
          let v := (List.range P).foldl (fun (a : Nat) i => a * 256 + le (i * nb * 32 + b * 32 + k) 1) 0
          let n := toSigned (8 * P) v
          if F = 0 then .fin false 0 0
          else if F = 0xFFFF then .poison
          else .fin (decide (n < 0)) n.natAbs ((F : Int) - 16384)

/-- Round a source value to binary64 or binary32, nearest-even. -/
def convFloat (f : IFmt) (x : Src) : Nat :=
  match x with
  | .fin n m e => (f.round .even n m e false).1
  | .inf n => f.signed n f.infCode
  | _ => f.qnan

/-- Split a list into blocks of 32, the last filled with zeros (R56). -/
def blocks32 : Nat → List Src → List (List Src)
  | 0, _ => []
  | n + 1, xs => if xs.isEmpty then [] else ((xs.take 32) ++ List.replicate (32 - xs.length) (.fin false 0 0)) :: blocks32 n (xs.drop 32)

/-- A row's elements in the destination format (R81): nearest-even, no rescue, no draws; with the events counted. A plain-integer
destination takes the values unscaled: neither SRC_SCALE nor a tensor's scale divides them (R66; DESIGN CHOICE, log 71). -/
def convWrite (fmt : Nat) (xs : List Src) : List Byte × Ev :=
  match blkFmt? fmt, intFmt? fmt with
  | some f, _ =>
    let bl := (blocks32 xs.length xs).map fun b => encodeBlock f false false [] b
    (bl.flatMap (fun b => packCodes f.width b.2.1) ++ bl.map (fun b => BitVec.ofNat 8 b.1),
     bl.foldl (fun e b => e.add b.2.2) {})
  | none, some f =>
    let cs := xs.map fun x => encodeInt f .even x
    (packCodes f.width (cs.map (·.1)), cs.foldl (fun e c => e.add c.2) {})
  | none, none =>
    if fmt = 0 then (xs.flatMap fun x => leBytes 8 (convFloat b64 x), {})
    else if fmt = 1 then (xs.flatMap fun x => leBytes 4 (convFloat b32 x), {})
    else if fmt = 2 then
      let cs := xs.map fun x => jfRound .even x
      (cs.flatMap fun c => leBytes 2 c.1, cs.foldl (fun e c => e.add c.2) {})
    else
      let P := if fmt = 0x30 then 7 else 3
      let bl := (blocks32 xs.length xs).map fun b => encodeSb P b
      ((List.range P).flatMap (fun i => bl.flatMap fun b => b.2.1.map fun v => BitVec.ofNat 8 (sbPlane P v i)) ++
        bl.flatMap (fun b => leBytes 2 b.1), bl.foldl (fun e b => e.add b.2.2) {})

/-- A row converted, with its events: between binary64 and binary32 a NaN keeps its sign and fraction (R48). -/
def convRow (src dst : Nat) (scale : W32) (bs : List Byte) : List Byte × Ev :=
  let codes (n : Nat) : List Nat := (List.range (bs.length / n)).map fun k => leNat ((bs.drop (n * k)).take n)
  if src = 0 ∧ dst = 1 then ((codes 8).flatMap fun c => leBytes 4 (convertIF b64 b32 .even c).1, {})
  else if src = 1 ∧ dst = 0 then ((codes 4).flatMap fun c => leBytes 8 (convertIF b32 b64 .even c).1, {})
  else if src ≤ 1 ∧ src = dst then (bs, {})
  else convWrite dst (convRead src scale bs)

/-- Read the words of a row. -/
def State.mvRow (s : State) (j : Fin 160) (d : MvDesc) (host : List Byte) (pos a : Nat) : Nat → List Byte → List Byte × Option (Nat × Nat) × State
  | 0, acc => (acc, none, s)
  | n + 1, acc =>
    match s.mvRead j d host pos a with
    | (.unmapped, s) => (acc, some (1, a), s)
    | (.hostError, s) => (acc, some (6, a), s)
    | (.lost, s) => (acc, some (4, a), s)
    | (.data w, s) => s.mvRow j d host (pos + 32) (a + 32) n (acc ++ w)

/-- Write the bytes of a row of `len` bytes from byte `o` on, word by word, the last word filled with zeros (log 29). -/
def State.mvWriteAll (s : State) (j : Fin 160) (d : MvDesc) (a len : Nat) : Nat → Nat → List Byte → List Byte → State × Option (Nat × Nat)
  | 0, _, _, _ => (s, none)
  | n + 1, o, prev, bs =>
    if bs.isEmpty then (s, none)
    else
      let w := fitBytes 32 (bs.take 32)
      match s.mvWrite j d (a + o) o len prev (some w) with
      | (false, s) => (s, some (1, a + o))
      | (true, s) => s.mvWriteAll j d a len n (o + 32) w (bs.drop 32)

/-- Convert row by row (R81). -/
def State.mvConvert (s : State) (j : Fin 160) (d : MvDesc) (host : List Byte) : Nat → Nat → State × Option (Nat × Nat)
  | 0, _ => (s, none)
  | n + 1, i =>
    match s.mvRow j d host (i * d.rowBytes) (d.src + i * d.srcStride) (d.rowBytes / 32) [] with
    | (_, some f, s) =>
      let s := if f.1 = 4 then (s.mvWrite j d (d.dst + i * d.dstStride) 0 d.dstBytes [] none).2 else s
      (s, some f)
    | (bs, none, s) =>
      let (out, ev) := convRow d.srcFmt.toNat d.dstFmt.toNat d.scale bs
      let s := s.modJet j fun x => { x with core := x.core.count ev }
      match s.mvWriteAll j d (d.dst + i * d.dstStride) d.dstBytes out.length 0 [] out with
      | (s, some f) => (s, some f)
      | (s, none) => s.mvConvert j d host n (i + 1)

/-! ## Commands -/

/-- Do two descriptors overlap on the device side with either writing (R258)? -/
def mvOverlap (a b : MvDesc) : Bool :=
  (a.devWrites || b.devWrites) && a.devRows.any fun r => b.devRows.any fun q => meets q.1 q.2 r

/-- Host window line of a canonical slow-tier address (R247): none above the window. -/
def State.windowLine (s : State) (c : Nat) : Option Nat :=
  if c < slowBase then none
  else
    let r := (c - slowBase) / 2 ^ 41 % 2
    let o := (c - slowBase) % 2 ^ 41
    if o < s.caps.hostWindow / 2 then some ((512 * (o / 256) + 256 * r + o % 256) / 64) else none

/-- Window lines a descriptor touches that the host may hold (R448). -/
def State.trackedLines (s : State) (d : MvDesc) : List Nat :=
  s.cxl.filter.filter fun l =>
    let c := windowAddr (64 * l)
    d.devRows.any fun r => meets c 64 r

/-- Issue the snoops a descriptor needs (R448): BISnpInv before a write, BISnpCur before a read. -/
def State.snoopFor (s : State) (ls : List Nat) (write : Bool) : State :=
  let s := ls.foldl (fun s l => s.send (.bisnp l write)) s
  { s with cxl := { s.cxl with
      snoops := s.cxl.snoops ++ ls.filter fun l => !s.cxl.snoops.contains l
      filter := if write then s.cxl.filter.filter fun l => !ls.contains l else s.cxl.filter } }

/-- Carry out a descriptor (R257 to R259): the state and its fault. -/
def State.mvRun (s : State) (j : Fin 160) (d : MvDesc) (host : List Byte) : State × Option (Nat × Nat) :=
  if !s.mvValid j d then (s, some (2, d.addr))
  else if !d.transposeOk then (s, some (5, d.src))
  else if d.conv && !s.convOk j d then (s, some (3, d.addr))
  else if d.conv then (s.hostReads d).mvConvert j d host d.rows 0
  else if d.transpose = 0 then (s.hostReads d).mvCopy j d host (d.rows * (d.rowBytes / 32)) 0 []
  else s.mvTranspose j d (d.rows / (if d.transpose = 1 then 32 else 64)) 0

/-- The mover takes the descriptor at the head of its queue (R258): it waits for an earlier overlapping descriptor, for a
downed host link (R464) and for the host's answers to snoops (R448); `hostData` is what the host returns for a window read. -/
def execMoverDescriptorStart (j : Fin 160) (hostData : List Byte) (s : State) : Out :=
  let x := s.jet j
  .next (match x.mvQueue with
    | [] => s
    | d :: rest =>
      if !(s.keeper.rails && s.keeper.step == 11 && decide (s.keeper.powerState ≤ 1)) then s
      else if x.mvActive.any (mvOverlap d) then s
      else if d.host && s.cxl.rate = 0 then
        s.modJet j fun x => { x with mvHeld := if x.mvHeld.contains d.tag then x.mvHeld else x.mvHeld ++ [d.tag] }
      else if d.host && !s.cxl.enabled then s
      else
        let ls := s.trackedLines d
        if !x.mvSnooped && !ls.isEmpty then
          (s.snoopFor ls d.devWrites).modJet j fun x => { x with mvSnooped := true }
        else if x.mvSnooped && s.cxl.snoops.any (fun l => d.devRows.any fun r => meets (windowAddr (64 * l)) 64 r) then s
        else
          let s := s.modJet j fun x =>
            { x with mvQueue := rest, mvSnooped := false, mvHeld := x.mvHeld.filter (· != d.tag) }
          match s.mvRun j d hostData with
          | (s, none) => s.modJet j fun x => { x with mvActive := x.mvActive ++ [d] }
          | (s, some (reason, a)) => s.mvFault j d.tag reason a)

/-- Remove the first descriptor with a tag. -/
def dropTag (tag : Nat) : List MvDesc → List MvDesc
  | [] => []
  | d :: t => if d.tag = tag then t else d :: dropTag tag t

/-- Every word of a descriptor has reached its destination (R258). Requests for a host window are answered only while the link runs CXL
(R441, R464). -/
def execMoverDescriptorComplete (j : Fin 160) (tag : W16) (s : State) : Out :=
  .next (if ((s.jet j).mvActive.find? fun d => d.tag == tag.toNat).any (·.host) && !s.cxl.enabled then s
    else s.modJet j fun x => { x with mvActive := dropTag tag.toNat x.mvActive })

/-- The descriptor with a tag whose requests the host has not answered: one at work, or the first of the queue on a link that runs no CXL
(R441). -/
def State.hostDesc (s : State) (j : Fin 160) (tag : Nat) : Option MvDesc :=
  let x := s.jet j
  let mine (d : MvDesc) : Bool := d.tag == tag && d.host
  (x.mvActive.find? mine).orElse fun _ => if s.cxl.enabled then none else x.mvQueue.head?.filter mine

/-- A descriptor leaves the mover. -/
def Jet.dropDesc (x : Jet) (d : MvDesc) : Jet :=
  if x.mvActive.contains d then { x with mvActive := x.mvActive.erase d }
  else { x with mvQueue := x.mvQueue.erase d, mvHeld := x.mvHeld.filter (· != d.tag), mvSnooped := false }

/-- A CXL.cache request has had no completion for 50 ms (R445): its descriptor faults with REASON 0x06. Which word's request it was, the
command does not say: a free value among the device side's words (R282, log 5). -/
def execCxlCacheTimeout (j : Fin 160) (tag : W16) (s : State) : Out :=
  .next (match if s.cxl.rate = 0 then none else s.hostDesc j tag.toNat with
    | some d =>
      let (v, s) := s.fresh
      let per := max 1 (d.devBytes / 32)
      let w := v.toNat % (d.rows * per)
      (s.modJet j fun x => x.dropDesc d).mvFault j tag.toNat 6
        (d.devBase + w / per * d.devStride + w % per * 32)
    | none => s)

/-- A held descriptor outlasts LINK_HOLD (R464): one that waits in the queue, or one whose requests were in flight when the link went
down. -/
def execLinkHoldExpiry (j : Fin 160) (tag : W16) (s : State) : Out :=
  .next (if s.cxl.rate != 0 then s
    else
      let x := s.jet j
      let held := (x.mvActive.filter (·.host)) ++ x.mvQueue.filter fun d => x.mvHeld.contains d.tag
      match held.find? fun d => d.tag == tag.toNat with
      | some d => (s.modJet j fun x => x.dropDesc d).mvFault j tag.toNat 6 d.devBase
      | none => s)

end Sys2Proof.Machine
end

