-- ==== Sys2Proof/Machine/VecFn.lean ====
section
/-! DEFINITION. The functions of vector elements (R54, R55, R165 to R167, R179, R182) and the run of an instruction over its
elements (R160, R193 to R196). -/

namespace Sys2Proof.Machine

/-- Rounding of a JF16 result under FRM, with the draw it takes under FRM 5 (R179, R186). -/
def Core.jfRnd (k : Core) (lane : Nat) : Rnd × Core :=
  if k.frm = 5 then let (o, k') := k.draw lane; (.stoch (draw16 o), k') else (Rnd.ofFrm k.frm, k)

/-- Does F5 name a comparison (R165)? -/
def isCmp (f5 : Nat) : Bool := f5 == 9 || f5 == 10 || f5 == 11
/-- Does F5 take one operand only? -/
def isUnary (f5 : Nat) : Bool := f5 == 4 || f5 == 7 || f5 == 8

/-- May F5 go with TYPE (R163, R165, R166)? -/
def fpOk (t f5 : Nat) : Bool := decide (t ≤ 2) && decide (f5 ≤ 0x0B) && !(t == 2 && (f5 == 3 || f5 == 4))

/-- The all-ones mask of a comparison that is true (R165). -/
def maskOf (w : Nat) (b : Bool) : Nat := if b then 2 ^ w - 1 else 0

/-- A binary64 or binary32 function F5 (R165). -/
def fpBinary (f : IFmt) (rnd : Rnd) (f5 a b : Nat) : Nat × IFlags :=
  let m (p : Bool × IFlags) : Nat × IFlags := (maskOf f.width p.1, p.2)
  match f5 with
  | 0 => f.add rnd false a b
  | 1 => f.add rnd true a b
  | 2 => f.mul rnd a b
  | 3 => f.div rnd a b
  | 4 => f.sqrt rnd a
  | 5 => f.minMax false a b
  | 6 => f.minMax true a b
  | 7 => (a % f.signBit, 0)
  | 8 => (if f.signBit ≤ a then a - f.signBit else a + f.signBit, 0)
  | 9 => m (f.cmpEq a b)
  | 10 => m (f.cmpLt false a b)
  | _ => m (f.cmpLt true a b)

/-- A JF16 function F5 rounded by `rnd` (R53, R54). -/
def fpJf (rnd : Rnd) (f5 a b : Nat) : Nat × Ev :=
  let p (c : Nat) : Bool := (jfRead c).isPoison
  let one := 0x3E00
  if isCmp f5 then
    if p a || p b then (0, { poison := 1 })
    else (maskOf 16 (if f5 = 9 then a == b else if f5 = 10 then jfLt a b else !jfLt b a), {})
  else if p a || (!isUnary f5 && p b) then (jfPoison, { poison := 1 })
  else match f5 with
    | 0 => jfFma rnd false false one a b
    | 1 => jfFma rnd false true one a b
    | 2 => jfFma rnd false false a b 0
    | 5 => (if jfLt b a then b else a, {})
    | 6 => (if jfLt a b then b else a, {})
    | 7 => (a % 0x8000, {})
    | _ => (if a = 0 then 0 else (a + 0x8000) % 0x10000, {})

/-- One element of VFP or FSC, its draw from `lane` (R186). -/
def fpElem (t f5 lane : Nat) (k : Core) (a b : Nat) : ElemOut :=
  if t = 2 then
    let (rnd, k') := if isCmp f5 then (Rnd.even, k) else k.jfRnd lane
    let (v, ev) := fpJf rnd f5 a b
    { val := v, ev := ev, core := k' }
  else
    let (v, fl) := fpBinary (typeFmt t) (Rnd.ofFrm k.frm) f5 a b
    { val := v, fl := fl, core := k }

/-- One element of a fused multiply-add `± a × b ± c` (R163, R179). -/
def fmaElem (t lane : Nat) (negP negC : Bool) (k : Core) (a b c : Nat) : ElemOut :=
  if t = 2 then
    let (rnd, k') := k.jfRnd lane
    let (v, ev) := jfFma rnd negP negC a b c
    { val := v, ev := ev, core := k' }
  else
    let (v, fl) := (typeFmt t).fma (Rnd.ofFrm k.frm) negP negC a b c
    { val := v, fl := fl, core := k }

/-- A VINT function (R165); none for a reserved F5. -/
def intFn (w f5 a b : Nat) : Option Nat :=
  let sa := toSigned w a
  let sb := toSigned w b
  let sh := b % w
  match f5 with
  | 0x00 => some ((a + b) % 2 ^ w)
  | 0x01 => some ((a + 2 ^ w - b) % 2 ^ w)
  | 0x02 => some (a * b % 2 ^ w)
  | 0x03 => some (a &&& b)
  | 0x04 => some (a ||| b)
  | 0x05 => some (a ^^^ b)
  | 0x06 => some ((a <<< sh) % 2 ^ w)
  | 0x07 => some (a >>> sh)
  | 0x08 => some (ofSigned w (sa / 2 ^ sh))
  | 0x09 => some (if sb < sa then b else a)
  | 0x0A => some (if sa < sb then b else a)
  | 0x0B => some (min a b)
  | 0x0C => some (max a b)
  | 0x0D => some (maskOf w (a == b))
  | 0x0E => some (maskOf w (decide (sa < sb)))
  | 0x0F => some (maskOf w (decide (a < b)))
  | _ => none

/-- The rounding of VCVT by RND, FRM and the destination (R182), with its draw. -/
def cvtRnd (rndField dtype lane : Nat) (k : Core) : Rnd × Core :=
  let stoch := dtype == 2 && (rndField == 5 || (rndField == 6 && k.frm == 5))
  if stoch then let (o, k') := k.draw lane; (.stoch (draw16 o), k')
  else (Rnd.ofFrm (if rndField = 6 then k.frm else rndField), k)

/-- Does VCVT draw (R182)? -/
def cvtDraws (rndField dtype : Nat) (k : Core) : Bool := dtype == 2 && (rndField == 5 || (rndField == 6 && k.frm == 5))

/-- One element of VCVT (R182). -/
def cvtElem (st dt rndField lane : Nat) (k : Core) (a : Nat) : ElemOut :=
  let (rnd, k') := cvtRnd rndField dt lane k
  let sw := typeWidth st
  let dw := typeWidth dt
  if 3 ≤ st then
    let v := toSigned sw a
    if 3 ≤ dt then { val := ofSigned dw v, core := k' }
    else if dt = 2 then
      let (c, ev) := jfRound rnd (.fin (decide (v < 0)) v.natAbs 0)
      { val := c, ev := ev, core := k' }
    else
      let (c, fl) := intToIF (typeFmt dt) rnd v
      { val := c, fl := fl, core := k' }
  else if st = 2 then
    if dt = 2 then let (c, ev) := jfRound rnd (jfRead a); { val := c, ev := ev, core := k' }
    else if dt < 2 then { val := jfToIF (typeFmt dt) a, core := k' }
    else
      let (v, fl) := ifToInt b64 rnd dw (jfToIF b64 a)
      { val := ofSigned dw v, fl := fl, core := k' }
  else
    if dt = 2 then let (c, ev) := jfRound rnd ((typeFmt st).src a); { val := c, ev := ev, core := k' }
    else if dt < 2 then
      let (c, fl) := convertIF (typeFmt st) (typeFmt dt) rnd a
      { val := c, fl := fl, core := k' }
    else
      let (v, fl) := ifToInt (typeFmt st) rnd dw a
      { val := ofSigned dw v, fl := fl, core := k' }

/-- A source as packed elements of TYPE 0, 1 or 2 (R183, R185). -/
def typeSrc (t c : Nat) : Src := if t = 2 then jfRead c else (typeFmt t).src c

/-! ## Running an instruction over its elements -/

/-- Run `n` elements of width `w` into a destination of `nd` registers from element JT_VX_INDEX on: on a trap the lower
elements are written and the cause is raised (R193); at the end the rest of the destination is zero (R161) and the
instruction is done (R196). -/
def State.runVec (s : State) (c : CoreId) (d : BitVec 5) (nd w n : Nat) (fn : Core → Nat → ElemOut) : State :=
  let k := s.core c
  let start := min k.resume n
  match runElems w fn (n - start) start k (groupVal k d nd) with
  | (acc, k', none) => s.putCore c (putGroup k' d (acc % 2 ^ (w * n)) nd).vdone
  | (acc, k', some (i, fl)) => (s.putCore c (putGroup k' d acc nd)).raiseExc c (trapExc k' fl i)

/-- As `runVec`, for an in-place conversion between widths: it starts at element 0, writes nothing on a trap, and leaves
JT_VX_INDEX 0 (R182, R196). -/
def State.runVecWhole (s : State) (c : CoreId) (d : BitVec 5) (nd w n : Nat) (fn : Core → Nat → ElemOut) : State :=
  let k := s.core c
  match runElems w fn n 0 k (groupVal k d nd) with
  | (acc, k', none) => s.putCore c (putGroup k' d (acc % 2 ^ (w * n)) nd).vdone
  | (_, k', some (i, fl)) =>
    (s.putCore c { k with flags := k'.flags }).raiseExc c { trapExc k fl i with index := 0 }

/-- Raise the first cause of a list, or go on. -/
def State.checked (s : State) (c : CoreId) (word : Nat) (checks : List (Bool × Nat)) (body : State → State) : State :=
  match checks.find? (fun p => !p.1) with
  | some p => s.raiseExc c (illegal word p.2)
  | none => body s

end Sys2Proof.Machine
end

