-- ==== Sys2Proof/Machine/Vector.lean ====
section
/-! DEFINITION. Vector rill instructions and FSC (R158 to R196, R609). -/

namespace Sys2Proof.Machine

/-! ## Scalar floating point -/

/-- FSC (R163, R165 to R167, R186). -/
def execFsc (c : CoreId) (f : RFields) (s : State) : Out :=
  s.rill c true fun s =>
    let k := s.core c
    let t := fld f 3 1
    let f5 := fld f 10 6
    let draws := t == 2 && !isCmp f5 && k.frm == 5
    s.checked c (rillWord 0x0F f)
      [((fpOk t f5 || (f5 == 0x1F && decide (t ≤ 2))) && fld f 5 4 == 0 && fld f 0 0 == 0, dEnc),
       (!(draws && k.inHandler), dDraw)] fun s =>
      let w := typeWidth t
      let a := (k.rs f.a).toNat % 2 ^ w
      let b := (k.rs f.b).toNat % 2 ^ w
      if 1 ≤ k.resume then s.putCore c k.vdone
      else
        let e := if f5 = 0x1F then fmaElem t k.slane false false k a b ((k.rs f.d).toNat % 2 ^ w) else fpElem t f5 k.slane k a b
        if k.traps e.fl ≠ 0 then s.raiseExc c (trapExc k e.fl 0)
        else
          let k' := ((e.core.accrue e.fl).count e.ev).ws f.d (BitVec.ofNat 64 e.val)
          let k' := if draws && k.ctrl.getLsbD 22 then
              { k' with ctrl := setBits k'.ctrl 21 16 ((k.slane + 1) % 64) } else k'
          s.putCore c k'.vdone

/-! ## Loads and stores -/

/-- The address of VLD and VST. -/
def vldAddr (k : Core) (f : RFields) : Nat := effAddr k f.a (sext 14 (fld f 13 0))

/-- The bytes that VLD or VST can move from byte `start` on, and the cause that stops it (R170, R193). -/
def moveSpan (c : CoreId) (k : Core) (store : Bool) (a n start : Nat) : Nat × Option Exc :=
  match accessFault c k store a (n - start) start with
  | some (i, e) => (i, some e)
  | none => (n, none)

/-- VLD on a core that executes (R170, R196). -/
def vldBody (c : CoreId) (f : RFields) (s : State) : State :=
  let k := s.core c
  let g := groupSize (fld f 15 14)
  let n := 512 * g
  let a := vldAddr k f
  s.checked c (rillWord 0x10 f) [(baseOk f.d g, dBase)] fun s =>
    let start := min k.resume n
    let (stop, acc) := moveSpan c k false a n start
    if s.hazard c false (a + start) (stop - start) then s.hold c .hazard (.vld c f)
    else
      let (stop, exc) := match wordFault k a (stop - start) start with
        | some (i, e) => (i, some e)
        | none => (stop, acc)
      let (bs, m) := loadBytes k.store (a + start) (stop - start)
      let new := leNat (bs.map fun b => b.getD 0) * 2 ^ (8 * start)
      let old := groupVal k f.d g
      let v := old % 2 ^ (8 * start) + new + old / 2 ^ (8 * stop) * 2 ^ (8 * stop)
      let k' := putGroup { k with store := m } f.d v g
      match exc with
      | some e => (s.putCore c k').raiseExc c e
      | none => s.putCore c k'.vdone

/-- VLD (R170). -/
def execVld (c : CoreId) (f : RFields) (s : State) : Out := s.rill c true (vldBody c f)

/-- VST on a core that executes (R170, R196). -/
def vstBody (c : CoreId) (f : RFields) (s : State) : State :=
  let k := s.core c
  let g := groupSize (fld f 15 14)
  let n := 512 * g
  let a := vldAddr k f
  s.checked c (rillWord 0x11 f) [(baseOk f.d g, dBase)] fun s =>
    let start := min k.resume n
    let (stop, exc) := moveSpan c k true a n start
    if s.hazard c true (a + start) (stop - start) then s.hold c .hazard (.vst c f)
    else
      let bs := leBytes (stop - start) (groupVal k f.d g / 2 ^ (8 * start))
      let k' : Core := { k with store := storeBytes k.store (a + start) bs }
      match exc with
      | some e => (s.putCore c k').raiseExc c e
      | none => s.putCore c k'.vdone

/-- VST (R170). -/
def execVst (c : CoreId) (f : RFields) (s : State) : Out := s.rill c true (vstBody c f)

/-! ## Floating point -/

/-- VFP (R163, R165, R166, R179, R186). -/
def execVfp (c : CoreId) (f : RFields) (s : State) : Out :=
  s.rill c true fun s =>
    let k := s.core c
    let t := fld f 3 1
    let f5 := fld f 10 6
    let g := groupSize (fld f 5 4)
    let sc := fld f 0 0 == 1
    let vb := !sc && !isUnary f5
    let draws := t == 2 && !isCmp f5 && k.frm == 5
    s.checked c (rillWord 0x12 f)
      [(fpOk t f5, dEnc), (baseOk f.d g && baseOk f.a g && (!vb || baseOk f.b g), dBase),
       (inPlaceOk f.d g f.a g && (!vb || inPlaceOk f.d g f.b g), dOverlap), (!(draws && k.inHandler), dDraw)] fun s =>
      let w := typeWidth t
      let A : Oper := ⟨w, groupVal k f.a g, false⟩
      let B : Oper := if sc then ⟨w, (k.rs f.b).toNat, true⟩ else ⟨w, groupVal k f.b g, false⟩
      s.runVec c f.d g w (g * (4096 / w)) fun k i => fpElem t f5 (i % 64) k (A.at i) (B.at i)

/-- The three fused multiply-adds (R163): VD = ± VA × VB ± VC. -/
def State.vfmaOp (s : State) (c : CoreId) (op : Nat) (negP negC : Bool) (f : RFields) : Out :=
  s.rill c true fun s =>
    let k := s.core c
    let t := fld f 3 1
    let g := groupSize (fld f 5 4)
    let sc := fld f 0 0 == 1
    let vc : BitVec 5 := BitVec.ofNat 5 (fld f 10 6)
    let draws := t == 2 && k.frm == 5
    s.checked c (rillWord op f)
      [(decide (t ≤ 2), dEnc), (baseOk f.d g && baseOk f.a g && (sc || baseOk f.b g) && baseOk vc g, dBase),
       (inPlaceOk f.d g f.a g && (sc || inPlaceOk f.d g f.b g) && inPlaceOk f.d g vc g, dOverlap),
       (!(draws && k.inHandler), dDraw)] fun s =>
      let w := typeWidth t
      let A : Oper := ⟨w, groupVal k f.a g, false⟩
      let B : Oper := if sc then ⟨w, (k.rs f.b).toNat, true⟩ else ⟨w, groupVal k f.b g, false⟩
      let C : Oper := ⟨w, groupVal k vc g, false⟩
      s.runVec c f.d g w (g * (4096 / w)) fun k i => fmaElem t (i % 64) negP negC k (A.at i) (B.at i) (C.at i)

/-- VFMA: VA × VB + VC (R163). -/
def execVfma (c : CoreId) (f : RFields) (s : State) : Out := s.vfmaOp c 0x13 false false f
/-- VFMS: VA × VB − VC (R163). -/
def execVfms (c : CoreId) (f : RFields) (s : State) : Out := s.vfmaOp c 0x14 false true f
/-- VFNMA: −(VA × VB) + VC (R163). -/
def execVfnma (c : CoreId) (f : RFields) (s : State) : Out := s.vfmaOp c 0x15 true false f

/-- VINT (R163, R165). -/
def execVint (c : CoreId) (f : RFields) (s : State) : Out :=
  s.rill c true fun s =>
    let k := s.core c
    let t := fld f 3 1
    let f5 := fld f 10 6
    let g := groupSize (fld f 5 4)
    let sc := fld f 0 0 == 1
    s.checked c (rillWord 0x16 f)
      [(decide (3 ≤ t) && decide (t ≤ 6) && decide (f5 ≤ 0x0F), dEnc),
       (baseOk f.d g && baseOk f.a g && (sc || baseOk f.b g), dBase),
       (inPlaceOk f.d g f.a g && (sc || inPlaceOk f.d g f.b g), dOverlap)] fun s =>
      let w := typeWidth t
      let A : Oper := ⟨w, groupVal k f.a g, false⟩
      let B : Oper := if sc then ⟨w, (k.rs f.b).toNat, true⟩ else ⟨w, groupVal k f.b g, false⟩
      s.runVec c f.d g w (g * (4096 / w)) fun k i => { val := (intFn w f5 (A.at i) (B.at i)).getD 0, core := k }

/-! ## Reductions -/

/-- A node of a reduction: its value, flags and events so far, and the node that trapped with its flags (R180). -/
structure RedNode where
  val : Nat
  fl : IFlags := 0
  ev : Ev := {}
  trap : Option (Nat × IFlags) := none
  deriving DecidableEq, Repr

/-- The tree of R130 over leaves from index `i` on, each node an addition `add` (R135, R180). -/
def redTree (te : IFlags) (add : Nat → Nat → Nat × IFlags × Ev) : Nat → Nat → List Nat → RedNode
  | 0, _, l => { val := l.headD 0 }
  | fuel + 1, i, l =>
    if l.length ≤ 1 then { val := l.headD 0 }
    else
      let p := 2 ^ Nat.log2 (l.length - 1)
      let a := redTree te add fuel i (l.take p)
      let b := redTree te add fuel (i + p) (l.drop p)
      let (v, fl, ev) := add a.val b.val
      { val := v, fl := a.fl ||| b.fl ||| fl, ev := (a.ev.add b.ev).add ev,
        trap := a.trap.orElse fun _ => b.trap.orElse fun _ => if fl &&& te = 0 then none else some (i, fl) }

/-- One addition of a SUM (R135, R180). -/
def redAdd (t : Nat) (a b : Nat) : Nat × IFlags × Ev :=
  if 3 ≤ t then ((a + b) % 2 ^ 64, 0, {})
  else if t = 2 then let (v, ev) := fpJf .even 0 a b; (v, 0, ev)
  else let (v, fl) := (typeFmt t).add .even false a b; (v, fl, {})

/-- Does `b` win over `a` (R180)? Ties go to the lower index, which is `a`'s. -/
def redWins (t : Nat) (max : Bool) (a b : Nat) : Bool :=
  let w := typeWidth t
  let lt (x y : Nat) : Bool :=
    if 3 ≤ t then decide (toSigned w x < toSigned w y)
    else if t = 2 then jfLt x y
    else
      let f := typeFmt t
      f.lt x y || (!f.lt y x && decide (f.signBit ≤ x) && !decide (f.signBit ≤ y))
  if max then lt a b else lt b a

/-- The winner of MAX or MIN with its index (R180). -/
def redWinner (t : Nat) (max : Bool) : List (Nat × Nat) → Option (Nat × Nat)
  | [] => none
  | (i, v) :: l =>
    match redWinner t max l with
    | none => some (i, v)
    | some (j, w) => if redWins t max v w then some (j, w) else some (i, v)

/-- Is an element left out of MAX and MIN (R180)? -/
def redSkips (t v : Nat) : Bool :=
  if 3 ≤ t then false else if t = 2 then (jfRead v).isPoison else (typeFmt t).isNan v

/-- A scalar result of VRED (R180). -/
def redScalar (t : Nat) (v : Nat) : W64 := if 3 ≤ t then sext (typeWidth t) v else BitVec.ofNat 64 v

/-- VRED (R163, R180, R196). -/
def execVred (c : CoreId) (f : RFields) (s : State) : Out :=
  s.rill c true fun s =>
    let k := s.core c
    let t := fld f 3 1
    let fn := fld f 10 6
    let g := groupSize (fld f 5 4)
    s.checked c (rillWord 0x17 f)
      [(decide (t ≤ 6) && decide (fn ≤ 2) && f.b == 0 && fld f 0 0 == 0 && (fn == 0 || f.d != 31), dEnc),
       (baseOk f.a g, dBase)] fun s =>
      let w := typeWidth t
      let v := groupVal k f.a g
      let es := (List.range (g * (4096 / w))).map fun i => elemOf w v i
      if fn = 0 then
        let leaves := if 3 ≤ t then es.map fun e => (sext w e).toNat else es
        let r := redTree k.te (redAdd t) 13 0 leaves
        match r.trap with
        | some (i, fl) => s.raiseExc c { trapExc k fl i with index := 0 }
        | none => s.putCore c (((k.accrue r.fl).count r.ev).ws f.d (BitVec.ofNat 64 r.val)).vdone
      else
        let ies := es.zipIdx.map fun p => (p.2, p.1)
        let snan (e : Nat) : Bool := decide (t < 2) && (typeFmt t).isSnan e
        let fl : IFlags := if es.any snan then fNV else 0
        if k.traps fl ≠ 0 then
          s.raiseExc c { trapExc k fl ((ies.find? fun p => snan p.2).elim 0 (·.1)) with index := 0 }
        else
          let ev : Ev := { poison := if t = 2 then (es.filter fun e => (jfRead e).isPoison).length else 0 }
          let (x, i) : W64 × Nat := match redWinner t (fn == 1) (ies.filter fun p => !redSkips t p.2) with
            | some (i, e) => (redScalar t e, i)
            | none => (BitVec.ofNat 64 (if t = 2 then jfPoison else (typeFmt t).qnan), 0xFFFFFFFF)
          s.putCore c ((((k.accrue fl).count ev).ws f.d x).ws (f.d + 1) (BitVec.ofNat 64 i)).vdone

/-! ## Conversions -/

/-- VCVT (R163, R182). -/
def execVcvt (c : CoreId) (f : RFields) (s : State) : Out :=
  s.rill c true fun s =>
    let k := s.core c
    let dt := fld f 15 13
    let st := fld f 3 1
    let rnd := fld f 10 8
    let g := fld f 5 4
    let dw := typeWidth dt
    let sw := typeWidth st
    let wide := max dw sw
    let nd := regsOf g dw wide
    let ns := regsOf g sw wide
    s.checked c (rillWord 0x18 f)
      [(decide (dt ≤ 6) && decide (st ≤ 6) && decide (rnd ≤ 6) && !(rnd == 5 && dt != 2) && fld f 12 11 == 0 &&
          fld f 7 6 == 0 && fld f 0 0 == 0, dEnc),
       (baseOk f.d nd && baseOk f.a ns, dBase), (inPlaceOk f.d nd f.a ns, dOverlap),
       (!(cvtDraws rnd dt k && k.inHandler), dDraw)] fun s =>
      let v := groupVal k f.a ns
      let fn := fun k i => cvtElem st dt rnd (i % 64) k (elemOf sw v i)
      let n := groupSize g * (4096 / wide)
      if f.d = f.a ∧ dw ≠ sw then s.runVecWhole c f.d nd dw n fn else s.runVec c f.d nd dw n fn

/-- Draws of elements `i` to `i + n - 1`, element k from vector lane k mod 64 (R186). -/
def drawList : Core → Nat → Nat → List Nat × Core
  | k, _, 0 => ([], k)
  | k, i, n + 1 =>
    let (o, k1) := k.draw (i % 64)
    let (l, k2) := drawList k1 (i + 1) n
    (draw16 o :: l, k2)

/-- Encode block `b` of 32 elements for VCVTB: its codes put into the value so far (R60, R183). Elements below `start` are
neither recomputed nor redrawn (R196). -/
def cvtbBlock (f : BlkFmt) (stoch : Bool) (src : Nat → Src) (start b : Nat) (acc : Nat × Nat × Core) : Nat × Nat × Core :=
  let (v, ex, k) := acc
  if 32 * b + 32 ≤ start then acc
  else
    let skip := start - 32 * b
    let (rs, k') := drawList k (32 * b + skip) (32 - skip)
    let (E, codes, ev) := encodeBlockFrom f stoch true skip (List.replicate skip 0 ++ rs) ((List.range 32).map fun i => src (32 * b + i))
    let v' := (codes.zipIdx.drop skip).foldl (fun v p => putElem f.width v (32 * b + p.2) p.1) v
    (v', putElem 8 ex b E, k'.count ev)

/-- VCVTB (R163, R183). -/
def execVcvtb (c : CoreId) (f : RFields) (s : State) : Out :=
  s.rill c true fun s =>
    let k := s.core c
    let t := fld f 3 1
    let stoch := fld f 6 6 == 1
    let g := fld f 5 4
    let sw := typeWidth t
    let code := (dfmtCode (fld f 10 7)).getD 0
    let dw := destWidth code
    let nd := regsOf g dw sw
    let ns := groupSize g
    let blk := blkFmt? code
    let draws := blk.isSome || stoch
    s.checked c (rillWord 0x19 f)
      [(decide (t ≤ 2) && (dfmtCode (fld f 10 7)).isSome && fld f 0 0 == 0, dEnc),
       (baseOk f.d nd && baseOk f.a ns, dBase),
       (inPlaceOk f.d nd f.a ns &&
          (blk.isNone || (!overlaps f.b.toNat 1 f.d.toNat nd && !overlaps f.b.toNat 1 f.a.toNat ns)), dOverlap),
       (!(draws && k.inHandler), dDraw)] fun s =>
      let v := groupVal k f.a ns
      let n := ns * (4096 / sw)
      let src (i : Nat) : Src := typeSrc t (elemOf sw v i)
      let start := min k.resume n
      match blk, intFmt? code with
      | some bf, _ =>
        let (x, ex, k') := (List.range (n / 32)).foldl (fun acc b => cvtbBlock bf stoch src start b acc)
          (groupVal k f.d nd, (k.rv f.b).toNat, k)
        let k' := putGroup k' f.d (x % 2 ^ (dw * n)) nd
        s.putCore c (k'.wv f.b (BitVec.ofNat 4096 (ex % 2 ^ (8 * (n / 32))))).vdone
      | none, some fi =>
        let factor := (k.rs f.b).toNat % 2 ^ 32
        s.runVec c f.d nd dw n fun k i =>
          let (rnd, k') := if stoch then (let (o, k') := k.draw (i % 64); (Rnd.stoch (draw16 o), k')) else (Rnd.even, k)
          let (x, ev) := encodeInt fi rnd (srcMul (src i) factor)
          { val := x, ev := ev, core := k' }
      | none, none => s

/-- A source as a binary result; poison gives the default quiet NaN without a flag (R55, R184). -/
def srcToIF (f : IFmt) (x : Src) : Nat × IFlags :=
  match x with
  | .poison => (f.qnan, 0)
  | .inf n => (f.signed n f.infCode, 0)
  | .fin n m e => f.round .even n m e false

/-- VCVTW (R163, R184). -/
def execVcvtw (c : CoreId) (f : RFields) (s : State) : Out :=
  s.rill c true fun s =>
    let k := s.core c
    let t := fld f 3 1
    let stoch := fld f 6 6 == 1
    let g := fld f 5 4
    let dw := typeWidth t
    let code := (dfmtCode (fld f 10 7)).getD 0
    let sw := destWidth code
    let nd := groupSize g
    let ns := regsOf g sw dw
    let blk := blkFmt? code
    let draws := stoch && t == 2 && code == 0x10
    s.checked c (rillWord 0x1A f)
      [(decide (t ≤ 2) && (dfmtCode (fld f 10 7)).isSome && fld f 0 0 == 0, dEnc),
       (baseOk f.d nd && baseOk f.a ns, dBase),
       (inPlaceOk f.d nd f.a ns && (blk.isNone || inPlaceOk f.d nd f.b 1), dOverlap),
       (!(draws && k.inHandler), dDraw)] fun s =>
      let v := groupVal k f.a ns
      let ex := (k.rv f.b).toNat
      let scale := (k.rs f.b).toNat % 2 ^ 32
      let src (i : Nat) : Src :=
        match blk, intFmt? code with
        | some bf, _ => blkRead bf (elemOf 8 ex (i / 32)) (elemOf sw v i)
        | none, some fi =>
          let x := intRead fi (elemOf sw v i)
          srcMul (.fin (decide (x < 0)) x.natAbs 0) scale
        | none, none => .poison
      let n := nd * (4096 / dw)
      let start := min k.resume n
      let fn (k : Core) (i : Nat) : ElemOut :=
        if t = 2 then
          let (rnd, k') := if draws then (let (o, k') := k.draw (i % 64); (Rnd.stoch (draw16 o), k')) else (Rnd.even, k)
          match src i with
          | .poison => { val := jfPoison, core := k' }
          | x => let (y, ev) := jfRound rnd x; { val := y, ev := ev, core := k' }
        else
          let (y, fl) := srcToIF (typeFmt t) (src i)
          { val := y, fl := fl, core := k }
      let (acc, k') := (List.range (n - start)).foldl (fun (p : Nat × Core) j =>
        let e := fn p.2 (start + j)
        (putElem dw p.1 (start + j) e.val, (e.core.accrue e.fl).count e.ev)) (groupVal k f.d nd, k)
      s.putCore c (putGroup k' f.d acc nd).vdone

/-- What a resumed VCVTSB starts from (R185, R196): the planes' bytes of the elements below `start`, and zero elsewhere. -/
def sbKept (P n start old : Nat) : Nat :=
  (List.range P).foldl (fun x i => x + old / 2 ^ (8 * (i * n)) % 2 ^ (8 * start) * 2 ^ (8 * (i * n))) 0

/-- VCVTSB (R70, R163, R185): plane i at byte offset i × 64 G or i × 128 G, F values in VB. -/
def execVcvtsb (c : CoreId) (f : RFields) (s : State) : Out :=
  s.rill c true fun s =>
    let k := s.core c
    let t := fld f 3 1
    let g := groupSize (fld f 5 4)
    s.checked c (rillWord 0x1B f)
      [(decide (t ≤ 1) && fld f 10 6 == 0 && fld f 0 0 == 0, dEnc), (baseOk f.d g && baseOk f.a g, dBase),
       (inPlaceOk f.d g f.a g && !overlaps f.b.toNat 1 f.d.toNat g && !overlaps f.b.toNat 1 f.a.toNat g, dOverlap)]
      fun s =>
      let w := typeWidth t
      let P := if t = 0 then 7 else 3
      let n := g * (4096 / w)
      let v := groupVal k f.a g
      let start := min k.resume n
      let step (acc : Nat × Nat × Ev) (b : Nat) : Nat × Nat × Ev :=
        let (x, ex, ev) := acc
        if 32 * b + 32 ≤ start then acc
        else
          let skip := start - 32 * b
          let (F, ns, e) := encodeSbFrom P skip ((List.range 32).map fun i => typeSrc t (elemOf w v (32 * b + i)))
          let x' := (ns.zipIdx.drop skip).foldl (fun x p => (List.range P).foldl (fun x i =>
            putElem 8 x (i * n + 32 * b + p.2) (sbPlane P p.1 i)) x) x
          (x', putElem 16 ex b F, ev.add e)
      let (x, ex, ev) := (List.range (n / 32)).foldl step (sbKept P n start (groupVal k f.d g),
        (k.rv f.b).toNat % 2 ^ (16 * (start / 32)), {})
      s.putCore c (((putGroup k f.d x g).wv f.b (BitVec.ofNat 4096 ex)).count ev).vdone

/-! ## Random numbers and moves -/

/-- VRAND (R163, R189). -/
def execVrand (c : CoreId) (f : RFields) (s : State) : Out :=
  s.rill c true fun s =>
    let k := s.core c
    let fn := fld f 10 6
    let g := groupSize (fld f 5 4)
    s.checked c (rillWord 0x1C f)
      [(f.a == 0 && f.b == 0 && decide (fn ≤ 2) && fld f 3 0 == 0, dEnc), (baseOk f.d g, dBase), (!k.inHandler, dDraw)]
      fun s =>
      let w := if fn = 2 then 32 else 64
      s.runVec c f.d g w (g * (4096 / w)) fun k i =>
        let (o, k') := k.draw (i % 64)
        let v := match fn with
          | 0 => o.toNat
          | 1 => (b64.round .even false (o.toNat >>> 11) (-53) false).1
          | _ => (b32.round .even false (o.toNat >>> 40) (-24) false).1
        { val := v, core := k' }

/-- The word of a VMOV instruction. -/
def vmovWord (d a b : BitVec 5) (f5 : Nat) (lo : BitVec 6) : Nat :=
  rillWord 0x1D ⟨d, a, b, BitVec.ofNat 11 (f5 * 64 + lo.toNat)⟩

/-- Are the low bits of a VMOV word ones that R163 lists? -/
def vmovOk (lo : BitVec 6) : Bool := bits lo 5 4 == 0 && bits lo 0 0 == 0 && decide (bits lo 3 1 ≤ 6)

/-- VSPLAT (R609). -/
def execVsplat (c : CoreId) (d a b : BitVec 5) (lo : BitVec 6) (s : State) : Out :=
  s.rill c true fun s =>
    let k := s.core c
    let w := typeWidth (bits lo 3 1)
    s.checked c (vmovWord d a b 0 lo) [(vmovOk lo, dEnc)] fun s =>
      s.runVec c d 1 w (4096 / w) fun k' _ => { val := (k.rs a).toNat, core := k' }

/-- VGET (R609). -/
def execVget (c : CoreId) (d a b : BitVec 5) (lo : BitVec 6) (s : State) : Out :=
  s.rill c true fun s =>
    let k := s.core c
    let t := bits lo 3 1
    let w := typeWidth t
    let i := (k.rs b).toNat
    s.checked c (vmovWord d a b 1 lo) [(vmovOk lo, dEnc), (decide (i < 4096 / w), dElem)] fun s =>
      s.putCore c (k.ws d (redScalar t (elemOf w (k.rv a).toNat i))).vdone

/-- VPUT (R609). -/
def execVput (c : CoreId) (d a b : BitVec 5) (lo : BitVec 6) (s : State) : Out :=
  s.rill c true fun s =>
    let k := s.core c
    let w := typeWidth (bits lo 3 1)
    let i := (k.rs b).toNat
    s.checked c (vmovWord d a b 2 lo) [(vmovOk lo, dEnc), (decide (i < 4096 / w), dElem)] fun s =>
      s.putCore c (k.wv d (BitVec.ofNat 4096 (putElem w (k.rv d).toNat i (k.rs a).toNat))).vdone

end Sys2Proof.Machine
end

