-- ==== Sys2Proof/Machine/Graph.lean ====
section
/-! DEFINITION. The operation graph at run time: where the loader's MATMUL passes may stand, reductions, kernels, the recompute plan, and
the start of a node (R117, R133, R135, R215 to R218, R224, R235; what the spec leaves to the loader: log 67). -/

namespace Sys2Proof.Machine

/-! ## MATMUL (R117, R133, R217, R218, R235) -/

/-- The tiles that nodes which may run beside a node declare (R216, R218). -/
def tilesBeside (i : Image) (n : GraphNode) : List (Nat × Nat) :=
  (i.nodes.filter fun m => m.id != n.id && m.phase == n.phase && !leadsTo i n m && !leadsTo i m n).flatMap declaredTiles

/-- The tiles that a pass uses, as (jet, 2 × logical array + tile). -/
def Placed.tiles (q : Placed) (x : Jet) : List (Nat × Nat) :=
  (chainTiles q.array q.desc.quad q.desc.mode q.desc.tile).map fun t =>
    (q.jet, 2 * (x.logicalOf t.1).getD 8 + (match t.2 with | .a => 0 | .b => 1))

/-- Is a run of segments one that the loader may make a chain of (R133, R217): a node of the reference tree of at most 255 segments,
inside one run of the split list? -/
def runOk (segs : Nat) (split : Option (List (Nat × Nat))) (r : Nat × Nat) : Bool :=
  !outside r.2 1 255 && isTreeNode 64 0 segs r &&
    (split.getD [(0, segs)]).any fun b => decide (b.1 ≤ r.1) && decide (r.1 + r.2 ≤ b.1 + b.2)

/-- Does a chain convert as R235 has it: through the spout of its drain home's array, or RAW where it ends elsewhere? -/
def homeOk (i : Image) (x : Jet) (node spout : Nat) (q : Placed) : Bool :=
  let (j, l) := Config.drainHome (leNat i.hash) node q.out
  if q.jet = j ∧ x.logicalOf q.array = some l then q.desc.spout == spout
  else (i.spouts[q.desc.spout]?).any fun d => d.dest == 0xFF

/-- Do runs cover the segments in ascending order? -/
def coversAll (segs : Nat) (runs : List (Nat × Nat)) : Bool :=
  runs.foldl (fun (a : Option Nat) r => a.bind fun x => if r.1 = x then some (x + r.2) else none) (some 0) == some segs

/-- May the loader place this pass of a MATMUL node: on an enabled array of L, off declared tiles, on a run of the tree, with the spout of
its home? -/
def State.passOk (s : State) (i : Image) (n : GraphNode) (spout segs : Nat) (split : Option (List (Nat × Nat))) (q : Placed) : Bool :=
  if h : q.jet < 160 then
    let x := s.jet ⟨q.jet, h⟩
    q.node == n.id && decide (q.array < 8) && decide (q.cols ≤ 32) && passLegal x q.array q.desc && x.within (logicalL i) q.array q.desc.quad &&
      !(q.tiles x).any (tilesBeside i n).contains && runOk segs split q.run && homeOk i x n.id spout q
  else false

/-- Where the loader has placed a MATMUL node's passes: the plan it made of the image and the arrays enabled, where that is one that R117,
R133, R217, R218 and R235 allow. -/
def State.planOf (s : State) (i : Image) (n : GraphNode) : List Placed :=
  match n.kind with
  | .matmul _ _ _ spout split =>
    let segs := (reductionLen i n + 1023) / 1024
    let plan := Config.matmulPlan (leNat i.hash) ((List.finRange 160).map fun j => (s.jet j).arrayMask) n.id
    let outs := (plan.map (·.out)).eraseDups
    if plan.all (s.passOk i n spout segs split) && outs.all fun o => coversAll segs (((plan.filter fun q => q.out == o).map (·.run)).eraseDups)
    then plan else []
  | _ => []

/-! ## REDUCE (R135, R215) -/

/-- Bytes of an element of the formats that a reduction adds in (R135). -/
def redBytes (fmt : Nat) : Nat := typeWidth fmt / 8

/-- One result of a reduction over its elements in index order (R135): the tree of R130 for a sum; ties of MAX and MIN go to the lowest
index. -/
def reduceElems (fmt : Nat) (op : RedKind) (es : List Nat) : Nat :=
  let best (max : Bool) : Nat :=
    match redWinner fmt max ((es.zipIdx.map fun p => (p.2, p.1)).filter fun p => !redSkips fmt p.2) with
    | some (_, e) => e
    | none => if fmt = 2 then jfPoison else (typeFmt fmt).qnan
  match op with
  | .sum => (redTree 0 (redAdd fmt) 64 0 es).val
  | .max => best true
  | .min => best false

/-- The addresses of a tensor's 32-byte words, as the loader has placed it: jet-store addresses for TIER 0. -/
def tensorWords (i : Image) (t : TensorDecl) : List Nat :=
  (List.range ((t.bytes + 31) / 32)).map (Config.tensorWord (leNat i.hash) t.id)

/-- A tensor's words; a word that cannot be used gives none. The copy of the first jet stands for TIER 0. -/
def State.readTensor (s : State) (i : Image) (t : TensorDecl) : List (Option (List Byte)) × State :=
  if t.tier = 0 then
    let j := t.jets.headD 0
    if h : j < 160 then
      let k := (s.jet ⟨j, h⟩).core
      let r := (tensorWords i t).foldl (fun (a : List (Option (List Byte)) × Mem) w =>
        let (bs, m) := loadBytes a.2 w 32
        (a.1 ++ [if bs.all (·.isSome) then some (bs.map fun b => b.getD 0) else none], m)) ([], k.store)
      (r.1, s.modJet ⟨j, h⟩ fun x => { x with core := { x.core with store := r.2 } })
    else ([], s)
  else State.readEach (tensorWords i t) s

/-- Store a tensor's bytes, on every jet that holds a copy where it is of TIER 0. -/
def State.writeTensor (s : State) (i : Image) (t : TensorDecl) (bs : List Byte) : State :=
  let ws := (tensorWords i t).zip (toWords ((t.bytes + 31) / 32) bs)
  if t.tier = 0 then
    (List.finRange 160).foldl (fun s j =>
      if t.jets.contains j.val then
        s.modJet j fun x => { x with core := { x.core with store := storeAll x.core.store (ws.map fun w => (w.1, w.2.getD [])) } }
      else s) s
  else State.writeEach ws s

/-- Store bytes of a tensor from its byte `o` on, word by word. -/
def State.writePart (s : State) (i : Image) (t : TensorDecl) : Nat → Nat → List Byte → State
  | 0, _, _ => s
  | n + 1, o, bs =>
    if bs.isEmpty ∨ t.bytes ≤ o then s
    else
      let k := min bs.length (32 - o % 32)
      let a := Config.tensorWord (leNat i.hash) t.id (o / 32) + o % 32
      let s := if t.tier = 0 then
          (List.finRange 160).foldl (fun s j =>
            if t.jets.contains j.val then s.modJet j fun x => { x with core := { x.core with store := storeBytes x.core.store a (bs.take k) } }
            else s) s
        else s.deviceWrite 2 a (bs.take k)
      State.writePart s i t n (o + k) (bs.drop k)

/-- A destination's bytes from the results in index order: its padding is zero (R56). -/
def packResults (t : TensorDecl) (w : Nat) (rs : List Nat) : List Byte :=
  let (o, n) := t.dims
  let real := t.along
  (List.range (o * n)).flatMap fun q => leBytes w (if q % n < real then rs.getD (q / n * real + q % n) 0 else 0)

/-- A REDUCE node: each row of the source along RAXIS gives one element of the destination. Formats that R135 does not name give free values
(log 67), and a source word that cannot be used ends the step as a fault of this module (R340). -/
def State.reduce (s : State) (i : Image) (op : RedKind) (src dst : TensorDecl) : State :=
  let (o, n) := src.dims
  let f := src.format.toNat
  let (ws, s) := s.readTensor i src
  if !wordsGood ws then s.faultStep
  else if f ≤ 2 ∧ dst.format = src.format then
    let w := redBytes f
    let bs := plainBytes ws
    let elem (r k : Nat) : Nat := leNat ((bs.drop ((r * n + k) * w)).take w)
    s.writeTensor i dst (packResults dst w ((List.range o).map fun r => reduceElems f op ((List.range src.along).map (elem r))))
  else
    let bs := (List.range dst.bytes).map fun k => (Config.freeWord (s.freeCount + k)).setWidth 8
    ({ s with freeCount := s.freeCount + dst.bytes } : State).writeTensor i dst bs

/-! ## Kernels -/

/-- A kernel starts on a jet: its core runs from the kernel's entry (R220). -/
def State.startKernel (s : State) (i : Image) (k : Nat) (jets : List Nat) : State :=
  let entry := ((i.kernels[k]?).map (·.1)).getD 0
  (List.finRange 160).foldl (fun s j =>
    if jets.contains j.val then
      s.modJet j fun x => { x with core := { x.core with pc := BitVec.ofNat 64 (x.core.code.1 + entry), halted := false, held := none } }
    else s) s

/-! ## Nodes (R27, R215, R216, R224) -/

/-- What a node does as it starts. COLLECTIVE, UPDATE and WINDOW nodes only become due: their collectives, the update pass and the mover's
descriptors have commands of their own. -/
def State.runNode (s : State) (i : Image) (n : GraphNode) : State :=
  let tensor (t : Nat) : Option TensorDecl := i.tensors.find? fun d => d.id == t
  match n.kind with
  | .matmul .. => ({ s with job := { s.job with toPlace := s.job.toPlace ++ s.planOf i n } } : State).placeWork
  | .reduce op a b =>
    match tensor a, tensor b with
    | some x, some y => s.reduce i op x y
    | _, _ => s
  | .kernel k _ _ jets _ _ => s.startKernel i k jets
  | .solver k _ => s.startKernel i k (List.range 160)
  | _ => s

/-- May a node start: the job is in its phase, and its predecessors have finished (R27, R216)? -/
def State.nodeReady (s : State) (i : Image) (n : GraphNode) : Bool :=
  s.job.running && s.record.phase.toNat == n.phase && !s.job.started.contains n.id && n.preds.all fun p =>
    s.job.finished.contains p || (i.nodes.find? fun m => m.id == p).any fun m => decide (m.phase < n.phase)

/-- May a FORWARD node of the recompute plan start again (R224): the job is in BACKWARD, and those of its predecessors that the same entry
re-runs have finished again? -/
def State.rerunReady (s : State) (i : Image) (n : GraphNode) : Bool :=
  s.job.running && s.record.phase.toNat == 5 && n.phase == 1 && !s.job.rerun.contains n.id &&
    i.recompute.any fun r => r.nodes.contains n.id && n.preds.all fun p => !r.nodes.contains p || s.job.rerunDone.contains p

/-- Nodes that have finished: of the phase, or under the recompute plan. -/
def Job.finish (j : Job) (l : List Nat) : Job :=
  let j := { j with rerunDone := j.rerunDone ++ l.filter fun n => j.rerun.contains n && !j.rerunDone.contains n }
  { j with finished := j.finished ++ l.filter fun n => j.started.contains n && !j.finished.contains n }

/-- An operation-graph node starts (R27, R216, R224); `finished` are nodes that have finished since. -/
def execGraphNodeStart (node : Nat) (finished : List Nat) (s : State) : Out :=
  let s := { s with job := s.job.finish finished }
  .next (match s.job.image with
    | none => s
    | some i =>
      match i.nodes.find? fun n => n.id == node with
      | none => s
      | some n =>
        if s.nodeReady i n then ({ s with job := { s.job with started := s.job.started ++ [node] } } : State).runNode i n
        else if s.rerunReady i n then ({ s with job := { s.job with rerun := s.job.rerun ++ [node] } } : State).runNode i n
        else s)

end Sys2Proof.Machine
end

