-- ==== Sys2Proof/Machine/Inject.lean ====
section
/-! DEFINITION. Injection: the packets that carry the module's own messages, their payloads, and their way into the weirs (R367 to R370,
R374 to R376, R384, R385, R394, R395, R413 to R415, R427; what the spec leaves open of them: log 72). -/

namespace Sys2Proof

/-! ## Payloads (R413, R414) -/

/-- The 288 bytes of a partial block record (R414). -/
def BlockPartial.bytes (b : BlockPartial) : List Byte :=
  ((List.range 32).flatMap fun k => leBytes 8 (BitVec.ofInt 64 (b.s.getD k 0)).toNat) ++ leBytes 2 (BitVec.ofInt 16 b.g).toNat ++
    bitmapBytes 4 ((List.range 32).filter fun k => b.poison.getD k false) ++ leBytes 1 (if b.zero then 1 else 0) ++ zeroBytes 25

/-- Bytes of an element of a collective format. -/
def CollFmt.bytes : CollFmt → Nat
  | .binary64 => 8
  | .binary32 => 4
  | .jf16 | .bx16 => 2
  | .bx8 => 1

/-- The payload of a chunk (R413). -/
def ChunkData.bytes (fmt : CollFmt) : ChunkData → List Byte
  | .elems l => l.flatMap (leBytes fmt.bytes)
  | .blocks l => l.flatMap BlockPartial.bytes
  | .source codes exps => codes.flatMap (leBytes fmt.bytes) ++ exps.map (BitVec.ofNat 8)
  | .winners l => l.flatMap fun p => leBytes 8 p.1 ++ leBytes 8 p.2

/-- KIND of a chunk (R415). -/
def ChunkKind.code : ChunkKind → Nat
  | .leaf => 0
  | .partialNode => 1
  | .result => 2

/-- ADDR of a CHUNK packet (R415). -/
def ChunkId.addr (x : ChunkId) (kind : Nat) : W64 :=
  BitVec.ofNat 64 (x.c % 2 ^ 32 + x.coll * 2 ^ 32 + x.occ * 2 ^ 44 + kind * 2 ^ 48)

/-- OPARG of a CHUNK packet (R415). -/
def ChunkId.oparg (x : ChunkId) : W64 := BitVec.ofNat 64 (x.a + x.m * 2 ^ 16 + x.step.toNat * 2 ^ 32)

end Sys2Proof

namespace Sys2Proof.Machine

/-! ## Packets (R367 to R369) -/

/-- Bytes as code words, the last filled with zeros. -/
def dataWords (bs : List Byte) : List (List Byte) := (toWords ((bs.length + 31) / 32) bs).map fun w => encodeWord (w.getD [])

/-- A payload cut into packets of at most 64 words (R367), each with the number of its first word. -/
def cutPayload : Nat → Nat → List (List Byte) → List (Nat × List (List Byte))
  | 0, _, _ => []
  | n + 1, o, ws => if ws.length ≤ 64 then [(o, ws)] else (o, ws.take 64) :: cutPayload n (o + 64) (ws.drop 64)

/-- A packet of this module as it is formed (R367): HOPS and HOPFLAGS zero; the epoch is set at injection. -/
def State.form (s : State) (dest : BitVec 15) (op : Byte) (cls : BitVec 2) (addr : W64) (tag : W32) (oparg : W64) (ws : List (List Byte)) : Packet :=
  { dest := dest, src := s.weir.addr, opcode := op, cls := cls, epoch := 0, addr := addr, tag := tag, oparg := oparg, hops := 0,
    vc := false, esc := false, mark := false, rsvd := 0, payload := ws }

/-- A CHUNK packet (R415). -/
def State.chunkPacket (s : State) (rank : Nat) (id : ChunkId) (kind : Nat) (bs : List Byte) : Packet :=
  s.form (s.addrOf rank) 2 0 (id.addr kind) id.epoch id.oparg (dataWords bs)

/-- The four chunks of START (R422): the absent bitmap, then the carried bitmap. -/
def State.startPackets (s : State) (rank : Nat) (absent carried : List Nat) : List Packet :=
  let coll := (s.job.image.bind exchangeColl).getD 0
  let bs := bitmapBytes 4096 absent ++ bitmapBytes 4096 carried
  (List.range 4).map fun c =>
    s.chunkPacket rank ⟨.leaf, coll, 0, 0, s.tableRanks, c, BitVec.ofNat 32 s.record.globalStep.toNat, s.record.epoch⟩ 5 ((bs.drop (2048 * c)).take 2048)

/-- OPARG bits [7:0] of a membership message (R427). -/
def mgmtType (what : String) : Nat :=
  match what with
  | "LIVE" => 0x10
  | "SUSPECT" => 0x11
  | "PROPOSE" => 0x12
  | "ACCEPT" => 0x13
  | "COMMIT" => 0x14
  | "ABANDON" => 0x15
  | "JOIN" => 0x16
  | _ => 0

/-- The MGMT packets of a message, whose number in the outbox gives their identifiers (R391). -/
def State.mgmtPackets (s : State) (no : Nat) (dest : BitVec 15) (what : String) (bs : List Byte) : List Packet :=
  let ws := dataWords bs
  ((cutPayload (ws.length + 1) 0 ws).zipIdx).map fun q =>
    s.form dest 3 3 0 (BitVec.ofNat 32 (256 * no + q.2)) (BitVec.ofNat 64 (mgmtType what)) q.1.2

/-- The module addresses of a message's destination: a rank, and 0xFFFF for every other member; a JOIN goes to the leader (R431). -/
def State.destsOf (s : State) (what : String) (dest : Nat) : List (BitVec 15) :=
  if dest ≠ 0xFFFF then [s.addrOf dest]
  else if what = "JOIN" then [s.addrOf s.leader]
  else (s.actives.filter (· != s.coll.rank)).map s.addrOf

/-- The WRITE packets that carry bytes to a device address of a rank on the securing class (R370); a word that cannot be used goes as the
lost pattern (R252). -/
def State.writePackets (s : State) (rank addr : Nat) (ws : List (Option (List Byte))) : List Packet :=
  let raw := ws.map fun w => match w with | some d => encodeWord d | none => lostWord
  (cutPayload (raw.length + 1) 0 raw).map fun q => s.form (s.addrOf rank) 1 2 (BitVec.ofNat 64 (addr + 32 * q.1)) 0 0 q.2

/-- The state as a rank sees the layout of its own half memories (R319). -/
def State.viewOf (s : State) (rank : Nat) : State := { s with coll := { s.coll with rank := rank } }

/-- The WRITE packets of an entry to the partner's ring (R319, R322). -/
def State.entryPackets (s : State) (i : Image) (rank : Nat) (e : ResEntry) : List Packet :=
  let t := s.viewOf rank
  let slot := e.globalStep.toNat % (s.job.policy.d + 1)
  let words (bs : List Byte) := toWords (bs.length / 32) bs
  s.writePackets rank (t.ringAddr i slot) (words e.fixed) ++
    ((i.shardRecords t.predecessor).zip e.grads).flatMap fun p => s.writePackets rank (t.gradAddr i slot p.1) (words (fitBytes 2080 p.2))

/-- The packets of fill data (R346): records and stripes are written in place; tables, lanes and headers go as messages. -/
def State.fillPackets (s : State) (no : Nat) (i : Image) (rank : Nat) (f : FillData) : List Packet :=
  let t := s.viewOf rank
  let v := s.record.slot
  let words (bs : List Byte) := toWords (bs.length / 32) bs
  let table (what : String) (l : List (Nat × W64)) : List Packet :=
    s.mgmtPackets no (s.addrOf rank) what (l.flatMap fun p => leBytes 8 p.1 ++ leBytes 8 p.2.toNat)
  match f with
  | .ownRecord x bs => s.writePackets rank (t.recordAddr i false v x) (words bs)
  | .heldRecord x bs => s.writePackets rank (t.recordAddr i true v x) (words bs)
  | .securedPiece o bs => s.mgmtPackets no (s.addrOf rank) "SECURED" (leBytes 8 o ++ bs)
  | .ownCounts l => s.writePackets rank (t.slotAddr i false v 0) (words (tTableBytes l))
  | .heldCounts l => s.writePackets rank (t.slotAddr i true v 0) (words (tTableBytes l))
  | .ownEntry e => s.mgmtPackets no (s.addrOf rank) "OWN_ENTRY" e.bytes
  | .heldEntry e => s.entryPackets i rank e
  | .parityPiece o bs => s.writePackets rank (t.parityAddr i (4096 + o)) (words bs)
  | .parityHeader g step len member d =>
    s.mgmtPackets no (s.addrOf rank) "PARITY_HEADER" (leBytes 2 g.toNat ++ leBytes 8 step.toNat ++ leBytes 8 len ++ leBytes 4 member ++ leBytes 16 d.toNat)
  | .jetLanes l => table "JET_LANES" l
  | .coreLanes l => table "CORE_LANES" l
  | .reseed step => s.mgmtPackets no (s.addrOf rank) "RESEED" (leBytes 8 step.toNat)

/-- The packets that carry message `no` of the outbox (R369): none for what does not cross the fabric from here. -/
def State.toPackets (s : State) (no : Nat) (m : Msg) : List Packet :=
  let words (l : List Nat) : List Byte := l.flatMap (leBytes 8)
  let mgmt (dest : Nat) (what : String) (bs : List Byte) : List Packet := (s.destsOf what dest).flatMap fun a => s.mgmtPackets no a what bs
  match m with
  | .chunk dest id d => [s.chunkPacket dest id id.kind.code (d.bytes (((s.findColl id.coll id.occ).map (·.fmt)).getD .binary32))]
  | .ack dest id bits => [s.chunkPacket dest id 3 (bitmapBytes ((bits.length + 7) / 8) ((List.range bits.length).filter fun k => bits.getD k false))]
  | .packet dest what args =>
    if what = "ECHO" then
      [s.form (BitVec.ofNat 15 dest) 4 3 0 0 (BitVec.ofNat 64 (args.headD 0 + 2 ^ 16 * args.getD 1 0)) []]
    else if what = "READY" then
      let coll := (s.job.image.bind exchangeColl).getD 0
      [s.chunkPacket dest ⟨.leaf, coll, 0, s.coll.rank, 1, args.getD 1 0, BitVec.ofNat 32 (args.headD 0), s.record.epoch⟩ 4 []]
    else if what = "START" then
      let k := args.headD 0
      s.startPackets dest ((args.drop 1).take k) (args.drop (1 + k))
    else mgmt dest what (words args)
  | .proposal dest what epoch ranks => mgmt dest what (words (epoch.toNat :: ranks))
  | .table dest t complete => mgmt dest "COMMIT" (MembTable.image t ++ leBytes 1 (if complete then 1 else 0))
  | .job dest _ step => mgmt dest "JOB_COMMAND" (words [step.toNat])
  | .ripple dest k =>
    ((s.weir.records.filter fun r => r.2.1 == k).flatMap rippleBytes) |> s.mgmtPackets no (BitVec.ofNat 15 dest) "RIPPLE_MAP"
  | .entry e => match s.job.image with
    | some i => s.entryPackets i s.partnerRank e
    | none => []
  | .fill dest f => match s.job.image with
    | some i => s.fillPackets no i dest f
    | none => []
  | .stripe holder o ws _ => match s.job.image with
    | some i => s.writePackets holder ((s.viewOf holder).parityAddr i (4096 + o)) ws
    | none => []
  | _ => []

/-! ## Injection (R374, R375, R384, R385, R395) -/

/-- May a packet of a paced flow start (R395)? -/
def State.mayInject (s : State) (p : Packet) : Bool :=
  (p.cls != 1 && p.cls != 2) || s.weir.flows.all fun f => f.dest != p.dest || f.cls != p.cls || decide (f.next.toNat ≤ s.uptime)

/-- A flow starts a packet: its next one waits until this one's payload has gone at its rate (R395). -/
def State.startFlow (s : State) (p : Packet) : State :=
  if p.cls ≠ 1 ∧ p.cls ≠ 2 then s
  else (s.useFlow p.dest p.cls).modFlow p.dest p.cls fun f =>
    { f with next := s.keeper.uptime + BitVec.ofNat 64 ((32 * p.payload.length : Nat) / f.rate).ceil.toNat }

/-- A packet enters the weirs: VC 0, in the injection epoch (R375, R384, R385). -/
def State.injectOne (s : State) (p : Packet) : State :=
  let p := { p with epoch := s.weir.inj }
  ((s.startFlow p).enterChannel p.epoch p.channel).routePacket ⟨p, none, p.channel⟩ none

/-- The packets of the injection queue that may start, in order, and those that stay. -/
def injectFrom : List Packet → State → State × List Packet
  | [], s => (s, [])
  | p :: t, s =>
    if s.mayInject p then injectFrom t (s.injectOne p)
    else
      let (s, r) := injectFrom t s
      (s, p :: r)

/-- The module's messages join its injection queue, and what may start is injected. -/
def State.inject (s : State) : State :=
  let n := s.weir.taken
  let new := ((s.outbox.drop n).zipIdx).flatMap fun q => s.toPackets (n + q.2) q.1
  let (t, left) := injectFrom (s.weir.injQ ++ new) { s with weir := { s.weir with taken := s.outbox.length, injQ := [] } }
  { t with weir := { t.weir with injQ := left } }

/-! ## An output port (R373, R376, R378) -/

/-- A port starts its next packet at a packet boundary. -/
def State.startNext (s : State) (p : Fin 6) : State :=
  let x := s.weir.ports.get p
  if x.state ≠ 2 then s
  else match x.next s.uptime with
    | none => s
    | some (q, deficit, turn) =>
      let bs := { q.pkt with hops := q.pkt.hops + 1 }.bytes
      s.modPort p fun x => { x with
        outQ := x.outQ.erase q, deficit := deficit, turn := turn, txStream := x.txStream ++ bs,
        inFlight := x.inFlight ++ [(q, bs.length)],
        sentWin := (s.uptime, q.pkt.channel, q.pkt.words) :: x.sentWin.filter fun e => decide (s.uptime < e.1 + x.rtt.toNat) }

/-- An output port starts its next packet (R373, R376, R378), the module's own injected first. -/
def execPacketSendStart (p : Fin 6) (s : State) : Out := .next (if s.keeper.rails then s.inject.startNext p else s)

end Sys2Proof.Machine
end

