-- ==== Sys2Proof/Machine/Collective.lean ====
section
/-! DEFINITION. The commands of the collective engine: opening, chunks, nodes, results, acknowledgement and completion (R409 to
R424). -/

namespace Sys2Proof.Machine

/-! ## Outputs and duties (R416, R419, R424) -/

/-- Chunks that a member is to hold at the end. -/
def State.outputChunks (s : State) (x : OpenColl) : List Nat :=
  (List.range x.chunks).filter fun c => match x.op with
    | .reduceScatter => (s.chunkRun x c).1 == s.coll.rank
    | _ => (s.origin x c).isSome

/-- Does the member hold every output? -/
def State.holdsOutputs (s : State) (x : OpenColl) : Bool := (s.outputChunks x).all fun c => Tbl.has x.results c

/-- Has this rank evaluated every node that lies at it? -/
def State.nodesDone (s : State) (x : OpenColl) : Bool :=
  match x.op with
  | .broadcast _ => true
  | .allGather => true
  | _ => (List.range x.chunks).all fun c => (treeNodes 64 0 s.tableRanks).all fun n =>
      s.evalRank x n.1 n.2 c != some s.coll.rank || x.evald.contains (n.1, n.2, c)

/-- STALL_REMOTE ends when no operand is still awaited (R424). -/
def State.stallCheck (s : State) : State :=
  let exch := (s.job.image.bind exchangeColl).getD 0
  let pend := s.record.phase == 6 && (s.findColl exch 0).isNone && !s.coll.finished.contains (16 * exch)
  if pend || !s.coll.opened.all s.holdsOutputs then s else s.setThr 9 false

/-! ## Opening (R312, R409, R423, R432) -/

/-- The contribution to EXCHANGE: what was carried is the left operand (R312), with the format events of the additions. -/
def State.contribution (s : State) (fmt : CollFmt) (own : Tbl ChunkData) : Tbl ChunkData × Nat :=
  match s.job.carried with
  | none => (own, 0)
  | some t =>
    let l := own.map fun p => match t.find? (fun q => q.1 == p.1) with
      | some q =>
        let a := chunkAdd .reduceScatter fmt (toPartial fmt q.2) (toPartial fmt p.2)
        let r := encodeRoot fmt a.1
        ((p.1, r.1), Ev.engine (a.2.add r.2))
      | none => (p, 0)
    (l.map (·.1), (l.map (·.2)).foldl (· + ·) 0)

/-- FORMAT of a collective's tensor (R213). -/
def collCode : CollFmt → Byte
  | .binary64 => 0
  | .binary32 => 1
  | .jf16 => 2
  | .bx16 => 0x10
  | .bx8 => 0x11

/-- The COLLECTIVE node with an index, in NODE_ID order (R415). -/
def Image.collNode (i : Image) (coll : Nat) : Option GraphNode :=
  let cs := i.nodes.filter fun n => match n.kind with | .collective _ _ => true | _ => false
  cs.find? fun x => (cs.filter fun n => decide (n.id < x.id)).length == coll

/-- Chunks of a collective over a tensor (R411, R413): the vector is the tensor as stored, padding included, and for EXCHANGE the job's
parameters (log 67). -/
def State.collChunks (s : State) (i : Image) (op : CollOp) (fmt : CollFmt) (exchange : Bool) (d : TensorDecl) : Nat :=
  let per := if collWins op then 128 else collPerChunk fmt
  let n := if exchange then sumOf i.shards else d.dims.1 * d.dims.2
  let c := (n + per - 1) / per
  if op = .allGather then c * s.ranks else c

/-- Is a collective that is to open the one its node declares, and has the node started: occurrence 0 in the step, occurrence 1 under
the recompute plan (R27, R216, R415)? -/
def State.collDue (s : State) (coll occ : Nat) (op : CollOp) (fmt : CollFmt) (chunks : Nat) : Bool :=
  s.job.image.any fun i => (Image.collNode i coll).any fun n => match n.kind with
    | .collective o t =>
      (i.tensors.find? fun d => d.id == t).any fun d =>
        o == op && d.format == collCode fmt && chunks == s.collChunks i op fmt (n.phase == 6) d &&
          (if occ = 0 then n.phase == 6 || s.job.started.contains n.id else occ == 1 && s.job.rerun.contains n.id)
    | _ => false

/-- A collective starts on a member that is HELD (R432), once its node has started; EXCHANGE's opens on START (R423). -/
def execCollectiveOpen (coll occ : Nat) (op : CollOp) (fmt : CollFmt) (chunks : Nat) (own : Tbl ChunkData) (s : State) : Out :=
  .next (if !s.job.running || !s.record.held || s.coll.state != 1 || decide (0xFFE ≤ coll) || !s.collDue coll occ op fmt chunks ||
      (s.findColl coll occ).isSome || s.coll.finished.contains (16 * coll + occ) then s
    else if s.isExchange coll then
      match s.coll.started with
      | none => s
      | some (absent, _) =>
        if s.record.phase ≠ 6 then s
        else
          let (mine, ev) := s.contribution fmt own
          let late := absent.contains s.coll.rank
          let s := (s.countColl 6 ev)
          let s := { s with job := { s.job with leftOut := if late && s.job.policy.drop != 1 then some mine else none } }
          (s.openColl coll occ op fmt chunks mine absent).stallCheck
    else ((s.setThr 9 true).openColl coll occ op fmt chunks own []).stallCheck)

/-! ## Chunks that arrive (R416 to R420, R426) -/

/-- Do two chunks belong to one stream (R418)? -/
def sameStream (a b : ChunkId) : Bool :=
  a.kind == b.kind && a.coll == b.coll && a.occ == b.occ && a.a == b.a && a.m == b.m && a.step == b.step

/-- Acknowledge a stream (R418): a bitmap of up to 16,384 chunks from the first not yet acknowledged. -/
def State.sendAck (s : State) (src : Nat) (id : ChunkId) : State :=
  let mine := s.coll.accepted.filter fun e => e.1 == src && sameStream e.2.1 id
  match (mine.filter fun e => !e.2.2).map fun e => e.2.1.c with
  | [] => s
  | c :: cs =>
    let c0 := cs.foldl min c
    let n := min 16384 ((mine.map fun e => e.2.1.c + 1).foldl max 0 - c0)
    let bitmap := (List.range n).map fun k => mine.any fun e => e.2.1.c == c0 + k
    let covered (e : Nat × ChunkId × Bool) : Bool :=
      e.1 == src && sameStream e.2.1 id && decide (c0 ≤ e.2.1.c) && decide (e.2.1.c < c0 + n)
    ({ s with coll := { s.coll with
      accepted := s.coll.accepted.map fun e => if covered e then (e.1, e.2.1, true) else e } } : State).send (.ack src { id with c := c0 } bitmap)

/-- Is a step number older than the step in progress, by its low 32 bits? -/
def State.olderStep (s : State) (w : W32) : Bool := let d := (s.record.globalStep.truncate 32 - w).toNat; decide (1 ≤ d) && decide (d < 2 ^ 31)

/-- A chunk that is not accepted: stale, a duplicate, or with a lost word (R420, R426). -/
def State.screened (s : State) (src : Nat) (id : ChunkId) (lost : Bool) : Option State :=
  let known := s.coll.accepted.any fun e => e.1 == src && e.2.1 == id
  if !s.job.running || !s.isMember then some s
  else if id.epoch ≠ s.record.epoch then some (s.countColl 2 1)
  else if s.olderStep id.step then some ((s.countColl 1 1).send (.ack src id [true]))
  else if known then
    some ((({ s with coll := { s.coll with
      accepted := s.coll.accepted.map fun e => if e.1 == src && e.2.1 == id then (e.1, e.2.1, false) else e } } : State).countColl 1 1).sendAck src id)
  else if lost then some (s.countColl 3 1)
  else none

/-- A chunk is accepted (R418): one whose collective is not open here waits for it. -/
def State.accept (s : State) (src : Nat) (id : ChunkId) (data : ChunkData) : State :=
  let s := { s with coll := { s.coll with accepted := s.coll.accepted ++ [(src, id, false)] } }
  let s := if (s.findColl id.coll id.occ).any (fun x => x.step.truncate 32 == id.step) then s.takeEarly (id, data)
    else { s with coll := { s.coll with early := s.coll.early ++ [(id, data)] } }
  let due := (s.coll.accepted.filter fun e => e.1 == src && sameStream e.2.1 id && !e.2.2).length
  (if 1024 ≤ due then s.sendAck src id else s).stallCheck

/-- A LEAF or PARTIAL chunk arrives (R416). -/
def execChunkReceive (src : Nat) (id : ChunkId) (data : ChunkData) (lost : Bool) (s : State) : Out :=
  .next (if id.kind = .result then s
    else match s.screened src id lost with
      | some s => s
      | none => s.accept src id data)

/-- A RESULT chunk arrives and is passed on (R417). -/
def execResultReceive (src : Nat) (id : ChunkId) (data : ChunkData) (lost : Bool) (s : State) : Out :=
  .next (if id.kind ≠ .result then s
    else match s.screened src id lost with
      | some s => s
      | none => s.accept src id data)

/-- 50 µs after accepting an unacknowledged chunk (R418). -/
def execChunkAckTimer (src : Nat) (id : ChunkId) (s : State) : Out := .next (s.sendAck src id)

/-! ## Nodes (R416) -/

/-- A child's value: one that is present, or the zero leaf or zero partial that its parent forms (R416). -/
def State.childVal (s : State) (x : OpenColl) (a m c : Nat) : Option ChunkData :=
  match x.nodes.find? fun n => n.1 == a && n.2.1 == m && n.2.2.1 == c with
  | some n => some n.2.2.2
  | none =>
    let zero := if m = 1 then !s.actives.contains a || x.absent.contains a
      else !(List.range m).any fun k => s.actives.contains (a + k)
    if zero then some (zeroLeaf x.op x.fmt) else none

/-- Evaluate a node whose children are both present (R416, R419). -/
def execNodeEvaluate (coll occ c a m : Nat) (s : State) : Out :=
  .next (match s.findColl coll occ with
    | none => s
    | some x =>
      let root := decide (m = s.tableRanks)
      let p := 2 ^ Nat.log2 (m - 1)
      let away := match treeParent 64 0 s.tableRanks (a, m) with
        | some (pa, pm) => s.evalRank x pa pm c != some s.coll.rank
        | none => false
      if m ≤ 1 || x.chunks ≤ c || !(treeNodes 64 0 s.tableRanks).contains (a, m) || x.evald.contains (a, m, c) ||
          s.evalRank x a m c != some s.coll.rank || (away && !s.coll.storeRoom) then s
      else match s.childVal x a p c, s.childVal x (a + p) (m - p) c with
        | some l, some r =>
          let (v, ev) := chunkAdd x.op x.fmt l r
          let child (n : Nat × Nat × Nat × ChunkData) : Bool :=
            n.2.2.1 == c && ((n.1 == a && n.2.1 == p) || (n.1 == a + p && n.2.1 == m - p))
          let s := (s.countColl 6 (Ev.engine ev)).modColl coll occ fun x =>
            { x with nodes := x.nodes.filter (!child ·), evald := (a, m, c) :: x.evald }
          if root then
            let (w, ev) := encodeRoot x.fmt v
            let s := s.countColl 6 (Ev.engine ev)
            if x.op = .reduceScatter ∧ (s.chunkRun x c).1 ≠ s.coll.rank then s
            else (s.takeResult coll occ c w).stallCheck
          else s.feed coll occ a m c v
        | _, _ => s)

/-! ## Acknowledgement and retransmission (R418 to R420) -/

/-- An ACK frees the chunks it covers (R419). -/
def execChunkAckReceive (src : Nat) (id : ChunkId) (bitmap : List Bool) (s : State) : Out :=
  let covered (x : Sent) : Bool :=
    x.dest == src && sameStream x.id id && x.id.epoch == id.epoch && decide (id.c ≤ x.id.c) && bitmap.getD (x.id.c - id.c) false
  .next { s with coll := { s.coll with sent := s.coll.sent.filter (!covered ·) } }

/-- 2 ms after a chunk was last sent (R419, R420). -/
def execChunkRetransmit (dest : Nat) (id : ChunkId) (readable : Bool) (s : State) : Out :=
  .next (match s.coll.sent.find? fun x => x.dest == dest && x.id == id with
    | none => s
    | some x =>
      if id.kind ≠ .partialNode && !readable then
        let (addr, s) := s.fresh
        (s.event 0x0059 3 srcColl [id.coll, addr.toNat]).abortStep
      else
        let s := { s with coll := { s.coll with
          sent := s.coll.sent.map fun (y : Sent) => if y.dest == dest && y.id == id then { y with resends := y.resends + 1 } else y } }
        let s := if x.resends = 4 then s.reportSuspect (BitVec.ofNat 15 dest) 1 else s
        (s.countColl 0 1).send (.chunk dest id x.data))

/-! ## Completion (R294, R419, R421) -/

/-- The gradient records of a run of BX16 results, 8 chunks to a record (R288). -/
def gradRecords (idx : List Nat) (chunks : List ChunkData) : Tbl (List Byte) :=
  (List.range idx.length).map fun k =>
    let cs := (chunks.drop (8 * k)).take 8
    let codes := cs.flatMap fun d => match d with | .source c _ => c | _ => []
    let exps := cs.flatMap fun d => match d with | .source _ e => e | _ => []
    (idx.getD k 0, fitBytes 2048 (codes.flatMap (leBytes 2)) ++ fitBytes 32 (exps.map (BitVec.ofNat 8)))

/-- The counts that a broadcast table holds (R294). -/
def countsOf (t : Tbl ChunkData) : List W32 :=
  (List.range 8).flatMap fun c => match Tbl.get (.elems []) t c with
    | .elems l => l.map (BitVec.ofNat 32)
    | _ => []

/-- A winner's value in the collective's format (R410): it came from there, so that nothing is lost. -/
def narrow (fmt : CollFmt) (c : Nat) : Nat :=
  match fmt with
  | .binary64 => c
  | .binary32 => (convertIF b64 b32 .even c).1
  | _ => (jfRound .even (b64.src c)).1

/-- A result chunk as its tensor holds it: element bytes and exponent bytes (R59, R410). -/
def resultBytes (fmt : CollFmt) (d : ChunkData) : List Byte × List Byte :=
  match d, collBlk fmt with
  | .winners l, some f =>
    let bs := (blocks32 (l.length / 32) (l.map fun p => b64.src p.1)).map (encodeBlock f false false [])
    (bs.flatMap fun b => b.2.1.flatMap (leBytes fmt.bytes), bs.map fun b => BitVec.ofNat 8 b.1)
  | .winners l, none => (l.flatMap fun p => leBytes fmt.bytes (narrow fmt p.1), [])
  | .source codes exps, _ => (codes.flatMap (leBytes fmt.bytes), exps.map (BitVec.ofNat 8))
  | .elems l, _ => (l.flatMap (leBytes fmt.bytes), [])
  | .blocks _, _ => ([], [])

/-- A node's collective leaves its results in its tensor (R59, R409): a block tensor's exponent array behind its element array. Where the
runs that ALL_GATHER puts together lie is not given, and they stay with the engine (log 67). -/
def State.storeResults (s : State) (i : Image) (t : TensorDecl) (x : OpenColl) : State :=
  let per := if collWins x.op then 128 else collPerChunk x.fmt
  let elems := t.dims.1 * t.dims.2 * x.fmt.bytes
  if x.op = .allGather then s
  else (s.outputChunks x).foldl (fun s c =>
    let (es, xs) := resultBytes x.fmt (Tbl.get (.elems []) x.results c)
    let s := s.writePart i t 65 (per * x.fmt.bytes * c) (es.take (elems - per * x.fmt.bytes * c))
    s.writePart i t 2 (elems + per / 32 * c) xs) s

/-- What a complete collective delivers. -/
def State.delivered (s : State) (x : OpenColl) : State :=
  if x.coll = collTAgreed then
    { s with job := { s.job with desc := some { s.formDesc with tAgreed := countsOf x.results } } }
  else if s.isExchange x.coll then
    let idx := (s.job.image.map fun i => i.shardRecords s.coll.rank).getD []
    let run := (s.outputChunks x).map fun c => Tbl.get (.elems []) x.results c
    { s with job := { s.job with ownGrad := gradRecords idx run } }
  else match s.job.image with
    | some i => match Image.collNode i x.coll with
      | some n => match n.kind with
        | .collective _ t => ((i.tensors.find? fun d => d.id == t).map fun d => s.storeResults i d x).getD s
        | _ => s
      | none => s
    | none => s

/-- A collective is complete on this member (R419, R421); EXCHANGE is complete with the broadcast of the counts (R294). -/
def execCollectiveComplete (coll occ : Nat) (s : State) : Out :=
  .next (match s.findColl coll occ with
    | none => s
    | some x =>
      if !s.holdsOutputs x || !s.nodesDone x || s.coll.sent.any (fun y => y.id.coll == coll && y.id.occ == occ) then s
      else
        let s := s.delivered x
        let s := { s with coll := { s.coll with
          opened := s.coll.opened.filter (!OpenColl.isNo coll occ ·), finished := (16 * coll + occ) :: s.coll.finished
          outputs := s.coll.outputs.set (16 * coll + occ) x.results } }
        let s := if x.line = 0 then s else (s.countColl 5 1).event 0x0058 1 srcColl [coll, x.line.toNat]
        let both := s.coll.finished.contains (16 * collTAgreed) &&
          (s.job.image.bind exchangeColl).any fun e => s.coll.finished.contains (16 * e)
        (if s.record.phase == 6 && both then s.setDone 6 else s).stallCheck)

/-! ## The exchange window (R422, R423) -/

/-- A rank's READY arrives at the leader (R422). -/
def execReady (rank : Nat) (carried : Bool) (s : State) : Out :=
  .next (if s.job.running && s.isMember && s.leader == s.coll.rank && s.actives.contains rank then s.takeReady rank carried else s)

/-- The window closes once its time has passed (R310, R422); in the first 8 steps after RUN it stays open for every active rank. -/
def execExchangeWindowClose (s : State) : Out :=
  .next (if s.job.running && s.coll.window && s.leader == s.coll.rank && decide (8 ≤ s.job.stepsRun) &&
      decide (s.coll.openNs.toNat + s.windowNs ≤ s.uptime) then s.sendStart else s)

/-- START arrives (R423). -/
def execStart (absent carried : List Nat) (s : State) : Out :=
  .next (if s.job.running && s.isMember && s.coll.started.isNone && s.leader != s.coll.rank then s.takeStart absent carried else s)

end Sys2Proof.Machine
end

