-- ==== Sys2Proof/Machine/Thermal.lean ====
section
/-! DEFINITION. Sensors, thermal ceilings, trips and emergency stops (R520 to R524, R589, R592, R598 to R600). Temperatures are
in 1/16 °C, voltages in mV, currents in mA, flow in mL/min. -/

namespace Sys2Proof.Machine

/-- The accepted range of a sensor (R598). -/
def sensorRange : Sensor → Int × Int
  | .basin _ | .hub | .runnel _ | .stack _ => (-640, 2400)
  | .inlet | .outlet => (-160, 1600)
  | .flow => (0, 30000)
  | .mainMv => (0, 80000)
  | .auxMv => (0, 20000)
  | .mainMa => (-5000, 200000)
  | .auxMa => (-1000, 5000)

/-- The Sensor ID of an event (R597, R606). The flow meter and the currents have none in R597: 15 to 17 (log 22). -/
def sensorId : Sensor → Nat
  | .basin d => 1 + d.val
  | .hub => 5
  | .runnel r => 6 + r.val
  | .stack _ => 8
  | .inlet => 9
  | .outlet => 10
  | .mainMv => 11
  | .auxMv => 12
  | .flow => 15
  | .mainMa => 16
  | .auxMa => 17

/-- The sensors of a die by the order of the telemetry mirror (R463). -/
def dieSensor (die : Fin 7) : Sensor :=
  if h : die.val < 4 then .basin ⟨die.val, h⟩ else if die.val = 4 then .hub else .runnel ⟨(die.val - 5) % 2, by omega⟩

/-! ## Stops (R522, R524) -/

/-- A trip or an emergency stop: ACLK stops, the rails go off, the bypass closes, and the Keeper holds a MAIN_POR until PWR_EN
has been deasserted and asserted (R522, R541); the record waits for the next start-up (R524). -/
def State.stop (s : State) (code : Nat) (args : List Nat) : State :=
  let s := { s with keeper := { s.keeper with heldRecords := s.keeper.heldRecords ++ [(code, 4, args)] } }
  let s := s.mainReset 4
  { s with keeper := { s.keeper with tripLatch := 1 } }

/-- An emergency stop, where the rails are on (R523, R524). -/
def State.emergencyStop (s : State) (cause : Nat) : State :=
  if s.keeper.rails then s.stop 0x0104 [0, cause, s.uptime] else s

/-- A junction at its trip threshold (R522). -/
def execThermalTrip (x : Sensor) (temp : Int) (s : State) : Out :=
  let at' : Option (Int × Nat) := match x with
    | .basin d => some (1840, d.val)
    | .hub => some (1840, 4)
    | .runnel r => some (1840, 5 + r.val)
    | .stack i => some (1680, i.val)
    | _ => none
  .next (match at' with
    | some (lim, unit) =>
      if s.keeper.rails && decide (lim ≤ temp) then
        let s := { s with keeper := { s.keeper with thermtrip := true } }
        s.stop 0x0103 [unit, argInt temp, s.uptime]
      else s
    | none => s)

/-- Loss of lock of the root PLL (R500): held for the next start-up, which the front end cannot store before (log 23). -/
def execPllUnlock (s : State) : Out :=
  .next (if s.keeper.rails then
      ({ s with keeper := { s.keeper with
          heldRecords := s.keeper.heldRecords ++ [(0x0107, 4, [0, s.uptime])] } } : State).mainReset 2
    else s)

/-! ## Coolant (R523) -/

/-- Is there a loss of flow (R523)? With the flow meter failed FLOW_OK alone judges it (R600). -/
def State.noFlow (s : State) : Bool :=
  let f := s.sensor .flow
  !s.keeper.flowOk || (s.keeper.sensors.has (sensorNo .flow) && !f.failed && decide (f.good < 1000))

/-- The inlet temperature the limit is computed with: 45 °C once its sensor has failed (R600). -/
def State.inletTemp (s : State) : Int := if (s.sensor .inlet).failed then 720 else (s.sensor .inlet).good

/-- The coolant limit and its range condition follow the flow and inlet readings; COOLANT_RANGE is recorded at the onset
(R523). -/
def State.coolantUpdate (s : State) : State :=
  let hasF := s.keeper.sensors.has (sensorNo .flow)
  let hasI := s.keeper.sensors.has (sensorNo .inlet)
  let flow := (s.sensor .flow).good
  let inlet := s.inletTemp
  let low := hasF && decide (flow < 6000)
  let hot := hasI && decide (640 < inlet)
  let cold := hasI && decide (inlet < 240)
  let f : Rat := if low then (flow : Rat) / 6000 else 1
  let t : Rat := if hot then 1 - ((inlet : Rat) / 16 - 40) / 20 else 1
  let on := low || hot || cold
  let onset := on && !s.sluice.coolantRange
  let s := { s with
    sluice := { s.sluice with coolant := if low || hot then some (4200 * f * t) else none, coolantRange := on }
    keeper := { s.keeper with flowLost := s.noFlow } }
  let s := if onset then s.event 0x0105 2 srcKeeper [0, argInt inlet, argInt flow] else s
  s.throttles

/-! ## Samples (R513, R520, R598, R600) -/

/-- Input power in mW from the last good readings; an input whose sensor has failed is judged by the domains' predicted power
on the main input and left out on the auxiliary one (R513, R600). -/
def State.inputPower (s : State) : Nat :=
  let pair (v i : Sensor) : Int := (s.sensor v).good * (s.sensor i).good / 1000
  let bad (v i : Sensor) : Bool := (s.sensor v).failed || (s.sensor i).failed
  let pred : Rat := (List.finRange 10).foldl (fun (x : Rat) d =>
    let k := s.sluice.doms.get d
    x + s.predicted d k.tag.toNat k.div k.pace) 0
  let m := if bad .mainMv .mainMa then (pred * 1000).floor else pair .mainMv .mainMa
  let a := if bad .auxMv .auxMa then 0 else pair .auxMv .auxMa
  (m + a).toNat

/-- A sample is range-checked (R598): outside its range it is discarded, the last good value stays, and it is counted. -/
def State.takeSample (s : State) (x : Sensor) (v : Int) : State :=
  let n := sensorNo x
  let k := s.sensor x
  let r := sensorRange x
  if r.1 ≤ v ∧ v ≤ r.2 then
    { s with keeper := { s.keeper with sensors := s.keeper.sensors.set n { k with good := v, rejects := 0 } } }
  else
    { s with keeper := { s.keeper with sensors := s.keeper.sensors.set n { k with rejects := k.rejects + 1 },
                                       rejectCnt := satInc s.keeper.rejectCnt } }

/-- A sensor sample (R598). A current of the main input completes a sample of input power (R513, log 24). -/
def execSensorSample (x : Sensor) (v : Int) (s : State) : Out :=
  let s := s.takeSample x v
  .next (match x with
    | .inlet | .flow => s.coolantUpdate
    | .mainMa => ({ s with sluice := { s.sluice with samples := (s.inputPower :: s.sluice.samples).take 100000 } } : State).floorEnd
    | _ => s)

/-- The 100 µs reading of a die's hottest junction (R520). -/
def execDieTempSample (die : Fin 7) (temp : Int) (s : State) : Out := .next (s.takeSample (dieSensor die) temp)

/-- The domains a die's ceiling acts on (R521): its own, or every basin domain for the Fountainhead. -/
def sensorDoms : Sensor → List (Fin 10)
  | .basin d => [⟨d.val, by omega⟩]
  | .hub => [0, 1, 2, 3]
  | .runnel r => [⟨8 + r.val, by omega⟩]
  | .stack i => [⟨4 + i.val / 8, by omega⟩]
  | _ => []

/-- A sensor fails (R600) and its fallback applies. -/
def execSensorFail (x : Sensor) (s : State) : Out :=
  let k := s.sensor x
  .next (if k.failed then s
    else
      let s := { s with keeper := { s.keeper with sensors := s.keeper.sensors.set (sensorNo x) { k with failed := true } } }
      let s := s.event 0x0120 3 srcKeeper [sensorId x, argInt k.good]
      let s := (sensorDoms x).foldl (fun s d =>
        (s.modDom d fun y => if isAclk d then { y with ceilDiv := 4 } else { y with ceilPace := min 8 y.ceilPace }).settle d) s
      match x with
      | .inlet | .flow => s.coolantUpdate
      | _ => s.throttles)

/-! ## Ceilings (R521) -/

/-- The sensors whose reading acts on a domain's ceiling. -/
def domSensors (d : Fin 10) : List Sensor :=
  if h : d.val < 4 then [.basin ⟨d.val, h⟩, .hub]
  else if h : d.val < 8 then (List.range 8).filterMap fun i => if g : 8 * (d.val - 4) + i < 32 then some (.stack ⟨8 * (d.val - 4) + i, g⟩) else none
  else [.runnel ⟨(d.val - 8) % 2, by omega⟩]

/-- The first sensor above the limit of a domain: above THROTTLE_C for a die, at or above 95 °C for a stack (R521). -/
def State.hotSensor (s : State) (d : Fin 10) : Option Sensor :=
  (domSensors d).find? fun x =>
    if isAclk d then decide ((16 * s.sluice.throttleC : Nat) < (s.sensor x).good) else decide (1520 ≤ (s.sensor x).good)

/-- Are all of a domain's sensors at or below the release level, and none failed (R521, R600)? -/
def State.coolEnough (s : State) (d : Fin 10) : Bool :=
  (domSensors d).all fun x =>
    !(s.sensor x).failed &&
      (if isAclk d then decide ((s.sensor x).good ≤ (16 * (s.sluice.throttleC - 3) : Nat)) else decide ((s.sensor x).good ≤ 1472))

/-- The unit a thermal event names: the die in the telemetry mirror's order, or the stack. -/
def sensorUnit : Sensor → Nat
  | .basin d => d.val
  | .hub => 4
  | .runnel r => 5 + r.val
  | .stack i => i.val
  | _ => 0

/-- A ceiling is lowered (R521); the first lowering of an episode is recorded. -/
def execThermalCeilingLower (d : Fin 10) (s : State) : Out :=
  .next (match s.hotSensor d with
    | none => s
    | some x =>
      let first := !(s.sluice.doms.get d).episode
      let s := s.modDom d fun y =>
        if isAclk d then { y with ceilDiv := min 4 (y.ceilDiv + 1), episode := true, urgent := true }
        else { y with ceilPace := paceDown y.ceilPace 8, episode := true, urgent := true }
      let s := s.settle d
      let s := if first then s.event 0x0102 2 srcKeeper [sensorUnit x, argInt (s.sensor x).good] else s
      s.throttles)

/-- A ceiling is raised (R521). The domain itself speeds up only when it next adopts a budget (R503). -/
def execThermalCeilingRaise (d : Fin 10) (s : State) : Out :=
  .next (if s.coolEnough d then
      (s.modDom d fun y =>
        let cd := if isAclk d then y.ceilDiv - 1 else y.ceilDiv
        let cp := if isAclk d then y.ceilPace else min 64 (y.ceilPace + 8)
        { y with ceilDiv := cd, ceilPace := cp, episode := y.episode && (cd != 0 || cp != 64) }).throttles
    else s)

/-! ## Coolant pins and timeouts (R523, R589) -/

/-- FLOW_OK changes, deglitched (R589). -/
def execFlowOkChange (level : Bool) (s : State) : Out :=
  let s := { s with keeper := { s.keeper with flowOk := level } }
  .next { s with keeper := { s.keeper with flowLost := s.noFlow } }

/-- Loss of flow has lasted 500 ms in Flowing, 5 s in Trickle or Still (R523). -/
def execFlowLossTimeout (s : State) : Out := .next (if s.noFlow then s.emergencyStop 0 else s)

/-- LEAK# asserted, deglitched (R523, R589). -/
def execLeakAssert (s : State) : Out :=
  .next (({ s with keeper := { s.keeper with leak := true } } : State).emergencyStop 1)

/-- LEAK# released, deglitched (R589). -/
def execLeakRelease (s : State) : Out := .next { s with keeper := { s.keeper with leak := false } }

/-- The inlet has stood above 45 °C for 1 s (R523). -/
def execInletOvertempTimeout (s : State) : Out :=
  .next (if 720 < (s.sensor .inlet).good then s.emergencyStop 2 else s)

/-! ## ALERT# (R592, R597) -/

/-- What a numeric sensor of R597 measures now. The HBM sensor is the hottest stack. -/
def State.pldmNow (s : State) (id : Nat) : Int :=
  match id with
  | 1 => (s.sensor (.basin 0)).good
  | 2 => (s.sensor (.basin 1)).good
  | 3 => (s.sensor (.basin 2)).good
  | 4 => (s.sensor (.basin 3)).good
  | 5 => (s.sensor .hub).good
  | 6 => (s.sensor (.runnel 0)).good
  | 7 => (s.sensor (.runnel 1)).good
  | 8 => (List.finRange 32).foldl (fun (m : Int) i => max m (s.cisterns.get i).temp.toInt) (s.cisterns.get 0).temp.toInt
  | 9 => (s.sensor .inlet).good
  | 10 => (s.sensor .outlet).good
  | 11 => (s.sensor .mainMv).good
  | 12 => (s.sensor .auxMv).good
  | 13 => (s.meanW 1000 * 1000).floor
  | 14 => (s.meanW 100000 * 1000).floor
  | _ => 0

/-- The reading of a numeric sensor of R597, that of the telemetry mirror: none when unavailable. -/
def State.pldmReading (s : State) (id : Nat) : Option Int :=
  if id < 1 ∨ 14 < id ∨ (id ≤ 8 ∧ s.keeper.rails = false) then none else some (s.keeper.readings.get 0 id)

/-- The sensors behind a numeric sensor of R597. -/
def pldmSensors (id : Nat) : List Sensor :=
  match id with
  | 1 => [.basin 0]
  | 2 => [.basin 1]
  | 3 => [.basin 2]
  | 4 => [.basin 3]
  | 5 => [.hub]
  | 6 => [.runnel 0]
  | 7 => [.runnel 1]
  | 8 => (List.finRange 32).map fun i => .stack i
  | 9 => [.inlet]
  | 10 => [.outlet]
  | 11 => [.mainMv]
  | 12 => [.auxMv]
  | 13 | 14 => [.mainMv, .auxMv, .mainMa, .auxMa]
  | _ => []

/-- Has a numeric sensor failed (R600)? -/
def State.pldmFailed (s : State) (id : Nat) : Bool := (pldmSensors id).any fun x => (s.sensor x).failed

/-- Thresholds of a numeric sensor (R597), in the unit of its reading: upper warning, upper critical, lower warning, lower
critical. -/
def State.pldmLimits (s : State) (id : Nat) : Option Int × Option Int × Option Int × Option Int :=
  if id ≤ 7 then (some (16 * s.sluice.throttleC : Nat), some 1840, none, none)
  else match id with
    | 8 => (some 1520, some 1680, none, none)
    | 9 => (some 640, some 720, some 240, none)
    | 10 => (some 880, some 1040, none, none)
    | 11 => (some 60000, some 65000, some s.sluice.warnMv, some s.sluice.resetMv)
    | 12 => (some 13200, some 15000, some 10700, some 10400)
    | _ => (some (1000 * s.sluice.sustainedW : Nat), some (1000 * s.sluice.peakW : Nat), none, none)

/-- Has a sensor of R597 a sample? -/
def State.pldmTaken (s : State) (id : Nat) : Bool :=
  if id = 8 then s.keeper.rails
  else (pldmSensors id).all fun x => s.keeper.sensors.has (sensorNo x)

/-- The readings as a rewrite of the telemetry mirror leaves them (R463, R597): those of the sensors that have a sample. -/
def State.newReadings (s : State) : Tbl Int := (List.range 14).filterMap fun k =>
  if s.pldmTaken (k + 1) then some (k + 1, s.pldmNow (k + 1)) else none

/-- Has a sensor of R597 a reading that has been taken? -/
def State.pldmSampled (s : State) (id : Nat) : Bool := s.keeper.readings.has id

/-- Does a reading lie beyond one of its thresholds (R592)? -/
def State.pldmBeyond (s : State) (id : Nat) : Bool :=
  match s.pldmSampled id, s.pldmReading id with
  | true, some v =>
    let (uw, uc, lw, lc) := s.pldmLimits id
    let above (t : Option Int) : Bool := match t with | some x => decide (x < v) | none => false
    let below (t : Option Int) : Bool := match t with | some x => decide (v < x) | none => false
    above uw || above uc || below lw || below lc
  | _, _ => false

/-- ALERT# (R592). -/
def State.alert (s : State) : Bool :=
  (List.range 14).any (fun i => s.pldmBeyond (i + 1)) || s.keeper.sensors.any (fun p => p.2.failed) || s.keeper.noSlot ||
    s.keeper.abandoned

end Sys2Proof.Machine
end

