-- ==== Sys2Proof/Machine/CxlPort.lean ====
section
/-! DEFINITION. The CXL port: link, host-side resets, the host window, DOE, MSI-X and the telemetry mirror (R441 to R465). -/

namespace Sys2Proof.Machine

/-! ## Link and host-side resets (R441, R442, R465) -/

/-- Configuration space returns to its defaults, and the interrupt registers to reset (R465, log 3). -/
def Cxl.flr (x : Cxl) : Cxl :=
  { x with cause := 0, mask := 0x7FFF, vecMask := 0xFFFF, msixTable := [], pba := 0, msixEn := false, funcMask := false }

/-- Link down and hot reset (R465): the decoder uncommits and the ownership filter is cleared. -/
def Cxl.down (x : Cxl) : Cxl :=
  { x.flr with rate := 0, width := 0, degraded := false, enabled := false, committed := false, commitError := false,
               filter := [], snoops := [] }

/-- The link trains (R441, R442): `rate` is coded as in R459. A link of fewer than 4 lanes stays down. -/
def execCxlLinkUp (rate width : Nat) (flit256 : Bool) (s : State) : Out :=
  .next (if !s.keeper.rails || outside rate 1 4 || !(width == 4 || width == 8 || width == 16) then s
    else
      let degraded := !(rate == 4 && width == 16)
      let s := { s with cxl := { s.cxl with
        rate := BitVec.ofNat 3 rate, width := BitVec.ofNat 5 width, degraded := degraded, enabled := flit256 } }
      let s := if flit256 then s else s.event 0x0060 3 srcFront [rate, width]
      let s := if degraded then s.event 0x0061 2 srcFront [rate, width] else s
      s.raise icHostLink)

/-! ## The host window (R447 to R450) -/

/-- The host commits the HDM decoder (R447). -/
def execHdmDecoderCommit (size ways skip : Nat) (s : State) : Out :=
  .next (if s.cxl.rate = 0 || !s.cxl.enabled then s
    else if size = s.caps.hostWindow ∧ size ≠ 0 ∧ ways = 1 ∧ skip = 0 then
      { s with cxl := { s.cxl with committed := true, commitError := false } }
    else { s with cxl := { s.cxl with commitError := true } })

/-- Is a line of the window open to the host? -/
def State.lineOpen (s : State) (line : Nat) : Bool :=
  s.cxl.rate != 0 && s.cxl.enabled && s.cxl.committed && s.keeper.rails && decide (64 * line + 64 ≤ s.caps.hostWindow)

/-- Entries of the ownership filter (R448). -/
def filterSize : Nat := 2 ^ 20

/-- A CXL.mem read (R448, R449): while the filter is full, its oldest entry is snooped first. -/
def execCxlMemRead (line : Nat) (s : State) : Out :=
  .next (if !s.lineOpen line || s.cxl.snoops.contains line then s
    else if !s.cxl.filter.contains line && decide (filterSize ≤ s.cxl.filter.length) then
      match s.cxl.filter with
      | old :: _ =>
        if s.cxl.snoops.contains old then s
        else ({ s with cxl := { s.cxl with snoops := s.cxl.snoops ++ [old] } } : State).send (.bisnp old true)
      | [] => s
    else
      let a := windowAddr (64 * line)
      let raw (w : Option (List Byte)) (a : Nat) : List Byte := w.getD ((s.tierRaw a).take 32)
      let (d0, s1) := s.demandRead a
      let (d1, s2) := s1.demandRead (a + 32)
      let s := if s2.cxl.filter.contains line then s2 else { s2 with cxl := { s2.cxl with filter := s2.cxl.filter ++ [line] } }
      s.send (.cxlMem line (raw d0 a ++ raw d1 (a + 32)) (d0.isNone || d1.isNone)))

/-- Bytes of a word with those that a mask enables replaced. -/
def mergeBytes (old new : List Byte) (en : Nat → Bool) (from' : Nat) : List Byte :=
  (List.range 32).map fun k => if en (from' + k) then new.getD (from' + k) 0 else old.getD k 0

/-- A CXL.mem write (R449): a whole line is encoded afresh; a partial one is merged, and is lost where a stored word is
uncorrectable. -/
def execCxlMemWrite (line : Nat) (data : List Byte) (enables : W64) (s : State) : Out :=
  .next (if !s.lineOpen line || s.cxl.snoops.contains line then s
    else
      let a := windowAddr (64 * line)
      let s := if enables = BitVec.allOnes 64 then
          (s.tierPut a (encodeWord (fitBytes 32 data))).tierPut (a + 32) (encodeWord (fitBytes 32 (data.drop 32)))
        else
          let (d0, s1) := s.demandRead a
          let (d1, s2) := s1.demandRead (a + 32)
          match d0, d1 with
          | some x, some y =>
            (s2.tierPut a (encodeWord (mergeBytes x data enables.getLsbD 0))).tierPut (a + 32)
              (encodeWord (mergeBytes y data enables.getLsbD 32))
          | _, _ => (s2.tierPut a lostWord).tierPut (a + 32) lostWord
      s.send (.cxlDone line))

/-- The host answers a back-invalidation snoop (R448): an entry snooped because the filter was full leaves it. -/
def execBisnpResponse (line : Nat) (s : State) : Out :=
  let x := s.cxl
  .next (if x.snoops.contains line then
      let evicted := decide (filterSize ≤ x.filter.length) && x.filter.head? == some line
      { s with cxl := { x with
        snoops := x.snoops.filter (· != line), filter := if evicted then x.filter.drop 1 else x.filter } }
    else s)

/-- A host snoop (R445). -/
def execHostSnoop (addr : Nat) (s : State) : Out :=
  .next (if s.cxl.rate != 0 && s.cxl.enabled then s.send (.snoopRsp addr) else s)

/-! ## DOE (R454) -/

/-- DOE Discovery: the two protocols served, as vendor and type (PRESUMED, log 3). -/
def doeDiscovery : List Nat := [0x0001, 0x00, 0x1E98, 0x02]

/-- The CDAT (R454): its sequence number, DSMAS (handle, base, length, non-volatile), DSLBIS (handle, read and write latency in ns,
read and write bandwidth in GB/s) and DSEMTS (handle, specific-purpose type). -/
def State.cdat (s : State) : List Nat := [s.cxl.cdatSeq, 0, 0, s.caps.hostWindow, 0, 0, 650, 700, 115, 115, 0, 1]

/-- A DOE request is served (R454). -/
def execDoeTableAccess (discovery : Bool) (s : State) : Out :=
  .next (if s.cxl.rate = 0 then s else s.send (.doe (if discovery then doeDiscovery else s.cdat)))

/-! ## MSI-X (R462) -/

/-- A vector is unmasked (R462): a pending message is sent. -/
def State.unmask (s : State) (v : Nat) : State :=
  let x := { s.cxl with vecMask := setBit s.cxl.vecMask v false }
  if x.pba.getLsbD v && x.msixEn && !x.funcMask then
    ({ s with cxl := { x with pba := setBit x.pba v false } } : State).send (.msix v)
  else { s with cxl := x }

/-- A vector is unmasked (R462). -/
def execMsixVectorUnmask (v : Fin 16) (s : State) : Out := .next (s.unmask v.val)

/-! ## The telemetry mirror (R463) -/

/-- KP_BYPASS's two fields (R408). -/
def Keeper.bypass (k : Keeper) : Nat := k.closed.toNat + 16 * k.energised.toNat

/-- Bytes 0x008 to 0x0FF of the mirror (R463). -/
def State.mirrorBytes (s : State) : List Byte :=
  let w (n : Nat) (x : Sensor) : List Byte := leBytes n (ofSigned (8 * n) (s.sensor x).good)
  let mw (n : Nat) : List Byte := leBytes 4 (s.meanW n * 1000).floor.toNat
  let hbm : Int := (List.finRange 32).foldl (fun (m : Int) i => max m (s.cisterns.get i).temp.toInt) (s.cisterns.get 0).temp.toInt
  let dom (d : Fin 10) : List Byte :=
    let x := s.sluice.doms.get d
    [BitVec.ofNat 8 (rootCycles x.div), BitVec.ofNat 8 x.pace]
  let act := (List.range 64).foldl (fun (a : Nat) c => if (s.sluice.thr.get {} c).active then a + 2 ^ c else a) 0
  leBytes 8 s.uptime ++ leBytes 4 s.keeper.boot.toNat ++ w 2 .mainMv ++ w 2 .auxMv ++ mw 1000 ++ mw 100000 ++
    ([Sensor.basin 0, .basin 1, .basin 2, .basin 3, .hub, .runnel 0, .runnel 1].flatMap fun x => w 2 x) ++
    leBytes 2 (ofSigned 16 hbm) ++ w 2 .inlet ++ w 2 .outlet ++ w 2 .flow ++ zeroBytes 2 ++
    ((List.finRange 10).flatMap dom) ++ leBytes 8 act ++ leBytes 2 s.aclkTop ++ leBytes 2 (ofSigned 16 s.leastMargin) ++
    [BitVec.ofNat 8 s.keeper.bypass] ++ zeroBytes 167

/-- A rewrite of the mirror (R463): SEQ advances at its start and at its end. The sideband's readings change with it (R597); with the main
rails off, they alone do. -/
def execTelemetryRewrite (s : State) : Out :=
  let t := { s with keeper := { s.keeper with readings := s.newReadings } }
  .next (if s.keeper.rails then { t with cxl := { s.cxl with mirrorSeq := s.cxl.mirrorSeq + 2, mirror := s.mirrorBytes } } else t)

end Sys2Proof.Machine
end

