-- ==== Sys2Proof/Machine/Slots.lean ====
section
/-! DEFINITION. The firmware slots: reading a slot image from its bytes (R566, R567, R577), and the boot record (R565). -/

namespace Sys2Proof

open Machine (sha256)

/-- The header entry of component `c` (R566): OFFSET, LENGTH, VERSION, 20 zero bytes and the SHA-256. -/
def slotPart (b : List Byte) (c : Nat) : List Byte := (b.drop (0x40 + 64 * c)).take 64

/-- The bytes of component `c`. -/
def slotContent (b : List Byte) (c : Nat) : List Byte := (b.drop (field (slotPart b c) 0 4)).take (field (slotPart b c) 4 4)

/-- Are `n` bytes from `o` zero? -/
def zeroAt (b : List Byte) (o n : Nat) : Bool := field b o n == 0

/-- MAGIC, FORMAT, reserved bytes and the layout rules of R566, for a slot image of the length that IMAGE_BYTES states. -/
def slotLayoutOk (b : List Byte) : Bool :=
  let off (c : Nat) : Nat := field (slotPart b c) 0 4
  let len (c : Nat) : Nat := field (slotPart b c) 4 4
  let apart (c d : Nat) : Bool := decide (off c + len c ≤ off d) || decide (off d + len d ≤ off c)
  b.take 4 == [0x4A, 0x46, 0x57, 0x49] && field b 4 2 == 1 && decide (field b 6 1 < 4) && decide (field b 7 1 ≤ 128) &&
    field b 8 8 == b.length && decide (b.length ≤ 2 ^ 26) && decide (field b 0x10 1 < 16) && zeroAt b 0x11 15 && zeroAt b 0x100 0x300 &&
    ((List.range 3).all fun c => off c % 4096 == 0 && decide (0x3000 ≤ off c) && decide (off c + len c ≤ b.length) &&
      zeroAt (slotPart b c) 12 20) &&
    apart 0 1 && apart 0 2 && apart 1 2

/-- A slot image as its bytes read (R566): what R567 checks of it, and the measurements of R577. -/
def parseSlot (b : List Byte) : SlotImage :=
  let key := (b.drop 0x20).take 32
  let hashOk (c : Nat) : Bool := sha256 (slotContent b c) == (slotPart b c).drop 32
  let version (c : Nat) : W32 := BitVec.ofNat 32 (field (slotPart b c) 8 4)
  { layoutOk := slotLayoutOk b, keyIndex := ⟨field b 6 1 % 4, by omega⟩, svn := field b 7 1, revokeMask := BitVec.ofNat 4 (field b 0x10 1),
    publicKeyHash := sha256 key, signatureOk := Config.slhVerify key (b.take 0x400) ((b.drop 0x400).take 7856),
    keeperHashOk := hashOk 0, otherHashesOk := hashOk 1 && hashOk 2, versions := (version 0, version 1, version 2),
    measurements := sha256 (b.take 0x22B0) :: (List.range 3).map fun c => sha256 (slotContent b c), bytes := b.length }

namespace Machine

/-- What a slot of `n` bytes holds (R571): the bytes as written, and the image they make. -/
def slotWritten (m : Mem) (n : Nat) : SlotImage := { parseSlot (memTake m 0 n) with content := m }

/-- A write of the boot record (R565): it goes to the copy with the older sequence number, which advances past the other's. -/
def Firmware.record (f : Firmware) : Firmware := { f with older := (f.active, f.pend, f.tries, f.recSeq), recSeq := f.recSeq + 1 }

end Machine

end Sys2Proof
end

