-- ==== Sys2Proof/Machine/Startup.lean ====
section
/-! DEFINITION. Start-up: the checks on a slot, the choice of a slot, what each step of start-up leaves, failures, and the bypass
switches (R398, R399, R539 to R546, R566 to R574). -/

namespace Sys2Proof

/-! ## Slots (R567, R568) -/

namespace Machine

/-- The checks of R567 in order: the AUTH DETAIL code of the first that fails; `full` is false where the ROM checks component 0
alone (R569). A slot marked invalid or never written fails the first. -/
def Firmware.slotCheck (f : Firmware) (x : Option SlotImage) (full : Bool) : Option Nat :=
  match x with
  | none => some 1
  | some i =>
    if !i.layoutOk || decide (128 < i.svn) then some 1
    else if f.keys.get i.keyIndex != some i.publicKeyHash then some 2
    else if f.revoked.getLsbD i.keyIndex.val then some 3
    else if i.svn < f.rollback then some 4
    else if !i.signatureOk then some 5
    else if !i.keeperHashOk || (full && !i.otherHashesOk) then some 6
    else none

/-- The SHA-256 of a slot's Keeper component (R577). -/
def SlotImage.keeper (i : SlotImage) : List Byte := i.measurements.getD 1 []

/-! ## Step 1 (R569, R591) -/

/-- The ROM boots the Keeper component of a slot. -/
def Firmware.bootKeeper (f : Firmware) (i : SlotImage) : Firmware :=
  { f with keeperHash := SlotImage.keeper i, versions := (i.versions.1, f.versions.2) }

/-- Keeper boot (R569): ACTIVE, then the other slot (log 27). SLOT_ID is latched at the end of step 1 after AUX_POR (R591). -/
def execKeeperBoot (s : State) : Out :=
  let f := s.fw
  let try' (b : Bool) : Option SlotImage := if f.slotCheck (f.slot b) false = none then f.slot b else none
  .next (if s.keeper.step ≠ 1 then s
    else match (try' f.active).orElse fun _ => try' (!f.active) with
      | none => { s with keeper := { s.keeper with noSlot := true } }
      | some i =>
        let k := s.keeper
        { s with
          fw := f.bootKeeper i
          keeper := { k with noSlot := false, step := 2, stepNs := k.uptime,
                             slotId := if k.cls = 1 then k.slotPins else k.slotId,
                             slotChanged := if k.cls = 1 then false else k.slotChanged } })

/-! ## Failure of a step (R543) -/

/-- A record the Keeper holds for the next start-up (R546, log 23). -/
def State.holdRecord (s : State) (code sev : Nat) (args : List Nat) : State :=
  { s with keeper := { s.keeper with heldRecords := s.keeper.heldRecords ++ [(code, sev, args)] } }

/-- Start-up is abandoned (R543): rails off, the bypass let go, READY low. -/
def State.abandon (s : State) : State :=
  let s := (s.holdRecord 0x0112 4 [s.keeper.step]).diesReset false
  { s with keeper := { s.keeper with abandoned := true, rails := false, aclkOn := false, energised := 0, powerState := 3,
                                     fwAlive := false, ctrlReady := false, dataReady := false, ready := false, fwRestart := false,
                                     stateReq := none, warmPending := false, warmHold := false } }

/-- The step in progress fails (R543). -/
def State.startupFail (s : State) (ms : Nat) : State :=
  let k := s.keeper
  let s := (({ s with keeper := { k with failStep := k.step } } : State).holdRecord 0x0111 3 [k.step, ms])
  if k.chainFails = 0 then
    let s := s.warmReset 2 true
    { s with keeper := { s.keeper with chainFails := 1 } }
  else s.abandon

/-- Is a start-up step running that may fail or end? Waits in step 2 and held resets do not count (R541, R548). -/
def Keeper.stepping (k : Keeper) : Bool :=
  decide (1 ≤ k.step) && decide (k.step ≤ 10) && !(k.step == 2 && !k.rails) && !k.warmHold && !k.abandoned

/-- A step exceeds its maximum time or fails as a whole (R543). -/
def execStartupStepTimeout (ms : Nat) (s : State) : Out := .next (if s.keeper.stepping then s.startupFail ms else s)

/-! ## Step 4 (R546, R556, R570, R573, R577) -/

/-- The Keeper chooses the slot (R573): the slot, whether it is a trial, and the state after the boot record is written. -/
def State.chooseSlot (s : State) : Bool × Bool × State :=
  let f := s.fw
  match f.pend with
  | none => (f.active, false, s)
  | some p =>
    if f.tries then (p, true, ({ s with fw := { f.record with tries := false } } : State).event 0x0201 1 srcKeeper [slotNo p])
    else (f.active, false, ({ s with fw := { f.record with pend := none } } : State).event 0x0203 3 srcKeeper [slotNo p, f.trialStep])

/-- The three components of a slot run (R570), and the identity engine derives its key pair (R575) and measures them (R577). A Keeper
component other than the one running is booted through the ROM: KEEPER_RESTART. -/
def State.bootSlot (s : State) (b trial : Bool) (i : SlotImage) : State :=
  let f := s.fw
  let s := if f.keeperHash = SlotImage.keeper i then s
    else s.event 0x0207 1 srcKeeper [f.versions.1.toNat, i.versions.1.toNat]
  { s with fw := { f with
      running := b, keyIndex := i.keyIndex.val, trial := trial, trialStep := if trial then 4 else f.trialStep,
      keeperHash := SlotImage.keeper i, versions := i.versions, measures := i.measurements,
      keyPair := some (Config.slhKeyPair f.skSeed f.skPrf f.pkSeed) } }

/-- Step 4: BOOT_COUNT advances, the held records are stored ahead of any new event, and the chosen slot is checked and booted;
the other slot is tried once (R570). None where both fail. -/
def State.bootFirmware (s : State) : State × Bool :=
  let k := s.keeper
  let s := { s with keeper := { k with boot := satInc k.boot, heldRecords := [] } }
  let s := k.heldRecords.foldl (fun (s : State) e => s.store e.1 e.2.1 srcKeeper e.2.2) s
  let (b, trial, s) := s.chooseSlot
  match s.fw.slot b, s.fw.slotCheck (s.fw.slot b) true with
  | some i, none => (s.bootSlot b trial i, true)
  | _, d =>
    match s.fw.slot (!b), s.fw.slotCheck (s.fw.slot (!b)) true with
    | some i, none => ((s.event 0x0204 3 srcKeeper [slotNo b, d.getD 1]).bootSlot (!b) false i, true)
    | _, e => ((s.holdRecord 0x0204 3 [slotNo b, d.getD 1]).holdRecord 0x0204 3 [slotNo (!b), e.getD 1], false)

/-! ## Steps 5 to 10 (R542, R544, R545) -/

/-- Units that failed their training are dead (R542). -/
def State.trainFailed (s : State) (us : List MemUnit) : State := us.foldl (fun s u => s.mapOutRequest u 5 true) s

/-- A dimension whose ports have both failed calibration keeps its switch closed (R542). -/
def State.portsFailed (s : State) (ps : List (Fin 6)) : State :=
  let keep (d : Nat) : Bool := ps.any (fun p => p.val == 2 * d) && ps.any (fun p => p.val == 2 * d + 1)
  let e := (List.range 3).foldl (fun (x : BitVec 3) d => if keep d then setBit x d false else x) s.keeper.energised
  { s with keeper := { s.keeper with energised := e } }

/-- Step 9: the memories are initialised, or preserved with the step and the slot written back (R544 to R546). -/
def State.memoryInit (s : State) : State :=
  let k := s.keeper
  if k.preq && k.entry == 4 then
    ({ s with
        keeper := { k with pused := true, preq := false }
        record := { s.record with globalStep := k.pstep, slot := k.vslot, phase := 0 } } : State).event 0x0113 1 srcKeeper
      [k.pstep.toNat, slotNo k.vslot]
  else { s with keeper := { k with pused := false }, tiers := [] }

/-- Step 10: stores hold zero words, and an array that fails its self-test is disabled (R116, R539). -/
def State.selfTest (s : State) (pass : Tbl Byte) : State :=
  let masks (s : State) : List Nat := (List.finRange 160).map fun j => (s.jet j).arrayMask
  let t : State := { s with
    jets := Vector.ofFn fun j =>
      let x := s.jet j
      { x with core := { x.core with store := [] }, test := pass.get 0xFF j.val }
    runnels := s.runnels.map fun r => { r with cores := r.cores.map fun k => { k with store := [] } } }
  if masks t = masks s then t else t.capChange

/-! ## Step 11 (R574) -/

/-- Revocation fuses named by a slot's REVOKE_MASK and not blown, except that of its own key. -/
def Firmware.toRevoke (f : Firmware) (i : SlotImage) : List Nat :=
  (List.range 4).filter fun k => i.revokeMask.getLsbD k && k != i.keyIndex.val && !f.revoked.getLsbD k

/-- A trial that has reached DATA_READY is activated (R574). -/
def State.activate (s : State) : State :=
  let f := s.fw
  match f.trial, f.slot f.running with
  | true, some i =>
    let ks := f.toRevoke i
    let s := { s with fw := { f.record with
      active := f.running, pend := none, trial := false, trialStep := 0, rollback := max f.rollback (min 128 i.svn),
      revoked := ks.foldl (fun (x : BitVec 4) k => setBit x k true) f.revoked } }
    let s := if f.rollback < i.svn then s.event 0x0205 1 srcKeeper [f.rollback, i.svn] else s
    let s := ks.foldl (fun s k => s.event 0x0206 2 srcKeeper [k]) s
    s.event 0x0202 1 srcKeeper [slotNo f.running, i.svn, i.versions.2.1.toNat]
  | _, _ => s

/-- Step 11: DATA_READY unless MEM_FATAL or MARGIN_EXHAUSTED holds (R542), with CTRL_READY set by the end of step 10 (R539); the trial is
activated, STARTUP_DONE is recorded, and READY follows (R36, R550). -/
def State.startupDone (s : State) : State :=
  let k := s.keeper
  let ok := !k.memFatal && !k.exhausted
  let s := { s with keeper := { k with dataReady := ok, ctrlReady := k.ctrlReady || ok, powerState := 0 } }
  let s := if ok then s.activate else s
  (s.event 0x0115 0 srcKeeper [(s.uptime - k.entryNs.toNat) / 1000000, k.entry]).readyUpdate

/-- The next step begins. -/
def State.toStep (s : State) (n : Nat) : State :=
  { s with
    keeper := { s.keeper with step := n, stepNs := s.keeper.uptime }
    fw := if s.fw.trial then { s.fw with trialStep := n } else s.fw }

/-- The step in progress completes, and the next begins (R539). -/
def State.stepDone (s : State) (rep : StepReport) : State :=
  let channels := rep.failedUnits.filter fun u => match u with | .channel _ _ => true | _ => false
  let packages := rep.failedUnits.filter fun u => match u with | .package _ _ => true | _ => false
  match s.keeper.step with
  | 2 => s.toStep 3
  | 3 => ({ s with keeper := { s.keeper with aclkOn := true } } : State).toStep 4
  | 4 =>
    let r := s.bootFirmware
    if r.2 then r.1.toStep 5 else r.1.startupFail ((s.uptime - s.keeper.stepNs.toNat) / 1000000)
  | 5 => (s.trainFailed channels).toStep 6
  | 6 => (s.trainFailed packages).toStep 7
  | 7 =>
    let s := s.portsFailed rep.failedPorts
    ({ s with sluice := { s.sluice with planDue := true, planned := [] } } : State).toStep 8
  | 8 => s.toStep 9
  | 9 => s.memoryInit.toStep 10
  | 10 => ((s.selfTest rep.arrayPass).toStep 11).startupDone
  | _ => s

/-- A step of start-up completes (R539). Step 1 ends with the Keeper's boot, and step 2 only once the rails are up. -/
def execStartupStepAdvance (rep : StepReport) (s : State) : Out :=
  .next (if s.keeper.stepping && s.keeper.rails then s.stepDone rep else s)

/-! ## Step 2 (R541) -/

/-- The Keeper raises the main rails once the conditions of R541 hold: PWR_EN, the main input above its warning threshold, and after
a trip a PWR_EN cycle. STATE_NOW leaves Dry (R590); a leak stops the module as soon as the rails are up (R523, R588). -/
def execMainPowerEnable (s : State) : Out :=
  let k := s.keeper
  .next (if k.step == 2 && !k.rails && k.pwrEn && k.tripLatch == 0 && !s.sluice.sagMain && !k.abandoned then
      let s := { s with keeper := { k with rails := true, powerState := 0, stepNs := k.uptime } }
      if k.leak then s.emergencyStop 1 else s
    else s)

/-! ## The bypass switches (R398, R399, R408) -/

/-- Both ports of a dimension take a state, where `f` says so. -/
def State.dimPorts (s : State) (d : Fin 3) (f : Port → Port) : State :=
  (s.modPort ⟨2 * d.val, by omega⟩ f).modPort ⟨2 * d.val + 1, by omega⟩ f

/-- Are both ports of the dimension before `d` UP, or have 5 ms passed since its switch opened (R399)? A switch that stays closed (R542) is
not waited for. -/
def State.mayOpen (s : State) (d : Fin 3) : Bool :=
  let up (p : Nat) : Bool := if h : p < 6 then (s.weir.ports.get ⟨p, h⟩).state == 2 else false
  d == 0 || !s.keeper.energised.getLsbD (d.val - 1) || (up (2 * d.val - 2) && up (2 * d.val - 1)) || decide (s.keeper.openNs.toNat + 5000000 ≤ s.uptime)

/-- The Keeper opens a switch in step 7 of start-up, X before Y before Z (R399): its ports leave BYPASSED. -/
def execBypassOpen (d : Fin 3) (s : State) : Out :=
  let k := s.keeper
  let turn := (List.range 3).all fun e => decide (e < d.val) || !k.energised.getLsbD e
  .next (if k.step == 7 && k.rails && turn && s.mayOpen d then
      (({ s with keeper := { k with
          energised := setBit k.energised d.val true, closed := setBit k.closed d.val false, openNs := k.uptime } } : State).dimPorts d
        fun p => if p.state = 3 then { p with state := 0 } else p)
    else s)

/-- A switch that is not energised has closed (R398, R399): both ports are BYPASSED. -/
def execBypassSwitchClosed (d : Fin 3) (s : State) : Out :=
  let k := s.keeper
  .next (if k.energised.getLsbD d.val then s
    else ({ s with keeper := { k with closed := setBit k.closed d.val true } } : State).dimPorts d fun p => { p with state := 3 })

end Machine

end Sys2Proof
end

