-- ==== Sys2Proof/Machine/Keeper.lean ====
section
/-! DEFINITION. The Keeper: reset requests, the firmware's heartbeat and restart, power states, the pins and the clock reference
(R35 to R39, R481, R547 to R555, R588 to R592). -/

namespace Sys2Proof.Machine

/-! ## Reset requests (R37, R547, R550) -/

/-- Is a start-up in progress? -/
def Keeper.starting (k : Keeper) : Bool := decide (k.step < 11) && !k.abandoned

/-- The class whose start-up is in progress, by the step it entered at (R547). -/
def Keeper.startClass (k : Keeper) : Nat := if k.entry = 1 then 1 else if k.entry = 2 then 2 else 3

/-- Is a request of a class absorbed (R37, R550)? One no stronger than the reset being carried out is (log 25). -/
def State.absorbs (s : State) (cls : Nat) : Bool := s.keeper.starting && decide (s.keeper.startClass ≤ cls)

/-- May a warm reset be taken: the rails are up, start-up has not been abandoned, and no stronger reset is being carried out? -/
def State.warmMay (s : State) : Bool := s.keeper.rails && !s.keeper.abandoned && !s.absorbs 3

/-- AUX_POR (R547). -/
def execAuxPor (s : State) : Out := .next (s.auxReset 3)

/-- MAIN_POR (R547). -/
def execMainPor (trigger : Fin 5) (s : State) : Out := .next (if s.absorbs 2 then s else s.mainReset trigger.val)

/-- A warm reset begins (R547, R548): for PERST# while it is asserted, 10 ms after WARM_RESET, or by the Keeper. Supply and thermal
conditions request class 2. -/
def execWarmResetBegin (trigger : Fin 5) (s : State) : Out :=
  let k := s.keeper
  let due := match trigger.val with
    | 0 => k.perst
    | 1 => k.warmPending
    | 2 => true
    | _ => false
  .next (if due && s.warmMay then s.warmReset trigger.val false else s)

/-- A held reset goes on from step 4 with ACLK (R548). -/
def State.endHold (s : State) : State :=
  let k := s.keeper
  { s with keeper := { k with warmHold := false, aclkOn := true, stepNs := k.uptime } }

/-- The hold of a warm reset has lasted 1 ms (R548): it ends unless PERST# is asserted. -/
def execWarmResetHoldEnd (s : State) : Out := .next (if s.keeper.warmHold && !s.keeper.perst then s.endHold else s)

/-! ## The firmware (R35, R38, R39, R481) -/

/-- Does the Fountainhead firmware run: booted in step 4, and not restarting? -/
def State.fwRuns (s : State) : Bool :=
  let k := s.keeper
  k.rails && decide (4 ≤ k.step) && !k.warmHold && !k.abandoned && !k.fwRestart

/-- FW_ALIVE toggles (R35). -/
def execFwAliveToggle (s : State) : Out :=
  .next (if s.fwRuns then { s with keeper := { s.keeper with fwAlive := !s.keeper.fwAlive } } else s)

/-- The firmware serves the mailboxes: CTRL_READY is set, and READY follows (R36, R539). -/
def execCtrlReadySet (s : State) : Out :=
  .next (if s.fwRuns then ({ s with keeper := { s.keeper with ctrlReady := true } } : State).readyUpdate else s)

/-- A control-plane command that its server has taken (R481). -/
def Mailbox.controlTaken (b : Mailbox) : Bool := b.server == 1 && (b.state == 2 || b.state == 3)

/-- Control-plane commands in BUSY or BACKGROUND complete with RESTARTED (R481), and nothing later completes them. -/
def State.restartBoxes (s : State) : State :=
  let gone := (List.finRange 8).filter fun n => (s.boxes.get n).controlTaken
  let s := gone.foldl (fun (s : State) n => s.complete n 0xA 0 []) s
  let drop (l : List Nat) : List Nat := l.filter fun n => !gone.any fun m => m.val == n
  let j := s.job
  { s with
    caps := { s.caps with loadGen := none }
    fw := { s.fw with session := none, image := [] }
    keeper := { s.keeper with stateReq := s.keeper.stateReq.map fun r => (r.1, none) }
    job := { j with runBox := none, secureBoxes := drop j.secureBoxes, haltBoxes := drop j.haltBoxes,
                    policyBoxes := drop j.policyBoxes, spareRank := j.spareRank.map fun r => (r.1, 8) } }

/-- A reset of class 4 to 6 outside start-up: KP_RESET_STATUS and RESET_TAKEN (R559, R560). -/
def State.classTaken (s : State) (cls trigger : Nat) : State :=
  if s.keeper.starting then s
  else ({ s with keeper := { s.keeper with cls := cls, trigger := trigger } } : State).event 0x0110 1 srcKeeper [cls, trigger, s.uptime]

/-- A firmware restart begins (R39): CTRL_READY falls. The step commit record, the data plane and the fabric are left as they
are. -/
def State.fwRestart (s : State) : State :=
  let s := s.classTaken 6 2
  let s := s.restartBoxes
  ({ s with keeper := { s.keeper with fwRestart := true, ctrlReady := false } } : State).readyUpdate

/-- FW_ALIVE has not toggled for 1 s (R38): FW_HANG is recorded; the third restart within 60 s becomes a warm reset, with the
preserve request while a program is loaded (R545). During a start-up the weaker request is absorbed (R550). -/
def execFwHang (s : State) : Out :=
  .next (if !s.fwRuns then s
    else
      let now := s.uptime
      let l := s.keeper.uptime :: s.keeper.hangs.filter fun h => decide (now ≤ h.toNat + 60 * 10 ^ 9)
      let s := s.event 0x0010 2 srcKeeper [l.length]
      if s.keeper.starting then s
      else if 3 ≤ l.length then
        let k := s.keeper
        ({ s with keeper := { k with hangs := [], preq := k.preq || s.job.image.isSome } } : State).warmReset 2 false
      else ({ s with keeper := { s.keeper with hangs := l } } : State).fwRestart)

/-- A fault in the Fountainhead control cores (R547). -/
def execControlCoreFault (s : State) : Out := .next (if s.fwRuns && !s.keeper.starting then s.fwRestart else s)

/-- The restarted firmware resumes from the phase the step commit record names, with the vote result or the abort that came meanwhile,
and sets CTRL_READY (R39). -/
def execFwRestartDone (s : State) : Out :=
  .next (if s.keeper.fwRestart then
      ({ s with keeper := { s.keeper with fwRestart := false, ctrlReady := true } } : State).readyUpdate.resumeStep
    else s)

/-! ## Host-side resets (R465, R547, R549) -/

/-- READY falls (R36). -/
def State.dropReady (s : State) : State :=
  if s.keeper.ready then ({ s with keeper := { s.keeper with ready := false } } : State).raise icReady else s

/-- A class 4 or 5 reset, with its effect on the port: READY falls at its start and follows its conditions after it (R36, R549). R559
does not list its trigger: a free value (log 5). -/
def State.hostReset (s : State) (cls : Nat) (f : Cxl → Cxl) : State :=
  let (v, s) := s.fresh
  let s := (s.classTaken cls (v.toNat % 8)).dropReady
  ({ s with cxl := f s.cxl } : State).readyUpdate

/-- The link goes down (R465, R547). -/
def execCxlLinkDown (s : State) : Out :=
  .next (if s.cxl.rate = 0 then { s with cxl := s.cxl.down } else s.hostReset 5 Cxl.down)

/-- Hot reset (R465, R547). -/
def execHotReset (s : State) : Out := .next (s.hostReset 5 Cxl.down)

/-- Function-level reset (R465, R547): commands in progress run on. -/
def execFlr (s : State) : Out := .next (s.hostReset 4 Cxl.flr)

/-! ## Power states (R551 to R554) -/

/-- Entry into Still (R551 to R553): the basin dies and the jets are power-gated, and with them JT_RC_CYCLE (R203); class F fields, the
tiers, the Cisterns and the Runnel dies are kept. -/
def State.gateBasins (s : State) : State :=
  { s with
    jets := s.jets.map fun j => { fused := j.fused, test := j.test }
    basins := s.basins.map fun b => { map := b.map, units := b.units }
    sluice := { s.sluice with doms := Vector.ofFn fun (d : Fin 10) =>
      let x := s.sluice.doms.get d
      if d.val < 4 then { x with aclk := 0, rootPhase := 0 } else x } }

/-- A change of power state completes (R553, R554): POWER_STATE is recorded, and the command that asked completes. Entry into Dry
takes the rails down; its record waits for the next start-up (log 23). -/
def execPowerStateChangeDone (s : State) : Out :=
  let k := s.keeper
  .next (match k.stateReq with
    | none => s
    | some (st, box) =>
      if k.step ≠ 11 || !k.rails then s
      else if st = 3 then
        let s := ((s.holdRecord 0x0114 0 [k.powerState, 3]).diesReset false).throttles
        { s with keeper := { s.keeper with
          stateReq := none, powerState := 3, rails := false, aclkOn := false, energised := 0, fwAlive := false, ctrlReady := false,
          dataReady := false, ready := false, fwRestart := false, warmPending := false } }
      else
        let s := if st = 2 then s.gateBasins else s
        let s := { s with keeper := { s.keeper with stateReq := none, powerState := st } }
        let s := (s.event 0x0114 0 srcKeeper [k.powerState, st]).throttles.readyUpdate
        match box with
        | some n => s.completeAt n 0 0 [BitVec.ofNat 8 st]
        | none => s)

/-- SET_POWER_STATE (R492, R554). A request for Dry completes as soon as it is latched. -/
def execSetPowerState (n : Fin 8) (s : State) : Out :=
  .next (s.serve n 0x0035 fun s b =>
    let st := b.arg 0
    let k := s.keeper
    if st = 3 then
      ({ s with keeper := { k with stateReq := some (3, none) } } : State).complete n 0 0 [BitVec.ofNat 8 k.powerState]
    else if st = k.powerState then
      ({ s with keeper := { k with stateReq := none } } : State).complete n 0 0 [BitVec.ofNat 8 st]
    else { s with keeper := { k with stateReq := some (st, some n.val) } })

/-- WARM_RESET (R492, R545): the reset starts 10 ms later. -/
def execWarmReset (n : Fin 8) (s : State) : Out :=
  .next (s.serve n 0x0036 fun s b =>
    ({ s with keeper := { s.keeper with preq := (b.arg 0).testBit 0, warmPending := true } } : State).complete n 0 0 [])

/-! ## Pins (R554, R588 to R592) -/

/-- Is the module in Dry by command, to be left by a pin (R554)? -/
def Keeper.commandedDry (k : Keeper) : Bool := k.powerState == 3 && k.step == 11

/-- PERST# asserts (R547, R548), or prepares the exit from Dry (R554). -/
def execPerstAssert (s : State) : Out :=
  .next (if s.keeper.perst then s
    else
      let s := { s with keeper := { s.keeper with perst := true } }
      if s.warmMay then s.warmReset 0 false else s)

/-- PERST# releases (R548): a hold that has lasted 1 ms ends; Dry is left as a MAIN_POR (R554). -/
def execPerstRelease (s : State) : Out :=
  .next (if !s.keeper.perst then s
    else
      let s := { s with keeper := { s.keeper with perst := false } }
      if s.keeper.commandedDry then s.mainReset 0
      else if s.keeper.warmHold && decide (s.keeper.entryNs.toNat + 10 ^ 6 ≤ s.uptime) then s.endHold
      else s)

/-- PWR_EN deasserts (R541, R590, R592): THERMTRIP# is released, and the rails go off where they are on. -/
def execPwrEnDeassert (s : State) : Out :=
  .next (if !s.keeper.pwrEn then s
    else
      let k := s.keeper
      let s := { s with keeper := { k with pwrEn := false, thermtrip := false, tripLatch := if k.tripLatch = 1 then 2 else k.tripLatch } }
      if k.rails then s.mainReset 0 else s)

/-- PWR_EN asserts (R541); Dry is left as a MAIN_POR (R554). -/
def execPwrEnAssert (s : State) : Out :=
  .next (if s.keeper.pwrEn then s
    else
      let k := s.keeper
      let s := { s with keeper := { k with pwrEn := true, tripLatch := if k.tripLatch = 2 then 0 else k.tripLatch } }
      if k.commandedDry then s.mainReset 0 else s)

/-- The SLOT_ID pins change, deglitched (R589, R591): a change after the latch is ignored, and recorded once per AUX_POR. -/
def execSlotIdChanged (v : BitVec 4) (s : State) : Out :=
  let k := s.keeper
  let s := { s with keeper := { k with slotPins := v } }
  .next (if decide (2 ≤ k.step) && v != k.slotId && !k.slotChanged then
      let args := [k.slotId.toNat, v.toNat]
      let s := { s with keeper := { s.keeper with slotChanged := true } }
      if k.rails && decide (5 ≤ k.step) then s.event 0x0121 2 srcKeeper args else s.holdRecord 0x0121 2 args
    else s)

/-! ## The clock reference (R555, R604) -/

/-- REFCLK± goes absent (R555). -/
def execRefclkLoss (s : State) : Out := .next { s with keeper := { s.keeper with refclk := false } }

/-- REFCLK± returns (R555). -/
def execRefclkReturn (s : State) : Out := .next { s with keeper := { s.keeper with refclk := true } }

end Sys2Proof.Machine
end

