-- ==== Sys2Proof/Machine/Link.lean ====
section
/-! DEFINITION. The optical ports: frames, retry, lock, link states and training (R359 to R366, R377, R388 to R390). -/

namespace Sys2Proof.Machine

/-! ## Frames (R360 to R362) -/

/-- CRC-16 of polynomial 0x1021, bit by bit from the top of a byte. -/
def crcBits : Nat → Nat → Nat
  | 0, c => c
  | n + 1, c => crcBits n (let d := 2 * c; if 65536 ≤ d then (d ^^^ 0x11021) % 65536 else d)

/-- HCRC of a link header (R360), with the initial value 0xFFFF. -/
def hcrc (bs : List Byte) : Nat := bs.foldl (fun c b => crcBits 8 (c ^^^ (b.toNat * 256))) 0xFFFF

/-- The LINK field (R360). -/
def linkHeader (type seq ack : Nat) (nak : Bool) (xon : Nat) : List Byte :=
  leBytes 6 (type * 2 ^ 46 + seq * 2 ^ 34 + ack * 2 ^ 22 + (if nak then 2 ^ 21 else 0) + xon * 2 ^ 13)

/-- A frame's header with its HCRC. -/
def frameHeader (type seq ack : Nat) (nak : Bool) (xon : Nat) : List Byte :=
  let h := linkHeader type seq ack nak xon
  h ++ leBytes 2 (hcrc h)

/-- Lanes in use (R359). -/
def Port.laneUsed (x : Port) (l : Nat) : Bool :=
  if x.laneSet = 1 then decide (l < 8) else if x.laneSet = 2 then decide (8 ≤ l) else true

/-- The lane that carries unit `i` of the frame stream (R359): of a degraded port the lanes in use count from the lowest (log 72). -/
def Port.laneOf (x : Port) (i : Nat) : Nat := if x.laneSet = 1 then i % 8 else if x.laneSet = 2 then 8 + i % 8 else i % 16

/-- A frame goes out, its eight units on the lanes in turn (R359). -/
def State.sendFrame (s : State) (p : Fin 6) (hdr body : List Byte) : State :=
  let x := s.weir.ports.get p
  (s.modPort p fun y => { y with unit := (y.unit + 8) % 16 }).send (.frame p.val ((List.range 8).map fun i => x.laneOf (x.unit + i)) hdr body)

/-- Is a port out of lock (R364)? -/
def Port.unlocked (x : Port) : Bool := x.lostLanes != 0 || x.silent

/-! ## A link goes down (R364, R366, R388, R389) -/

/-- The whole packets of a stream: one partly received is discarded (R389). -/
def wholePackets : Nat → List Byte → List Byte
  | 0, _ => []
  | n + 1, bs =>
    let k := wordBytes * (1 + ((bs.drop 6).headD 0).toNat)
    if bs.length < wordBytes ∨ bs.length < k then [] else bs.take k ++ wholePackets n (bs.drop k)

/-- The missing link of a port: the dimension, the coordinate at its minus end, and the links to its peer (R387, R388). -/
def Weir.linkOf (w : Weir) (p : Fin 6) : Nat × Nat × Nat :=
  let b := w.bank w.inj
  let d := p.val / 2
  let n := max 1 (b.size d)
  let c := w.peerCoord b p
  let plus := p.val % 2 == 1
  let k := ringDist n (b.own d) c plus
  (d, if plus then b.own d else c, if k = 0 then n else k)

/-- A port declares its link DOWN (R364): PORTS and CAP_GEN change, LINK_DOWN is recorded, the break is noted and sent on, and the
packets on the port are re-injected (R389). -/
def State.linkDown (s : State) (p : Fin 6) : State :=
  let x := s.weir.ports.get p
  if x.state ≠ 2 then s
  else
    let (d, c, _) := s.weir.linkOf p
    let pkts := x.inFlight.map (·.1) ++ x.outQ
    let s := s.modPort p fun y =>
      { y with state := 0, lostLanes := 0, silent := false, nak := false, nakSent := false, retry := [], resend := 0, retries := 0,
               txStream := [], inFlight := [], outQ := [], rxStream := wholePackets y.rxStream.length y.rxStream }.reflow
    let s := s.countPort p 9 1
    let s := { s with caps := { s.caps with ports := setBit s.caps.ports p.val false },
                      weir := { s.weir with histUp := setBit s.weir.histUp p.val false } }
    let s := (s.capChange.event 0x0051 2 srcWeir [p.val, x.peer.toNat]).raise icFabric
    let s := ((s.addBreak p d c).1).sendNotice (otherPort p) d c 1 false
    pkts.foldl (fun s q => s.reinject p q) s

/-- A retry (R363): everything not acknowledged goes out again from the oldest; the eighth without an advance takes the link
down (R364). -/
def State.retryPort (s : State) (p : Fin 6) : State :=
  let x := s.weir.ports.get p
  if x.retry.isEmpty then s
  else
    let s := (s.countPort p 0 1).modPort p fun y => { y with resend := y.retry.length, retries := y.retries + 1 }
    if 8 ≤ x.retries + 1 then s.linkDown p else s

/-! ## Receiving a frame (R360 to R363) -/

/-- Take `n` acknowledged bytes from the packets in flight: those whose last frame is covered leave (R385). -/
def ackBytes : Nat → List (Queued × Nat) → List Queued × List (Queued × Nat)
  | _, [] => ([], [])
  | n, (q, k) :: t => if k ≤ n then let (a, b) := ackBytes (n - k) t; (q :: a, b) else ([], (q, k - n) :: t)

/-- An ACK arrives (R363): it covers the frame it names and every earlier one. -/
def State.takeAck (s : State) (p : Fin 6) (ack : BitVec 12) : State :=
  let x := s.weir.ports.get p
  let left := x.retry.filter fun f => !decide ((ack - f.1).toNat < 2048)
  let n := x.retry.length - left.length
  if n = 0 then s
  else
    let (gone, rest) := ackBytes (120 * n) x.inFlight
    let s := s.modPort p fun y => { y with retry := left, resend := min y.resend left.length, retries := 0, inFlight := rest }
    gone.foldl State.leave s

/-- A frame arrives whole (R362): one with a bad HCRC is ignored; the ACK, NAK and XON of any other are taken, and a DATA frame is
accepted or discarded. -/
def execFrameReceive (p : Fin 6) (hdr body : List Byte) (fecOk : Bool) (fecCorr fecUncorr : Nat) (s : State) : Out :=
  .next (if (s.weir.ports.get p).state ≠ 2 then s
    else
      let s := (s.countPort p 2 fecCorr).countPort p 3 fecUncorr
      let link := leNat (hdr.take 6)
      if hcrc (hdr.take 6) ≠ leNat ((hdr.drop 6).take 2) then s.countPort p 4 1
      else
        let type := link / 2 ^ 46 % 4
        let seq : BitVec 12 := BitVec.ofNat 12 (link / 2 ^ 34)
        let s := s.modPort p fun x => { x with silent := false, xonRx := BitVec.ofNat 8 (link / 2 ^ 13) }
        let s := s.takeAck p (BitVec.ofNat 12 (link / 2 ^ 22))
        let s := if link / 2 ^ 21 % 2 = 1 then s.retryPort p else s
        if type ≠ 0 then s
        else s.modPort p fun x =>
          if x.state ≠ 2 then x
          else if fecOk && seq == x.rxSeq + 1 then
            { x with rxSeq := seq, rxStream := x.rxStream ++ fitBytes 120 body, nakSent := false }.reflow
          else if x.nakSent then x
          else { x with nak := true, nakSent := true })

/-! ## Sending a frame (R361, R363, R364) -/

/-- The body of a TRAIN frame (R366): module address, port number, lane set and a timestamp, laid out as log 72 says. -/
def State.trainBody (s : State) (p : Fin 6) : List Byte :=
  fitBytes 120 (leBytes 2 s.weir.addr.toNat ++ leBytes 1 p.val ++ leBytes 1 (s.weir.ports.get p).laneSet.toNat ++ leBytes 8 s.uptime)

/-- A port sends its next frame: one again from the retry buffer, a new DATA frame where 120 bytes of the word stream are ready, or
IDLE; in training, a TRAIN frame (R366). -/
def execFrameTransmit (p : Fin 6) (s : State) : Out :=
  let x := s.weir.ports.get p
  let head (type seq : Nat) : List Byte := frameHeader type seq x.rxSeq.toNat x.nak (~~~x.off).toNat
  .next (if x.state = 1 then s.sendFrame p (head 2 0) (s.trainBody p)
    else if x.state ≠ 2 then s
    else
      let s := if x.nak then s.countPort p 1 1 else s
      let s := s.modPort p fun y => { y with nak := false }
      match (if 0 < x.resend then x.retry[x.retry.length - x.resend]? else none) with
      | some (seq, body) =>
        (s.modPort p fun y => { y with resend := y.resend - 1 }).sendFrame p (head 0 seq.toNat) body
      | none =>
        if !x.unlocked && decide (x.retry.length < 2048) && decide (120 ≤ x.txStream.length) then
          let seq := x.txSeq + 1
          let body := x.txStream.take 120
          (s.modPort p fun y =>
            { y with txSeq := seq, txStream := y.txStream.drop 120, retry := y.retry ++ [(seq, body)] }).sendFrame p
              (head 0 seq.toNat) body
        else s.sendFrame p (head 1 0) (zeroBytes 120))

/-! ## Timers and lock (R363, R364) -/

/-- No ACK has advanced for 1 µs with frames outstanding (R363). -/
def execRetryTimeout (p : Fin 6) (s : State) : Out :=
  .next (if (s.weir.ports.get p).state = 2 then s.retryPort p else s)

/-- No frame with a correct HCRC for 10 µs (R364). -/
def execHeartbeatTimeout (p : Fin 6) (s : State) : Out :=
  .next (if (s.weir.ports.get p).state = 2 then s.modPort p fun x => { x with silent := true } else s)

/-- A lane in use loses clock recovery (R364). -/
def execLaneLockLoss (p : Fin 6) (lane : Fin 16) (s : State) : Out :=
  let x := s.weir.ports.get p
  .next (if x.state = 2 && x.laneUsed lane.val then
      s.modPort p fun x => { x with lostLanes := setBit x.lostLanes lane.val true }
    else s)

/-- A lane regains clock recovery (R364). -/
def execLaneLockRegain (p : Fin 6) (lane : Fin 16) (s : State) : Out :=
  .next (s.modPort p fun x => { x with lostLanes := setBit x.lostLanes lane.val false })

/-- A port has been out of lock for 50 µs (R364). -/
def execLockLossTimeout (p : Fin 6) (s : State) : Out :=
  .next (if (s.weir.ports.get p).unlocked then s.linkDown p else s)

/-! ## Training (R359, R366) -/

/-- Is the bypass switch of a port's dimension closed (R365, R398)? -/
def State.bypassed (s : State) (d : Nat) : Bool := s.keeper.closed.getLsbD d

/-- A training attempt starts on a DOWN or REFUSED port whose bypass switch is open (R366). -/
def execTrainingAttempt (p : Fin 6) (s : State) : Out :=
  let x := s.weir.ports.get p
  .next (if (x.state == 0 || x.state == 4) && !s.bypassed (p.val / 2) then
      (s.modPort p fun x => { x with state := 1 }).raise icFabric
    else s)

/-- The lane set of the lanes that locked (R359): none where neither half is whole. -/
def laneSetOf (lanes : W16) : Option Nat :=
  if lanes = 0xFFFF then some 0
  else if bits lanes 7 0 = 0xFF then some 1
  else if bits lanes 15 8 = 0xFF then some 2
  else none

/-- Training is refused (R366). -/
def State.trainRefused (s : State) (p : Fin 6) (why : Nat) : State :=
  (s.modPort p fun x => { x with state := 4, refuse := BitVec.ofNat 8 why }).raise icFabric

/-- The packets of a receive buffer that is emptied go (R366). -/
def State.emptyBuffers (s : State) (p : Fin 6) : State :=
  let mine (q : Queued) : Bool := q.src.any fun e => e.1 == p
  let s := (List.finRange 6).foldl (fun s o =>
    let gone := (s.weir.ports.get o).outQ.filter mine
    let s := s.modPort o fun x =>
      { x with outQ := x.outQ.filter (fun q => !mine q),
               inFlight := x.inFlight.map fun q => if mine q.1 then ({ q.1 with src := none }, q.2) else q }
    gone.foldl (fun s q => s.leaveChannel q.pkt.epoch q.v) s) s
  s.modPort p fun x => { x with rxStream := [], rxWords := [], off := 0 }

/-- A port comes UP (R366, R377, R378, R388). -/
def State.linkUp (s : State) (p : Fin 6) (lanes : Nat) : State :=
  let s := (s.emptyBuffers p).modPort p fun x =>
    { x with state := 2, laneSet := BitVec.ofNat 2 lanes, txSeq := 0, rxSeq := 0, nak := false, nakSent := false, retry := [],
             resend := 0, retries := 0, unit := 0, txStream := [], inFlight := [], lostLanes := 0, silent := false, xonRx := 0xFF, sentWin := [],
             paced := decide (57344 < x.rtBytes) }
  let s := { s with caps := { s.caps with ports := setBit s.caps.ports p.val true } }
  let peer := (s.weir.ports.get p).peer.toNat
  let s := (s.capChange.event 0x0050 1 srcWeir [p.val, peer]).raise icFabric
  let s := if lanes = 0 then s else s.event 0x0052 2 srcWeir [p.val, peer]
  let (d, c, k) := s.weir.linkOf p
  ((s.clearBreaks p d c k).1).sendNotice (otherPort p) d c k true

/-- Training ends (R359, R366). -/
def execTrainingDone (p : Fin 6) (rep : TrainReport) (s : State) : Out :=
  .next (if (s.weir.ports.get p).state ≠ 1 then s
    else match laneSetOf rep.lanes with
      | none => s.trainRefused p 3
      | some lanes =>
        if !rep.completed then (s.modPort p fun x => { x with state := 0 }).raise icFabric
        else
          let s := s.modPort p fun x => { x with peer := rep.peerAddr, rtt := BitVec.ofNat 16 rep.rttNs }
          if rep.peerPort ≠ (otherPort p).val then s.trainRefused p 1
          else if 600 < rep.rttNs then s.trainRefused p 2
          else s.linkUp p lanes)

end Sys2Proof.Machine
end

