-- ==== Sys2Proof/Machine/Loader.lean ====
section
/-! DEFINITION. LOAD_PROGRAM, VERIFY_PROGRAM and RUN: placing an accepted image, importing a checkpoint, seeding lanes, and the
start of a job (R190, R220, R229 to R236, R326, R486, R487). -/

namespace Sys2Proof.Machine

/-! ## Placing an image (R220, R235) -/

/-- A code word with its ARRAY field rewritten from a logical to a physical number (R235). -/
def rewriteArray (x : Jet) (w : W32) : W32 :=
  let phys (l : Nat) : Nat := (x.logical l).getD l
  if bits w 31 26 = 0x20 then setBits w 25 23 (phys (bits w 25 23))
  else if bits w 31 26 = 0x23 then setBits w 10 8 (phys (bits w 10 8))
  else w

/-- The code as a jet holds it, word by word; the default handler is a HALT after it (R197, R220). -/
def codeWords (x : Option Jet) : Nat → List Byte → List Byte
  | 0, _ => []
  | n + 1, bs =>
    let w : W32 := BitVec.ofNat 32 (leNat (bs.take 4))
    let w' := match x with | some j => rewriteArray j w | none => w
    (leBytes 4 w'.toNat).take bs.length ++ codeWords x n (bs.drop 4)

/-- The word HALT (R163). -/
def haltWord : List Byte := leBytes 4 0x34000005

/-- The code region of a core: the code, and the default handler where the image supplies none. -/
def placedCode (i : Image) (x : Option Jet) : List Byte :=
  let c := codeWords x (i.code.length / 4 + 1) i.code
  if i.handlerIndex = 0xFFFF then fitBytes ((c.length + 3) / 4 * 4) c ++ haltWord else c

/-- JT_VX_TVEC (R220). -/
def handlerAddr (i : Image) : Nat :=
  if i.handlerIndex = 0xFFFF then (i.code.length + 3) / 4 * 4 else ((i.kernels[i.handlerIndex]?).map (·.1)).getD 0

/-- A core takes the code. -/
def Core.placeCode (k : Core) (i : Image) (x : Option Jet) : Core :=
  let c := placedCode i x
  { k with code := (0, c.length), tvec := BitVec.ofNat 64 (handlerAddr i), store := storeBytes k.store 0 c }

/-- A spout descriptor's 64 bytes (R221). -/
def spoutBytes (d : SpoutDesc) : List Byte :=
  [d.dest, d.round, d.blockDir, d.flags] ++ zeroBytes 4 ++ leBytes 8 d.scale.toNat ++ leBytes 8 d.bias.toNat ++
    leBytes 8 d.lo.toNat ++ leBytes 8 d.hi.toNat ++ leBytes 4 d.outElem.toNat ++ leBytes 4 d.outExp.toNat ++ zeroBytes 16

/-- Does a jet run the code: a kernel names it, or a node that names no jets may run on it? -/
def runsOn (i : Image) (j : Nat) : Bool :=
  i.nodes.any fun n => match n.kind with
    | .kernel _ _ _ jets _ _ => jets.contains j
    | .solver _ _ => true
    | _ => false

/-- A jet takes the image: its code, and the spout descriptors behind the code (log 12). -/
def Jet.place (x : Jet) (i : Image) (j : Nat) : Jet :=
  let x := if runsOn i j then { x with core := x.core.placeCode i (some x) } else x
  if i.spouts.isEmpty then x
  else
    let base := (x.core.code.2 + 63) / 64 * 64
    { x with spoutBase := base, core := { x.core with store := storeBytes x.core.store base (i.spouts.flatMap spoutBytes) } }

/-- An accepted image is loaded (R220, R227, R228, R244). -/
def State.placeImage (s : State) (i : Image) : State :=
  let upd := i.nodes.any isUpdate
  { s with
    jets := Vector.ofFn fun (j : Fin 160) => (s.jet j).place i j.val
    runnels := if upd then s.runnels.map fun r => { r with cores := r.cores.map fun k => k.placeCode i none } else s.runnels
    job := { s.job with image := some i, policy := imagePolicy i, spread := i.spread, started := [], finished := [], rerun := [],
                        rerunDone := [], toPlace := [] } }

/-- The load in progress ends (R233). -/
def State.loadEnds (s : State) : State := { s with caps := { s.caps with loadGen := none } }

/-- The end of a load or a verification: `keep` says that an accepted image stays. -/
def State.finishLoad (s : State) (n : Fin 8) (b : Mailbox) (img : Option ImageFile) (keep : Bool) : State :=
  match img with
  | none => s.loadEnds.complete n 0xB (b.arg 1 % 2 ^ 32) []
  | some f =>
    let i := f.parse
    match s.loadCheck i (b.arg 2) with
    | some f => s.loadEnds.complete n 0xC f.code (refusalRecord (some i) (some f))
    | none =>
      let s := if keep then s.placeImage i else s
      s.loadEnds.complete n 0 0 (refusalRecord (some i) none)

/-- LOAD_PROGRAM (R229, R487); no image means that host memory could not be read. -/
def execLoadProgram (n : Fin 8) (img : Option ImageFile) (s : State) : Out :=
  .next (s.serve n 0x0011 fun s b => s.finishLoad n b img true)

/-- VERIFY_PROGRAM (R229). -/
def execVerifyProgram (n : Fin 8) (img : Option ImageFile) (s : State) : Out :=
  .next (s.serve n 0x0012 fun s b => s.finishLoad n b img false)

/-! ## Seeding (R190, R236, R303, R326, R343) -/

/-- The state of a lane: `tail` is empty at job start, and GLOBAL_STEP where a lane is reseeded (R190, R343). -/
def laneSeed (seed : List Byte) (rank unit lane : Nat) (tail : List Byte) : W64 :=
  seedState (sha256 (seed ++ leBytes 4 rank ++ leBytes 2 unit ++ leBytes 2 lane ++ tail))

/-- Every jet's lanes by logical number (R236). -/
def State.seedJets (s : State) (tail : List Byte) : State :=
  s.setJetLanes ((List.range 160).flatMap fun j => (List.range 192).map fun k =>
    (192 * j + k, laneSeed s.job.seed s.coll.rank j k tail))

/-- Every update core's own-bank lanes (R303). -/
def State.seedCores (s : State) (tail : List Byte) : State :=
  s.setCoreLanes ((List.range 32).flatMap fun n => (List.range 64).map fun k =>
    (64 * n + k, laneSeed s.job.seed s.coll.rank (0x100 + n) k tail))

/-- The digest key H (R326). -/
def digestKey (seed : List Byte) : W128 :=
  let v : W128 := BitVec.ofNat 128 (leNat ((sha256 (seed ++ [0x44, 0x49, 0x47, 0x45, 0x53, 0x54])).take 16))
  if v = 0 then 1 else v

/-! ## Importing a checkpoint (R81, R287, R486) -/

/-- The header of a state record (R287). -/
def recordHeader (i : Image) (idx : Nat) (step : W64) : List Byte :=
  let g := i.recordGroup idx
  leBytes 8 idx ++ leBytes 8 step.toNat ++ leBytes 4 (((i.recordAt idx).map (·.1.id)).getD 0) ++ leBytes 2 g ++
    leBytes 1 (if i.frozen g then 1 else 0) ++ zeroBytes 9

/-- A record as RUN imports it, with the events of its conversion: a state record, or binary32 weights (R81, R486). -/
def importRecord (i : Image) (idx : Nat) (weights : Bool) (bs : List Byte) : List Byte × Ev :=
  let head := recordHeader i idx (BitVec.allOnes 64)
  if weights then
    let w := convWrite 0x10 (convRead 1 0 (fitBytes 4096 bs))
    (closeRecord i idx (BitVec.allOnes 64) head (zeroBytes 32 ++ w.1 ++ zeroBytes 4096), w.2)
  else (closeRecord i idx (BitVec.allOnes 64) head (fitBytes 6208 bs), {})

/-- A shard as RUN imports it: every version holds it (R486). -/
def State.importShard (s : State) (i : Image) (held weights : Bool) (recs : List (List Byte)) : State × Ev :=
  let rank := if held then s.predecessor else s.coll.rank
  let counts := i.groups.map (·.tInit)
  let r := ((i.shardRecords rank).zip recs).foldl (fun (a : State × Ev) p =>
    let (bs, ev) := importRecord i p.1 weights p.2
    ((a.1.writeRecord i held false p.1 bs).writeRecord i held true p.1 bs, a.2.add ev)) (s, {})
  let sh : Shard := ⟨counts, counts⟩
  ({ r.1 with job := if held then { r.1.job with held := sh } else { r.1.job with own := sh } }, r.2)

/-! ## RUN (R318, R320, R336, R486) -/

/-- The job's state as RUN leaves it before its first pause. -/
def State.jobStart (s : State) (i : Image) (n : Fin 8) (b : Mailbox) (cp : Checkpoint) : State :=
  let weights := (b.arg 1).testBit 0
  let seed := fitBytes 32 (b.buf.take 32)
  let step : W64 := BitVec.ofNat 64 (b.arg 0)
  let s := { s with
    record := { s.record with globalStep := step, doneStep := step, doneMask := 0, result := 0 }
    coll := { s.coll.dropStep with misses := [], times := [], median := 0 }
    job := { s.job with
      running := true, startStep := step, runBox := some n.val, seed := seed, key := digestKey seed,
      ring := [], outgoing := none, keptLanes := none, carried := none, leftOut := none, mismatch := none, faulted := false,
      joined := [], abortDue := none, decided := none, repair := [], rebuild := none, vote := none, fromPartner := none,
      haltAt := none, haltBoxes := [], secureBoxes := [], policyBoxes := [], sincePause := 0, stepsRun := 0, secureNow := false,
      nextKG := none, nextPolicy := none, failed := [], uncovered := [], gen := 0, cover := false, pause := 0, last := 0,
      securedT := [], securedStep := 0, parity := {}, ownGrad := [], totals := [] } }
  let (s, own) := s.importShard i false weights cp.own
  let (s, held) := s.importShard i true weights cp.held
  let s := s.modJet ⟨0, by omega⟩ fun x => { x with core := x.core.count (own.add held) }
  let (d, s) := s.shardDigest i false s.record.slot
  let (h, s) := s.shardDigest i true s.record.slot
  let s := { s with job := { s.job with digestV := d, heldDigestV := h } }
  (((s.seedJets []).seedCores []).rewriteWeights).openRegions

/-- The job begins: with the first pause, or at once with step START_STEP (R336, R486). -/
def State.jobBegin (s : State) (n : Fin 8) : State :=
  let s := s.noTerraceCheck
  if s.hasTerrace then s.beginPause
  else (({ s with job := { s.job with runBox := none } } : State).complete n 0 0 (refusalRecord none none)).startStep

/-- The ranks other than this one, in ascending order, with the IMAGE_HASH each has reported: empty where none has. -/
def State.reported (s : State) (others : List (List Byte)) : List (Nat × List Byte) :=
  let rs := s.actives.filter (· != s.coll.rank)
  (List.range rs.length).map fun k => (rs.getD k 0, others.getD k [])

/-- RUN in Trickle moves the module to Flowing first (R554). -/
def State.toFlowing (s : State) : State :=
  if s.keeper.powerState = 1 then
    (({ s with keeper := { s.keeper with powerState := 0 } } : State).event 0x0114 0 srcKeeper [1, 0]).throttles
  else s

/-- RUN (R486): `others` lists what the other members have reported. -/
def execRun (n : Fin 8) (cp : Checkpoint) (others : List (List Byte)) (s : State) : Out :=
  .next (s.serve n 0x0013 fun s b =>
    let s := s.toFlowing
    match s.job.image with
    | none => s
    | some i =>
      if i.shards.length < 2 then s.complete n 0xD s.coll.rank []
      else if !cp.ok then s.complete n 0xB (b.arg 2 % 2 ^ 32) []
      else match s.survivalCheck i s.coll.rank with
        | some f => s.complete n 0xC f.code (refusalRecord (some i) (some f))
        | none =>
          let rep := s.reported others
          match rep.find? fun e => !e.2.isEmpty && e.2 != i.hash with
          | some e => s.complete n 0xD e.1 []
          | none =>
            match rep.find? fun e => e.2.isEmpty with
            | some e => { s with job := { s.job with runBox := some n.val, runWaits := e.1 } }
            | none => (s.jobStart i n b cp).jobBegin n)

/-- RUN_WAIT elapses before every member has joined (R486): nothing runs. -/
def execRunWaitExpiry (n : Fin 8) (s : State) : Out :=
  .next (if s.inHand n 0x0013 && s.job.runBox == some n.val && !s.job.running then
      ({ s with job := { s.job with runBox := none } } : State).complete n 0xD s.job.runWaits []
    else s)

end Sys2Proof.Machine
end

