-- ==== Sys2Proof/Machine/Mgmt.lean ====
section
/-! DEFINITION. Mailbox commands of the front end, the control plane and the Keeper that read status, set limits and update
firmware (R483 to R487, R490, R491, R494 to R496, R514, R526, R529, R532, R571, R572, R578). -/

namespace Sys2Proof.Machine

/-! ## Identity and capabilities (R483, R484) -/

/-- The decimal digits of a number below 10,000, without leading zeros, in ASCII. -/
def digits (v : Nat) : List Byte :=
  (([v / 1000, v / 100 % 10, v / 10 % 10, v % 10].dropWhile (· == 0)).map fun d => BitVec.ofNat 8 (0x30 + d))

/-- The part number: OMX-J2- and the grade (R3, R484). -/
def Part.number (p : Part) : List Byte := [0x4F, 0x4D, 0x58, 0x2D, 0x4A, 0x32, 0x2D] ++ digits p.grade

/-- The output of IDENTIFY (R484). -/
def State.identity (s : State) : List Byte :=
  let v := s.fw.versions
  fitBytes 16 s.part.number ++ fitBytes 16 s.part.serial ++ leBytes 2 s.part.grade ++ [s.part.stepping] ++
    leBytes 1 (slotNo s.fw.active) ++ leBytes 4 v.1.toNat ++ leBytes 4 v.2.1.toNat ++ leBytes 4 v.2.2.toNat ++
    leBytes 4 0x00010000 ++ leBytes 4 s.keeper.boot.toNat ++ leBytes 2 s.weir.addr.toNat ++ leBytes 1 s.keeper.slotId.toNat ++
    zeroBytes 69

/-- IDENTIFY (R484). -/
def execIdentify (n : Fin 8) (s : State) : Out := .next (s.serve n 0x0001 fun s _ => s.complete n 0 0 s.identity)

/-- GET_CAPS (R483). -/
def execGetCaps (n : Fin 8) (s : State) : Out := .next (s.serve n 0x0002 fun s _ => s.complete n 0 0 s.capBytes)

/-! ## The event log (R494 to R496) -/

/-- An entry as GET_EVENT_LOG returns it (R495). -/
def Event.bytes (e : Event) : List Byte :=
  leBytes 8 e.seq.toNat ++ leBytes 8 e.uptime.toNat ++ leBytes 4 e.boot.toNat ++ leBytes 2 e.code ++ leBytes 1 e.severity ++
    leBytes 1 e.source ++ leBytes 8 e.step.toNat ++ (List.range 4).flatMap fun k => leBytes 8 (e.args.getD k 0)

/-- The output of GET_EVENT_LOG (R494). MISSED counts the ring's entries by SEQ, and the flash log's by the entries it has
overwritten. -/
def Log.read (l : Log) (fromSeq max : Nat) (flash : Bool) (sev : Nat) : List Byte :=
  let src := if flash then l.flash else l.ring
  let es := (src.filter fun e => decide (fromSeq ≤ e.seq.toNat) && decide (sev ≤ e.severity)).take max
  let oldest := ((src.head?).map (·.seq.toNat)).getD l.nextSeq.toNat
  let missed := if flash then (l.flashGone.filter fun q => decide (fromSeq ≤ q.toNat)).length else oldest - fromSeq
  leBytes 8 oldest ++ leBytes 8 l.nextSeq.toNat ++ leBytes 4 es.length ++ leBytes 4 missed ++ zeroBytes 40 ++ es.flatMap Event.bytes

/-- GET_EVENT_LOG (R494). -/
def execGetEventLog (n : Fin 8) (s : State) : Out :=
  .next (s.serve n 0x0003 fun s b =>
    s.complete n 0 0 (s.log.read (b.arg 0) (b.arg 1) ((b.arg 2).testBit 0) (b.arg 2 / 2 % 8)))

/-- An entry is copied to the flash log (R494). -/
def execFlashLogCopy (s : State) : Out :=
  .next (match s.log.toFlash with
    | [] => s
    | e :: t =>
      let l := s.log
      let gone := if 16384 ≤ l.flash.length then (l.flash.take (l.flash.length + 1 - 16384)).map (·.seq) else []
      { s with log := { l with toFlash := t, flash := pushRing 16384 l.flash e, flashGone := l.flashGone ++ gone } })

/-- The millisecond ends (R496): EVENTS_DROPPED is stored where more than 256 entries arrived in it. -/
def execEventsDropped (s : State) : Out :=
  .next (if s.log.inMs ≤ 256 ∧ s.log.dropped = 0 then s
    else
      let d := s.log.dropped
      (({ s with log := { s.log with dropped := 0, inMs := 0 } } : State).store 0x0003 2 srcFront [d]))

/-! ## STEP_STATUS (R485) -/

/-- Bytes 0x00 to 0x2F of the step commit record (R26). -/
def StepRecord.bytes (r : StepRecord) : List Byte :=
  leBytes 8 r.globalStep.toNat ++ [r.phase] ++ leBytes 1 (slotNo r.slot) ++ leBytes 1 (if r.held then 1 else 0) ++ zeroBytes 1 ++
    leBytes 4 r.epoch.toNat ++ leBytes 8 r.doneStep.toNat ++ leBytes 2 r.doneMask.toNat ++ [r.result] ++ zeroBytes 5 ++
    leBytes 16 r.digest.toNat

/-- The output of STEP_STATUS; a set of totals that no boundary has filled reads as zero (log 1). -/
def State.stepStatus (s : State) (history : Nat) : List Byte :=
  let t : W64 × W64 × Tbl W64 := s.job.totals.getD history (0, 0, [])
  s.record.bytes ++ leBytes 8 t.1.toNat ++ leBytes 4 s.job.survStatus ++ leBytes 4 s.job.statedUs.toNat ++
    leBytes 8 s.job.nextSecure.toNat ++ leBytes 8 t.2.1.toNat ++ leBytes 4 s.coll.median.toNat ++ leBytes 4 s.membState ++
    leBytes 8 s.membId ++ zeroBytes 160 ++ (List.range 59).flatMap fun i => leBytes 8 (t.2.2.get 0 i).toNat

/-- STEP_STATUS (R485). -/
def execStepStatus (n : Fin 8) (s : State) : Out := .next (s.serve n 0x0004 fun s b => s.complete n 0 0 (s.stepStatus (b.arg 0)))

/-! ## SET_HOST_WINDOW (R447, R454, R487) -/

/-- SET_HOST_WINDOW: a new size changes the capability table, and the CDAT is rewritten. -/
def execSetHostWindow (n : Fin 8) (s : State) : Out :=
  .next (s.serve n 0x0010 fun s b =>
    let h := b.arg 0
    let s := if h = s.caps.hostWindow then s
      else
        let s := ({ s with caps := { s.caps with hostWindow := h }, cxl := { s.cxl with cdatSeq := s.cxl.cdatSeq + 1 } } : State).capChange
        s.event 0x0062 0 srcFw [s.cxl.cdatSeq]
    s.complete n 0 0 (leBytes 8 h))

/-! ## The Keeper's commands (R490, R491, R514, R526, R529, R532) -/

/-- SL_LIMITS (R534) and SL_SAG (R535) as words. -/
def Sluice.packed (x : Sluice) : List Nat :=
  [x.sustainedW + x.peakW * 2 ^ 16 + x.throttleC * 2 ^ 32, x.resetMv + x.warnMv * 2 ^ 16]

/-- SET_POWER_LIMITS (R490, R514): LIMITS_SET carries the fields changed and the two registers (log 43). -/
def execSetPowerLimits (n : Fin 8) (s : State) : Out :=
  .next (s.serve n 0x0030 fun s b =>
    let l := s.newLimits b
    let v (k : Nat) : Nat := l.getD k 0
    let changed := l != s.sluice.limits
    let s := { s with sluice := { s.sluice with sustainedW := v 0, peakW := v 1, throttleC := v 2, warnMv := v 3, resetMv := v 4 } }
    let s := if changed then (s.event 0x0106 1 srcKeeper (0 :: b.arg 7 :: s.sluice.packed)).throttles else s
    s.complete n 0 0 (l.flatMap (leBytes 8)))

/-- GET_THROTTLE_LOG (R483, R526). -/
def execGetThrottleLog (n : Fin 8) (s : State) : Out :=
  .next (s.serve n 0x0031 fun s _ =>
    s.complete n 0 0 ((List.range 64).flatMap fun c =>
      let t := s.sluice.thr.get {} c
      leBytes 8 t.count.toNat ++ leBytes 8 (min (t.ns / 1000) (2 ^ 64 - 1)) ++ leBytes 8 t.onset.toNat))

/-- A point entry of the margin ledger (R532). -/
def Point.bytes (p : Point) : List Byte :=
  leBytes 2 p.vmin ++ leBytes 2 p.vneed ++ leBytes 1 p.guard ++ leBytes 1 (if p.withdrawn then 1 else 0) ++ zeroBytes 2

/-- 16-bit readings of the ageing monitors, which the spec does not give: free values (log 5). -/
def State.readings (s : State) (k n : Nat) : List (List Byte) :=
  (List.range n).map fun i => leBytes 2 ((Config.freeWord (s.freeCount + k + i)).toNat % 2 ^ 16)

/-- The output of GET_AGEING (R532): replicas, memory eyes, and each lane's bias and power are readings. -/
def State.ledger (s : State) : List Byte :=
  leBytes 8 s.sluice.lastPlan.toNat ++ leBytes 4 s.sluice.planCount.toNat ++ leBytes 2 s.aclkTop ++
    leBytes 2 (ofSigned 16 s.leastMargin) ++ leBytes 2 850 ++ leBytes 2 (ofSigned 16 s.sluice.hubMargin) ++ zeroBytes 44 ++
    ((List.range 30).flatMap fun k => (s.sluice.points.get (.made 0) k).bytes) ++
    ((s.readings 0 288).flatMap fun r => r ++ zeroBytes 2) ++ (s.readings 288 32).flatten ++ (s.readings 320 36).flatten ++
    (s.readings 356 192).flatten

/-- GET_AGEING (R532). -/
def execGetAgeing (n : Fin 8) (s : State) : Out :=
  .next (s.serve n 0x0032 fun s _ => (({ s with freeCount := s.freeCount + 548 } : State).complete n 0 0 s.ledger))

/-- REPLAN_MARGINS (R529): a re-plan of every domain is due at once; the command completes with it. -/
def execReplanMargins (n : Fin 8) (s : State) : Out :=
  .next (s.serve n 0x0033 fun s _ =>
    let x := s.sluice
    if x.planBoxes.contains n.val then s
    else { s with sluice := { x with planDue := true, planned := [], planBoxes := x.planBoxes ++ [n.val] } })

/-- SET_TIME_ANCHOR (R491): the anchor pairs WALL with the time at which the Keeper took the command. -/
def execSetTimeAnchor (n : Fin 8) (s : State) : Out :=
  .next (s.serve n 0x0034 fun s b =>
    let k := s.keeper
    let l := if b.arg 1 = 1 then k.anchors else ((b.taken, BitVec.ofNat 64 (b.arg 0), k.boot) :: k.anchors).take 16
    ({ s with keeper := { k with anchors := l } } : State).complete n 0 0
      (l.flatMap fun a => leBytes 8 a.1.toNat ++ leBytes 8 a.2.1.toNat ++ leBytes 4 a.2.2.toNat ++ zeroBytes 4))

/-! ## Firmware update (R571 to R573) -/

/-- A slot's content replaced. -/
def Firmware.putSlot (f : Firmware) (b : Bool) (x : Option SlotImage) : Firmware :=
  if b then { f with slotB := x } else { f with slotA := x }

/-- FW_UPDATE_BEGIN (R571): a session over the slot that is not running; the eighth byte of its output is not given (log 5). -/
def execFwUpdateBegin (n : Fin 8) (s : State) : Out :=
  .next (s.serve n 0x0040 fun s b =>
    let slot := b.arg 1 == 1
    let f := s.fw
    let f := if b.arg 0 = 0 then f
      else
        let f := f.putSlot slot none
        if f.pend = some slot then { f.record with pend := none } else f
    let f := { f with session := some (slot, b.arg 0, []), image := if b.arg 0 = 0 then ((f.slot slot).map (·.content)).getD [] else [] }
    let (x, s) := ({ s with fw := f } : State).fresh
    s.complete n 0 0 (leBytes 1 (slotNo f.running) ++ leBytes 1 (slotNo f.active) ++ leBytes 1 f.rollback ++
      leBytes 1 (f.keysBits + 16 * f.revoked.toNat) ++ zeroBytes 3 ++ leBytes 1 (x.toNat % 256)))

/-- FW_UPDATE_CHUNK (R571): a slot opened as it stands changes with each chunk. -/
def execFwUpdateChunk (n : Fin 8) (s : State) : Out :=
  .next (s.serve n 0x0041 fun s b =>
    match s.fw.session with
    | none => s
    | some (slot, len, gs) =>
      let f := s.fw
      let m := memPut f.image (b.arg 0) (fitBytes b.lLen b.buf)
      let f := if len = 0 then f.putSlot slot (some (slotWritten m f.sessionBytes)) else f
      ({ s with fw := { f with session := some (slot, len, gs ++ chunkGranules (b.arg 0) b.lLen), image := m } } : State).complete n 0 0 [])

/-- FW_UPDATE_COMMIT (R571, R572): the slot is checked and staged; a slot opened as it stands is read as it is. A commit that a restart
or a reset cuts off writes no boot record: the command and the session end with that event (R481, R572). -/
def execFwUpdateCommit (n : Fin 8) (cut : Bool) (s : State) : Out :=
  .next (if cut then s else s.serve n 0x0042 fun s _ =>
    match s.fw.session with
    | none => s
    | some (slot, len, gs) =>
      let f := { s.fw with session := none, image := [] }
      if len ≠ 0 ∧ !(List.range (len / 64)).all gs.contains then ({ s with fw := f } : State).complete n 0xE 7 []
      else
        let content := if len = 0 then f.slot slot else some (slotWritten s.fw.image len)
        match content, f.slotCheck content true with
        | some i, none =>
          let f := { (f.putSlot slot content).record with pend := some slot, tries := true }
          let s := ({ s with fw := f } : State).event 0x0200 1 srcFw [slotNo slot, i.svn]
          s.complete n 0 0 (leBytes 1 (slotNo slot) ++ leBytes 1 i.svn ++ leBytes 1 i.keyIndex.val ++ zeroBytes 1 ++
            leBytes 4 i.versions.1.toNat ++ leBytes 4 i.versions.2.1.toNat ++ leBytes 4 i.versions.2.2.toNat)
        | _, d => ({ s with fw := f } : State).complete n 0xE (d.getD 1) [])

/-! ## Evidence (R578, R580) -/

/-- GET_EVIDENCE (R578): the snapshot, its signature and the device certificate. -/
def execGetEvidence (n : Fin 8) (s : State) : Out :=
  .next (s.serve n 0x0043 fun s b =>
    s.complete n 0 0 (b.snapshot ++ fitBytes 17088 (Config.evidenceSignature s.fw.privateKey b.snapshot) ++
      leBytes 4 Config.deviceCertificate.length ++ Config.deviceCertificate))

end Sys2Proof.Machine
end

