-- ==== Sys2Proof/Machine/Scalar.lean ====
section
/-! DEFINITION. Scalar rill instructions: integer, load and store, branches, SYS and CSR (R163, R164, R169 to R172, R195 to
R197, R610). -/

namespace Sys2Proof.Machine

/-! ## Integer -/

/-- The functions of ALU by FUNC (R163). -/
def aluFn (func : Nat) (a b : W64) : Option W64 :=
  let sh := b.toNat % 64
  match func with
  | 0x000 => some (a + b)
  | 0x001 => some (a - b)
  | 0x002 => some (a &&& b)
  | 0x003 => some (a ||| b)
  | 0x004 => some (a ^^^ b)
  | 0x005 => some (a <<< sh)
  | 0x006 => some (a >>> sh)
  | 0x007 => some (a.sshiftRight sh)
  | 0x008 => some (a * b)
  | 0x009 => some (BitVec.ofNat 64 (a.toNat * b.toNat / 2 ^ 64))
  | 0x00A => some (if a.slt b then 1 else 0)
  | 0x00B => some (if a.ult b then 1 else 0)
  | _ => none

/-- Write scalar `d` and go on, or raise ILLEGAL, encoding, where there is no value. -/
def State.scalarResult (s : State) (c : CoreId) (op : Nat) (f : RFields) (v : Option W64) : State :=
  match v with
  | some v => s.modCore c fun k => (k.ws f.d v).advance
  | none => s.raiseExc c (illegal (rillWord op f) dEnc)

/-- ALU (R163). -/
def execAlu (c : CoreId) (f : RFields) (s : State) : Out :=
  s.rill c false fun s =>
    let k := s.core c
    s.scalarResult c 0x01 f (aluFn f.lo.toNat (k.rs f.a) (k.rs f.b))

/-- ADDI (R163). -/
def execAddi (c : CoreId) (f : RFields) (s : State) : Out :=
  s.rill c false fun s => s.scalarResult c 0x02 f (some ((s.core c).rs f.a + sext 16 (low16 f)))

/-- ANDI (R163). -/
def execAndi (c : CoreId) (f : RFields) (s : State) : Out :=
  s.rill c false fun s => s.scalarResult c 0x03 f (some ((s.core c).rs f.a &&& BitVec.ofNat 64 (low16 f)))

/-- ORI (R163). -/
def execOri (c : CoreId) (f : RFields) (s : State) : Out :=
  s.rill c false fun s => s.scalarResult c 0x04 f (some ((s.core c).rs f.a ||| BitVec.ofNat 64 (low16 f)))

/-- XORI (R163). -/
def execXori (c : CoreId) (f : RFields) (s : State) : Out :=
  s.rill c false fun s => s.scalarResult c 0x05 f (some ((s.core c).rs f.a ^^^ BitVec.ofNat 64 (low16 f)))

/-- SHI (R163). -/
def execShi (c : CoreId) (f : RFields) (s : State) : Out :=
  s.rill c false fun s =>
    let a := (s.core c).rs f.a
    let n := fld f 5 0
    let v : Option W64 :=
      if fld f 13 6 ≠ 0 then none
      else match fld f 15 14 with
        | 0 => some (a <<< n)
        | 1 => some (a >>> n)
        | 2 => some (a.sshiftRight n)
        | _ => none
    s.scalarResult c 0x06 f v

/-- LUI (R163). -/
def execLui (c : CoreId) (f : RFields) (s : State) : Out :=
  s.rill c false fun s =>
    s.scalarResult c 0x07 f (if f.a = 0 then some (sext 32 (low16 f * 65536)) else none)

/-! ## Loads and stores -/

/-- Bytes of a WIDTH (R164). -/
def widthBytes (w : Nat) : Nat := 2 ^ (w % 4)

/-- A loaded value extended as WIDTH says (R164). -/
def extend (w v : Nat) : W64 := if w < 4 then sext (8 * widthBytes w) v else BitVec.ofNat 64 v

/-- The address of a scalar access. -/
def ldAddr (k : Core) (f : RFields) : Nat := effAddr k f.a (sext 13 (fld f 12 0))

/-- LD on a core that executes (R164, R169, R172). -/
def ldBody (c : CoreId) (f : RFields) (s : State) : State :=
  let k := s.core c
  let w := fld f 15 13
  let n := widthBytes w
  let a := ldAddr k f
  if w = 7 then s.raiseExc c (illegal (rillWord 0x08 f) dEnc)
  else if 1 ≤ k.resume then s.putCore c k.advance
  else match accessFault c k false a n 0 with
    | some (_, e) => s.raiseExc c { e with index := 0 }
    | none =>
      if s.hazard c false a n then s.hold c .hazard (.ld c f)
      else match wordFault k a n 0 with
        | some (_, e) => s.raiseExc c { e with index := 0 }
        | none =>
          let (bs, m) := loadBytes k.store a n
          let v := leNat (bs.map fun b => b.getD 0)
          s.putCore c (({ k with store := m } : Core).ws f.d (extend w v)).advance

/-- LD (R164). -/
def execLd (c : CoreId) (f : RFields) (s : State) : Out := s.rill c false (ldBody c f)

/-- ST on a core that executes (R164, R169, R172, R252). -/
def stBody (c : CoreId) (f : RFields) (s : State) : State :=
  let k := s.core c
  let w := fld f 15 13
  let n := widthBytes w
  let a := ldAddr k f
  if w = 7 then s.raiseExc c (illegal (rillWord 0x09 f) dEnc)
  else if 1 ≤ k.resume then s.putCore c k.advance
  else match accessFault c k true a n 0 with
    | some (_, e) => s.raiseExc c { e with index := 0 }
    | none =>
      if s.hazard c true a n then s.hold c .hazard (.st c f)
      else s.putCore c ({ k with store := storeBytes k.store a (leBytes n (k.rs f.d).toNat) } : Core).advance

/-- ST (R164). -/
def execSt (c : CoreId) (f : RFields) (s : State) : Out := s.rill c false (stBody c f)

/-! ## Branches -/

/-- The conditions of BR (R163). -/
def condHolds (cond : Nat) (a b : W64) : Option Bool :=
  match cond with
  | 0 => some (a == b)
  | 1 => some (a != b)
  | 2 => some (a.slt b)
  | 3 => some (!a.slt b)
  | 4 => some (a.ult b)
  | 5 => some (!a.ult b)
  | _ => none

/-- BR: its A and B stand in bits [25:21] and [20:16] (R163). -/
def execBr (c : CoreId) (f : RFields) (s : State) : Out :=
  s.rill c false fun s =>
    let k := s.core c
    match condHolds (fld f 15 13) (k.rs f.d) (k.rs f.a) with
    | some true => s.putCore c (k.jump (k.pc + 4 * sext 13 (fld f 12 0)))
    | some false => s.putCore c k.advance
    | none => s.raiseExc c (illegal (rillWord 0x0A f) dEnc)

/-- JAL (R163). -/
def execJal (c : CoreId) (f : RFields) (s : State) : Out :=
  s.rill c false fun s =>
    let k := s.core c
    s.putCore c ((k.ws f.d (k.pc + 4)).jump (k.pc + 4 * sext 21 (low21 f)))

/-- JALR (R163): a target that is not a multiple of 4 raises ACCESS and leaves D. -/
def execJalr (c : CoreId) (f : RFields) (s : State) : Out :=
  s.rill c false fun s =>
    let k := s.core c
    let t := k.rs f.a + sext 16 (low16 f)
    if t.toNat % 4 ≠ 0 then s.raiseExc c { code := 2, val := t }
    else s.putCore c ((k.ws f.d (k.pc + 4)).jump t)

/-! ## SYS -/

/-- The fields of a SYS word (R163). -/
def sysFields (d a b : BitVec 5) (func : Nat) : RFields := ⟨d, a, b, BitVec.ofNat 11 func⟩

/-- A SYS instruction whose zero fields are zero; otherwise ILLEGAL, encoding (R163). -/
def State.sys (s : State) (c : CoreId) (d a b : BitVec 5) (func : Nat) (body : State → State) : Out :=
  s.rill c false fun s =>
    if d ≠ 0 ∨ b ≠ 0 then s.raiseExc c (illegal (rillWord 0x0D (sysFields d a b func)) dEnc) else body s

/-- FENCE (R171): a core issues in order and waits in what is not accepted, so nothing earlier is outstanding. -/
def execFence (c : CoreId) (d a b : BitVec 5) (s : State) : Out :=
  s.sys c d a b 0 fun s => s.modCore c Core.advance

/-- Is a chain of the jet not drained, or its drain's last write not made (R172)? -/
def Jet.chainBusy (j : Jet) (ch : Nat) : Bool :=
  j.arrays.toList.any fun x =>
    x.queue.any (fun p => p.chain == ch) ||
    (match x.running with | some r => r.desc.chain == ch | none => false) ||
    [x.tileA, x.tileB].any fun t => (t.state != .idle && t.chain == ch) || (!t.drainTo.isEmpty && t.drainChain == ch)

/-- Is a mover descriptor with the tag not complete (R172)? -/
def Jet.tagBusy (j : Jet) (tag : Nat) : Bool := (j.mvQueue ++ j.mvActive).any fun d => d.tag == tag

/-- Is what WAITC names outstanding? -/
def State.chainBusy (s : State) (c : CoreId) (ch : Nat) : Bool :=
  match c with
  | .jet j => (s.jet j).chainBusy ch
  | .upd _ _ => false

/-- Is what WAITM names outstanding? -/
def State.tagBusy (s : State) (c : CoreId) (tag : Nat) : Bool :=
  match c with
  | .jet j => (s.jet j).tagBusy tag
  | .upd _ _ => false

/-- WAITC (R172). -/
def execWaitc (c : CoreId) (d a b : BitVec 5) (s : State) : Out :=
  s.sys c d a b 1 fun s =>
    let ch := ((s.core c).rs a).toNat
    if s.chainBusy c ch then s.hold c (.chain ch) (.waitc c d a b) else s.modCore c Core.advance

/-- The end of a WAITC's wait (R172). -/
def execWaitcEnd (c : CoreId) (s : State) : Out :=
  .next (match (s.core c).held with
    | some (.chain ch, _) =>
      if s.chainBusy c ch then s else s.modCore c fun k => ({ k with held := none } : Core).advance
    | _ => s)

/-- WAITM (R172). -/
def execWaitm (c : CoreId) (d a b : BitVec 5) (s : State) : Out :=
  s.sys c d a b 2 fun s =>
    let t := ((s.core c).rs a).toNat
    if s.tagBusy c t then s.hold c (.tag t) (.waitm c d a b) else s.modCore c Core.advance

/-- The end of a WAITM's wait (R172). -/
def execWaitmEnd (c : CoreId) (s : State) : Out :=
  .next (match (s.core c).held with
    | some (.tag t, _) =>
      if s.tagBusy c t then s else s.modCore c fun k => ({ k with held := none } : Core).advance
    | _ => s)

/-- RETX (R196). -/
def execRetx (c : CoreId) (d a b : BitVec 5) (s : State) : Out :=
  s.sys c d a b 3 fun s =>
    let k := s.core c
    if k.inHandler then
      s.putCore c { k with
        cause := setBit k.cause 31 false, pc := setBits k.vxpc 1 0 0, resume := bits k.index 12 0, resumed := true }
    else s.raiseExc c (illegal (rillWord 0x0D (sysFields d a b 3)) dRetx)

/-- BREAK (R192). -/
def execBreakpoint (c : CoreId) (d a b : BitVec 5) (s : State) : Out :=
  s.sys c d a b 4 fun s => s.raiseExc c { code := 0x0B }

/-- HALT (R197): in handler mode the core halts on its fault; otherwise the kernel ends, and the dispatcher of an update core
takes its record (R296). -/
def execHalt (c : CoreId) (d a b : BitVec 5) (s : State) : Out :=
  s.sys c d a b 5 fun s =>
    let k := s.core c
    if k.inHandler then s.haltInHandler c
    else
      let s := s.putCore c { k.advance with halted := true }
      match c with
      | .jet _ => s
      | .upd r n => s.modRunnel r fun x =>
          { x with staged := x.staged.set n.val { x.staged.get ⟨false, false, 0, 0, 0, false⟩ n.val with halted := true } }

/-- A pending ARRAY_FAULT or MOVER_FAULT is taken (R195): array faults first, lower arrays first; never in handler mode, in
a wait, or before the instruction RETX resumed has completed. -/
def execAsyncCauseTake (c : CoreId) (s : State) : Out :=
  .next (
    let k := s.core c
    if !s.runs c false || k.inHandler || k.resumed then s
    else
      let lo := k.pendArray.foldl (fun m p => min m p.1) 8
      match k.pendArray.find? (fun p => p.1 == lo), k.pendMover with
      | some p, _ =>
        (s.putCore c { k with pendArray := k.pendArray.erase p }).takeExc c
          { code := 9, val := BitVec.ofNat 64 (p.1 * 2 ^ 48 + p.2) } k.pc
      | none, t :: ts =>
        (s.putCore c { k with pendMover := ts }).takeExc c { code := 0x0A, val := BitVec.ofNat 64 t } k.pc
      | none, [] => s)

/-! ## CSR (R610) -/

/-- JT_RC_ID (R198). -/
def rcId : W64 := 0x02000301

/-- ACLK cycles of a core's power domain: a basin die's, or Runnel die r's domain 8 + r (R32, R203, R499). -/
def State.coreCycles (s : State) : CoreId → W64
  | .jet j => (s.sluice.doms.get ⟨j.val / 40, by omega⟩).aclk
  | .upd r _ => (s.sluice.doms.get ⟨8 + r.val, by omega⟩).aclk

/-- The value of a CSR (R610); none for an offset that is not allowed. -/
def State.csrVal (s : State) (c : CoreId) (off : Nat) : Option W64 :=
  let k := s.core c
  match off with
  | 0x100 => some rcId
  | 0x104 => some (k.ctrl.setWidth 64)
  | 0x108 => some (k.flags.setWidth 64)
  | 0x10C => some (k.cause.setWidth 64)
  | 0x110 => some (k.index.setWidth 64)
  | 0x118 => some (setBits k.vxpc 1 0 0)
  | 0x120 => some k.val
  | 0x128 => some k.tvec
  | 0x130 => some (s.coreCycles c)
  | _ => none

/-- JT_VX_CTRL with its RW fields taken from a value; FRM 6 and 7 leave FRM unchanged (R13, R199). -/
def ctrlWrite (old : W32) (v : W64) : W32 :=
  let x := setBits (setBits (setBits old 22 22 (bits v 22 22)) 21 16 (bits v 21 16)) 12 8 (bits v 12 8)
  if bits v 2 0 ≤ 5 then setBits x 2 0 (bits v 2 0) else x

/-- The value each RW field takes under operation 1, 2 or 3 (R610). -/
def csrNew (op : Nat) (old v : W64) : W64 := if op = 1 then v else if op = 2 then old ||| v else old &&& ~~~v

/-- The effect of a CSR operation on the register (R610). -/
def State.csrApply (s : State) (c : CoreId) (off op : Nat) (old v : W64) : State :=
  let k := s.core c
  let nv := csrNew op old v
  match off with
  | 0x104 =>
    let s := s.putCore c { k with ctrl := ctrlWrite k.ctrl nv }
    if 5 < bits nv 2 0 then s.rsvdWrite off v.toNat else s
  | 0x108 => if op = 2 then s else s.putCore c { k with flags := k.flags &&& ~~~(v.setWidth 32) }
  | 0x110 =>
    if 4095 < bits nv 12 0 then s.rsvdWrite off v.toNat
    else s.putCore c { k with index := BitVec.ofNat 32 (bits nv 12 0) }
  | 0x118 => s.putCore c { k with vxpc := setBits nv 1 0 0 }
  | 0x128 => s.putCore c { k with tvec := nv }
  | _ => s

/-- A CSR operation: 0 read, 1 write, 2 set bits, 3 clear bits (R610). D receives the value before the operation. -/
def State.csr (s : State) (c : CoreId) (d a : BitVec 5) (off : BitVec 14) (op : Nat) : Out :=
  s.rill c false fun s =>
    let k := s.core c
    let word := 0x0E * 2 ^ 26 + d.toNat * 2 ^ 21 + a.toNat * 2 ^ 16 + op * 2 ^ 14 + off.toNat
    match s.csrVal c off.toNat with
    | none => s.raiseExc c (illegal word dCsr)
    | some old =>
      if off.toNat = 0x128 ∧ op ≠ 0 ∧ !k.inHandler then s.raiseExc c (illegal word dCsr)
      else
        let v := k.rs a
        let s := if op = 0 then s else s.csrApply c off.toNat op old v
        s.modCore c fun k => (k.ws d old).advance

/-- CSR read (R610). -/
def execCsrRead (c : CoreId) (d a : BitVec 5) (off : BitVec 14) (s : State) : Out := s.csr c d a off 0
/-- CSR write (R610). -/
def execCsrWrite (c : CoreId) (d a : BitVec 5) (off : BitVec 14) (s : State) : Out := s.csr c d a off 1
/-- CSR set bits (R610). -/
def execCsrSet (c : CoreId) (d a : BitVec 5) (off : BitVec 14) (s : State) : Out := s.csr c d a off 2
/-- CSR clear bits (R610). -/
def execCsrClear (c : CoreId) (d a : BitVec 5) (off : BitVec 14) (s : State) : Out := s.csr c d a off 3

end Sys2Proof.Machine
end

