-- ==== Sys2Proof/Machine/RillIssue.lean ====
section
/-! DEFINITION. ARR, MOVE, PCOMB and VSPOUT, the waits they end in, held accesses and lane writes (R172 to R178, R191, R304). -/

namespace Sys2Proof.Machine

/-- An instruction the update cores do not have (R178). -/
def State.jetOnly (s : State) (c : CoreId) (word : Nat) (body : Fin 160 → State → State) : State :=
  match c with
  | .jet j => body j s
  | .upd _ _ => s.raiseExc c (illegal word dEnc)

/-- Read `n` bytes for an instruction: its cause or hold, or the bytes with the store after any correction (R169, R172). -/
inductive CoreRead where
  | exc (e : Exc)
  | held
  | bytes (b : List Byte) (m : Mem)

/-- Read bytes of the jet store for an instruction. -/
def State.coreRead (s : State) (c : CoreId) (a n : Nat) : CoreRead :=
  let k := s.core c
  match accessFault c k false a n 0 with
  | some (_, e) => .exc { e with index := 0 }
  | none =>
    if s.hazard c false a n then .held
    else match wordFault k a n 0 with
      | some (_, e) => .exc { e with index := 0 }
      | none => let (bs, m) := loadBytes k.store a n; .bytes (bs.map fun b => b.getD 0) m

/-! ## ARR -/

/-- ARR on a core that executes (R173, R174). -/
def arrBody (c : CoreId) (f : RFields) (s : State) : State :=
  let word := rillWord 0x20 f
  s.jetOnly c word fun j s =>
    let k := s.core c
    let n : Fin 8 := ⟨f.d.toNat / 4 % 8, by omega⟩
    s.checked c word [(f.d.toNat % 4 == 0 && f.b == 0 && f.lo == 0, dEnc)] fun s =>
      match s.coreRead c (k.rs f.a).toNat 16 with
      | .exc e => s.raiseExc c e
      | .held => s.hold c .hazard (.arr c f)
      | .bytes b m =>
        let p := parsePass (leNat b)
        if !passLegal (s.jet j) n.val p || !(s.jet j).within s.logicalArrays n.val p.quad then s.raiseExc c (illegal word dArray)
        else if 16 ≤ (s.arr j n).queue.length then s.hold c .arrFull (.arr c f)
        else
          let s := s.putCore c ({ k with store := m } : Core).advance
          s.modArr j n fun x => { x with queue := x.queue ++ [p] }

/-- ARR (R173, R174). -/
def execArr (c : CoreId) (f : RFields) (s : State) : Out := s.rill c false (arrBody c f)

/-- The end of an ARR's wait for room (R173). -/
def execArrWaitEnd (c : CoreId) (s : State) : Out :=
  match c, (s.core c).held with
  | .jet j, some (.arrFull, .arr _ f) =>
    if (s.arr j ⟨f.d.toNat / 4 % 8, by omega⟩).queue.length < 16 then
      execArr c f (s.modCore c fun k => { k with held := none })
    else .next s
  | _, _ => .next s

/-! ## MOVE -/

/-- A mover descriptor from its 64 bytes at an address (R256). -/
def parseMover (a : Nat) (b : List Byte) : MvDesc :=
  let w (o n : Nat) : Nat := leNat ((b.drop o).take n)
  let opt := w 0x22 1
  { src := w 0 8, dst := w 8 8, rowBytes := w 0x10 4, rows := w 0x14 4, srcStride := w 0x18 4, dstStride := w 0x1C 4,
    tag := w 0x20 2, transpose := opt % 4, conv := opt / 4 % 2 == 1, srcJs := opt / 8 % 2 == 1, dstJs := opt / 16 % 2 == 1,
    optZero := opt / 32 == 0 && w 0x23 1 == 0 && w 0x26 2 == 0 && w 0x2C 0x14 == 0,
    srcFmt := BitVec.ofNat 8 (w 0x24 1), dstFmt := BitVec.ofNat 8 (w 0x25 1), scale := BitVec.ofNat 32 (w 0x28 4), addr := a }

/-- MOVE on a core that executes (R175). -/
def moveBody (c : CoreId) (f : RFields) (s : State) : State :=
  let word := rillWord 0x21 f
  s.jetOnly c word fun j s =>
    let k := s.core c
    let a := (k.rs f.a).toNat
    s.checked c word [(f.b == 0 && f.lo == 0, dEnc)] fun s =>
      match s.coreRead c a 64 with
      | .exc e => s.raiseExc c e
      | .held => s.hold c .hazard (.move c f)
      | .bytes b m =>
        let d := parseMover a b
        if 32 ≤ (s.jet j).mvQueue.length then s.hold c .moveFull (.move c f)
        else
          let s := s.putCore c (({ k with store := m } : Core).ws f.d (BitVec.ofNat 64 d.tag)).advance
          s.modJet j fun x => { x with mvQueue := x.mvQueue ++ [d] }

/-- MOVE (R175). -/
def execMove (c : CoreId) (f : RFields) (s : State) : Out := s.rill c false (moveBody c f)

/-- The end of a MOVE's wait for room (R175). -/
def execMoveWaitEnd (c : CoreId) (s : State) : Out :=
  match c, (s.core c).held with
  | .jet j, some (.moveFull, .move _ f) =>
    if (s.jet j).mvQueue.length < 32 then execMove c f (s.modCore c fun k => { k with held := none }) else .next s
  | _, _ => .next s

/-! ## PCOMB -/

/-- The first cause of a store of `n` bytes at `a`, at row index `row`. -/
def storeFaultAt (c : CoreId) (k : Core) (a n row : Nat) : Option Exc :=
  (accessFault c k true a n 0).map fun p => { p.2 with index := row }

/-- The first cause of a load of `n` bytes at `a`, at row index `row`. -/
def loadFaultAt (c : CoreId) (k : Core) (a n row : Nat) : Option Exc :=
  (loadFault c k a n 0).map fun p => { p.2 with index := row }

/-- PCOMB row by row from `row` (R176, R193): the core, and the cause that stops it. -/
def pcombRows (c : CoreId) (mode recs a b d : Nat) : Nat → Nat → Core → Core × Option Exc
  | 0, _, k => (k, none)
  | n + 1, row, k =>
    let sz := recBytes mode * recs
    let o := row * sz
    match (loadFaultAt c k (a + o) sz row).orElse fun _ => (loadFaultAt c k (b + o) sz row).orElse fun _ =>
        storeFaultAt c k (d + o) sz row with
    | some e => (k, some e)
    | none =>
      let (l, m1) := loadBytes k.store (a + o) sz
      let (r, m2) := loadBytes m1 (b + o) sz
      let get (x : List (Option Byte)) (i : Nat) : TileRow :=
        unpackRow mode (((x.drop (i * recBytes mode)).take (recBytes mode)).map fun y => y.getD 0)
      let outs := (List.range recs).map fun i => nodeAddRow mode (get l i) (get r i)
      let m3 := storeBytes m2 (d + o) (outs.flatMap fun p => packRow mode p.1)
      let sat := outs.foldl (fun t p => t + p.2) 0
      pcombRows c mode recs a b d n (row + 1) (({ k with store := m3 } : Core).count { sat := sat })

/-- PCOMB on a core that executes (R163, R176). -/
def pcombBody (c : CoreId) (f : RFields) (s : State) : State :=
  let word := rillWord 0x22 f
  s.jetOnly c word fun _ s =>
    let k := s.core c
    let mf := bits f.lo 10 9
    let recs := if f.lo.getLsbD 8 then 2 else 1
    let rows := bits f.lo 7 1
    s.checked c word [(decide (mf ≤ 2) && decide (1 ≤ rows) && decide (rows ≤ 64) && !f.lo.getLsbD 0, dEnc)] fun s =>
      let mode := recMode mf
      let a := (k.rs f.a).toNat
      let b := (k.rs f.b).toNat
      let d := (k.rs f.d).toNat
      let n := rows * recs * recBytes mode
      if s.hazard c false a n || s.hazard c false b n || s.hazard c true d n then s.hold c .hazard (.pcomb c f)
      else
        let start := min k.resume rows
        match pcombRows c mode recs a b d (rows - start) start k with
        | (k', none) => s.putCore c k'.vdone
        | (k', some e) => (s.putCore c k').raiseExc c e

/-- PCOMB (R176). -/
def execPcomb (c : CoreId) (f : RFields) (s : State) : Out := s.rill c true (pcombBody c f)

/-! ## VSPOUT -/

/-- A step of VSPOUT on the records of its rows (R112, R177): to RAW each entry is written unchanged, otherwise the spout's
steps. -/
def SpoutEnv.vstep (e : SpoutEnv) (skip : Nat) (k : Core) (row : Nat) (rows : List (List TileRow)) : SpoutOut :=
  if e.d.dest = 0xFF then
    let sz := recBytes e.mode * (rows.headD []).length
    { writes := rows.zipIdx.map fun p => (e.d.outElem.toNat + (row + p.2) * sz, p.1.flatMap (packRow e.mode)), vals := [], core := k }
  else e.stepFrom skip k row (rows.map fun l => l.flatMap (rowEntries e.mode))

/-- VSPOUT step by step from row `row` (R177): the core, and the cause that stops it. The first `skip` rows of the first step
are done already (R196). -/
def vspoutSteps (c : CoreId) (e : SpoutEnv) (recs a : Nat) : Nat → Nat → Nat → Core → Core × Option Exc
  | 0, _, _, k => (k, none)
  | n + 1, skip, row, k =>
    if e.rows ≤ row then (k, none)
    else
      let cnt := min e.stepRows (e.rows - row)
      let sz := recBytes e.mode * recs
      match loadFaultAt c k (a + row * sz) (cnt * sz) row with
      | some x => (k, some x)
      | none =>
        let (bs, m) := loadBytes k.store (a + row * sz) (cnt * sz)
        let rows := (List.range cnt).map fun i => (List.range recs).map fun j =>
          unpackRow e.mode (((bs.drop (i * sz + j * recBytes e.mode)).take (recBytes e.mode)).map fun y => y.getD 0)
        let o := e.vstep skip { k with store := m } row rows
        match o.writes.findSome? fun w => storeFaultAt c k w.1 w.2.length row with
        | some x => (k, some x)
        | none => vspoutSteps c e recs a n 0 (row + cnt) { o.core with store := storeAll m o.writes }

/-- Can VSPOUT start on array `n` (R177)? Its spout stays idle while a quad uses the array (R89). -/
def Arr.vspoutFree (x : Arr) : Bool :=
  x.queue.isEmpty && x.running.isNone && x.tileA.state == .idle && x.tileB.state == .idle && !x.inQuad

/-- The lanes of VSPOUT's columns (R113, R114, R177): those of array `n`, then, of a quad, those of array n + 1. The padding columns
of a block along columns draw from the lanes of the array's lockstep partner where that array covers the higher columns, and
otherwise from none (DESIGN CHOICE, log 65). -/
def Jet.vspoutLanes (x : Jet) (L n : Nat) (quad : Bool) (cols : Nat) : List (Option Nat) :=
  let second : Option Nat := if quad then some (n + 1) else (x.partner L n).filter fun m => decide (n < m)
  (List.range cols).map fun c => if c < 16 then some (64 + 16 * n + c) else second.map fun m => 64 + 16 * m + (c - 16)

/-- VSPOUT on a core that executes (R163, R177, R608). -/
def vspoutBody (c : CoreId) (f : RFields) (s : State) : State :=
  let word := rillWord 0x23 f
  s.jetOnly c word fun j s =>
    let k := s.core c
    let mf := f.d.toNat % 4
    let n : Fin 8 := ⟨bits f.lo 10 8 % 8, by omega⟩
    let rows := bits f.lo 7 1
    let quad := f.lo.getLsbD 0
    let x := s.jet j
    let a := (k.rs f.a).toNat
    let da := (k.rs f.b).toNat
    s.checked c word
      [(f.d.toNat / 4 == 0 && decide (mf ≤ 2) && decide (1 ≤ rows) && decide (rows ≤ 64), dEnc),
       (x.enabled n.val && x.within s.logicalArrays n.val quad && (!quad || ((n.val == 0 || n.val == 4) && x.quadOk (n.val / 4))), dArray)] fun s =>
      if !(x.arrays.get n).vspoutFree then s.hold c .vspout (.vspout c f)
      else match s.coreRead c da 64 with
        | .exc e => s.raiseExc c { e with index := k.resume }
        | .held => s.hold c .hazard (.vspout c f)
        | .bytes b m =>
          let d := parseSpout b
          let cols := outCols quad d
          if (vecRanges quad d).any fun r => s.hazard c false r.1 r.2 then s.hold c .hazard (.vspout c f)
          else
          let (e, m) := spoutEnv m d (recMode mf) rows cols cols (x.vspoutLanes s.logicalArrays n.val quad cols)
          let recs := if quad then 2 else 1
          let draws := (blkFmt? d.dest.toNat).isSome || (e.stoch && (d.dest == 2 || (intFmt? d.dest.toNat).isSome))
          let k := { k with store := m }
          if draws && k.inHandler then s.raiseExc c (illegal word dDraw)
          else
            let vec := (vecRanges quad d).findSome? fun r => loadFaultAt c k r.1 r.2 k.resume
            match vec with
            | some ex => (s.putCore c k).raiseExc c ex
            | none =>
              let size := rows * recs * recBytes e.mode
              if s.hazard c false a size || (outRanges e.mode quad rows d).any (fun r => s.hazard c true r.1 r.2) then
                s.hold c .hazard (.vspout c f)
              else
                let start := if rows ≤ k.resume then rows else k.resume / e.stepRows * e.stepRows
                match vspoutSteps c e recs a (rows - start) (k.resume - start) start k with
                | (k', none) => s.putCore c k'.vdone
                | (k', some ex) => (s.putCore c k').raiseExc c ex

/-- VSPOUT (R177). -/
def execVspout (c : CoreId) (f : RFields) (s : State) : Out := s.rill c true (vspoutBody c f)

/-- The end of a VSPOUT's wait for its array (R177). -/
def execVspoutWaitEnd (c : CoreId) (s : State) : Out :=
  match c, (s.core c).held with
  | .jet j, some (.vspout, .vspout _ f) =>
    if (s.arr j ⟨bits f.lo 10 8 % 8, by omega⟩).vspoutFree then
      execVspout c f (s.modCore c fun k => { k with held := none })
    else .next s
  | _, _ => .next s

/-! ## Held accesses -/

/-- The end of a hold: its cycles are counted and the instruction goes on (R172, R204). -/
def execHazardHoldEnd (c : CoreId) (cycles : Nat) (s : State) : Out :=
  let s' := s.modCore c fun k => { k with held := none, hazard := satAdd k.hazard cycles }
  match (s.core c).held with
  | some (.hazard, .ld _ f) => execLd c f s'
  | some (.hazard, .st _ f) => execSt c f s'
  | some (.hazard, .vld _ f) => execVld c f s'
  | some (.hazard, .vst _ f) => execVst c f s'
  | some (.hazard, .arr _ f) => execArr c f s'
  | some (.hazard, .move _ f) => execMove c f s'
  | some (.hazard, .pcomb _ f) => execPcomb c f s'
  | some (.hazard, .vspout _ f) => execVspout c f s'
  | _ => .next s

/-! ## Lane writes -/

/-- A write of zero stores 1 (R205, R317). -/
def laneValue (v : W64) : W64 := if v = 0 then 1 else v

/-- A write of JT_RNGk_STATE (R191, R205): accepted only while PHASE reads IDLE; otherwise ignored and recorded. -/
def State.laneWrite (s : State) (c : CoreId) (k : Nat) (v : W64) : State :=
  let lanes := match c with
    | .jet _ => 192
    | .upd _ _ => 64
  if lanes ≤ k then s
  else if s.record.phase = 0 then s.modCore c fun x => { x with lanes := x.lanes.set k (laneValue v) }
  else s.event 0x0002 1 srcFw [0x2000 + 8 * k]

/-- A write of a lane (R191). -/
def execLaneStateWrite (c : CoreId) (k : Fin 192) (v : W64) (s : State) : Out := .next (s.laneWrite c k.val v)

/-- A write of a held-bank lane (R304, R317): accepted only while PHASE reads IDLE or RESERVE. -/
def State.heldLaneWrite (s : State) (r : Fin 2) (n : Fin 16) (k : Nat) (v : W64) : State :=
  if s.record.phase = 0 ∨ s.record.phase = 7 then
    (s.modCore (.upd r n) fun x => { x with heldLanes := x.heldLanes.set k (laneValue v) }).reserveCheck
  else s.event 0x0002 1 srcFw [0x3000 + 8 * k]

/-- A write of a held-bank lane (R304). -/
def execHeldLaneWrite (r : Fin 2) (n : Fin 16) (k : Fin 64) (v : W64) (s : State) : Out := .next (s.heldLaneWrite r n k.val v)

end Sys2Proof.Machine
end

