-- ==== Sys2Proof/Machine/Routes.lean ====
section
/-! DEFINITION. ROUTE_STAGE, ROUTE_COMMIT and GET_RIPPLE_MAP (R384, R386, R397, R401, R489). -/

namespace Sys2Proof.Machine

/-- WR_ROUTE_STATUS (R401). -/
def Weir.routeStatus (w : Weir) : Nat :=
  w.addr.toNat * 2 ^ 16 + w.live.toNat * 2 ^ 12 + (if w.stageOpen then 2 ^ 9 else 0) + (if w.staged then 2 ^ 8 else 0) + w.inj.toNat

/-- Does an override entry keep the field rules of R379? -/
def entryOk (own dest : Nat) (e : W16) : Bool :=
  bits e 10 0 == 0 && (!(e.getLsbD 15 && bits e 14 12 == 6) || dest == own)

/-- The first of a list's numbers that a test rejects. -/
def firstBad (n : Nat) (ok : Nat → Bool) : Option Nat := (List.range n).find? fun i => !ok i

/-- Put the bank that an epoch selects. -/
def Weir.putBank (w : Weir) (e : BitVec 2) (b : RouteBank) : Weir :=
  if e.getLsbD 0 then { w with bank1 := b } else { w with bank0 := b }

/-- ROUTE_STAGE (R384, R489): `entries` are what host memory holds at ARG3. -/
def execRouteStage (n : Fin 8) (entries : List W16) (s : State) : Out :=
  .next (s.serve n 0x0021 fun s b =>
    let first := b.arg 1
    let count := b.arg 2
    let bank := stageGeometry s.weir.idle (b.arg 0)
    if entries.length < count then s.complete n 0xB ((b.arg 3 + 2 * entries.length) % 2 ^ 32) []
    else match firstBad count fun i => entryOk bank.addr (first + i) (entries.getD i 0) with
      | some i => s.complete n 3 (2 ^ 31 + 2 * i) []
      | none =>
        let ov := (List.range count).foldl (fun (t : Tbl W16) i => t.set (first + i) (entries.getD i 0)) bank.overrides
        let w := (s.weir.putBank (s.weir.inj + 1) { bank with overrides := ov })
        let s := { s with weir := { w with staged := b.arg 4 == 1 } }
        s.complete n 0 0 (leBytes 4 s.weir.routeStatus))

/-- ROUTE_COMMIT FLIP (R384). -/
def execRouteCommitFlip (n : Fin 8) (s : State) : Out :=
  .next (s.serve n 0x0022 fun s b =>
    if b.arg 0 ≠ 0 then s
    else
      let c := s.weir.inj + 1
      let s := { s with weir := { s.weir with inj := c, live := setBit s.weir.live c.toNat true, staged := false } }
      s.complete n 0 0 (leBytes 4 s.weir.routeStatus))

/-- ROUTE_COMMIT RELEASE (R386). -/
def execRouteCommitRelease (n : Fin 8) (s : State) : Out :=
  .next (s.serve n 0x0022 fun s b =>
    if b.arg 0 ≠ 1 then s
    else
      let s := { s with weir := { s.weir with live := setBit s.weir.live (b.arg 1) false } }
      s.complete n 0 0 (leBytes 4 s.weir.routeStatus))

/-- GET_RIPPLE_MAP (R397). -/
def execGetRippleMap (n : Fin 8) (s : State) : Out :=
  .next (s.serve n 0x0023 fun s b => s.complete n 0 0 ((s.weir.recordsFrom (b.arg 0) (b.arg 1)).flatMap rippleBytes))

end Sys2Proof.Machine
end

