-- ==== Sys2Proof/Machine/Sentinel.lean ====
section
/-! DEFINITION. The tile sentinel: recomputing a sample as an SB64 chain, comparing and logging (R145 to R155). -/

namespace Sys2Proof.Machine

/-! ## The reference (R147, R148) -/

/-- The passes of a sample, block by block (R91). -/
def sampleBlocks : List (PassRun × List Bank) → List (PassRun × List Bank) → List (List (PassRun × List Bank))
  | [], acc => if acc.isEmpty then [] else [acc]
  | p :: t, acc => if p.1.desc.endsBlock then (acc ++ [p]) :: sampleBlocks t [] else sampleBlocks t (acc ++ [p])

/-- Weight of a slice of an operand within its element. -/
def sliceWeight (op slice : Nat) : Int :=
  if op = 4 then (if slice = 0 then 256 else 1) else if op = 5 then 256 ^ (2 - slice) else 1

/-- Does a pass cover element `k` of its block? -/
def covers (p : PassDesc) (k : Nat) : Bool := decide (p.span.1 ≤ k) && decide (k < p.span.1 + p.span.2)

/-- Element `k` of row `m` of the streaming operand of a block, put together from its slices, and its unit. -/
def sampleX (g : List (PassRun × List Bank)) (m k : Nat) : Src :=
  let at' (sl : Nat) : Option (Int × Int) :=
    (g.find? fun q => q.1.desc.sliceX == sl && covers q.1.desc k && decide (m < q.1.desc.rows)).map fun q =>
      let p := q.1.desc
      (codeVal p.opX sl ((q.1.x.getD m []).getD (k - p.span.1) (0, false)).1 * sliceWeight p.opX sl, q.1.ex.getD m 0)
  let l := (List.range 3).filterMap at'
  let v : Int := l.foldl (fun a q => a + q.1) 0
  .fin (decide (v < 0)) v.natAbs ((l.head?.map (·.2)).getD 0)

/-- Element `k` of column `c` of the stationary operand of a block. -/
def sampleW (g : List (PassRun × List Bank)) (c k : Nat) : Src :=
  let at' (sl : Nat) : Option (Int × Int) :=
    (g.find? fun q => q.1.desc.sliceW == sl && covers q.1.desc k).map fun q =>
      let p := q.1.desc
      let b := q.2.getD (if p.quad then (if k < 16 then c / 16 else 2 + c / 16) else 0) {}
      (codeVal p.opW sl ((b.codes.getD (k % 16) []).getD (c % 16) (0, false)).1 * sliceWeight p.opW sl, b.exps.getD (c % 16) 0)
  let l := (List.range 3).filterMap at'
  let v : Int := l.foldl (fun a q => a + q.1) 0
  .fin (decide (v < 0)) v.natAbs ((l.head?.map (·.2)).getD 0)

/-- Take up one block in SB64 in row `m`, columns 16h to 16h + 15 (R97, R140). -/
def refBlock (g : List (PassRun × List Bank)) (m h : Nat) (r : TileRow) : TileRow :=
  let (fx, nx, _) := encodeSb 7 ((List.range 32).map (sampleX g m))
  let cols := (List.range 16).map fun c =>
    let (fw, nw, _) := encodeSb 7 ((List.range 32).map (sampleW g (16 * h + c)))
    let t : Int := (List.range 32).foldl (fun a k => a + nx.getD k 0 * nw.getD k 0) 0
    ((t, (fx : Int) - 16384 + ((fw : Int) - 16384)) : Int × Int)
  let es := (List.range 16).map fun c => { r.entry c with br := (cols.getD c ((0 : Int), (0 : Int))).1 }
  (takeUp 3 { r with es := es, pe := cols.map (·.2) }).1

/-- The segment partials of a row: blocks in order, a segment ending where its pass says so. -/
def refSegs (m h : Nat) : List (List (PassRun × List Bank)) → TileRow → List TileRow
  | [], _ => []
  | g :: t, r =>
    let r' := refBlock g m h r
    if g.any fun q => q.1.desc.endsSeg then r' :: refSegs m h t {} else refSegs m h t r'

/-- The SB64 result of a row: the reference tree over its segments (R130). -/
def refRow (x : Sample) (m h : Nat) : TileRow :=
  let l := refSegs m h (sampleBlocks x.passes []) {}
  refTree (fun a b => (nodeAddRow 3 a b).1) {} l.length l

/-- Widen a binary32 code. -/
def widen (c : Nat) : Nat := (convertIF b32 b64 .even c).1

/-- ref of R148 at row `m`, column `c`. -/
def Sample.ref (x : Sample) (m c : Nat) : Rat :=
  let (s, g) := entryVal 3 (refRow x m (c / 16)) (c % 16)
  let y := spoutFma b64 (widen ((x.scale.getD c none).getD 0)) (widen ((x.bias.getD c none).getD 0)) s g
  ((b64.src (spoutClip b64 (widen x.lo) (widen x.hi) y)).rat).getD 0

/-- d of R148 (none for infinite) with the row and column of the largest difference. -/
def Sample.diff (x : Sample) : Option Rat × Nat × Nat :=
  let cells := (List.range x.outs.length).flatMap fun m => (List.range (x.outs.getD m []).length).map fun c => (m, c)
  let vals := cells.map fun q => (q, ((x.outs.getD q.1 []).getD q.2 none).getD 0, x.ref q.1 q.2)
  let abs (r : Rat) : Rat := if r < 0 then -r else r
  let n := vals.foldl (fun a v => max a (abs v.2.2)) 0
  let (dm, pos) := vals.foldl (fun acc v =>
    let e := abs (v.2.1 - v.2.2)
    if acc.1 < e then (e, v.1) else acc) ((0 : Rat), ((0, 0) : Nat × Nat))
  if n = 0 then (if dm = 0 then (some 0, 0, 0) else (none, pos.1, pos.2)) else (some (dm / n), pos.1, pos.2)

/-- floor(log2 d) of a positive rational. -/
def ratLog2 (d : Rat) : Int :=
  let k : Int := (Nat.log2 d.num.natAbs : Int) - (Nat.log2 d.den : Int)
  let p : Rat := if 0 ≤ k then (2 : Rat) ^ k.toNat else 1 / (2 : Rat) ^ (-k).toNat
  if p ≤ d then k else k - 1

/-- D_EXP of a log entry (R155). -/
def dExp (d : Option Rat) : Nat :=
  match d with
  | none => 0x7F
  | some v => if 127 ≤ ratLog2 v then 0x7F else ofSigned 8 (max (ratLog2 v) (-128))

/-! ## Commands -/

/-- The chain that is due is sampled (R145, R146). -/
def execSentinelSample (d : Fin 4) (s : State) : Out := .next (s.sampleDue d)

/-- The sentinel takes an idle array of its die, saves its banks, and starts its SB64 chain, which takes both tiles (R106, R147). -/
def execSentinelRecomputeStart (d : Fin 4) (j : Fin 40) (n : Fin 8) (s : State) : Out :=
  let jn : Fin 160 := ⟨40 * d.val + j.val, by omega⟩
  let x := s.jet jn
  let a := x.arr n.val
  let idle := x.enabled n.val && a.queue.isEmpty && a.running.isNone && !a.inQuad && a.shadow == 0 &&
    a.tileA.state == .idle && a.tileB.state == .idle
  let snt := (s.basins.get d).snt
  .next (if idle && s.keeper.aclkOn && snt.runsOn.isNone && (snt.sample.any fun y => y.drained) then
      (s.modBasin d fun b => { b with snt :=
        { b.snt with runsOn := some (jn.val, n.val, a.bank, if a.active then a.bank0 else a.bank1) } }).modJet jn fun x =>
          x.modTiles [(n.val, .a), (n.val, .b)] fun t =>
            { state := .filling, chain := sentinelChain, mode := 3, drainTo := t.drainTo, drainChain := t.drainChain }
    else s)

/-- Has a program descriptor come to the array the sentinel runs on? -/
def State.sentinelWanted (s : State) (d : Fin 4) : Bool :=
  match (s.basins.get d).snt.runsOn with
  | some (j, n, _, _) =>
    if h : j < 160 then
      let x := s.jet ⟨j, h⟩
      !(x.arr n).queue.isEmpty || ((x.arr (n / 4 * 4)).queue.head?.any fun p => p.quad)
    else false
  | none => false

/-- The array is released (R147): its banks hold what was saved, its tiles return to IDLE, and a program descriptor that waits for
it is counted in BS_SNT_PREEMPT_CNT. -/
def State.sentinelRelease (s : State) (d : Fin 4) : State :=
  match (s.basins.get d).snt.runsOn with
  | none => s
  | some (j, n, act, sh) =>
    let waits := s.sentinelWanted d
    let s := s.modBasin d fun b => { b with snt :=
      { b.snt with runsOn := none, preempt := if waits then satInc b.snt.preempt else b.snt.preempt } }
    if h : j < 160 then
      s.modJet ⟨j, h⟩ fun x => (x.modArr n fun a =>
        if a.active then { a with bank1 := act, bank0 := sh } else { a with bank0 := act, bank1 := sh }).clearTiles
          [(n, .a), (n, .b)]
    else s

/-- A program descriptor takes the array back (R147): the sentinel resumes later from the start of the sample. -/
def execSentinelPreempt (d : Fin 4) (s : State) : Out :=
  .next (if s.sentinelWanted d then s.sentinelRelease d else s)

/-- BS_SNT_LOGk_WHERE of a disagreement (R155). -/
def Sample.where' (x : Sample) (dexp m c : Nat) : W64 :=
  BitVec.ofNat 64 (x.chain % 65536 * 2 ^ 48 + dexp % 256 * 2 ^ 40 + x.cls % 8 * 2 ^ 37 + c % 32 * 2 ^ 27 + m % 64 * 2 ^ 21 +
    (if x.tile = .b then 2 ^ 20 else 0) + x.array % 8 * 2 ^ 17 + x.jet % 40 * 2 ^ 11 + 1)

/-- A disagreement is counted and logged (R149, R154, R155). -/
def Sentinel.disagreed (x : Sentinel) (y : Sample) (step : W64) (dexp m c : Nat) : Sentinel :=
  { x with
    disagree := satInc x.disagree
    wrapped := x.wrapped || Tbl.has x.log x.next.toNat
    log := x.log.set x.next.toNat (y.step, y.where' dexp m c)
    next := x.next + 1
    inStep := (step, if x.inStep.1 = step then x.inStep.2 + 1 else 1) }

/-- The recomputed reference is compared with the tile's output (R148, R149), and the array released. T is BS_SNT_THRESH's at the
comparison, a T of 0 then standing for 2^0 (DESIGN CHOICE, log 30). -/
def execSentinelCompare (d : Fin 4) (s : State) : Out :=
  let snt := (s.basins.get d).snt
  .next (match snt.sample with
    | none => s
    | some y =>
      if snt.runsOn.isNone then s
      else
        let s := s.sentinelRelease d
        let (df, m, c) := y.diff
        let limit : Rat := 1 / (2 : Rat) ^ snt.threshold y.cls
        let bad := df.all fun v => decide (limit < v)
        let s := s.modBasin d fun b => { b with snt := { b.snt with sample := none, sampled := satInc b.snt.sampled } }
        if !bad then s
        else
          let s := s.modBasin d fun b => { b with snt := b.snt.disagreed y s.record.globalStep (dExp df) m c }
          let x := (s.basins.get d).snt
          if x.eventLimit != 0 && x.inStep.2 == x.eventLimit.toNat then s.event 0x0020 2 srcBasin [d.val, x.inStep.2] else s)

/-- BS_SNT_SEED takes a value: the generator is reloaded and a new gap drawn (R145, R152). -/
def State.sentinelSeed (s : State) (d : Fin 4) (v : W32) : State :=
  s.modBasin d fun b => { b with snt := ({ b.snt with seed := v, gen := if v = 0 then 1 else v } : Sentinel).newGap }

/-- A write of BS_SNT_SEED (R152). -/
def execSentinelSeedWrite (d : Fin 4) (v : W32) (s : State) : Out := .next (s.sentinelSeed d v)

/-- Sampling stops, and any sample held is discarded (R150). -/
def State.sentinelOff (s : State) (d : Fin 4) : State :=
  (s.sentinelRelease d).modBasin d fun b => { b with snt := { b.snt with en := false, sample := none, due := none } }

/-- A write of 0 to BS_SNT_CTRL.EN (R150). -/
def execSentinelDisable (d : Fin 4) (s : State) : Out := .next (s.sentinelOff d)

end Sys2Proof.Machine
end

