-- ==== Sys2Proof/Machine/RegRead.lean ====
section
/-! DEFINITION. Register reads: the counters that a read clears (R12, R14), the 64-bit registers and their latch (R15), and the
32-bit registers (R12). Offsets are from the bases of the chapters. -/

namespace Sys2Proof.Machine

/-! ## Counters that a read clears -/

/-- Number `k` of a row of `n` words that starts at `base` and steps by `step`. -/
def rowAt (base step n off : Nat) : Option Nat :=
  if base ≤ off ∧ (off - base) % step = 0 ∧ (off - base) / step < n then some ((off - base) / step) else none

/-- Group and word of a bank: `n` groups of `words` words, `step` bytes apart. -/
def bankAt (base step n words off : Nat) : Option (Nat × Nat) :=
  let o := off - base
  if base ≤ off ∧ o / step < n ∧ o % step % 4 = 0 ∧ o % step / 4 < words then some (o / step, o % step / 4) else none

/-- A counter of a core (R77, R204). -/
def Core.counter (k : Core) (off : Nat) : Option W32 :=
  match off with
  | 0x400 => some k.fmt.sat
  | 0x404 => some k.fmt.poison
  | 0x408 => some k.fmt.blkUfl
  | 0x40C => some k.fmt.ufl
  | 0x138 => some k.hazard
  | _ => none

/-- A counter of a core replaced. -/
def Core.putCounter (k : Core) (off : Nat) (v : W32) : Core :=
  match off with
  | 0x400 => { k with fmt := { k.fmt with sat := v } }
  | 0x404 => { k with fmt := { k.fmt with poison := v } }
  | 0x408 => { k with fmt := { k.fmt with blkUfl := v } }
  | 0x40C => { k with fmt := { k.fmt with ufl := v } }
  | 0x138 => { k with hazard := v }
  | _ => k

/-- Counter `w` of an array, from +0x04 (R122). -/
def Arr.counter (a : Arr) (w : Nat) : Option W32 := [a.stall, a.isat, a.xsat, a.rpoison][w]?
/-- Counter `w` of an array replaced. -/
def Arr.putCounter (a : Arr) (w : Nat) (v : W32) : Arr :=
  match w with
  | 0 => { a with stall := v }
  | 1 => { a with isat := v }
  | 2 => { a with xsat := v }
  | _ => { a with rpoison := v }

/-- Counter `w` of a memory unit, from +0x04 (R275). -/
def UnitSt.counter (u : UnitSt) (w : Nat) : Option W32 := [u.ce, u.hard, u.ue, u.lost, u.repair][w]?
/-- Counter `w` of a memory unit replaced. -/
def UnitSt.putCounter (u : UnitSt) (w : Nat) (v : W32) : UnitSt :=
  match w with
  | 0 => { u with ce := v }
  | 1 => { u with hard := v }
  | 2 => { u with ue := v }
  | 3 => { u with lost := v }
  | _ => { u with repair := v }

/-- Counter `w` of a tile sentinel (R153). -/
def Sentinel.counter (x : Sentinel) (w : Nat) : Option W32 := [x.sampled, x.disagree, x.skip, x.preempt][w]?
/-- Counter `w` of a tile sentinel replaced. -/
def Sentinel.putCounter (x : Sentinel) (w : Nat) (v : W32) : Sentinel :=
  match w with
  | 0 => { x with sampled := v }
  | 1 => { x with disagree := v }
  | 2 => { x with skip := v }
  | _ => { x with preempt := v }

/-- The unit whose registers lie in a Cistern's or a Runnel die's bank. -/
def bankUnit (blk : RegBlock) (k : Nat) : Option MemUnit :=
  match blk with
  | .cistern i => some (.channel ⟨i.val / 8, by omega⟩ ⟨(32 * (i.val % 8) + k) % 256, by omega⟩)
  | .runnel r => if h : k < 18 then some (.package r ⟨k, h⟩) else none
  | _ => none

/-- A register with access RC (R12): its count, and the state with its count replaced. -/
def State.rc (s : State) (blk : RegBlock) (off : Nat) : Option (W32 × (W32 → State)) :=
  match blk with
  | .fh =>
    if off = 0x2800 then some (s.record.stale, fun v => { s with record := { s.record with stale := v } })
    else match rowAt 0x3010 4 6 off with
      | some i => some (s.job.cnt.get 0 i, fun v => { s with job := { s.job with cnt := s.job.cnt.set i v } })
      | none => match rowAt 0x3820 4 10 off with
        | some i => some (s.coll.cnt.get 0 i, fun v => { s with coll := { s.coll with cnt := s.coll.cnt.set i v } })
        | none => match rowAt 0x8030 4 6 off with
          | some i => some (s.weir.cnt.get 0 i, fun v => { s with weir := { s.weir with cnt := s.weir.cnt.set i v } })
          | none => match bankAt 0x8410 0x100 6 10 off with
            | some (p, i) =>
              if h : p < 6 then
                some ((s.weir.ports.get ⟨p, h⟩).cnt.get 0 i, fun v => s.modPort ⟨p, h⟩ fun x => { x with cnt := x.cnt.set i v })
              else none
            | none => none
  | .basin d =>
    if off = 0x200 then some ((s.basins.get d).conflict, fun v => s.modBasin d fun b => { b with conflict := v })
    else (rowAt 0x318 4 4 off).bind fun i =>
      ((s.basins.get d).snt.counter i).map fun c => (c, fun v => s.modBasin d fun b => { b with snt := b.snt.putCounter i v })
  | .jet j =>
    match (s.jet j).core.counter off with
    | some c => some (c, fun v => s.modJet j fun x => { x with core := x.core.putCounter off v })
    | none => (bankAt 0x804 0x40 8 4 off).bind fun (n, i) =>
        if h : n < 8 then
          ((s.arr j ⟨n, h⟩).counter i).map fun c => (c, fun v => s.modArr j ⟨n, h⟩ fun a => a.putCounter i v)
        else none
  | .update r n => ((s.core (.upd r n)).counter off).map fun c => (c, fun v => s.modCore (.upd r n) fun k => k.putCounter off v)
  | .cistern i =>
    if off = 0x20 then some ((s.cisterns.get i).xpose, fun v => s.modCistern i fun c => { c with xpose := v })
    else (bankAt 0x104 0x20 32 5 off).bind fun (k, w) => (bankUnit blk k).bind fun u =>
      ((s.unitSt u).counter w).map fun c => (c, fun v => s.modUnit u fun x => x.putCounter w v)
  | .runnel r =>
    match rowAt 0x2020 4 6 off with
    | some i => some ((s.runnels.get r).cnt.get 0 i, fun v => s.modRunnel r fun x => { x with cnt := x.cnt.set i v })
    | none => (bankAt 0x1104 0x20 18 5 off).bind fun (k, w) => (bankUnit blk k).bind fun u =>
        ((s.unitSt u).counter w).map fun c => (c, fun v => s.modUnit u fun x => x.putCounter w v)
  | .keeper =>
    match off with
    | 0x34 => some (s.keeper.rejectCnt, fun v => { s with keeper := { s.keeper with rejectCnt := v } })
    | 0x38 => some (s.keeper.mctpDrop, fun v => { s with keeper := { s.keeper with mctpDrop := v } })
    | _ => none
  | .sluice =>
    match off with
    | 0x200 => some (s.sluice.urgent, fun v => { s with sluice := { s.sluice with urgent := v } })
    | 0x204 => some (s.sluice.mispredict, fun v => { s with sluice := { s.sluice with mispredict := v } })
    | _ => (rowAt 0x104 8 10 off).bind fun d =>
        if h : d < 10 then
          some ((s.sluice.doms.get ⟨d, h⟩).stretchCnt, fun v => s.modDom ⟨d, h⟩ fun x => { x with stretchCnt := v })
        else none
  | _ => none

/-- A read of an RC field by the firmware or the Keeper (R12, R14): the value goes to the reader, and the field keeps only the
events that arrive in that cycle. -/
def execRcFieldRead (blk : RegBlock) (off arriving : Nat) (s : State) : Out :=
  .next (match s.rc blk off with
    | some (c, put) => { put (satAdd 0 arriving) with readData := c.setWidth 64 }
    | none => s)

/-! ## 64-bit registers (R15) -/

/-- A 64-bit register of a core (R203, R205, R317). -/
def State.coreReg64 (s : State) (c : CoreId) (off : Nat) : Option W64 :=
  let k := s.core c
  let lanes := match c with
    | .jet _ => 192
    | .upd _ _ => 64
  match off with
  | 0x118 => some (setBits k.vxpc 1 0 0)
  | 0x120 => some k.val
  | 0x128 => some k.tvec
  | 0x130 => some (s.coreCycles c)
  | _ =>
    match rowAt 0x2000 8 lanes off with
    | some i => some (k.lanes.get 1 i)
    | none => match rowAt 0x2800 8 lanes off with
      | some i => some (k.saved.get 1 i)
      | none => match c with
        | .jet _ => none
        | .upd _ _ => (rowAt 0x3000 8 64 off).map fun i => k.heldLanes.get 1 i

/-- The value of a 64-bit register; none for every other offset. -/
def State.reg64 (s : State) (blk : RegBlock) (off : Nat) : Option W64 :=
  match blk with
  | .fh =>
    match off with
    | 0x20 => some s.log.nextSeq
    | 0x3008 => some s.job.nextSecure
    | 0x3808 => some (BitVec.ofNat 64 s.membId)
    | _ => (rowAt 0x8100 8 64 off).map fun i =>
        if i % 2 = 0 then s.weir.epIn.get 0 (i / 2) else s.weir.epOut.get 0 (i / 2)
  | .mailbox n =>
    let b := s.boxes.get n
    match off with
    | 0x18 => some (BitVec.ofNat 64 (b.status.toNat + b.detail.toNat * 2 ^ 32))
    | 0x28 => some b.heartbeat
    | _ => (rowAt 0x40 8 8 off).map fun i => b.args.toList.getD i 0
  | .basin d =>
    let b := s.basins.get d
    match off with
    | 0x308 => some b.snt.thresh
    | 0x1008 => some b.map.progress
    | _ => (rowAt 0x400 8 32 off).map fun i =>
        let e := b.snt.log.get (0, 0) (i / 2)
        if i % 2 = 0 then e.1 else e.2
  | .jet j => if off = 0x608 then some (s.jet j).mvAddr else s.coreReg64 (.jet j) off
  | .update r n => s.coreReg64 (.upd r n) off
  | .runnel r =>
    let x := s.runnels.get r
    match off with
    | 0x1408 => some x.map.progress
    | 0x2008 => some x.ownCount
    | 0x2010 => some x.heldCount
    | 0x2100 => some (x.digOwn.setWidth 64)
    | 0x2108 => some ((x.digOwn >>> 64).setWidth 64)
    | 0x2110 => some (x.digHeld.setWidth 64)
    | 0x2118 => some ((x.digHeld >>> 64).setWidth 64)
    | _ => none
  | .keeper =>
    match off with
    | 0x8 => some s.keeper.uptime
    | 0x20 => some s.keeper.pstep
    | _ => (bankAt 0x1000 0x20 64 6 off).bind fun (c, w) =>
        let t := s.sluice.thr.get {} c
        match w with
        | 0 => some t.count
        | 2 => some (satAdd 0 (t.ns / 1000))
        | 4 => some t.onset
        | _ => none
  | .sluice =>
    if off = 0 then
      some (BitVec.ofNat 64 (s.sluice.sustainedW + s.sluice.peakW * 2 ^ 16 + s.sluice.throttleC * 2 ^ 32))
    else none
  | _ => none

/-! ## 32-bit registers (R12) -/

/-- A flag at bit `k` of a register. -/
def flag (b : Bool) (k : Nat) : Nat := if b then 2 ^ k else 0

/-- The code of a tile state (R103). -/
def TileState.code : TileState → Nat
  | .idle => 0
  | .filling => 1
  | .drainWait => 2
  | .draining => 3

/-- JT_ARRn_STATUS (R120). -/
def Arr.status (a : Arr) : Nat :=
  flag a.inQuad 13 + flag a.held 12 + min 15 a.queue.length * 2 ^ 8 + flag (a.queue.length == 16) 7 + flag a.active 6 +
    a.shadow * 2 ^ 4 + a.tileB.state.code * 2 ^ 2 + a.tileA.state.code

/-- JT_ARR_EN (R118). -/
def Jet.arrEn (x : Jet) : Nat := flag (x.quadOk 1) 17 + flag (x.quadOk 0) 16 + x.test.toNat * 2 ^ 8 + x.fused.toNat

/-- CB_SCRUB_CTRL and RN_SCRUB_CTRL (R271, R280). -/
def scrubCtrl (period : Byte) (en : Bool) : Nat := period.toNat * 2 ^ 8 + flag en 0

/-- CB_CHn_STATE and RN_PKGp_STATE (R274, R280): SPARE_ROWS is the sum over the banks. -/
def UnitSt.stateReg (u : UnitSt) : Nat :=
  min 255 ((u.spares.map Prod.snd).sum) * 2 ^ 16 + u.reason.toNat * 2 ^ 8 + u.state.toNat

/-- BS_MAP_STATUS and RN_MAP_STATUS (R276, R280). -/
def RegionSt.status (m : RegionSt) : Nat := m.mapped * 2 ^ 24 + min 255 m.queue.length * 2 ^ 16 + m.unit * 2 ^ 8 + m.state.toNat

/-- BS_SNT_CTRL (R150). -/
def Sentinel.ctrl (x : Sentinel) : Nat := x.eventLimit.toNat * 2 ^ 24 + x.log2n.toNat * 2 ^ 8 + flag x.sample.isSome 1 + flag x.en 0

/-- RN_DISP_STATUS (R314). -/
def Runnel.dispStatus (x : Runnel) : Nat := x.faultCore.toNat * 2 ^ 16 + flag x.heldDone 3 + flag x.ownDone 2 + x.state.toNat

/-- A core's 32-bit registers (R78, R198 to R202). -/
def Core.reg32 (k : Core) (off : Nat) : Nat :=
  match off with
  | 0x100 => rcId.toNat
  | 0x104 => k.ctrl.toNat
  | 0x108 => k.flags.toNat
  | 0x10C => k.cause.toNat
  | 0x110 => k.index.toNat
  | 0x410 => flag k.fmt.moverConvEn 4 + k.fmt.flags.toNat
  | _ => 0

/-- FH_STATUS (R459). -/
def State.fhStatus (s : State) : Nat :=
  s.cxl.rate.toNat * 2 ^ 20 + s.cxl.width.toNat * 2 ^ 15 + flag s.cxl.degraded 14 + s.keeper.powerState % 4 * 2 ^ 10 +
    flag s.keeper.fwRestart 9 + flag (s.record.phase == 0x0B) 8 + flag s.keeper.ready 0

/-- WR_RINGd_STATE (R402): COUNT 5 stands for more than four breaks. -/
def Weir.ringState (w : Weir) (d : Nat) : Nat :=
  let l := w.breaks.get [] d
  (w.bank w.inj).size d * 2 ^ 26 + (if w.tooMany.getLsbD d then 5 else l.length) * 2 ^ 23 + l.getD 3 0 * 2 ^ 15 + l.getD 2 0 * 2 ^ 10 +
    l.getD 1 0 * 2 ^ 5 + l.getD 0 0

/-- WR_Pp_STATUS and WR_Pp_LINK (R405, R406). -/
def Port.reg32 (p : Port) (word : Nat) : Nat :=
  if word = 0 then p.peer.toNat * 2 ^ 16 + flag p.paced 12 + p.laneSet.toNat * 2 ^ 10 + p.xonRx.toNat
  else p.state.toNat * 2 ^ 24 + p.refuse.toNat * 2 ^ 16 + p.rtt.toNat

/-- FH_COLL_STATUS (R436). -/
def State.collStatus (s : State) : Nat :=
  min 255 s.coll.opened.length * 2 ^ 16 + flag s.coll.window 9 + flag (s.coll.table.isSome && s.leader == s.coll.rank) 8 +
    min 100 (s.coll.storeUsed * 100 / (192 * 2 ^ 20))

/-- The 32-bit FH_ and WR_ registers that are not cleared by a read (R352, R401 to R406, R436 to R439, R456 to R461, R498). -/
def State.fhReg32 (s : State) (off : Nat) : Nat :=
  match off with
  | 0x00 => 0x4A02 * 2 ^ 16 + s.part.stepping.toNat
  | 0x04 => s.fhStatus
  | 0x08 => s.cxl.linkHold.toNat * 2 ^ 8 + flag s.cxl.intEn 0
  | 0x0C => s.cxl.cause.toNat
  | 0x10 => s.cxl.mask.toNat
  | 0x18 => s.log.level.toNat
  | 0x3000 => s.job.survStatus
  | 0x3004 => s.job.statedUs.toNat
  | 0x3800 => s.collStatus
  | 0x3810 => s.membState
  | 0x3814 => s.coll.median.toNat
  | 0x8000 => s.weir.routeStatus
  | 0x8028 => s.weir.markKib.toNat
  | _ =>
    match rowAt 0x8010 8 3 off, bankAt 0x8400 0x100 6 2 off with
    | some d, _ => s.weir.ringState d
    | none, some (p, w) => if h : p < 6 then (s.weir.ports.get ⟨p, h⟩).reg32 w else 0
    | none, none => 0

/-- The 32-bit registers of a mailbox (R468 to R473): GO reads 1 while STATE is PENDING. -/
def Mailbox.reg32 (b : Mailbox) (off : Nat) : Nat :=
  match off with
  | 0x00 => b.tag.toNat * 2 ^ 16 + b.opcode.toNat
  | 0x04 => b.len
  | 0x08 => b.ms.toNat
  | 0x0C => flag b.abort 1 + flag (b.state == 1) 0
  | 0x10 => b.stTag.toNat * 2 ^ 16 + b.server.toNat * 2 ^ 4 + b.state.toNat
  | 0x20 => b.outLen
  | 0x24 => b.permille
  | _ => 0

/-- The MSI-X table and its pending-bit array (R456, R462). -/
def Cxl.msixReg32 (x : Cxl) (off : Nat) : Nat :=
  if off = 0x800 then x.pba.toNat
  else match rowAt 0 4 64 off with
    | some i => if i % 4 = 3 then flag (x.vecMask.getLsbD (i / 4)) 0 else (x.msixTable.get 0 i).toNat
    | none => 0

/-- SL_DOMd_STATUS (R536): PACE reads 0x40 in ACLK domains, DIVIDER 0 in HBM domains. -/
def Dom.status (x : Dom) (hbm : Bool) : Nat :=
  x.bind.toNat * 2 ^ 24 + flag x.hold 20 + flag x.stretch 19 + x.pending.getD 0 * 2 ^ 16 + flag x.pending.isSome 15 +
    (if hbm then x.pace else 0x40) * 2 ^ 8 + (if hbm then 0 else x.div)

/-- KP_PIN_STATUS (R604). -/
def State.pinStatus (s : State) : Nat :=
  let k := s.keeper
  k.slotId.toNat * 2 ^ 12 + flag k.flowOk 11 + flag k.leak 10 + flag k.pwrEn 9 + flag k.perst 8 + flag k.refclk 4 + flag k.ready 3 +
    flag (s.sluice.sagMain || s.sluice.sagAux) 2 + flag k.thermtrip 1 + flag s.alert 0

/-- The Keeper's 32-bit registers that are not cleared by a read (R408, R560 to R562, R583, R604). -/
def State.kpReg32 (s : State) (off : Nat) : Nat :=
  let k := s.keeper
  match off with
  | 0x00 => k.failStep * 2 ^ 12 + k.step * 2 ^ 8 + flag k.abandoned 7 + k.trigger * 2 ^ 4 + k.cls
  | 0x10 => k.boot.toNat
  | 0x18 => flag k.vslot 3 + flag k.pvalid 2 + flag k.pused 1 + flag k.preq 0
  | 0x28 =>
    let f := s.fw
    f.revoked.toNat * 2 ^ 28 + f.keysBits * 2 ^ 24 + f.rollback * 2 ^ 16 + f.keyIndex * 2 ^ 8 + flag f.tries 7 + (match f.pend with | none => 0 | some b => slotNo b + 1) * 2 ^ 5 +
      flag f.active 4 + flag f.running 0
  | 0x30 => s.pinStatus
  | 0x40 => k.energised.toNat * 2 ^ 4 + k.closed.toNat
  | _ => 0

/-- The map-out table that a slot register shows (R279, R280). -/
def RegionSt.slotReg (m : RegionSt) (c base n off : Nat) : Option Nat := (rowAt base 4 n off).map fun k => (m.slot c k).toNat

/-! ## Configuration space (R451 to R453) -/

/-- The three header words of a DVSEC structure: its ID, revision and length, and the 16 bits beside the ID. The places and the
header's form are PCIe's and CXL 3.1's: PRESUMED, log 3. -/
def dvsecHead (next rev len id rest : Nat) : List Nat :=
  [next * 2 ^ 20 + 0x10023, len * 2 ^ 20 + rev * 2 ^ 16 + 0x1E98, rest * 2 ^ 16 + id]

/-- PCIe DVSEC for CXL Devices (R452): Cache, IO and Mem capable, HDM_Count 1, Mem_HwInit_Mode 0; range 1 has HOST_WINDOW_BYTES. -/
def cxlDvsec (window : Nat) : List Nat :=
  dvsecHead 0x1C0 3 0x3C 0x0000 0x17 ++ [0, 0, 0, window / 2 ^ 32, window % 2 ^ 32 / 2 ^ 28 * 2 ^ 28, 0, 0, 0, 0, 0, 0, 0]

/-- Flex Bus Port DVSEC (R441, R452): Cache, IO and Mem capable, no 68-byte flit; the standard 256-byte flit has no bit. -/
def flexDvsec : List Nat := dvsecHead 0x1E0 2 0x20 0x0007 7 ++ [0, 0, 0, 0, 0]

/-- Register Locator DVSEC (R452, R453): the component registers and the device registers, both in BAR 0. -/
def locatorDvsec : List Nat := dvsecHead 0 0 0x1C 0x0008 0 ++ [0x00800100, 0, 0x00810300, 0]

/-- Word `k` of configuration space: the identity of R451 and the structures of R452. The other words, and the places of the
structures, are not the spec's: PRESUMED, log 3. -/
def State.configWord (s : State) (off : Nat) : Nat :=
  if off = 0 then 0x4A02 * 2 ^ 16 + 0x1E9B
  else if off = 8 then 0x120000 * 2 ^ 8 + s.part.stepping.toNat
  else if off = 0xB0 then flag s.cxl.msixEn 31 + flag s.cxl.funcMask 30 + 15 * 2 ^ 16 + 0x11
  else if off = 0xB4 then 0x10000
  else if off = 0xB8 then 0x10800
  else if 0x180 ≤ off ∧ off < 0x1C0 then (cxlDvsec s.caps.hostWindow).getD ((off - 0x180) / 4) 0
  else if 0x1C0 ≤ off ∧ off < 0x1E0 then flexDvsec.getD ((off - 0x1C0) / 4) 0
  else if 0x1E0 ≤ off ∧ off < 0x200 then locatorDvsec.getD ((off - 0x1E0) / 4) 0
  else 0

/-- A word of the telemetry mirror (R463): SEQ, then the bytes of the last rewrite. -/
def Cxl.mirrorWord (x : Cxl) (off : Nat) : Nat := leNat (((leBytes 8 x.mirrorSeq.toNat ++ fitBytes 248 x.mirror).drop off).take 4)

/-- The value of a 32-bit register that no read clears; what is not listed reads zero (R12, R13, R456). -/
def State.reg32 (s : State) (blk : RegBlock) (off : Nat) : Nat :=
  match blk with
  | .fh => s.fhReg32 off
  | .mailbox n => (s.boxes.get n).reg32 off
  | .msix => s.cxl.msixReg32 off
  | .config => s.configWord off
  | .mirror => s.cxl.mirrorWord off
  | .bar2 n => leNat ((fitBytes 65536 (s.boxes.get n).buf).drop off |>.take 4)
  | .basin d =>
    let b := s.basins.get d
    match off with
    | 0x300 => b.snt.ctrl
    | 0x310 => b.snt.seed.toNat
    | 0x328 => flag b.snt.wrapped 4 + b.snt.next.toNat
    | 0x1000 => b.map.status
    | 0x1010 => b.map.rate
    | _ => (b.map.slotReg 256 0x4000 4096 off).getD 0
  | .jet j =>
    let x := s.jet j
    match off with
    | 0x600 => x.mvInfo.toNat
    | 0x700 => x.arrEn
    | _ =>
      match bankAt 0x800 0x40 8 6 off with
      | some (n, 0) => (x.arr n).status
      | some (n, 5) => (x.arr n).flags.toNat
      | _ => x.core.reg32 off
  | .update r n => (s.core (.upd r n)).reg32 off
  | .cistern i =>
    let c := s.cisterns.get i
    match off with
    | 0x10 => scrubCtrl c.periodH c.en
    | 0x14 => c.limits.toNat
    | 0x18 => c.temp.toNat
    | _ => (((bankAt 0x100 0x20 32 1 off).bind fun q => bankUnit blk q.1).map fun u => (s.unitSt u).stateReg).getD 0
  | .runnel r =>
    let x := s.runnels.get r
    match off with
    | 0x1000 => scrubCtrl x.periodH x.en
    | 0x1004 => x.limits.toNat
    | 0x1400 => x.map.status
    | 0x1410 => x.map.rate
    | 0x2000 => x.dispStatus
    | _ => ((((bankAt 0x1100 0x20 18 1 off).bind fun q => bankUnit blk q.1).map fun u => (s.unitSt u).stateReg).orElse
        fun _ => x.map.slotReg 16 0x1800 256 off).getD 0
  | .keeper => s.kpReg32 off
  | .sluice =>
    if off = 8 then s.sluice.warnMv * 2 ^ 16 + s.sluice.resetMv
    else match rowAt 0x100 8 10 off with
      | some d => if h : d < 10 then (s.sluice.doms.get ⟨d, h⟩).status (decide (4 ≤ d ∧ d < 8)) else 0
      | none => 0

/-! ## Reads (R12, R15, R457) -/

/-- What a 32-bit read returns, and the state it leaves (R12, R15): the low half of a 64-bit register latches its high half, which the
next read of that high half returns and uses up; without a latch the high half is live. A field with access RC is cleared, but
not by the host (R457). -/
def State.read32 (s : State) (who : Agent) (blk : RegBlock) (off : Nat) : W32 × State :=
  match s.reg64 blk (off - off % 8) with
  | some v =>
    let high : W32 := (v >>> 32).setWidth 32
    if off % 8 = 0 then (v.setWidth 32, { s with latch := some (blk, off, high) })
    else match s.latch with
      | some (b, o, h) => if b = blk ∧ o + 4 = off then (h, { s with latch := none }) else (high, s)
      | none => (high, s)
  | none => match s.rc blk off with
    | some (c, put) => (c, if who = .host then s else put 0)
    | none => (BitVec.ofNat 32 (s.reg32 blk off), s)

/-- What a 64-bit read returns, and the state it leaves (R15): one sample of a 64-bit register, or two 32-bit registers, the lower
first. -/
def State.read64 (s : State) (who : Agent) (blk : RegBlock) (off : Nat) : W64 × State :=
  match s.reg64 blk off with
  | some v => (v, s)
  | none =>
    let (lo, s1) := s.read32 who blk off
    let (hi, s2) := s1.read32 who blk (off + 4)
    (lo.setWidth 64 ||| (hi.setWidth 64 <<< 32), s2)

/-- Does an agent reach a block (R23, R456, R457, R534, R588)? -/
def reaches (who : Agent) (blk : RegBlock) : Bool :=
  match who, blk with
  | .host, .fh | .host, .mailbox _ | .host, .msix | .host, .bar2 _ | .host, .config | .host, .mirror => true
  | .host, _ => false
  | .keeper, .keeper | .keeper, .sluice => true
  | .keeper, _ => false
  | .firmware, _ => true

/-- Is a block powered? The Keeper island always is; every other block is while the main rails are up, and the Sluice's limits are
in flash (R514, R553). -/
def State.powered (s : State) (blk : RegBlock) : Bool :=
  match blk with
  | .keeper | .sluice => true
  | _ => s.keeper.rails

/-- A 32-bit read by an agent (R12, R15): of the low half of a 64-bit register, which latches its high half, of that high half, or of a
32-bit register. A block that the agent does not reach, or that has no power, answers nothing. -/
def execReg64LowHalfRead (who : Agent) (blk : RegBlock) (off : Nat) (s : State) : Out :=
  .next (if reaches who blk && s.powered blk && off % 4 == 0 then
      let (v, t) := s.read32 who blk off
      { t with readData := v.setWidth 64 }
    else s)

end Sys2Proof.Machine
end

