-- ==== Sys2Proof/Machine/RegFile.lean ====
section
/-! DEFINITION. Writes of register fields that software may write (R12, R13). Offsets are from the bases of the chapters. -/

namespace Sys2Proof.Machine

/-! ## Writes (R12, R13) -/

/-- A field with a range: the new value, and whether the value written is reserved. -/
def rangeField (old v lo hi : Nat) : Nat × Bool := if lo ≤ v ∧ v ≤ hi then (v, false) else (old, true)

/-- Record a write of a reserved value. -/
def State.noteRsvd (s : State) (bad : Bool) (off v : Nat) : State := if bad then s.rsvdWrite off v else s

/-- Scrub control and map-out thresholds (R271, R272, R280): the fields of a value that are not reserved. -/
def scrubWrite (period : Byte) (v : Nat) : Byte × Bool :=
  let (p, bad) := rangeField period.toNat (v / 256 % 256) 0x01 0x48
  (BitVec.ofNat 8 p, bad)

/-- CB_LIMITS and RN_LIMITS (R272). -/
def limitsWrite (old : W32) (v : Nat) : W32 × Bool :=
  let (a, x) := rangeField (bits old 15 0) (v % 2 ^ 16) 1 65535
  let (b, y) := rangeField (bits old 23 16) (v / 2 ^ 16 % 256) 1 255
  let (c, z) := rangeField (bits old 31 24) (v / 2 ^ 24 % 256) 1 255
  (BitVec.ofNat 32 (a + b * 2 ^ 16 + c * 2 ^ 24), x || y || z)

/-- Bytes of a buffer replaced. -/
def bufWrite (buf : List Byte) (off : Nat) (bs : List Byte) : List Byte :=
  fitBytes off buf ++ bs ++ buf.drop (off + bs.length)

/-- A 32-bit write of a core's register (R78, R199 to R202). -/
def State.coreWrite (s : State) (c : CoreId) (off : Nat) (v : Nat) : State :=
  let w : W64 := BitVec.ofNat 64 v
  let k := s.core c
  match off with
  | 0x104 => s.csrApply c 0x104 1 0 w
  | 0x108 => s.csrApply c 0x108 1 0 w
  | 0x110 => s.csrApply c 0x110 1 0 w
  | 0x410 => s.putCore c { k with fmt := { k.fmt with flags := k.fmt.flags &&& ~~~(BitVec.ofNat 4 v) } }
  | _ => s

/-- A 64-bit write of a core's register (R203, R205, R317): JT_VX_TVEC is written in handler mode, and by the loader while PHASE
reads IDLE (R23). -/
def State.coreWrite64 (s : State) (c : CoreId) (off : Nat) (v : W64) : State :=
  let k := s.core c
  match off with
  | 0x118 => s.putCore c { k with vxpc := setBits v 1 0 0 }
  | 0x128 => if k.inHandler || s.record.phase == 0 then s.putCore c { k with tvec := v } else s
  | _ =>
    match rowAt 0x2000 8 192 off with
    | some i => s.laneWrite c i v
    | none => match c with
      | .jet _ => s
      | .upd r n => match rowAt 0x3000 8 64 off with
        | some i => s.heldLaneWrite r n i v
        | none => s

/-- SL_LIMITS, within the ranges of R490; only the Keeper writes it (R534). -/
def State.limitsPut (s : State) (v : Nat) : State :=
  let x := s.sluice
  let (w, a) := rangeField x.sustainedW (v % 2 ^ 16) 1000 4200
  let (p, b) := rangeField x.peakW (v / 2 ^ 16 % 2 ^ 16) w 5200
  let (t, c) := rangeField x.throttleC (v / 2 ^ 32 % 256) 85 105
  ({ s with sluice := { x with sustainedW := w, peakW := p, throttleC := t } } : State).noteRsvd (a || b || c) 0 v

/-- SL_SAG, within the ranges of R490; only the Keeper writes it (R535). -/
def State.sagPut (s : State) (v : Nat) : State :=
  let x := s.sluice
  let (r, a) := rangeField x.resetMv (v % 2 ^ 16) 36000 42000
  let (w, b) := rangeField x.warnMv (v / 2 ^ 16) (max 38000 (r + 1)) 46000
  ({ s with sluice := { x with resetMv := r, warnMv := w } } : State).noteRsvd (a || b) 8 v

/-- A write of a 64-bit register. -/
def State.regWrite64 (s : State) (who : Agent) (blk : RegBlock) (off : Nat) (v : W64) : State :=
  match blk with
  | .mailbox n =>
    match rowAt 0x40 8 8 off with
    | some i =>
      if (s.boxes.get n).outstanding then s
      else s.modBox n fun b => { b with args := Vector.ofFn fun k => if k.val = i then v else b.args.get k }
    | none => s
  | .basin d =>
    if off = 0x308 then s.modBasin d fun b => { b with snt := { b.snt with thresh := BitVec.ofNat 64 (v.toNat % 2 ^ 35) } } else s
  | .jet j => s.coreWrite64 (.jet j) off v
  | .update r n => s.coreWrite64 (.upd r n) off v
  | .sluice => if off = 0 && who == .keeper then s.limitsPut v.toNat else s
  | _ => s

/-- BS_SNT_CTRL (R150). -/
def State.sentinelCtrl (s : State) (d : Fin 4) (v : Nat) : State :=
  let x := (s.basins.get d).snt
  let (n, bad) := rangeField x.log2n.toNat (v / 256 % 32) 0x0A 0x14
  let s := if v % 2 = 0 then s.sentinelOff d else s
  (s.modBasin d fun b => { b with snt := { b.snt with
    eventLimit := BitVec.ofNat 8 (v / 2 ^ 24), log2n := BitVec.ofNat 5 n, en := decide (v % 2 = 1) } }).noteRsvd bad 0x300 v

/-- A write of an FH_ or WR_ register (R403, R460, R461, R498). -/
def State.fhWrite (s : State) (off v : Nat) : State :=
  let x := s.cxl
  match off with
  | 0x08 =>
    let (h, bad) := rangeField x.linkHold.toNat (v / 256 % 256) 0 0xC8
    ({ s with cxl := { x with linkHold := BitVec.ofNat 8 h, intEn := decide (v % 2 = 1) } } : State).noteRsvd bad off v
  | 0x0C => { s with cxl := { x with cause := x.cause &&& ~~~(BitVec.ofNat 15 v) } }
  | 0x10 => { s with cxl := { x with mask := BitVec.ofNat 15 v } }
  | 0x18 =>
    let (l, bad) := rangeField s.log.level.toNat (v % 8) 0 4
    ({ s with log := { s.log with level := BitVec.ofNat 3 l } } : State).noteRsvd bad off v
  | 0x8028 =>
    let (m, bad) := rangeField s.weir.markKib.toNat (v % 256) 0x08 0x80
    ({ s with weir := { s.weir with markKib := BitVec.ofNat 8 m } } : State).noteRsvd bad off v
  | _ => s

/-- A write of a mailbox register (R468 to R471, R474): only CTRL is written while a command is outstanding. -/
def State.boxWrite (s : State) (n : Fin 8) (off v : Nat) : State :=
  let locked := (s.boxes.get n).outstanding
  let set (f : Mailbox → Mailbox) : State := if locked then s else s.modBox n f
  match off with
  | 0x00 => set fun b => { b with opcode := BitVec.ofNat 16 v, tag := BitVec.ofNat 8 (v / 2 ^ 16) }
  | 0x04 => set fun b => { b with len := v % 2 ^ 17 }
  | 0x08 => set fun b => { b with ms := BitVec.ofNat 16 v }
  | 0x0C =>
    let s := if v.testBit 1 then s.abortBox n else s
    if v.testBit 0 then s.go n else s
  | _ => s

/-- A write of configuration space: of MSI-X's Message Control (R451, R462), whose place is PRESUMED, log 3. -/
def State.configWrite (s : State) (off v : Nat) : State :=
  if off = 0xB0 then
    let x := s.cxl
    let s := { s with cxl := { x with msixEn := v.testBit 31, funcMask := v.testBit 30 } }
    ((List.range 16).filter fun n => x.pba.getLsbD n && !x.vecMask.getLsbD n).foldl (fun s n => s.unmask n) s
  else s

/-- A write of the MSI-X table (R456, R462, log 3). -/
def State.msixWrite (s : State) (off v : Nat) : State :=
  let x := s.cxl
  match rowAt 0 4 64 off with
    | some i =>
      if i % 4 = 3 then
        if v % 2 = 0 then s.unmask (i / 4) else { s with cxl := { x with vecMask := setBit x.vecMask (i / 4) true } }
      else { s with cxl := { x with msixTable := x.msixTable.set i (BitVec.ofNat 32 v) } }
    | none => s

/-- A write of a 32-bit register. -/
def State.regWrite32 (s : State) (who : Agent) (blk : RegBlock) (off v : Nat) : State :=
  match blk with
  | .fh => s.fhWrite off v
  | .mailbox n => s.boxWrite n off v
  | .msix => s.msixWrite off v
  | .config => s.configWrite off v
  | .mirror => s
  | .bar2 n =>
    if (s.boxes.get n).outstanding || decide (65536 < off + 4) then s
    else s.modBox n fun b => { b with buf := bufWrite b.buf off (leBytes 4 v) }
  | .basin d =>
    match off with
    | 0x300 => s.sentinelCtrl d v
    | 0x310 => s.sentinelSeed d (BitVec.ofNat 32 v)
    | 0x1010 =>
      let (r, bad) := rangeField (s.basins.get d).map.rate (v % 1024) 8 512
      (s.modBasin d fun b => { b with map := { b.map with rate := r } }).noteRsvd bad off v
    | _ => s
  | .jet j =>
    match bankAt 0x814 0x40 8 1 off with
    | some (n, _) =>
      if h : n < 8 then s.modArr j ⟨n, h⟩ fun a => { a with flags := a.flags &&& ~~~(BitVec.ofNat 4 v) } else s
    | none => s.coreWrite (.jet j) off v
  | .update r n => s.coreWrite (.upd r n) off v
  | .cistern i =>
    match off with
    | 0x10 =>
      let (p, bad) := scrubWrite (s.cisterns.get i).periodH v
      (s.modCistern i fun c => { c with periodH := p, en := decide (v % 2 = 1) }).noteRsvd bad off v
    | 0x14 =>
      let (l, bad) := limitsWrite (s.cisterns.get i).limits v
      (s.modCistern i fun c => { c with limits := l }).noteRsvd bad off v
    | _ => s
  | .runnel r =>
    match off with
    | 0x1000 =>
      let (p, bad) := scrubWrite (s.runnels.get r).periodH v
      (s.modRunnel r fun x => { x with periodH := p, en := decide (v % 2 = 1) }).noteRsvd bad off v
    | 0x1004 =>
      let (l, bad) := limitsWrite (s.runnels.get r).limits v
      (s.modRunnel r fun x => { x with limits := l }).noteRsvd bad off v
    | 0x1410 =>
      let (k, bad) := rangeField (s.runnels.get r).map.rate (v % 1024) 8 256
      (s.modRunnel r fun x => { x with map := { x.map with rate := k } }).noteRsvd bad off v
    | _ => s
  | .sluice => if off = 8 && who == .keeper then s.sagPut v else s
  | .keeper => s

/-- One 32-bit word is written: half of a 64-bit register takes it with the other half as it stands. -/
def State.wordWrite (s : State) (who : Agent) (blk : RegBlock) (off v : Nat) : State :=
  match s.reg64 blk (off - off % 8) with
  | some old =>
    s.regWrite64 who blk (off - off % 8) (if off % 8 = 0 then setBits old 31 0 v else setBits old 63 32 v)
  | none => s.regWrite32 who blk off v

/-- A write of a register (R12, R13), aligned to its width; a 64-bit access to two 32-bit registers writes the lower first
(log 42). -/
def execRegisterWrite (who : Agent) (blk : RegBlock) (off : Nat) (wide : Bool) (v : W64) (s : State) : Out :=
  .next (if !reaches who blk || !s.powered blk || off % (if wide then 8 else 4) != 0 then s
    else if !wide then s.wordWrite who blk off (v.toNat % 2 ^ 32)
    else match s.reg64 blk off with
      | some _ => s.regWrite64 who blk off v
      | none => (s.wordWrite who blk off (v.toNat % 2 ^ 32)).wordWrite who blk (off + 4) (v.toNat / 2 ^ 32))

end Sys2Proof.Machine
end

