-- ==== Sys2Proof/Machine/Sideband.lean ====
section
/-! DEFINITION. The MCTP-over-I3C sideband (R594 to R597). The command and completion codes are those of DSP0236, DSP0240 and
DSP0248 (PRESUMED, log 41); a response is held as its name and the values it carries. -/

namespace Sys2Proof.Machine

/-! ## Addresses (R594) -/

/-- SETDASA (R594): a static address takes a dynamic one. -/
def execSetdasa (addr : BitVec 7) (s : State) : Out := .next { s with keeper := { s.keeper with dynAddr := some addr } }

/-- ENTDAA (R594): a target without a dynamic address takes one. -/
def execEntdaa (addr : BitVec 7) (s : State) : Out :=
  .next (if s.keeper.dynAddr.isNone then { s with keeper := { s.keeper with dynAddr := some addr } } else s)

/-! ## Requests and responses (R595) -/

/-- The requests the sideband supports. -/
inductive SideReq where
  | setEid
  | getEid
  | mctpVersion
  | msgTypes
  | getTid
  | pldmVersion
  | pldmTypes
  | pldmCommands
  | sensorReading
  | pdrInfo
  | getPdr
  deriving DecidableEq, Repr

/-- Which request a message is: type, then the command code of MCTP control, or the PLDM type and command code. -/
def sideReq (m : List Byte) : Option SideReq :=
  let b (k : Nat) : Nat := (m.getD k 0).toNat
  if b 0 % 128 = 0 then
    match b 2 with
    | 1 => some .setEid
    | 2 => some .getEid
    | 4 => some .mctpVersion
    | 5 => some .msgTypes
    | _ => none
  else if b 0 % 128 = 1 then
    match b 2 % 64, b 3 with
    | 0, 0x02 => some .getTid
    | 0, 0x03 => some .pldmVersion
    | 0, 0x04 => some .pldmTypes
    | 0, 0x05 => some .pldmCommands
    | 2, 0x11 => some .sensorReading
    | 2, 0x50 => some .pdrInfo
    | 2, 0x51 => some .getPdr
    | _, _ => none
  else none

/-- The oldest whole message of a kind, which waits to be answered: its source and bytes. -/
def State.waiting (s : State) (q : SideReq) : Option (Byte × List Byte) := s.keeper.requests.find? fun r => sideReq r.2 == some q

/-- A request is answered (R595, R596): to the source of the message of its kind that has waited longest, or to endpoint 0. -/
def State.sideAnswer (s : State) (q : SideReq) (what : String) (args : List Int) : State :=
  match s.waiting q with
  | some r => ({ s with keeper := { s.keeper with requests := s.keeper.requests.erase r } } : State).send (.mctp r.1.toNat what args)
  | none => s.send (.mctp 0 what args)

/-- Set Endpoint ID (R594, R595): 0 and 0xFF are no endpoint IDs. -/
def execSetEndpointId (eid : Byte) (s : State) : Out :=
  .next (if eid = 0 ∨ eid = 0xFF then s.sideAnswer .setEid "SetEndpointID" [2]
    else ({ s with keeper := { s.keeper with eid := eid } } : State).sideAnswer .setEid "SetEndpointID" [0, eid.toNat])

/-- Get Endpoint ID (R595). -/
def execGetEndpointId (s : State) : Out := .next (s.sideAnswer .getEid "GetEndpointID" [0, s.keeper.eid.toNat])

/-- Get MCTP Version Support (R595). -/
def execGetMctpVersionSupport (s : State) : Out := .next (s.sideAnswer .mctpVersion "GetMCTPVersionSupport" [0, Config.sidebandVersion 256])

/-- Get Message Type Support (R595): MCTP control and PLDM. -/
def execGetMessageTypeSupport (s : State) : Out := .next (s.sideAnswer .msgTypes "GetMessageTypeSupport" [0, 0, 1])

/-- GetTID (R595). -/
def execGettid (s : State) : Out := .next (s.sideAnswer .getTid "GetTID" [0, Config.terminusId])

/-- The PLDM type a waiting request names in byte `k`; Type 0 with none. -/
def State.askedType (s : State) (q : SideReq) (k : Nat) : Nat := ((s.waiting q).map fun r => (r.2.getD k 0).toNat).getD 0

/-- GetPLDMVersion (R595): Types 0 and 2. -/
def execGetpldmversion (s : State) : Out :=
  let t := s.askedType .pldmVersion 9
  .next (if t = 0 ∨ t = 2 then s.sideAnswer .pldmVersion "GetPLDMVersion" [0, Config.sidebandVersion t]
    else s.sideAnswer .pldmVersion "GetPLDMVersion" [0x83])

/-- GetPLDMTypes (R595). -/
def execGetpldmtypes (s : State) : Out := .next (s.sideAnswer .pldmTypes "GetPLDMTypes" [0, 0, 2])

/-- GetPLDMCommands (R595): the command codes of a type. -/
def execGetpldmcommands (s : State) : Out :=
  let t := s.askedType .pldmCommands 4
  .next (if t = 0 then s.sideAnswer .pldmCommands "GetPLDMCommands" [0, 0x02, 0x03, 0x04, 0x05]
    else if t = 2 then s.sideAnswer .pldmCommands "GetPLDMCommands" [0, 0x11, 0x50, 0x51]
    else s.sideAnswer .pldmCommands "GetPLDMCommands" [0x83])

/-! ## Sensors (R597) -/

/-- Operational state of a numeric sensor (R597, R600): 0 enabled, 2 unavailable, 4 failed. -/
def State.pldmState (s : State) (id : Nat) : Int :=
  if s.pldmFailed id then 4 else if (s.pldmReading id).isNone then 2 else 0

/-- Present state of a reading against its thresholds (R597): 1 normal, 5 lower warning, 6 lower critical, 8 upper warning, 9 upper
critical. -/
def State.pldmPresent (s : State) (id : Nat) (v : Int) : Int :=
  let (uw, uc, lw, lc) := s.pldmLimits id
  let above (t : Option Int) : Bool := match t with | some x => decide (x < v) | none => false
  let below (t : Option Int) : Bool := match t with | some x => decide (v < x) | none => false
  if above uc then 9 else if below lc then 6 else if above uw then 8 else if below lw then 5 else 1

/-- GetSensorReading (R597): completion code, operational state, present state and reading. -/
def execGetsensorreading (id : W16) (s : State) : Out :=
  let k := id.toNat
  .next (if k < 1 ∨ 14 < k then s.sideAnswer .sensorReading "GetSensorReading" [0x80]
    else match s.pldmReading k with
      | some v => s.sideAnswer .sensorReading "GetSensorReading" [0, s.pldmState k, s.pldmPresent k v, v]
      | none => s.sideAnswer .sensorReading "GetSensorReading" [0, s.pldmState k, 0])

/-- Unit of a numeric sensor (R597): 2 °C, 5 V, 7 W, and the power of ten or of two of its resolution: 0.0625 as −4 of two, 0.001 as
−3 of ten. -/
def pldmUnit (id : Nat) : Int × Int := if id ≤ 10 then (2, -4) else if id ≤ 12 then (5, -3) else (7, -3)

/-- A threshold, or the lowest 32-bit number for none. -/
def threshold (t : Option Int) : Int := t.getD (-(2 ^ 31 : Int))

/-- GetPDRRepositoryInfo (R595): 14 numeric sensor PDRs. -/
def execGetpdrrepositoryinfo (s : State) : Out := .next (s.sideAnswer .pdrInfo "GetPDRRepositoryInfo" [0, 0, 14])

/-- GetPDR (R597): record `handle` is that of the numeric sensor of the same number; handle 0 asks for the first. The record's next
handle, the sensor, its unit and resolution, and its thresholds under the limits in force: upper warning, upper critical, lower
warning, lower critical. -/
def execGetpdr (handle : W32) (s : State) : Out :=
  let h := if handle = 0 then 1 else handle.toNat
  .next (if 14 < h then s.sideAnswer .getPdr "GetPDR" [0x82]
    else
      let (uw, uc, lw, lc) := s.pldmLimits h
      let u := pldmUnit h
      s.sideAnswer .getPdr "GetPDR"
        [0, if h = 14 then 0 else (h + 1 : Nat), h, u.1, u.2, threshold uw, threshold uc, threshold lw, threshold lc])

/-! ## Packets (R594, R596) -/

/-- A discard is counted (R596). -/
def State.mctpDrop (s : State) : State := { s with keeper := { s.keeper with mctpDrop := satInc s.keeper.mctpDrop } }

/-- A whole message: a supported request waits to be answered; any other PLDM command completes with ERROR_UNSUPPORTED_PLDM_CMD, any
other MCTP control command with ERROR_UNSUPPORTED_CMD, and nothing else is answered (R595). -/
def State.mctpMessage (s : State) (src : Byte) (m : List Byte) : State :=
  let kind := (m.getD 0 0).toNat % 128
  if (sideReq m).isSome then { s with keeper := { s.keeper with requests := s.keeper.requests ++ [(src, m)] } }
  else if kind = 1 then s.send (.mctp src.toNat "ERROR_UNSUPPORTED_PLDM_CMD" [5])
  else if kind = 0 then s.send (.mctp src.toNat "ERROR_UNSUPPORTED_CMD" [5])
  else s

/-- An MCTP packet (R594, R596): at most one partly assembled message per source endpoint; a packet out of order is discarded and
counted, and so is a message that a new one displaces. -/
def execMctpPacketReceive (src : Byte) (som eom : Bool) (seq : BitVec 2) (tag : BitVec 3) (data : List Byte) (s : State) : Out :=
  let rest := s.keeper.partials.filter fun p => p.src != src
  let put (s : State) (l : List Partial) : State := { s with keeper := { s.keeper with partials := l } }
  .next (match som, s.keeper.partials.find? fun p => p.src == src with
    | true, old =>
      let s := if old.isSome then s.mctpDrop else s
      if eom then (put s rest).mctpMessage src data else put s (⟨src, tag, seq + 1, data⟩ :: rest)
    | false, some p =>
      if p.tag ≠ tag ∨ p.nextSeq ≠ seq then s.mctpDrop
      else if eom then (put s rest).mctpMessage src (p.data ++ data)
      else put s (⟨src, tag, seq + 1, p.data ++ data⟩ :: rest)
    | false, none => s.mctpDrop)

/-- No next packet for 100 ms: the partial message is discarded and counted (R596). -/
def execMctpReassemblyTimeout (src : Byte) (s : State) : Out :=
  .next (if s.keeper.partials.any fun p => p.src == src then
      ({ s with keeper := { s.keeper with partials := s.keeper.partials.filter fun p => p.src != src } } : State).mctpDrop
    else s)

end Sys2Proof.Machine
end

