-- ==== Sys2Proof/Machine/Spare.lean ====
section
/-! DEFINITION. Hot spares: SPARE_JOIN, the fill streams and their acceptance (R343 to R349, R431). -/

namespace Sys2Proof.Machine

/-- Why a module may not take a rank (R344): none where it may. -/
def State.spareCheck (s : State) (i : Image) (rank : Nat) : Option LoadFault :=
  firstRefusal
    [refuse (!s.keeper.ready || s.keeper.powerState != 0 || s.job.running || s.coll.state != 0) 0x0601,
     s.stage5 i rank s.job.policy, s.survivalCheck i rank]

/-- JOIN goes to the leader (R431). -/
def State.sendJoin (s : State) (rank : Nat) : State :=
  s.send (.packet 0xFFFF "JOIN" [rank, s.weir.addr.toNat, s.record.epoch.toNat])

/-- SPARE_JOIN (R344, R345). -/
def execSpareJoin (n : Fin 8) (s : State) : Out :=
  .next (s.serve n 0x0017 fun s b =>
    let rank := b.arg 0
    let refused (i : Option Image) (f : LoadFault) : State := s.complete n 0xC f.code (spareOutput 0 (refusalRecord i (some f)))
    if s.job.spareRank.isSome then s
    else if s.job.spare ≠ 0 then s.complete n 7 s.wrongDetail []
    else match s.job.image with
      | none => refused none { code := 0x0601 }
      | some i =>
        if i.shards.length ≤ rank then s.complete n 4 0 []
        else match s.spareCheck i rank with
          | some f => refused (some i) f
          | none =>
            let seed := fitBytes 32 (b.buf.take 32)
            ({ s with
                record := { s.record with epoch := BitVec.ofNat 32 (b.arg 1) }
                job := { s.job with spare := 1, spareRank := some (rank, n.val), seed := seed, key := digestKey seed } } : State).sendJoin rank)

/-- GLOBAL_STEP of a spare: the step after the newest that a record names. -/
def State.stepFrom (s : State) (bs : List Byte) : State :=
  let w := leNat ((bs.drop 8).take 8)
  if w = 2 ^ 64 - 1 ∨ w < s.record.globalStep.toNat then s
  else { s with record := { s.record with globalStep := BitVec.ofNat 64 (w + 1) } }

/-- A lane table restored as a step starts and as it ended (R346): JET_LANES_START and JET_LANES_END. -/
def State.entryLanes (s : State) (e : ResEntry) : State :=
  let a := s.setJetLanes e.jetLanesStart
  let b := s.setJetLanes e.jetLanesEnd
  ({ s with jets := Vector.ofFn fun (j : Fin 160) =>
      { b.jet j with core := { (b.jet j).core with saved := (a.jet j).core.saved } } } : State).setCoreLanes e.coreLanes

/-- A spare's share takes what a member's header says (R346): a newer generation takes the place of an older one (R339). -/
def State.takeHeader (s : State) (gen : W16) (step : W64) (len member : Nat) (digest : W128) : State :=
  let p := s.job.parity
  if genNewer p.gen gen then s
  else
    let old := if gen = p.gen then p.digests else []
    { s with job := { s.job with
      gen := if genNewer s.job.gen gen then s.job.gen else gen, securedStep := step
      parity := { p with gen := gen, securedStep := step, len := len, digests := old.set member digest } } }

/-- What one piece of a fill does (R343, R346, R348). -/
def State.takeFill (s : State) (i : Image) (f : FillData) : State :=
  let v := s.record.slot
  let j := s.job
  let gen (g : W16) : W16 := if genNewer j.gen g then j.gen else g
  match f with
  | .ownRecord idx bs => (s.writeRecord i false v idx bs).stepFrom bs
  | .heldRecord idx bs => s.writeRecord i true v idx bs
  | .securedPiece o bs => s.putSecured i (o / 32) (allWords bs)
  | .ownCounts t => { s with job := { j with own := j.own.putT v t } }
  | .heldCounts t => { s with job := { j with held := j.held.putT v t } }
  | .ownEntry e =>
    let grads : Tbl (List Byte) := (i.shardRecords s.coll.rank).zip e.grads
    ({ s with
        record := { s.record with globalStep := e.globalStep }
        job := { j with desc := some e.desc, ownGrad := grads, outgoing := some e, acked := true, gen := gen e.terraceGen } } : State).entryLanes e
  | .heldEntry e =>
    ({ s with record := { s.record with globalStep := e.globalStep }, job := { j with gen := gen e.terraceGen } } : State).keepEntry i e
  | .parityPiece o bs => s.foldShare i o (allWords bs)
  | .parityHeader g step len member digest => s.takeHeader g step len member digest
  | .jetLanes l => s.setJetLanes l
  | .coreLanes l => s.setCoreLanes l
  | .reseed step =>
    let tail : List Byte := leBytes 8 step.toNat
    let s := { s with record := { s.record with globalStep := step } }
    ((s.seedJets tail).seedCores tail).event 0x0047 2 srcFw [s.coll.rank]

/-- IMAGE_HASH that a piece of a fill names: an entry's (R321). -/
def fillHash : FillData → Option (List Byte)
  | .ownEntry e => some e.imageHash
  | .heldEntry e => some e.imageHash
  | _ => none

/-- The spare's image is not the job's (R344): SPARE_JOIN is refused. -/
def State.wrongImage (s : State) : State :=
  match s.job.spareRank with
  | some (_, box) =>
    ({ s with job := { s.job with spare := 0, spareRank := none } } : State).completeAt box 0xC 0x0601
      (spareOutput 0 (refusalRecord none (some { code := 0x0601 })))
  | none => s

/-! ## Copies from the other side of a pair (R340) -/

/-- Every record asked for is there (R340): the copies are checked against the digests of V, and the step runs again. A module whose
records still differ is treated as failed (log 68). -/
def State.repaired (s : State) (i : Image) : State :=
  if !s.job.repair.isEmpty then s
  else
    let (own, s) := s.shardDigest i false s.record.slot
    let (held, s) := s.shardDigest i true s.record.slot
    if own ≠ s.job.digestV ∨ held ≠ s.job.heldDigestV then
      ({ s.reportFailed with record := { s.record with phase := 0 }, job := { s.job with running := false } } : State)
    else
      let s := s.rewriteWeights
      if s.record.phase = 0 then s.enterForward else s

/-- A record of version V copied from the other side of its pair takes its place (R340). -/
def State.takeCopy (s : State) (i : Image) (f : FillData) : State :=
  let put (held : Bool) (idx : Nat) (bs : List Byte) : State :=
    if !s.job.repair.contains (held, idx) then s
    else
      let s := s.writeRecord i held s.record.slot idx bs
      ({ s with job := { s.job with repair := s.job.repair.filter (· != (held, idx)) } } : State).repaired i
  match f with
  | .ownRecord idx bs => put false idx bs
  | .heldRecord idx bs => put true idx bs
  | _ => s

/-- Fill data arrives from a donor: at a spare (R346), or at a member that asked for copies (R340). -/
def execFillStreamReceive (f : FillData) (s : State) : Out :=
  .next (match s.job.image with
    | some i =>
      if s.job.spare = 2 then (if (fillHash f).any (· != i.hash) then s.wrongImage else s.takeFill i f)
      else if s.job.running then s.takeCopy i f
      else s
    | none => s)

/-! ## The end of a fill (R348) -/

/-- The rebuilt shard is the spare's own state too (R346): the secured image is copied into the slot that VERSION_SLOT names. -/
def State.ownFromSecured (s : State) (i : Image) : State :=
  let v := s.record.slot
  let s := (i.shardRecords s.coll.rank).foldl (fun s idx =>
    let (ws, s) := s.readWords recordWords (s.securedAddr i idx)
    State.writeWords ws s (s.recordAddr i false v idx)) s
  { s with job := { s.job with own := s.job.own.putT v s.job.securedT } }

/-- The fill is accepted (R348): the spare asks to be ACTIVE. -/
def State.fillAccepted (s : State) (i : Image) (rank : Nat) (own held : W128) : State :=
  let (w, s) := if s.record.globalStep = 0 then s.fresh else (s.record.globalStep, s)
  let share : Parity := { s.job.parity with
    complete := s.hasTerrace, group := s.heldGroup rank, stripe := s.memberOf rank }
  let s := { s with
    record := { s.record with globalStep := w }
    job := { s.job with spare := 3, cnt := bump s.job.cnt 2, digestV := own, heldDigestV := held, parity := share } }
  (if s.hasTerrace then s.putHeader i else s).sendJoin rank

/-- A fill fails (R348): the spare fills again, and after the second failure is REFUSED. -/
def State.fillFails (s : State) (i : Image) (rank box content : Nat) : State :=
  if s.job.fillFailed then
    (({ s with job := { s.job with spare := 5, spareRank := none } } : State).event 0x0048 3 srcFw [rank, content]).completeAt box 0xC 0
      (spareOutput 5 acceptRecord)
  else ({ s with job := { s.job with fillFailed := true, parity := {} } } : State).clearShare i

/-- The fill ends (R348): the digests of the own state, the held replica and the secured copy are compared, in that order. -/
def execFillVerify (ownDigest heldDigest securedDigest : W128) (s : State) : Out :=
  .next (match s.job.spareRank, s.job.image with
    | some (rank, box), some i =>
      if s.job.spare ≠ 2 then s
      else
        let s := if s.actives.contains s.partnerRank then s else s.ownFromSecured i
        let (own, s) := s.shardDigest i false s.record.slot
        let (held, s) := s.shardDigest i true s.record.slot
        let (img, s) := s.copyImage i
        if own ≠ ownDigest then s.fillFails i rank box 0
        else if held ≠ heldDigest then s.fillFails i rank box 1
        else if s.hasTerrace && imageDigest s.job.key img != securedDigest then s.fillFails i rank box 2
        else s.fillAccepted i rank ownDigest heldDigest
    | _, _ => s)

end Sys2Proof.Machine
end

