-- ==== Sys2Proof/Machine/Dispatch.lean ====
section
/-! DEFINITION. What each command does, one arm for each constructor of Instr. -/

namespace Sys2Proof.Machine

/-- The effect of a command on everything but the queue. -/
def exec (i : Instr) (s : State) : Host.Outcome State Fault Refusal :=
  match i with
  | .registerWrite who blk off wide v => Sys2Proof.Machine.execRegisterWrite who blk off wide v s
  | .reg64LowHalfRead who blk off => Sys2Proof.Machine.execReg64LowHalfRead who blk off s
  | .phaseAdvance => Sys2Proof.Machine.execPhaseAdvance s
  | .dataPlaneRecordWrite step w => Sys2Proof.Machine.execDataPlaneRecordWrite step w s
  | .suspectEntryWrite rank cause => Sys2Proof.Machine.execSuspectEntryWrite rank cause s
  | .suspectEntryRead => Sys2Proof.Machine.execSuspectEntryRead s
  | .phaseTagChange d tag us power => Sys2Proof.Machine.execPhaseTagChange d tag us power s
  | .budgetIntervalReport d cycles bytes => Sys2Proof.Machine.execBudgetIntervalReport d cycles bytes s
  | .fwHang => Sys2Proof.Machine.execFwHang s
  | .fwRestartDone => Sys2Proof.Machine.execFwRestartDone s
  | .ctrlReadySet => Sys2Proof.Machine.execCtrlReadySet s
  | .moverConvEnWrite j v => Sys2Proof.Machine.execMoverConvEnWrite j v s
  | .alu c f => Sys2Proof.Machine.execAlu c f s
  | .addi c f => Sys2Proof.Machine.execAddi c f s
  | .andi c f => Sys2Proof.Machine.execAndi c f s
  | .ori c f => Sys2Proof.Machine.execOri c f s
  | .xori c f => Sys2Proof.Machine.execXori c f s
  | .shi c f => Sys2Proof.Machine.execShi c f s
  | .lui c f => Sys2Proof.Machine.execLui c f s
  | .ld c f => Sys2Proof.Machine.execLd c f s
  | .st c f => Sys2Proof.Machine.execSt c f s
  | .br c f => Sys2Proof.Machine.execBr c f s
  | .jal c f => Sys2Proof.Machine.execJal c f s
  | .jalr c f => Sys2Proof.Machine.execJalr c f s
  | .fence c d a b => Sys2Proof.Machine.execFence c d a b s
  | .waitc c d a b => Sys2Proof.Machine.execWaitc c d a b s
  | .waitcEnd c => Sys2Proof.Machine.execWaitcEnd c s
  | .waitm c d a b => Sys2Proof.Machine.execWaitm c d a b s
  | .waitmEnd c => Sys2Proof.Machine.execWaitmEnd c s
  | .retx c d a b => Sys2Proof.Machine.execRetx c d a b s
  | .breakpoint c d a b => Sys2Proof.Machine.execBreakpoint c d a b s
  | .halt c d a b => Sys2Proof.Machine.execHalt c d a b s
  | .csrRead c d a off => Sys2Proof.Machine.execCsrRead c d a off s
  | .csrWrite c d a off => Sys2Proof.Machine.execCsrWrite c d a off s
  | .csrSet c d a off => Sys2Proof.Machine.execCsrSet c d a off s
  | .csrClear c d a off => Sys2Proof.Machine.execCsrClear c d a off s
  | .fsc c f => Sys2Proof.Machine.execFsc c f s
  | .vld c f => Sys2Proof.Machine.execVld c f s
  | .vst c f => Sys2Proof.Machine.execVst c f s
  | .vfp c f => Sys2Proof.Machine.execVfp c f s
  | .vfma c f => Sys2Proof.Machine.execVfma c f s
  | .vfms c f => Sys2Proof.Machine.execVfms c f s
  | .vfnma c f => Sys2Proof.Machine.execVfnma c f s
  | .vint c f => Sys2Proof.Machine.execVint c f s
  | .vred c f => Sys2Proof.Machine.execVred c f s
  | .vcvt c f => Sys2Proof.Machine.execVcvt c f s
  | .vcvtb c f => Sys2Proof.Machine.execVcvtb c f s
  | .vcvtw c f => Sys2Proof.Machine.execVcvtw c f s
  | .vcvtsb c f => Sys2Proof.Machine.execVcvtsb c f s
  | .vrand c f => Sys2Proof.Machine.execVrand c f s
  | .vsplat c d a b lo => Sys2Proof.Machine.execVsplat c d a b lo s
  | .vget c d a b lo => Sys2Proof.Machine.execVget c d a b lo s
  | .vput c d a b lo => Sys2Proof.Machine.execVput c d a b lo s
  | .arr c f => Sys2Proof.Machine.execArr c f s
  | .arrWaitEnd c => Sys2Proof.Machine.execArrWaitEnd c s
  | .move c f => Sys2Proof.Machine.execMove c f s
  | .moveWaitEnd c => Sys2Proof.Machine.execMoveWaitEnd c s
  | .pcomb c f => Sys2Proof.Machine.execPcomb c f s
  | .vspout c f => Sys2Proof.Machine.execVspout c f s
  | .vspoutWaitEnd c => Sys2Proof.Machine.execVspoutWaitEnd c s
  | .hazardHoldEnd c cycles => Sys2Proof.Machine.execHazardHoldEnd c cycles s
  | .asyncCauseTake c => Sys2Proof.Machine.execAsyncCauseTake c s
  | .laneStateWrite c k v => Sys2Proof.Machine.execLaneStateWrite c k v s
  | .heldLaneWrite r n k v => Sys2Proof.Machine.execHeldLaneWrite r n k v s
  | .queueHeadPass j n => Sys2Proof.Machine.execQueueHeadPass j n s
  | .shadowLoadStart j n => Sys2Proof.Machine.execShadowLoadStart j n s
  | .shadowLoadDone j n => Sys2Proof.Machine.execShadowLoadDone j n s
  | .bankSwap j n stall => Sys2Proof.Machine.execBankSwap j n stall s
  | .passComplete j n => Sys2Proof.Machine.execPassComplete j n s
  | .spoutDrainStart j n t => Sys2Proof.Machine.execSpoutDrainStart j n t s
  | .tileReturnIdle j n t => Sys2Proof.Machine.execTileReturnIdle j n t s
  | .drainLastWrite j n t => Sys2Proof.Machine.execDrainLastWrite j n t s
  | .sentinelSample d => Sys2Proof.Machine.execSentinelSample d s
  | .sentinelRecomputeStart d j n => Sys2Proof.Machine.execSentinelRecomputeStart d j n s
  | .sentinelPreempt d => Sys2Proof.Machine.execSentinelPreempt d s
  | .sentinelCompare d => Sys2Proof.Machine.execSentinelCompare d s
  | .sentinelSeedWrite d v => Sys2Proof.Machine.execSentinelSeedWrite d v s
  | .sentinelDisable d => Sys2Proof.Machine.execSentinelDisable d s
  | .graphNodeStart node finished => Sys2Proof.Machine.execGraphNodeStart node finished s
  | .moverDescriptorStart j hostData => Sys2Proof.Machine.execMoverDescriptorStart j hostData s
  | .moverDescriptorComplete j tag => Sys2Proof.Machine.execMoverDescriptorComplete j tag s
  | .scrubRead u addr e1 e2 => Sys2Proof.Machine.execScrubRead u addr e1 e2 s
  | .scrubPassEnd u => Sys2Proof.Machine.execScrubPassEnd u s
  | .unitCommandTimeout u => Sys2Proof.Machine.execUnitCommandTimeout u s
  | .mapOutStart g => Sys2Proof.Machine.execMapOutStart g s
  | .relocationGranuleDone g slot group => Sys2Proof.Machine.execRelocationGranuleDone g slot group s
  | .rowRepair u addr => Sys2Proof.Machine.execRowRepair u addr s
  | .stackTempReport st temp => Sys2Proof.Machine.execStackTempReport st temp s
  | .memoryRetrain u ok => Sys2Proof.Machine.execMemoryRetrain u ok s
  | .recordStage r n b => Sys2Proof.Machine.execRecordStage r n b s
  | .recordWriteback r n => Sys2Proof.Machine.execRecordWriteback r n s
  | .updatePassComplete => Sys2Proof.Machine.execUpdatePassComplete s
  | .reserveEntryReceive e => Sys2Proof.Machine.execReserveEntryReceive e s
  | .reserveAckReceive src step records => Sys2Proof.Machine.execReserveAckReceive src step records s
  | .reserveTimeout silent => Sys2Proof.Machine.execReserveTimeout silent s
  | .heldDigestReceive src step digest => Sys2Proof.Machine.execHeldDigestReceive src step digest s
  | .voteResult key winner => Sys2Proof.Machine.execVoteResult key winner s
  | .stepAbort src => Sys2Proof.Machine.execStepAbort src s
  | .securePauseStart => Sys2Proof.Machine.execSecurePauseStart s
  | .parityPieceReceive member offset data digest last => Sys2Proof.Machine.execParityPieceReceive member offset data digest last s
  | .holderCompleteReceive member => Sys2Proof.Machine.execHolderCompleteReceive member s
  | .secureStage2Enter => Sys2Proof.Machine.execSecureStage2Enter s
  | .securePauseEnd takenUs => Sys2Proof.Machine.execSecurePauseEnd takenUs s
  | .spareJoin n => Sys2Proof.Machine.execSpareJoin n s
  | .fillStreamReceive f => Sys2Proof.Machine.execFillStreamReceive f s
  | .fillVerify ownDigest heldDigest securedDigest => Sys2Proof.Machine.execFillVerify ownDigest heldDigest securedDigest s
  | .frameReceive p hdr body fecOk fecCorr fecUncorr => Sys2Proof.Machine.execFrameReceive p hdr body fecOk fecCorr fecUncorr s
  | .retryTimeout p => Sys2Proof.Machine.execRetryTimeout p s
  | .heartbeatTimeout p => Sys2Proof.Machine.execHeartbeatTimeout p s
  | .laneLockLoss p lane => Sys2Proof.Machine.execLaneLockLoss p lane s
  | .lockLossTimeout p => Sys2Proof.Machine.execLockLossTimeout p s
  | .trainingAttempt p => Sys2Proof.Machine.execTrainingAttempt p s
  | .trainingDone p rep => Sys2Proof.Machine.execTrainingDone p rep s
  | .packetSendStart p => Sys2Proof.Machine.execPacketSendStart p s
  | .packetReceive p => Sys2Proof.Machine.execPacketReceive p s
  | .write pkt => Sys2Proof.Machine.execWrite pkt s
  | .echo dest cls => Sys2Proof.Machine.execEcho dest cls s
  | .ringNotice p dim coord span clear => Sys2Proof.Machine.execRingNotice p dim coord span clear s
  | .flowRateIncrease dest cls => Sys2Proof.Machine.execFlowRateIncrease dest cls s
  | .rippleSample => Sys2Proof.Machine.execRippleSample s
  | .rippleRecordClose => Sys2Proof.Machine.execRippleRecordClose s
  | .rippleMapRequest src first count => Sys2Proof.Machine.execRippleMapRequest src first count s
  | .bypassOpen dim => Sys2Proof.Machine.execBypassOpen dim s
  | .routeStage n entries => Sys2Proof.Machine.execRouteStage n entries s
  | .routeCommitFlip n => Sys2Proof.Machine.execRouteCommitFlip n s
  | .routeCommitRelease n => Sys2Proof.Machine.execRouteCommitRelease n s
  | .collectiveOpen coll occ op fmt chunks own => Sys2Proof.Machine.execCollectiveOpen coll occ op fmt chunks own s
  | .chunkReceive src id data lost => Sys2Proof.Machine.execChunkReceive src id data lost s
  | .nodeEvaluate coll occ c a m => Sys2Proof.Machine.execNodeEvaluate coll occ c a m s
  | .resultReceive src id data lost => Sys2Proof.Machine.execResultReceive src id data lost s
  | .chunkAckTimer src id => Sys2Proof.Machine.execChunkAckTimer src id s
  | .chunkAckReceive src id bitmap => Sys2Proof.Machine.execChunkAckReceive src id bitmap s
  | .chunkRetransmit dest id readable => Sys2Proof.Machine.execChunkRetransmit dest id readable s
  | .collectiveComplete coll occ => Sys2Proof.Machine.execCollectiveComplete coll occ s
  | .ready rank carried => Sys2Proof.Machine.execReady rank carried s
  | .exchangeWindowClose => Sys2Proof.Machine.execExchangeWindowClose s
  | .start absent carried => Sys2Proof.Machine.execStart absent carried s
  | .liveSend => Sys2Proof.Machine.execLiveSend s
  | .live rank epoch => Sys2Proof.Machine.execLive rank epoch s
  | .liveTimeout rank => Sys2Proof.Machine.execLiveTimeout rank s
  | .suspect src epoch suspects => Sys2Proof.Machine.execSuspect src epoch suspects s
  | .suspectWaitTimeout => Sys2Proof.Machine.execSuspectWaitTimeout s
  | .propose src epoch suspects => Sys2Proof.Machine.execPropose src epoch suspects s
  | .accept src epoch suspects complete => Sys2Proof.Machine.execAccept src epoch suspects complete s
  | .roundTimeout => Sys2Proof.Machine.execRoundTimeout s
  | .commit table complete => Sys2Proof.Machine.execCommit table complete s
  | .abandon src epoch => Sys2Proof.Machine.execAbandon src epoch s
  | .fenceTimeout => Sys2Proof.Machine.execFenceTimeout s
  | .join rank addr => Sys2Proof.Machine.execJoin rank addr s
  | .jobCommandForward src cmd => Sys2Proof.Machine.execJobCommandForward src cmd s
  | .jobCommandApply cmd step => Sys2Proof.Machine.execJobCommandApply cmd step s
  | .cxlLinkUp rate width flit256 => Sys2Proof.Machine.execCxlLinkUp rate width flit256 s
  | .cxlLinkDown => Sys2Proof.Machine.execCxlLinkDown s
  | .hotReset => Sys2Proof.Machine.execHotReset s
  | .flr => Sys2Proof.Machine.execFlr s
  | .hdmDecoderCommit size ways skip => Sys2Proof.Machine.execHdmDecoderCommit size ways skip s
  | .cxlMemRead line => Sys2Proof.Machine.execCxlMemRead line s
  | .cxlMemWrite line data enables => Sys2Proof.Machine.execCxlMemWrite line data enables s
  | .bisnpResponse line => Sys2Proof.Machine.execBisnpResponse line s
  | .hostSnoop addr => Sys2Proof.Machine.execHostSnoop addr s
  | .cxlCacheTimeout j tag => Sys2Proof.Machine.execCxlCacheTimeout j tag s
  | .linkHoldExpiry j tag => Sys2Proof.Machine.execLinkHoldExpiry j tag s
  | .doeTableAccess discovery => Sys2Proof.Machine.execDoeTableAccess discovery s
  | .msixVectorUnmask v => Sys2Proof.Machine.execMsixVectorUnmask v s
  | .telemetryRewrite => Sys2Proof.Machine.execTelemetryRewrite s
  | .mailboxGo n => Sys2Proof.Machine.execMailboxGo n s
  | .mailboxAbort n => Sys2Proof.Machine.execMailboxAbort n s
  | .serverTake n => Sys2Proof.Machine.execServerTake n s
  | .serviceTimeout n => Sys2Proof.Machine.execServiceTimeout n s
  | .progressUpdate n permille => Sys2Proof.Machine.execProgressUpdate n permille s
  | .identify n => Sys2Proof.Machine.execIdentify n s
  | .getCaps n => Sys2Proof.Machine.execGetCaps n s
  | .getEventLog n => Sys2Proof.Machine.execGetEventLog n s
  | .stepStatus n => Sys2Proof.Machine.execStepStatus n s
  | .setHostWindow n => Sys2Proof.Machine.execSetHostWindow n s
  | .loadProgram n img => Sys2Proof.Machine.execLoadProgram n img s
  | .verifyProgram n img => Sys2Proof.Machine.execVerifyProgram n img s
  | .run n cp others => Sys2Proof.Machine.execRun n cp others s
  | .haltCommand n => Sys2Proof.Machine.execHaltCommand n s
  | .setPolicy n => Sys2Proof.Machine.execSetPolicy n s
  | .secureNow n => Sys2Proof.Machine.execSecureNow n s
  | .membershipSet n table othersIdle => Sys2Proof.Machine.execMembershipSet n table othersIdle s
  | .getRippleMap n => Sys2Proof.Machine.execGetRippleMap n s
  | .setPowerLimits n => Sys2Proof.Machine.execSetPowerLimits n s
  | .getThrottleLog n => Sys2Proof.Machine.execGetThrottleLog n s
  | .getAgeing n => Sys2Proof.Machine.execGetAgeing n s
  | .replanMargins n => Sys2Proof.Machine.execReplanMargins n s
  | .setTimeAnchor n => Sys2Proof.Machine.execSetTimeAnchor n s
  | .setPowerState n => Sys2Proof.Machine.execSetPowerState n s
  | .powerStateChangeDone => Sys2Proof.Machine.execPowerStateChangeDone s
  | .warmReset n => Sys2Proof.Machine.execWarmReset n s
  | .warmResetBegin trigger => Sys2Proof.Machine.execWarmResetBegin trigger s
  | .fwUpdateBegin n => Sys2Proof.Machine.execFwUpdateBegin n s
  | .fwUpdateChunk n => Sys2Proof.Machine.execFwUpdateChunk n s
  | .fwUpdateCommit n cut => Sys2Proof.Machine.execFwUpdateCommit n cut s
  | .getEvidence n => Sys2Proof.Machine.execGetEvidence n s
  | .flashLogCopy => Sys2Proof.Machine.execFlashLogCopy s
  | .eventsDropped => Sys2Proof.Machine.execEventsDropped s
  | .dividerSwitch d => Sys2Proof.Machine.execDividerSwitch d s
  | .railRampDone d => Sys2Proof.Machine.execRailRampDone d s
  | .stretchBegin d => Sys2Proof.Machine.execStretchBegin d s
  | .stretchRelease d edges => Sys2Proof.Machine.execStretchRelease d edges s
  | .sagWarn inp mv => Sys2Proof.Machine.execSagWarn inp mv s
  | .sagClear inp us => Sys2Proof.Machine.execSagClear inp us s
  | .sagReset inp => Sys2Proof.Machine.execSagReset inp s
  | .peakControllerStep => Sys2Proof.Machine.execPeakControllerStep s
  | .sustainedControllerStep => Sys2Proof.Machine.execSustainedControllerStep s
  | .capFloor => Sys2Proof.Machine.execCapFloor s
  | .dieTempSample die temp => Sys2Proof.Machine.execDieTempSample die temp s
  | .thermalCeilingLower d => Sys2Proof.Machine.execThermalCeilingLower d s
  | .thermalCeilingRaise d => Sys2Proof.Machine.execThermalCeilingRaise d s
  | .thermalTrip x temp => Sys2Proof.Machine.execThermalTrip x temp s
  | .sensorSample x v => Sys2Proof.Machine.execSensorSample x v s
  | .sensorFail x => Sys2Proof.Machine.execSensorFail x s
  | .flowOkChange level => Sys2Proof.Machine.execFlowOkChange level s
  | .flowLossTimeout => Sys2Proof.Machine.execFlowLossTimeout s
  | .leakAssert => Sys2Proof.Machine.execLeakAssert s
  | .inletOvertempTimeout => Sys2Proof.Machine.execInletOvertempTimeout s
  | .pllUnlock => Sys2Proof.Machine.execPllUnlock s
  | .refclkLoss => Sys2Proof.Machine.execRefclkLoss s
  | .replanDue => Sys2Proof.Machine.execReplanDue s
  | .replanDomain d vmins => Sys2Proof.Machine.execReplanDomain d vmins s
  | .replanDeferred => Sys2Proof.Machine.execReplanDeferred s
  | .auxPor => Sys2Proof.Machine.execAuxPor s
  | .mainPor trigger => Sys2Proof.Machine.execMainPor trigger s
  | .perstAssert => Sys2Proof.Machine.execPerstAssert s
  | .perstRelease => Sys2Proof.Machine.execPerstRelease s
  | .pwrEnDeassert => Sys2Proof.Machine.execPwrEnDeassert s
  | .pwrEnAssert => Sys2Proof.Machine.execPwrEnAssert s
  | .mainPowerEnable => Sys2Proof.Machine.execMainPowerEnable s
  | .startupStepAdvance rep => Sys2Proof.Machine.execStartupStepAdvance rep s
  | .keeperBoot => Sys2Proof.Machine.execKeeperBoot s
  | .startupStepTimeout ms => Sys2Proof.Machine.execStartupStepTimeout ms s
  | .slotIdChanged v => Sys2Proof.Machine.execSlotIdChanged v s
  | .setdasa addr => Sys2Proof.Machine.execSetdasa addr s
  | .entdaa addr => Sys2Proof.Machine.execEntdaa addr s
  | .mctpPacketReceive src som eom seq tag data => Sys2Proof.Machine.execMctpPacketReceive src som eom seq tag data s
  | .mctpReassemblyTimeout src => Sys2Proof.Machine.execMctpReassemblyTimeout src s
  | .setEndpointId eid => Sys2Proof.Machine.execSetEndpointId eid s
  | .getEndpointId => Sys2Proof.Machine.execGetEndpointId s
  | .getMctpVersionSupport => Sys2Proof.Machine.execGetMctpVersionSupport s
  | .getMessageTypeSupport => Sys2Proof.Machine.execGetMessageTypeSupport s
  | .gettid => Sys2Proof.Machine.execGettid s
  | .getpldmversion => Sys2Proof.Machine.execGetpldmversion s
  | .getpldmtypes => Sys2Proof.Machine.execGetpldmtypes s
  | .getpldmcommands => Sys2Proof.Machine.execGetpldmcommands s
  | .getsensorreading id => Sys2Proof.Machine.execGetsensorreading id s
  | .getpdrrepositoryinfo => Sys2Proof.Machine.execGetpdrrepositoryinfo s
  | .getpdr handle => Sys2Proof.Machine.execGetpdr handle s
  | .fwAliveToggle => Sys2Proof.Machine.execFwAliveToggle s
  | .controlCoreFault => Sys2Proof.Machine.execControlCoreFault s
  | .refclkReturn => Sys2Proof.Machine.execRefclkReturn s
  | .laneLockRegain p lane => Sys2Proof.Machine.execLaneLockRegain p lane s
  | .leakRelease => Sys2Proof.Machine.execLeakRelease s
  | .bypassSwitchClosed dim => Sys2Proof.Machine.execBypassSwitchClosed dim s
  | .warmResetHoldEnd => Sys2Proof.Machine.execWarmResetHoldEnd s
  | .rcFieldRead blk off arriving => Sys2Proof.Machine.execRcFieldRead blk off arriving s
  | .runWaitExpiry n => Sys2Proof.Machine.execRunWaitExpiry n s
  | .frameTransmit p => Sys2Proof.Machine.execFrameTransmit p s

end Sys2Proof.Machine
end

