-- ==== Sys2Proof/Safety.lean ====
section
/-! DEFINITION. What claims about runs are said in: canonical memory, fuses and the part kept, a core that executes, and what a
vector instruction leaves. -/

namespace Sys2Proof.Machine

/-! ## Invariants -/

/-- Every memory of the module is in canonical form: the tiers, each jet store and update store, and the update session's image. -/
def State.memOk (s : State) : Bool :=
  Mem.wf s.tiers && (s.jets.toList.all fun x => Mem.wf x.core.store) &&
    (s.runnels.toList.all fun x => x.cores.toList.all fun k => Mem.wf k.store) && Mem.wf s.fw.image &&
    (s.fw.slotA.all fun x => Mem.wf x.content) && s.fw.slotB.all fun x => Mem.wf x.content

/-- What no command may undo (R3, R568, R575): the part as made, the arrays it ships with, the identity engine's fuses, the key hashes,
the revocation fuses and the anti-rollback count. -/
def State.fusesKept (s t : State) : Prop :=
  t.part = s.part ∧ (∀ j, (t.jet j).fused = (s.jet j).fused) ∧ t.fw.skSeed = s.fw.skSeed ∧ t.fw.skPrf = s.fw.skPrf ∧
    t.fw.pkSeed = s.fw.pkSeed ∧ t.fw.keys = s.fw.keys ∧ s.fw.revoked &&& ~~~t.fw.revoked = 0 ∧ s.fw.rollback ≤ t.fw.rollback

/-! ## Rill cores -/

/-- Core `c` executes the instruction a command names: it runs, and the fetch at its pc raises nothing (R163, R169). -/
def State.ready (s : State) (c : CoreId) (vector : Bool) : Prop :=
  s.runs c vector = true ∧ fetchExc c (s.core c) = none

/-- `s` after an instruction of core `c` that writes `v` to scalar register `d` and goes on. -/
def State.wrote (s : State) (c : CoreId) (d : BitVec 5) (v : W64) : State :=
  s.putCore c ((s.core c).ws d v).advance

/-- The instructions of core `c` whose accesses R172 may hold. -/
def accessOf (c : CoreId) (i : Instr) : Bool :=
  match i with
  | .ld c' _ | .st c' _ | .vld c' _ | .vst c' _ | .arr c' _ | .move c' _ | .pcomb c' _ | .vspout c' _ => c' = c
  | _ => false

/-- The draw that element `i` of an instruction takes that starts at element `start`: lane i mod 64 gives its draws to its elements
in ascending order (R186, R196). -/
def Core.drawAt (k : Core) (start i : Nat) : W64 :=
  let lane := (if k.heldBank then k.heldLanes else k.lanes).get 1 (i % 64)
  (drawFrom (Nat.repeat (fun x => (drawFrom x).2) ((i - start) / 64) lane)).1

/-- Command `i` runs a vector instruction of core `c` to its end: the `nd` registers from `d` hold `val` in elements `start` to
`count - 1` of width `w`, the elements below as they were and those above zero; every other vector register, the scalar registers and
the store are as they were. -/
def State.vectorDone (s : State) (c : CoreId) (i : Instr) (d : BitVec 5) (nd w start count : Nat) (val : Nat → Nat) : Prop :=
  let k := s.core c
  ∃ k' : Core, exec i s = .next (s.putCore c k'.vdone) ∧
    k' = { k with v := k'.v, flags := k'.flags, fmt := k'.fmt, lanes := k'.lanes, heldLanes := k'.heldLanes } ∧
    (∀ r : BitVec 5, r.toNat < d.toNat ∨ d.toNat + nd ≤ r.toNat → k'.rv r = k.rv r) ∧
    ∀ j < nd * (4096 / w), elemOf w (groupVal k' d nd) j =
      if j < start then elemOf w (groupVal k d nd) j else if j < count then val j % 2 ^ w else 0

/-! ## Mailboxes -/

/-- The server of mailbox `n` is at work on a command with an opcode, and the checks of R476 pass. -/
def State.serving (s : State) (n : Fin 8) (op : Nat) : Prop :=
  s.inHand n op = true ∧ s.cmdCheck (s.boxes.get n) = none

end Sys2Proof.Machine
end

