-- ==== Sys2Proof/Certificates/Slice0/Obligations.lean ====
section
/-! DEFINITION. Statements for the provers: what the spec's rules say the commands do, and what every step keeps. -/

open Sys2Proof Sys2Proof.Machine

/-! ### Rill cores -/

/-- R156: a write of scalar register D or vector register D is read back and leaves every other register; a write of s0 is ignored,
and s0 reads as zero. VECTOR_BITS, entry 0x0006 of the capability table, is 4,096, the width of a vector register. -/
def Obligations.RegistersKeepWhatIsWritten : Prop :=
  ∀ (k : Core) (d r : BitVec 5) (v : W64) (x : BitVec 4096) (s : State),
    k.rs 0 = 0 ∧ k.ws 0 v = k ∧ (d ≠ 0 → (k.ws d v).rs d = v) ∧ (r ≠ d → (k.ws d v).rs r = k.rs r) ∧
      k.ws d v = { k with s := (k.ws d v).s } ∧ (k.wv d x).rv d = x ∧ (r ≠ d → (k.wv d x).rv r = k.rv r) ∧
      k.wv d x = { k with v := (k.wv d x).v } ∧ s.capValues 0x0006 = some [4096]

/-- R163: ADDI, ANDI, ORI, XORI, SHI and LUI complete with the value the table gives, and change D and pc only; the words R163
does not list are ILLEGAL. -/
def Claims.ImmediateInstructionsWriteTheirResult : Prop :=
  ∀ (c : CoreId) (f : RFields) (s : State), s.ready c false →
    let k := s.core c
    let a := k.rs f.a
    let imm : BitVec 16 := f.b ++ f.lo
    exec (.addi c f) s = .next (s.wrote c f.d (a + imm.signExtend 64)) ∧
    exec (.andi c f) s = .next (s.wrote c f.d (a &&& imm.setWidth 64)) ∧
    exec (.ori c f) s = .next (s.wrote c f.d (a ||| imm.setWidth 64)) ∧
    exec (.xori c f) s = .next (s.wrote c f.d (a ^^^ imm.setWidth 64)) ∧
    (f.a = 0 → exec (.lui c f) s = .next (s.wrote c f.d ((imm ++ (0 : W16)).signExtend 64))) ∧
    (f.a ≠ 0 → exec (.lui c f) s = .next (s.raiseExc c (illegal (rillWord 0x07 f) 1))) ∧
    (imm.extractLsb' 6 8 = 0 →
      let n := (imm.extractLsb' 0 6).toNat
      (imm.extractLsb' 14 2 = 0 → exec (.shi c f) s = .next (s.wrote c f.d (a <<< n))) ∧
      (imm.extractLsb' 14 2 = 1 → exec (.shi c f) s = .next (s.wrote c f.d (a >>> n))) ∧
      (imm.extractLsb' 14 2 = 2 → exec (.shi c f) s = .next (s.wrote c f.d (a.sshiftRight n)))) ∧
    (imm.extractLsb' 6 8 ≠ 0 ∨ imm.extractLsb' 14 2 = 3 →
      exec (.shi c f) s = .next (s.raiseExc c (illegal (rillWord 0x06 f) 1)))

/-- R163: ALU completes for every FUNC of the table, and is ILLEGAL for every other. -/
def Claims.AluWritesItsResult : Prop :=
  ∀ (c : CoreId) (f : RFields) (s : State), s.ready c false →
    let k := s.core c
    let a := k.rs f.a
    let b := k.rs f.b
    let n := (b.extractLsb' 0 6).toNat
    let rows : List W64 := [a + b, a - b, a &&& b, a ||| b, a ^^^ b, a <<< n, a >>> n, a.sshiftRight n, a * b,
      ((a.setWidth 128 * b.setWidth 128).extractLsb' 64 64), if a.toInt < b.toInt then 1 else 0,
      if a.toNat < b.toNat then 1 else 0]
    (∀ v, rows[f.lo.toNat]? = some v → exec (.alu c f) s = .next (s.wrote c f.d v)) ∧
    (12 ≤ f.lo.toNat → exec (.alu c f) s = .next (s.raiseExc c (illegal (rillWord 0x01 f) 1)))

/-- R163: BR, JAL and JALR: the condition chooses the target, the link register receives pc + 4, and a JALR target that is not a
multiple of 4 raises ACCESS with D unchanged. -/
def Claims.BranchesAndJumpsSetPc : Prop :=
  ∀ (c : CoreId) (f : RFields) (s : State), s.ready c false →
    let k := s.core c
    let x := k.rs f.d
    let y := k.rs f.a
    let imm : BitVec 16 := f.b ++ f.lo
    let far : BitVec 21 := f.a ++ imm
    let target := y + imm.signExtend 64
    let goes : List Bool := [x == y, x != y, decide (x.toInt < y.toInt), decide (y.toInt ≤ x.toInt), decide (x.toNat < y.toNat),
      decide (y.toNat ≤ x.toNat)]
    (∀ b, goes[(imm.extractLsb' 13 3).toNat]? = some b → exec (.br c f) s = .next (s.putCore c
      (if b then k.jump (k.pc + 4 * (imm.extractLsb' 0 13).signExtend 64) else k.advance))) ∧
    (6 ≤ (imm.extractLsb' 13 3).toNat → exec (.br c f) s = .next (s.raiseExc c (illegal (rillWord 0x0A f) 1))) ∧
    exec (.jal c f) s = .next (s.putCore c ((k.ws f.d (k.pc + 4)).jump (k.pc + 4 * far.signExtend 64))) ∧
    (target.toNat % 4 = 0 → exec (.jalr c f) s = .next (s.putCore c ((k.ws f.d (k.pc + 4)).jump target))) ∧
    (target.toNat % 4 ≠ 0 → exec (.jalr c f) s = .next (s.raiseExc c { code := 2, val := target }))

/-- R195, R197: outside handler mode an exception saves the address of the instruction, its index, cause and value, sets
IN_HANDLER and goes on at JT_VX_TVEC; it changes nothing else. BREAK raises code 0x0B. -/
def Claims.ExceptionEntrySetsCauseRegisters : Prop :=
  ∀ (c : CoreId) (s : State) (e : Exc), (s.core c).inHandler = false → e.code < 256 → e.detail < 256 →
    let k := s.core c
    let k' := (s.raiseExc c e).core c
    s.raiseExc c e = s.putCore c k' ∧
    k' = { k with vxpc := k.pc, index := BitVec.ofNat 32 e.index, cause := k'.cause, val := e.val, pc := k.tvec, resume := 0,
                  resumed := false, held := none } ∧
    k'.inHandler = true ∧ k'.cause.extractLsb' 0 8 = BitVec.ofNat 8 e.code ∧
    k'.cause.extractLsb' 8 8 = BitVec.ofNat 8 e.detail ∧ k'.cause.extractLsb' 16 5 = e.eflags ∧
    (s.ready c false → ∀ a, exec (.breakpoint c 0 a 0) s = .next (s.raiseExc c { code := 0x0B }))

/-- R197: while no step is in progress, an exception raised in handler mode sets the cause registers, keeps IN_HANDLER and halts the
jet's core, which reports JET_FAULT; nothing else changes. -/
def Claims.ExceptionInHandlerHalts : Prop :=
  ∀ (j : Fin 160) (s : State) (e : Exc), (s.core (.jet j)).inHandler = true → s.inStep = false →
    let k := s.core (.jet j)
    let k' := { k.enterExc e k.pc with halted := true }
    s.raiseExc (.jet j) e =
      (s.putCore (.jet j) k').event 0x0021 3 srcBasin [j.val / 40, j.val, k'.cause.toNat, (k.pc &&& ~~~3).toNat] ∧
    k'.inHandler = true

/-- ALU and immediate instructions complete with the table's value in D, and are ILLEGAL otherwise. -/
def Obligations.ScalarArithmeticWritesItsResult : Prop :=
  Claims.ImmediateInstructionsWriteTheirResult ∧ Claims.AluWritesItsResult

/-- R163, R171, R172, R196, R197, R296: the SYS instructions with zero fields complete: FENCE goes on; WAITC and WAITM go on when
nothing they name is outstanding, and wait otherwise; RETX leaves handler mode and goes back to
JT_VX_PC at JT_VX_INDEX; HALT ends the kernel. With D or B not zero each is ILLEGAL. -/
def Claims.SystemInstructionsComplete : Prop :=
  ∀ (c : CoreId) (a : BitVec 5) (s : State), s.ready c false →
    let k := s.core c
    exec (.fence c 0 a 0) s = .next (s.putCore c k.advance) ∧
    (s.chainBusy c (k.rs a).toNat = false → exec (.waitc c 0 a 0) s = .next (s.putCore c k.advance)) ∧
    (s.chainBusy c (k.rs a).toNat = true → exec (.waitc c 0 a 0) s = .next (s.putCore c
      { k with held := some (.chain (k.rs a).toNat, .waitc c 0 a 0) })) ∧
    (s.tagBusy c (k.rs a).toNat = false → exec (.waitm c 0 a 0) s = .next (s.putCore c k.advance)) ∧
    (s.tagBusy c (k.rs a).toNat = true → exec (.waitm c 0 a 0) s = .next (s.putCore c
      { k with held := some (.tag (k.rs a).toNat, .waitm c 0 a 0) })) ∧
    (k.inHandler = true → ∃ k' : Core, exec (.retx c 0 a 0) s = .next (s.putCore c k') ∧ k'.inHandler = false ∧
      k' = { k with cause := k'.cause, pc := k.vxpc &&& ~~~3, resume := (k.index.extractLsb' 0 13).toNat, resumed := true } ∧
      k'.cause.extractLsb' 0 31 = k.cause.extractLsb' 0 31) ∧
    (k.inHandler = false → exec (.retx c 0 a 0) s = .next (s.raiseExc c (illegal (rillWord 0x0D ⟨0, a, 0, 3⟩) 7))) ∧
    (k.inHandler = false → ∀ j, c = .jet j →
      exec (.halt c 0 a 0) s = .next (s.putCore c { k.advance with halted := true })) ∧
    (k.inHandler = false → ∀ r n, c = .upd r n → ∃ t, exec (.halt c 0 a 0) s = .next t ∧
      t = { s with runnels := t.runnels } ∧ t.core c = { k.advance with halted := true } ∧
      ((t.runnels.get r).staged.get ⟨false, false, 0, 0, 0, false⟩ n.val).halted = true) ∧
    (∀ d b, d ≠ 0 ∨ b ≠ 0 → ∀ p ∈ [(0, Instr.fence c d a b), (1, .waitc c d a b), (2, .waitm c d a b), (3, .retx c d a b),
        (4, .breakpoint c d a b), (5, .halt c d a b)],
      exec p.2 s = .next (s.raiseExc c (illegal (rillWord 0x0D ⟨d, a, b, BitVec.ofNat 11 p.1⟩) 1)))

/-- R172, R195: the ends of waits: a core that waits in WAITC or WAITM goes on when nothing it names is outstanding; a pending
ARRAY_FAULT, the lowest array first, and then a MOVER_FAULT, is taken outside handler mode. -/
def Claims.WaitsEndAndPendingFaultsAreTaken : Prop :=
  ∀ (c : CoreId) (s : State),
    let k := s.core c
    (∀ ch i, k.held = some (.chain ch, i) → s.chainBusy c ch = false →
      exec (.waitcEnd c) s = .next (s.putCore c { k.advance with held := none })) ∧
    (∀ tg i, k.held = some (.tag tg, i) → s.tagBusy c tg = false →
      exec (.waitmEnd c) s = .next (s.putCore c { k.advance with held := none })) ∧
    (s.runs c false = true → k.inHandler = false → k.resumed = false →
      (∀ n ch l, k.pendArray = (n, ch) :: l → (∀ p ∈ l, n ≤ p.1) → n < 8 → exec (.asyncCauseTake c) s = .next
        ((s.putCore c { k with pendArray := l }).raiseExc c
          { code := 9, val := BitVec.ofNat 64 (n * 2 ^ 48 + ch) })) ∧
      (∀ tg l, k.pendArray = [] → k.pendMover = tg :: l → exec (.asyncCauseTake c) s = .next
        ((s.putCore c { k with pendMover := l }).raiseExc c { code := 0x0A, val := BitVec.ofNat 64 tg })))

/-- R164, R169, R251: an LD whose bytes can be read writes D with them, least significant byte first, sign-extended for WIDTH 0
to 3 and zero-extended above; a byte of a store in canonical form reads afterwards as it did before. -/
def Claims.LoadReadsItsBytes : Prop :=
  ∀ (c : CoreId) (f : RFields) (s : State), s.ready c false → (s.core c).resume = 0 → Mem.wf (s.core c).store = true →
    let k := s.core c
    let w := fld f 15 13
    let n := 2 ^ (w % 4)
    let a := ldAddr k f
    w ≠ 7 → (∀ i < n, mayAccess c k false ((a + i) % 2 ^ 64) = true) → s.hazard c false a n = false →
    ∀ bs : List Byte, bs.length = n → (∀ i < n, byteAt k.store (a + i) = some (bs.getD i 0)) →
      ∃ m, exec (.ld c f) s = .next (s.putCore c (({ k with store := m } : Core).ws f.d
        (if w < 4 then BitVec.ofInt 64 ((leNat bs : Int) - (if 2 ^ (8 * n - 1) ≤ leNat bs then 2 ^ (8 * n) else 0))
          else BitVec.ofNat 64 (leNat bs))).advance) ∧
        ∀ p, byteAt m p = byteAt k.store p

/-- R164, R169, R252: an ST that may write stores the low bytes of D at its address, least significant byte first, and changes no
other byte of memory and no register but pc, in a store in canonical form; a byte of a word that cannot be merged stays unreadable. -/
def Claims.StoreWritesItsBytesOnly : Prop :=
  ∀ (c : CoreId) (f : RFields) (s : State), s.ready c false → (s.core c).resume = 0 → Mem.wf (s.core c).store = true →
    let k := s.core c
    let w := fld f 15 13
    let n := 2 ^ (w % 4)
    let a := ldAddr k f
    w ≠ 7 → (∀ i < n, mayAccess c k true ((a + i) % 2 ^ 64) = true) → s.hazard c true a n = false →
      ∃ m, exec (.st c f) s = .next (s.putCore c ({ k with store := m } : Core).advance) ∧
        (∀ p, (p < a ∨ a + n ≤ p) → byteAt m p = byteAt k.store p) ∧
        (∀ i < n, (byteAt k.store (a + i)).isSome →
          byteAt m (a + i) = some (BitVec.ofNat 8 ((k.rs f.d).toNat / 256 ^ i)))

/-- R169, R192: an LD or ST of which a byte may not be accessed raises ACCESS with that byte's address; WIDTH 7 is ILLEGAL. -/
def Claims.AccessOutsideTheStoreIsRaised : Prop :=
  ∀ (c : CoreId) (f : RFields) (s : State), s.ready c false → (s.core c).resume = 0 →
    let k := s.core c
    let w := fld f 15 13
    let a := ldAddr k f
    (w = 7 → exec (.ld c f) s = .next (s.raiseExc c (illegal (rillWord 0x08 f) 1)) ∧
      exec (.st c f) s = .next (s.raiseExc c (illegal (rillWord 0x09 f) 1))) ∧
    (w ≠ 7 → ∀ i < 2 ^ (w % 4), (∀ j < i, mayAccess c k false ((a + j) % 2 ^ 64) = true) →
      mayAccess c k false ((a + i) % 2 ^ 64) = false →
      exec (.ld c f) s = .next (s.raiseExc c { code := 2, val := BitVec.ofNat 64 ((a + i) % 2 ^ 64) })) ∧
    (w ≠ 7 → ∀ i < 2 ^ (w % 4), (∀ j < i, mayAccess c k true ((a + j) % 2 ^ 64) = true) →
      mayAccess c k true ((a + i) % 2 ^ 64) = false →
      exec (.st c f) s = .next (s.raiseExc c { code := 2, val := BitVec.ofNat 64 ((a + i) % 2 ^ 64) })) ∧
    (∀ p, c = .jet ⟨0, by decide⟩ → mayAccess c k false p = decide (p < 0x1400000))

/-- Branches and jumps set the pc; waits end, and pending faults are taken. -/
def Obligations.ControlFlowSetsPc : Prop :=
  Claims.BranchesAndJumpsSetPc ∧ Claims.WaitsEndAndPendingFaultsAreTaken

/-- SYS instructions complete, and an exception sets the cause registers and enters the handler, or halts in it. -/
def Obligations.ExceptionsSetTheCauseRegisters : Prop :=
  Claims.SystemInstructionsComplete ∧ Claims.ExceptionEntrySetsCauseRegisters ∧ Claims.ExceptionInHandlerHalts

/-- LD and ST move the bytes WIDTH selects and no others; a byte out of reach raises ACCESS. -/
def Obligations.LoadsAndStoresMoveTheirBytes : Prop :=
  Claims.LoadReadsItsBytes ∧ Claims.StoreWritesItsBytesOnly ∧ Claims.AccessOutsideTheStoreIsRaised

/-- R198 to R203, R610: a CSR read, write, set or clear gives D the register's value before the operation, and each writable field
acts by its access code; an offset that is not listed, and a change of JT_VX_TVEC outside handler mode, is ILLEGAL, DETAIL CSR. -/
def Obligations.CsrOperationsActByAccessCode : Prop :=
  ∀ (c : CoreId) (d a : BitVec 5) (off : BitVec 14) (s : State), s.ready c false →
    let k := s.core c
    let o := off.toNat
    let v := k.rs a
    let word (op : Nat) : Nat := 0x0E * 2 ^ 26 + d.toNat * 2 ^ 21 + a.toNat * 2 ^ 16 + op * 2 ^ 14 + o
    let regs : List (Nat × W64) := [(0x100, 0x02000301), (0x104, k.ctrl.setWidth 64), (0x108, k.flags.setWidth 64),
      (0x10C, k.cause.setWidth 64), (0x110, k.index.setWidth 64), (0x118, k.vxpc &&& ~~~3), (0x120, k.val), (0x128, k.tvec),
      (0x130, s.coreCycles c)]
    let ops : List (Nat × Instr × (W64 → W64)) := [(1, .csrWrite c d a off, fun _ => v), (2, .csrSet c d a off, fun x => x ||| v),
      (3, .csrClear c d a off, fun x => x &&& ~~~v)]
    (o ∉ regs.map Prod.fst → exec (.csrRead c d a off) s = .next (s.raiseExc c (illegal (word 0) 5)) ∧
      ∀ p ∈ ops, exec p.2.1 s = .next (s.raiseExc c (illegal (word p.1) 5))) ∧
    (∀ r ∈ regs, o = r.1 → exec (.csrRead c d a off) s = .next (s.wrote c d r.2)) ∧
    (∀ r ∈ regs, o = r.1 → o ∈ [0x100, 0x10C, 0x120, 0x130] → ∀ p ∈ ops, exec p.2.1 s = .next (s.wrote c d r.2)) ∧
    (o = 0x104 → ∀ p ∈ ops, ∀ x, x = (p.2.2 (k.ctrl.setWidth 64)).setWidth 32 → x &&& 7 ≤ 5 →
      exec p.2.1 s = .next (s.putCore c (({ k with ctrl := (k.ctrl &&& ~~~0x7F1F07) ||| (x &&& 0x7F1F07) } : Core).ws d
        (k.ctrl.setWidth 64)).advance)) ∧
    (o = 0x108 → exec (.csrSet c d a off) s = .next (s.wrote c d (k.flags.setWidth 64)) ∧
      ∀ p ∈ ops, p.1 ≠ 2 → exec p.2.1 s = .next (s.putCore c
        (({ k with flags := k.flags &&& ~~~(v.setWidth 32) } : Core).ws d (k.flags.setWidth 64)).advance)) ∧
    (o = 0x110 → ∀ p ∈ ops, ∀ x, x = (p.2.2 (k.index.setWidth 64)).toNat % 8192 → x ≤ 4095 →
      exec p.2.1 s = .next (s.putCore c (({ k with index := BitVec.ofNat 32 x } : Core).ws d (k.index.setWidth 64)).advance)) ∧
    (o = 0x118 → ∀ p ∈ ops, exec p.2.1 s = .next (s.putCore c
      (({ k with vxpc := p.2.2 (k.vxpc &&& ~~~3) } : Core).ws d (k.vxpc &&& ~~~3)).advance)) ∧
    (o = 0x128 → k.inHandler = true → ∀ p ∈ ops,
      exec p.2.1 s = .next (s.putCore c (({ k with tvec := p.2.2 k.tvec } : Core).ws d k.tvec).advance)) ∧
    (o = 0x128 → k.inHandler = false → ∀ p ∈ ops, exec p.2.1 s = .next (s.raiseExc c (illegal (word p.1) 5)))

/-- R609: VSPLAT, VGET and VPUT move elements; an index at or above the number of elements is ILLEGAL, DETAIL element index. -/
def Claims.VectorMovesMoveElements : Prop :=
  ∀ (c : CoreId) (d a b : BitVec 5) (lo : BitVec 6) (s : State), s.ready c true → vmovOk lo = true →
    let k := s.core c
    let w := typeWidth (bits lo 3 1)
    let i := (k.rs b).toNat
    (k.resume = 0 → ∃ x, exec (.vsplat c d a b lo) s = .next (s.putCore c (k.wv d x).vdone) ∧
      ∀ n < 4096 / w, elemOf w x.toNat n = (k.rs a).toNat % 2 ^ w) ∧
    (i < 4096 / w →
      exec (.vget c d a b lo) s = .next (s.putCore c (k.ws d
        (if 3 ≤ bits lo 3 1 then BitVec.ofInt 64 (BitVec.ofNat w (elemOf w (k.rv a).toNat i)).toInt
          else BitVec.ofNat 64 (elemOf w (k.rv a).toNat i))).vdone) ∧
      ∃ x, exec (.vput c d a b lo) s = .next (s.putCore c (k.wv d x).vdone) ∧
        ∀ n < 4096 / w, elemOf w x.toNat n = if n = i then (k.rs a).toNat % 2 ^ w else elemOf w (k.rv d).toNat n) ∧
    (4096 / w ≤ i → exec (.vget c d a b lo) s = .next (s.raiseExc c (illegal (vmovWord d a b 1 lo) 8)) ∧
      exec (.vput c d a b lo) s = .next (s.raiseExc c (illegal (vmovWord d a b 2 lo) 8)))

/-- R170, R251, R252: with the store in canonical form, a VLD whose bytes can be read puts them into the group, the base
register lowest; a VST that may write stores the group's bytes and changes no other byte of memory. -/
def Claims.VectorLoadsAndStoresMoveBytes : Prop :=
  ∀ (c : CoreId) (f : RFields) (s : State), s.ready c true → (s.core c).resume = 0 → Mem.wf (s.core c).store = true →
    let k := s.core c
    let g := groupSize (fld f 15 14)
    let a := vldAddr k f
    baseOk f.d g = true →
    ((∀ i < 512 * g, mayAccess c k false ((a + i) % 2 ^ 64) = true) → s.hazard c false a (512 * g) = false →
      (∀ i < 512 * g, (byteAt k.store (a + i)).isSome) →
      ∃ m t, exec (.vld c f) s = .next t ∧ t = s.putCore c (t.core c) ∧
        t.core c = ({ k with store := m, v := (t.core c).v } : Core).vdone ∧ (∀ p, byteAt m p = byteAt k.store p) ∧
        (∀ i < 512 * g, byteAt k.store (a + i) = some (BitVec.ofNat 8 (elemOf 8 (groupVal (t.core c) f.d g) i))) ∧
        (∀ r : BitVec 5, r.toNat < f.d.toNat ∨ f.d.toNat + g ≤ r.toNat → (t.core c).rv r = k.rv r)) ∧
    ((∀ i < 512 * g, mayAccess c k true ((a + i) % 2 ^ 64) = true) → s.hazard c true a (512 * g) = false →
      ∃ m, exec (.vst c f) s = .next (s.putCore c ({ k with store := m } : Core).vdone) ∧
        (∀ p, p < a ∨ a + 512 * g ≤ p → byteAt m p = byteAt k.store p) ∧
        (∀ i < 512 * g, (byteAt k.store (a + i)).isSome ∨ a % 32 = 0 →
          byteAt m (a + i) = some (BitVec.ofNat 8 (elemOf 8 (groupVal k f.d g) i))))

/-- R158 to R163, R165, R179, R186, R193, R196: where no element traps, VFP, VFMA, VFMS, VFNMA and VINT write every element of the
destination group, from element JT_VX_INDEX on after RETX, with its function of the source elements; the other vector registers, the
scalar registers and the store stay as they were. -/
def Claims.ElementwiseInstructionsWriteEveryElement : Prop :=
  ∀ (c : CoreId) (f : RFields) (s : State), s.ready c true →
    let k := s.core c
    let t := fld f 3 1
    let f5 := fld f 10 6
    let g := groupSize (fld f 5 4)
    let w := typeWidth t
    let n := g * (4096 / w)
    let start := min k.resume n
    let sc := fld f 0 0 == 1
    let a (i : Nat) : Nat := elemOf w (groupVal k f.a g) i
    let b (i : Nat) : Nat := if sc then (k.rs f.b).toNat % 2 ^ w else elemOf w (groupVal k f.b g) i
    let vc : BitVec 5 := BitVec.ofNat 5 f5
    let x (i : Nat) : Nat := elemOf w (groupVal k vc g) i
    let mode := Rnd.ofFrm k.frm
    let jf (i : Nat) : Rnd := if k.frm = 5 then .stoch (draw16 (k.drawAt start i)) else mode
    let two := baseOk f.d g && baseOk f.a g && inPlaceOk f.d g f.a g
    let three := two && (sc || (baseOk f.b g && inPlaceOk f.d g f.b g))
    let four := three && baseOk vc g && inPlaceOk f.d g vc g
    let mayDraw := k.frm ≠ 5 ∨ k.inHandler = false
    let fma (negP negC : Bool) (i : Nat) : Nat × IFlags :=
      if t = 2 then ((jfFma (jf i) negP negC (a i) (b i) (x i)).1, 0) else (typeFmt t).fma mode negP negC (a i) (b i) (x i)
    let fp (i : Nat) : Nat × IFlags :=
      if t = 2 then ((fpJf (jf i) f5 (a i) (b i)).1, 0) else fpBinary (typeFmt t) mode f5 (a i) (b i)
    (fpOk t f5 = true → (if isUnary f5 then two else three) = true → (t = 2 → isCmp f5 = true ∨ mayDraw) →
      (∀ i < n, (fp i).2 &&& k.te = 0) → s.vectorDone c (.vfp c f) f.d g w start n fun i => (fp i).1) ∧
    (t ≤ 2 → four = true → (t = 2 → mayDraw) →
      ((∀ i < n, (fma false false i).2 &&& k.te = 0) →
        s.vectorDone c (.vfma c f) f.d g w start n fun i => (fma false false i).1) ∧
      ((∀ i < n, (fma false true i).2 &&& k.te = 0) →
        s.vectorDone c (.vfms c f) f.d g w start n fun i => (fma false true i).1) ∧
      ((∀ i < n, (fma true false i).2 &&& k.te = 0) →
        s.vectorDone c (.vfnma c f) f.d g w start n fun i => (fma true false i).1)) ∧
    (3 ≤ t → t ≤ 6 → f5 ≤ 15 → three = true →
      s.vectorDone c (.vint c f) f.d g w start n fun i => (intFn w f5 (a i) (b i)).getD 0)

/-- VSPLAT, VGET, VPUT, VLD and VST move their elements and bytes and nothing else. -/
def Obligations.VectorMovesAndVectorMemoryComplete : Prop :=
  Claims.VectorMovesMoveElements ∧ Claims.VectorLoadsAndStoresMoveBytes

/-- R192 to R195: the first element of a VFP that raises an enabled flag stops the instruction: the elements below it are written,
that element and those above it are not, and the core takes the cause of the flag with the highest priority, with JT_VX_INDEX the
element. -/
def Claims.TrappingElementStopsTheInstruction : Prop :=
  ∀ (c : CoreId) (f : RFields) (s : State), s.ready c true → (s.core c).resume = 0 → (s.core c).inHandler = false →
    let k := s.core c
    let t := fld f 3 1
    let f5 := fld f 10 6
    let g := groupSize (fld f 5 4)
    let w := typeWidth t
    let b (i : Nat) : Nat := if fld f 0 0 = 1 then (k.rs f.b).toNat % 2 ^ w else elemOf w (groupVal k f.b g) i
    let fp (i : Nat) : Nat × IFlags := fpBinary (typeFmt t) (Rnd.ofFrm k.frm) f5 (elemOf w (groupVal k f.a g) i) (b i)
    t ≤ 1 → f5 ≤ 0x0B → baseOk f.d g = true → baseOk f.a g = true → inPlaceOk f.d g f.a g = true →
    (isUnary f5 = true ∨ fld f 0 0 = 1 ∨ (baseOk f.b g = true ∧ inPlaceOk f.d g f.b g = true)) →
    ∀ e < g * (4096 / w), (∀ i < e, (fp i).2 &&& k.te = 0) → (fp e).2 &&& k.te ≠ 0 →
      ∃ u, exec (.vfp c f) s = .next u ∧ (u.core c).inHandler = true ∧ (u.core c).index = BitVec.ofNat 32 e ∧
        (u.core c).vxpc = k.pc ∧ (u.core c).pc = k.tvec ∧ (u.core c).val = BitVec.ofNat 64 e ∧
        (u.core c).cause.extractLsb' 0 8 = BitVec.ofNat 8
          (4 + (if ((fp e).2 &&& k.te).getLsbD 0 then 0 else if ((fp e).2 &&& k.te).getLsbD 1 then 1
            else if ((fp e).2 &&& k.te).getLsbD 2 then 2 else if ((fp e).2 &&& k.te).getLsbD 3 then 3 else 4)) ∧
        ∀ i < g * (4096 / w), elemOf w (groupVal (u.core c) f.d g) i =
          if i < e then (fp i).1 % 2 ^ w else elemOf w (groupVal k f.d g) i

/-- R163, R165 to R167, R180, R186, R189: FSC, VRED and VRAND. FSC writes D as VFP writes an element; an integer VRED gives the sum
modulo 2^64, or the winner and its lowest index; VRAND writes each lane's draws in turn. -/
def Obligations.ScalarFloatReductionAndRandomComplete : Prop :=
  ∀ (c : CoreId) (f : RFields) (s : State), s.ready c true →
    let k := s.core c
    let t := fld f 3 1
    let f5 := fld f 10 6
    let g := groupSize (fld f 5 4)
    let w := typeWidth t
    let n := g * (4096 / w)
    let a := (k.rs f.a).toNat % 2 ^ w
    let b := (k.rs f.b).toNat % 2 ^ w
    let es (i : Nat) : Int := (BitVec.ofNat w (elemOf w (groupVal k f.a g) i)).toInt
    (k.resume = 0 → (fpOk t f5 = true ∨ (t ≤ 2 ∧ f5 = 0x1F)) → fld f 5 4 = 0 → fld f 0 0 = 0 →
      let d := (k.rs f.d).toNat % 2 ^ w
      let draws := t == 2 && !isCmp f5 && k.frm == 5
      let o := (k.draw k.slane).1
      let k1 := if draws then (k.draw k.slane).2 else k
      let r := if draws then .stoch (draw16 o) else Rnd.ofFrm k.frm
      let v : Nat × IFlags × Ev :=
        if t = 2 then
          (let x := if f5 = 0x1F then jfFma r false false a b d else fpJf r f5 a b
           (x.1, 0, x.2))
        else
          (let x := if f5 = 0x1F then (typeFmt t).fma r false false a b d else fpBinary (typeFmt t) r f5 a b
           (x.1, x.2, {}))
      (draws = true → k.inHandler = false) → v.2.1 &&& k.te = 0 →
      let k2 := ((k1.accrue v.2.1).count v.2.2).ws f.d (BitVec.ofNat 64 v.1)
      exec (.fsc c f) s = .next (s.putCore c (if draws && k.ctrl.getLsbD 22 then
        { k2 with ctrl := setBits k2.ctrl 21 16 ((k.slane + 1) % 64) } else k2).vdone)) ∧
    (3 ≤ t → t ≤ 6 → f.b = 0 → fld f 0 0 = 0 → baseOk f.a g = true →
      (f5 = 0 → exec (.vred c f) s = .next (s.putCore c
        (k.ws f.d (BitVec.ofInt 64 ((List.range n).map es).sum)).vdone)) ∧
      (f.d ≠ 31 → ∀ i < n,
        (f5 = 1 → (∀ j < n, es j ≤ es i) → (∀ j < i, es j < es i) → exec (.vred c f) s = .next (s.putCore c
          ((k.ws f.d (BitVec.ofInt 64 (es i))).ws (f.d + 1) (BitVec.ofNat 64 i)).vdone)) ∧
        (f5 = 2 → (∀ j < n, es i ≤ es j) → (∀ j < i, es i < es j) → exec (.vred c f) s = .next (s.putCore c
          ((k.ws f.d (BitVec.ofInt 64 (es i))).ws (f.d + 1) (BitVec.ofNat 64 i)).vdone)))) ∧
    (f.a = 0 → f.b = 0 → fld f 3 0 = 0 → baseOk f.d g = true → k.inHandler = false →
      let st (count i : Nat) := k.drawAt (min k.resume count) i
      (f5 = 0 → s.vectorDone c (.vrand c f) f.d g 64 (min k.resume (64 * g)) (64 * g) fun i => (st (64 * g) i).toNat) ∧
      (f5 = 1 → s.vectorDone c (.vrand c f) f.d g 64 (min k.resume (64 * g)) (64 * g) fun i =>
        (b64.round .even false ((st (64 * g) i).toNat / 2 ^ 11) (-53) false).1) ∧
      (f5 = 2 → s.vectorDone c (.vrand c f) f.d g 32 (min k.resume (128 * g)) (128 * g) fun i =>
        (b32.round .even false ((st (128 * g) i).toNat / 2 ^ 40) (-24) false).1))

/-- R182 to R185: the conversions write every element of their destination, and VCVTB and VCVTSB the block exponents too. -/
def Obligations.ConversionsWriteEveryElement : Prop :=
  ∀ (c : CoreId) (f : RFields) (s : State), s.ready c true →
    let k := s.core c
    let t := fld f 3 1
    let g := fld f 5 4
    let G := groupSize g
    let code := (dfmtCode (fld f 10 7)).getD 0
    let cw := destWidth code
    let stoch := fld f 6 6 == 1
    -- VCVT
    (let dt := fld f 15 13
     let rnd := fld f 10 8
     let dw := typeWidth dt
     let sw := typeWidth t
     let nd := regsOf g dw (max dw sw)
     let ns := regsOf g sw (max dw sw)
     let n := G * (4096 / max dw sw)
     let start := if f.d = f.a ∧ dw ≠ sw then 0 else min k.resume n
     let x (i : Nat) : Nat := elemOf sw (groupVal k f.a ns) i
     let src (i : Nat) : Src :=
       if 3 ≤ t then .fin (decide (toSigned sw (x i) < 0)) (toSigned sw (x i)).natAbs 0 else typeSrc t (x i)
     let draws := cvtDraws rnd dt k
     let r (i : Nat) : Rnd := if draws then .stoch (draw16 (k.drawAt start i)) else Rnd.ofFrm (if rnd = 6 then k.frm else rnd)
     dt ≤ 6 → t ≤ 6 → rnd ≤ 6 → (rnd = 5 → dt = 2) → fld f 12 11 = 0 → fld f 7 6 = 0 → fld f 0 0 = 0 →
     (draws = true → k.inHandler = false) → baseOk f.d nd = true → baseOk f.a ns = true → inPlaceOk f.d nd f.a ns = true →
     (dt ≠ 2 → ∀ i < n, (cvtElem t dt rnd 0 k (x i)).fl &&& k.te = 0) →
       s.vectorDone c (.vcvt c f) f.d nd dw start n fun i =>
         if dt = 2 then (jfRound (r i) (src i)).1 else (cvtElem t dt rnd 0 k (x i)).val) ∧
    -- VCVTB
    (let sw := typeWidth t
     let nd := regsOf g cw sw
     let n := G * (4096 / sw)
     let start := min k.resume n
     let src (i : Nat) : Src := typeSrc t (elemOf sw (groupVal k f.a G) i)
     t ≤ 2 → (dfmtCode (fld f 10 7)).isSome → fld f 0 0 = 0 → baseOk f.d nd = true → baseOk f.a G = true →
     inPlaceOk f.d nd f.a G = true →
     (∀ fi, intFmt? code = some fi → (stoch = true → k.inHandler = false) →
       s.vectorDone c (.vcvtb c f) f.d nd cw start n fun i =>
         (encodeInt fi (if stoch then .stoch (draw16 (k.drawAt start i)) else .even)
           (srcMul (src i) ((k.rs f.b).toNat % 2 ^ 32))).1) ∧
     (∀ bf, blkFmt? code = some bf → overlaps f.b.toNat 1 f.d.toNat nd = false → overlaps f.b.toNat 1 f.a.toNat G = false →
       k.inHandler = false → start = 0 →
       let blk (b : Nat) : Nat × List Nat × Ev := encodeBlock bf stoch true
         ((List.range 32).map fun p => draw16 (k.drawAt 0 (32 * b + p))) ((List.range 32).map fun p => src (32 * b + p))
       ∃ u, ∃ k' : Core, exec (.vcvtb c f) s = .next u ∧ u = s.putCore c k'.vdone ∧
         k' = { k with v := k'.v, fmt := k'.fmt, lanes := k'.lanes, heldLanes := k'.heldLanes } ∧
         (∀ i < n, elemOf cw (groupVal k' f.d nd) i = ((blk (i / 32)).2.1.getD (i % 32) 0) % 2 ^ cw) ∧
         (∀ b < 512, elemOf 8 (k'.rv f.b).toNat b = if b < n / 32 then (blk b).1 % 256 else 0))) ∧
    -- VCVTW
    (let dw := typeWidth t
     let ns := regsOf g cw dw
     let n := G * (4096 / dw)
     let start := min k.resume n
     let x (i : Nat) : Nat := elemOf cw (groupVal k f.a ns) i
     let src (i : Nat) : Src := match blkFmt? code, intFmt? code with
       | some bf, _ => blkRead bf (elemOf 8 (k.rv f.b).toNat (i / 32)) (x i)
       | none, some fi => srcMul (.fin (decide (intRead fi (x i) < 0)) (intRead fi (x i)).natAbs 0) ((k.rs f.b).toNat % 2 ^ 32)
       | none, none => .poison
     let draws := stoch && t == 2 && code == 0x10
     t ≤ 2 → (dfmtCode (fld f 10 7)).isSome → fld f 0 0 = 0 → baseOk f.d G = true → baseOk f.a ns = true →
     inPlaceOk f.d G f.a ns = true → ((blkFmt? code).isSome → inPlaceOk f.d G f.b 1 = true) →
     (draws = true → k.inHandler = false) →
       s.vectorDone c (.vcvtw c f) f.d G dw start n fun i =>
         if t = 2 then
           if (src i).isPoison then jfPoison
           else (jfRound (if draws then .stoch (draw16 (k.drawAt start i)) else .even) (src i)).1
         else (srcToIF (typeFmt t) (src i)).1) ∧
    -- VCVTSB
    (let w := typeWidth t
     let P := if t = 0 then 7 else 3
     let n := G * (4096 / w)
     t ≤ 1 → fld f 10 6 = 0 → fld f 0 0 = 0 → baseOk f.d G = true → baseOk f.a G = true → inPlaceOk f.d G f.a G = true →
     overlaps f.b.toNat 1 f.d.toNat G = false → overlaps f.b.toNat 1 f.a.toNat G = false → k.resume = 0 →
     let blk (b : Nat) : Nat × List Int × Ev :=
       encodeSb P ((List.range 32).map fun p => typeSrc t (elemOf w (groupVal k f.a G) (32 * b + p)))
     ∃ u, ∃ k' : Core, exec (.vcvtsb c f) s = .next u ∧ u = s.putCore c k'.vdone ∧
       k' = { k with v := k'.v, fmt := k'.fmt } ∧
       (∀ p < P, ∀ i < n, elemOf 8 (groupVal k' f.d G) (p * n + i) =
         sbPlane P ((blk (i / 32)).2.1.getD (i % 32) 0) p) ∧
       (∀ b < 256, elemOf 16 (k'.rv f.b).toNat b = if b < n / 32 then (blk b).1 % 65536 else 0))

/-- VFP, VFMA, VFMS, VFNMA and VINT write every element, up to the first that traps. -/
def Obligations.ElementwiseInstructionsWriteOrTrap : Prop :=
  Claims.ElementwiseInstructionsWriteEveryElement ∧ Claims.TrappingElementStopsTheInstruction

/-- R173, R174, R175: with the store in canonical form, ARR puts the pass descriptor at s_A on its array's queue, and MOVE the mover
descriptor at s_A on the mover's queue with its tag in D; an illegal pass is ILLEGAL, DETAIL array descriptor; when the queue is full the
core waits in the instruction, and goes on when there is room. -/
def Obligations.ArrAndMoveQueueTheirDescriptors : Prop :=
  ∀ (j : Fin 160) (f : RFields) (s : State), s.ready (.jet j) false → Mem.wf (s.core (.jet j)).store = true →
    let c := CoreId.jet j
    let k := s.core c
    let a := (k.rs f.a).toNat
    let ok (n : Nat) := (∀ i < n, mayAccess c k false ((a + i) % 2 ^ 64) = true) ∧ s.hazard c false a n = false
    let reads (n : Nat) (bs : List Byte) := bs.length = n ∧ ∀ i < n, byteAt k.store (a + i) = some (bs.getD i 0)
    (∀ (n : Fin 8) bs, f.d.toNat = 4 * n.val → f.b = 0 → f.lo = 0 → ok 16 → reads 16 bs →
      let p := parsePass (leNat bs)
      let legal := passLegal (s.jet j) n.val p && (s.jet j).within s.logicalArrays n.val p.quad
      (legal = false → exec (.arr c f) s = .next (s.raiseExc c (illegal (rillWord 0x20 f) 4))) ∧
      (legal = true → ((s.arr j n).queue.length < 16 → ∃ m, (∀ q, byteAt m q = byteAt k.store q) ∧
        exec (.arr c f) s = .next ((s.putCore c ({ k with store := m } : Core).advance).modArr j n
          fun x => { x with queue := x.queue ++ [p] })) ∧
       (16 ≤ (s.arr j n).queue.length →
        exec (.arr c f) s = .next (s.putCore c { k with held := some (.arrFull, .arr c f) })))) ∧
    (∀ bs, f.b = 0 → f.lo = 0 → ok 64 → reads 64 bs →
      let p := parseMover a bs
      (((s.jet j).mvQueue.length < 32 → ∃ m, (∀ q, byteAt m q = byteAt k.store q) ∧
        exec (.move c f) s = .next ((s.putCore c (({ k with store := m } : Core).ws f.d (BitVec.ofNat 64 p.tag)).advance).modJet j
          fun x => { x with mvQueue := x.mvQueue ++ [p] })) ∧
       (32 ≤ (s.jet j).mvQueue.length →
        exec (.move c f) s = .next (s.putCore c { k with held := some (.moveFull, .move c f) }))))

/-- R172, R173, R175, R177, R204: the ends of waits for room and of held accesses: the instruction issues again, free of its hold, and the
cycles of a hold are counted. -/
def Obligations.HeldInstructionsIssueAgain : Prop :=
  ∀ (j : Fin 160) (f : RFields) (s : State) (cycles : Nat),
    let c := CoreId.jet j
    let k := s.core c
    let free := s.putCore c { k with held := none }
    let count := s.putCore c { k with held := none, hazard := satAdd k.hazard cycles }
    let both (i i' : Instr) (s' : State) : Prop := ∃ t, exec i s = .next t ∧ exec i' s' = .next t
    (k.held = some (.arrFull, .arr c f) → (s.arr j ⟨f.d.toNat / 4 % 8, by omega⟩).queue.length < 16 →
      both (.arrWaitEnd c) (.arr c f) free) ∧
    (k.held = some (.moveFull, .move c f) → (s.jet j).mvQueue.length < 32 → both (.moveWaitEnd c) (.move c f) free) ∧
    (k.held = some (.vspout, .vspout c f) → (s.arr j ⟨bits f.lo 10 8 % 8, by omega⟩).vspoutFree = true →
      both (.vspoutWaitEnd c) (.vspout c f) free) ∧
    (∀ i, accessOf c i = true → k.held = some (.hazard, i) → both (.hazardHoldEnd c cycles) i count)

/-- R132, R176: with the store in canonical form, PCOMB whose bytes can be read and written stores, row by row, the node addition of the
two partials' records, and changes no other byte. -/
def Claims.PcombAddsRecordsRowByRow : Prop :=
  ∀ (j : Fin 160) (f : RFields) (s : State), s.ready (.jet j) true → (s.core (.jet j)).resume = 0 →
    Mem.wf (s.core (.jet j)).store = true →
    let c := CoreId.jet j
    let k := s.core c
    let mf := bits f.lo 10 9
    let mode := recMode mf
    let recs := if f.lo.getLsbD 8 then 2 else 1
    let rows := bits f.lo 7 1
    let sz := recBytes mode
    let n := rows * recs * sz
    let a := (k.rs f.a).toNat
    let b := (k.rs f.b).toNat
    let d := (k.rs f.d).toNat
    let rec? (x : Nat) : List Byte := (List.range sz).map fun i => (byteAt k.store (x + i)).getD 0
    mf ≤ 2 → 1 ≤ rows → rows ≤ 64 → f.lo.getLsbD 0 = false →
    (∀ i < n, mayAccess c k false ((a + i) % 2 ^ 64) = true ∧ mayAccess c k false ((b + i) % 2 ^ 64) = true ∧
      mayAccess c k true ((d + i) % 2 ^ 64) = true) →
    (∀ i < n, (byteAt k.store (a + i)).isSome ∧ (byteAt k.store (b + i)).isSome ∧ (byteAt k.store (d + i)).isSome) →
    (d + n ≤ a ∨ a + n ≤ d) → (d + n ≤ b ∨ b + n ≤ d) →
    s.hazard c false a n = false → s.hazard c false b n = false → s.hazard c true d n = false →
      ∃ k' : Core, exec (.pcomb c f) s = .next (s.putCore c k'.vdone) ∧ k' = { k with store := k'.store, fmt := k'.fmt } ∧
        (∀ p, p < d ∨ d + n ≤ p → byteAt k'.store p = byteAt k.store p) ∧
        ∀ r < rows * recs, ∀ i < sz, byteAt k'.store (d + r * sz + i) = some
          ((packRow mode (nodeAddRow mode (unpackRow mode (rec? (a + r * sz))) (unpackRow mode (rec? (b + r * sz)))).1).getD i 0)

/-- R177: VSPOUT on an array that is free, with its descriptor, vectors and records readable and its output writable, completes: the
core has run the spout's steps over its rows, and nothing but its store, lanes and format counters changes. -/
def Claims.VspoutRunsTheSpoutSteps : Prop :=
  ∀ (j : Fin 160) (f : RFields) (s : State) (m : Mem) (bs : List Byte) (k' : Core), s.ready (.jet j) true →
    (s.core (.jet j)).resume = 0 → (s.core (.jet j)).inHandler = false →
    let c := CoreId.jet j
    let k := s.core c
    let n : Fin 8 := ⟨bits f.lo 10 8 % 8, by omega⟩
    let rows := bits f.lo 7 1
    let quad := f.lo.getLsbD 0
    let d := parseSpout bs
    let cols := outCols quad d
    let mode := recMode (f.d.toNat % 4)
    let env := spoutEnv m d mode rows cols cols ((s.jet j).vspoutLanes s.logicalArrays n.val quad cols)
    let recs := if quad then 2 else 1
    f.d.toNat ≤ 2 → 1 ≤ rows → rows ≤ 64 → (s.jet j).enabled n.val = true → (s.jet j).within s.logicalArrays n.val quad = true →
    (quad = true → (n.val = 0 ∨ n.val = 4) ∧ (s.jet j).quadOk (n.val / 4) = true) →
    (s.arr j n).vspoutFree = true → s.coreRead c (k.rs f.b).toNat 64 = .bytes bs m →
    (∀ r ∈ vecRanges quad d, loadFaultAt c { k with store := env.2 } r.1 r.2 0 = none) →
    s.hazard c false (k.rs f.a).toNat (rows * recs * recBytes mode) = false →
    (∀ r ∈ outRanges mode quad rows d, s.hazard c true r.1 r.2 = false) →
    (∀ r ∈ vecRanges quad d, s.hazard c false r.1 r.2 = false) →
    vspoutSteps c env.1 recs (k.rs f.a).toNat rows 0 0 { k with store := env.2 } = (k', none) →
      exec (.vspout c f) s = .next (s.putCore c k'.vdone) ∧
        k' = { k with store := k'.store, fmt := k'.fmt, lanes := k'.lanes, heldLanes := k'.heldLanes }

/-- R191, R205, R304, R317: a lane is written, a zero as 1, only while PHASE reads IDLE, and a held-bank lane also while it reads
RESERVE; any other write is ignored and recorded. -/
def Obligations.LaneWritesNeedTheirPhase : Prop :=
  ∀ (c : CoreId) (k : Fin 192) (r : Fin 2) (n : Fin 16) (h : Fin 64) (v : W64) (s : State),
    let lanes := match c with
      | .jet _ => 192
      | .upd _ _ => 64
    let v' := if v = 0 then 1 else v
    (s.record.phase = 0 → k.val < lanes → ∃ t, exec (.laneStateWrite c k v) s = .next t ∧ t = s.putCore c (t.core c) ∧
      t.core c = { s.core c with lanes := (t.core c).lanes } ∧
      ∀ i, (t.core c).lanes.get 1 i = if i = k.val then v' else (s.core c).lanes.get 1 i) ∧
    (s.record.phase ≠ 0 → k.val < lanes →
      exec (.laneStateWrite c k v) s = .next (s.event 0x0002 1 srcFw [0x2000 + 8 * k.val])) ∧
    (s.record.phase = 0 → ∃ t, exec (.heldLaneWrite r n h v) s = .next t ∧
      t = { s with runnels := t.runnels, job := { s.job with heldLoaded := t.job.heldLoaded } } ∧
      (∀ c', c' ≠ .upd r n → t.core c' = s.core c') ∧
      t.core (.upd r n) = { s.core (.upd r n) with heldLanes := (t.core (.upd r n)).heldLanes } ∧
      ∀ i, (t.core (.upd r n)).heldLanes.get 1 i = if i = h.val then v' else (s.core (.upd r n)).heldLanes.get 1 i) ∧
    (s.record.phase = 7 → ∃ t, exec (.heldLaneWrite r n h v) s = .next t ∧
      ∀ i, (t.core (.upd r n)).heldLanes.get 1 i = if i = h.val then v' else (s.core (.upd r n)).heldLanes.get 1 i) ∧
    (s.record.phase ≠ 0 → s.record.phase ≠ 7 →
      exec (.heldLaneWrite r n h v) s = .next (s.event 0x0002 1 srcFw [0x3000 + 8 * h.val]))

/-- PCOMB stores node additions row by row, and VSPOUT runs the spout over its rows. -/
def Obligations.PartialSumsAndSpoutRunByRow : Prop :=
  Claims.PcombAddsRecordsRowByRow ∧ Claims.VspoutRunsTheSpoutSteps

/-! ### Matrix arrays and the tile sentinel -/

/-- R103 to R105, R121, R122, with the jet store in canonical form: the pass at the head of an array's queue, one array wide and not of
SB64 mode: it starts its chain on an IDLE tile with FIRST, runs on in a tile FILLING with its chain, is held once for a tile in use, and
otherwise completes with an array fault and acts on nothing. Passes of the loader's that wait for room then go on. -/
def Obligations.QueueHeadStartsHoldsOrFaults : Prop :=
  ∀ (j : Fin 160) (n : Fin 8) (p : PassDesc) (rest : List PassDesc) (s : State),
    let a := s.arr j n
    let tile := a.tile p.tile
    let d : Fin 4 := ⟨j.val / 40, by omega⟩
    a.queue = p :: rest → p.quad = false → p.mode ≠ 3 → s.keeper.aclkOn = true → a.running = none →
    a.served n.val = false → s.sentinelOn j n.val = false → Mem.wf (s.jet j).core.store = true →
    (((s.jet j).spoutDesc p.spout).any SpoutDesc.lockstep = true → (((s.jet j).partner s.logicalArrays n.val).isSome = true)) →
    let runs (t : State) := ((t.arr j n).running.map PassRun.desc = some p) ∧ (t.arr j n).queue = rest ∧
      (t.arr j n).flags = a.flags ∧ (t.arr j n).bank0 = a.bank0 ∧ (t.arr j n).bank1 = a.bank1 ∧
      (∀ m, m ≠ n → t.arr j m = s.arr j m) ∧ (∀ i, i ≠ j → t.jet i = s.jet i) ∧
      (∀ q, byteAt (t.jet j).core.store q = byteAt (s.jet j).core.store q) ∧
      t = { s with jets := t.jets, basins := t.basins }
    (tile.state = .idle → p.first = true → ∃ t : State, exec (.queueHeadPass j n) s = .next t.placeWork ∧ runs t ∧
      ((t.arr j n).tile p.tile).state = .filling ∧ ((t.arr j n).tile p.tile).chain = p.chain ∧
      ((t.arr j n).tile p.tile).run = [] ∧ ((t.arr j n).tile p.tile).stack = []) ∧
    (tile.state = .filling → tile.chain = p.chain → p.first = false → ∃ t : State, exec (.queueHeadPass j n) s = .next t.placeWork ∧ runs t ∧
      (t.arr j n).tile p.tile = { tile with rows := if p.last then p.rows else tile.rows } ∧ t.basins = s.basins) ∧
    (tile.state ≠ .idle → ¬(tile.state = .filling ∧ tile.chain = p.chain) → exec (.queueHeadPass j n) s = .next
      (if a.held then s else (s.modArr j n fun x => { x with held := true }).modBasin d fun b =>
        { b with conflict := satInc b.conflict })) ∧
    ((tile.state = .idle ∧ p.first = false) ∨ (tile.state = .filling ∧ tile.chain = p.chain ∧ p.first = true) →
      ∃ t : State, exec (.queueHeadPass j n) s = .next t.placeWork ∧ t = { s with jets := t.jets } ∧ (∀ i, i ≠ j → t.jet i = s.jet i) ∧
        (t.arr j n).queue = rest ∧ (t.arr j n).flags = a.flags ||| 8 ∧ (t.arr j n).tileA = a.tileA ∧
        (t.arr j n).tileB = a.tileB ∧ (t.jet j).core.pendArray = (s.jet j).core.pendArray ++ [(n.val, p.chain)])

/-- R92 to R95, with the jet store in canonical form: a shadow load fills the shadow bank and leaves the active bank; the swap makes it
active, leaves the old active bank in the shadow, frees it, and counts the stall cycles of a pass that loads. -/
def Obligations.ShadowLoadAndSwapExchangeBanks : Prop :=
  ∀ (j : Fin 160) (n : Fin 8) (stall : Nat) (s : State),
    let a := s.arr j n
    (∀ p rest, a.running = none → a.queue = p :: rest → p.quad = false → p.stat = 1 → a.shadow = 0 →
      s.keeper.aclkOn = true → s.sentinelOn j n.val = false → a.served n.val = false →
      (s.jet j).gate s.logicalArrays n.val p ≠ .fault → Mem.wf (s.jet j).core.store = true →
      ∃ t, exec (.shadowLoadStart j n) s = .next t ∧ t = { s with jets := t.jets } ∧ (∀ i, i ≠ j → t.jet i = s.jet i) ∧
        (t.arr j n).bank = a.bank ∧ (t.arr j n).shadow = 1 ∧
        [if a.active then (t.arr j n).bank0 else (t.arr j n).bank1] = (p.loadBanks (s.jet j).core.store).1 ∧
        (t.arr j n).queue = a.queue ∧ (t.arr j n).tileA = a.tileA ∧ (t.arr j n).tileB = a.tileB ∧
        (∀ q, byteAt (t.jet j).core.store q = byteAt (s.jet j).core.store q)) ∧
    (∀ r, a.running = some r → r.swapped = false → r.desc.quad = false → r.desc.stat = 1 → a.shadow = 1 → a.served n.val = false →
      exec (.shadowLoadDone j n) s = .next (s.modArr j n fun x => { x with shadow := 2 })) ∧
    (∀ r, a.running = some r → r.swapped = false → r.desc.quad = false →
      (r.desc.stat = 1 ∧ a.shadow = 2) ∨ (r.desc.stat = 2 ∧ a.shadow ≠ 1) →
      ∃ t, exec (.bankSwap j n stall) s = .next t ∧ t = { s with jets := t.jets } ∧ (∀ i, i ≠ j → t.jet i = s.jet i) ∧
        (t.arr j n).bank = (if a.active then a.bank0 else a.bank1) ∧
        (if (t.arr j n).active then (t.arr j n).bank0 else (t.arr j n).bank1) = a.bank ∧ (t.arr j n).shadow = 0 ∧
        (t.arr j n).stall = (if r.desc.stat = 1 then satAdd a.stall stall else a.stall) ∧
        (t.arr j n).tileA = a.tileA ∧ (t.arr j n).tileB = a.tileB ∧ (t.arr j n).queue = a.queue)

/-- R97, R100, R121: at the end of an INT-mode pass with BLOCK_END on one array, every entry of a row the pass streamed has gained the
exact 128-bit block sum, its products at the weight of their slice pair, clamped to ±(2^31 − 1); a product of a marked code marks it; the
other tile and the other arrays are unchanged. -/
def Claims.IntPassAddsItsProducts : Prop :=
  ∀ (j : Fin 160) (n : Fin 8) (r : PassRun) (s : State),
    let a := s.arr j n
    let p := r.desc
    let tile := a.tile p.tile
    let bank := if a.active then a.bank1 else a.bank0
    let x (m k : Nat) : Nat × Bool := (r.x.getD m []).getD k (0, false)
    let w (k c : Nat) : Nat × Bool := (bank.codes.getD k []).getD c (0, false)
    a.running = some r → p.mode = 0 → p.quad = false → p.stat = 0 → p.blockEnd = true → p.segEnd = false → p.last = false →
    r.fault = false →
      ∃ t, exec (.passComplete j n) s = .next t ∧ t = { s with jets := t.jets, basins := t.basins } ∧
        (∀ i, i ≠ j → t.jet i = s.jet i) ∧ (∀ m, m ≠ n → t.arr j m = s.arr j m) ∧ (t.jet j).core = (s.jet j).core ∧
        (t.arr j n).running = none ∧ (t.arr j n).queue = a.queue ∧
        (t.arr j n).tile (if p.tile = .a then .b else .a) = a.tile (if p.tile = .a then .b else .a) ∧
        ∀ m < p.rows, ∀ c < 16,
          let e := (tile.run.get {} m).entry c
          let e' := ((((t.arr j n).tile p.tile).run.get {} m)).entry c
          let v := e.s + (e.br + BitVec.ofInt 128 (((List.range 16).map fun k =>
            codeVal p.opX p.sliceX (x m k).1 * codeVal p.opW p.sliceW (w k c).1).sum * 2 ^ pairShift p)).toInt
          e'.s = max (-(2 ^ 31 - 1)) (min (2 ^ 31 - 1) v) ∧ e'.br = 0 ∧
            e'.p = (e.p || ((List.range 16).any fun k => (x m k).2 || (w k c).2))

/-- R103, R113, R132, with the jet store in canonical form: a tile in DRAIN_WAIT whose chain names a RAW destination that may be written
drains: its rows are stored as records, no other byte changes, and the tile is DRAINING, holds its rows until TILE_RETURN_IDLE clears it,
and its words until DRAIN_LAST_WRITE releases them. -/
def Claims.RawDrainStoresTheRowRecords : Prop :=
  ∀ (j : Fin 160) (n : Fin 8) (t : TileId) (d : SpoutDesc) (s : State),
    let x := s.jet j
    let a := s.arr j n
    let tile := a.tile t
    let size := tile.rows * recBytes tile.mode
    let base := d.outElem.toNat
    tile.state = .drainWait → tile.quad = false → (tile.mode ≤ 2) → s.keeper.aclkOn = true →
    x.spoutDesc tile.spout = some d → d.dest = 0xFF → a.tileA.state ≠ .draining → a.tileB.state ≠ .draining →
    base + size ≤ 0x1400000 → x.core.code = (0, 0) → Mem.wf x.core.store = true → (a.inQuad = false ∨ n.val % 4 < 2) →
      ∃ u, exec (.spoutDrainStart j n t) s = .next u ∧ u = { s with jets := u.jets, basins := u.basins } ∧
        (∀ i, i ≠ j → u.jet i = s.jet i) ∧ (∀ m, m ≠ n → u.arr j m = s.arr j m) ∧
        (u.arr j n).tile t = { tile with state := .draining, drainTo := [(base, size)], drainChain := tile.chain } ∧
        (u.jet j).core = { x.core with store := (u.jet j).core.store } ∧
        (∀ q, q < base ∨ base + size ≤ q → byteAt (u.jet j).core.store q = byteAt x.core.store q) ∧
        (∀ r < tile.rows, ∀ i < recBytes tile.mode,
          (byteAt x.core.store (base + r * recBytes tile.mode + i)).isSome →
          byteAt (u.jet j).core.store (base + r * recBytes tile.mode + i) =
            some ((packRow tile.mode (tile.run.get {} r)).getD i 0))

/-- R103, R172: a DRAINING tile clears to IDLE with every entry zero, and the last write of its drain releases the words. -/
def Claims.DrainedTileClearsAndReleases : Prop :=
  ∀ (j : Fin 160) (n : Fin 8) (t : TileId) (s : State),
    let tile := (s.arr j n).tile t
    (tile.state = .draining → tile.quad = false → tile.mode ≠ 3 →
      exec (.tileReturnIdle j n t) s = .next (s.modArr j n fun a =>
        a.putTile t { drainTo := tile.drainTo, drainChain := tile.drainChain })) ∧
    (tile.state ≠ .draining → exec (.drainLastWrite j n t) s = .next (s.modArr j n fun a =>
      a.putTile t { tile with drainTo := [], drainChain := 0 }))

/-- R145 to R148, R150, R152, R153: the sentinel samples the chain that is due, or counts a skip while it holds a sample; it runs on an
idle array, takes its tiles, and gives it back with its banks and tiles, counting a program's descriptor that waits; a comparison counts
the sample and one that agrees logs nothing; a write of its seed reloads the generator, and a disable discards what it holds. -/
def Claims.TileSentinelSamplesRunsAndReleases : Prop :=
  ∀ (d : Fin 4) (s : State),
    let x := (s.basins.get d).snt
    let put (y : Sentinel) : State := s.modBasin d fun b => { b with snt := y }
    let step (g : W32) : W32 :=
      let a := g ^^^ (g <<< 13)
      let b := a ^^^ (a >>> 17)
      b ^^^ (b <<< 5)
    let gapOf (g : W32) : Nat := 1 + g.toNat % (2 * 2 ^ x.log2n.toNat - 1)
    (∀ (j : Fin 160) n t ch, x.due = some (j.val, n, t, ch) →
      let y := { x with due := none, gen := step x.gen, gap := gapOf (step x.gen) }
      (x.sample.isSome → exec (.sentinelSample d) s = .next (put { y with skip := satInc x.skip })) ∧
      (x.sample = none → ∃ v, exec (.sentinelSample d) s = .next (put { y with sample := some v }) ∧
        v.jet = j.val ∧ v.array = n ∧ v.tile = t ∧ v.chain = ch ∧ v.step = s.record.globalStep ∧ v.passes = [] ∧ v.drained = false)) ∧
    (∀ (j : Fin 40) (n : Fin 8) v,
      let jn : Fin 160 := ⟨40 * d.val + j.val, by omega⟩
      let a := s.arr jn n
      x.sample = some v → v.drained = true → x.runsOn = none → s.keeper.aclkOn = true → (s.jet jn).enabled n.val = true →
      a.queue = [] → a.running = none → a.inQuad = false → a.shadow = 0 → a.tileA.state = .idle → a.tileB.state = .idle →
      let took (t : Tile) : Tile :=
        { state := .filling, chain := sentinelChain, mode := 3, drainTo := t.drainTo, drainChain := t.drainChain }
      exec (.sentinelRecomputeStart d j n) s = .next ((put { x with
        runsOn := some (jn.val, n.val, if a.active then a.bank1 else a.bank0, if a.active then a.bank0 else a.bank1) }).modArr jn n
          fun a => { a with tileA := took a.tileA, tileB := took a.tileB })) ∧
    (∀ (j : Fin 160) (n : Fin 8) act sh, x.runsOn = some (j.val, n.val, act, sh) →
      let a := s.arr j n
      let idle (t : Tile) : Tile := { drainTo := t.drainTo, drainChain := t.drainChain }
      let back (y : Sentinel) : State :=
        (put { y with runsOn := none, preempt := if s.sentinelWanted d then satInc x.preempt else x.preempt }).modArr j n fun a =>
          { a with bank0 := if a.active then sh else act, bank1 := if a.active then act else sh,
                   tileA := idle a.tileA, tileB := idle a.tileB }
      (a.queue ≠ [] → s.sentinelWanted d = true) ∧
      (s.sentinelWanted d = true → exec (.sentinelPreempt d) s = .next (back x)) ∧
      (∀ v df, x.sample = some v → v.diff.1 = some df → df ≤ 1 / (2 : Rat) ^ x.threshold v.cls →
        exec (.sentinelCompare d) s = .next (back { x with sample := none, sampled := satInc x.sampled })) ∧
      exec (.sentinelDisable d) s = .next (back { x with en := false, sample := none, due := none })) ∧
    (x.runsOn = none → exec (.sentinelDisable d) s = .next (put { x with en := false, sample := none, due := none })) ∧
    (∀ v, exec (.sentinelSeedWrite d v) s = .next (put { x with
      seed := v, gen := step (if v = 0 then 1 else v), gap := gapOf (step (if v = 0 then 1 else v)) }))

/-- R149, R154, R155: a comparison that disagrees is counted and logged at NEXT with the sample's step, and the disagreement that
brings its step's count to EVENT_LIMIT records a SENTINEL event. -/
def Claims.SentinelDisagreementIsLogged : Prop :=
  ∀ (d : Fin 4) (j : Fin 160) (n : Fin 8) (act sh : Bank) (v : Sample) (s : State),
    let x := (s.basins.get d).snt
    x.runsOn = some (j.val, n.val, act, sh) → x.sample = some v →
    (∀ df, v.diff.1 = some df → 1 / (2 : Rat) ^ x.threshold v.cls < df) →
      let cnt := if x.inStep.1 = s.record.globalStep then x.inStep.2 + 1 else 1
      ∃ t w, exec (.sentinelCompare d) s = .next t ∧
        (t.basins.get d).snt = { x with
          runsOn := none
          preempt := if s.sentinelWanted d then satInc x.preempt else x.preempt
          sample := none
          sampled := satInc x.sampled
          disagree := satInc x.disagree
          wrapped := x.wrapped || Tbl.has x.log x.next.toNat
          log := x.log.set x.next.toNat (v.step, w)
          next := x.next + 1
          inStep := (s.record.globalStep, cnt) } ∧
        w.getLsbD 0 = true ∧
        (x.eventLimit = 0 ∨ cnt ≠ x.eventLimit.toNat → t.log = s.log) ∧
        (x.eventLimit ≠ 0 → cnt = x.eventLimit.toNat → ∃ s' : State, s'.log = s.log ∧ t = s'.event 0x0020 2 srcBasin [d.val, cnt])

/-- An INT pass adds its exact block sums; a RAW drain stores the row records; the tile then clears and releases. -/
def Obligations.PassesAddAndTilesDrain : Prop :=
  Claims.IntPassAddsItsProducts ∧ Claims.RawDrainStoresTheRowRecords ∧ Claims.DrainedTileClearsAndReleases

/-- The tile sentinel samples, recomputes, compares, logs and gives its array back. -/
def Obligations.TileSentinelRecomputesSamples : Prop :=
  Claims.TileSentinelSamplesRunsAndReleases ∧ Claims.SentinelDisagreementIsLogged

/-! ### Programs, the mover and the memory tiers -/

/-- R27, R216, R220, R224: a node of the loaded image starts when its phase is in progress and its predecessors have finished or belong
to an earlier phase, and it starts once; a FORWARD node of the recompute plan starts again in BACKWARD. A kernel's node starts the core
of each of its jets at the kernel's entry; a collective's, the update's and a window's only become due. -/
def Claims.GraphNodeStartsAfterItsPredecessors : Prop :=
  ∀ (i : Image) (nd : GraphNode) (s : State),
    s.job.image = some i → i.nodes.find? (·.id == nd.id) = some nd → s.job.running = true →
    let began : State := { s with job := { s.job with started := s.job.started ++ [nd.id] } }
    (s.record.phase.toNat = nd.phase → nd.id ∉ s.job.started →
      (∀ p ∈ nd.preds, p ∈ s.job.finished ∨ ∃ q, i.nodes.find? (·.id == p) = some q ∧ q.phase < nd.phase) →
      exec (.graphNodeStart nd.id []) s = .next (began.runNode i nd)) ∧
    (s.record.phase.toNat = nd.phase → nd.id ∈ s.job.started ∨
        (∃ p ∈ nd.preds, p ∉ s.job.finished ∧ ∀ q, i.nodes.find? (·.id == p) = some q → nd.phase ≤ q.phase) →
      exec (.graphNodeStart nd.id []) s = .next s) ∧
    (s.record.phase.toNat = 5 → s.rerunReady i nd = true → exec (.graphNodeStart nd.id []) s = .next
      (({ s with job := { s.job with rerun := s.job.rerun ++ [nd.id] } } : State).runNode i nd)) ∧
    (∀ k args tiles jets ia uq, nd.kind = .kernel k args tiles jets ia uq → ∀ j : Fin 160,
      let x := s.core (.jet j)
      (began.runNode i nd).core (.jet j) = if j.val ∈ jets then
        { x with pc := BitVec.ofNat 64 (x.code.1 + ((i.kernels[k]?).map Prod.fst).getD 0), halted := false, held := none } else x) ∧
    ((∃ op t, nd.kind = .collective op t) ∨ (∃ g, nd.kind = .update g) ∨ (∃ w t, nd.kind = .windowIn w t) ∨
        (∃ w t, nd.kind = .windowOut w t) → began.runNode i nd = began)

/-- R238, R242, R249, R257 to R259, with the jet store in canonical form: a valid plain descriptor that moves one row of one word from a
mapped fast-tier word to the jet store, with no correction due, stores that word's 32 bytes, changes no other byte, and is active until it
completes; an invalid descriptor stops with REASON 0x02 and reaches the core as MOVER_FAULT. -/
def Claims.MoverMovesAWordOrFaults : Prop :=
  ∀ (j : Fin 160) (d : MvDesc) (rest : List MvDesc) (s : State),
    let x := s.jet j
    x.mvQueue = d :: rest → s.keeper.rails = true → s.keeper.step = 11 → s.keeper.powerState = 0 → d.host = false →
    (∀ e ∈ x.mvActive, mvOverlap d e = false) → s.cxl.filter = [] → s.cxl.snoops = [] → Mem.wf x.core.store = true →
    let popped := { x with mvQueue := rest, mvSnooped := false, mvHeld := x.mvHeld.filter (· != d.tag) }
    (s.mvValid j d = true → d.transpose = 0 → d.conv = false → d.rows = 1 → d.rowBytes = 32 → d.dstJs = true → d.src < 2 ^ 41 →
      s.canon d.src = some d.src → s.deadGranule d.src = false →
      ∀ bs, checkWord (rawWord s.tiers (d.src / 32)) = .clean bs → bs.length = 32 →
        ∃ t, exec (.moverDescriptorStart j []) s = .next t ∧
          t = s.putJet j { popped with mvActive := x.mvActive ++ [d], core := { x.core with store := (t.jet j).core.store } } ∧
          (∀ i < 32, byteAt (t.jet j).core.store (d.dst + i) = some (bs.getD i 0)) ∧
          (∀ q, q < d.dst ∨ d.dst + 32 ≤ q → byteAt (t.jet j).core.store q = byteAt x.core.store q)) ∧
    (s.mvValid j d = false → exec (.moverDescriptorStart j []) s = .next (s.putJet j { popped with
      mvInfo := BitVec.ofNat 32 (d.tag % 65536 * 65536 + 2), mvAddr := BitVec.ofNat 64 (d.addr % 2 ^ 48)
      core := { x.core with pendMover := x.core.pendMover ++ [d.tag] } }))

/-- R172, R258, R259, R282, R441, R445, R464: a descriptor that completes leaves the mover, one for the host only while the link runs
CXL; one whose host request or held time runs out faults with REASON 0x06. Which of its words timed out the spec does not say: a free
value (log 5). -/
def Claims.MoverDescriptorsCompleteOrTimeOut : Prop :=
  ∀ (j : Fin 160) (d : MvDesc) (rest : List MvDesc) (tag : W16) (s : State),
    let x := s.jet j
    let fault (y : Jet) (a : Nat) : Jet := { y with
      mvInfo := BitVec.ofNat 32 (tag.toNat * 65536 + 6), mvAddr := BitVec.ofNat 64 (a % 2 ^ 48)
      core := { x.core with pendMover := x.core.pendMover ++ [tag.toNat] } }
    d.tag = tag.toNat →
    (x.mvActive = d :: rest → d.host = false ∨ s.cxl.enabled = true →
      exec (.moverDescriptorComplete j tag) s = .next (s.putJet j { x with mvActive := rest })) ∧
    (x.mvActive = d :: rest → d.host = true → s.cxl.rate ≠ 0 →
      ∃ a, exec (.cxlCacheTimeout j tag) s = .next
        (({ s with freeCount := s.freeCount + 1 } : State).putJet j (fault { x with mvActive := rest } a))) ∧
    (x.mvActive = d :: rest → d.host = true → s.cxl.rate = 0 →
      exec (.linkHoldExpiry j tag) s = .next (s.putJet j (fault { x with mvActive := rest } d.devBase))) ∧
    (x.mvQueue = d :: rest → tag.toNat ∈ x.mvHeld → (∀ e ∈ x.mvActive, e.tag ≠ d.tag) → s.cxl.rate = 0 →
      exec (.linkHoldExpiry j tag) s = .next (s.putJet j
        (fault { x with mvQueue := rest, mvHeld := x.mvHeld.filter (· != tag.toNat), mvSnooped := false } d.devBase)))

/-- R249, R251, R260, R275, with the tiers in canonical form: a scrub read of a word of a channel in which it meets one wrong byte, and
whose second read meets none, writes the word back corrected and counts a corrected word; a clean read changes nothing. -/
def Obligations.ScrubReadCorrectsAndCounts : Prop :=
  ∀ (d : Fin 4) (ch : Fin 256) (addr c : Nat) (data e1 e2 : List Byte) (s : State),
    let u := MemUnit.channel d ch
    s.unitAddr u (addr / 32 * 32) = some c → s.scrubOn u = true → (s.canon c).isSome → s.unitAt c = u → s.deadGranule c = false → addr < 2 ^ 31 →
    Mem.wf s.tiers = true →
    data.length = 32 → rawWord s.tiers (c / 32) = encodeWord data → e1.length = 36 → e2.length = 36 →
    (∀ b ∈ e2, b = 0) →
    ((∀ b ∈ e1, b = 0) → exec (.scrubRead u addr e1 e2) s = .next s) ∧
    ((∃ i < 36, e1.getD i 0 ≠ 0 ∧ ∀ k < 36, k ≠ i → e1.getD k 0 = 0) →
      ∃ t, exec (.scrubRead u addr e1 e2) s = .next t ∧ t = { s with tiers := t.tiers, basins := t.basins } ∧
        rawWord t.tiers (c / 32) = encodeWord data ∧
        t.unitSt u = { s.unitSt u with ce := satInc (s.unitSt u).ce, passCe := (s.unitSt u).passCe + 1 })

/-- R263 to R268, R531: the end of a scrub pass clears the pass's counts and asks for map-out where a limit is passed; a unit that
does not answer, or fails re-training in a pause, is dead and is mapped out at once. -/
def Claims.ScrubLimitsAskForMapOut : Prop :=
  ∀ (d : Fin 4) (ch : Fin 256) (s : State),
    let u := MemUnit.channel d ch
    let x := s.unitSt u
    let l := (s.cisterns.get ⟨8 * d.val + ch.val / 32, by omega⟩).limits
    (x.passUe ≤ bits l 31 24 → x.passCe ≤ bits l 15 0 → x.hardAt.length ≤ bits l 23 16 →
      ∃ t, exec (.scrubPassEnd u) s = .next t ∧ t = { s with basins := t.basins } ∧
        t.unitSt u = { x with passCe := 0, passUe := 0 }) ∧
    (x.state = 0 → x.passUe ≤ bits l 31 24 → bits l 15 0 < x.passCe → s.mayMapOut (.domain d) = true →
      ∃ t, exec (.scrubPassEnd u) s = .next t ∧ t = { s with basins := t.basins } ∧
        t.unitSt u = { x with passCe := 0, passUe := 0, state := 1, reason := 1 } ∧
        (t.region (.domain d)).queue = (s.region (.domain d)).queue ++ [(ch.val, 1)]) ∧
    (x.state = 0 → (s.region (.domain d)).state = 0 → (s.region (.domain d)).withdrawn < 32 → s.job.running = false →
      s.job.image = none →
      (∃ t, exec (.unitCommandTimeout u) s = .next t ∧ (t.unitSt u).state = 2 ∧ (t.unitSt u).reason = 4 ∧
        (t.region (.domain d)).withdrawn = (s.region (.domain d)).withdrawn + 1 ∧ (t.region (.domain d)).dead = true ∧
        t.caps.gen = s.caps.gen + 1) ∧
      (s.record.phase = 0 → ∃ t, exec (.memoryRetrain u false) s = .next t ∧ (t.unitSt u).state = 2 ∧ (t.unitSt u).reason = 5 ∧
        (t.region (.domain d)).dead = true)) ∧
    exec (.memoryRetrain u true) s = .next s

/-- R210, R262, R265 to R267: a queued map-out starts when no relocation runs and it fits: a unit's capacity is withdrawn, CAP_GEN
advances and MAP_OUT_START is recorded; each granule copied counts 256 bytes of progress; a row repair in a pause takes a spare row of the
bank, and the row's hard errors no longer count. -/
def Claims.MapOutWithdrawsAndRelocates : Prop :=
  ∀ (d : Fin 4) (ch : Fin 256) (reason : Nat) (rest : List (Nat × Nat)) (addr slot group : Nat) (s : State),
    let g := MemRegion.domain d
    let u := MemUnit.channel d ch
    let m := s.region g
    let x := s.unitSt u
    (m.queue = (ch.val, reason) :: rest → m.state = 0 → m.withdrawn < 32 → x.state = 1 → s.mayMapOut g = true →
      ∃ t, exec (.mapOutStart g) s = .next t ∧
        t = { s with basins := t.basins, caps := { s.caps with gen := s.caps.gen + 1 }, log := t.log, cxl := t.cxl,
                     outbox := t.outbox } ∧
        t.region g = { m with queue := rest, state := 1, unit := ch.val, progress := 0, dead := false, moved := [],
                              withdrawn := m.withdrawn + 1, outs := m.outs ++ [ch.val],
                              waits := m.waits.filter (· != ch.val) } ∧
        t.capOf g + 2 ^ 31 = s.capOf g ∧ t.unitSt u = { x with state := 2, reason := BitVec.ofNat 8 reason }) ∧
    (s.keeper.rails = true → s.keeper.powerState ≤ 1 → m.state = 1 → slot % 256 ∈ m.outs → slot < 4096 →
      group < s.groupsOf g → (slot, group) ∉ m.moved → m.moved.length + 1 < 16 * m.outs.length * s.groupsOf g →
      s.deadGranule (granuleAddr g slot group) = false →
      ∃ t, exec (.relocationGranuleDone g slot group) s = .next t ∧ t = { s with basins := t.basins } ∧
        (t.region g).progress = m.progress + 256 ∧ (t.region g).moved = (slot, group) :: m.moved ∧
        (t.region g).state = 1) ∧
    (let here (b : Nat) : Bool := Config.bankOf b == Config.bankOf addr && Config.rowIn b == Config.rowIn addr
     let left := x.spares.get 0 (Config.bankOf addr)
     s.record.phase = 0 ∨ s.record.phase = 10 → (∃ b ∈ x.hardAt, here b = true) → 0 < left →
      ∃ t, exec (.rowRepair u addr) s = .next t ∧ t = { s with basins := t.basins } ∧
        t.unitSt u = { x with spares := x.spares.set (Config.bankOf addr) (left - 1), repair := satInc x.repair,
                              hardAt := x.hardAt.filter fun b => !here b })

/-- R261, R273, R598, R605: a stack's temperature sample in range is reported in 1/16 degree, and doubles the refresh rate from 85
degrees up; one out of range is discarded and counted. -/
def Claims.StackTemperatureSetsRefresh : Prop :=
  ∀ (i : Fin 32) (temp : Int) (s : State),
    ∃ t, exec (.stackTempReport i temp) s = .next t ∧
      (-640 ≤ temp → temp ≤ 2400 →
        t = { s with cisterns := t.cisterns, keeper := { s.keeper with sensors := t.keeper.sensors } } ∧
        (t.cisterns.get i) = { s.cisterns.get i with temp := BitVec.ofInt 16 temp, refresh2 := decide (85 * 16 ≤ temp) } ∧
        (t.keeper.sensors.get {} (7 + i.val)).good = temp ∧ (t.keeper.sensors.get {} (7 + i.val)).rejects = 0) ∧
      (temp < -640 ∨ 2400 < temp → t = { s with keeper := { s.keeper with
          sensors := t.keeper.sensors, rejectCnt := satInc s.keeper.rejectCnt } } ∧
        (t.keeper.sensors.get {} (7 + i.val)).good = (s.keeper.sensors.get {} (7 + i.val)).good ∧
        (t.keeper.sensors.get {} (7 + i.val)).rejects = (s.keeper.sensors.get {} (7 + i.val)).rejects + 1)

/-- Graph nodes start in order; mover descriptors move their words, complete, or fault. -/
def Obligations.GraphNodesAndMoverDescriptorsRun : Prop :=
  Claims.GraphNodeStartsAfterItsPredecessors ∧ Claims.MoverMovesAWordOrFaults ∧ Claims.MoverDescriptorsCompleteOrTimeOut

/-- Limits ask for map-out, map-out withdraws capacity and relocates, and temperature sets refresh. -/
def Obligations.UnitsAreMappedOutAndRefreshed : Prop :=
  Claims.ScrubLimitsAskForMapOut ∧ Claims.MapOutWithdrawsAndRelocates ∧ Claims.StackTemperatureSetsRefresh

/-! ### The parameter update and step survival -/

/-- R284, R294 to R297, R309: in UPDATE a dispatcher skips a frozen record, which it counts, and stages any other with its gradient record
and group block in the set that no kernel uses; an idle core enters the update kernel with the three addresses in s1, s2 and s3, and
one that runs a kernel goes on with it. -/
def Obligations.DispatcherStagesOrSkipsRecords : Prop :=
  ∀ (r : Fin 2) (n : Fin 16) (b : StageFrom) (i : Image) (idx : Nat) (ws gs : List (Option (List Byte))) (s s1 s2 : State),
    let x := s.runnels.get r
    let k := x.cores.get n
    let held := b.isHeld
    let bank := i.bank (if held then s.predecessor else s.coll.rank) r.val
    let no := x.nextNo held n.val
    let g := i.recordGroup idx
    let t := satInc (((s.descOf held).map (·.tAgreed)).getD [] |>.getD g 0)
    let grp := i.groups.getD g ⟨0, 0, 0, 0, 0, 0, false, 0, 0⟩
    let block := groupBlock grp t.toNat s.record.globalStep g
    s.job.image = some i → s.inPhase 8 = true → x.state = 1 → x.ahead.has n.val = false → bank[no]? = some idx →
    s.readRecord i held s.record.slot idx = (ws, s1) →
    (i.frozen g = true → x.staged.has n.val = false → ∃ u, exec (.recordStage r n b) s = .next u ∧
      u = { s1 with runnels := u.runnels } ∧
      (u.runnels.get r).cores = x.cores ∧ (u.runnels.get r).cnt.get 0 0 = satInc (x.cnt.get 0 0) ∧
      (u.runnels.get r).nextNo held n.val = no + 16 ∧
      (let term := recordTerm s.job.key (plainBytes ws)
       if held then (u.runnels.get r).digHeld = x.digHeld + term else (u.runnels.get r).digOwn = x.digOwn + term)) ∧
    (i.frozen g = false → wordsGood ws = true → s1.gradOf i held idx b.bad = (gs, s2) → wordsGood gs = true → Mem.wf k.store = true →
      let staged (base : Nat) (m : Mem) : Prop :=
        (∀ p < 6208, byteAt m (base + p) = some ((plainBytes ws).getD p 0)) ∧
        (∀ p < 2080, byteAt m (base + 0x2000 + p) = some ((plainBytes gs).getD p 0)) ∧
        (∀ p < 64, byteAt m (base + 0x3000 + p) = some (block.getD p 0)) ∧
        (∀ p, p < base ∨ base + 0x3040 ≤ p → byteAt m p = byteAt k.store p)
      (x.staged.has n.val = false → ∃ u, exec (.recordStage r n b) s = .next u ∧ u = { s2 with runnels := u.runnels } ∧
        (∀ c, c ≠ .upd r n → u.core c = s.core c) ∧ (u.runnels.get r).nextNo held n.val = no + 16 ∧
        let k' := u.core (.upd r n)
        k' = { k with store := k'.store, s := k'.s, v := Vector.replicate 32 0, ctrl := 0, flags := 0, halted := false, held := none,
                      resume := 0, resumed := false, staged := some false, heldBank := held, pc := k'.pc } ∧
        k'.pc = BitVec.ofNat 64 (k.code.1 + (i.kernels.getD grp.kernel (0, 0)).1) ∧
        k'.rs 1 = 0x60000 ∧ k'.rs 2 = 0x62000 ∧ k'.rs 3 = 0x63000 ∧ (∀ q : BitVec 5, 4 ≤ q.toNat → k'.rs q = 0) ∧
        staged 0x60000 k'.store) ∧
      (∀ st, x.staged.has n.val = true → x.staged.get ⟨true, false, 0, 0, 0, false⟩ n.val = st → k.halted = false →
        ∃ u, exec (.recordStage r n b) s = .next u ∧ u = { s2 with runnels := u.runnels } ∧
          (u.runnels.get r).ahead.get ⟨false, false, 0, 0, 0, false⟩ n.val = ⟨!st.set, held, no, idx, g, false⟩ ∧
          u.core (.upd r n) = { k with store := (u.core (.upd r n)).store } ∧
          staged (if st.set then 0x60000 else 0x70000) (u.core (.upd r n)).store))

/-- R287, R290, R296, R299, R300, R307, R327, R328: a record whose kernel ended is written to the other slot, feeds its digest and, in
the own bank, is written through; when both dispatchers have finished, DIGEST is published and DONE_MASK bit 8 set. -/
def Claims.WriteBackAndPassEndPublishTheDigest : Prop :=
  ∀ (r : Fin 2) (n : Fin 16) (i : Image) (st : Staged) (old : List (Option (List Byte))) (s s1 : State),
    let x := s.runnels.get r
    let k := x.cores.get n
    let v := s.record.slot
    s.inPhase 8 = true →
    (s.job.image = some i → x.staged.has n.val = true → x.staged.get ⟨false, false, 0, 0, 0, false⟩ n.val = st → st.halted = true →
      st.held = false → x.ahead.has n.val = false → (∀ w < 194, (wordData k.store (stageBase st.set / 32 + w)).isSome) →
      s.readWords 1 (s.recordAddr i false v st.index) = (old, s1) →
      let staged := (List.range 194).flatMap fun w => (wordData k.store (stageBase st.set / 32 + w)).getD []
      let new := toWords 194 (closeRecord i st.index s.record.globalStep (plainBytes old) staged)
      ∃ u, exec (.recordWriteback r n) s = .next u ∧
        u = { (State.writeWords new s1 (s1.recordAddr i false (!v) st.index)).writeThrough i st.index new with runnels := u.runnels } ∧
        (u.runnels.get r).digOwn = x.digOwn + recordTerm s.job.key (plainBytes new) ∧ (u.runnels.get r).digHeld = x.digHeld ∧
        (u.runnels.get r).ownCount = x.ownCount + 1 ∧ (u.runnels.get r).staged.has n.val = false ∧
        (u.core (.upd r n)) = { k with staged := none, heldBank := false }) ∧
    ((∀ q : Fin 2, (s.runnels.get q).state = 1 ∧ (s.runnels.get q).ownDone = true ∧ (s.runnels.get q).heldDone = true) →
      ∃ u, exec .updatePassComplete s = .next u ∧
        u = { s with runnels := u.runnels, job := { s.job with heldDigest := (s.runnels.get 0).digHeld + (s.runnels.get 1).digHeld }
                     record := u.record } ∧
        u.record = { s.record with digest := (s.runnels.get 0).digOwn + (s.runnels.get 1).digOwn
                                   doneStep := s.record.globalStep, doneMask := u.record.doneMask } ∧
        u.record.doneMask = s.record.doneMask ||| 0x100 ∧
        ∀ q, u.runnels.get q = { s.runnels.get q with state := 2 })

/-- R249, R252, R337: with the tiers in canonical form, a word written to a mapped address of a unit in service reads back, and no other
mapped word of such a unit changes; a word folded into the parity share is the XOR of both. -/
def Claims.TierWordsReadBack : Prop :=
  ∀ (s : State) (a c : Nat) (x y : List Byte) (i : Image) (o : Nat), Mem.wf s.tiers = true → x.length = 32 → y.length = 32 →
    (s.canon a = some c → c % 32 = 0 → s.deadGranule c = false →
      let t := State.writeWords [some x] s a
      t = { s with tiers := t.tiers } ∧ t.readWords 1 a = ([some x], t) ∧
        ∀ b d, s.canon b = some d → d / 32 ≠ c / 32 → (t.readWords 1 b).1 = (s.readWords 1 b).1) ∧
    (let p := s.parityAddr i (4096 + o)
     s.canon p = some c → c % 32 = 0 → s.deadGranule c = false → s.readWords 1 p = ([some x], s) →
      ((s.foldShare i o [some y]).readWords 1 p).1 = [some (xorBytes x y)])

/-- R322 to R324: the predecessor's entry for the step is written to its ring slot and acknowledged; one with a wrong step, source,
epoch, image hash or record count, or an uncorrectable word, is discarded, counted and recorded. An acknowledgement of the own entry
is noted, and completes RESERVE once the predecessor's entry and lanes are there. -/
def Claims.ReservoirEntriesAreCheckedAndAcknowledged : Prop :=
  ∀ (e : ResEntry) (i : Image) (s : State),
    let good := e.globalStep = s.record.globalStep ∧ e.sourceRank = s.predecessor ∧ e.epoch = s.record.epoch ∧
      e.imageHash = i.hash ∧ e.gradRecords = (i.shardRecords s.predecessor).length ∧ e.wordsOk = true
    let own := (i.shardRecords s.coll.rank).length
    s.job.running = true → s.job.image = some i →
    (good → ∃ t, exec (.reserveEntryReceive e) s = .next t ∧
      t = { s.keepEntry i e with job := t.job, record := t.record, outbox := s.outbox ++ [.packet e.sourceRank "RESERVE_ACK"
        [e.globalStep.toNat, e.gradRecords]] } ∧
      t.job = { s.job with ring := t.job.ring, predComplete := true, heldLoaded := t.job.heldLoaded } ∧
      t.job.ring.find? (fun p => p.1 == s.record.globalStep.toNat % (s.job.policy.d + 1)) =
        some (s.record.globalStep.toNat % (s.job.policy.d + 1), { e with grads := [] })) ∧
    (¬good → ∃ reason, 1 ≤ reason ∧ reason ≤ 6 ∧ exec (.reserveEntryReceive e) s = .next
      (({ s with job := { s.job with cnt := bump s.job.cnt 5 } } : State).event 0x0042 2 srcFw [e.sourceRank, reason])) ∧
    (s.job.outgoing.isSome → ∃ t, exec (.reserveAckReceive s.partnerRank s.record.globalStep own) s = .next t ∧
      t = { s with job := { s.job with acked := true, heldLoaded := t.job.heldLoaded }, record := t.record } ∧
      (s.record.phase = 7 → s.job.predComplete = true → t.job.heldLoaded = true → t.record.doneMask.getLsbD 7 = true))

/-- R31, R39, R328 to R332: the partner's digest becomes this owner's vote in COMMIT; a result of 0x01 commits the step and flips
VERSION_SLOT, 0x03 waits with nothing flipped, and 0x02 reverts the step with VERSION_SLOT kept; a firmware restart only delays what
follows. A reverted step whose records of V cannot all be used waits in IDLE for their copies (R340). -/
def Claims.VotesCommitWaitOrRevert : Prop :=
  ∀ (winner : Nat) (digest : W128) (s : State),
    s.job.running = true → s.record.phase = 9 →
    (∃ t, exec (.heldDigestReceive s.partnerRank s.record.globalStep digest) s = .next t ∧ t.job.fromPartner = some digest ∧
      (s.job.vote = none → s.record.held = true → t.job.vote = some (if digest = s.record.digest then 1 else 2)) ∧
      t.record = s.record) ∧
    (s.record.done 9 = false →
      let bits := s.record.doneMask ||| 0x200
      let r (v : Byte) : StepRecord := { s.record with result := v, doneStep := s.record.globalStep, doneMask := bits }
      (s.fwServes = true →
        (s.voteHeld = some (1, winner) → ∃ t, exec (.voteResult 1 winner) s = .next t ∧ t.record = { r 1 with slot := !s.record.slot } ∧
          t.job.digestV = s.record.digest ∧ t.job.heldDigestV = s.job.heldDigest ∧ t.job.sincePause = s.job.sincePause + 1 ∧
          t.job.last = 1 ∧ t.jets = s.jets ∧ t.runnels = s.runnels ∧ t.tiers = s.tiers) ∧
        (s.voteHeld = some (2, winner) →
          exec (.voteResult 2 winner) s = .next { s with record := r 3, job := { s.job with decided := none } }) ∧
        (s.voteHeld = some (3, winner) → s.job.mismatch ≠ some winner → s.job.haltAt ≠ some s.record.globalStep →
          ∃ t, exec (.voteResult 3 winner) s = .next t ∧ (t.record.phase = 1 ∨ (t.record.phase = 0 ∧ t.job.repair ≠ [])) ∧
            t.record.slot = s.record.slot ∧ t.record.globalStep = s.record.globalStep ∧ t.job.mismatch = some winner ∧
            t.job.last = 2 ∧ t.job.cnt.get 0 0 = satInc (s.job.cnt.get 0 0)) ∧
        (s.voteHeld = some (3, winner) → s.job.mismatch = some winner → ∃ t, exec (.voteResult 3 winner) s = .next t ∧
          t.record.phase = 0 ∧ t.job.running = false ∧ t.job.last = 3 ∧ t.record.slot = s.record.slot)) ∧
      (s.fwServes = false → ∀ key v, s.voteHeld = some (key, winner) → (key, v) ∈ [(1, (1 : Byte)), (2, 3), (3, 2)] →
        exec (.voteResult key winner) s = .next { s with record := r v, job := { s.job with decided := some (key, winner) } }))

/-- R39, R191, R331, R340: STEP_ABORT of the step in progress reverts it: VERSION_SLOT, GLOBAL_STEP and the tables of V are kept, every
lane is restored from its SAVED register, the step's collectives are dropped, and the step runs again from FORWARD, or waits in IDLE
for copies of records that cannot be used. While the firmware restarts the abort waits, and one of another step does nothing. -/
def Claims.StepAbortRevertsToVersionV : Prop :=
  ∀ (src : RankStep) (s : State), s.inStep = true →
    (src.step = s.record.globalStep → s.fwServes = true → src.rank ∉ s.job.joined → s.job.haltAt ≠ some s.record.globalStep →
      ∃ t, exec (.stepAbort src) s = .next t ∧ (t.record.phase = 1 ∨ (t.record.phase = 0 ∧ t.job.repair ≠ [])) ∧
        t.record.slot = s.record.slot ∧ t.record.globalStep = s.record.globalStep ∧ t.coll.opened = [] ∧ t.job.last = 2 ∧
        t.job.cnt.get 0 0 = satInc (s.job.cnt.get 0 0) ∧ t.job.own = s.job.own ∧ t.job.held = s.job.held ∧
        (∀ c, (t.core c).lanes = (s.core c).saved ∧ (t.core c).saved = (s.core c).saved ∧ (t.core c).store = (s.core c).store)) ∧
    (src.step = s.record.globalStep → s.fwServes = false → src.rank ∉ s.job.joined →
      exec (.stepAbort src) s = .next { s with job := { s.job with abortDue := some 2 } }) ∧
    (src.step ≠ s.record.globalStep → exec (.stepAbort src) s = .next s)

/-- R335 to R339: a securing pause: it starts after a commit when one is due, with PHASE SECURE and GLOBAL_STEP the next step; a holder
folds pieces into its share and writes its header after the last; the group's COMPLETE reports lead to stage 2; and at its end the
generation advances and the next step starts. -/
def Obligations.SecuringPauseRunsItsStages : Prop :=
  ∀ (member offset takenUs : Nat) (data : List Byte) (digest : W128) (last : Bool) (i : Image) (s : State), s.job.running = true →
    s.job.image = some i →
    let p := s.job.parity
    let j := s.job
    (s.fwServes = true → s.committed = true → s.pauseDue = true → s.job.decided = none → s.job.nextKG = none →
      s.job.haltAt ≠ some s.record.globalStep →
      ∃ t, exec .securePauseStart s = .next t ∧ t.record.phase = 0x0A ∧ t.record.globalStep = s.record.globalStep + 1 ∧
        t.job.pause = 1 ∧ t.job.parity.complete = false ∧ t.job.parity.lastFrom = [] ∧ t.job.copyWritten = true ∧
        t.job.secureNow = false) ∧
    (s.record.phase = 0x0A → j.pause = 1 → j.rebuild = none → p.complete = false → member < j.policy.g → member ∉ p.lastFrom →
      let folded := s.foldShare i offset (allWords data)
      let q : Parity := { p with digests := p.digests.set member digest, lastFrom := if last then member :: p.lastFrom else p.lastFrom }
      (q.lastFrom.length ≠ j.policy.g → exec (.parityPieceReceive member offset data digest last) s =
        .next { folded with job := { j with parity := q } }) ∧
      (q.lastFrom.length = j.policy.g → ∃ t, exec (.parityPieceReceive member offset data digest last) s = .next t ∧
        t.job = { j with parity := { q with
          complete := true, gen := if j.gen = 0xFFFF then 1 else j.gen + 1, group := s.heldGroup s.coll.rank,
          stripe := s.memberOf s.coll.rank, securedStep := s.record.globalStep - 1,
          len := s.groupLen (s.heldGroup s.coll.rank) } } ∧ t.record = s.record)) ∧
    (s.record.phase = 0x0A → j.pause = 1 → member < j.policy.g → member ∉ j.completeFrom →
      exec (.holderCompleteReceive member) s = .next { s with job := { j with completeFrom := member :: j.completeFrom } }) ∧
    (s.record.phase = 0x0A → j.pause = 1 → j.completeFrom.length = j.policy.g → j.copyWritten = true →
      exec .secureStage2Enter s = .next { s with job := { j with pause := 2 } }) ∧
    (s.record.phase = 0x0A → j.pause = 2 → s.fwServes = true → j.repair = [] →
      ∃ t, exec (.securePauseEnd takenUs) s = .next t ∧ t.record.phase = 1 ∧
      t.record.globalStep = s.record.globalStep ∧ t.job.pause = 0 ∧ t.job.cover = true ∧ t.job.sincePause = 0 ∧
      t.job.gen = (if j.gen = 0xFFFF then 1 else j.gen + 1) ∧
      t.job.cnt.get 0 4 = (if j.statedUs.toNat < takenUs then satInc (j.cnt.get 0 4) else j.cnt.get 0 4))

/-- R343 to R348: SPARE_JOIN of a module that may take the rank makes the spare JOINING; fill data is written while the spare fills; a
fill whose digests agree makes the spare VERIFYING until the table names it, and one whose digests do not fills again once and is then
REFUSED. -/
def Obligations.SparesJoinFillAndVerify : Prop :=
  ∀ (n : Fin 8) (i : Image) (rank box : Nat) (idx : Nat) (bs : List Byte) (own held secured : W128) (s : State),
    let j := s.job
    let v := s.record.slot
    j.image = some i →
    (s.serving n 0x0017 → j.spareRank = none → j.spare = 0 → ((s.boxes.get n).lArgs.get 0).toNat = rank → rank < i.shards.length →
      s.spareCheck i rank = none →
      ∃ t, exec (.spareJoin n) s = .next t ∧ t.job.spare = 1 ∧ t.job.spareRank = some (rank, n.val) ∧
        t.record.epoch = ((s.boxes.get n).lArgs.get 1).setWidth 32 ∧ t.boxes = s.boxes ∧
        t.job.seed = fitBytes 32 ((s.boxes.get n).buf.take 32)) ∧
    (j.spare = 2 →
      exec (.fillStreamReceive (.heldRecord idx bs)) s = .next (s.writeRecord i true v idx bs) ∧
      (∃ t, exec (.fillStreamReceive (.ownRecord idx bs)) s = .next t ∧
        t = { s.writeRecord i false v idx bs with record := { s.record with globalStep := t.record.globalStep } })) ∧
    (j.spareRank = some (rank, box) → j.spare = 2 → s.actives.contains s.partnerRank = true →
      let o := s.shardDigest i false v
      let h := o.2.shardDigest i true v
      let img := h.2.copyImage i
      let agrees := o.1 = own ∧ h.1 = held ∧ (s.hasTerrace = true → imageDigest j.key img.1 = secured)
      (agrees → ∃ t, exec (.fillVerify own held secured) s = .next t ∧ t.job.spare = 3 ∧ t.job.digestV = own ∧
        t.job.heldDigestV = held ∧ t.job.cnt.get 0 2 = satInc (j.cnt.get 0 2)) ∧
      (¬agrees →
        (j.fillFailed = false → ∃ t, exec (.fillVerify own held secured) s = .next t ∧ t.job.fillFailed = true ∧ t.job.spare = 2) ∧
        (j.fillFailed = true → ∃ t, exec (.fillVerify own held secured) s = .next t ∧ t.job.spare = 5 ∧ t.job.spareRank = none)))

/-- Words written to the tiers read back; a finished record goes to the other slot, and the pass end publishes DIGEST. -/
def Obligations.WriteBackAndPassEndPublishTheDigest : Prop :=
  Claims.TierWordsReadBack ∧ Claims.WriteBackAndPassEndPublishTheDigest

/-- The vote commits, waits or reverts the step, and STEP_ABORT reverts it to version V. -/
def Obligations.VotesAndAbortsEndTheStep : Prop :=
  Claims.VotesCommitWaitOrRevert ∧ Claims.StepAbortRevertsToVersionV

/-! ### The fabric -/

/-- `s` with port `p` as `y`. -/
def Claims.port (s : State) (p : Fin 6) (y : Port) : State := s.modPort p fun _ => y

/-- R359 to R361, R363, R366: a port sends again what a retry asks for, else a new DATA frame where 120 bytes are ready and the retry
buffer has room, else IDLE, and in training a TRAIN frame; every header carries ACK, a NAK once, and XON; a frame's eight units go out on
the lanes in use in turn. -/
def Claims.FramesGoOutInOrder : Prop :=
  ∀ (p : Fin 6) (s : State),
    let x := s.weir.ports.get p
    let head (type seq : Nat) : List Byte := frameHeader type seq x.rxSeq.toNat x.nak (~~~x.off).toNat
    let x' : Port := { x with nak := false, cnt := if x.nak then bumpBy x.cnt 1 1 else x.cnt }
    let lane (i : Nat) : Nat := if x.laneSet = 1 then i % 8 else if x.laneSet = 2 then 8 + i % 8 else i % 16
    let out (y : Port) (hdr body : List Byte) : State := (Claims.port s p { y with unit := (x.unit + 8) % 16 }).send
      (.frame p.val ((List.range 8).map fun i => lane (x.unit + i)) hdr body)
    (x.state = 1 → exec (.frameTransmit p) s = .next (out x (head 2 0) (s.trainBody p))) ∧
    (x.state = 2 →
      (∀ seq body, 0 < x.resend → x.retry[x.retry.length - x.resend]? = some (seq, body) →
        exec (.frameTransmit p) s = .next (out { x' with resend := x.resend - 1 } (head 0 seq.toNat) body)) ∧
      (x.resend = 0 → x.unlocked = false → x.retry.length < 2048 → 120 ≤ x.txStream.length →
        exec (.frameTransmit p) s = .next (out { x' with
          txSeq := x.txSeq + 1, txStream := x.txStream.drop 120, retry := x.retry ++ [(x.txSeq + 1, x.txStream.take 120)] }
          (head 0 (x.txSeq + 1).toNat) (x.txStream.take 120))) ∧
      (x.resend = 0 → x.unlocked = true ∨ 2048 ≤ x.retry.length ∨ x.txStream.length < 120 →
        exec (.frameTransmit p) s = .next (out x' (head 1 0) (zeroBytes 120))))

/-- R360 to R362: a frame whose HCRC is wrong is counted and ignored; a DATA frame in sequence whose body decoded is accepted and its
SEQ becomes the ACK; any other DATA frame is discarded and asks for a NAK once. -/
def Claims.FramesAreTakenInSequence : Prop :=
  ∀ (p : Fin 6) (hdr body : List Byte) (seq ack : BitVec 12) (xon : Byte) (fecOk : Bool) (a b : Nat) (s : State),
    let x := s.weir.ports.get p
    let cnt := bumpBy (bumpBy x.cnt 2 a) 3 b
    let good := frameHeader 0 seq.toNat ack.toNat false xon.toNat
    x.state = 2 →
    (hdr.length = 8 → hcrc (hdr.take 6) ≠ leNat (hdr.drop 6) →
      exec (.frameReceive p hdr body fecOk a b) s = .next (Claims.port s p { x with cnt := bumpBy cnt 4 1 })) ∧
    (x.retry = [] →
      (fecOk = true → seq = x.rxSeq + 1 → body.length = 120 →
        ∃ t, exec (.frameReceive p good body fecOk a b) s = .next t ∧ t = Claims.port s p (t.weir.ports.get p) ∧
          t.weir.ports.get p = { x with cnt := cnt, silent := false, xonRx := xon, rxSeq := seq, rxStream := x.rxStream ++ body,
                                        nakSent := false, off := (t.weir.ports.get p).off }) ∧
      (fecOk = false ∨ seq ≠ x.rxSeq + 1 → exec (.frameReceive p good body fecOk a b) s = .next (Claims.port s p
        { x with cnt := cnt, silent := false, xonRx := xon, nak := x.nak || !x.nakSent, nakSent := true })))

/-- R363, R364: an ACK removes the frames it covers from the retry buffer and ends the count of retries; a retry timeout sends again
from the oldest frame; the eighth in a row takes the link down. -/
def Claims.RetriesResendThenTakeTheLinkDown : Prop :=
  ∀ (p : Fin 6) (ack : BitVec 12) (xon : Byte) (s : State),
    let x := s.weir.ports.get p
    x.state = 2 →
    (∀ old new, x.retry = old ++ new → old ≠ [] → (∀ f ∈ old, (ack - f.1).toNat < 2048) → (∀ f ∈ new, 2048 ≤ (ack - f.1).toNat) →
      ∃ t, exec (.frameReceive p (frameHeader 1 0 ack.toNat false xon.toNat) (zeroBytes 120) true 0 0) s = .next t ∧
        t = { s with weir := t.weir } ∧ (t.weir.ports.get p).retry = new ∧ (t.weir.ports.get p).retries = 0 ∧
        (t.weir.ports.get p).rxSeq = x.rxSeq) ∧
    (x.retry ≠ [] → x.retries < 7 → exec (.retryTimeout p) s = .next (Claims.port s p
      { x with resend := x.retry.length, retries := x.retries + 1, cnt := bumpBy x.cnt 0 1 })) ∧
    (x.retry ≠ [] → 7 ≤ x.retries → ∃ t, exec (.retryTimeout p) s = .next t ∧ (t.weir.ports.get p).state = 0 ∧
      (t.weir.ports.get p).retry = [] ∧ t.caps = { s.caps with ports := setBit s.caps.ports p.val false, gen := s.caps.gen + 1 } ∧
      t.jets = s.jets ∧ t.tiers = s.tiers ∧ t.job = s.job) ∧
    (x.retry = [] → exec (.retryTimeout p) s = .next s)

/-- R364: 10 µs without a frame, or a lane in use that loses clock recovery, puts an UP port out of lock; a lane that regains it is no
longer lost; 50 µs out of lock declares the link DOWN. -/
def Claims.LockLossTakesTheLinkDown : Prop :=
  ∀ (p : Fin 6) (lane : Fin 16) (s : State),
    let x := s.weir.ports.get p
    (x.state = 2 → exec (.heartbeatTimeout p) s = .next (Claims.port s p { x with silent := true })) ∧
    (x.state = 2 → x.laneUsed lane.val = true →
      exec (.laneLockLoss p lane) s = .next (Claims.port s p { x with lostLanes := x.lostLanes ||| (1#16 <<< lane.val) })) ∧
    (x.state = 2 → x.laneUsed lane.val = false → exec (.laneLockLoss p lane) s = .next s) ∧
    exec (.laneLockRegain p lane) s = .next (Claims.port s p { x with lostLanes := x.lostLanes &&& ~~~(1#16 <<< lane.val) }) ∧
    (x.state = 2 → x.unlocked = true → ∃ t, exec (.lockLossTimeout p) s = .next t ∧ (t.weir.ports.get p).state = 0 ∧
      (t.weir.ports.get p).lostLanes = 0 ∧ t.caps.ports = setBit s.caps.ports p.val false ∧ t.jets = s.jets ∧ t.tiers = s.tiers ∧
      t.job = s.job) ∧
    (x.unlocked = false → exec (.lockLossTimeout p) s = .next s)

/-- R359, R365, R366: a DOWN or REFUSED port with its switch open trains; training that finds the right peer within 600 ns on all 16
lanes or a whole half brings the link UP with SEQ at zero; a wrong peer port, a long round trip and too few lanes are REFUSED with
codes 1, 2 and 3; training that does not end leaves the port DOWN. -/
def Claims.TrainingBringsPortsUpOrRefuses : Prop :=
  ∀ (p : Fin 6) (rep : TrainReport) (s : State),
    let x := s.weir.ports.get p
    let lanes : Option (BitVec 2) := if rep.lanes = 0xFFFF then some 0 else if rep.lanes.extractLsb' 0 8 = 0xFF then some 1
      else if rep.lanes.extractLsb' 8 8 = 0xFF then some 2 else none
    let refused (y : Port) (why : Byte) : State := (Claims.port s p { y with state := 4, refuse := why }).raise 12
    let seen : Port := { x with peer := rep.peerAddr, rtt := BitVec.ofNat 16 rep.rttNs }
    (x.state = 0 ∨ x.state = 4 → s.keeper.closed.getLsbD (p.val / 2) = false →
      exec (.trainingAttempt p) s = .next ((Claims.port s p { x with state := 1 }).raise 12)) ∧
    (s.keeper.closed.getLsbD (p.val / 2) = true → exec (.trainingAttempt p) s = .next s) ∧
    (x.state = 1 →
      (lanes = none → exec (.trainingDone p rep) s = .next (refused x 3)) ∧
      (lanes.isSome → rep.completed = false →
        exec (.trainingDone p rep) s = .next ((Claims.port s p { x with state := 0 }).raise 12)) ∧
      (lanes.isSome → rep.completed = true → rep.peerPort ≠ (otherPort p).val → exec (.trainingDone p rep) s = .next (refused seen 1)) ∧
      (lanes.isSome → rep.completed = true → rep.peerPort = (otherPort p).val → 600 < rep.rttNs →
        exec (.trainingDone p rep) s = .next (refused seen 2)) ∧
      (∀ l, lanes = some l → rep.completed = true → rep.peerPort = (otherPort p).val → rep.rttNs ≤ 600 →
        ∃ t, exec (.trainingDone p rep) s = .next t ∧ t.caps.ports = setBit s.caps.ports p.val true ∧ t.caps.gen = s.caps.gen + 1 ∧
          let y := t.weir.ports.get p
          y.state = 2 ∧ y.laneSet = l ∧ y.txSeq = 0 ∧ y.rxSeq = 0 ∧ y.retry = [] ∧ y.rxStream = [] ∧ y.txStream = [] ∧
          y.peer = rep.peerAddr ∧ y.rtt = BitVec.ofNat 16 rep.rttNs))

/-- R398, R399, R406, R408: in step 7 of start-up the Keeper opens a bypass switch, X before Y before Z, once the ports of the one before
are UP or 5 ms have passed, and its two ports go from BYPASSED to DOWN; a switch that is not energised closes and both its ports are
BYPASSED. -/
def Claims.BypassSwitchesSetPortStates : Prop :=
  ∀ (d : Fin 3) (q : Fin 6) (s : State),
    let k := s.keeper
    let mine := q.val / 2 = d.val
    (k.step = 7 → k.rails = true → (∀ e, d.val ≤ e → e < 3 → k.energised.getLsbD e = false) → s.mayOpen d = true →
      ∃ t, exec (.bypassOpen d) s = .next t ∧
        t = { s with weir := { s.weir with ports := t.weir.ports }
                     keeper := { k with energised := k.energised ||| (1#3 <<< d.val), closed := k.closed &&& ~~~(1#3 <<< d.val),
                                        openNs := k.uptime } } ∧
        t.weir.ports.get q = (if mine ∧ (s.weir.ports.get q).state = 3 then { s.weir.ports.get q with state := 0 }
          else s.weir.ports.get q)) ∧
    (k.energised.getLsbD d.val = false →
      ∃ t, exec (.bypassSwitchClosed d) s = .next t ∧
        t = { s with weir := { s.weir with ports := t.weir.ports }, keeper := { k with closed := k.closed ||| (1#3 <<< d.val) } } ∧
        t.weir.ports.get q = (if mine then { s.weir.ports.get q with state := 3 } else s.weir.ports.get q)) ∧
    (k.energised.getLsbD d.val = true → exec (.bypassSwitchClosed d) s = .next s)

/-- R367, R373 to R376, R378, R385: the module's messages are injected as their packets; at a packet boundary an UP port starts a control
packet that may start before any other; a class whose turn it is sends within its deficit, which the packet's words use up; a port that
is not UP, or whose channels are all OFF, starts nothing. -/
def Claims.OutputsSendByClass : Prop :=
  ∀ (p : Fin 6) (q : Queued) (s : State), s.keeper.rails = true →
    let t := s.inject
    let x := t.weir.ports.get p
    let now := s.uptime
    let bs := ({ q.pkt with hops := q.pkt.hops + 1 } : Packet).bytes
    let started (y : Port) : State := Claims.port t p { y with
      outQ := x.outQ.erase q, txStream := x.txStream ++ bs, inFlight := x.inFlight ++ [(q, bs.length)]
      sentWin := (now, q.pkt.channel, q.pkt.words) :: x.sentWin.filter fun e => decide (now < e.1 + x.rtt.toNat) }
    (x.state = 2 → x.head now 3 = some q → exec (.packetSendStart p) s = .next (started x)) ∧
    (x.state = 2 → x.head now 3 = none → x.head now x.turn = some q → q.pkt.words ≤ x.deficit.get 0 x.turn →
      exec (.packetSendStart p) s = .next (started { x with deficit := x.deficit.set x.turn (x.deficit.get 0 x.turn - q.pkt.words) })) ∧
    (x.state ≠ 2 ∨ x.xonRx = 0 → exec (.packetSendStart p) s = .next t) ∧
    (s.weir.taken = s.outbox.length → s.weir.injQ = [] → t = s) ∧
    (∀ k m, s.weir.taken + 1 = s.outbox.length → s.outbox.getLast? = some m → s.toPackets s.weir.taken m = [k] → s.weir.injQ = [] →
      s.mayInject k = true → t = ({ s with weir := { s.weir with taken := s.weir.taken + 1 } } : State).injectOne k)

/-- R367 to R369, R383, R390: a whole packet received without errors leaves the receive stream; one for this module in a live epoch is
delivered; one of an epoch that is not live, one whose opcode and class disagree and one with 128 hops are discarded and counted. -/
def Claims.PacketsAreDeliveredOrDiscarded : Prop :=
  ∀ (p : Fin 6) (k : Packet) (rest : List Byte) (s : State),
    let x := s.weir.ports.get p
    let w := s.weir
    let b := w.bank k.epoch
    let e := 8 * k.epoch.toNat + k.channel
    let counted (t : State) (c : Nat) : Prop := t = { s with weir := t.weir } ∧ (t.weir.ports.get p).rxStream = rest ∧
      t.weir.cnt.get 0 c = satInc (w.cnt.get 0 c) ∧ t.weir.delivered = w.delivered ∧ t.weir.epIn.get 0 e = w.epIn.get 0 e + 1 ∧
      t.weir.epOut.get 0 e = w.epOut.get 0 e + 1
    x.rxStream = k.bytes ++ rest → k.payload.length < 256 → k.rsvd < 2 ^ 35 → k.hops < 256 →
    (∀ q ∈ k.payload, ∃ d, d.length = 32 ∧ q = encodeWord d) →
    (k.opOk = true → w.epochLive k.epoch = true → k.hops < 128 → k.dest.toNat = b.addr → (b.overrides.get 0 b.addr).getLsbD 15 = false →
      k.mark = false → k.opcode ≠ 3 →
      ∃ t, exec (.packetReceive p) s = .next t ∧ t = { s with weir := t.weir } ∧ t.weir.delivered = w.delivered ++ [k] ∧
        (t.weir.ports.get p).rxStream = rest ∧ t.weir.cnt = w.cnt ∧ t.weir.epIn.get 0 e = w.epIn.get 0 e + 1 ∧
        t.weir.epOut.get 0 e = w.epOut.get 0 e + 1) ∧
    (k.opOk = false → ∃ t, exec (.packetReceive p) s = .next t ∧ counted t 5) ∧
    (k.opOk = true → w.epochLive k.epoch = false → ∃ t, exec (.packetReceive p) s = .next t ∧ counted t 0) ∧
    (k.opOk = true → w.epochLive k.epoch = true → 128 ≤ k.hops → ∃ t, exec (.packetReceive p) s = .next t ∧ counted t 2)

/-- R379, R380: with no override, no break and no gap, a packet goes along the first dimension in which it differs, X before Y before Z,
the shorter way round, and at equal distances + from an even coordinate and - from an odd one. -/
def Claims.RoutesGoTheShorterWay : Prop :=
  ∀ (k : Packet) (arr : Option (Fin 6)) (d : Fin 3) (w : Weir),
    let b := w.bank k.epoch
    let dest := k.dest.toNat
    let n := b.size d
    let ahead := (coordOf dest d + n - b.own d) % n
    let plus := ahead < n - ahead ∨ (ahead = n - ahead ∧ b.own d % 2 = 0)
    k.esc = false → (b.overrides.get 0 dest).getLsbD 15 = false → dest ≠ b.addr → (∀ e < d.val, coordOf dest e = b.own e) →
    coordOf dest d ≠ b.own d → b.own d < n → coordOf dest d < n → w.breaks.get [] d = [] →
    (∀ q, w.inGap b q dest = false) →
    ∃ vc, w.route k arr = .out ⟨2 * d.val + (if plus then 1 else 0), by split <;> omega⟩ vc

/-- R370, R391: with the tiers in canonical form, a WRITE to a range opened to its source stores its words, a lost word as lost; any other
WRITE is discarded and counted. -/
def Claims.WritesReachOpenRanges : Prop :=
  ∀ (k : Packet) (d : List Byte) (a c : Nat) (s : State),
    let u : State := { s with weir := { s.weir with delivered := s.weir.delivered.erase k } }
    k.opcode = 1 → k.opOk = true →
    (s.writeOpen k = false → exec (.write k) s = .next { u with weir := { u.weir with cnt := bump s.weir.cnt 4 } }) ∧
    (s.writeOpen k = true → k.addr.toNat % 2 ^ 48 = a → a % 32 = 0 → s.canon a = some c → c % 32 = 0 → s.deadGranule c = false →
      Mem.wf s.tiers = true →
      (d.length = 32 → k.payload = [encodeWord d] → ∃ t, exec (.write k) s = .next t ∧ t = { u with tiers := t.tiers } ∧
        rawWord t.tiers (c / 32) = encodeWord d ∧ ∀ q, q ≠ c / 32 → rawWord t.tiers q = rawWord s.tiers q) ∧
      (k.payload = [lostWord] → ∃ t, exec (.write k) s = .next t ∧ t = { u with tiers := t.tiers } ∧
        rawWord t.tiers (c / 32) = lostWord ∧ ∀ q, q ≠ c / 32 → rawWord t.tiers q = rawWord s.tiers q))

/-- R395: an ECHO halves its flow's rate, to no less than 1 GB/s and at most once in 4 µs; 8 µs without one raises it by 2 GB/s, to no
more than 400; every other flow keeps its rate. -/
def Claims.EchoesHalveAndTimeRaisesRates : Prop :=
  ∀ (dest : BitVec 15) (cls : BitVec 2) (f : Flow) (s : State), f ∈ s.weir.flows →
    let mine := f.dest = dest ∧ f.cls = cls
    let ago (t : Option W64) (n : Nat) : Prop := ∀ x, t = some x → x.toNat + n ≤ s.keeper.uptime.toNat
    (∃ t, exec (.echo dest cls) s = .next t ∧ t = { s with weir := { s.weir with flows := t.weir.flows } } ∧
      (¬mine → f ∈ t.weir.flows) ∧
      (mine → ∃ g ∈ t.weir.flows, g.dest = dest ∧ g.cls = cls ∧ g.echoed = some s.keeper.uptime ∧
        (ago f.halved 4000 → g.rate = max 1 (f.rate / 2) ∧ g.halved = some s.keeper.uptime) ∧
        (¬ago f.halved 4000 → g.rate = f.rate ∧ g.halved = f.halved))) ∧
    (∃ t, exec (.flowRateIncrease dest cls) s = .next t ∧ t = { s with weir := { s.weir with flows := t.weir.flows } } ∧
      (¬mine → f ∈ t.weir.flows) ∧
      (mine → ago f.echoed 8000 → { f with rate := min 400 (f.rate + 2), echoed := some s.keeper.uptime } ∈ t.weir.flows) ∧
      (mine → ¬ago f.echoed 8000 → f ∈ t.weir.flows))

/-- R396, R397: a ripple sample counts each receive buffer in the 4 KiB band of its occupancy; the end of an interval keeps the
histograms as a record, at most 64; a request sends the records asked for. -/
def Claims.RippleMapsCountBuffers : Prop :=
  ∀ (src : BitVec 15) (first : W64) (count : Nat) (s : State), s.keeper.rails = true →
    let w := s.weir
    (∃ t, exec .rippleSample s = .next t ∧ t = { s with weir := { w with hist := t.weir.hist } } ∧
      ∀ (p : Fin 6) (v : Fin 8) (k : Fin 16), t.weir.hist.get 0 (128 * p.val + 16 * v.val + k.val) =
        w.hist.get 0 (128 * p.val + 16 * v.val + k.val) + (if min 15 ((w.ports.get p).occupied v.val / 4096) = k.val then 1 else 0)) ∧
    (w.records.length ≤ 64 → ∃ t, exec .rippleRecordClose s = .next t ∧
      t = { s with weir := { w with records := t.weir.records, hist := [], histUp := t.weir.histUp } } ∧
      t.weir.records.length = min 64 (w.records.length + 1) ∧
      (let k := s.keeper.uptime.toNat / 100000 - 1
       t.weir.records.getLast? = some (BitVec.ofNat 64 (100000 * k), BitVec.ofNat 64 k, w.histUp, w.hist)) ∧
      ∀ p : Fin 6, t.weir.histUp.getLsbD p.val = decide ((w.ports.get p).state = 2)) ∧
    exec (.rippleMapRequest src first count) s = .next { s with outbox := s.outbox ++
      ((w.records.filter fun r => decide (first.toNat ≤ r.2.1.toNat)).take count).map fun r => .ripple src.toNat r.2.1 }

/-- R387, R388: a notice of a break that is new is added to the ring's list, of at most four, recorded as RING_LINE and passed on out of
the other port of the dimension; a known break changes nothing; a notice that clears the last break records RING_WHOLE. -/
def Claims.RingNoticesSpreadOnce : Prop :=
  ∀ (p : Fin 6) (dim : Fin 3) (coord span : Nat) (s : State), p.val / 2 = dim.val →
    let bs := s.weir.breaks.get [] dim.val
    let pass (clear : Bool) (t : State) : State := if (s.weir.ports.get (otherPort p)).state = 2 then
      t.send (.notice (otherPort p).val dim.val coord span clear) else t
    (coord ∉ bs → bs.length < 4 → exec (.ringNotice p dim coord span false) s = .next (pass false
      (({ s with weir := { s.weir with breaks := s.weir.breaks.set dim.val (bs ++ [coord]) }
                 coll := { s.coll with opened := s.coll.opened.map fun c => { c with line := setBit c.line dim.val true } } } : State).event
        0x0053 2 srcWeir [p.val, coord, dim.val]))) ∧
    (coord ∈ bs → exec (.ringNotice p dim coord span false) s = .next s) ∧
    (bs = [coord] → 1 ≤ span → coord < (s.weir.bank s.weir.inj).size dim.val →
      exec (.ringNotice p dim coord span true) s = .next (pass true
        (({ s with weir := { s.weir with breaks := s.weir.breaks.set dim.val []
                                         tooMany := setBit s.weir.tooMany dim.val false } } : State).event
          0x0054 1 srcWeir [p.val, coord, dim.val]))) ∧
    (bs = [] → exec (.ringNotice p dim coord span true) s = .next s)

/-- R384, R386, R397, R489: ROUTE_STAGE writes the idle bank and completes; FLIP takes the next epoch into use; RELEASE ends an old
epoch; GET_RIPPLE_MAP gives the records asked for. -/
def Claims.RouteCommandsSwitchBanks : Prop :=
  ∀ (n : Fin 8) (entries : List W16) (s : State),
    let b := s.boxes.get n
    let w := s.weir
    let next := w.inj + 1
    let done (u : State) (bytes : List Byte) : State := u.complete n 0 0 bytes
    (s.serving n 0x0021 → b.arg 2 ≤ entries.length → (∀ i < b.arg 2, (entries.getD i 0).extractLsb' 0 11 = 0 ∧
        ((entries.getD i 0).extractLsb' 12 4 = 0xE → b.arg 1 + i = (stageGeometry w.idle (b.arg 0)).addr)) →
      ∃ u : State, exec (.routeStage n entries) s = .next (done u (leBytes 4 u.weir.routeStatus)) ∧
        u = { s with weir := { w with bank0 := u.weir.bank0, bank1 := u.weir.bank1, staged := b.arg 4 == 1 } } ∧
        u.weir.bank w.inj = w.bank w.inj ∧
        u.weir.bank next = { stageGeometry w.idle (b.arg 0) with overrides := (u.weir.bank next).overrides } ∧
        ∀ dest, (u.weir.bank next).overrides.get 0 dest =
          if b.arg 1 ≤ dest ∧ dest < b.arg 1 + b.arg 2 then entries.getD (dest - b.arg 1) 0 else w.idle.overrides.get 0 dest) ∧
    (s.serving n 0x0022 → b.arg 0 = 0 →
      let u : State := { s with weir := { w with inj := next, live := w.live ||| (1#4 <<< next.toNat), staged := false } }
      exec (.routeCommitFlip n) s = .next (done u (leBytes 4 u.weir.routeStatus))) ∧
    (s.serving n 0x0022 → b.arg 0 = 1 →
      let u : State := { s with weir := { w with live := w.live &&& ~~~(1#4 <<< b.arg 1) } }
      exec (.routeCommitRelease n) s = .next (done u (leBytes 4 u.weir.routeStatus))) ∧
    (s.serving n 0x0023 → exec (.getRippleMap n) s = .next (done s
      (((w.records.filter fun r => decide (b.arg 0 ≤ r.2.1.toNat)).take (b.arg 1)).flatMap rippleBytes)))

/-- Ports send, accept and resend frames in sequence, and eight retries take the link down. -/
def Obligations.LinksExchangeAndRetryFrames : Prop :=
  Claims.FramesGoOutInOrder ∧ Claims.FramesAreTakenInSequence ∧ Claims.RetriesResendThenTakeTheLinkDown

/-- Training brings ports up or refuses them; loss of lock and bypass switches take them down. -/
def Obligations.LinksTrainAndGoDown : Prop :=
  Claims.LockLossTakesTheLinkDown ∧ Claims.TrainingBringsPortsUpOrRefuses ∧ Claims.BypassSwitchesSetPortStates

/-- Packets leave by class, go the shorter way, and are delivered or discarded; route commands switch banks. -/
def Obligations.PacketsAreSentRoutedAndDelivered : Prop :=
  Claims.OutputsSendByClass ∧ Claims.PacketsAreDeliveredOrDiscarded ∧ Claims.RoutesGoTheShorterWay ∧ Claims.RouteCommandsSwitchBanks

/-- WRITE, ECHO, ripple maps and ring notices act as their rules say. -/
def Obligations.FabricServicesActOnTheirPackets : Prop :=
  Claims.WritesReachOpenRanges ∧ Claims.EchoesHalveAndTimeRaisesRates ∧ Claims.RippleMapsCountBuffers ∧ Claims.RingNoticesSpreadOnce

/-! ### Collectives and membership -/

/-- R27, R409, R423, R432: a member that is HELD opens the collective of a node that has started, as the node declares it, with its own
contribution, the step and the epoch; EXCHANGE's opens in its phase once START is there, without the leaves START names absent. A member
that is not HELD opens nothing, and neither does one whose node has not started. -/
def Claims.CollectivesOpenWhileHeld : Prop :=
  ∀ (coll occ chunks : Nat) (op : CollOp) (fmt : CollFmt) (own : Tbl ChunkData) (s : State),
    let c := s.coll
    let opens (t : State) (mine : Tbl ChunkData) (absent : List Nat) : Prop :=
      t = { s with coll := t.coll, sluice := t.sluice, cxl := t.cxl, outbox := t.outbox, job := t.job } ∧
      t.job = { s.job with leftOut := t.job.leftOut } ∧
      ∃ x ∈ t.coll.opened, x.coll = coll ∧ x.occ = occ ∧ x.op = op ∧ x.fmt = fmt ∧ x.chunks = chunks ∧ x.own = mine ∧
        x.step = s.record.globalStep ∧ x.epoch = s.record.epoch ∧ x.absent = absent
    (s.job.running = true → s.record.held = true → c.state = 1 → coll < 0xFFE → s.collDue coll occ op fmt chunks = true →
      (∀ x ∈ c.opened, x.coll ≠ coll ∨ x.occ ≠ occ) → 16 * coll + occ ∉ c.finished →
      (s.isExchange coll = false → ∃ t, exec (.collectiveOpen coll occ op fmt chunks own) s = .next t ∧ opens t own []) ∧
      (s.isExchange coll = true → c.started = none → exec (.collectiveOpen coll occ op fmt chunks own) s = .next s) ∧
      (∀ absent carried, s.isExchange coll = true → c.started = some (absent, carried) → s.record.phase = 6 → s.job.carried = none →
        ∃ t, exec (.collectiveOpen coll occ op fmt chunks own) s = .next t ∧ opens t own absent)) ∧
    (s.record.held = false ∨ s.collDue coll occ op fmt chunks = false →
      exec (.collectiveOpen coll occ op fmt chunks own) s = .next s)

/-- R416 to R418, R420, R426: a chunk of the current epoch that is new and whole is accepted, to be acknowledged, and waits or takes
its place in its collective; one of another epoch is counted stale, one seen before counted and acknowledged again, and one with a
lost word counted and not accepted. -/
def Claims.ChunksAreAcceptedOnce : Prop :=
  ∀ (src : Nat) (id : ChunkId) (data : ChunkData) (lost : Bool) (s : State),
    s.job.running = true → s.isMember = true →
    let i : Instr := if id.kind = .result then .resultReceive src id data lost else .chunkReceive src id data lost
    let known := ∃ b, (src, id, b) ∈ s.coll.accepted
    let counted (k : Nat) (t : State) : Prop := t.coll.cnt.get 0 k = satAdd (s.coll.cnt.get 0 k) 1 ∧ t.coll.opened = s.coll.opened ∧
      t.coll.early = s.coll.early ∧ t.coll.sent = s.coll.sent ∧ t = { s with coll := t.coll, outbox := t.outbox }
    (id.epoch ≠ s.record.epoch → ∃ t, exec i s = .next t ∧ counted 2 t ∧ t.coll.accepted = s.coll.accepted ∧ t.outbox = s.outbox) ∧
    (id.epoch = s.record.epoch → s.olderStep id.step = false →
      (known → ∃ t, exec i s = .next t ∧ counted 1 t ∧ ∃ c bitmap, t.outbox = s.outbox ++ [.ack src { id with c := c } bitmap]) ∧
      (¬known → lost = true → ∃ t, exec i s = .next t ∧ counted 3 t ∧ t.coll.accepted = s.coll.accepted ∧ t.outbox = s.outbox) ∧
      (¬known → lost = false → (∀ x ∈ s.coll.opened, x.coll ≠ id.coll ∨ x.occ ≠ id.occ) →
        (s.coll.accepted.filter fun e => e.1 == src && sameStream e.2.1 id && !e.2.2).length < 1023 →
        ∃ t, exec i s = .next t ∧ t = { s with coll := t.coll, sluice := t.sluice } ∧
          t.coll = { s.coll with accepted := s.coll.accepted ++ [(src, id, false)], early := s.coll.early ++ [(id, data)] }))

/-- R130, R411, R416: a node whose two children are present at the rank that evaluates it is evaluated once as node_add of the left and
the right child in the tree, its children are dropped, and its value goes to its parent's rank. -/
def Claims.NodesAddTheirChildren : Prop :=
  ∀ (x : OpenColl) (c a m r : Nat) (pr : Nat × Nat) (l q : ChunkData) (s : State),
    let p := 2 ^ Nat.log2 (m - 1)
    let v := chunkAdd x.op x.fmt l q
    let child (n : Nat × Nat × Nat × ChunkData) : Bool :=
      n.2.2.1 == c && ((n.1 == a && n.2.1 == p) || (n.1 == a + p && n.2.1 == m - p))
    s.findColl x.coll x.occ = some x → 2 ≤ m → m < s.tableRanks → c < x.chunks → (treeNodes 64 0 s.tableRanks).contains (a, m) = true →
    (a, m, c) ∉ x.evald → s.evalRank x a m c = some s.coll.rank → treeParent 64 0 s.tableRanks (a, m) = some pr →
    s.evalRank x pr.1 pr.2 c = some r → r ≠ s.coll.rank → s.coll.storeRoom = true →
    (x.nodes.find? fun n => n.1 == a && n.2.1 == p && n.2.2.1 == c) = some (a, p, c, l) →
    (x.nodes.find? fun n => n.1 == a + p && n.2.1 == m - p && n.2.2.1 == c) = some (a + p, m - p, c, q) →
      ∃ t, exec (.nodeEvaluate x.coll x.occ c a m) s = .next t ∧
        t = { s with coll := t.coll, outbox := s.outbox ++ [.chunk r ⟨.partialNode, x.coll, x.occ, a, m, c,
          BitVec.ofNat 32 x.step.toNat, x.epoch⟩ v.1] } ∧
        t.coll.opened = s.coll.opened.map (fun y => if y.coll = x.coll ∧ y.occ = x.occ then
          { y with nodes := y.nodes.filter (!child ·), evald := (a, m, c) :: y.evald } else y) ∧
        t.coll.cnt.get 0 6 = (if v.2.engine = 0 then s.coll.cnt.get 0 6 else satAdd (s.coll.cnt.get 0 6) v.2.engine)

/-- R418 to R420: an ACK frees exactly the chunks it covers; a chunk still unacknowledged is sent again and counted, the fifth time
reporting its destination; one whose contribution cannot be read aborts the step. The acknowledgement timer acknowledges what has
been accepted. -/
def Claims.ChunksAreKeptUntilAcknowledged : Prop :=
  ∀ (src : Nat) (id : ChunkId) (bitmap : List Bool) (x : Sent) (s : State),
    (∃ t, exec (.chunkAckReceive src id bitmap) s = .next t ∧ t = { s with coll := { s.coll with sent := t.coll.sent } } ∧
      (x ∈ t.coll.sent ↔ x ∈ s.coll.sent ∧ ¬(x.dest = src ∧ sameStream x.id id = true ∧ x.id.epoch = id.epoch ∧ id.c ≤ x.id.c ∧
        bitmap.getD (x.id.c - id.c) false = true))) ∧
    ((s.coll.sent.find? fun y => y.dest == x.dest && y.id == x.id) = some x →
      (x.resends ≠ 4 → ∃ t, exec (.chunkRetransmit x.dest x.id true) s = .next t ∧
        t = { s with coll := t.coll, outbox := s.outbox ++ [.chunk x.dest x.id x.data] } ∧
        t.coll = { s.coll with sent := t.coll.sent, cnt := bumpBy s.coll.cnt 0 1 } ∧
        { x with resends := x.resends + 1 } ∈ t.coll.sent) ∧
      (x.resends = 4 → ∃ t, exec (.chunkRetransmit x.dest x.id true) s = .next t ∧
        t.record = (s.reportSuspect (BitVec.ofNat 15 x.dest) 1).record) ∧
      (x.id.kind ≠ .partialNode → ∃ addr, exec (.chunkRetransmit x.dest x.id false) s = .next
        ((({ s with freeCount := s.freeCount + 1 } : State).event 0x0059 3 srcColl [x.id.coll, addr]).abortStep))) ∧
    (∀ c, (s.coll.accepted.filter fun e => e.1 == src && sameStream e.2.1 id) = [(src, { id with c := c }, false)] →
      ∃ t, exec (.chunkAckTimer src id) s = .next t ∧
        t = { s with coll := { s.coll with accepted := t.coll.accepted }, outbox := s.outbox ++ [.ack src { id with c := c } [true]] } ∧
        ∀ e ∈ t.coll.accepted, e.1 = src → sameStream e.2.1 id = true → e.2.2 = true)

/-- R409, R419, R421: a collective is complete once its outputs are held, its nodes evaluated and its chunks acknowledged; it is then
closed, its results in its node's tensor, and one that met a line is counted and recorded. One that is not complete goes on. -/
def Claims.CollectivesCloseWhenComplete : Prop :=
  ∀ (x : OpenColl) (s : State), s.findColl x.coll x.occ = some x →
    let sending := ∃ y ∈ s.coll.sent, y.id.coll = x.coll ∧ y.id.occ = x.occ
    (s.holdsOutputs x = false ∨ s.nodesDone x = false ∨ sending → exec (.collectiveComplete x.coll x.occ) s = .next s) ∧
    (s.holdsOutputs x = true → s.nodesDone x = true → ¬sending → s.isExchange x.coll = false → x.coll ≠ 0xFFE →
      let d := s.delivered x
      (x.op = .allGather → d = s) ∧
      ∃ t, exec (.collectiveComplete x.coll x.occ) s = .next t ∧
        t = { d with coll := t.coll, sluice := t.sluice, cxl := t.cxl, log := t.log, outbox := t.outbox
                     record := { d.record with doneStep := t.record.doneStep, doneMask := t.record.doneMask } } ∧
        t.coll.opened = d.coll.opened.filter (fun y => !(y.coll == x.coll && y.occ == x.occ)) ∧
        t.coll.finished = (16 * x.coll + x.occ) :: d.coll.finished ∧ t.coll.outputs.get [] (16 * x.coll + x.occ) = x.results ∧
        t.coll.cnt.get 0 5 = (if x.line = 0 then d.coll.cnt.get 0 5 else satAdd (d.coll.cnt.get 0 5) 1))

/-- R310 to R313, R422, R423: the leader opens the window at half the READYs, and on the last, or at the window's length after it opened
once the first 8 steps are over, sends START naming every other rank absent; START opens the T_AGREED broadcast from the lowest present
rank. -/
def Claims.ReadyAndStartOpenTheExchange : Prop :=
  ∀ (rank : Nat) (carried : Bool) (absent cs : List Nat) (s : State), s.job.running = true → s.isMember = true →
    let c := s.coll
    let held := s.actives.filter (rank :: c.readyFrom).contains
    let starts (t : State) (ab ca : List Nat) : Prop := t.coll.started = some (ab, ca) ∧ t.coll.window = false ∧
      t.coll.startNs = s.keeper.uptime ∧ t.record.globalStep = s.record.globalStep ∧ t.record.phase = s.record.phase ∧
      t.coll.carrying = (if s.job.policy.drop = 1 then [] else s.actives.filter ab.contains) ∧
      ∀ p, s.actives.find? (!ab.contains ·) = some p → ∃ x ∈ t.coll.opened, x.coll = 0xFFE ∧ x.op = .broadcast p
    (s.leader = c.rank → rank ∈ s.actives → rank ∉ c.readyFrom → c.started = none →
      (2 * held.length < s.actives.length ∨ (held.length < s.actives.length ∧ s.actives.length ≤ 2 * held.length) →
        exec (.ready rank carried) s = .next { s with coll := { c with
          readyFrom := rank :: c.readyFrom, readyCarried := if carried then rank :: c.readyCarried else c.readyCarried
          window := c.window || decide (s.actives.length ≤ 2 * held.length)
          openNs := if c.window = false ∧ s.actives.length ≤ 2 * held.length then s.keeper.uptime else c.openNs } }) ∧
      (held.length = s.actives.length → ∃ t, exec (.ready rank carried) s = .next t ∧
        starts t ((List.range s.tableRanks).filter (!s.actives.contains ·))
          (s.actives.filter (if carried then rank :: c.readyCarried else c.readyCarried).contains))) ∧
    (s.leader = c.rank → c.window = true →
      (8 ≤ s.job.stepsRun → c.openNs.toNat + s.windowNs ≤ s.uptime → ∃ t, exec .exchangeWindowClose s = .next t ∧
        starts t ((List.range s.tableRanks).filter fun r => !(s.actives.contains r && c.readyFrom.contains r))
          ((s.actives.filter c.readyFrom.contains).filter c.readyCarried.contains)) ∧
      (s.job.stepsRun < 8 ∨ s.uptime < c.openNs.toNat + s.windowNs → exec .exchangeWindowClose s = .next s)) ∧
    (s.leader ≠ c.rank → c.started = none → ∃ t, exec (.start absent cs) s = .next t ∧ starts t absent cs)

/-- R29: a report takes the next of 16 queue entries and is kept while all are unread; reading takes every unread entry and writes the
reports kept into the entries that opened. -/
def Claims.SuspectQueueHoldsSixteen : Prop :=
  ∀ (rank : BitVec 15) (cause : BitVec 4) (s : State),
    let r := s.record
    let unread := (r.put - r.take).toNat
    let w : W32 := (cause ++ (0 : BitVec 1) ++ rank).setWidth 32
    (cause = 1 ∨ cause = 2 →
      (unread < 16 → ∃ t, exec (.suspectEntryWrite rank cause) s = .next t ∧ t = { s with record := t.record } ∧
        t.record = { r with suspects := t.record.suspects, put := r.put + 1 } ∧
        ∀ i : Fin 16, t.record.suspects.get i = if i.val = r.put.toNat % 16 then w else r.suspects.get i) ∧
      (16 ≤ unread → exec (.suspectEntryWrite rank cause) s = .next { s with record := { r with kept := r.kept ++ [w] } })) ∧
    (s.fwServes = true → s.isMember = false → r.kept = [] →
      exec .suspectEntryRead s = .next { s with record := { r with take := r.put } }) ∧
    (s.fwServes = true → s.isMember = true → r.kept = [] → unread = 1 → s.coll.state = 1 →
      let who := (r.suspects.get ⟨r.take.toNat % 16, by omega⟩).toNat % 2 ^ 15
      who ∈ s.actives → who ≠ s.coll.rank → who ∉ s.coll.suspects →
        ∃ t, exec .suspectEntryRead s = .next t ∧ t.record.take = r.put ∧ t.coll.suspects = s.coll.suspects ++ [who])

/-- R426, R428, R429: a member sends LIVE to its two neighbours and notes the LIVEs it receives of its epoch or a newer one; a neighbour
silent for 750 µs is suspected, which makes the lowest rank not suspected propose, and any other member tell it; a suspicion that no
PROPOSE answers within 1 ms makes the member propose itself. -/
def Claims.SilentNeighboursAreSuspected : Prop :=
  ∀ (rank : Nat) (epoch : W32) (suspects : List Nat) (s : State), s.isMember = true →
    let c := s.coll
    let n := s.tableRanks
    let lost := !c.lives.has rank || decide ((c.lives.get 0 rank).toNat + 750000 ≤ s.keeper.uptime.toNat)
    let proposing (t : State) (S : List Nat) : Prop := t.coll.state = 3 ∧ t.coll.suspects = S ∧
      (∃ r, t.coll.round = some r ∧ r.proposer = c.rank ∧ r.suspects = S ∧ r.answers = []) ∧
      t.outbox = s.outbox ++ (s.actives.filter fun r => !S.contains r && r != c.rank).map fun r => .proposal r "PROPOSE" s.record.epoch S
    exec .liveSend s = .next { s with outbox := s.outbox ++
      [.packet (nextRank n c.rank) "LIVE" [s.record.epoch.toNat, c.rank], .packet (prevRank n c.rank) "LIVE" [s.record.epoch.toNat, c.rank]] } ∧
    (epoch = s.record.epoch → exec (.live rank epoch) s = .next { s with coll := { c with lives := c.lives.set rank s.keeper.uptime } }) ∧
    (epochNewer s.record.epoch epoch = true → exec (.live rank epoch) s = .next s) ∧
    ((rank = nextRank n c.rank ∨ rank = prevRank n c.rank) → lost = true → rank ∈ s.actives → rank ≠ c.rank → c.suspects = [] → c.state = 1 →
      (∀ low, s.actives.find? (· != rank) = some low →
        (low = c.rank → ∃ t, exec (.liveTimeout rank) s = .next t ∧ proposing t [rank]) ∧
        (low ≠ c.rank → ∃ t, exec (.liveTimeout rank) s = .next t ∧ t.coll = { c with suspects := [rank], state := 2 } ∧
          t.outbox = s.outbox ++ [.proposal low "SUSPECT" s.record.epoch [rank]] ∧ t.job = s.job))) ∧
    (lost = false → exec (.liveTimeout rank) s = .next s) ∧
    (epoch = s.record.epoch → c.suspects = [] → c.state = 1 → suspects ≠ [] → suspects.Nodup →
      (∀ r ∈ suspects, r ∈ s.actives ∧ r ≠ c.rank) →
      ∃ t, exec (.suspect rank epoch suspects) s = .next t ∧ proposing t suspects) ∧
    (c.state = 2 → ∃ t, exec .suspectWaitTimeout s = .next t ∧ proposing t c.suspects)

/-- R427, R430, R433, R434: a PROPOSE that does not name the member is answered; an ACCEPT is kept until every rank has answered; then,
or after 2 ms, the proposer commits the next epoch with quorum and otherwise abandons and fences. -/
def Claims.RoundsCommitWithQuorum : Prop :=
  ∀ (src : Nat) (suspects : List Nat) (complete : Bool) (t0 : MembTable) (r : Round) (s : State), s.isMember = true →
    let c := s.coll
    (src ∈ s.actives → c.rank ∉ suspects → c.round = none →
      ∃ t, exec (.propose src s.record.epoch suspects) s = .next t ∧ t.coll.state = 4 ∧ t.record.held = false ∧
        t.coll.round = some ⟨src, suspects, [], none⟩ ∧
        ∃ args, t.outbox = s.outbox ++ [.packet src "ACCEPT" ([s.record.epoch.toNat, args] ++ c.suspects)]) ∧
    (c.rank ∈ suspects → exec (.propose src s.record.epoch suspects) s = .next s) ∧
    (c.round = some r → c.state = 3 → src ∈ s.actives → src ∉ r.suspects → (∀ a ∈ r.answers, a.1 ≠ src) →
      (∃ x ∈ s.actives, x ≠ c.rank ∧ x ≠ src ∧ x ∉ r.suspects ∧ ∀ a ∈ r.answers, a.1 ≠ x) →
      exec (.accept src s.record.epoch suspects complete) s = .next { s with coll := { c with
        round := some { r with answers := r.answers ++ [(src, suspects, complete)] } } }) ∧
    (c.round = some r → c.state = 3 → c.table = some t0 → r.entry = none → c.joins = [] → s.job.running = false →
      let answered := c.rank :: r.answers.map (·.1)
      let S := (MembTable.actives t0).filter fun x => r.suspects.contains x || !answered.contains x
      (MembTable.quorum t0 answered = true → ∃ t, exec .roundTimeout s = .next t ∧ t.record.epoch = t0.epoch + 1 ∧
        t.coll.table = some (nextTable t0 S none) ∧ t.coll.state = 1 ∧ t.record.held = true ∧ t.coll.round = none ∧
        t.coll.suspects = [] ∧ t.coll.opened = []) ∧
      (MembTable.quorum t0 answered = false → ∃ t, exec .roundTimeout s = .next t ∧ t.coll.state = 5 ∧ t.record.phase = 0x0B ∧
        t.job.running = false ∧ t.record.slot = s.record.slot))

/-- R433, R434: a newer table that holds the member is adopted, its epoch with it, and every open collective is abandoned; one that names
the member FAILED, an ABANDON, and 5 ms without an outcome fence it: PHASE FENCED, the job stopped, VERSION_SLOT kept. An older table
changes nothing. -/
def Claims.CommitsAdoptOrFence : Prop :=
  ∀ (src : Nat) (table : MembTable) (complete : Bool) (s : State), s.isMember = true → s.job.spareRank = none →
    let c := s.coll
    let fenced (i : Instr) : Prop := ∃ t, exec i s = .next t ∧ t.coll.state = 5 ∧ t.record.phase = 0x0B ∧ t.record.held = false ∧
      t.job.running = false ∧ t.record.slot = s.record.slot ∧ t.record.epoch = s.record.epoch ∧ t.coll.opened = [] ∧
      t.coll.cnt.get 0 9 = satAdd (s.coll.cnt.get 0 9) 1 ∧ t.tiers = s.tiers ∧ t.jets = s.jets
    (epochNewer table.epoch s.record.epoch = false → exec (.commit table complete) s = .next s) ∧
    (epochNewer table.epoch s.record.epoch = true → MembTable.st table c.rank = 1 → fenced (.commit table complete)) ∧
    (epochNewer table.epoch s.record.epoch = true → MembTable.st table c.rank ≠ 1 → s.job.running = false →
      ∃ t, exec (.commit table complete) s = .next t ∧ t.coll.table = some table ∧ t.record.epoch = table.epoch ∧ t.coll.state = 1 ∧
        t.record.held = true ∧ t.coll.opened = [] ∧ t.coll.sent = [] ∧ t.record.slot = s.record.slot ∧ t.tiers = s.tiers) ∧
    fenced (.abandon src s.record.epoch) ∧
    (c.state = 4 → fenced .fenceTimeout)

/-- R431: a JOIN of a failed rank makes the leader propose it as JOINING; one that arrives while a round is open waits. -/
def Claims.JoinsAreProposedByTheLeader : Prop :=
  ∀ (rank : Nat) (addr : BitVec 15) (t0 : MembTable) (s : State), s.isMember = true → s.coll.table = some t0 → s.leader = s.coll.rank →
    (s.coll.state = 1 → rank < t0.entries.length → MembTable.st t0 rank = 1 →
      ∃ t, exec (.join rank addr) s = .next t ∧ t.coll.state = 3 ∧
        t.coll.round = some ⟨s.coll.rank, s.coll.suspects, [], some (rank, addr, 2)⟩) ∧
    (s.coll.state ≠ 1 → exec (.join rank addr) s = .next { s with coll := { s.coll with joins := s.coll.joins ++ [(rank, addr)] } })

/-- R324, R428: an entry missing at the deadline of RESERVE records the silent rank and makes it suspected; with both entries there
nothing happens. -/
def Claims.ReserveTimeoutNamesTheSilentRank : Prop :=
  ∀ (silent : Nat) (s : State), s.job.running = true → s.record.phase = 7 → s.record.done 7 = false →
    let missing := (silent = s.partnerRank ∧ s.job.acked = false) ∨ (silent = s.predecessor ∧ s.job.predComplete = false)
    (missing → s.isMember = false → exec (.reserveTimeout silent) s = .next (s.event 0x0043 2 srcFw [silent])) ∧
    (missing → s.isMember = true → silent ∈ s.actives → silent ≠ s.coll.rank → silent ∉ s.coll.suspects →
      ∃ t, exec (.reserveTimeout silent) s = .next t ∧ t.coll.suspects = s.coll.suspects ++ [silent] ∧
        t.job = s.job ∧ t.tiers = s.tiers ∧ t.log = (s.event 0x0043 2 srcFw [silent]).log) ∧
    (¬missing → exec (.reserveTimeout silent) s = .next s)

/-- R228, R336, R493: the leader broadcasts a forwarded command with the step in progress, or for SET_POLICY the next; a member that
takes HALT halts at the end of that step, one that takes SECURE_NOW secures after the step, and one that takes SET_POLICY keeps K and
G for the next pause and the other fields for the next step. -/
def Claims.JobCommandsApplyAtTheirBoundary : Prop :=
  ∀ (src : Nat) (cmd : JobCmd) (step : W64) (sel : BitVec 6) (p : Policy) (s : State), s.job.running = true →
    let g := s.record.globalStep
    let kg := s.job.nextKG.getD (s.job.policy.k, s.job.policy.g)
    (s.record.phase ≠ 0 → exec (.jobCommandApply .halt step) s = .next { s with job := { s.job with
      haltAt := some (if step.toNat < g.toNat then g else step) } }) ∧
    exec (.jobCommandApply .secureNow step) s = .next { s with job := { s.job with secureNow := true, nextSecure := g } } ∧
    (s.job.policyBoxes = [] → exec (.jobCommandApply (.setPolicy sel p) step) s = .next
      (({ s with job := { s.job with
        nextKG := if sel.getLsbD 0 || sel.getLsbD 1 then some (if sel.getLsbD 0 then p.k else kg.1, if sel.getLsbD 1 then p.g else kg.2)
          else s.job.nextKG
        nextPolicy := if sel.toNat / 4 = 0 then s.job.nextPolicy
          else some (pickPolicy sel.toNat p { s.job.nextPolicy.getD s.job.policy with k := kg.1, g := kg.2 }) } } : State).event
        0x0004 1 srcFw [sel.toNat, step.toNat])) ∧
    (s.isMember = true → s.leader = s.coll.rank → src ∈ s.actives →
      let at' := match cmd with | .setPolicy _ _ => g + 1 | _ => g
      let told : State := { s with outbox := s.outbox ++ (s.actives.filter (· != s.coll.rank)).map fun r => .job r cmd at' }
      ∃ t, exec (.jobCommandForward src cmd) s = .next t ∧ exec (.jobCommandApply cmd at') told = .next t)

/-- R425, R432, R435: MEMBERSHIP_SET with a valid table that names this module installs it, with its epoch and rank, and ends PHASE
FENCED; one with no entries removes the table; neither runs while a job does. -/
def Claims.MembershipSetInstallsTheTable : Prop :=
  ∀ (n : Fin 8) (t0 : MembTable) (idle : Bool) (r : Nat) (s : State), s.serving n 0x0020 →
    ((s.boxes.get n).lArgs.get 1).toNat = 0x20 + 4 * t0.entries.length →
    (s.job.running = false → (s.record.phase = 0 ∨ s.record.phase = 0x0B) → s.job.haltBoxes = [] →
      (t0.entries = [] → ∃ t, exec (.membershipSet n t0 idle) s = .next t ∧ t.coll.table = none ∧ t.coll.state = 0 ∧
        t.record.epoch = t0.epoch ∧ t.record.held = false ∧ t.record.phase = 0 ∧ (t.boxes.get n).status = 0) ∧
      (2 ≤ t0.entries.length → t0.entries.length ≤ 32768 → t0.tieBreak < t0.entries.length → (∀ e ∈ t0.entries, e.2 = 0) →
        (s.coll.state = 5 → idle = true) → s.rankIn t0 = some r →
        ∃ t, exec (.membershipSet n t0 idle) s = .next t ∧ t.coll.table = some t0 ∧ t.coll.rank = r ∧ t.coll.state = 1 ∧
          t.record.epoch = t0.epoch ∧ t.record.held = true ∧ t.record.phase = 0 ∧ (t.boxes.get n).state = 4 ∧
          (t.boxes.get n).status = 0)) ∧
    (s.job.running = true → ∃ t, exec (.membershipSet n t0 idle) s = .next t ∧ t.coll = s.coll ∧ t.record = s.record ∧
      (t.boxes.get n).state = 4 ∧ (t.boxes.get n).status = 7)

/-- Reservoir entries are checked and acknowledged; a missing one names the silent rank. -/
def Obligations.ReservoirTakesEntriesOrTimesOut : Prop :=
  Claims.ReservoirEntriesAreCheckedAndAcknowledged ∧ Claims.ReserveTimeoutNamesTheSilentRank

/-- Collectives open while HELD once their node has started, add their nodes and close when complete. -/
def Obligations.CollectivesOpenAddAndClose : Prop :=
  Claims.CollectivesOpenWhileHeld ∧ Claims.NodesAddTheirChildren ∧ Claims.CollectivesCloseWhenComplete

/-- Each chunk is accepted once, and kept by its sender until it is acknowledged. -/
def Obligations.ChunksAreAcceptedAndAcknowledged : Prop :=
  Claims.ChunksAreAcceptedOnce ∧ Claims.ChunksAreKeptUntilAcknowledged

/-- READY and START open the exchange, and job commands apply at their boundary. -/
def Obligations.TheExchangeStartsWhenReady : Prop :=
  Claims.ReadyAndStartOpenTheExchange ∧ Claims.JobCommandsApplyAtTheirBoundary

/-- Suspects are queued, and silent neighbours are suspected and proposed or told. -/
def Obligations.SuspicionsAreQueuedAndTold : Prop :=
  Claims.SuspectQueueHoldsSixteen ∧ Claims.SilentNeighboursAreSuspected

/-- Rounds commit with quorum; membership tables are adopted, installed or extended, or the member fences. -/
def Obligations.MembershipTablesAreAdopted : Prop :=
  Claims.RoundsCommitWithQuorum ∧
    Claims.CommitsAdoptOrFence ∧
    Claims.JoinsAreProposedByTheLeader ∧
    Claims.MembershipSetInstallsTheTable

/-! ### The CXL port -/

/-- R441, R442: a link of 4, 8 or 16 lanes comes up at its rate and width, with the CXL protocols in 256-byte flit mode only; a narrower
or slower link is degraded and recorded, and one of fewer lanes stays down. -/
def Claims.HostLinkTrains : Prop :=
  ∀ (rate width : Nat) (flit : Bool) (s : State), s.keeper.rails = true → 1 ≤ rate → rate ≤ 4 →
    (width = 4 ∨ width = 8 ∨ width = 16 → ∃ t, exec (.cxlLinkUp rate width flit) s = .next t ∧
      t = { s with cxl := t.cxl, log := t.log, outbox := t.outbox } ∧
      t.cxl = { s.cxl with rate := BitVec.ofNat 3 rate, width := BitVec.ofNat 5 width, degraded := !(rate == 4 && width == 16)
                           enabled := flit, cause := t.cxl.cause, pba := t.cxl.pba } ∧
      t.cxl.cause.getLsbD 14 = true ∧ (rate = 4 → width = 16 → flit = true → t.log = s.log)) ∧
    (width ≠ 4 → width ≠ 8 → width ≠ 16 → exec (.cxlLinkUp rate width flit) s = .next s)

/-- R36, R465, R547, R549: link down and hot reset uncommit the decoder and clear the filter and the interrupt registers, and a
function-level reset clears the interrupt registers alone; outside start-up they are recorded as classes 5 and 4. READY falls and, once
its conditions hold, rises again with its cause; commands, memory and the fabric are left as they are. -/
def Claims.HostResetsClearTheHostSide : Prop :=
  ∀ (s : State), s.keeper.step = 11 → s.cxl.rate ≠ 0 →
    let clean (x : Cxl) (t : State) (cls : Nat) : Prop := t = { s with cxl := t.cxl, log := t.log, keeper := t.keeper
                                                                       freeCount := t.freeCount, outbox := t.outbox } ∧
      t.keeper = { s.keeper with cls := cls, trigger := t.keeper.trigger, ready := s.readyCond } ∧
      t.cxl = { x with cause := if s.readyCond then 0x0200 else 0, mask := 0x7FFF, vecMask := 0xFFFF, msixTable := [], pba := 0
                       msixEn := false, funcMask := false } ∧
      ∃ l, t.outbox = s.outbox ++ l ∧ ∀ m ∈ l, ∃ v, m = .msix v
    let down : Cxl := { s.cxl with rate := 0, width := 0, degraded := false, enabled := false, committed := false
                                   commitError := false, filter := [], snoops := [] }
    (∃ t, exec .cxlLinkDown s = .next t ∧ clean down t 5) ∧ (∃ t, exec .hotReset s = .next t ∧ clean down t 5) ∧
    (∃ t, exec .flr s = .next t ∧ clean s.cxl t 4)

/-- R447: a decoder of the window's size, one way and no skip commits; any other sets CXL Commit Error and commits nothing. -/
def Claims.DecoderCommitsTheWindow : Prop :=
  ∀ (size ways skip : Nat) (s : State), s.cxl.rate ≠ 0 → s.cxl.enabled = true →
    let good := size = s.caps.hostWindow ∧ size ≠ 0 ∧ ways = 1 ∧ skip = 0
    (good → exec (.hdmDecoderCommit size ways skip) s = .next { s with cxl := { s.cxl with committed := true, commitError := false } }) ∧
    (¬good → exec (.hdmDecoderCommit size ways skip) s = .next { s with cxl := { s.cxl with commitError := true } })

/-- R252, R448, R449: a read of an open line returns its two words, poisoned where one cannot be used, and tracks the line; when the filter
is full it is the oldest line that is snooped first, and its answer lets it go. -/
def Claims.HostReadsReturnTheLine : Prop :=
  ∀ (line old : Nat) (rest : List Nat) (d0 d1 : List Byte) (s s1 s2 : State), s.lineOpen line = true → line ∉ s.cxl.snoops →
    let a := windowAddr (64 * line)
    let full := 2 ^ 20 ≤ s.cxl.filter.length
    let tracked := if line ∈ s.cxl.filter then s.cxl.filter else s.cxl.filter ++ [line]
    (line ∈ s.cxl.filter ∨ ¬full → s.tierCheck a (s.tierRaw a) = .clean d0 → s.tierCheck (a + 32) (s.tierRaw (a + 32)) = .clean d1 →
      exec (.cxlMemRead line) s = .next { s with cxl := { s.cxl with filter := tracked }
                                                 outbox := s.outbox ++ [.cxlMem line (d0 ++ d1) false] }) ∧
    (line ∈ s.cxl.filter ∨ ¬full → s.demandRead a = (none, s1) → s1.demandRead (a + 32) = (some d1, s2) → s2.cxl.filter = s.cxl.filter →
      exec (.cxlMemRead line) s = .next { s2 with
        cxl := { s2.cxl with filter := tracked }
        outbox := s2.outbox ++ [.cxlMem line ((s.tierRaw a).take 32 ++ d1) true] }) ∧
    (s.cxl.filter = old :: rest → full → line ∉ s.cxl.filter → old ∉ s.cxl.snoops →
      exec (.cxlMemRead line) s = .next { s with cxl := { s.cxl with snoops := s.cxl.snoops ++ [old] }
                                                 outbox := s.outbox ++ [.bisnp old true] }) ∧
    (s.cxl.filter = old :: rest → full → old ∈ s.cxl.snoops → exec (.bisnpResponse old) s = .next { s with cxl := { s.cxl with
      snoops := s.cxl.snoops.filter (· != old), filter := rest } }) ∧
    exec (.bisnpResponse line) s = .next s

/-- R449: with the tiers in canonical form, a whole write of an open line stores its two words afresh and no other; a partial one replaces
the enabled bytes, and stores the lost pattern where a word it needs is uncorrectable. A line that is not open takes no access. -/
def Claims.HostWritesStoreTheLine : Prop :=
  ∀ (line : Nat) (data d0 d1 : List Byte) (enables : W64) (s s1 s2 : State), data.length = 64 → line ∉ s.cxl.snoops →
    Mem.wf s.tiers = true →
    let a := windowAddr (64 * line)
    let stored (t : State) (x y : List Byte) : Prop :=
      t = { s with tiers := t.tiers, outbox := s.outbox ++ [.cxlDone line] } ∧ rawWord t.tiers (a / 32) = encodeWord x ∧
      rawWord t.tiers (a / 32 + 1) = encodeWord y ∧ ∀ q, q ≠ a / 32 → q ≠ a / 32 + 1 → rawWord t.tiers q = rawWord s.tiers q
    let merged (d : List Byte) (o : Nat) : List Byte :=
      (List.range 32).map fun k => if enables.getLsbD (o + k) then data.getD (o + k) 0 else d.getD k 0
    (s.lineOpen line = true → s.deadGranule a = false → s.deadGranule (a + 32) = false →
      (enables = BitVec.allOnes 64 →
        ∃ t, exec (.cxlMemWrite line data enables) s = .next t ∧ stored t (data.take 32) (data.drop 32)) ∧
      (enables ≠ BitVec.allOnes 64 → s.tierCheck a (s.tierRaw a) = .clean d0 →
        s.tierCheck (a + 32) (s.tierRaw (a + 32)) = .clean d1 →
        ∃ t, exec (.cxlMemWrite line data enables) s = .next t ∧ stored t (merged d0 0) (merged d1 32)) ∧
      (enables ≠ BitVec.allOnes 64 → s.demandRead a = (none, s1) → s1.demandRead (a + 32) = (some d1, s2) →
        s2.deadGranule a = false → s2.deadGranule (a + 32) = false → Mem.wf s2.tiers = true →
        ∃ t, exec (.cxlMemWrite line data enables) s = .next t ∧ t = { s2 with tiers := t.tiers, outbox := s2.outbox ++ [.cxlDone line] } ∧
          rawWord t.tiers (a / 32) = lostWord ∧ rawWord t.tiers (a / 32 + 1) = lostWord ∧
          ∀ q, q ≠ a / 32 → q ≠ a / 32 + 1 → rawWord t.tiers q = rawWord s2.tiers q)) ∧
    (s.lineOpen line = false → exec (.cxlMemWrite line data enables) s = .next s ∧ exec (.cxlMemRead line) s = .next s)

/-- R445, R454, R462, R463: a host snoop is answered; a DOE request is served while the link is up; unmasking a vector sends its pending
message and clears the bit; a rewrite of the telemetry mirror advances SEQ twice, and takes the sideband's readings. -/
def Claims.HostServicesAnswer : Prop :=
  ∀ (addr : Nat) (discovery : Bool) (v : Fin 16) (s : State),
    (s.cxl.rate ≠ 0 → s.cxl.enabled = true → exec (.hostSnoop addr) s = .next (s.send (.snoopRsp addr))) ∧
    (s.cxl.rate ≠ 0 → exec (.doeTableAccess discovery) s = .next (s.send (.doe (if discovery then doeDiscovery else
      [s.cxl.cdatSeq, 0, 0, s.caps.hostWindow, 0, 0, 650, 700, 115, 115, 0, 1])))) ∧
    (let x : Cxl := { s.cxl with vecMask := s.cxl.vecMask &&& ~~~(1#16 <<< v.val) }
     (s.cxl.pba.getLsbD v.val = true → s.cxl.msixEn = true → s.cxl.funcMask = false → exec (.msixVectorUnmask v) s = .next
        { s with cxl := { x with pba := s.cxl.pba &&& ~~~(1#16 <<< v.val) }, outbox := s.outbox ++ [.msix v.val] }) ∧
     (s.cxl.pba.getLsbD v.val = false → exec (.msixVectorUnmask v) s = .next { s with cxl := x })) ∧
    (∃ t, exec .telemetryRewrite s = .next t ∧ t = { s with cxl := t.cxl, keeper := { s.keeper with readings := s.newReadings } } ∧
      (s.keeper.rails = false → t.cxl = s.cxl) ∧
      (s.keeper.rails = true → t.cxl = { s.cxl with mirrorSeq := s.cxl.mirrorSeq + 2, mirror := t.cxl.mirror } ∧
        t.cxl.mirror.take 12 = leBytes 8 s.keeper.uptime.toNat ++ leBytes 4 s.keeper.boot.toNat))

/-- The CXL link trains, host resets clear the host side alone, and the decoder commits the window. -/
def Obligations.HostLinkTrainsAndResets : Prop :=
  Claims.HostLinkTrains ∧ Claims.HostResetsClearTheHostSide ∧ Claims.DecoderCommitsTheWindow

/-- Host reads, writes, snoops, DOE requests, unmasking and the mirror act as their rules say. -/
def Obligations.HostAccessesReachTheWindow : Prop :=
  Claims.HostReadsReturnTheLine ∧ Claims.HostWritesStoreTheLine ∧ Claims.HostServicesAnswer

/-! ### Mailboxes and their commands -/

/-- `t` is `s` with the command of mailbox `n` complete: STATUS, DETAIL and output as given, STATE DONE and the mailbox's interrupt cause
set; nothing else of the module changes (R473, R478). -/
def Claims.completed (s t : State) (n : Fin 8) (status detail : Nat) (out : List Byte) : Prop :=
  t = { s with boxes := t.boxes, cxl := { s.cxl with cause := t.cxl.cause, pba := t.cxl.pba }, outbox := t.outbox } ∧
  t.cxl.cause = s.cxl.cause ||| (1#15 <<< n.val) ∧ (∀ m, m ≠ n → t.boxes.get m = s.boxes.get m) ∧
  t.boxes.get n = { s.boxes.get n with
    state := 4, status := BitVec.ofNat 16 status, detail := BitVec.ofNat 32 detail, outLen := out.length, abort := false
    buf := out ++ (s.boxes.get n).buf.drop out.length }

/-- A little-endian field of an output. -/
def Claims.field (out : List Byte) (off n : Nat) : Nat := leNat ((out.drop off).take n)

/-- R473, R474, R478: completing an outstanding command has the effect `completed` names; a mailbox with none outstanding is left alone. -/
def Claims.CompletionIsReported : Prop :=
  ∀ (n : Fin 8) (status detail : Nat) (out : List Byte) (s : State),
    ((s.boxes.get n).outstanding = true → Claims.completed s (s.complete n status detail out) n status detail out) ∧
    ((s.boxes.get n).outstanding = false → s.complete n status detail out = s)

/-- R474, R475: GO on an idle mailbox latches the command and clears its outputs; the first check that fails, in the order opcode,
length, MS, TAG and group, completes it at once; a command that passes is PENDING. GO while a command is outstanding does nothing. -/
def Claims.GoLatchesAndChecks : Prop :=
  ∀ (n m : Fin 8) (s : State), s.keeper.rails = true →
    let b := s.boxes.get n
    let row := cmdRow b.opcode.toNat
    let latched : State := s.modBox n fun b => { b with
      lOpcode := b.opcode, lLen := b.len, lArgs := b.args, stTag := b.tag, server := BitVec.ofNat 2 ((row.map (·.server)).getD 0)
      status := 0, detail := 0, outLen := 0, permille := 0, heartbeat := 0, abort := false, state := 1 }
    let fails (st d : Nat) : Prop := exec (.mailboxGo n) s = .next (latched.complete n st d [])
    let tagClash (k : Fin 8) : Prop := k ≠ n ∧ (s.boxes.get k).outstanding = true ∧ (s.boxes.get k).stTag = b.tag
    let groupClash (r : CmdRow) (k : Fin 8) : Prop := r.group ≠ 0 ∧ k ≠ n ∧ (s.boxes.get k).outstanding = true ∧
      ∃ q, cmdRow (s.boxes.get k).lOpcode.toNat = some q ∧ q.group = r.group
    (b.outstanding = true → exec (.mailboxGo n) s = .next s) ∧
    (b.outstanding = false →
      (row = none → fails 1 0) ∧
      (∀ r, row = some r →
        let lenOk := r.lenMin ≤ b.len ∧ b.len ≤ r.lenMax ∧ b.len % r.unit = 0
        let msOk := b.ms = 0 ∨ (100 ≤ b.ms.toNat ∧ b.ms.toNat ≤ 60000)
        (¬lenOk → fails 2 r.lenMax) ∧ (lenOk → ¬msOk → fails 4 8) ∧
        (lenOk → msOk → tagClash m → (∀ k < m, ¬tagClash k) → fails 5 m.val) ∧
        (lenOk → msOk → (∀ k, ¬tagClash k) → groupClash r m → (∀ k < m, ¬groupClash r k) → fails 6 m.val) ∧
        (lenOk → msOk → (∀ k, ¬tagClash k) → (∀ k, ¬groupClash r k) → exec (.mailboxGo n) s = .next latched)))

/-- R476, R477, R479, R480: the server takes a pending command, which is BUSY once its checks pass and complete at once when one fails; a
background command reports progress; the service timeout and ABORT end a pending command, and ABORT ends a background one that can be
aborted. -/
def Claims.ServersTakeReportAndAbort : Prop :=
  ∀ (n : Fin 8) (permille : Nat) (r : CmdRow) (s : State),
    let b := s.boxes.get n
    let taken : State := s.modBox n fun b => { b with state := 2, taken := s.keeper.uptime
                                                      snapshot := if b.lOpcode = 0x0043 then s.evidence (b.buf.take 32) else b.snapshot }
    (b.state = 1 → s.serverUp b = true →
      (s.cmdCheck b = none → exec (.serverTake n) s = .next taken) ∧
      (∀ st d, s.cmdCheck b = some (st, d) → exec (.serverTake n) s = .next (taken.complete n st d []))) ∧
    (b.state = 1 → exec (.serviceTimeout n) s = .next (s.complete n 8 0 []) ∧
      exec (.mailboxAbort n) s = .next (s.complete n 9 0 [])) ∧
    (b.state ≠ 1 → exec (.serviceTimeout n) s = .next s) ∧
    (b.state = 2 ∨ b.state = 3 → cmdRow b.lOpcode.toNat = some r → r.background = true → s.serverUp b = true →
      b.lOpcode ≠ 0x0011 → b.lOpcode ≠ 0x0012 → exec (.progressUpdate n permille) s = .next (s.modBox n fun b =>
        { b with state := 3, permille := min 1000 permille, heartbeat := s.keeper.uptime })) ∧
    (b.state = 3 → cmdRow b.lOpcode.toNat = some r → s.serverUp b = true →
      (r.abortable = true → exec (.mailboxAbort n) s = .next
        (({ s with caps := { s.caps with loadGen := none } } : State).complete n 9 0 [])) ∧
      (r.abortable = false → exec (.mailboxAbort n) s = .next s)) ∧
    (b.state = 2 → exec (.mailboxAbort n) s = .next s)

/-- R3, R209, R483 to R485, R494, R526, R532, R578: the commands that read status complete with it: the identity, the capability table
in ID order, log entries, the step commit record, the throttle reasons, the margin ledger and the evidence record. -/
def Obligations.QueriesReturnTheirOutput : Prop :=
  ∀ (n : Fin 8) (s : State),
    let b := s.boxes.get n
    let out (i : Instr) (p : List Byte → Prop) : Prop := ∃ o, exec i s = .next (s.complete n 0 0 o) ∧ p o
    let f := Claims.field
    (s.serving n 0x0001 → out (.identify n) fun o => o.length = 128 ∧ o.take 7 = [0x4F, 0x4D, 0x58, 0x2D, 0x4A, 0x32, 0x2D] ∧
      f o 0x20 2 = s.part.grade % 2 ^ 16 ∧ f o 0x22 1 = s.part.stepping.toNat ∧ f o 0x23 1 = (if s.fw.active then 1 else 0) ∧
      f o 0x24 4 = s.fw.versions.1.toNat ∧ f o 0x28 4 = s.fw.versions.2.1.toNat ∧ f o 0x2C 4 = s.fw.versions.2.2.toNat ∧
      f o 0x30 4 = 0x00010000 ∧ f o 0x34 4 = s.keeper.boot.toNat ∧ f o 0x38 2 = s.weir.addr.toNat) ∧
    (s.serving n 0x0002 → out (.getCaps n) fun o => o = s.capTable.flatMap fun e =>
      leBytes 2 e.1 ++ leBytes 2 e.2.length ++ zeroBytes 4 ++ e.2.flatMap (leBytes 8)) ∧
    (s.serving n 0x0003 → (b.arg 2).testBit 0 = false → out (.getEventLog n) fun o =>
      let es := (s.log.ring.filter fun e => decide (b.arg 0 ≤ e.seq.toNat) && decide (b.arg 2 / 2 % 8 ≤ e.severity)).take (b.arg 1)
      f o 8 8 = s.log.nextSeq.toNat ∧ f o 16 4 = es.length % 2 ^ 32 ∧ o.drop 64 = es.flatMap Event.bytes) ∧
    (s.serving n 0x0004 → out (.stepStatus n) fun o => o.length = 728 ∧ f o 0 8 = s.record.globalStep.toNat ∧
      f o 8 1 = s.record.phase.toNat ∧ f o 9 1 = (if s.record.slot then 1 else 0) ∧ f o 0x0C 4 = s.record.epoch.toNat ∧
      f o 0x10 8 = s.record.doneStep.toNat ∧ f o 0x18 2 = s.record.doneMask.toNat ∧ f o 0x1A 1 = s.record.result.toNat ∧
      f o 0x20 16 = s.record.digest.toNat) ∧
    (s.serving n 0x0031 → out (.getThrottleLog n) fun o => o.length = 1536 ∧ ∀ c < 64,
      f o (24 * c) 8 = (s.sluice.thr.get {} c).count.toNat ∧ f o (24 * c + 16) 8 = (s.sluice.thr.get {} c).onset.toNat) ∧
    (s.serving n 0x0032 → ∃ o, exec (.getAgeing n) s = .next (({ s with freeCount := s.freeCount + 548 } : State).complete n 0 0 o) ∧
      f o 0 8 = s.sluice.lastPlan.toNat ∧ f o 8 4 = s.sluice.planCount.toNat ∧
      ∀ k < 30, f o (64 + 8 * k) 2 = (s.sluice.points.get (.made 0) k).vmin % 2 ^ 16 ∧
        f o (66 + 8 * k) 2 = (s.sluice.points.get (.made 0) k).vneed % 2 ^ 16) ∧
    (s.serving n 0x0043 → b.snapshot.length = 320 → out (.getEvidence n) fun o => o.take 320 = b.snapshot ∧
      (o.drop 320).take 17088 = fitBytes 17088 (Config.evidenceSignature s.fw.privateKey b.snapshot) ∧
      f o 17408 4 = Config.deviceCertificate.length % 2 ^ 32)

/-- R487: a new host window changes the capability table and the CDAT, is recorded and is returned; the same window changes nothing. -/
def Claims.HostWindowChangesTheTable : Prop :=
  ∀ (n : Fin 8) (s : State), s.serving n 0x0010 →
    let h := (s.boxes.get n).arg 0
    (h = s.caps.hostWindow → exec (.setHostWindow n) s = .next (s.complete n 0 0 (leBytes 8 h))) ∧
    (h ≠ s.caps.hostWindow → exec (.setHostWindow n) s = .next (((({ s with
      caps := { s.caps with hostWindow := h, gen := s.caps.gen + 1 }, cxl := { s.cxl with cdatSeq := s.cxl.cdatSeq + 1 } } : State).event
        0x0062 0 srcFw [s.cxl.cdatSeq + 1]).complete n 0 0 (leBytes 8 h))))

/-- R206, R220, R229, R230, R233: the image is read from its bytes; one that passes every check is loaded, with its policy and its code in
each jet that runs it, and the command completes with a record of acceptance; one that is refused completes with the code and its record,
and changes nothing else; VERIFY_PROGRAM loads nothing in either case. -/
def Claims.ImagesLoadWhenAccepted : Prop :=
  ∀ (n : Fin 8) (file : ImageFile) (fault : LoadFault) (s : State),
    let b := s.boxes.get n
    let i := file.parse
    let s' : State := { s with caps := { s.caps with loadGen := none } }
    let op (v : Bool) : Instr := if v then .verifyProgram n (some file) else .loadProgram n (some file)
    (∀ v : Bool, s.serving n (if v then 0x0012 else 0x0011) → s.loadCheck i (b.arg 2) = some fault →
      exec (op v) s = .next (s'.complete n 0xC fault.code (refusalRecord (some i) (some fault)))) ∧
    (s.serving n 0x0012 → s.loadCheck i (b.arg 2) = none → exec (op true) s = .next (s'.complete n 0 0 (refusalRecord (some i) none))) ∧
    (s.serving n 0x0011 → s.loadCheck i (b.arg 2) = none → ∃ t, exec (op false) s = .next t ∧
      t.job.image = some i ∧ t.job.policy = imagePolicy i ∧ t.job.spread = i.spread ∧ (t.boxes.get n).state = 4 ∧
      (t.boxes.get n).status = 0 ∧ t.tiers = s.tiers ∧ t.record = s.record ∧
      ∀ j : Fin 160, runsOn i j.val = true → (t.jet j).core.tvec = BitVec.ofNat 64 (handlerAddr i) ∧
        (t.jet j).core.code.1 = 0 ∧ (t.jet j).core.s = (s.jet j).core.s)

/-- R336, R486: RUN starts the job once every other member has reported the image: its step, seed and key are set, and the job begins
with the first pause, or at once with step START_STEP where there is no terrace; a member without the image, or one that has another,
stops it; RUN_WAIT ends the wait for those that have not reported. -/
def Claims.RunStartsTheJobOrWaits : Prop :=
  ∀ (n : Fin 8) (cp : Checkpoint) (others : List (List Byte)) (i : Image) (s : State),
    let b := s.boxes.get n
    let rs := s.actives.filter (· != s.coll.rank)
    (s.serving n 0x0013 → s.job.image = some i → 2 ≤ i.shards.length → cp.ok = true → s.survivalCheck i s.coll.rank = none →
      s.keeper.powerState = 0 →
      ((∀ k < rs.length, others.getD k [] = i.hash) → i.hash ≠ [] → s.hasTerrace = false →
        ∃ t, exec (.run n cp others) s = .next t ∧ t.job.running = true ∧ t.job.startStep = BitVec.ofNat 64 (b.arg 0) ∧
          t.record.globalStep = BitVec.ofNat 64 (b.arg 0) ∧ t.record.phase = 1 ∧ t.job.seed = fitBytes 32 (b.buf.take 32) ∧
          t.job.key = digestKey t.job.seed ∧ (t.boxes.get n).status = 0 ∧ (t.boxes.get n).state = 4) ∧
      ((∀ k < rs.length, others.getD k [] = i.hash) → i.hash ≠ [] → s.hasTerrace = true →
        ∃ t, exec (.run n cp others) s = .next t ∧ t.job.running = true ∧ t.record.phase = 0x0A ∧ t.job.pause = 1 ∧
          t.record.globalStep = BitVec.ofNat 64 (b.arg 0) ∧ t.job.runBox = some n.val) ∧
      (∀ k, k < rs.length → others.getD k [] = [] → (∀ m < rs.length, others.getD m [] = [] ∨ others.getD m [] = i.hash) →
        (∀ m < k, others.getD m [] ≠ []) →
        exec (.run n cp others) s = .next { s with job := { s.job with runBox := some n.val, runWaits := rs.getD k 0 } })) ∧
    (s.serving n 0x0013 → s.job.image = some i → s.keeper.powerState = 0 → i.shards.length < 2 →
      exec (.run n cp others) s = .next (s.complete n 0xD s.coll.rank [])) ∧
    (s.inHand n 0x0013 = true → s.job.runBox = some n.val → s.job.running = false → exec (.runWaitExpiry n) s = .next
      (({ s with job := { s.job with runBox := none } } : State).complete n 0xD s.job.runWaits []))

/-- R488, R493: HALT, SET_POLICY and SECURE_NOW of a running job wait in their mailbox while the command goes to the leader; HALT with no
job unloads the program and returns the last committed step. -/
def Claims.JobCommandsGoToTheLeader : Prop :=
  ∀ (n : Fin 8) (s : State),
    let b := s.boxes.get n
    let j := s.job
    let sent (s : State) (w : List Nat) : State := s.send (.packet s.leader "JOB_COMMAND" w)
    (s.leader ≠ s.coll.rank →
      (s.serving n 0x0014 → j.running = true → n.val ∉ j.haltBoxes → exec (.haltCommand n) s = .next
        (sent { s with job := { j with haltBoxes := j.haltBoxes ++ [n.val] } } [0])) ∧
      (s.serving n 0x0015 → n.val ∉ j.policyBoxes → exec (.setPolicy n) s = .next
        (sent { s with job := { j with policyBoxes := j.policyBoxes ++ [n.val] } }
          [1, b.arg 7 % 64, b.arg 0, b.arg 1, b.arg 2, b.arg 3, b.arg 4, b.arg 5])) ∧
      (s.serving n 0x0016 → n.val ∉ j.secureBoxes → exec (.secureNow n) s = .next
        (sent { s with job := { j with secureBoxes := j.secureBoxes ++ [n.val] } } [2]))) ∧
    (s.serving n 0x0014 → j.running = false → s.record.phase ≠ 0x0B → n.val ∉ j.haltBoxes →
      ∃ t, exec (.haltCommand n) s = .next t ∧ t.job.image = none ∧ (t.boxes.get n).state = 4 ∧ (t.boxes.get n).status = 0 ∧
        t.tiers = s.tiers ∧ (t.boxes.get n).buf.take 8 = leBytes 8 s.lastCommitted.toNat)

/-- R490, R491, R514, R529: SET_POWER_LIMITS puts the selected limits and returns all five; REPLAN_MARGINS makes a re-plan of every
domain due and waits for it; SET_TIME_ANCHOR keeps the newest 16 anchors. -/
def Claims.KeeperCommandsSetLimitsAndAnchors : Prop :=
  ∀ (n : Fin 8) (s : State),
    let b := s.boxes.get n
    let x := s.sluice
    (s.serving n 0x0030 →
      let pick (k v : Nat) : Nat := if (b.arg 7).testBit k then b.arg k else v
      let l := [pick 0 x.sustainedW, pick 1 x.peakW, pick 2 x.throttleC, pick 3 x.warnMv, pick 4 x.resetMv]
      ∃ t u : State, exec (.setPowerLimits n) s = .next t ∧ t = u.complete n 0 0 (l.flatMap (leBytes 8)) ∧ u.boxes = s.boxes ∧
        [t.sluice.sustainedW, t.sluice.peakW, t.sluice.throttleC, t.sluice.warnMv, t.sluice.resetMv] = l ∧
        t.keeper = s.keeper ∧ t.job = s.job) ∧
    (s.serving n 0x0033 → n.val ∉ x.planBoxes → exec (.replanMargins n) s = .next { s with sluice := { x with
      planDue := true, planned := [], planBoxes := x.planBoxes ++ [n.val] } }) ∧
    (s.serving n 0x0034 →
      let l := if b.arg 1 = 1 then s.keeper.anchors else ((b.taken, BitVec.ofNat 64 (b.arg 0), s.keeper.boot) :: s.keeper.anchors).take 16
      exec (.setTimeAnchor n) s = .next (({ s with keeper := { s.keeper with anchors := l } } : State).complete n 0 0
        (l.flatMap fun a => leBytes 8 a.1.toNat ++ leBytes 8 a.2.1.toNat ++ leBytes 4 a.2.2.toNat ++ zeroBytes 4)))

/-- R492, R545, R554: SET_POWER_STATE keeps the change asked for until it is made, and completes at once for the state the module is in
and for Dry; WARM_RESET completes and leaves the reset to come, with the preserve request of ARG0. -/
def Claims.PowerStateCommandsAreKept : Prop :=
  ∀ (n : Fin 8) (s : State),
    let a := (s.boxes.get n).arg 0
    let k := s.keeper
    let asks (r : Option (Nat × Option Nat)) : State := { s with keeper := { k with stateReq := r } }
    (s.serving n 0x0035 →
      (a = 3 → exec (.setPowerState n) s = .next ((asks (some (3, none))).complete n 0 0 [BitVec.ofNat 8 k.powerState])) ∧
      (a ≠ 3 → a = k.powerState → exec (.setPowerState n) s = .next ((asks none).complete n 0 0 [BitVec.ofNat 8 a])) ∧
      (a ≠ 3 → a ≠ k.powerState → exec (.setPowerState n) s = .next (asks (some (a, some n.val))))) ∧
    (s.serving n 0x0036 → exec (.warmReset n) s = .next
      (({ s with keeper := { k with preq := a.testBit 0, warmPending := true } } : State).complete n 0 0 []))

/-- R565, R567, R571, R572: FW_UPDATE_BEGIN opens a session over a slot and marks it invalid where it is to be written; a chunk is kept
with its granules, and changes a slot opened as it stands; COMMIT reads the slot from its bytes, checks it and makes it PENDING with one
try, or completes with AUTH and changes no slot; cut off by a restart or a reset it writes no boot record. -/
def Claims.FirmwareUpdatesAreCheckedAndStaged : Prop :=
  ∀ (n : Fin 8) (img : SlotImage) (slot : Bool) (len : Nat) (gs : List Nat) (s : State),
    let b := s.boxes.get n
    let f := s.fw
    (s.serving n 0x0040 → ∃ t, exec (.fwUpdateBegin n) s = .next t ∧ t.fw.session = some (b.arg 1 == 1, b.arg 0, []) ∧
      t.fw.image = (if b.arg 0 = 0 then ((f.slot (b.arg 1 == 1)).map (·.content)).getD [] else []) ∧ t.fw.active = f.active ∧
      t.fw.rollback = f.rollback ∧ t.fw.revoked = f.revoked ∧ t.fw.keys = f.keys ∧
      t.fw.slot (!(b.arg 1 == 1)) = f.slot (!(b.arg 1 == 1)) ∧
      t.fw.slot (b.arg 1 == 1) = (if b.arg 0 = 0 then f.slot (b.arg 1 == 1) else none) ∧ (t.boxes.get n).status = 0) ∧
    (s.serving n 0x0041 → f.session = some (slot, len, gs) →
      let m := memPut f.image (b.arg 0) (fitBytes b.lLen b.buf)
      let now := some (slotWritten m f.sessionBytes)
      let f' := if len = 0 then (if slot then { f with slotB := now } else { f with slotA := now }) else f
      exec (.fwUpdateChunk n) s = .next (({ s with fw := { f' with
        session := some (slot, len, gs ++ (List.range (b.lLen / 64)).map (b.arg 0 / 64 + ·)), image := m } } : State).complete n 0 0 [])) ∧
    (s.serving n 0x0042 → f.session = some (slot, len, gs) →
      let content := if len = 0 then f.slot slot else some (slotWritten f.image len)
      let ended : State := { s with fw := { f with session := none, image := [] } }
      exec (.fwUpdateCommit n true) s = .next s ∧
      (0 < len → (∃ g < len / 64, g ∉ gs) → exec (.fwUpdateCommit n false) s = .next (ended.complete n 0xE 7 [])) ∧
      (len = 0 ∨ (∀ g < len / 64, g ∈ gs) →
        (content = some img → f.slotCheck content true = none → ∃ t, exec (.fwUpdateCommit n false) s = .next t ∧
          t.fw.slot slot = some img ∧ t.fw.slot (!slot) = f.slot (!slot) ∧ t.fw.pend = some slot ∧ t.fw.tries = true ∧
          t.fw.recSeq = f.recSeq + 1 ∧ t.fw.session = none ∧ t.fw.active = f.active ∧ t.fw.rollback = f.rollback ∧
          (t.boxes.get n).status = 0) ∧
        (∀ d, f.slotCheck content true = some d → exec (.fwUpdateCommit n false) s = .next (ended.complete n 0xE d []))))

/-- R494 to R496: an event takes the next SEQ and joins the ring, which keeps the newest 4,096; ERROR and FATAL entries wait for the flash
log, to which they are copied in order; from the 257th in a millisecond INFO and NOTICE entries are left out, and their number is
recorded at its end. -/
def Obligations.EventsAreLoggedInOrder : Prop :=
  ∀ (code sev src : Nat) (args : List Nat) (e : Event) (rest : List Event) (s : State),
    let l := s.log
    let t := s.event code sev src args
    let ms := s.keeper.uptime.toNat / 1000000
    let inMs := if l.msNo = ms then l.inMs else 0
    (inMs < 256 ∨ 2 ≤ sev →
      t = { s with log := t.log, cxl := t.cxl, outbox := t.outbox } ∧ t.log.nextSeq = l.nextSeq + 1 ∧
      (l.ring.length ≤ 4096 → t.log.ring.length = min 4096 (l.ring.length + 1)) ∧
      (∃ x, t.log.ring.getLast? = some x ∧ x.seq = l.nextSeq ∧ x.uptime = s.keeper.uptime ∧ x.code = code ∧ x.severity = sev ∧
        x.source = src ∧ x.args = args ∧ t.log.toFlash = (if 3 ≤ sev then l.toFlash ++ [x] else l.toFlash)) ∧
      (l.level.toNat ≤ sev → t.cxl.cause.getLsbD 8 = true)) ∧
    (256 ≤ inMs → sev ≤ 1 → t = { s with log := { l with inMs := l.inMs + 1, dropped := l.dropped + 1 } }) ∧
    (l.toFlash = e :: rest → l.flash.length < 16384 →
      exec .flashLogCopy s = .next { s with log := { l with toFlash := rest, flash := l.flash ++ [e] } }) ∧
    (0 < l.dropped → exec .eventsDropped s = .next
      (({ s with log := { l with dropped := 0, inMs := 0 } } : State).store 0x0003 2 srcFront [l.dropped])) ∧
    (l.inMs ≤ 256 → l.dropped = 0 → exec .eventsDropped s = .next s)

/-- Mailboxes latch and check commands, servers take and finish them, and timeouts and aborts end them. -/
def Obligations.MailboxesCheckTakeAndComplete : Prop :=
  Claims.CompletionIsReported ∧ Claims.GoLatchesAndChecks ∧ Claims.ServersTakeReportAndAbort

/-- Images load when accepted, RUN starts the job, and job commands go to the leader. -/
def Obligations.ProgramsLoadRunAndTakeCommands : Prop :=
  Claims.HostWindowChangesTheTable ∧ Claims.ImagesLoadWhenAccepted ∧ Claims.RunStartsTheJobOrWaits ∧ Claims.JobCommandsGoToTheLeader

/-- Limits, anchors, power states and firmware updates are set, kept and checked by their commands. -/
def Obligations.KeeperAndFirmwareCommandsAct : Prop :=
  Claims.KeeperCommandsSetLimitsAndAnchors ∧ Claims.PowerStateCommandsAreKept ∧ Claims.FirmwareUpdatesAreCheckedAndStaged

/-! ### The Sluice, sensors and stops -/

/-- `t` differs from `s` in the Sluice, in interrupt causes with the messages they send, and in nothing else. -/
def Claims.onlySluice (s t : State) : Prop :=
  t = { s with sluice := t.sluice, cxl := { s.cxl with cause := t.cxl.cause, pba := t.cxl.pba }, outbox := t.outbox }

/-- R32, R33, R503, R517: an interval report is kept and summed; a new PHASE_TAG ends the occurrence, and the domain adopts the pending
budget it has not taken: an HBM domain paces at the lowest, and an ACLK domain asks for the slowest, of budget, ceiling and top; a
budget made for another tag is counted. -/
def Claims.DomainsAdoptPendingBudgets : Prop :=
  ∀ (d : Fin 10) (tag : W16) (us : Nat) (power : Rat) (cycles bytes : W32) (s : State),
    let x := s.sluice.doms.get d
    exec (.budgetIntervalReport d cycles bytes) s = .next (s.modDom d fun x => { x with
      cycles := cycles, bytes := bytes, occCycles := x.occCycles + cycles.toNat, occBytes := x.occBytes + bytes.toNat
      occCount := x.occCount + 1 }) ∧
    (∃ t, exec (.phaseTagChange d tag us power) s = .next t ∧ Claims.onlySluice s t ∧
      let y := t.sluice.doms.get d
      y.tag = tag ∧ y.occCycles = 0 ∧ y.occBytes = 0 ∧ y.occCount = 0 ∧ t.sluice.follow.get 0 x.tag.toNat = tag.toNat ∧
      t.sluice.copy.isSome ∧ y.taken = false ∧ y.div = x.div ∧
      (∀ t' al, s.sluice.copy = some (t', al) → x.taken = false →
        let a := al.getD d.val (0, 64, 0)
        y.budgetDiv = a.1 ∧ y.budgetPace = a.2.1 ∧ y.lowDiv = 0 ∧ y.lowPace = 64 ∧ y.urgent = false ∧
        t.sluice.mispredict = (if t'.isSome && t' != some tag then satInc s.sluice.mispredict else s.sluice.mispredict) ∧
        (4 ≤ d.val ∧ d.val < 8 → y.pace = min (min a.2.1 64) x.ceilPace) ∧
        (d.val < 4 ∨ 8 ≤ d.val →
          let k := max a.1 (max x.ceilDiv x.top)
          (k = x.div ∨ (k < x.div ∧ s.sluice.sag = true) → y.pending = none) ∧
          (x.div < k ∨ (k < x.div ∧ s.sluice.sag = false) → y.pending = some k))) ∧
      (s.sluice.copy = none ∨ x.taken = true → y.budgetDiv = x.budgetDiv ∧ y.budgetPace = x.budgetPace ∧ y.pace = x.pace ∧ y.urgent = x.urgent ∧
        y.pending = x.pending ∧ t.sluice.mispredict = s.sluice.mispredict))

/-- R501, R502, R506, R507: at an alignment boundary a pending switch is made unless a stretch holds it, until 1 µs after the stretch
ends, or an up-shift's rail has not arrived; a droop starts a stretch and holds a pending switch; its end counts the edges it took. -/
def Claims.DividersSwitchAtBoundaries : Prop :=
  ∀ (d : Fin 10) (k edges : Nat) (s : State),
    let x := s.sluice.doms.get d
    let aclk := d.val < 4 ∨ 8 ≤ d.val
    let changes (i : Instr) (y : Dom) : Prop := ∃ t, exec i s = .next t ∧ Claims.onlySluice s t ∧
      t.sluice.doms.get d = { y with bind := (t.sluice.doms.get d).bind } ∧
      ∀ e, e ≠ d → t.sluice.doms.get e = { s.sluice.doms.get e with bind := (t.sluice.doms.get e).bind }
    let waits := x.stretch = true ∨ (x.hold = true ∧ s.keeper.uptime.toNat < x.releaseNs.toNat + 1000)
    (aclk → x.pending = some k → ¬waits → (x.div < k ∨ x.railReady = true) → changes (.dividerSwitch d) { x with
      div := k, pending := none, hold := false, railTo := k, railReady := decide (k ≤ x.div), rootPhase := 0 }) ∧
    (x.pending = none ∨ waits ∨ (x.pending = some k ∧ k ≤ x.div ∧ x.railReady = false) →
      exec (.dividerSwitch d) s = .next s) ∧
    (aclk → exec (.railRampDone d) s = .next (s.modDom d fun x => { x with railReady := true })) ∧
    (aclk → s.keeper.aclkOn = true → changes (.stretchBegin d) { x with stretch := true, hold := x.pending.isSome }) ∧
    (x.stretch = true → changes (.stretchRelease d edges) { x with
      stretch := false, stretchCnt := satAdd x.stretchCnt edges, releaseNs := s.keeper.uptime }) ∧
    (x.stretch = false → exec (.stretchRelease d edges) s = .next s)

/-- R33, R508 to R512, R518: a sag warning is recorded, cancels the up-shifts and, when the other input has none, slows every domain: an
ACLK domain by a point, an HBM domain by 16 of pace; it ends with a record; an input below its reset threshold resets the module. -/
def Claims.SagWarningsSlowEveryDomain : Prop :=
  ∀ (i : Supply) (mv us : Nat) (s : State),
    let active := s.sluice.sagOf i
    let lim := match i with | .main => s.sluice.warnMv | .aux => 10700
    (active = false → mv < lim → ∃ t, exec (.sagWarn i mv) s = .next t ∧
      t = { s with sluice := t.sluice, cxl := t.cxl, outbox := t.outbox, log := t.log } ∧ t.sluice.sagOf i = true ∧
      (∀ d, (t.sluice.doms.get d).div = (s.sluice.doms.get d).div ∧
        ∀ k, (t.sluice.doms.get d).pending = some k → (t.sluice.doms.get d).div ≤ k) ∧
      (s.sluice.sag = false → t.sluice.urgent = satInc s.sluice.urgent ∧ ∀ d : Fin 10,
        let x := s.sluice.doms.get d
        let y := t.sluice.doms.get d
        y.urgent = true ∧ (d.val < 4 ∨ 8 ≤ d.val → min 4 (x.div + 1) ≤ y.bound) ∧
        (4 ≤ d.val ∧ d.val < 8 → 8 < x.pace → y.pace ≤ max 8 (x.pace - 16))) ∧
      (s.sluice.sag = true → t.sluice.urgent = s.sluice.urgent)) ∧
    (active = true ∨ lim ≤ mv → exec (.sagWarn i mv) s = .next s) ∧
    (active = true → ∃ t, exec (.sagClear i us) s = .next t ∧ t.sluice.sagOf i = false ∧
      t = { s with sluice := t.sluice, cxl := t.cxl, outbox := t.outbox, log := t.log } ∧ t.log = ((s.event 0x0101 1 srcKeeper
        [supplyNo i, us]).log)) ∧
    (active = false → exec (.sagClear i us) s = .next s) ∧
    (s.keeper.rails = true → ∃ t, exec (.sagReset .main) s = .next t ∧ t.keeper.rails = false ∧ t.keeper.step = 2 ∧
      t.keeper.cls = 2 ∧ t.keeper.trigger = 3) ∧
    (∃ t, exec (.sagReset .aux) s = .next t ∧ t.keeper.rails = false ∧ t.keeper.step = 1 ∧ t.keeper.cls = 1 ∧ t.keeper.trigger = 3 ∧
      t.keeper.boot = s.keeper.boot)

/-- R513, R517, R518: while a mean of the input power is above its limit the controller slows every domain a step, unless all are at the
floor, and goes on until it is at most 0.98 of it; a sum above the limit with every domain at the floor is recorded once. -/
def Claims.PowerControllersSlowAboveTheirLimits : Prop :=
  ∀ (s : State),
    let slows (i : Instr) : Prop := ∃ t, exec i s = .next t ∧ Claims.onlySluice s t ∧ t.sluice.urgent = satInc s.sluice.urgent ∧
      ∀ d : Fin 10,
        let x := s.sluice.doms.get d
        let y := t.sluice.doms.get d
        y.urgent = true ∧ (d.val < 4 ∨ 8 ≤ d.val → min 4 (x.bound + 1) ≤ y.bound) ∧ (4 ≤ d.val ∧ d.val < 8 → 8 < x.pace → y.pace ≤ max 8 (x.pace - 8))
    let rests (i : Instr) : Prop := ∃ t, exec i s = .next t ∧ Claims.onlySluice s t ∧ t.sluice.urgent = s.sluice.urgent ∧
      ∀ d, (t.sluice.doms.get d) = { s.sluice.doms.get d with bind := (t.sluice.doms.get d).bind }
    let rule (i : Instr) (on : Bool) (m l : Rat) : Prop :=
      (s.atFloor = false → (l < m ∨ (on = true ∧ l * 98 / 100 < m)) → 0 ≤ l → slows i) ∧
      ((m ≤ l ∧ on = false) ∨ (on = true ∧ m ≤ l * 98 / 100) ∨ s.atFloor = true → rests i)
    rule .peakControllerStep s.sluice.peakOn (s.meanW 1000) (s.peakW : Rat) ∧
    rule .sustainedControllerStep s.sluice.sustainedOn (s.meanW 100000) s.powerLimit ∧
    (s.sluice.floorEpisode = false → s.atFloor = true → s.powerLimit < s.meanW 100000 → exec .capFloor s = .next
      (({ s with sluice := { s.sluice with floorEpisode := true } } : State).event 0x010D 2 srcKeeper
        [0, (s.meanW 100000).floor.toNat, s.powerLimit.floor.toNat])) ∧
    (s.sluice.floorEpisode = true → s.powerLimit < s.meanW 100000 → exec .capFloor s = .next s)

/-- R513, R520, R598, R605: a sample in its sensor's range becomes the last good value; one out of range is discarded and counted; a
current of the main input completes a sample of input power. -/
def Claims.SamplesAreRangeChecked : Prop :=
  ∀ (x : Sensor) (die : Fin 7) (v : Int) (s : State),
    let kept (i : Instr) (x : Sensor) : Prop := (sensorRange x).1 ≤ v → v ≤ (sensorRange x).2 → ∃ t, exec i s = .next t ∧
      t.sensor x = { s.sensor x with good := v, rejects := 0 } ∧ (∀ y, sensorNo y ≠ sensorNo x → t.sensor y = s.sensor y) ∧
      t.keeper.rejectCnt = s.keeper.rejectCnt ∧
      t = { s with keeper := t.keeper, sluice := t.sluice, cxl := t.cxl, log := t.log, outbox := t.outbox }
    let discarded (i : Instr) (x : Sensor) : Prop := (v < (sensorRange x).1 ∨ (sensorRange x).2 < v) → ∃ t, exec i s = .next t ∧
      t.sensor x = { s.sensor x with rejects := (s.sensor x).rejects + 1 } ∧ t.keeper.rejectCnt = satInc s.keeper.rejectCnt
    kept (.sensorSample x v) x ∧ discarded (.sensorSample x v) x ∧
    kept (.dieTempSample die v) (dieSensor die) ∧ discarded (.dieTempSample die v) (dieSensor die) ∧
    ((sensorRange .mainMa).1 ≤ v → v ≤ (sensorRange .mainMa).2 → ∃ t, exec (.sensorSample .mainMa v) s = .next t ∧
      ((∀ y ∈ [Sensor.mainMv, .mainMa, .auxMv, .auxMa], (s.sensor y).failed = false) →
        t.sluice.samples = (((s.sensor .mainMv).good * v / 1000 + (s.sensor .auxMv).good * (s.sensor .auxMa).good / 1000).toNat ::
          s.sluice.samples).take 100000))

/-- R503, R521, R600: a sensor above its domain's limit lowers the ceiling one step, and the first time is recorded; when every sensor is
3 degrees below, the ceiling rises a step and the domain itself does not; a sensor that fails is recorded and puts its domains at the
lowest ceiling. -/
def Claims.CeilingsFollowTemperature : Prop :=
  ∀ (d : Fin 10) (x : Sensor) (s : State),
    let y := s.sluice.doms.get d
    let aclk := d.val < 4 ∨ 8 ≤ d.val
    ((∃ q ∈ domSensors d, if d.val < 4 ∨ 8 ≤ d.val then ((16 * s.sluice.throttleC : Nat) : Int) < (s.sensor q).good
        else 1520 ≤ (s.sensor q).good) →
      ∃ t, exec (.thermalCeilingLower d) s = .next t ∧
        t = { s with sluice := t.sluice, cxl := t.cxl, outbox := t.outbox, log := t.log } ∧ (t.sluice.doms.get d).episode = true ∧
        (t.sluice.doms.get d).urgent = true ∧
        (aclk → (t.sluice.doms.get d).ceilDiv = min 4 (y.ceilDiv + 1) ∧ (t.sluice.doms.get d).ceilDiv ≤ (t.sluice.doms.get d).bound) ∧
        (¬aclk → 8 < y.ceilPace → (t.sluice.doms.get d).ceilPace = max 8 (y.ceilPace - 8) ∧
          (t.sluice.doms.get d).pace ≤ max 8 (y.ceilPace - 8)) ∧
        (y.episode = true → t.log = s.log)) ∧
    (s.coolEnough d = true → ∃ t, exec (.thermalCeilingRaise d) s = .next t ∧ Claims.onlySluice s t ∧
      let z := t.sluice.doms.get d
      z = { y with ceilDiv := z.ceilDiv, ceilPace := z.ceilPace, episode := z.episode, bind := z.bind } ∧
      (aclk → z.ceilDiv = y.ceilDiv - 1) ∧ (¬aclk → z.ceilPace = min 64 (y.ceilPace + 8))) ∧
    (s.hotSensor d = none → exec (.thermalCeilingLower d) s = .next s) ∧
    ((s.sensor x).failed = false → ∃ t, exec (.sensorFail x) s = .next t ∧ t.sensor x = { s.sensor x with failed := true } ∧
      ∀ e ∈ sensorDoms x, (e.val < 4 ∨ 8 ≤ e.val → (t.sluice.doms.get e).ceilDiv = 4 ∧ 4 ≤ (t.sluice.doms.get e).bound) ∧
        (4 ≤ e.val ∧ e.val < 8 → (t.sluice.doms.get e).pace ≤ 8)) ∧
    ((s.sensor x).failed = true → exec (.sensorFail x) s = .next s)

/-- R500, R522 to R524, R541, R589, R592: a junction at its trip threshold, a loss of flow, a leak and a hot inlet stop the module: rails
off, a MAIN_POR held until PWR_EN has been cycled, and a record for the next start-up; a trip asserts THERMTRIP#. The loss of the
root PLL's lock resets it. The pins' levels are kept. -/
def Obligations.TripsAndLeaksStopTheModule : Prop :=
  ∀ (x : Sensor) (temp : Int) (level : Bool) (s : State), s.keeper.rails = true →
    let stops (i : Instr) (code : Nat) (args : List Nat) : Prop := ∃ t, exec i s = .next t ∧ t.keeper.rails = false ∧
      t.keeper.aclkOn = false ∧ t.keeper.step = 2 ∧ t.keeper.energised = 0 ∧ t.keeper.ready = false ∧ t.keeper.tripLatch = 1 ∧
      t.keeper.cls = 2 ∧ t.keeper.trigger = 4 ∧
      t.keeper.heldRecords = s.keeper.heldRecords ++ [(code, 4, args), (0x0110, 1, [2, 4, s.keeper.uptime.toNat])] ∧
      t.fw.revoked = s.fw.revoked ∧ t.log.flash = s.log.flash
    let lim : Int := match x with | .stack _ => 1680 | _ => 1840
    let unit : Option Nat := match x with
      | .basin d => some d.val
      | .hub => some 4
      | .runnel r => some (5 + r.val)
      | .stack i => some i.val
      | _ => none
    (∀ u, unit = some u → lim ≤ temp → stops (.thermalTrip x temp) 0x0103 [u, argInt temp, s.keeper.uptime.toNat] ∧
      ∃ t, exec (.thermalTrip x temp) s = .next t ∧ t.keeper.thermtrip = true) ∧
    (unit = none ∨ temp < lim → exec (.thermalTrip x temp) s = .next s) ∧
    (s.noFlow = true → stops .flowLossTimeout 0x0104 [0, 0, s.keeper.uptime.toNat]) ∧
    (s.noFlow = false → exec .flowLossTimeout s = .next s) ∧
    (stops .leakAssert 0x0104 [0, 1, s.keeper.uptime.toNat] ∧ ∃ t, exec .leakAssert s = .next t ∧ t.keeper.leak = true) ∧
    (720 < (s.sensor .inlet).good → stops .inletOvertempTimeout 0x0104 [0, 2, s.keeper.uptime.toNat]) ∧
    ((s.sensor .inlet).good ≤ 720 → exec .inletOvertempTimeout s = .next s) ∧
    exec .leakRelease s = .next { s with keeper := { s.keeper with leak := false } } ∧
    (∃ t, exec (.flowOkChange level) s = .next t ∧ t = { s with keeper := { s.keeper with flowOk := level, flowLost := t.keeper.flowLost } } ∧
      (level = false → t.keeper.flowLost = true)) ∧
    (∃ t, exec .pllUnlock s = .next t ∧ t.keeper.rails = false ∧ t.keeper.step = 2 ∧ t.keeper.cls = 2 ∧ t.keeper.trigger = 2 ∧
      (0x0107, 4, [0, s.keeper.uptime.toNat]) ∈ t.keeper.heldRecords)

/-- R505, R528 to R530, R532: a re-plan falls due 24 h after the last and is recorded as deferred from 48 h; while it may run each domain
is planned once, a point keeping 75 mV of guard, less down to 45, or being withdrawn below; the seventh domain completes the plan. -/
def Claims.MarginsAreReplanned : Prop :=
  ∀ (d : Fin 7) (vmins : List Nat) (s : State),
    let x := s.sluice
    let now := s.keeper.uptime.toNat
    let hours := 48 + 24 * x.deferred
    (x.lastPlan.toNat + 86400000000000 ≤ now → exec .replanDue s = .next { s with sluice := { x with planDue := true } }) ∧
    (now < x.lastPlan.toNat + 86400000000000 → exec .replanDue s = .next s) ∧
    (x.lastPlan.toNat + hours * 3600000000000 ≤ now → exec .replanDeferred s = .next
      (({ s with sluice := { x with deferred := x.deferred + 1 } } : State).event 0x0109 1 srcKeeper [0, hours])) ∧
    (x.planDue = true → d.val ∉ x.planned → s.planTime = true → s.keeper.rails = true →
      (d.val < 6 → x.planned.length < 6 → vmins.length = 5 → ∃ t, exec (.replanDomain d vmins) s = .next t ∧
        t.sluice.planned = d.val :: x.planned ∧ ∀ k < 5,
          let v := vmins.getD k 0
          let old := x.points.get (.made 0) (5 * d.val + k)
          t.sluice.points.get (.made 0) (5 * d.val + k) =
            (if old.withdrawn then { old with vmin := v, vneed := v + old.guard }
             else if v ≤ 775 then ⟨v, v + 75, 75, false⟩ else if v ≤ 805 then ⟨v, 850, 850 - v, false⟩
             else ⟨v, v + old.guard, old.guard, true⟩)) ∧
      (d.val = 6 → x.planned.length < 6 → ∃ t, exec (.replanDomain d vmins) s = .next t ∧
        t.sluice.hubMargin = 850 - (vmins.headD 0 : Int) ∧ t.sluice.points = x.points ∧ t.sluice.planned = 6 :: x.planned) ∧
      (x.planned.length = 6 → ∃ t, exec (.replanDomain d vmins) s = .next t ∧ t.sluice.planDue = false ∧ t.sluice.planned = [] ∧
        t.sluice.lastPlan = s.keeper.uptime ∧ t.sluice.planCount = satInc x.planCount ∧ t.sluice.deferred = 0 ∧
        t.sluice.planBoxes = [])) ∧
    (x.planDue = false ∨ s.planTime = false → exec (.replanDomain d vmins) s = .next s)

/-- Domains adopt budgets, and slow for sags and power limits. -/
def Obligations.DomainsFollowBudgetsAndSupply : Prop :=
  Claims.DomainsAdoptPendingBudgets ∧ Claims.SagWarningsSlowEveryDomain ∧ Claims.PowerControllersSlowAboveTheirLimits

/-- Samples are checked against their range, and ceilings follow temperature. -/
def Obligations.TemperaturesAndSensorsAreWatched : Prop :=
  Claims.SamplesAreRangeChecked ∧ Claims.CeilingsFollowTemperature

/-- Dividers switch at boundaries unless held; re-plans fall due and lower, keep or withdraw each point. -/
def Obligations.DividersSwitchAndMarginsAreReplanned : Prop :=
  Claims.DividersSwitchAtBoundaries ∧ Claims.MarginsAreReplanned

/-! ### The Keeper: firmware, resets and start-up -/

/-- R35, R36, R38, R39, R481, R547: the firmware's heartbeat and CTRL_READY, which READY follows; a hang or a control-core fault restarts
it: CTRL_READY and READY fall, commands it had taken complete with RESTARTED, and the step, the data plane and the fabric are left as
they are; the third hang within 60 s is a warm reset, which preserves memory for a loaded program. -/
def Claims.FirmwareRestartsAndResets : Prop :=
  ∀ (n : Fin 8) (s : State),
    let k := s.keeper
    let recent := k.hangs.filter fun h => decide (k.uptime.toNat ≤ h.toNat + 60000000000)
    let restarted (i : Instr) : Prop := ∃ t, exec i s = .next t ∧ t.keeper.fwRestart = true ∧ t.keeper.ctrlReady = false ∧
      t.keeper.ready = false ∧ t.keeper.cls = 6 ∧ t.keeper.trigger = 2 ∧ t.record = s.record ∧ t.weir = s.weir ∧ t.jets = s.jets ∧
      t.runnels = s.runnels ∧ t.tiers = s.tiers ∧ t.coll = s.coll ∧
      ((s.boxes.get n).server = 1 → ((s.boxes.get n).state = 2 ∨ (s.boxes.get n).state = 3) →
        (t.boxes.get n).state = 4 ∧ (t.boxes.get n).status = 0xA) ∧
      ((s.boxes.get n).state ≠ 2 → (s.boxes.get n).state ≠ 3 → t.boxes.get n = s.boxes.get n)
    s.fwRuns = true →
    exec .fwAliveToggle s = .next { s with keeper := { k with fwAlive := !k.fwAlive } } ∧
    (∃ t, exec .ctrlReadySet s = .next t ∧
      t = { s with keeper := { k with ctrlReady := true, ready := k.dataReady && decide (k.powerState ≤ 1) }, cxl := t.cxl
                   outbox := t.outbox } ∧
      (k.ready = (k.dataReady && decide (k.powerState ≤ 1)) → t.cxl = s.cxl) ∧
      (k.ready ≠ (k.dataReady && decide (k.powerState ≤ 1)) → t.cxl.cause.getLsbD 9 = true)) ∧
    (k.step = 11 →
      restarted .controlCoreFault ∧ (recent.length < 2 → restarted .fwHang) ∧
      (2 ≤ recent.length → ∃ t, exec .fwHang s = .next t ∧ t.keeper.step = 4 ∧ t.keeper.cls = 3 ∧ t.keeper.trigger = 2 ∧
        t.keeper.preq = (k.preq || s.job.image.isSome) ∧ t.keeper.pstep = s.record.globalStep ∧ t.tiers = s.tiers))

/-- R39: the restarted firmware sets CTRL_READY, which READY follows, and resumes: the step commit record stands, unless an abort or the
result of the vote came during the restart, which it then acts on. -/
def Claims.RestartEndsWithCtrlReady : Prop :=
  ∀ (n winner : Nat) (s : State), s.keeper.fwRestart = true →
    let serves : State := ({ s with keeper := { s.keeper with fwRestart := false, ctrlReady := true } } : State).readyUpdate
    serves.keeper = { s.keeper with
      fwRestart := false, ctrlReady := true, ready := s.keeper.dataReady && decide (s.keeper.powerState ≤ 1) } ∧
    serves = { s with keeper := serves.keeper, cxl := serves.cxl, outbox := serves.outbox } ∧
    (s.job.abortDue = none → s.job.decided = none → exec .fwRestartDone s = .next serves) ∧
    (s.job.abortDue = none → s.job.decided = some (1, winner) → exec .fwRestartDone s = .next
      ({ serves with job := { s.job with decided := none } } : State).commitStep) ∧
    (s.job.abortDue = some n → s.inStep = true → exec .fwRestartDone s = .next (serves.takeAbort n))

/-- What a reset of class 2 or 3 leaves (R551, R552): the registers of the dies at their reset values, and what is kept in flash, fuses
and the Keeper island. -/
def Claims.diesAtReset (s t : State) : Prop :=
  t.record = State.reset.record ∧ t.job = State.reset.job ∧ t.weir = State.reset.weir ∧ t.coll = State.reset.coll ∧
  t.boxes = State.reset.boxes ∧ t.log.ring = [] ∧ t.log.flash = s.log.flash ∧ t.log.nextSeq = s.log.nextSeq ∧
  (∀ j, t.jet j = { State.reset.jet j with fused := (s.jet j).fused, test := (s.jet j).test }) ∧
  (∀ r, (t.runnels.get r).cores = (State.reset.runnels.get r).cores) ∧ t.fw.keys = s.fw.keys ∧ t.fw.revoked = s.fw.revoked ∧
  t.fw.rollback = s.fw.rollback ∧ t.fw.active = s.fw.active ∧ t.fw.pend = s.fw.pend ∧ t.fw.slotA = s.fw.slotA ∧
  t.fw.slotB = s.fw.slotB ∧ t.part = s.part ∧ t.pending = s.pending

/-- R36, R37, R545 to R552, R559: AUX_POR enters start-up at step 1 and keeps what is in flash and fuses; MAIN_POR enters at step 2 with
the rails off; a warm reset copies the step and the slot, keeps the tiers, and enters at step 4 held until its hold ends; a request no
stronger than the reset being carried out is absorbed. -/
def Claims.ResetsEnterStartup : Prop :=
  ∀ (trigger : Fin 5) (s : State),
    let k := s.keeper
    let enters (t : State) (cls tr entry : Nat) : Prop := t.keeper.step = entry ∧ t.keeper.cls = cls ∧ t.keeper.trigger = tr ∧
      t.keeper.ready = false ∧ t.keeper.ctrlReady = false ∧ t.keeper.dataReady = false ∧
      (0x0110, 1, [cls, tr, if cls = 1 then 0 else k.uptime.toNat]) ∈ t.keeper.heldRecords
    let starting := k.step < 11 ∧ k.abandoned = false
    (∃ t, exec .auxPor s = .next t ∧ enters t 1 3 1 ∧ Claims.diesAtReset s t ∧ t.tiers = [] ∧ t.keeper.rails = false ∧
      t.keeper.uptime = 0 ∧ t.keeper.boot = k.boot) ∧
    (¬starting ∨ (k.entry ≠ 1 ∧ k.entry ≠ 2) → ∃ t, exec (.mainPor trigger) s = .next t ∧
      enters t 2 trigger.val 2 ∧ Claims.diesAtReset s t ∧ t.tiers = [] ∧ t.keeper.rails = false ∧ t.keeper.aclkOn = false ∧
      t.keeper.energised = 0 ∧ t.keeper.preq = false ∧ t.keeper.uptime = k.uptime) ∧
    (starting → k.entry = 1 ∨ k.entry = 2 → exec (.mainPor trigger) s = .next s) ∧
    (¬starting → k.abandoned = false → k.rails = true →
      (trigger.val = 0 ∧ k.perst = true) ∨ (trigger.val = 1 ∧ k.warmPending = true) ∨ trigger.val = 2 →
      ∃ t, exec (.warmResetBegin trigger) s = .next t ∧ enters t 3 trigger.val 4 ∧ Claims.diesAtReset s t ∧ t.tiers = s.tiers ∧
        t.keeper.rails = true ∧ t.keeper.warmHold = true ∧ t.keeper.preq = k.preq ∧ t.keeper.pstep = s.record.globalStep ∧
        t.keeper.vslot = s.record.slot ∧ t.keeper.pvalid = true ∧ t.keeper.uptime = k.uptime) ∧
    (starting → exec (.warmResetBegin trigger) s = .next s) ∧
    (k.warmHold = true → k.perst = false → exec .warmResetHoldEnd s = .next { s with keeper := { k with
      warmHold := false, aclkOn := true, stepNs := k.uptime } }) ∧
    (k.warmHold = true → k.perst = true → exec .warmResetHoldEnd s = .next s)

/-- R541, R547, R548, R554, R588 to R592, R604: the pins: PERST# asserted starts a warm reset and released ends its hold after 1 ms;
PWR_EN deasserted takes the rails down and asserted clears a trip; either leaves a commanded Dry as a MAIN_POR; a change of the latched
SLOT_ID is recorded once; REFCLK's presence is kept. -/
def Obligations.PinsAreFollowed : Prop :=
  ∀ (v : BitVec 4) (s : State),
    let k := s.keeper
    let main (i : Instr) (pwr perst : Bool) : Prop := ∃ t, exec i s = .next t ∧ t.keeper.step = 2 ∧ t.keeper.cls = 2 ∧
      t.keeper.rails = false ∧ t.keeper.pwrEn = pwr ∧ t.keeper.perst = perst
    (k.perst = false → k.step = 11 → k.abandoned = false → k.rails = true →
      ∃ t, exec .perstAssert s = .next t ∧ t.keeper.perst = true ∧ t.keeper.step = 4 ∧ t.keeper.cls = 3 ∧ t.keeper.trigger = 0 ∧
        t.keeper.warmHold = true ∧ t.tiers = s.tiers) ∧
    (k.perst = false → k.rails = false → exec .perstAssert s = .next { s with keeper := { k with perst := true } }) ∧
    (k.perst = true → k.warmHold = true → k.powerState ≠ 3 →
      (k.entryNs.toNat + 1000000 ≤ k.uptime.toNat → exec .perstRelease s = .next { s with keeper := { k with
        perst := false, warmHold := false, aclkOn := true, stepNs := k.uptime } }) ∧
      (k.uptime.toNat < k.entryNs.toNat + 1000000 → exec .perstRelease s = .next { s with keeper := { k with perst := false } })) ∧
    (k.powerState = 3 → k.step = 11 → (k.perst = true → main .perstRelease k.pwrEn false) ∧
      (k.pwrEn = false → main .pwrEnAssert true k.perst)) ∧
    (k.pwrEn = true → k.rails = true → main .pwrEnDeassert false k.perst ∧
      ∃ t, exec .pwrEnDeassert s = .next t ∧ t.keeper.thermtrip = false) ∧
    (k.pwrEn = true → k.rails = false → exec .pwrEnDeassert s = .next { s with keeper := { k with
      pwrEn := false, thermtrip := false, tripLatch := if k.tripLatch = 1 then 2 else k.tripLatch } }) ∧
    (k.pwrEn = false → ¬(k.powerState = 3 ∧ k.step = 11) → exec .pwrEnAssert s = .next { s with keeper := { k with
      pwrEn := true, tripLatch := if k.tripLatch = 2 then 0 else k.tripLatch } }) ∧
    (k.step < 2 ∨ v = k.slotId ∨ k.slotChanged = true → exec (.slotIdChanged v) s = .next { s with keeper := { k with slotPins := v } }) ∧
    (2 ≤ k.step → v ≠ k.slotId → k.slotChanged = false →
      (k.rails = true → 5 ≤ k.step → exec (.slotIdChanged v) s = .next
        (({ s with keeper := { k with slotPins := v, slotChanged := true } } : State).event 0x0121 2 srcKeeper [k.slotId.toNat, v.toNat])) ∧
      (k.rails = false → exec (.slotIdChanged v) s = .next { s with keeper := { k with
        slotPins := v, slotChanged := true, heldRecords := k.heldRecords ++ [(0x0121, 2, [k.slotId.toNat, v.toNat])] } })) ∧
    exec .refclkLoss s = .next { s with keeper := { k with refclk := false } } ∧
    exec .refclkReturn s = .next { s with keeper := { k with refclk := true } }

/-- R541, R543, R567, R569, R591: in step 1 the ROM boots the Keeper from ACTIVE, else from the other slot, and latches SLOT_ID after an
AUX_POR; in step 2 the rails rise once PWR_EN is asserted, the input is above its warning and no trip is held; a step that fails the
first time in a chain is followed by a warm reset, and the second time start-up is abandoned. -/
def Claims.StartupBootsAndFails : Prop :=
  ∀ (i : SlotImage) (ms : Nat) (s : State),
    let k := s.keeper
    let f := s.fw
    let ok (b : Bool) (i : SlotImage) : Prop := f.slot b = some i ∧ f.slotCheck (some i) false = none
    let boots : Prop := ∃ t, exec .keeperBoot s = .next t ∧
      t = { s with fw := { f with keeperHash := SlotImage.keeper i, versions := (i.versions.1, f.versions.2) }, keeper := t.keeper } ∧
      t.keeper = { k with noSlot := false, step := 2, stepNs := k.uptime, slotId := if k.cls = 1 then k.slotPins else k.slotId
                          slotChanged := if k.cls = 1 then false else k.slotChanged }
    (k.step = 1 → ok f.active i → boots) ∧
    (k.step = 1 → (∀ x, ¬ok f.active x) → ok (!f.active) i → boots) ∧
    (k.step = 1 → (∀ b x, ¬ok b x) → exec .keeperBoot s = .next { s with keeper := { k with noSlot := true } }) ∧
    (k.step = 2 → k.rails = false → k.abandoned = false →
      (k.pwrEn = true → k.tripLatch = 0 → s.sluice.sagMain = false → k.leak = false → exec .mainPowerEnable s = .next { s with keeper :=
        { k with rails := true, powerState := 0, stepNs := k.uptime } }) ∧
      (k.pwrEn = true → k.tripLatch = 0 → s.sluice.sagMain = false → k.leak = true → ∃ t, exec .mainPowerEnable s = .next t ∧
        t.keeper.rails = false ∧ t.keeper.tripLatch = 1) ∧
      (k.pwrEn = false ∨ k.tripLatch ≠ 0 ∨ s.sluice.sagMain = true → exec .mainPowerEnable s = .next s)) ∧
    (k.stepping = true →
      (k.chainFails = 0 → ∃ t, exec (.startupStepTimeout ms) s = .next t ∧ t.keeper.step = 4 ∧ t.keeper.cls = 3 ∧
        t.keeper.chainFails = 1 ∧ t.keeper.failStep = k.step ∧ (0x0111, 3, [k.step, ms]) ∈ t.keeper.heldRecords) ∧
      (k.chainFails ≠ 0 → ∃ t, exec (.startupStepTimeout ms) s = .next t ∧ t.keeper.abandoned = true ∧ t.keeper.rails = false ∧
        t.keeper.energised = 0 ∧ t.keeper.ready = false ∧ t.keeper.failStep = k.step ∧ t.keeper.powerState = 3 ∧
        (0x0112, 4, [k.step]) ∈ t.keeper.heldRecords))

/-- R36, R539, R542, R544 to R546, R556, R570, R574, R575: the steps of start-up complete in turn: step 3 starts ACLK, step 4 advances
BOOT_COUNT and boots the chosen slot, whose identity engine derives its key pair, step 7 makes a re-plan due, step 9 writes zero words
unless memory is preserved, step 10 clears the stores, and then DATA_READY is set and STARTUP_DONE recorded. -/
def Claims.StartupStepsCompleteInTurn : Prop :=
  ∀ (rep : StepReport) (i : SlotImage) (s : State), s.keeper.stepping = true → s.keeper.rails = true →
    let k := s.keeper
    let f := s.fw
    let next (n : Nat) (t : State) : Prop := exec (.startupStepAdvance rep) s = .next t ∧ t.keeper.step = n ∧ t.keeper.stepNs = k.uptime
    (k.step = 2 ∨ k.step = 8 → ∃ t, next (k.step + 1) t ∧ t = { s with keeper := t.keeper, fw := t.fw } ∧
      t.keeper = { k with step := k.step + 1, stepNs := k.uptime }) ∧
    (k.step = 3 → ∃ t, next 4 t ∧ t.keeper.aclkOn = true) ∧
    (k.step = 4 → f.pend = none → f.slot f.active = some i → f.slotCheck (some i) true = none →
      ∃ t, next 5 t ∧ t.keeper.boot = satInc k.boot ∧ t.keeper.heldRecords = [] ∧ t.fw.running = f.active ∧ t.fw.versions = i.versions ∧
        t.fw.measures = i.measurements ∧ t.fw.keyPair = some (Config.slhKeyPair f.skSeed f.skPrf f.pkSeed) ∧ t.fw.revoked = f.revoked ∧ t.fw.rollback = f.rollback ∧
        (s.log.ring = [] → k.heldRecords.length < 4096 →
          (t.log.ring.take k.heldRecords.length).map (fun x => (x.code, x.severity, x.args)) = k.heldRecords)) ∧
    ((k.step = 5 ∨ k.step = 6) → rep.failedUnits = [] → ∃ t, next (k.step + 1) t ∧ t.basins = s.basins ∧ t.runnels = s.runnels) ∧
    (k.step = 7 → rep.failedPorts = [] → ∃ t, next 8 t ∧ t.sluice.planDue = true ∧ t.sluice.planned = [] ∧ t.weir = s.weir) ∧
    (k.step = 9 →
      (k.preq = true → k.entry = 4 → ∃ t, next 10 t ∧ t.tiers = s.tiers ∧ t.record.globalStep = k.pstep ∧ t.record.slot = k.vslot ∧
        t.record.phase = 0 ∧ t.keeper.pused = true) ∧
      (k.preq = false ∨ k.entry ≠ 4 → ∃ t, next 10 t ∧ t.tiers = [] ∧ t.keeper.pused = false)) ∧
    (k.step = 10 → k.memFatal = false → k.exhausted = false → f.trial = false → ∃ t, next 11 t ∧ t.keeper.dataReady = true ∧
      t.keeper.powerState = 0 ∧ t.keeper.ctrlReady = true ∧ t.keeper.ready = true ∧ (∀ j, (t.jet j).core.store = []) ∧
      (∀ j : Fin 160, (t.jet j).test = rep.arrayPass.get 0xFF j.val) ∧ t.fw = f) ∧
    (k.step = 10 → (k.memFatal = true ∨ k.exhausted = true) → ∃ t, next 11 t ∧ t.keeper.dataReady = false ∧ t.keeper.ready = false)

/-- R551 to R554: a change of power state in the running module is recorded and completes its command; entry into Still gates the jets
and the basin dies and keeps the tiers; entry into Dry takes the rails down. -/
def Claims.PowerStateChangesComplete : Prop :=
  ∀ (st : Nat) (n : Fin 8) (s : State),
    let k := s.keeper
    k.step = 11 → k.rails = true →
    (k.stateReq = some (st, some n.val) → st ≤ 2 → (s.boxes.get n).outstanding = true →
      ∃ t, exec .powerStateChangeDone s = .next t ∧ t.keeper.powerState = st ∧ t.keeper.stateReq = none ∧ t.tiers = s.tiers ∧
        t.runnels = s.runnels ∧ t.keeper.ready = (k.ctrlReady && k.dataReady && decide (st ≤ 1)) ∧ (t.boxes.get n).state = 4 ∧
        (t.boxes.get n).status = 0 ∧ (st = 2 → ∀ j, (t.jet j).core.store = []) ∧ (st ≠ 2 → t.jets = s.jets)) ∧
    (k.stateReq = some (3, none) → ∃ t, exec .powerStateChangeDone s = .next t ∧ t.keeper.powerState = 3 ∧ t.keeper.rails = false ∧
      t.keeper.energised = 0 ∧ t.keeper.ready = false ∧ t.tiers = [] ∧
      t.keeper.heldRecords = k.heldRecords ++ [(0x0114, 0, [k.powerState, 3])]) ∧
    (k.stateReq = none → exec .powerStateChangeDone s = .next s)

/-- The firmware restarts on a hang or a fault; resets of class 1 to 3 enter start-up and keep what their class keeps. -/
def Obligations.FirmwareAndModuleReset : Prop :=
  Claims.FirmwareRestartsAndResets ∧ Claims.ResetsEnterStartup

/-- Start-up boots, completes its steps in turn or fails, and power states change. -/
def Obligations.StartupRunsItsSteps : Prop :=
  Claims.StartupBootsAndFails ∧ Claims.StartupStepsCompleteInTurn ∧ Claims.PowerStateChangesComplete

/-! ### The sideband -/

/-- R594, R595: SETDASA gives the target a dynamic address, and ENTDAA one to a target without; each MCTP control request that waits is
answered to its source: the request that has waited longest leaves the queue and its response goes out; an endpoint ID of 0 or 0xFF is
refused. -/
def Claims.ControlRequestsAreAnswered : Prop :=
  ∀ (eid src : Byte) (m : List Byte) (addr : BitVec 7) (s : State),
    let k := s.keeper
    let waits (q : SideReq) : Prop := s.waiting q = some (src, m)
    let answered (s : State) (what : String) (args : List Int) : State :=
      { s with keeper := { s.keeper with requests := s.keeper.requests.erase (src, m) }, outbox := s.outbox ++ [.mctp src.toNat what args] }
    exec (.setdasa addr) s = .next { s with keeper := { k with dynAddr := some addr } } ∧
    exec (.entdaa addr) s = .next { s with keeper := { k with dynAddr := if k.dynAddr.isNone then some addr else k.dynAddr } } ∧
    (waits .setEid →
      (eid ≠ 0 → eid ≠ 0xFF → exec (.setEndpointId eid) s = .next (answered { s with keeper := { k with eid := eid } } "SetEndpointID"
        [0, eid.toNat])) ∧
      (eid = 0 ∨ eid = 0xFF → exec (.setEndpointId eid) s = .next (answered s "SetEndpointID" [2]))) ∧
    (waits .getEid → exec .getEndpointId s = .next (answered s "GetEndpointID" [0, k.eid.toNat])) ∧
    (waits .mctpVersion → ∃ v, exec .getMctpVersionSupport s = .next (answered s "GetMCTPVersionSupport" [0, v])) ∧
    (waits .msgTypes → exec .getMessageTypeSupport s = .next (answered s "GetMessageTypeSupport" [0, 0, 1]))

/-- R595, R597: each PLDM request that waits is answered to its source: the request that has waited longest leaves the queue and its
response goes out; a sensor's reading, that of the telemetry mirror, carries its states; an unknown sensor, record or type completes with
an error. -/
def Obligations.PldmRequestsAreAnswered : Prop :=
  ∀ (src : Byte) (m : List Byte) (id : W16) (handle : W32) (s : State),
    let k := s.keeper
    let waits (q : SideReq) : Prop := s.waiting q = some (src, m)
    let answered (s : State) (what : String) (args : List Int) : State :=
      { s with keeper := { s.keeper with requests := s.keeper.requests.erase (src, m) }, outbox := s.outbox ++ [.mctp src.toNat what args] }
    let type (o : Nat) : Nat := (m.getD o 0).toNat
    (waits .getTid → ∃ v, exec .gettid s = .next (answered s "GetTID" [0, v])) ∧
    (waits .pldmVersion → (type 9 = 0 ∨ type 9 = 2 → ∃ v, exec .getpldmversion s = .next (answered s "GetPLDMVersion" [0, v])) ∧
      (type 9 ≠ 0 → type 9 ≠ 2 → exec .getpldmversion s = .next (answered s "GetPLDMVersion" [0x83]))) ∧
    (waits .pldmTypes → exec .getpldmtypes s = .next (answered s "GetPLDMTypes" [0, 0, 2])) ∧
    (waits .pldmCommands →
      (type 4 = 0 → exec .getpldmcommands s = .next (answered s "GetPLDMCommands" [0, 0x02, 0x03, 0x04, 0x05])) ∧
      (type 4 = 2 → exec .getpldmcommands s = .next (answered s "GetPLDMCommands" [0, 0x11, 0x50, 0x51]))) ∧
    (waits .sensorReading →
      (1 ≤ id.toNat → id.toNat ≤ 14 → k.rails = true ∨ 9 ≤ id.toNat → s.pldmFailed id.toNat = false → ∃ p,
        exec (.getsensorreading id) s = .next (answered s "GetSensorReading" [0, 0, p, k.readings.get 0 id.toNat])) ∧
      (1 ≤ id.toNat → id.toNat ≤ 8 → k.rails = false → s.pldmFailed id.toNat = false →
        exec (.getsensorreading id) s = .next (answered s "GetSensorReading" [0, 2, 0])) ∧
      (id = 0 ∨ 14 < id.toNat → exec (.getsensorreading id) s = .next (answered s "GetSensorReading" [0x80]))) ∧
    (waits .pdrInfo → exec .getpdrrepositoryinfo s = .next (answered s "GetPDRRepositoryInfo" [0, 0, 14])) ∧
    (waits .getPdr →
      (handle = 9 → exec (.getpdr handle) s = .next (answered s "GetPDR" [0, 10, 9, 2, -4, 640, 720, 240, -2147483648])) ∧
      (14 < handle.toNat → exec (.getpdr handle) s = .next (answered s "GetPDR" [0x82])))

/-- R594 to R596: packets of a message are joined in order, one message at a time from each endpoint; a packet out of order, a message
displaced by a new one and a message whose next packet does not come are dropped and counted; a whole message that is a supported
request waits, and any other PLDM command is answered as unsupported. -/
def Claims.MessagesAreAssembled : Prop :=
  ∀ (src : Byte) (seq nextSeq : BitVec 2) (tag tag' : BitVec 3) (data old : List Byte) (eom : Bool) (s : State),
    let k := s.keeper
    let find := k.partials.find? fun p => p.src == src
    let rest := k.partials.filter fun p => p.src != src
    let drop (s : State) : State := { s with keeper := { s.keeper with mctpDrop := satInc s.keeper.mctpDrop } }
    let put (s : State) (l : List Partial) : State := { s with keeper := { s.keeper with partials := l } }
    let whole (s : State) (m : List Byte) : State :=
      if (sideReq m).isSome then { s with keeper := { s.keeper with requests := s.keeper.requests ++ [(src, m)] } }
      else if (m.getD 0 0).toNat % 128 = 1 then { s with outbox := s.outbox ++ [.mctp src.toNat "ERROR_UNSUPPORTED_PLDM_CMD" [5]] }
      else if (m.getD 0 0).toNat % 128 = 0 then { s with outbox := s.outbox ++ [.mctp src.toNat "ERROR_UNSUPPORTED_CMD" [5]] }
      else s
    (find = none →
      exec (.mctpPacketReceive src true true seq tag data) s = .next (whole (put s rest) data) ∧
      exec (.mctpPacketReceive src true false seq tag data) s = .next (put s (⟨src, tag, seq + 1, data⟩ :: rest)) ∧
      exec (.mctpPacketReceive src false eom seq tag data) s = .next (drop s) ∧
      exec (.mctpReassemblyTimeout src) s = .next s) ∧
    (find = some ⟨src, tag', nextSeq, old⟩ →
      exec (.mctpPacketReceive src true false seq tag data) s = .next (put (drop s) (⟨src, tag, seq + 1, data⟩ :: rest)) ∧
      exec (.mctpPacketReceive src false true nextSeq tag' data) s = .next (whole (put s rest) (old ++ data)) ∧
      exec (.mctpPacketReceive src false false nextSeq tag' data) s = .next
        (put s (⟨src, tag', nextSeq + 1, old ++ data⟩ :: rest)) ∧
      (tag ≠ tag' ∨ seq ≠ nextSeq → exec (.mctpPacketReceive src false eom seq tag data) s = .next (drop s)) ∧
      exec (.mctpReassemblyTimeout src) s = .next (drop (put s rest)))

/-- Dynamic addresses are taken, messages are assembled, and MCTP control requests are answered once. -/
def Obligations.ControlRequestsAreAnswered : Prop :=
  Claims.ControlRequestsAreAnswered ∧ Claims.MessagesAreAssembled

/-! ### Registers -/

/-- R12, R14, R15: reading a counter that a read clears gives its count and leaves the events that arrive in that cycle; reading the low
half of a 64-bit register gives it and latches the high half of the same moment, which the next read of the high half gives; a 64-bit read
is one sample; a 32-bit register that no read clears reads as it stands; an agent that does not reach a block reads nothing. -/
def Claims.CounterReadsClearAndLowHalvesLatch : Prop :=
  ∀ (j : Fin 160) (d : Fin 4) (p : Fin 6) (i : Fin 10) (arriving : Nat) (who : Agent) (n : Fin 8) (s : State),
    let read (blk : RegBlock) (off : Nat) (v : W32) (t : State) : Prop :=
      exec (.rcFieldRead blk off arriving) s = .next { t with readData := v.setWidth 64 }
    let left : W32 := satAdd 0 arriving
    let x := s.jet j
    (read (.jet j) 0x400 x.core.fmt.sat (s.modJet j fun x => { x with core := { x.core with fmt := { x.core.fmt with sat := left } } })) ∧
    (read (.jet j) 0x138 x.core.hazard (s.modJet j fun x => { x with core := { x.core with hazard := left } })) ∧
    (read (.basin d) 0x200 (s.basins.get d).conflict (s.modBasin d fun b => { b with conflict := left })) ∧
    (read .fh 0x2800 s.record.stale { s with record := { s.record with stale := left } }) ∧
    (read .fh (0x8410 + 0x100 * p.val + 4 * i.val) ((s.weir.ports.get p).cnt.get 0 i.val)
      (s.modPort p fun x => { x with cnt := x.cnt.set i.val left })) ∧
    (read .keeper 0x34 s.keeper.rejectCnt { s with keeper := { s.keeper with rejectCnt := left } }) ∧
    (read .sluice 0x200 s.sluice.urgent { s with sluice := { s.sluice with urgent := left } }) ∧
    (∀ blk off v, off % 8 = 0 → s.reg64 blk off = some v → reaches who blk = true → s.powered blk = true →
      let high := v.extractLsb' 32 32
      exec (.reg64LowHalfRead who blk off) s = .next { s with
        readData := (v.extractLsb' 0 32).setWidth 64, latch := some (blk, off, high) } ∧
      (∀ h, s.latch = some (blk, off, h) → exec (.reg64LowHalfRead who blk (off + 4)) s = .next { s with
        readData := h.setWidth 64, latch := none }) ∧
      (s.latch = none → exec (.reg64LowHalfRead who blk (off + 4)) s = .next { s with readData := high.setWidth 64 }) ∧
      s.read64 who blk off = (v, s)) ∧
    (∀ blk off, off % 4 = 0 → s.reg64 blk (off - off % 8) = none → s.rc blk off = none → reaches who blk = true → s.powered blk = true →
      exec (.reg64LowHalfRead who blk off) s = .next { s with readData := (BitVec.ofNat 32 (s.reg32 blk off)).setWidth 64 }) ∧
    (∀ blk off, reaches who blk = false ∨ s.powered blk = false → exec (.reg64LowHalfRead who blk off) s = .next s) ∧
    s.reg64 .keeper 8 = some s.keeper.uptime ∧ s.reg64 .fh 0x20 = some s.log.nextSeq ∧
    s.reg64 (.mailbox n) 0x28 = some (s.boxes.get n).heartbeat ∧
    s.reg64 (.jet j) 0x118 = some (x.core.vxpc &&& ~~~3)

/-- R12, R103, R120, R150, R452, R459, R461, R473: what 32-bit registers read: FH_STATUS, the causes and the mask, the sentinel's control,
the state of an array and of a mailbox, and the structures of configuration space, whose places are the model's (log 3). -/
def Claims.RegistersReadTheirFields : Prop :=
  ∀ (n : Fin 8) (d : Fin 4) (j : Fin 160) (a : Fin 8) (s : State),
    let bit (b : Bool) (k : Nat) : Nat := if b then 2 ^ k else 0
    let b := s.boxes.get n
    let x := (s.basins.get d).snt
    let y := s.arr j a
    s.reg32 .fh 0x0C = s.cxl.cause.toNat ∧ s.reg32 .fh 0x10 = s.cxl.mask.toNat ∧ (s.reg32 .fh 0x04).testBit 0 = s.keeper.ready ∧
    (s.reg32 .fh 0x04).testBit 8 = (s.record.phase == 0x0B) ∧ (s.reg32 .fh 0x04).testBit 9 = s.keeper.fwRestart ∧
    s.reg32 (.basin d) 0x300 = x.eventLimit.toNat * 2 ^ 24 + x.log2n.toNat * 2 ^ 8 + bit x.sample.isSome 1 + bit x.en 0 ∧
    s.reg32 (.jet j) (0x800 + 0x40 * a.val) = bit y.inQuad 13 + bit y.held 12 + min 15 y.queue.length * 2 ^ 8 +
      bit (y.queue.length == 16) 7 + bit y.active 6 + y.shadow * 2 ^ 4 + y.tileB.state.code * 4 + y.tileA.state.code ∧
    s.reg32 (.mailbox n) 0x10 = b.stTag.toNat * 2 ^ 16 + b.server.toNat * 16 + b.state.toNat ∧
    s.reg32 (.mailbox n) 0x20 = b.outLen ∧
    s.reg32 .config 0 = 0x4A021E9B ∧ s.reg32 .config 0x188 = 0x17 * 2 ^ 16 ∧ s.reg32 .config 0x198 = s.caps.hostWindow / 2 ^ 32 ∧
    s.reg32 .config 0x1C8 = 7 * 2 ^ 16 + 7 ∧ s.reg32 .config 0x1E8 = 8

/-- R12, R13, R460, R461, R468, R471, R474, R490, R498, R534: a write sets RW fields, clears the W1C bits that it holds 1 for, and ignores
reserved bits; a value outside a field's range leaves the field and is recorded as RSVD_WRITE; a mailbox's registers are not written
while its command is outstanding, but for GO and ABORT; an agent that does not reach a block, a block without power and a misaligned
access change nothing. -/
def Obligations.RegisterWritesFollowTheirAccess : Prop :=
  ∀ (n : Fin 8) (j : Fin 160) (who : Agent) (blk : RegBlock) (off : Nat) (wide : Bool) (v : W64) (s : State),
    let word (b : RegBlock) (o : Nat) : Out := exec (.registerWrite .firmware b o false v) s
    let w := v.toNat % 2 ^ 32
    let low := w % 2 ^ 15
    let noted (t : State) (bad : Prop) (o : Nat) (r : Out) : Prop :=
      (bad → r = .next (t.event 0x0001 1 srcFront [o, w])) ∧ (¬bad → r = .next t)
    let x := s.cxl
    let set (f : Mailbox → Mailbox) : State := s.modBox n f
    s.keeper.rails = true →
    word .fh 0x0C = .next { s with cxl := { x with cause := x.cause &&& ~~~(BitVec.ofNat 15 low) } } ∧
    word .fh 0x10 = .next { s with cxl := { x with mask := BitVec.ofNat 15 low } } ∧
    noted { s with log := { s.log with level := if w % 8 ≤ 4 then BitVec.ofNat 3 w else s.log.level } } (4 < w % 8) 0x18 (word .fh 0x18) ∧
    noted { s with cxl := { x with intEn := decide (w % 2 = 1), linkHold := if w / 256 % 256 ≤ 200 then BitVec.ofNat 8 (w / 256) else x.linkHold } }
      (200 < w / 256 % 256) 8 (word .fh 8) ∧
    ((s.boxes.get n).outstanding = false →
      word (.mailbox n) 0 = .next (set fun b => { b with opcode := BitVec.ofNat 16 w, tag := BitVec.ofNat 8 (w / 2 ^ 16) }) ∧
      word (.mailbox n) 4 = .next (set fun b => { b with len := w % 2 ^ 17 }) ∧
      word (.mailbox n) 8 = .next (set fun b => { b with ms := BitVec.ofNat 16 w })) ∧
    ((s.boxes.get n).outstanding = true →
      word (.mailbox n) 0 = .next s ∧ word (.mailbox n) 4 = .next s ∧ word (.mailbox n) 8 = .next s) ∧
    (w % 4 = 1 → word (.mailbox n) 0x0C = exec (.mailboxGo n) s) ∧
    (w % 4 = 2 → word (.mailbox n) 0x0C = exec (.mailboxAbort n) s) ∧
    (w % 4 = 0 → word (.mailbox n) 0x0C = .next s) ∧
    word (.jet j) 0x410 = .next (s.putCore (.jet j) { s.core (.jet j) with fmt := { (s.core (.jet j)).fmt with
      flags := (s.core (.jet j)).fmt.flags &&& ~~~(BitVec.ofNat 4 w) } }) ∧
    (reaches who blk = false ∨ s.powered blk = false ∨ off % (if wide then 8 else 4) ≠ 0 →
      exec (.registerWrite who blk off wide v) s = .next s)

/-- Register reads: counters clear, low halves latch, and 32-bit registers read their fields. -/
def Obligations.RegistersReadByTheirAccess : Prop :=
  Claims.CounterReadsClearAndLowHalvesLatch ∧ Claims.RegistersReadTheirFields

/-! ### The step sequencer -/

/-- R26, R27, R39, R40: the sequencer moves to the next phase only when DONE_MASK shows the phase in progress complete for the step in
progress; after a committed COMMIT with no pause due and no halt the next step starts from FORWARD with its lanes captured. A pause
that has ended is left the same way. Without a running job, or while the firmware does not serve or has an abort or a vote to act on, it
stands. -/
def Claims.PhasesAdvanceWhenDone : Prop :=
  ∀ (s : State),
    let p := s.record.phase.toNat
    (s.job.running = true → s.fwServes = true → s.job.decided = none → s.job.abortDue = none →
      (1 ≤ p → p ≤ 8 → s.record.done p = true → ∃ t, exec .phaseAdvance s = .next t ∧ t.record.phase = BitVec.ofNat 8 (p + 1) ∧
        t.record.globalStep = s.record.globalStep ∧ t.record.slot = s.record.slot ∧ t.jets = s.jets ∧ (p ≠ 7 → t.tiers = s.tiers)) ∧
      (1 ≤ p → p ≤ 8 → s.record.done p = false → exec .phaseAdvance s = .next s) ∧
      (s.committed = true → s.pauseDue = false → s.job.haltAt ≠ some s.record.globalStep →
        ∃ t, exec .phaseAdvance s = .next t ∧ t.record.phase = 1 ∧ t.record.globalStep = s.record.globalStep + 1 ∧
          t.record.slot = s.record.slot ∧ t.record.doneStep = t.record.globalStep ∧ (s.job.nextPolicy = none → t.tiers = s.tiers) ∧
          ∀ c, (t.core c).saved = (s.core c).lanes ∧ (t.core c).lanes = (s.core c).lanes) ∧
      (p = 0x0A → s.record.done 10 = true → s.job.repair = [] → ∃ t, exec .phaseAdvance s = .next t ∧ t.record.phase = 1 ∧
        t.record.globalStep = s.record.globalStep ∧ t.record.slot = s.record.slot) ∧
      (s.committed = true → s.job.haltAt = some s.record.globalStep → ∃ t, exec .phaseAdvance s = .next t ∧ t.record.phase = 0 ∧
        t.job.running = false ∧ t.record.globalStep = s.record.globalStep ∧ t.record.slot = s.record.slot)) ∧
    (s.job.running = false ∨ s.fwServes = false ∨ s.job.decided ≠ none ∨ s.job.abortDue ≠ none → exec .phaseAdvance s = .next s)

/-- R28, R30: a data-plane write of the record for the step in progress sets its field, DONE_MASK bits being added; one that names
another step is discarded and counted. -/
def Claims.RecordWritesCarryTheirStep : Prop :=
  ∀ (step : W64) (w : RecordWrite) (p : Fin 12) (v : W128) (b : Byte) (s : State),
    let r := s.record
    (step ≠ r.globalStep → exec (.dataPlaneRecordWrite step w) s = .next { s with record := { r with stale := satInc r.stale } }) ∧
    (step = r.globalStep →
      exec (.dataPlaneRecordWrite step (.done p)) s = .next { s with record := { r with
        doneStep := step, doneMask := r.doneMask ||| (1#16 <<< p.val) } } ∧
      exec (.dataPlaneRecordWrite step (.digest v)) s = .next { s with record := { r with doneStep := step, digest := v } } ∧
      exec (.dataPlaneRecordWrite step (.result b)) s = .next { s with record := { r with result := b } })

/-- R80: MOVER_CONV_EN is set only while PHASE reads IDLE, and may be cleared at any time. -/
def Claims.MoverConvEnNeedsIdle : Prop :=
  ∀ (j : Fin 160) (v : Bool) (s : State),
    (v = false ∨ s.record.phase = 0 → exec (.moverConvEnWrite j v) s = .next
      (s.modJet j fun x => { x with core := { x.core with fmt := { x.core.fmt with moverConvEn := v } } })) ∧
    (v = true → s.record.phase ≠ 0 → exec (.moverConvEnWrite j v) s = .next s)

/-- Phases advance when done, a restarted firmware resumes, record writes carry their step, and MOVER_CONV_EN needs IDLE. -/
def Obligations.SequencerAdvancesTheStep : Prop :=
  Claims.PhasesAdvanceWhenDone ∧ Claims.RestartEndsWithCtrlReady ∧ Claims.RecordWritesCarryTheirStep ∧ Claims.MoverConvEnNeedsIdle

/-! ### The whole block -/

/-- The model's queue of commands (log 9): a step takes the command at the front of the queue and is what that command does with the rest
of the queue; with an empty queue 10 ns of the Keeper's clock pass. -/
def Obligations.StepRunsTheFrontCommand : Prop :=
  (∀ (c : Instr) (rest : List Instr) (s : State), step { s with pending := c :: rest } = exec c { s with pending := rest }) ∧
  ∀ s : State, s.pending = [] → step s = .next s.tick ∧ s.tick.keeper.uptime = satAdd s.keeper.uptime 10 ∧
    s.tick = { s with keeper := { s.keeper with uptime := s.tick.keeper.uptime }
                      sluice := { s.sluice with doms := s.tick.sluice.doms, thr := s.tick.sluice.thr } }

/-- Every command answers a next state in every state, and none changes the queue of commands that wait. -/
def Obligations.EveryCommandAnswersANextState : Prop :=
  ∀ (c : Instr) (s : State), ∃ t, exec c s = .next t ∧ t.pending = s.pending

/-- R3, R568: a part of a grade is made with the arrays its grade ships with, and keeps them: no step changes the part, a FUSED_EN, a
key-hash fuse or a fuse of the identity engine, clears a revocation fuse, or lowers the anti-rollback count, which stays from 0 to 128; a
revocation or thermometer fuse is blown only by a trial that reaches the end of start-up (R574). -/
def Obligations.FusesAreNeverUndone : Prop :=
  (∀ g : Nat, g = 1280 ∨ g = 1152 ∨ g = 1024 → (State.made g).gradeOk = true ∧ (State.made g).part.grade = g) ∧
  ∀ s t : State, step s = .next t → s.fusesKept t ∧ t.gradeOk = s.gradeOk ∧ (s.fw.rollback ≤ 128 → t.fw.rollback ≤ 128) ∧
    (t.fw.revoked ≠ s.fw.revoked ∨ t.fw.rollback ≠ s.fw.rollback →
      s.fw.trial = true ∧ s.keeper.step = 10 ∧ t.keeper.dataReady = true ∧ ∃ rep rest, s.pending = .startupStepAdvance rep :: rest)

/-- Every step keeps every memory of the module in canonical form: addresses strictly rising, and no byte listed that an unlisted
address reads as. -/
def Obligations.MemoryStaysCanonical : Prop :=
  ∀ s t : State, s.memOk = true → step s = .next t → t.memOk = true

/-- R145, R150 to R152, R210, R271, R272, R280, R303, R317, R401, R403, R405, R406, R408, R459 to R461, R498, R534 to R536, R560: the
values that the register maps give for reset; memory is canonical, nothing waits, and no register of the fuses is set. -/
def Obligations.ResetLeavesTheRegisterMaps : Prop :=
  let s := State.reset
  s.memOk = true ∧ s.pending = [] ∧ s.tiers = [] ∧
  (∀ c : CoreId, (s.core c).ctrl = 0 ∧ (s.core c).cause = 0 ∧ (s.core c).fmt = {} ∧ ∀ k, (s.core c).lanes.get 1 k = 1) ∧
  (∀ d, (s.basins.get d).snt.log2n = 0x0C ∧ (s.basins.get d).snt.seed = 1 ∧ (s.basins.get d).snt.eventLimit = 1 ∧
    (s.basins.get d).snt.en = true ∧ (s.basins.get d).map.rate = 0x40) ∧
  (∀ i, (s.cisterns.get i).periodH = 0x0C ∧ (s.cisterns.get i).en = true ∧ (s.cisterns.get i).limits = 0x08100400) ∧
  (∀ r, (s.runnels.get r).periodH = 0x18 ∧ (s.runnels.get r).map.rate = 0x20 ∧ (s.runnels.get r).limits = 0x08100400) ∧
  (∀ p, (s.weir.ports.get p).state = 3 ∧ (s.weir.ports.get p).xonRx = 0xFF) ∧ s.weir.live = 1 ∧ s.weir.markKib = 0x30 ∧
  s.cxl.linkHold = 0x0A ∧ s.cxl.mask = 0x7FFF ∧ s.cxl.cause = 0 ∧ s.cxl.rate = 0 ∧ s.log.level = 2 ∧ s.log.nextSeq = 0 ∧
  s.sluice.sustainedW = 0x1068 ∧ s.sluice.peakW = 0x1450 ∧ s.sluice.throttleC = 0x64 ∧ s.sluice.warnMv = 0xA410 ∧
  s.sluice.resetMv = 0x9470 ∧ (∀ d, (s.sluice.doms.get d).pace = 0x40 ∧ (s.sluice.doms.get d).bind = 0xFF) ∧
  s.keeper.cls = 1 ∧ s.keeper.closed = 7 ∧ s.keeper.energised = 0 ∧ s.keeper.ready = false
end

