-- ==== Sys2Proof/Laws/Code.lean ====
section
/-! SUPPORT. The common code (R248, R249): an encoded word is found clean with its data, and a word found correctable is clean once
corrected. Field facts are checked on the powers of two and extended to bytes by exclusive or. -/

namespace Sys2Proof.Machine

/-! ## The field -/


theorem gfDouble_split : ∀ a < 256, gfDouble a = (2 * a % 2 ^ 8) ^^^ (a / 2 ^ 7 * 0x1D) ∧ a / 2 ^ 7 < 2 := by decide +kernel

theorem gfDouble_lt : ∀ a < 256, gfDouble a < 256 := by decide +kernel

theorem xor_lt {a b : Nat} (ha : a < 256) (hb : b < 256) : a ^^^ b < 256 := Nat.xor_lt_two_pow (n := 8) ha hb

theorem gfDouble_xor (a b : Nat) (ha : a < 256) (hb : b < 256) : gfDouble (a ^^^ b) = gfDouble a ^^^ gfDouble b := by
  obtain ⟨e1, h1⟩ := gfDouble_split a ha
  obtain ⟨e2, h2⟩ := gfDouble_split b hb
  obtain ⟨e3, -⟩ := gfDouble_split _ (xor_lt ha hb)
  rw [e1, e2, e3]
  have d2 : 2 * (a ^^^ b) = 2 * a ^^^ 2 * b := by
    have := Nat.shiftLeft_xor_distrib (a := a) (b := b) (i := 1)
    simpa [Nat.shiftLeft_eq, Nat.mul_comm] using this
  have d7 : (a ^^^ b) / 2 ^ 7 = a / 2 ^ 7 ^^^ b / 2 ^ 7 := by
    have := Nat.shiftRight_xor_distrib (a := a) (b := b) (i := 7)
    simpa [Nat.shiftRight_eq_div_pow] using this
  rw [d2, d7, Nat.xor_mod_two_pow]
  generalize a / 2 ^ 7 = x at h1 
  generalize b / 2 ^ 7 = y at h2
  have : (x ^^^ y) * 29 = x * 29 ^^^ y * 29 := by
    have hx : x = 0 ∨ x = 1 := by omega
    have hy : y = 0 ∨ y = 1 := by omega
    rcases hx with rfl | rfl <;> rcases hy with rfl | rfl <;> decide
  rw [this]
  ac_rfl

/-- Two maps that respect exclusive or and agree on the powers of two agree on bytes. -/
theorem byte_map_ext (f g : Nat → Nat) (hf : ∀ a < 256, ∀ b < 256, f (a ^^^ b) = f a ^^^ f b)
    (hg : ∀ a < 256, ∀ b < 256, g (a ^^^ b) = g a ^^^ g b) (h : ∀ k < 8, f (2 ^ k) = g (2 ^ k)) : ∀ a < 256, f a = g a := by
  have f0 : f 0 = 0 := by have := hf 0 (by decide) 0 (by decide); simpa using this
  have g0 : g 0 = 0 := by have := hg 0 (by decide) 0 (by decide); simpa using this
  have top : ∀ n < 8, ∀ a < 256, 2 ^ n ≤ a → a < 2 ^ (n + 1) → a = 2 ^ n ^^^ (a - 2 ^ n) := by decide +kernel
  have main : ∀ n ≤ 8, ∀ a < 2 ^ n, f a = g a := by
    intro n
    induction n with
    | zero => intro _ a ha; obtain rfl : a = 0 := by omega
              rw [f0, g0]
    | succ n ih =>
      intro hn a ha
      by_cases hl : a < 2 ^ n
      · exact ih (by omega) a hl
      · have h8 : 2 ^ (n + 1) ≤ 2 ^ 8 := Nat.pow_le_pow_right (by decide) hn
        have hp : 2 ^ (n + 1) = 2 * 2 ^ n := by rw [Nat.pow_succ]; omega
        have e := top n (by omega) a (by omega) (by omega) ha
        rw [e, hf _ (by omega) _ (by omega), hg _ (by omega) _ (by omega), h n (by omega), ih (by omega) _ (by omega)]
  exact fun a ha => main 8 (by decide) a ha

theorem gfMulBits_lt (n : Nat) : ∀ a < 256, ∀ b acc, acc < 256 → gfMulBits n a b acc < 256 := by
  induction n with
  | zero => intro a _ b acc h; exact h
  | succ n ih =>
    intro a ha b acc h
    simp only [gfMulBits]
    apply ih a ha
    split
    · exact xor_lt (gfDouble_lt _ h) ha
    · exact gfDouble_lt _ h

theorem gfMul_lt (a b : Nat) (ha : a < 256) : gfMul a b < 256 := gfMulBits_lt 8 a ha b 0 (by decide)

theorem gfMulBits_xor_left (n : Nat) : ∀ a < 256, ∀ a' < 256, ∀ b, ∀ r < 256, ∀ r' < 256,
    gfMulBits n (a ^^^ a') b (r ^^^ r') = gfMulBits n a b r ^^^ gfMulBits n a' b r' := by
  induction n with
  | zero => intros; rfl
  | succ n ih =>
    intro a ha a' ha' b r hr r' hr'
    simp only [gfMulBits, gfDouble_xor r r' hr hr']
    have d := gfDouble_lt r hr
    have d' := gfDouble_lt r' hr'
    split
    · rw [← ih a ha a' ha' b _ (xor_lt d ha) _ (xor_lt d' ha')]
      congr 1; ac_rfl
    · exact ih a ha a' ha' b _ d _ d'

theorem gfMul_xor_left (x a b : Nat) (ha : a < 256) (hb : b < 256) : gfMul (a ^^^ b) x = gfMul a x ^^^ gfMul b x := by
  have := gfMulBits_xor_left 8 a ha b hb x 0 (by decide) 0 (by decide)
  simpa [gfMul] using this

theorem gfMulBits_xor_right (n : Nat) : ∀ a < 256, ∀ b b', ∀ r < 256, ∀ r' < 256,
    gfMulBits n a (b ^^^ b') (r ^^^ r') = gfMulBits n a b r ^^^ gfMulBits n a b' r' := by
  induction n with
  | zero => intros; rfl
  | succ n ih =>
    intro a ha b b' r hr r' hr'
    simp only [gfMulBits, gfDouble_xor r r' hr hr']
    have d := gfDouble_lt r hr
    have d' := gfDouble_lt r' hr'
    have bit : (b ^^^ b') / 2 ^ n % 2 = (b / 2 ^ n % 2) ^^^ (b' / 2 ^ n % 2) := by
      have e := Nat.shiftRight_xor_distrib (a := b) (b := b') (i := n)
      rw [Nat.shiftRight_eq_div_pow, Nat.shiftRight_eq_div_pow, Nat.shiftRight_eq_div_pow] at e
      rw [e]
      exact Nat.xor_mod_two_pow (n := 1)
    rw [bit]
    have h1 : b / 2 ^ n % 2 = 0 ∨ b / 2 ^ n % 2 = 1 := by omega
    have h2 : b' / 2 ^ n % 2 = 0 ∨ b' / 2 ^ n % 2 = 1 := by omega
    rcases h1 with h1 | h1 <;> rcases h2 with h2 | h2 <;> rw [h1, h2] <;>
      simp only [Nat.xor_self, Nat.xor_zero, Nat.zero_xor, if_true, if_false, zero_ne_one]
    · exact ih a ha b b' _ d _ d'
    · rw [← ih a ha b b' _ d _ (xor_lt d' ha)]; congr 1; ac_rfl
    · rw [← ih a ha b b' _ (xor_lt d ha) _ d']; congr 1; ac_rfl
    · rw [← ih a ha b b' _ (xor_lt d ha) _ (xor_lt d' ha)]; congr 1
      have : ∀ x y z : Nat, x ^^^ z ^^^ (y ^^^ z) = x ^^^ y := by
        intro x y z
        rw [Nat.xor_comm y z, Nat.xor_assoc, ← Nat.xor_assoc z z y, Nat.xor_self, Nat.zero_xor]
      exact (this _ _ _).symm

theorem gfMul_xor_right (x a b : Nat) (hx : x < 256) : gfMul x (a ^^^ b) = gfMul x a ^^^ gfMul x b := by
  have := gfMulBits_xor_right 8 x hx a b 0 (by decide) 0 (by decide)
  simpa [gfMul] using this

/-- The inverse of a byte: its 254th power. -/
def gfInv (a : Nat) : Nat :=
  let b := gfMul a a
  let c := gfMul b b
  let d := gfMul c c
  let e := gfMul d d
  let f := gfMul e e
  let g := gfMul f f
  let h := gfMul g g
  gfMul b (gfMul c (gfMul d (gfMul e (gfMul f (gfMul g h)))))

theorem gfInv_basis : ∀ a < 256, a ≠ 0 → gfInv a < 256 ∧ ∀ k < 8, gfMul (gfInv a) (gfMul a (2 ^ k)) = 2 ^ k := by decide +kernel

theorem gfMul_cancel (a x y : Nat) (ha : a < 256) (h0 : a ≠ 0) (hx : x < 256) (hy : y < 256) (h : gfMul a x = gfMul a y) : x = y := by
  obtain ⟨hi, hb⟩ := gfInv_basis a ha h0
  have key := byte_map_ext (fun b => gfMul (gfInv a) (gfMul a b)) id
    (fun u _ v _ => by rw [gfMul_xor_right _ _ _ ha, gfMul_xor_right _ _ _ hi]) (fun _ _ _ _ => rfl) hb
  have e1 := key x hx
  have e2 := key y hy
  simp only [id] at e1 e2
  rw [← e1, ← e2, h]


/-! ## The code words -/

/-- One step of the remainder keeps what Horner's rule has at a root, for a map `m` that respects exclusive or. -/
theorem remainder_step (m : Nat → Nat) (L : ∀ a b, a < 256 → b < 256 → m (a ^^^ b) = m a ^^^ m b) (B : ∀ a, a < 256 → m a < 256)
    (h d r0 r1 r2 r3 p q t u : Nat) (hh : h < 256) (hd : d < 256) (h0 : r0 < 256) (h1 : r1 < 256) (h2 : r2 < 256) (h3 : r3 < 256)
    (hp : p < 256) (hq : q < 256) (ht : t < 256)
    (hi : m (m (m (m h))) = m (m (m r0)) ^^^ m (m r1) ^^^ m r2 ^^^ r3)
    (g : m (m (m (m (d ^^^ r0)))) = m (m (m p)) ^^^ m (m q) ^^^ m t ^^^ u) :
    m (m (m (m (m h ^^^ d)))) = m (m (m (r1 ^^^ p))) ^^^ m (m (r2 ^^^ q)) ^^^ m (r3 ^^^ t) ^^^ u := by
  rw [L _ _ (B _ hh) hd, L _ _ (B _ (B _ hh)) (B _ hd), L _ _ (B _ (B _ (B _ hh))) (B _ (B _ hd)),
    L _ _ (B _ (B _ (B _ (B _ hh)))) (B _ (B _ (B _ hd))), hi]
  rw [L _ _ hd h0, L _ _ (B _ hd) (B _ h0), L _ _ (B _ (B _ hd)) (B _ (B _ h0)), L _ _ (B _ (B _ (B _ hd))) (B _ (B _ (B _ h0)))] at g
  rw [L _ _ (xor_lt (xor_lt (B _ (B _ (B _ h0))) (B _ (B _ h1))) (B _ h2)) h3,
    L _ _ (xor_lt (B _ (B _ (B _ h0))) (B _ (B _ h1))) (B _ h2), L _ _ (B _ (B _ (B _ h0))) (B _ (B _ h1)),
    L _ _ h1 hp, L _ _ (B _ h1) (B _ hp), L _ _ (B _ (B _ h1)) (B _ (B _ hp)), L _ _ h2 hq, L _ _ (B _ h2) (B _ hq), L _ _ h3 ht]
  generalize m (m (m (m r0))) = A at *
  generalize m (m (m (m d))) = E at *
  generalize m (m (m p)) = P at *
  generalize m (m q) = Q at *
  generalize m t = T at *
  have e : E = P ^^^ Q ^^^ T ^^^ u ^^^ A := by rw [← g, Nat.xor_assoc, Nat.xor_self, Nat.xor_zero]
  have cancel : ∀ a z : Nat, a ^^^ (a ^^^ z) = z := fun a z => by rw [← Nat.xor_assoc, Nat.xor_self, Nat.zero_xor]
  rw [e]
  generalize m (m (m r1)) = X
  generalize m (m r2) = Y
  generalize m r3 = Z
  calc A ^^^ X ^^^ Y ^^^ Z ^^^ (P ^^^ Q ^^^ T ^^^ u ^^^ A) = A ^^^ (A ^^^ (X ^^^ P ^^^ (Y ^^^ Q) ^^^ (Z ^^^ T) ^^^ u)) := by ac_rfl
    _ = _ := cancel _ _

/-- Horner's rule run over the check bytes of a remainder that agrees with it ends at zero. -/
theorem remainder_ends (m : Nat → Nat) (L : ∀ a b, a < 256 → b < 256 → m (a ^^^ b) = m a ^^^ m b) (B : ∀ a, a < 256 → m a < 256)
    (h r0 r1 r2 r3 : Nat) (hh : h < 256) (h0 : r0 < 256) (h1 : r1 < 256) (h2 : r2 < 256)
    (hi : m (m (m (m h))) = m (m (m r0)) ^^^ m (m r1) ^^^ m r2 ^^^ r3) :
    m (m (m (m h ^^^ r0) ^^^ r1) ^^^ r2) ^^^ r3 = 0 := by
  rw [L _ _ (B _ hh) h0, L _ _ (xor_lt (B _ (B _ hh)) (B _ h0)) h1, L _ _ (B _ (B _ hh)) (B _ h0),
    L _ _ (xor_lt (xor_lt (B _ (B _ (B _ hh))) (B _ (B _ h0))) (B _ h1)) h2, L _ _ (xor_lt (B _ (B _ (B _ hh))) (B _ (B _ h0))) (B _ h1),
    L _ _ (B _ (B _ (B _ hh))) (B _ (B _ h0)), hi]
  generalize m (m (m r0)) = a
  generalize m (m r1) = b
  generalize m r2 = c
  have : a ^^^ b ^^^ c ^^^ r3 ^^^ a ^^^ b ^^^ c ^^^ r3 = (a ^^^ a) ^^^ (b ^^^ b) ^^^ (c ^^^ c) ^^^ (r3 ^^^ r3) := by ac_rfl
  rw [this]; simp

theorem generator_at_roots : ∀ x ∈ [1, 2, 4, 8], ∀ f < 256,
    gfMul (gfMul (gfMul (gfMul f x) x) x) x =
      gfMul (gfMul (gfMul (gfMul f 0x0F) x) x) x ^^^ gfMul (gfMul (gfMul f 0x36) x) x ^^^ gfMul (gfMul f 0x78) x ^^^ gfMul f 0x40 := by
  decide +kernel

/-- The remainder of the data at a root: what Horner's rule has, with every byte in range. -/
theorem codeChecks_inv (x : Nat) (hx : x ∈ [1, 2, 4, 8]) (l : List Byte) : ∀ h < 256, ∀ r0 < 256, ∀ r1 < 256, ∀ r2 < 256, ∀ r3 < 256,
    gfMul (gfMul (gfMul (gfMul h x) x) x) x = gfMul (gfMul (gfMul r0 x) x) x ^^^ gfMul (gfMul r1 x) x ^^^ gfMul r2 x ^^^ r3 →
    ∃ c0 < 256, ∃ c1 < 256, ∃ c2 < 256, ∃ c3 < 256, ∃ e < 256, codeChecks (l.map (·.toNat)) (r0, r1, r2, r3) = (c0, c1, c2, c3) ∧
      l.foldl (fun acc b => gfMul acc x ^^^ b.toNat) h = e ∧
      gfMul (gfMul (gfMul (gfMul e x) x) x) x = gfMul (gfMul (gfMul c0 x) x) x ^^^ gfMul (gfMul c1 x) x ^^^ gfMul c2 x ^^^ c3 := by
  induction l with
  | nil => intro h hh r0 h0 r1 h1 r2 h2 r3 h3 hi; exact ⟨r0, h0, r1, h1, r2, h2, r3, h3, h, hh, rfl, rfl, hi⟩
  | cons d t ih =>
    intro h hh r0 h0 r1 h1 r2 h2 r3 h3 hi
    have hd : d.toNat < 256 := d.isLt
    have hf := xor_lt hd h0
    exact ih _ (xor_lt (gfMul_lt _ _ hh) hd) _ (xor_lt h1 (gfMul_lt _ _ hf)) _ (xor_lt h2 (gfMul_lt _ _ hf)) _
      (xor_lt h3 (gfMul_lt _ _ hf)) _ (gfMul_lt _ _ hf)
      (remainder_step (fun a => gfMul a x) (gfMul_xor_left x) (fun a ha => gfMul_lt a x ha) h d.toNat r0 r1 r2 r3 _ _ _ _ hh hd h0 h1 h2 h3
        (gfMul_lt _ _ hf) (gfMul_lt _ _ hf) (gfMul_lt _ _ hf) hi (generator_at_roots x hx _ hf))

theorem syndrome_encode (x : Nat) (hx : x ∈ [1, 2, 4, 8]) (d : List Byte) : syndrome x (encodeWord d) = 0 := by
  have z : ∀ x ∈ [1, 2, 4, 8], gfMul (gfMul (gfMul (gfMul 0 x) x) x) x =
      gfMul (gfMul (gfMul 0 x) x) x ^^^ gfMul (gfMul 0 x) x ^^^ gfMul 0 x ^^^ 0 := by decide
  obtain ⟨c0, h0, c1, h1, c2, h2, c3, h3, e, he, hc, hf, hi⟩ :=
    codeChecks_inv x hx d 0 (by decide) 0 (by decide) 0 (by decide) 0 (by decide) 0 (by decide) (z x hx)
  unfold encodeWord
  rw [hc]
  simp only [syndrome, List.foldl_append, List.foldl_cons, List.foldl_nil, BitVec.toNat_ofNat]
  rw [hf, Nat.mod_eq_of_lt h0, Nat.mod_eq_of_lt h1, Nat.mod_eq_of_lt h2, Nat.mod_eq_of_lt h3]
  exact remainder_ends (fun a => gfMul a x) (gfMul_xor_left x) (fun a ha => gfMul_lt a x ha) e c0 c1 c2 c3 he h0 h1 h2 hi

theorem length_encodeWord (d : List Byte) : (encodeWord d).length = d.length + 4 := by
  simp [encodeWord]

/-- A word as encoded is found clean, with its data (R248, R249). -/
theorem checkWord_encodeWord (d : List Byte) (h : d.length = 32) : checkWord (encodeWord d) = .clean d := by
  unfold checkWord
  simp only [syndrome_encode _ (by decide : 1 ∈ [1, 2, 4, 8]), syndrome_encode _ (by decide : 2 ∈ [1, 2, 4, 8]),
    syndrome_encode _ (by decide : 4 ∈ [1, 2, 4, 8]), syndrome_encode _ (by decide : 8 ∈ [1, 2, 4, 8])]
  rw [if_pos (by decide)]
  congr 1
  simp [encodeWord, ← h]

/-! ## Correction (R249) -/

theorem gfMul_double_right : ∀ a < 256, ∀ b < 256, gfMul a (gfDouble b) = gfDouble (gfMul a b) := by
  intro a ha
  have basis : ∀ a < 256, ∀ k < 8, gfMul a (gfDouble (2 ^ k)) = gfDouble (gfMul a (2 ^ k)) := by decide +kernel
  exact byte_map_ext _ _ (fun u hu v hv => by rw [gfDouble_xor _ _ hu hv, gfMul_xor_right _ _ _ ha])
    (fun u _ v _ => by rw [gfMul_xor_right _ _ _ ha, gfDouble_xor _ _ (gfMul_lt _ _ ha) (gfMul_lt _ _ ha)]) (basis a ha)

theorem gfMul_double_left (b : Nat) (hb : b < 256) : ∀ a < 256, gfMul (gfDouble a) b = gfDouble (gfMul a b) := by
  have basis : ∀ b < 256, ∀ k < 8, gfMul (gfDouble (2 ^ k)) b = gfDouble (gfMul (2 ^ k) b) := by decide +kernel
  exact byte_map_ext _ _ (fun u hu v hv => by rw [gfDouble_xor _ _ hu hv, gfMul_xor_left _ _ _ (gfDouble_lt _ hu) (gfDouble_lt _ hv)])
    (fun u hu v hv => by rw [gfMul_xor_left _ _ _ hu hv, gfDouble_xor _ _ (gfMul_lt _ _ hu) (gfMul_lt _ _ hv)]) (basis b hb)

/-- Doubled `n` times. -/
def gfShift (n a : Nat) : Nat := Nat.repeat gfDouble n a

theorem gfShift_lt (n a : Nat) (ha : a < 256) : gfShift n a < 256 := by
  induction n with
  | zero => exact ha
  | succ n ih => exact gfDouble_lt _ ih

theorem gfShift_add (n k a : Nat) : gfShift n (gfShift k a) = gfShift (n + k) a := by
  induction n with
  | zero => rw [Nat.zero_add]; rfl
  | succ n ih => rw [Nat.add_right_comm]; exact congrArg gfDouble ih

theorem gfMul_shift_right (n a b : Nat) (ha : a < 256) (hb : b < 256) : gfMul a (gfShift n b) = gfShift n (gfMul a b) := by
  induction n with
  | zero => rfl
  | succ n ih => exact (gfMul_double_right a ha _ (gfShift_lt n b hb)).trans (congrArg gfDouble ih)

theorem gfMul_shift_left (n a b : Nat) (ha : a < 256) (hb : b < 256) : gfMul (gfShift n a) b = gfShift n (gfMul a b) := by
  induction n with
  | zero => rfl
  | succ n ih => exact (gfMul_double_left b hb _ (gfShift_lt n a ha)).trans (congrArg gfDouble ih)

theorem gfShift_ne_zero (n a : Nat) (ha : a < 256) (h : a ≠ 0) : gfShift n a ≠ 0 := by
  have d : ∀ a < 256, a ≠ 0 → gfDouble a ≠ 0 := by decide +kernel
  induction n with
  | zero => exact h
  | succ n ih => exact d _ (gfShift_lt n a ha) ih

theorem gfLog_some (n : Nat) : ∀ p cur s1 q, gfLog n p cur s1 = some q → ∃ k < n, q = p + k ∧ gfShift k cur = s1 := by
  induction n with
  | zero => intro p cur s1 q h; cases h
  | succ n ih =>
    intro p cur s1 q h
    simp only [gfLog] at h
    split at h
    · cases h; exact ⟨0, by omega, rfl, ‹_›⟩
    · obtain ⟨k, hk, rfl, e⟩ := ih _ _ _ _ h
      refine ⟨k + 1, by omega, by omega, ?_⟩
      rw [← e, ← gfShift_add k 1]; rfl

/-- A root's power of two: multiplying by it doubles that often. -/
theorem gfMul_root : ∀ e < 4, ∀ a < 256, gfMul a (2 ^ e) = gfShift e a := by decide +kernel

theorem gfShift_xor (n a b : Nat) (ha : a < 256) (hb : b < 256) : gfShift n (a ^^^ b) = gfShift n a ^^^ gfShift n b := by
  induction n with
  | zero => rfl
  | succ n ih =>
    have h1 : gfShift (n + 1) (a ^^^ b) = gfDouble (gfShift n (a ^^^ b)) := rfl
    rw [h1, ih, gfDouble_xor _ _ (gfShift_lt n a ha) (gfShift_lt n b hb)]; rfl

theorem horner_xor (e : Nat) (he : e < 4) (l : List Byte) : ∀ a < 256, ∀ z < 256,
    l.foldl (fun acc b => gfMul acc (2 ^ e) ^^^ b.toNat) (a ^^^ z) =
      l.foldl (fun acc b => gfMul acc (2 ^ e) ^^^ b.toNat) a ^^^ gfShift (e * l.length) z := by
  induction l with
  | nil => intro a _ z _; rfl
  | cons d t ih =>
    intro a ha z hz
    simp only [List.foldl_cons, List.length_cons]
    have h : gfMul (a ^^^ z) (2 ^ e) ^^^ d.toNat = (gfMul a (2 ^ e) ^^^ d.toNat) ^^^ gfShift e z := by
      rw [gfMul_xor_left _ _ _ ha hz, gfMul_root e he z hz]; ac_rfl
    rw [h, ih _ (xor_lt (gfMul_lt _ _ ha) d.isLt) _ (gfShift_lt e z hz), gfShift_add, Nat.mul_add, Nat.mul_one]

theorem horner_set (e : Nat) (he : e < 4) (x : Byte) (l : List Byte) : ∀ i < l.length, ∀ a < 256,
    (setAt l i (l.getD i 0 ^^^ x)).foldl (fun acc b => gfMul acc (2 ^ e) ^^^ b.toNat) a =
      l.foldl (fun acc b => gfMul acc (2 ^ e) ^^^ b.toNat) a ^^^ gfShift (e * (l.length - 1 - i)) x.toNat := by
  induction l with
  | nil => intro i hi; cases hi
  | cons d t ih =>
    intro i hi a ha
    cases i with
    | zero =>
      simp only [setAt, List.set_cons_zero, List.foldl_cons, List.getD_cons_zero, BitVec.toNat_xor, List.length_cons]
      rw [← Nat.xor_assoc, horner_xor e he t _ (xor_lt (gfMul_lt _ _ ha) d.isLt) _ x.isLt]
      rfl
    | succ i =>
      have := ih i (by simpa using hi) _ (xor_lt (gfMul_lt a (2 ^ e) ha) d.isLt)
      simp only [setAt, List.set_cons_succ, List.foldl_cons, List.getD_cons_succ, List.length_cons] at this ⊢
      rw [this]
      congr 3; omega

theorem syndrome_lt (x : Nat) (l : List Byte) : syndrome x l < 256 := by
  have : ∀ a < 256, l.foldl (fun acc b => gfMul acc x ^^^ b.toNat) a < 256 := by
    induction l with
    | nil => exact fun a ha => ha
    | cons d t ih => exact fun a ha => ih _ (xor_lt (gfMul_lt _ _ ha) d.isLt)
  exact this 0 (by decide)

/-- A word found correctable is clean once corrected, with the data the checker answers (R249). -/
theorem checkWord_corrected (w d c : List Byte) (h : w.length = 36) (hc : checkWord w = .corrected d c) :
    c.length = 36 ∧ checkWord c = .clean d := by
  unfold checkWord at hc
  simp only [] at hc
  split at hc
  · cases hc
  split at hc
  · cases hc
  split at hc
  case isFalse => cases hc
  rename_i hs
  split at hc
  case h_2 => cases hc
  rename_i p hp
  obtain ⟨k, hk, e0, e1⟩ := gfLog_some _ _ _ _ _ hp
  obtain rfl : p = k := by omega
  obtain ⟨n0, n1, n2, n3, q2, q3⟩ := hs
  have b0 := syndrome_lt 1 w
  have b1 := syndrome_lt 2 w
  have b2 := syndrome_lt 4 w
  have b3 := syndrome_lt 8 w
  have x0 : (BitVec.ofNat 8 (syndrome 1 w)).toNat = syndrome 1 w := by simp [Nat.mod_eq_of_lt b0]
  have set := fun e (he : e < 4) => horner_set e he (BitVec.ofNat 8 (syndrome 1 w)) w (35 - p) (by omega) 0 (by decide)
  have s2 : syndrome 4 w = gfShift (2 * p) (syndrome 1 w) := by
    refine gfMul_cancel _ _ _ b0 n0 b2 (gfShift_lt _ _ b0) ?_
    rw [← q2, ← e1, gfMul_shift_left _ _ _ b0 (gfShift_lt _ _ b0), gfMul_shift_right _ _ _ b0 b0, gfMul_shift_right _ _ _ b0 b0,
      gfShift_add]
    congr 1; omega
  have s3 : syndrome 8 w = gfShift (3 * p) (syndrome 1 w) := by
    refine gfMul_cancel _ _ _ b1 n1 b3 (gfShift_lt _ _ b0) ?_
    rw [← q3, s2, ← e1, gfMul_shift_left _ _ _ b0 (gfShift_lt _ _ b0), gfMul_shift_right _ _ _ b0 b0,
      gfMul_shift_left _ _ _ b0 (gfShift_lt _ _ b0), gfMul_shift_right _ _ _ b0 b0, gfShift_add, gfShift_add]
    congr 1; omega
  cases hc
  have len : (setAt w (35 - p) (w.getD (35 - p) 0 ^^^ BitVec.ofNat 8 (syndrome 1 w))).length = 36 := by simp [setAt, h]
  refine ⟨len, ?_⟩
  have z : ∀ e < 4, syndrome (2 ^ e) w = gfShift (e * p) (syndrome 1 w) →
      syndrome (2 ^ e) (setAt w (35 - p) (w.getD (35 - p) 0 ^^^ BitVec.ofNat 8 (syndrome 1 w))) = 0 := by
    intro e he hse
    refine (set e he).trans ?_
    rw [x0, h, show 36 - 1 - (35 - p) = p by omega, ← hse]
    exact Nat.xor_self _
  have z0 := z 0 (by decide) (by rw [Nat.zero_mul]; rfl)
  have z1 := z 1 (by decide) (by rw [Nat.one_mul]; exact e1.symm)
  have z2 := z 2 (by decide) s2
  have z3 := z 3 (by decide) s3
  unfold checkWord
  simp only [Nat.reducePow] at z0 z1 z2 z3
  simp only [z0, z1, z2, z3]
  rw [if_pos (by decide)]

end Sys2Proof.Machine
end

