-- ==== Sys2Proof/Laws/Memory.lean ====
section
/-! SUPPORT. Memory: every operation keeps the canonical form, a read after a write gives what was written, and a load or a store
leaves every other byte (R248 to R252). -/

namespace Sys2Proof.Machine

/-! ## The byte list -/

theorem memGet_below (m : Mem) : ∀ lo a, Mem.wfFrom lo m = true → a < lo → memGet m a = memDefault := by
  induction m with
  | nil => intros; rfl
  | cons p t ih =>
    intro lo a h hl
    obtain ⟨k, v⟩ := p
    simp only [Mem.wfFrom, Bool.and_eq_true, decide_eq_true_eq] at h
    have hk : k ≠ a := by omega
    simp only [memGet, if_neg hk]
    exact ih (k + 1) a h.2 (by omega)

theorem Mem.wfFrom_mono (m : Mem) (lo lo' : Nat) (h : Mem.wfFrom lo m = true) (hl : lo' ≤ lo) : Mem.wfFrom lo' m = true := by
  cases m with
  | nil => rfl
  | cons p t =>
    simp only [Mem.wfFrom, Bool.and_eq_true, decide_eq_true_eq] at h ⊢
    exact ⟨⟨by omega, h.1.2⟩, h.2⟩

theorem memSet_wfFrom (m : Mem) (a : Nat) (v : Byte) : ∀ lo, lo ≤ a → Mem.wfFrom lo m = true → Mem.wfFrom lo (memSet m a v) = true := by
  induction m with
  | nil =>
    intro lo hl _
    simp only [memSet]
    split
    · rfl
    · simp [Mem.wfFrom, *]
  | cons p t ih =>
    intro lo hl h
    obtain ⟨k, w⟩ := p
    simp only [Mem.wfFrom, Bool.and_eq_true, decide_eq_true_eq] at h
    simp only [memSet]
    split
    · split
      · simp [Mem.wfFrom, h]
      · simp only [Mem.wfFrom, Bool.and_eq_true, decide_eq_true_eq]
        exact ⟨⟨hl, ‹_›⟩, ⟨by omega, h.1.2⟩, h.2⟩
    · split
      · split
        · exact Mem.wfFrom_mono _ _ _ h.2 (by omega)
        · simp only [Mem.wfFrom, Bool.and_eq_true, decide_eq_true_eq]
          exact ⟨⟨h.1.1, ‹_›⟩, h.2⟩
      · simp only [Mem.wfFrom, Bool.and_eq_true, decide_eq_true_eq]
        exact ⟨h.1, ih (k + 1) (by omega) h.2⟩

/-- A write keeps the canonical form. -/
theorem memSet_wf (m : Mem) (a : Nat) (v : Byte) (h : m.wf = true) : (memSet m a v).wf = true :=
  memSet_wfFrom m a v 0 (Nat.zero_le _) h

theorem memGet_memSet_from (m : Mem) (a : Nat) (v : Byte) : ∀ lo, Mem.wfFrom lo m = true →
    ∀ b, memGet (memSet m a v) b = if b = a then v else memGet m b := by
  induction m with
  | nil =>
    intro lo _ b
    simp only [memSet]
    split
    · subst_vars; split <;> rfl
    · simp only [memGet]; split <;> split <;> simp_all
  | cons p t ih =>
    intro lo h b
    obtain ⟨k, w⟩ := p
    simp only [Mem.wfFrom, Bool.and_eq_true, decide_eq_true_eq] at h
    simp only [memSet]
    split
    · split
      · split
        · subst_vars
          exact memGet_below ((k, w) :: t) k b (by simp [Mem.wfFrom, h.1.2, h.2]) (by omega)
        · rfl
      · rw [memGet]
        by_cases e : a = b
        · rw [if_pos e, if_pos e.symm]
        · rw [if_neg e, if_neg (fun h => e h.symm)]
    · split
      · split
        · split
          · subst_vars; exact memGet_below _ _ _ h.2 (by omega)
          · simp only [memGet]; rw [if_neg (by omega)]
        · simp only [memGet]
          split
          · rw [if_pos (by omega)]
          · rw [if_neg (by omega)]
      · simp only [memGet, ih (k + 1) h.2 b]
        split
        · rw [if_neg (by omega)]
        · rfl

/-- A byte read after a write: the value written, and every other byte as before. -/
theorem memGet_memSet (m : Mem) (a : Nat) (v : Byte) (h : m.wf = true) (b : Nat) :
    memGet (memSet m a v) b = if b = a then v else memGet m b := memGet_memSet_from m a v 0 h b

theorem memPut_wf (bs : List Byte) : ∀ (m : Mem) (a : Nat), m.wf = true → (memPut m a bs).wf = true := by
  induction bs with
  | nil => exact fun _ _ h => h
  | cons b t ih => exact fun m a h => ih _ _ (memSet_wf m a b h)

theorem memGet_memPut (bs : List Byte) : ∀ (m : Mem) (a : Nat), m.wf = true → ∀ b,
    memGet (memPut m a bs) b = if a ≤ b ∧ b < a + bs.length then bs.getD (b - a) 0 else memGet m b := by
  induction bs with
  | nil => intro m a _ b; rw [if_neg (by simp only [List.length_nil]; omega)]; rfl
  | cons x t ih =>
    intro m a h b
    have e := ih (memSet m a x) (a + 1) (memSet_wf m a x h) b
    simp only [memPut]
    rw [e, memGet_memSet m a x h]
    simp only [List.length_cons]
    by_cases h1 : b = a
    · subst h1
      rw [if_neg (by omega), if_pos rfl, if_pos (by omega), Nat.sub_self, List.getD_cons_zero]
    · by_cases h2 : a + 1 ≤ b ∧ b < a + 1 + t.length
      · rw [if_pos h2, if_pos (by omega), show b - a = (b - (a + 1)) + 1 by omega]; rfl
      · rw [if_neg h2, if_neg h1, if_neg (by omega)]

/-! ## Code words -/

theorem putWord_wf (m : Mem) (w : Nat) (b : List Byte) (h : m.wf = true) : (putWord m w b).wf = true := memPut_wf b m _ h

theorem readWord_wf (m : Mem) (w : Nat) (h : m.wf = true) : (readWord m w).2.wf = true := by
  unfold readWord
  split
  · exact h
  · exact putWord_wf _ _ _ h
  · exact h

theorem scrubWords_wf (ws : List Nat) : ∀ m : Mem, m.wf = true → (scrubWords m ws).wf = true := by
  induction ws with
  | nil => exact fun _ h => h
  | cons w t ih => exact fun m h => ih _ (readWord_wf m w h)

/-- A load keeps the canonical form. -/
theorem loadBytes_wf (m : Mem) (a n : Nat) (h : m.wf = true) : (loadBytes m a n).2.wf = true := scrubWords_wf _ _ h

theorem storeInWord_wf (m : Mem) (w a : Nat) (bs : List Byte) (h : m.wf = true) : (storeInWord m w a bs).wf = true := by
  unfold storeInWord
  simp only []
  split
  · exact putWord_wf _ _ _ h
  · split <;> exact putWord_wf _ _ _ h

theorem storeInWords_wf (ws : List Nat) (a : Nat) (bs : List Byte) : ∀ m : Mem, m.wf = true → (storeInWords m ws a bs).wf = true := by
  induction ws with
  | nil => exact fun _ h => h
  | cons w t ih => exact fun m h => ih _ (storeInWord_wf m w a bs h)

/-- A store keeps the canonical form. -/
theorem storeBytes_wf (m : Mem) (a : Nat) (bs : List Byte) (h : m.wf = true) : (storeBytes m a bs).wf = true :=
  storeInWords_wf _ _ _ _ h

theorem foldl_wf {α : Type} (f : Mem → α → Mem) (hf : ∀ m x, m.wf = true → (f m x).wf = true) (l : List α) :
    ∀ m : Mem, m.wf = true → (l.foldl f m).wf = true := by
  induction l with
  | nil => exact fun _ h => h
  | cons x t ih => exact fun m h => ih _ (hf m x h)

theorem storeLost_wf (m : Mem) (a n : Nat) (h : m.wf = true) : (storeLost m a n).wf = true :=
  foldl_wf _ (fun _ _ h => putWord_wf _ _ _ h) _ _ h

theorem storeAll_wf (m : Mem) (ws : List (Nat × List Byte)) (h : m.wf = true) : (storeAll m ws).wf = true :=
  foldl_wf _ (fun _ _ h => storeBytes_wf _ _ _ h) _ _ h

theorem length_rawWord (m : Mem) (w : Nat) : (rawWord m w).length = 36 := by simp [rawWord, memTake]

/-- The stored bytes of a word after a word is stored. -/
theorem rawWord_putWord (m : Mem) (w : Nat) (b : List Byte) (h : m.wf = true) (hb : b.length = 36) (x : Nat) :
    rawWord (putWord m w b) x = if x = w then b else rawWord m x := by
  split
  · subst_vars
    apply List.ext_getElem
    · rw [length_rawWord, hb]
    · intro i h1 h2
      rw [length_rawWord] at h1
      simp only [rawWord, memTake, List.getElem_map, List.getElem_range, putWord, memGet_memPut _ _ _ h]
      rw [if_pos (by omega), Nat.add_sub_cancel_left]
      exact List.getD_eq_getElem _ _ _
  · unfold rawWord memTake
    apply List.map_congr_left
    intro i hi
    have hi := List.mem_range.mp hi
    rw [putWord, memGet_memPut _ _ _ h, if_neg]
    rw [hb]; omega

theorem wordData_putWord_ne (m : Mem) (w x : Nat) (b : List Byte) (h : m.wf = true) (hb : b.length = 36) (hx : x ≠ w) :
    wordData (putWord m w b) x = wordData m x := by
  have e := rawWord_putWord m w b h hb x
  rw [if_neg hx] at e
  simp only [wordData, readWord, e]
  split <;> rfl

theorem wordData_of_check (m : Mem) (w : Nat) (d : List Byte) (h : checkWord (rawWord m w) = .clean d) : wordData m w = some d := by
  simp only [wordData, readWord, h]

/-- A word stored as encoded reads back its data. -/
theorem wordData_encoded (m : Mem) (w : Nat) (d : List Byte) (h : m.wf = true) (hd : d.length = 32) :
    wordData (putWord m w (encodeWord d)) w = some d := by
  apply wordData_of_check
  rw [rawWord_putWord _ _ _ h (by rw [length_encodeWord, hd]), if_pos rfl]
  exact checkWord_encodeWord d hd

/-- The data of a word has 32 bytes. -/
theorem length_wordData (m : Mem) (w : Nat) (d : List Byte) (h : wordData m w = some d) : d.length = 32 := by
  simp only [wordData, readWord] at h
  have clean : ∀ (x : List Byte) (d : List Byte), x.length = 36 → checkWord x = .clean d → d.length = 32 := by
    intro x d hx hc
    unfold checkWord at hc
    simp only [] at hc
    split at hc
    · cases hc; simp [hx]
    split at hc
    · cases hc
    split at hc
    · split at hc <;> cases hc
    · cases hc
  split at h
  · cases h; exact clean _ _ (length_rawWord m w) ‹_›
  · cases h
    obtain ⟨hl, hc⟩ := checkWord_corrected _ _ _ (length_rawWord m w) ‹_›
    exact clean _ _ hl hc
  · cases h

/-- A read of a word, which writes a correction back, leaves the data of every word (R251). -/
theorem wordData_readWord (m : Mem) (w x : Nat) (h : m.wf = true) : wordData (readWord m w).2 x = wordData m x := by
  cases hc : checkWord (rawWord m w) with
  | corrected d c =>
    obtain ⟨hl, hd⟩ := checkWord_corrected _ _ _ (length_rawWord m w) hc
    have e : (readWord m w).2 = putWord m w c := by simp only [readWord, hc]
    rw [e]
    by_cases hx : x = w
    · subst hx
      rw [wordData_of_check _ _ d (by rw [rawWord_putWord _ _ _ h hl, if_pos rfl]; exact hd)]
      simp only [wordData, readWord, hc]
    · exact wordData_putWord_ne _ _ _ _ h hl hx
  | _ => simp only [readWord, hc]

theorem wordData_scrubWords (ws : List Nat) : ∀ m : Mem, m.wf = true → ∀ x, wordData (scrubWords m ws) x = wordData m x := by
  induction ws with
  | nil => intros; rfl
  | cons w t ih =>
    intro m h x
    exact (ih _ (readWord_wf m w h) x).trans (wordData_readWord m w x h)

/-- A load leaves every byte of memory as it reads (R251). -/
theorem byteAt_loadBytes (m : Mem) (a n : Nat) (h : m.wf = true) (p : Nat) : byteAt (loadBytes m a n).2 p = byteAt m p := by
  unfold byteAt loadBytes
  rw [wordData_scrubWords _ _ h]

theorem mem_wordsOf (a n i : Nat) (h : i < n) : (a + i) / 32 ∈ wordsOf a n := by
  unfold wordsOf
  rw [if_neg (by omega)]
  refine List.mem_map.mpr ⟨(a + i) / 32 - a / 32, List.mem_range.mpr ?_, ?_⟩
  · have : (a + i) / 32 ≤ (a + n - 1) / 32 := Nat.div_le_div_right (by omega)
    have := Nat.div_le_div_right (c := 32) (show a ≤ a + i by omega)
    omega
  · have := Nat.div_le_div_right (c := 32) (show a ≤ a + i by omega)
    omega

/-- What a load answers: each of its bytes. -/
theorem loadBytes_fst (m : Mem) (a n : Nat) : (loadBytes m a n).1 = (List.range n).map fun i => byteAt m (a + i) := by
  unfold loadBytes
  apply List.map_congr_left
  intro i hi
  have hm := mem_wordsOf a n i (List.mem_range.mp hi)
  generalize wordsOf a n = ws at hm
  have : ∀ ws : List Nat, (a + i) / 32 ∈ ws →
      (ws.map fun w => (w, wordData m w)).find? (fun p => p.1 == (a + i) / 32) = some ((a + i) / 32, wordData m ((a + i) / 32)) := by
    intro ws
    induction ws with
    | nil => intro h; cases h
    | cons w t ih =>
      intro h
      simp only [List.map_cons, List.find?_cons]
      by_cases e : w = (a + i) / 32
      · subst e; simp
      · rw [show (w == (a + i) / 32) = false from by simpa using e]
        exact ih ((List.mem_cons.mp h).resolve_left (fun h => e h.symm))
  simp only [this ws hm]
  rfl

/-! ## Stores -/

/-- A store into one word: the bytes it covers of a word that can be merged, and every other word as before (R251). -/
theorem byteAt_storeInWord (m : Mem) (w a : Nat) (bs : List Byte) (h : m.wf = true) (p : Nat) :
    byteAt (storeInWord m w a bs) p =
      if p / 32 ≠ w then byteAt m p
      else if a ≤ 32 * w ∧ 32 * w + 32 ≤ a + bs.length ∨ (byteAt m p).isSome then
        (if a ≤ p ∧ p < a + bs.length then some (bs.getD (p - a) 0) else byteAt m p)
      else byteAt (storeInWord m w a bs) p := by
  by_cases hp : p / 32 = w
  swap
  · rw [if_pos hp]
    unfold storeInWord byteAt
    simp only []
    have L : ∀ f : Nat → Byte, ((encodeWord ((List.range 32).map f)).length = 36) := fun f => by rw [length_encodeWord]; simp
    split
    · rw [wordData_putWord_ne _ _ _ _ h (L _) hp]
    · split
      · rw [wordData_putWord_ne _ _ _ _ h (L _) hp]
      · rw [wordData_putWord_ne _ _ _ _ h (by decide) hp]
  rw [if_neg (not_not_intro hp)]
  split
  case isFalse => rfl
  rename_i hc
  subst hp
  have hm : p % 32 < 32 := Nat.mod_lt _ (by decide)
  have hdiv : 32 * (p / 32) + p % 32 = p := Nat.div_add_mod p 32
  have L : ∀ f : Nat → Byte, ((List.range 32).map f).length = 32 := fun f => by simp
  have G : ∀ f : Nat → Byte, ((List.range 32).map f).getD (p % 32) 0 = f (p % 32) := fun f => by
    rw [List.getD_eq_getElem _ _ (by simpa using hm)]; simp
  unfold storeInWord
  simp only []
  split
  case isTrue hcov =>
    simp only [Bool.and_eq_true, decide_eq_true_eq] at hcov
    rw [if_pos (by omega)]
    unfold byteAt
    rw [wordData_encoded _ _ _ h (L _), Option.map_some, G]
    simp only [hdiv]
    rw [if_pos (by omega)]
  case isFalse hcov =>
    simp only [Bool.and_eq_true, decide_eq_true_eq] at hcov
    have hs : (byteAt m p).isSome := hc.resolve_left (fun e => hcov e)
    unfold byteAt at hs
    rw [Option.isSome_map] at hs
    obtain ⟨d, hd⟩ := Option.isSome_iff_exists.mp hs
    simp only [hd]
    unfold byteAt
    rw [wordData_encoded _ _ _ h (L _), Option.map_some, G]
    simp only [hdiv, hd, Option.map_some]
    split <;> rfl

theorem storeInWords_frame (ws : List Nat) (a : Nat) (bs : List Byte) (p : Nat) (hp : p / 32 ∉ ws) : ∀ m : Mem, m.wf = true →
    byteAt (storeInWords m ws a bs) p = byteAt m p := by
  induction ws with
  | nil => intros; rfl
  | cons w t ih =>
    intro m h
    simp only [List.mem_cons, not_or] at hp
    refine (ih hp.2 _ (storeInWord_wf m w a bs h)).trans ?_
    rw [byteAt_storeInWord m w a bs h p, if_pos hp.1]

theorem nodup_wordsOf (a n : Nat) : (wordsOf a n).Nodup := by
  unfold wordsOf
  split
  · exact List.nodup_nil
  · exact List.Nodup.map (fun x y h => Nat.add_left_cancel h) List.nodup_range

theorem storeInWords_at (ws : List Nat) (a : Nat) (bs : List Byte) (p : Nat) : ∀ m : Mem, m.wf = true → ws.Nodup → p / 32 ∈ ws →
    (byteAt m p).isSome = true →
    byteAt (storeInWords m ws a bs) p = if a ≤ p ∧ p < a + bs.length then some (bs.getD (p - a) 0) else byteAt m p := by
  induction ws with
  | nil => intro m _ _ h; cases h
  | cons w t ih =>
    intro m h hn hm hs
    obtain ⟨hw, hn⟩ := List.nodup_cons.mp hn
    have e := byteAt_storeInWord m w a bs h p
    have hwf := storeInWord_wf m w a bs h
    by_cases hp : p / 32 = w
    · rw [if_neg (not_not_intro hp), if_pos (Or.inr hs)] at e
      exact (storeInWords_frame t a bs p (hp ▸ hw) _ hwf).trans e
    · rw [if_pos hp] at e
      have hm : p / 32 ∈ t := (List.mem_cons.mp hm).resolve_left hp
      exact (ih _ hwf hn hm (e ▸ hs)).trans (by rw [e])

/-- The bytes a store writes, where its words can be merged (R251). -/
theorem byteAt_storeBytes (m : Mem) (a : Nat) (bs : List Byte) (h : m.wf = true) (i : Nat) (hi : i < bs.length)
    (hs : (byteAt m (a + i)).isSome = true) : byteAt (storeBytes m a bs) (a + i) = some (bs.getD i 0) := by
  have e := storeInWords_at (wordsOf a bs.length) a bs (a + i) m h (nodup_wordsOf _ _) (mem_wordsOf a _ i hi) hs
  rw [if_pos (by omega), Nat.add_sub_cancel_left] at e
  exact e

/-- A store into one word leaves every byte that it does not write; a word that cannot be merged stays unreadable (R252). -/
theorem byteAt_storeInWord_frame (m : Mem) (w a : Nat) (bs : List Byte) (h : m.wf = true) (p : Nat)
    (hp : p < a ∨ a + bs.length ≤ p) : byteAt (storeInWord m w a bs) p = byteAt m p := by
  have e := byteAt_storeInWord m w a bs h p
  by_cases hw : p / 32 = w
  swap
  · rw [if_pos hw] at e; exact e
  rw [if_neg (not_not_intro hw)] at e
  have hdiv : 32 * (p / 32) + p % 32 = p := Nat.div_add_mod p 32
  have hm : p % 32 < 32 := Nat.mod_lt _ (by decide)
  have hcov : ¬(a ≤ 32 * w ∧ 32 * w + 32 ≤ a + bs.length) := by omega
  by_cases hs : (byteAt m p).isSome
  · rw [if_pos (Or.inr hs), if_neg (by omega)] at e; exact e
  · have hn : wordData m w = none := by
      unfold byteAt at hs
      rw [hw] at hs
      simpa using hs
    unfold storeInWord
    simp only [hn]
    rw [if_neg (by simpa using hcov)]
    unfold byteAt
    rw [hw, hn]
    have : wordData (putWord m w lostWord) w = none := by
      have hl : checkWord lostWord = .lost := by decide +kernel
      simp only [wordData, readWord, rawWord_putWord m w lostWord h (by decide), if_true, hl]
    rw [this]

/-- A store leaves every byte that it does not write. -/
theorem byteAt_storeBytes_frame (m : Mem) (a : Nat) (bs : List Byte) (h : m.wf = true) (p : Nat) (hp : p < a ∨ a + bs.length ≤ p) :
    byteAt (storeBytes m a bs) p = byteAt m p := by
  have : ∀ (ws : List Nat) (m : Mem), m.wf = true → byteAt (storeInWords m ws a bs) p = byteAt m p := by
    intro ws
    induction ws with
    | nil => intros; rfl
    | cons w t ih => exact fun m h => (ih _ (storeInWord_wf m w a bs h)).trans (byteAt_storeInWord_frame m w a bs h p hp)
  exact this _ m h

/-- Empty memory holds zero words. -/
theorem rawWord_nil (w : Nat) : rawWord [] w = List.replicate 36 0 := by
  simp only [rawWord, memTake, memGet, memDefault]
  rfl

/-- Every byte of empty memory reads as 0. -/
theorem byteAt_nil (a : Nat) : byteAt [] a = some 0 := by
  have h : wordData [] (a / 32) = some (List.replicate 32 0) := by
    unfold wordData readWord
    rw [rawWord_nil, show checkWord (List.replicate 36 (0 : Byte)) = .clean (List.replicate 32 0) by decide +kernel]
  unfold byteAt
  rw [h, Option.map_some, List.getD_eq_getElem?_getD, List.getElem?_replicate]
  split <;> rfl

/-- Empty memory stays empty when it is read. -/
theorem loadBytes_nil (a n : Nat) : loadBytes [] a n = (List.replicate n (some 0), []) := by
  have hs (ws : List Nat) : scrubWords [] ws = [] := by
    induction ws with
    | nil => rfl
    | cons w t ih =>
      unfold scrubWords readWord
      rw [rawWord_nil, show checkWord (List.replicate 36 (0 : Byte)) = .clean (List.replicate 32 0) by decide +kernel]
      exact ih
  apply Prod.ext
  · rw [loadBytes_fst]
    simp only [byteAt_nil]
    rw [List.map_const', List.length_range]
  · exact hs _

end Sys2Proof.Machine
end

