-- ==== Sys2Proof/Laws/State.lean ====
section
/-! SUPPORT. What the updates of State's units leave: one lemma per field and update, for proofs that never unfold a record. -/

namespace Sys2Proof.Machine

/-! ## Vectors -/

@[simp] theorem vset_get_self {α : Type} {n : Nat} (v : Vector α n) (i : Fin n) (x : α) : (vset v i x).get i = x := by
  show (v.toArray.set i.val x (by simp))[i.val]'(by simp) = x
  simp

@[simp] theorem vset_get_ne {α : Type} {n : Nat} (v : Vector α n) (i j : Fin n) (x : α) (h : j ≠ i) :
    (vset v i x).get j = v.get j := by
  have h' : i.val ≠ j.val := fun e => h (Fin.ext e.symm)
  show (v.toArray.set i.val x (by simp))[j.val]'(by simp) = v.toArray[j.val]'(by simp)
  simp [h']

theorem vset_get {α : Type} {n : Nat} (v : Vector α n) (i j : Fin n) (x : α) :
    (vset v i x).get j = if j = i then x else v.get j := by
  split
  · subst_vars; simp
  · simp [*]

@[simp] theorem vset_get_same {α : Type} {n : Nat} (v : Vector α n) (i : Fin n) : vset v i (v.get i) = v := by
  apply Vector.ext
  intro k hk
  have e := vset_get v i ⟨k, hk⟩ (v.get i)
  split at e
  · subst_vars; exact e
  · exact e

@[simp] theorem vset_vset {α : Type} {n : Nat} (v : Vector α n) (i : Fin n) (x y : α) : vset (vset v i x) i y = vset v i y := by
  apply Vector.ext
  intro k hk
  have e : (vset (vset v i x) i y).get ⟨k, hk⟩ = (vset v i y).get ⟨k, hk⟩ := by
    rw [vset_get, vset_get, vset_get]; split <;> rfl
  exact e

/-! ## Units: what an update leaves -/

@[simp] theorem State.putJet_pending (s : State) (j : Fin 160) (x : Jet) : (s.putJet j x).pending = s.pending := rfl
@[simp] theorem State.putJet_readData (s : State) (j : Fin 160) (x : Jet) : (s.putJet j x).readData = s.readData := rfl
@[simp] theorem State.putJet_latch (s : State) (j : Fin 160) (x : Jet) : (s.putJet j x).latch = s.latch := rfl
@[simp] theorem State.putJet_outbox (s : State) (j : Fin 160) (x : Jet) : (s.putJet j x).outbox = s.outbox := rfl
@[simp] theorem State.putJet_freeCount (s : State) (j : Fin 160) (x : Jet) : (s.putJet j x).freeCount = s.freeCount := rfl
@[simp] theorem State.putJet_basins (s : State) (j : Fin 160) (x : Jet) : (s.putJet j x).basins = s.basins := rfl
@[simp] theorem State.putJet_cisterns (s : State) (j : Fin 160) (x : Jet) : (s.putJet j x).cisterns = s.cisterns := rfl
@[simp] theorem State.putJet_runnels (s : State) (j : Fin 160) (x : Jet) : (s.putJet j x).runnels = s.runnels := rfl
@[simp] theorem State.putJet_tiers (s : State) (j : Fin 160) (x : Jet) : (s.putJet j x).tiers = s.tiers := rfl
@[simp] theorem State.putJet_record (s : State) (j : Fin 160) (x : Jet) : (s.putJet j x).record = s.record := rfl
@[simp] theorem State.putJet_job (s : State) (j : Fin 160) (x : Jet) : (s.putJet j x).job = s.job := rfl
@[simp] theorem State.putJet_caps (s : State) (j : Fin 160) (x : Jet) : (s.putJet j x).caps = s.caps := rfl
@[simp] theorem State.putJet_weir (s : State) (j : Fin 160) (x : Jet) : (s.putJet j x).weir = s.weir := rfl
@[simp] theorem State.putJet_coll (s : State) (j : Fin 160) (x : Jet) : (s.putJet j x).coll = s.coll := rfl
@[simp] theorem State.putJet_cxl (s : State) (j : Fin 160) (x : Jet) : (s.putJet j x).cxl = s.cxl := rfl
@[simp] theorem State.putJet_boxes (s : State) (j : Fin 160) (x : Jet) : (s.putJet j x).boxes = s.boxes := rfl
@[simp] theorem State.putJet_log (s : State) (j : Fin 160) (x : Jet) : (s.putJet j x).log = s.log := rfl
@[simp] theorem State.putJet_sluice (s : State) (j : Fin 160) (x : Jet) : (s.putJet j x).sluice = s.sluice := rfl
@[simp] theorem State.putJet_keeper (s : State) (j : Fin 160) (x : Jet) : (s.putJet j x).keeper = s.keeper := rfl
@[simp] theorem State.putJet_fw (s : State) (j : Fin 160) (x : Jet) : (s.putJet j x).fw = s.fw := rfl
@[simp] theorem State.putJet_part (s : State) (j : Fin 160) (x : Jet) : (s.putJet j x).part = s.part := rfl

@[simp] theorem State.modJet_pending (s : State) (j : Fin 160) (f : Jet → Jet) : (s.modJet j f).pending = s.pending := rfl
@[simp] theorem State.modJet_readData (s : State) (j : Fin 160) (f : Jet → Jet) : (s.modJet j f).readData = s.readData := rfl
@[simp] theorem State.modJet_latch (s : State) (j : Fin 160) (f : Jet → Jet) : (s.modJet j f).latch = s.latch := rfl
@[simp] theorem State.modJet_outbox (s : State) (j : Fin 160) (f : Jet → Jet) : (s.modJet j f).outbox = s.outbox := rfl
@[simp] theorem State.modJet_freeCount (s : State) (j : Fin 160) (f : Jet → Jet) : (s.modJet j f).freeCount = s.freeCount := rfl
@[simp] theorem State.modJet_basins (s : State) (j : Fin 160) (f : Jet → Jet) : (s.modJet j f).basins = s.basins := rfl
@[simp] theorem State.modJet_cisterns (s : State) (j : Fin 160) (f : Jet → Jet) : (s.modJet j f).cisterns = s.cisterns := rfl
@[simp] theorem State.modJet_runnels (s : State) (j : Fin 160) (f : Jet → Jet) : (s.modJet j f).runnels = s.runnels := rfl
@[simp] theorem State.modJet_tiers (s : State) (j : Fin 160) (f : Jet → Jet) : (s.modJet j f).tiers = s.tiers := rfl
@[simp] theorem State.modJet_record (s : State) (j : Fin 160) (f : Jet → Jet) : (s.modJet j f).record = s.record := rfl
@[simp] theorem State.modJet_job (s : State) (j : Fin 160) (f : Jet → Jet) : (s.modJet j f).job = s.job := rfl
@[simp] theorem State.modJet_caps (s : State) (j : Fin 160) (f : Jet → Jet) : (s.modJet j f).caps = s.caps := rfl
@[simp] theorem State.modJet_weir (s : State) (j : Fin 160) (f : Jet → Jet) : (s.modJet j f).weir = s.weir := rfl
@[simp] theorem State.modJet_coll (s : State) (j : Fin 160) (f : Jet → Jet) : (s.modJet j f).coll = s.coll := rfl
@[simp] theorem State.modJet_cxl (s : State) (j : Fin 160) (f : Jet → Jet) : (s.modJet j f).cxl = s.cxl := rfl
@[simp] theorem State.modJet_boxes (s : State) (j : Fin 160) (f : Jet → Jet) : (s.modJet j f).boxes = s.boxes := rfl
@[simp] theorem State.modJet_log (s : State) (j : Fin 160) (f : Jet → Jet) : (s.modJet j f).log = s.log := rfl
@[simp] theorem State.modJet_sluice (s : State) (j : Fin 160) (f : Jet → Jet) : (s.modJet j f).sluice = s.sluice := rfl
@[simp] theorem State.modJet_keeper (s : State) (j : Fin 160) (f : Jet → Jet) : (s.modJet j f).keeper = s.keeper := rfl
@[simp] theorem State.modJet_fw (s : State) (j : Fin 160) (f : Jet → Jet) : (s.modJet j f).fw = s.fw := rfl
@[simp] theorem State.modJet_part (s : State) (j : Fin 160) (f : Jet → Jet) : (s.modJet j f).part = s.part := rfl

@[simp] theorem State.modArr_pending (s : State) (j : Fin 160) (n : Fin 8) (f : Arr → Arr) : (s.modArr j n f).pending = s.pending := rfl
@[simp] theorem State.modArr_readData (s : State) (j : Fin 160) (n : Fin 8) (f : Arr → Arr) : (s.modArr j n f).readData = s.readData := rfl
@[simp] theorem State.modArr_latch (s : State) (j : Fin 160) (n : Fin 8) (f : Arr → Arr) : (s.modArr j n f).latch = s.latch := rfl
@[simp] theorem State.modArr_outbox (s : State) (j : Fin 160) (n : Fin 8) (f : Arr → Arr) : (s.modArr j n f).outbox = s.outbox := rfl
@[simp] theorem State.modArr_freeCount (s : State) (j : Fin 160) (n : Fin 8) (f : Arr → Arr) : (s.modArr j n f).freeCount = s.freeCount := rfl
@[simp] theorem State.modArr_basins (s : State) (j : Fin 160) (n : Fin 8) (f : Arr → Arr) : (s.modArr j n f).basins = s.basins := rfl
@[simp] theorem State.modArr_cisterns (s : State) (j : Fin 160) (n : Fin 8) (f : Arr → Arr) : (s.modArr j n f).cisterns = s.cisterns := rfl
@[simp] theorem State.modArr_runnels (s : State) (j : Fin 160) (n : Fin 8) (f : Arr → Arr) : (s.modArr j n f).runnels = s.runnels := rfl
@[simp] theorem State.modArr_tiers (s : State) (j : Fin 160) (n : Fin 8) (f : Arr → Arr) : (s.modArr j n f).tiers = s.tiers := rfl
@[simp] theorem State.modArr_record (s : State) (j : Fin 160) (n : Fin 8) (f : Arr → Arr) : (s.modArr j n f).record = s.record := rfl
@[simp] theorem State.modArr_job (s : State) (j : Fin 160) (n : Fin 8) (f : Arr → Arr) : (s.modArr j n f).job = s.job := rfl
@[simp] theorem State.modArr_caps (s : State) (j : Fin 160) (n : Fin 8) (f : Arr → Arr) : (s.modArr j n f).caps = s.caps := rfl
@[simp] theorem State.modArr_weir (s : State) (j : Fin 160) (n : Fin 8) (f : Arr → Arr) : (s.modArr j n f).weir = s.weir := rfl
@[simp] theorem State.modArr_coll (s : State) (j : Fin 160) (n : Fin 8) (f : Arr → Arr) : (s.modArr j n f).coll = s.coll := rfl
@[simp] theorem State.modArr_cxl (s : State) (j : Fin 160) (n : Fin 8) (f : Arr → Arr) : (s.modArr j n f).cxl = s.cxl := rfl
@[simp] theorem State.modArr_boxes (s : State) (j : Fin 160) (n : Fin 8) (f : Arr → Arr) : (s.modArr j n f).boxes = s.boxes := rfl
@[simp] theorem State.modArr_log (s : State) (j : Fin 160) (n : Fin 8) (f : Arr → Arr) : (s.modArr j n f).log = s.log := rfl
@[simp] theorem State.modArr_sluice (s : State) (j : Fin 160) (n : Fin 8) (f : Arr → Arr) : (s.modArr j n f).sluice = s.sluice := rfl
@[simp] theorem State.modArr_keeper (s : State) (j : Fin 160) (n : Fin 8) (f : Arr → Arr) : (s.modArr j n f).keeper = s.keeper := rfl
@[simp] theorem State.modArr_fw (s : State) (j : Fin 160) (n : Fin 8) (f : Arr → Arr) : (s.modArr j n f).fw = s.fw := rfl
@[simp] theorem State.modArr_part (s : State) (j : Fin 160) (n : Fin 8) (f : Arr → Arr) : (s.modArr j n f).part = s.part := rfl

@[simp] theorem State.modBasin_pending (s : State) (d : Fin 4) (f : Basin → Basin) : (s.modBasin d f).pending = s.pending := rfl
@[simp] theorem State.modBasin_readData (s : State) (d : Fin 4) (f : Basin → Basin) : (s.modBasin d f).readData = s.readData := rfl
@[simp] theorem State.modBasin_latch (s : State) (d : Fin 4) (f : Basin → Basin) : (s.modBasin d f).latch = s.latch := rfl
@[simp] theorem State.modBasin_outbox (s : State) (d : Fin 4) (f : Basin → Basin) : (s.modBasin d f).outbox = s.outbox := rfl
@[simp] theorem State.modBasin_freeCount (s : State) (d : Fin 4) (f : Basin → Basin) : (s.modBasin d f).freeCount = s.freeCount := rfl
@[simp] theorem State.modBasin_jets (s : State) (d : Fin 4) (f : Basin → Basin) : (s.modBasin d f).jets = s.jets := rfl
@[simp] theorem State.modBasin_cisterns (s : State) (d : Fin 4) (f : Basin → Basin) : (s.modBasin d f).cisterns = s.cisterns := rfl
@[simp] theorem State.modBasin_runnels (s : State) (d : Fin 4) (f : Basin → Basin) : (s.modBasin d f).runnels = s.runnels := rfl
@[simp] theorem State.modBasin_tiers (s : State) (d : Fin 4) (f : Basin → Basin) : (s.modBasin d f).tiers = s.tiers := rfl
@[simp] theorem State.modBasin_record (s : State) (d : Fin 4) (f : Basin → Basin) : (s.modBasin d f).record = s.record := rfl
@[simp] theorem State.modBasin_job (s : State) (d : Fin 4) (f : Basin → Basin) : (s.modBasin d f).job = s.job := rfl
@[simp] theorem State.modBasin_caps (s : State) (d : Fin 4) (f : Basin → Basin) : (s.modBasin d f).caps = s.caps := rfl
@[simp] theorem State.modBasin_weir (s : State) (d : Fin 4) (f : Basin → Basin) : (s.modBasin d f).weir = s.weir := rfl
@[simp] theorem State.modBasin_coll (s : State) (d : Fin 4) (f : Basin → Basin) : (s.modBasin d f).coll = s.coll := rfl
@[simp] theorem State.modBasin_cxl (s : State) (d : Fin 4) (f : Basin → Basin) : (s.modBasin d f).cxl = s.cxl := rfl
@[simp] theorem State.modBasin_boxes (s : State) (d : Fin 4) (f : Basin → Basin) : (s.modBasin d f).boxes = s.boxes := rfl
@[simp] theorem State.modBasin_log (s : State) (d : Fin 4) (f : Basin → Basin) : (s.modBasin d f).log = s.log := rfl
@[simp] theorem State.modBasin_sluice (s : State) (d : Fin 4) (f : Basin → Basin) : (s.modBasin d f).sluice = s.sluice := rfl
@[simp] theorem State.modBasin_keeper (s : State) (d : Fin 4) (f : Basin → Basin) : (s.modBasin d f).keeper = s.keeper := rfl
@[simp] theorem State.modBasin_fw (s : State) (d : Fin 4) (f : Basin → Basin) : (s.modBasin d f).fw = s.fw := rfl
@[simp] theorem State.modBasin_part (s : State) (d : Fin 4) (f : Basin → Basin) : (s.modBasin d f).part = s.part := rfl

@[simp] theorem State.modCistern_pending (s : State) (i : Fin 32) (f : Cistern → Cistern) : (s.modCistern i f).pending = s.pending := rfl
@[simp] theorem State.modCistern_readData (s : State) (i : Fin 32) (f : Cistern → Cistern) : (s.modCistern i f).readData = s.readData := rfl
@[simp] theorem State.modCistern_latch (s : State) (i : Fin 32) (f : Cistern → Cistern) : (s.modCistern i f).latch = s.latch := rfl
@[simp] theorem State.modCistern_outbox (s : State) (i : Fin 32) (f : Cistern → Cistern) : (s.modCistern i f).outbox = s.outbox := rfl
@[simp] theorem State.modCistern_freeCount (s : State) (i : Fin 32) (f : Cistern → Cistern) : (s.modCistern i f).freeCount = s.freeCount := rfl
@[simp] theorem State.modCistern_jets (s : State) (i : Fin 32) (f : Cistern → Cistern) : (s.modCistern i f).jets = s.jets := rfl
@[simp] theorem State.modCistern_basins (s : State) (i : Fin 32) (f : Cistern → Cistern) : (s.modCistern i f).basins = s.basins := rfl
@[simp] theorem State.modCistern_runnels (s : State) (i : Fin 32) (f : Cistern → Cistern) : (s.modCistern i f).runnels = s.runnels := rfl
@[simp] theorem State.modCistern_tiers (s : State) (i : Fin 32) (f : Cistern → Cistern) : (s.modCistern i f).tiers = s.tiers := rfl
@[simp] theorem State.modCistern_record (s : State) (i : Fin 32) (f : Cistern → Cistern) : (s.modCistern i f).record = s.record := rfl
@[simp] theorem State.modCistern_job (s : State) (i : Fin 32) (f : Cistern → Cistern) : (s.modCistern i f).job = s.job := rfl
@[simp] theorem State.modCistern_caps (s : State) (i : Fin 32) (f : Cistern → Cistern) : (s.modCistern i f).caps = s.caps := rfl
@[simp] theorem State.modCistern_weir (s : State) (i : Fin 32) (f : Cistern → Cistern) : (s.modCistern i f).weir = s.weir := rfl
@[simp] theorem State.modCistern_coll (s : State) (i : Fin 32) (f : Cistern → Cistern) : (s.modCistern i f).coll = s.coll := rfl
@[simp] theorem State.modCistern_cxl (s : State) (i : Fin 32) (f : Cistern → Cistern) : (s.modCistern i f).cxl = s.cxl := rfl
@[simp] theorem State.modCistern_boxes (s : State) (i : Fin 32) (f : Cistern → Cistern) : (s.modCistern i f).boxes = s.boxes := rfl
@[simp] theorem State.modCistern_log (s : State) (i : Fin 32) (f : Cistern → Cistern) : (s.modCistern i f).log = s.log := rfl
@[simp] theorem State.modCistern_sluice (s : State) (i : Fin 32) (f : Cistern → Cistern) : (s.modCistern i f).sluice = s.sluice := rfl
@[simp] theorem State.modCistern_keeper (s : State) (i : Fin 32) (f : Cistern → Cistern) : (s.modCistern i f).keeper = s.keeper := rfl
@[simp] theorem State.modCistern_fw (s : State) (i : Fin 32) (f : Cistern → Cistern) : (s.modCistern i f).fw = s.fw := rfl
@[simp] theorem State.modCistern_part (s : State) (i : Fin 32) (f : Cistern → Cistern) : (s.modCistern i f).part = s.part := rfl

@[simp] theorem State.modRunnel_pending (s : State) (r : Fin 2) (f : Runnel → Runnel) : (s.modRunnel r f).pending = s.pending := rfl
@[simp] theorem State.modRunnel_readData (s : State) (r : Fin 2) (f : Runnel → Runnel) : (s.modRunnel r f).readData = s.readData := rfl
@[simp] theorem State.modRunnel_latch (s : State) (r : Fin 2) (f : Runnel → Runnel) : (s.modRunnel r f).latch = s.latch := rfl
@[simp] theorem State.modRunnel_outbox (s : State) (r : Fin 2) (f : Runnel → Runnel) : (s.modRunnel r f).outbox = s.outbox := rfl
@[simp] theorem State.modRunnel_freeCount (s : State) (r : Fin 2) (f : Runnel → Runnel) : (s.modRunnel r f).freeCount = s.freeCount := rfl
@[simp] theorem State.modRunnel_jets (s : State) (r : Fin 2) (f : Runnel → Runnel) : (s.modRunnel r f).jets = s.jets := rfl
@[simp] theorem State.modRunnel_basins (s : State) (r : Fin 2) (f : Runnel → Runnel) : (s.modRunnel r f).basins = s.basins := rfl
@[simp] theorem State.modRunnel_cisterns (s : State) (r : Fin 2) (f : Runnel → Runnel) : (s.modRunnel r f).cisterns = s.cisterns := rfl
@[simp] theorem State.modRunnel_tiers (s : State) (r : Fin 2) (f : Runnel → Runnel) : (s.modRunnel r f).tiers = s.tiers := rfl
@[simp] theorem State.modRunnel_record (s : State) (r : Fin 2) (f : Runnel → Runnel) : (s.modRunnel r f).record = s.record := rfl
@[simp] theorem State.modRunnel_job (s : State) (r : Fin 2) (f : Runnel → Runnel) : (s.modRunnel r f).job = s.job := rfl
@[simp] theorem State.modRunnel_caps (s : State) (r : Fin 2) (f : Runnel → Runnel) : (s.modRunnel r f).caps = s.caps := rfl
@[simp] theorem State.modRunnel_weir (s : State) (r : Fin 2) (f : Runnel → Runnel) : (s.modRunnel r f).weir = s.weir := rfl
@[simp] theorem State.modRunnel_coll (s : State) (r : Fin 2) (f : Runnel → Runnel) : (s.modRunnel r f).coll = s.coll := rfl
@[simp] theorem State.modRunnel_cxl (s : State) (r : Fin 2) (f : Runnel → Runnel) : (s.modRunnel r f).cxl = s.cxl := rfl
@[simp] theorem State.modRunnel_boxes (s : State) (r : Fin 2) (f : Runnel → Runnel) : (s.modRunnel r f).boxes = s.boxes := rfl
@[simp] theorem State.modRunnel_log (s : State) (r : Fin 2) (f : Runnel → Runnel) : (s.modRunnel r f).log = s.log := rfl
@[simp] theorem State.modRunnel_sluice (s : State) (r : Fin 2) (f : Runnel → Runnel) : (s.modRunnel r f).sluice = s.sluice := rfl
@[simp] theorem State.modRunnel_keeper (s : State) (r : Fin 2) (f : Runnel → Runnel) : (s.modRunnel r f).keeper = s.keeper := rfl
@[simp] theorem State.modRunnel_fw (s : State) (r : Fin 2) (f : Runnel → Runnel) : (s.modRunnel r f).fw = s.fw := rfl
@[simp] theorem State.modRunnel_part (s : State) (r : Fin 2) (f : Runnel → Runnel) : (s.modRunnel r f).part = s.part := rfl

@[simp] theorem State.modBox_pending (s : State) (n : Fin 8) (f : Mailbox → Mailbox) : (s.modBox n f).pending = s.pending := rfl
@[simp] theorem State.modBox_readData (s : State) (n : Fin 8) (f : Mailbox → Mailbox) : (s.modBox n f).readData = s.readData := rfl
@[simp] theorem State.modBox_latch (s : State) (n : Fin 8) (f : Mailbox → Mailbox) : (s.modBox n f).latch = s.latch := rfl
@[simp] theorem State.modBox_outbox (s : State) (n : Fin 8) (f : Mailbox → Mailbox) : (s.modBox n f).outbox = s.outbox := rfl
@[simp] theorem State.modBox_freeCount (s : State) (n : Fin 8) (f : Mailbox → Mailbox) : (s.modBox n f).freeCount = s.freeCount := rfl
@[simp] theorem State.modBox_jets (s : State) (n : Fin 8) (f : Mailbox → Mailbox) : (s.modBox n f).jets = s.jets := rfl
@[simp] theorem State.modBox_basins (s : State) (n : Fin 8) (f : Mailbox → Mailbox) : (s.modBox n f).basins = s.basins := rfl
@[simp] theorem State.modBox_cisterns (s : State) (n : Fin 8) (f : Mailbox → Mailbox) : (s.modBox n f).cisterns = s.cisterns := rfl
@[simp] theorem State.modBox_runnels (s : State) (n : Fin 8) (f : Mailbox → Mailbox) : (s.modBox n f).runnels = s.runnels := rfl
@[simp] theorem State.modBox_tiers (s : State) (n : Fin 8) (f : Mailbox → Mailbox) : (s.modBox n f).tiers = s.tiers := rfl
@[simp] theorem State.modBox_record (s : State) (n : Fin 8) (f : Mailbox → Mailbox) : (s.modBox n f).record = s.record := rfl
@[simp] theorem State.modBox_job (s : State) (n : Fin 8) (f : Mailbox → Mailbox) : (s.modBox n f).job = s.job := rfl
@[simp] theorem State.modBox_caps (s : State) (n : Fin 8) (f : Mailbox → Mailbox) : (s.modBox n f).caps = s.caps := rfl
@[simp] theorem State.modBox_weir (s : State) (n : Fin 8) (f : Mailbox → Mailbox) : (s.modBox n f).weir = s.weir := rfl
@[simp] theorem State.modBox_coll (s : State) (n : Fin 8) (f : Mailbox → Mailbox) : (s.modBox n f).coll = s.coll := rfl
@[simp] theorem State.modBox_cxl (s : State) (n : Fin 8) (f : Mailbox → Mailbox) : (s.modBox n f).cxl = s.cxl := rfl
@[simp] theorem State.modBox_log (s : State) (n : Fin 8) (f : Mailbox → Mailbox) : (s.modBox n f).log = s.log := rfl
@[simp] theorem State.modBox_sluice (s : State) (n : Fin 8) (f : Mailbox → Mailbox) : (s.modBox n f).sluice = s.sluice := rfl
@[simp] theorem State.modBox_keeper (s : State) (n : Fin 8) (f : Mailbox → Mailbox) : (s.modBox n f).keeper = s.keeper := rfl
@[simp] theorem State.modBox_fw (s : State) (n : Fin 8) (f : Mailbox → Mailbox) : (s.modBox n f).fw = s.fw := rfl
@[simp] theorem State.modBox_part (s : State) (n : Fin 8) (f : Mailbox → Mailbox) : (s.modBox n f).part = s.part := rfl

@[simp] theorem State.modPort_pending (s : State) (p : Fin 6) (f : Port → Port) : (s.modPort p f).pending = s.pending := rfl
@[simp] theorem State.modPort_readData (s : State) (p : Fin 6) (f : Port → Port) : (s.modPort p f).readData = s.readData := rfl
@[simp] theorem State.modPort_latch (s : State) (p : Fin 6) (f : Port → Port) : (s.modPort p f).latch = s.latch := rfl
@[simp] theorem State.modPort_outbox (s : State) (p : Fin 6) (f : Port → Port) : (s.modPort p f).outbox = s.outbox := rfl
@[simp] theorem State.modPort_freeCount (s : State) (p : Fin 6) (f : Port → Port) : (s.modPort p f).freeCount = s.freeCount := rfl
@[simp] theorem State.modPort_jets (s : State) (p : Fin 6) (f : Port → Port) : (s.modPort p f).jets = s.jets := rfl
@[simp] theorem State.modPort_basins (s : State) (p : Fin 6) (f : Port → Port) : (s.modPort p f).basins = s.basins := rfl
@[simp] theorem State.modPort_cisterns (s : State) (p : Fin 6) (f : Port → Port) : (s.modPort p f).cisterns = s.cisterns := rfl
@[simp] theorem State.modPort_runnels (s : State) (p : Fin 6) (f : Port → Port) : (s.modPort p f).runnels = s.runnels := rfl
@[simp] theorem State.modPort_tiers (s : State) (p : Fin 6) (f : Port → Port) : (s.modPort p f).tiers = s.tiers := rfl
@[simp] theorem State.modPort_record (s : State) (p : Fin 6) (f : Port → Port) : (s.modPort p f).record = s.record := rfl
@[simp] theorem State.modPort_job (s : State) (p : Fin 6) (f : Port → Port) : (s.modPort p f).job = s.job := rfl
@[simp] theorem State.modPort_caps (s : State) (p : Fin 6) (f : Port → Port) : (s.modPort p f).caps = s.caps := rfl
@[simp] theorem State.modPort_coll (s : State) (p : Fin 6) (f : Port → Port) : (s.modPort p f).coll = s.coll := rfl
@[simp] theorem State.modPort_cxl (s : State) (p : Fin 6) (f : Port → Port) : (s.modPort p f).cxl = s.cxl := rfl
@[simp] theorem State.modPort_boxes (s : State) (p : Fin 6) (f : Port → Port) : (s.modPort p f).boxes = s.boxes := rfl
@[simp] theorem State.modPort_log (s : State) (p : Fin 6) (f : Port → Port) : (s.modPort p f).log = s.log := rfl
@[simp] theorem State.modPort_sluice (s : State) (p : Fin 6) (f : Port → Port) : (s.modPort p f).sluice = s.sluice := rfl
@[simp] theorem State.modPort_keeper (s : State) (p : Fin 6) (f : Port → Port) : (s.modPort p f).keeper = s.keeper := rfl
@[simp] theorem State.modPort_fw (s : State) (p : Fin 6) (f : Port → Port) : (s.modPort p f).fw = s.fw := rfl
@[simp] theorem State.modPort_part (s : State) (p : Fin 6) (f : Port → Port) : (s.modPort p f).part = s.part := rfl

@[simp] theorem State.modDom_pending (s : State) (d : Fin 10) (f : Dom → Dom) : (s.modDom d f).pending = s.pending := rfl
@[simp] theorem State.modDom_readData (s : State) (d : Fin 10) (f : Dom → Dom) : (s.modDom d f).readData = s.readData := rfl
@[simp] theorem State.modDom_latch (s : State) (d : Fin 10) (f : Dom → Dom) : (s.modDom d f).latch = s.latch := rfl
@[simp] theorem State.modDom_outbox (s : State) (d : Fin 10) (f : Dom → Dom) : (s.modDom d f).outbox = s.outbox := rfl
@[simp] theorem State.modDom_freeCount (s : State) (d : Fin 10) (f : Dom → Dom) : (s.modDom d f).freeCount = s.freeCount := rfl
@[simp] theorem State.modDom_jets (s : State) (d : Fin 10) (f : Dom → Dom) : (s.modDom d f).jets = s.jets := rfl
@[simp] theorem State.modDom_basins (s : State) (d : Fin 10) (f : Dom → Dom) : (s.modDom d f).basins = s.basins := rfl
@[simp] theorem State.modDom_cisterns (s : State) (d : Fin 10) (f : Dom → Dom) : (s.modDom d f).cisterns = s.cisterns := rfl
@[simp] theorem State.modDom_runnels (s : State) (d : Fin 10) (f : Dom → Dom) : (s.modDom d f).runnels = s.runnels := rfl
@[simp] theorem State.modDom_tiers (s : State) (d : Fin 10) (f : Dom → Dom) : (s.modDom d f).tiers = s.tiers := rfl
@[simp] theorem State.modDom_record (s : State) (d : Fin 10) (f : Dom → Dom) : (s.modDom d f).record = s.record := rfl
@[simp] theorem State.modDom_job (s : State) (d : Fin 10) (f : Dom → Dom) : (s.modDom d f).job = s.job := rfl
@[simp] theorem State.modDom_caps (s : State) (d : Fin 10) (f : Dom → Dom) : (s.modDom d f).caps = s.caps := rfl
@[simp] theorem State.modDom_weir (s : State) (d : Fin 10) (f : Dom → Dom) : (s.modDom d f).weir = s.weir := rfl
@[simp] theorem State.modDom_coll (s : State) (d : Fin 10) (f : Dom → Dom) : (s.modDom d f).coll = s.coll := rfl
@[simp] theorem State.modDom_cxl (s : State) (d : Fin 10) (f : Dom → Dom) : (s.modDom d f).cxl = s.cxl := rfl
@[simp] theorem State.modDom_boxes (s : State) (d : Fin 10) (f : Dom → Dom) : (s.modDom d f).boxes = s.boxes := rfl
@[simp] theorem State.modDom_log (s : State) (d : Fin 10) (f : Dom → Dom) : (s.modDom d f).log = s.log := rfl
@[simp] theorem State.modDom_keeper (s : State) (d : Fin 10) (f : Dom → Dom) : (s.modDom d f).keeper = s.keeper := rfl
@[simp] theorem State.modDom_fw (s : State) (d : Fin 10) (f : Dom → Dom) : (s.modDom d f).fw = s.fw := rfl
@[simp] theorem State.modDom_part (s : State) (d : Fin 10) (f : Dom → Dom) : (s.modDom d f).part = s.part := rfl

@[simp] theorem State.send_pending (s : State) (m : Msg) : (s.send m).pending = s.pending := rfl
@[simp] theorem State.send_readData (s : State) (m : Msg) : (s.send m).readData = s.readData := rfl
@[simp] theorem State.send_latch (s : State) (m : Msg) : (s.send m).latch = s.latch := rfl
@[simp] theorem State.send_freeCount (s : State) (m : Msg) : (s.send m).freeCount = s.freeCount := rfl
@[simp] theorem State.send_jets (s : State) (m : Msg) : (s.send m).jets = s.jets := rfl
@[simp] theorem State.send_basins (s : State) (m : Msg) : (s.send m).basins = s.basins := rfl
@[simp] theorem State.send_cisterns (s : State) (m : Msg) : (s.send m).cisterns = s.cisterns := rfl
@[simp] theorem State.send_runnels (s : State) (m : Msg) : (s.send m).runnels = s.runnels := rfl
@[simp] theorem State.send_tiers (s : State) (m : Msg) : (s.send m).tiers = s.tiers := rfl
@[simp] theorem State.send_record (s : State) (m : Msg) : (s.send m).record = s.record := rfl
@[simp] theorem State.send_job (s : State) (m : Msg) : (s.send m).job = s.job := rfl
@[simp] theorem State.send_caps (s : State) (m : Msg) : (s.send m).caps = s.caps := rfl
@[simp] theorem State.send_weir (s : State) (m : Msg) : (s.send m).weir = s.weir := rfl
@[simp] theorem State.send_coll (s : State) (m : Msg) : (s.send m).coll = s.coll := rfl
@[simp] theorem State.send_cxl (s : State) (m : Msg) : (s.send m).cxl = s.cxl := rfl
@[simp] theorem State.send_boxes (s : State) (m : Msg) : (s.send m).boxes = s.boxes := rfl
@[simp] theorem State.send_log (s : State) (m : Msg) : (s.send m).log = s.log := rfl
@[simp] theorem State.send_sluice (s : State) (m : Msg) : (s.send m).sluice = s.sluice := rfl
@[simp] theorem State.send_keeper (s : State) (m : Msg) : (s.send m).keeper = s.keeper := rfl
@[simp] theorem State.send_fw (s : State) (m : Msg) : (s.send m).fw = s.fw := rfl
@[simp] theorem State.send_part (s : State) (m : Msg) : (s.send m).part = s.part := rfl

@[simp] theorem State.capChange_pending (s : State) : (s.capChange).pending = s.pending := rfl
@[simp] theorem State.capChange_readData (s : State) : (s.capChange).readData = s.readData := rfl
@[simp] theorem State.capChange_latch (s : State) : (s.capChange).latch = s.latch := rfl
@[simp] theorem State.capChange_outbox (s : State) : (s.capChange).outbox = s.outbox := rfl
@[simp] theorem State.capChange_freeCount (s : State) : (s.capChange).freeCount = s.freeCount := rfl
@[simp] theorem State.capChange_jets (s : State) : (s.capChange).jets = s.jets := rfl
@[simp] theorem State.capChange_basins (s : State) : (s.capChange).basins = s.basins := rfl
@[simp] theorem State.capChange_cisterns (s : State) : (s.capChange).cisterns = s.cisterns := rfl
@[simp] theorem State.capChange_runnels (s : State) : (s.capChange).runnels = s.runnels := rfl
@[simp] theorem State.capChange_tiers (s : State) : (s.capChange).tiers = s.tiers := rfl
@[simp] theorem State.capChange_record (s : State) : (s.capChange).record = s.record := rfl
@[simp] theorem State.capChange_job (s : State) : (s.capChange).job = s.job := rfl
@[simp] theorem State.capChange_weir (s : State) : (s.capChange).weir = s.weir := rfl
@[simp] theorem State.capChange_coll (s : State) : (s.capChange).coll = s.coll := rfl
@[simp] theorem State.capChange_cxl (s : State) : (s.capChange).cxl = s.cxl := rfl
@[simp] theorem State.capChange_boxes (s : State) : (s.capChange).boxes = s.boxes := rfl
@[simp] theorem State.capChange_log (s : State) : (s.capChange).log = s.log := rfl
@[simp] theorem State.capChange_sluice (s : State) : (s.capChange).sluice = s.sluice := rfl
@[simp] theorem State.capChange_keeper (s : State) : (s.capChange).keeper = s.keeper := rfl
@[simp] theorem State.capChange_fw (s : State) : (s.capChange).fw = s.fw := rfl
@[simp] theorem State.capChange_part (s : State) : (s.capChange).part = s.part := rfl

/-! ## Units: what an update writes -/

@[simp] theorem State.jet_putJet (s : State) (j : Fin 160) (x : Jet) : (s.putJet j x).jet j = x := vset_get_self _ _ _
@[simp] theorem State.jet_putJet_ne (s : State) (i j : Fin 160) (x : Jet) (h : i ≠ j) : (s.putJet j x).jet i = s.jet i :=
  vset_get_ne _ _ _ _ h
@[simp] theorem State.putJet_jet (s : State) (j : Fin 160) : s.putJet j (s.jet j) = s := by
  simp [State.putJet, State.jet]
@[simp] theorem State.putJet_putJet (s : State) (j : Fin 160) (x y : Jet) : (s.putJet j x).putJet j y = s.putJet j y := by
  simp [State.putJet]
@[simp] theorem State.jet_modJet (s : State) (j : Fin 160) (f : Jet → Jet) : (s.modJet j f).jet j = f (s.jet j) := by
  simp [State.modJet]
@[simp] theorem State.jet_modJet_ne (s : State) (i j : Fin 160) (f : Jet → Jet) (h : i ≠ j) : (s.modJet j f).jet i = s.jet i := by
  simp [State.modJet, h]
@[simp] theorem State.basins_modBasin (s : State) (d : Fin 4) (f : Basin → Basin) :
    (s.modBasin d f).basins = vset s.basins d (f (s.basins.get d)) := rfl
@[simp] theorem State.cisterns_modCistern (s : State) (i : Fin 32) (f : Cistern → Cistern) :
    (s.modCistern i f).cisterns = vset s.cisterns i (f (s.cisterns.get i)) := rfl
@[simp] theorem State.runnels_modRunnel (s : State) (r : Fin 2) (f : Runnel → Runnel) :
    (s.modRunnel r f).runnels = vset s.runnels r (f (s.runnels.get r)) := rfl
@[simp] theorem State.boxes_modBox (s : State) (n : Fin 8) (f : Mailbox → Mailbox) :
    (s.modBox n f).boxes = vset s.boxes n (f (s.boxes.get n)) := rfl
@[simp] theorem State.ports_modPort (s : State) (p : Fin 6) (f : Port → Port) :
    (s.modPort p f).weir.ports = vset s.weir.ports p (f (s.weir.ports.get p)) := rfl
@[simp] theorem State.doms_modDom (s : State) (d : Fin 10) (f : Dom → Dom) :
    (s.modDom d f).sluice.doms = vset s.sluice.doms d (f (s.sluice.doms.get d)) := rfl
@[simp] theorem State.outbox_send (s : State) (m : Msg) : (s.send m).outbox = s.outbox ++ [m] := rfl

/-! ## Rill cores -/

@[simp] theorem State.core_putCore (s : State) (c : CoreId) (k : Core) : (s.putCore c k).core c = k := by
  cases c <;> simp [State.core, State.putCore]
@[simp] theorem State.putCore_core (s : State) (c : CoreId) : s.putCore c (s.core c) = s := by
  cases c with
  | jet j => exact State.putJet_jet s j
  | upd r n =>
    have e : ({ s.runnels.get r with cores := vset (s.runnels.get r).cores n ((s.runnels.get r).cores.get n) } : Runnel)
        = s.runnels.get r := by rw [vset_get_same]
    have e' : vset s.runnels r ({ s.runnels.get r with cores := vset (s.runnels.get r).cores n (s.core (.upd r n)) } : Runnel)
        = s.runnels := (congrArg (vset s.runnels r) e).trans (vset_get_same _ _)
    exact congrArg (fun v => ({ s with runnels := v } : State)) e'
@[simp] theorem State.putCore_putCore (s : State) (c : CoreId) (k k' : Core) :
    (s.putCore c k).putCore c k' = s.putCore c k' := by
  cases c <;> simp [State.putCore, State.modJet, State.modRunnel, State.putJet, State.jet]
theorem State.core_putCore_ne (s : State) (c d : CoreId) (k : Core) (h : d ≠ c) : (s.putCore c k).core d = s.core d := by
  cases c with
  | jet i => cases d with
    | jet j => exact congrArg Jet.core (State.jet_modJet_ne s j i _ fun e => h (congrArg CoreId.jet e))
    | upd r n => rfl
  | upd q m => cases d with
    | jet j => rfl
    | upd r n =>
      simp only [State.core, State.putCore, State.runnels_modRunnel, vset_get]
      split
      · subst_vars; rw [vset_get_ne]; intro e; exact h (by rw [e])
      · rfl

@[simp] theorem State.putCore_pending (s : State) (c : CoreId) (k : Core) : (s.putCore c k).pending = s.pending := by cases c <;> rfl
@[simp] theorem State.putCore_readData (s : State) (c : CoreId) (k : Core) : (s.putCore c k).readData = s.readData := by cases c <;> rfl
@[simp] theorem State.putCore_latch (s : State) (c : CoreId) (k : Core) : (s.putCore c k).latch = s.latch := by cases c <;> rfl
@[simp] theorem State.putCore_outbox (s : State) (c : CoreId) (k : Core) : (s.putCore c k).outbox = s.outbox := by cases c <;> rfl
@[simp] theorem State.putCore_freeCount (s : State) (c : CoreId) (k : Core) : (s.putCore c k).freeCount = s.freeCount := by cases c <;> rfl
@[simp] theorem State.putCore_basins (s : State) (c : CoreId) (k : Core) : (s.putCore c k).basins = s.basins := by cases c <;> rfl
@[simp] theorem State.putCore_cisterns (s : State) (c : CoreId) (k : Core) : (s.putCore c k).cisterns = s.cisterns := by cases c <;> rfl
@[simp] theorem State.putCore_tiers (s : State) (c : CoreId) (k : Core) : (s.putCore c k).tiers = s.tiers := by cases c <;> rfl
@[simp] theorem State.putCore_record (s : State) (c : CoreId) (k : Core) : (s.putCore c k).record = s.record := by cases c <;> rfl
@[simp] theorem State.putCore_job (s : State) (c : CoreId) (k : Core) : (s.putCore c k).job = s.job := by cases c <;> rfl
@[simp] theorem State.putCore_caps (s : State) (c : CoreId) (k : Core) : (s.putCore c k).caps = s.caps := by cases c <;> rfl
@[simp] theorem State.putCore_weir (s : State) (c : CoreId) (k : Core) : (s.putCore c k).weir = s.weir := by cases c <;> rfl
@[simp] theorem State.putCore_coll (s : State) (c : CoreId) (k : Core) : (s.putCore c k).coll = s.coll := by cases c <;> rfl
@[simp] theorem State.putCore_cxl (s : State) (c : CoreId) (k : Core) : (s.putCore c k).cxl = s.cxl := by cases c <;> rfl
@[simp] theorem State.putCore_boxes (s : State) (c : CoreId) (k : Core) : (s.putCore c k).boxes = s.boxes := by cases c <;> rfl
@[simp] theorem State.putCore_log (s : State) (c : CoreId) (k : Core) : (s.putCore c k).log = s.log := by cases c <;> rfl
@[simp] theorem State.putCore_sluice (s : State) (c : CoreId) (k : Core) : (s.putCore c k).sluice = s.sluice := by cases c <;> rfl
@[simp] theorem State.putCore_keeper (s : State) (c : CoreId) (k : Core) : (s.putCore c k).keeper = s.keeper := by cases c <;> rfl
@[simp] theorem State.putCore_fw (s : State) (c : CoreId) (k : Core) : (s.putCore c k).fw = s.fw := by cases c <;> rfl
@[simp] theorem State.putCore_part (s : State) (c : CoreId) (k : Core) : (s.putCore c k).part = s.part := by cases c <;> rfl

@[simp] theorem State.modCore_eq (s : State) (c : CoreId) (f : Core → Core) : s.modCore c f = s.putCore c (f (s.core c)) := rfl

/-! ## Registers of a core -/

@[simp] theorem Core.rs_zero (k : Core) : k.rs 0 = 0 := rfl
@[simp] theorem Core.ws_zero (k : Core) (v : W64) : k.ws 0 v = k := rfl
theorem Core.rs_ws_self (k : Core) (d : BitVec 5) (v : W64) (h : d ≠ 0) : (k.ws d v).rs d = v := by
  unfold Core.rs Core.ws
  rw [if_neg h, if_neg h]
  exact vset_get_self _ _ _
theorem Core.rs_ws_ne (k : Core) (d r : BitVec 5) (v : W64) (h : r ≠ d) : (k.ws d v).rs r = k.rs r := by
  have h' : (⟨r.toNat, r.isLt⟩ : Fin 32) ≠ ⟨d.toNat, d.isLt⟩ := fun e => h (BitVec.eq_of_toNat_eq (congrArg Fin.val e))
  unfold Core.rs Core.ws
  by_cases hr : r = 0
  · rw [if_pos hr, if_pos hr]
  · rw [if_neg hr, if_neg hr]
    by_cases hd : d = 0
    · rw [if_pos hd]
    · rw [if_neg hd]; exact vset_get_ne _ _ _ _ h'
theorem Core.rv_wv_self (k : Core) (d : BitVec 5) (v : BitVec 4096) : (k.wv d v).rv d = v := by
  exact vset_get_self _ _ _
theorem Core.rv_wv_ne (k : Core) (d r : BitVec 5) (v : BitVec 4096) (h : r ≠ d) : (k.wv d v).rv r = k.rv r := by
  have h' : (⟨r.toNat, r.isLt⟩ : Fin 32) ≠ ⟨d.toNat, d.isLt⟩ := fun e => h (BitVec.eq_of_toNat_eq (congrArg Fin.val e))
  exact vset_get_ne _ _ _ _ h'

end Sys2Proof.Machine
end

