-- ==== Sys2Proof/Laws/Ops.lean ====
section
/-! SUPPORT. What the shared operations can do, said once each: tables, interrupts, the event log, mailbox completion and a server's
work. -/

namespace Sys2Proof

/-- A table reads what was written at a number. -/
@[simp] theorem Tbl.get_set_self {α : Type} (d : α) (t : Tbl α) (k : Nat) (v : α) : Tbl.get d (t.set k v) k = v := by
  induction t with
  | nil => simp [Tbl.set, Tbl.get]
  | cons p t ih =>
    obtain ⟨a, b⟩ := p
    unfold Tbl.set
    split <;> simp_all [Tbl.get]

/-- A write leaves every other number. -/
theorem Tbl.get_set_ne {α : Type} (d : α) (t : Tbl α) (k j : Nat) (v : α) (h : j ≠ k) : Tbl.get d (t.set k v) j = Tbl.get d t j := by
  induction t with
  | nil => simp [Tbl.set, Tbl.get, Ne.symm h]
  | cons p t ih =>
    obtain ⟨a, b⟩ := p
    unfold Tbl.set
    split
    · simp_all [Tbl.get, Ne.symm h]
    · simp only [Tbl.get, ih]

namespace Machine

/-- A counter of a table counts one event, and no other counter moves. -/
theorem get_bump (t : Tbl W32) (k j : Nat) : (bump t k).get 0 j = if j = k then satInc (t.get 0 k) else t.get 0 j := by
  unfold bump
  split
  · next h => rw [h, Tbl.get_set_self]
  · next h => exact Tbl.get_set_ne _ _ _ _ _ h

/-- A counter of a table counts `n` events, and no other counter moves. -/
theorem get_bumpBy (t : Tbl W32) (k n j : Nat) : (bumpBy t k n).get 0 j = if n ≠ 0 ∧ j = k then satAdd (t.get 0 k) n else t.get 0 j := by
  unfold bumpBy
  by_cases hn : n = 0
  · simp [hn]
  · by_cases hj : j = k
    · simp [hn, hj]
    · simp [hn, hj, Tbl.get_set_ne _ _ _ _ _ hj]

/-- A cause that is set already: nothing happens (R461). -/
theorem State.raise_set (s : State) (n : Nat) (h : s.cxl.cause.getLsbD n = true) : s.raise n = s := by
  unfold State.raise
  rw [if_pos h]

/-- All that raising a cause can do: the cause and a pending bit of the port change, and a message may go out (R461, R462). -/
theorem State.raise_frame (s : State) (n : Nat) :
    s.raise n = { s with cxl := { s.cxl with cause := (s.raise n).cxl.cause, pba := (s.raise n).cxl.pba }, outbox := (s.raise n).outbox } ∧
    ((s.raise n).outbox = s.outbox ∨ (s.raise n).outbox = s.outbox ++ [.msix n]) ∧
    ((s.raise n).cxl.cause = s.cxl.cause ∨ (s.raise n).cxl.cause = setBit s.cxl.cause n true) := by
  unfold State.raise
  simp only []
  split
  · exact ⟨rfl, .inl rfl, .inl rfl⟩
  · split
    · exact ⟨rfl, .inl rfl, .inr rfl⟩
    · split
      · exact ⟨rfl, .inl rfl, .inr rfl⟩
      · exact ⟨rfl, .inr rfl, .inr rfl⟩

/-- All that storing an entry can do: the log, and the event log's cause with its message (R494, R495). -/
theorem State.store_frame (s : State) (code sev src : Nat) (args : List Nat) :
    let t := s.store code sev src args
    t = { s with log := t.log, cxl := { s.cxl with cause := t.cxl.cause, pba := t.cxl.pba }, outbox := t.outbox } := by
  unfold State.store
  simp only []
  split
  · rw [(State.raise_frame _ icEvent).1]
  · rfl

/-- All that an event can do: the log, and the event log's cause with its message (R494 to R496). -/
theorem State.event_frame (s : State) (code sev src : Nat) (args : List Nat) :
    let t := s.event code sev src args
    t = { s with log := t.log, cxl := { s.cxl with cause := t.cxl.cause, pba := t.cxl.pba }, outbox := t.outbox } := by
  unfold State.event
  simp only []
  generalize (if s.log.msNo = s.uptime / 1000000 then s.log else { s.log with msNo := s.uptime / 1000000, inMs := 0 }) = l
  by_cases h : 256 ≤ l.inMs ∧ sev ≤ 1
  · rw [if_pos h]
  · rw [if_neg h]
    exact State.store_frame _ code sev src args

/-- All that a completion can do: the mailbox named, its cause and its message (R478). -/
theorem State.complete_frame (s : State) (n : Fin 8) (status detail : Nat) (out : List Byte) :
    let t := s.complete n status detail out
    t = { s with boxes := t.boxes, cxl := { s.cxl with cause := t.cxl.cause, pba := t.cxl.pba }, outbox := t.outbox } ∧
      ∀ m, m ≠ n → t.boxes.get m = s.boxes.get m := by
  unfold State.complete
  simp only []
  split
  · rw [(State.raise_frame _ n.val).1]
    refine ⟨rfl, fun m hm => ?_⟩
    simp only [State.modBox]
    exact vset_get_ne _ _ _ _ hm
  · exact ⟨rfl, fun _ _ => rfl⟩

/-- A command in hand whose checks pass is served (R476). -/
theorem State.serve_serving {s : State} {n : Fin 8} {op : Nat} (h : s.serving n op) (f : State → Mailbox → State) :
    s.serve n op f = f s (s.boxes.get n) := by
  unfold State.serve
  rw [if_pos h.1, h.2]

/-- A command in hand that fails a check completes with it and has no other effect (R476). -/
theorem State.serve_refused {s : State} {n : Fin 8} {op st d : Nat} (h : s.inHand n op = true)
    (hc : s.cmdCheck (s.boxes.get n) = some (st, d)) (f : State → Mailbox → State) : s.serve n op f = s.complete n st d [] := by
  unfold State.serve
  rw [if_pos h, hc]

/-- A server with another command, or none, in hand does nothing (R476). -/
theorem State.serve_idle {s : State} {n : Fin 8} {op : Nat} (h : s.inHand n op = false) (f : State → Mailbox → State) :
    s.serve n op f = s := by
  unfold State.serve
  rw [h]
  rfl

/-- An outstanding command is complete: STATE, RESULT and output (R478). -/
theorem State.complete_outstanding (s : State) (n : Fin 8) (status detail : Nat) (out : List Byte)
    (h : (s.boxes.get n).outstanding = true) :
    let b := (s.complete n status detail out).boxes.get n
    b.state = 4 ∧ b.status = BitVec.ofNat 16 status ∧ b.detail = BitVec.ofNat 32 detail ∧ b.outLen = out.length := by
  unfold State.complete
  rw [if_pos h, (State.raise_frame _ n.val).1]
  simp only [State.modBox, vset_get_self]
  exact ⟨trivial, trivial, trivial, trivial⟩

end Machine
end Sys2Proof
end

