-- ==== Sys2Proof/Laws/Rill.lean ====
section
/-! SUPPORT. What every rill instruction shares, said once: a core that executes runs its instruction's effect, and what an access
check, a fetch and a field read answer. -/

namespace Sys2Proof.Machine

/-- A core that executes runs the instruction's own effect. -/
theorem State.rill_ready {s : State} {c : CoreId} {v : Bool} (h : s.ready c v) (body : State → State) :
    s.rill c v body = .next (body s) := by
  unfold State.rill
  rw [if_pos h.1, h.2]

/-- A core that does not run executes nothing. -/
theorem State.rill_idle {s : State} {c : CoreId} {v : Bool} (h : s.runs c v = false) (body : State → State) :
    s.rill c v body = .next s := by
  unfold State.rill
  rw [h]; rfl

/-- A SYS instruction with its zero fields zero runs its effect. -/
theorem State.sys_ready {s : State} {c : CoreId} (h : s.ready c false) (a : BitVec 5) (func : Nat) (body : State → State) :
    s.sys c 0 a 0 func body = .next (body s) := by
  unfold State.sys
  rw [State.rill_ready h, if_neg (by decide)]

/-- A SYS instruction with D or B not zero is ILLEGAL, encoding. -/
theorem State.sys_illegal {s : State} {c : CoreId} (h : s.ready c false) (d a b : BitVec 5) (func : Nat) (body : State → State)
    (hz : d ≠ 0 ∨ b ≠ 0) : s.sys c d a b func body = .next (s.raiseExc c (illegal (rillWord 0x0D (sysFields d a b func)) dEnc)) := by
  unfold State.sys
  rw [State.rill_ready h, if_pos hz]

/-- Outside handler mode an exception sets the cause registers and goes on at JT_VX_TVEC. -/
theorem State.raiseExc_entry (s : State) (c : CoreId) (e : Exc) (h : (s.core c).inHandler = false) :
    s.raiseExc c e = s.putCore c { (s.core c).enterExc e (s.core c).pc with pc := (s.core c).tvec } := by
  unfold State.raiseExc State.takeExc
  simp only [h, Bool.false_eq_true, if_false]

/-- In handler mode an exception sets the cause registers and the core stops. -/
theorem State.raiseExc_handler (s : State) (c : CoreId) (e : Exc) (h : (s.core c).inHandler = true) :
    s.raiseExc c e = (s.putCore c ((s.core c).enterExc e (s.core c).pc)).haltCore c := by
  unfold State.raiseExc State.takeExc
  simp only [h, if_true]

/-- The access check finds nothing where every byte may be accessed. -/
theorem accessFault_none (c : CoreId) (k : Core) (st : Bool) (a : Nat) (n : Nat) : ∀ i,
    (∀ j < n, mayAccess c k st ((a + (i + j)) % 2 ^ 64) = true) → accessFault c k st a n i = none := by
  induction n with
  | zero => intros; rfl
  | succ n ih =>
    intro i h
    simp only [accessFault]
    have h0 := h 0 (by omega)
    rw [Nat.add_zero] at h0
    rw [h0]
    simp only [Bool.not_true, Bool.false_eq_true, if_false]
    exact ih (i + 1) fun j hj => by
      have := h (j + 1) (by omega)
      rwa [show i + (j + 1) = i + 1 + j by omega] at this

/-- The access check finds the first byte that may not be accessed. -/
theorem accessFault_first (c : CoreId) (k : Core) (st : Bool) (a : Nat) (n : Nat) : ∀ i x, x < n →
    (∀ j < x, mayAccess c k st ((a + (i + j)) % 2 ^ 64) = true) → mayAccess c k st ((a + (i + x)) % 2 ^ 64) = false →
    accessFault c k st a n i =
      some (i + x, { code := 2, val := BitVec.ofNat 64 ((a + (i + x)) % 2 ^ 64), index := i + x }) := by
  induction n with
  | zero => intro i x h; omega
  | succ n ih =>
    intro i x hx h hb
    simp only [accessFault]
    cases x with
    | zero =>
      rw [Nat.add_zero] at hb ⊢
      rw [hb]; rfl
    | succ x =>
      have h0 := h 0 (by omega)
      rw [Nat.add_zero] at h0
      rw [h0]
      simp only [Bool.not_true, Bool.false_eq_true, if_false]
      have e : ∀ j, i + (j + 1) = i + 1 + j := fun j => by omega
      rw [e x] at hb ⊢
      exact ih (i + 1) x (by omega) (fun j hj => by have := h (j + 1) (by omega); rwa [e j] at this) hb

/-- No byte of an access lies in a word that cannot be used, where every byte reads. -/
theorem wordFault_none (k : Core) (a : Nat) (n : Nat) : ∀ i, (∀ j < n, (byteAt k.store (a + (i + j))).isSome = true) →
    wordFault k a n i = none := by
  induction n with
  | zero => intros; rfl
  | succ n ih =>
    intro i h
    have h0 := h 0 (by omega)
    rw [Nat.add_zero] at h0
    have h1 : (wordData k.store ((a + i) / 32)).isNone = false := by
      unfold byteAt at h0
      rw [Option.isSome_map] at h0
      rw [← Option.not_isSome, h0]; rfl
    simp only [wordFault, h1, Bool.false_eq_true, if_false]
    exact ih (i + 1) fun j hj => by
      have := h (j + 1) (by omega)
      rwa [show i + (j + 1) = i + 1 + j by omega] at this

/-! ## Words -/

theorem length_leBytes (n : Nat) : ∀ v, (leBytes n v).length = n := by
  induction n with
  | zero => intro; rfl
  | succ n ih => intro v; simp [leBytes, ih]

/-- Byte `i` of a little-endian number. -/
theorem leBytes_getD (n : Nat) : ∀ v i, i < n → (leBytes n v).getD i 0 = BitVec.ofNat 8 (v / 256 ^ i) := by
  induction n with
  | zero => intro v i h; omega
  | succ n ih =>
    intro v i h
    cases i with
    | zero => simp [leBytes]
    | succ i =>
      rw [leBytes, List.getD_cons_succ, ih _ _ (by omega), Nat.pow_succ, Nat.mul_comm, Nat.div_div_eq_div_mul]

theorem leNat_lt (l : List Byte) : leNat l < 2 ^ (8 * l.length) := by
  induction l with
  | nil => decide
  | cons b t ih =>
    have := b.isLt
    rw [leNat, List.length_cons, Nat.mul_add, Nat.pow_add]
    omega

end Sys2Proof.Machine
end

