-- ==== Sys2Proof/WellFormed.lean ====
section
/-! DEFINITION. Which commands are well formed: the sizes and ranges that the rules give a command's payload. Types already bound
unit numbers and instruction fields. A meaning does not rest on these checks: it is total on every command. -/

namespace Sys2Proof

/-- Has the core a mover, arrays and spouts (R178, R283)? -/
def CoreId.isJet : CoreId → Bool
  | .jet _ => true
  | .upd _ _ => false

/-- A packet (R367): at most 64 payload words, each a code word of 36 bytes (R248), and HOPS a byte. -/
def Packet.wf (p : Packet) : Bool :=
  p.payload.all (fun w => w.length == 36) && decide (p.payload.length ≤ 64) && decide (p.hops < 256)

/-- The fields of a chunk's identity (R415): c in 32 bits, COLL in 12, the occurrence in 4, A in 16, M 1 to 32,768. -/
def ChunkId.wf (i : ChunkId) : Bool :=
  decide (i.c < 2 ^ 32) && decide (i.coll < 4096) && decide (i.occ < 16) && decide (i.a < 65536) && decide (1 ≤ i.m) &&
    decide (i.m ≤ 32768)

/-- A membership table (R425): each STATE is ACTIVE, FAILED or JOINING. -/
def MembTable.wf (t : MembTable) : Bool := t.entries.all fun e => decide (e.2 ≤ 2)

/-- A training report (R366, R406): the peer's port is one of six and the round trip fits RTT_NS. -/
def TrainReport.wf (r : TrainReport) : Bool := decide (r.peerPort < 6) && decide (r.rttNs < 65536)

/-- Is a command well formed? -/
def Instr.wf : Instr → Bool
  | .registerWrite _ _ off wide v => decide (off % (if wide then 8 else 4) = 0) && (wide || decide (v.toNat < 2 ^ 32))
  | .reg64LowHalfRead _ _ off => decide (off % 8 = 0)
  | .rcFieldRead _ off _ => decide (off % 4 = 0)
  | .suspectEntryWrite _ cause => cause == 1 || cause == 2
  | .arrWaitEnd c | .moveWaitEnd c | .vspoutWaitEnd c => c.isJet
  | .scrubRead _ addr e1 e2 => decide (addr % 32 = 0) && decide (e1.length ≤ 36) && decide (e2.length ≤ 36)
  | .frameReceive _ hdr body _ _ _ => hdr.length == 8 && body.length == 120
  | .trainingDone _ r => r.wf
  | .write p => p.wf
  | .chunkReceive _ i _ _ | .resultReceive _ i _ _ | .chunkAckTimer _ i | .chunkAckReceive _ i _ | .chunkRetransmit _ i _ => i.wf
  | .commit t _ | .membershipSet _ t _ => t.wf
  | .cxlMemWrite _ data _ => data.length == 64
  | .mctpPacketReceive _ _ _ _ _ data => decide (data.length ≤ 64)
  | .progressUpdate _ m => decide (m ≤ 1000)
  | .replanDomain d v => v.length == if d.val < 6 then 5 else 1
  | .cxlLinkUp _ width _ => width == 4 || width == 8 || width == 16
  | _ => true

end Sys2Proof
end

