-- ==== Sys2Proof/Tests/Slice0.lean ====
section
/-! SUPPORT. Tests on small states: the well-formedness checks, single commands with values taken from the spec's rules, and for each
statement states and operands that meet the hypotheses of its clauses together (`witness_` and the statement's name). -/

namespace Sys2Proof.Tests
open Sys2Proof Sys2Proof.Machine
set_option Elab.async false

/-! ## Helpers -/

/-- A running module: the rails up, start-up complete. -/
def up : State := { State.reset with keeper := { State.reset.keeper with
  rails := true, aclkOn := true, step := 11, powerState := 0, ctrlReady := true, dataReady := true, ready := true } }
/-- The core of a jet. -/
def j3 : CoreId := .jet 3
/-- An update core. -/
def u1 : CoreId := .upd 1 15
/-- The running module with jet 3's core changed. -/
def rill (f : Core → Core) : State := up.modCore j3 f
/-- The running module with an update core in a kernel. -/
def ru (f : Core → Core) : State := up.modCore u1 fun k => f { k with staged := some true, code := (0, 4096) }
/-- Core registers set. -/
def sets (l : List (BitVec 5 × W64)) (k : Core) : Core := l.foldl (fun k p => k.ws p.1 p.2) k
/-- Does a command answer a next state of which `p` holds? -/
def after (o : Out) (p : State → Bool) : Bool := match o with | .next t => p t | _ => false
theorem ready_of {s : State} {c : CoreId} {v : Bool} (h : (s.runs c v && (fetchExc c (s.core c)).isNone) = true) : s.ready c v := by
  rw [Bool.and_eq_true] at h
  exact ⟨h.1, Option.isNone_iff_eq_none.mp h.2⟩

/-! ## Rill cores -/

/-- Fields of an instruction whose low 16 bits are `lo`. -/
def fields (d a : BitVec 5) (lo : BitVec 16) : RFields := ⟨d, a, lo.extractLsb' 11 5, lo.extractLsb' 0 11⟩

theorem witness_RegistersKeepWhatIsWritten : (31 : BitVec 5) ≠ 0 ∧ (0 : BitVec 5) ≠ 31 ∧ (30 : BitVec 5) ≠ 31 := by decide

theorem witness_ImmediateInstructionsWriteTheirResult :
    up.ready j3 false ∧ (ru id).ready u1 false ∧ (fields 1 0 0x8000).a = 0 ∧ (fields 1 31 0).a ≠ 0 ∧
    (∀ op : BitVec 2, ((op ++ 0#8 ++ 63#6 : BitVec 16)).extractLsb' 6 8 = 0 ∧ ((op ++ 0#8 ++ 63#6 : BitVec 16)).extractLsb' 14 2 = op) ∧
    (0x0040#16).extractLsb' 6 8 ≠ 0 ∧ (0xC03F#16).extractLsb' 14 2 = 3 :=
  ⟨ready_of (by decide +kernel), ready_of (by decide +kernel), by decide +kernel⟩

theorem witness_AluWritesItsResult : up.ready j3 false ∧ (fields 1 2 11).lo.toNat = 11 ∧ (fields 1 2 0).lo.toNat = 0 ∧
    12 ≤ (fields 1 2 12).lo.toNat ∧ 12 ≤ (fields 1 2 0x7FF).lo.toNat :=
  ⟨ready_of (by decide +kernel), by decide +kernel⟩

theorem witness_BranchesAndJumpsSetPc : up.ready j3 false ∧ (0x0001#16).extractLsb' 13 3 = 0 ∧ (0xA001#16).extractLsb' 13 3 = 5 ∧
    6 ≤ ((0xC000#16).extractLsb' 13 3).toNat ∧ 6 ≤ ((0xFFFF#16).extractLsb' 13 3).toNat ∧
    ((up.core j3).rs 2 + (0xFFFC#16).signExtend 64).toNat % 4 = 0 ∧ ((up.core j3).rs 2 + (0x7FFF#16).signExtend 64).toNat % 4 ≠ 0 :=
  ⟨ready_of (by decide +kernel), by decide +kernel⟩

/-- A core in handler mode. -/
def inHandler (k : Core) : Core := { k with cause := 0x80000000 }

theorem witness_ExceptionEntrySetsCauseRegisters : up.ready j3 false ∧ (up.core j3).inHandler = false ∧
    ((({ code := 0xFF, detail := 0xFF } : Exc)).code < 256 ∧ ({ code := 0xFF, detail := 0xFF } : Exc).detail < 256) :=
  ⟨ready_of (by decide +kernel), by decide +kernel⟩

theorem witness_ExceptionInHandlerHalts : ((rill inHandler).core j3).inHandler = true ∧ (rill inHandler).inStep = false := by
  decide +kernel

/-- A pass descriptor of CHAIN 5: MODE 0, one row. -/
def pass5 : PassDesc := ⟨0, false, .a, 5, true, true, true, true, 1, false, 0, 0, 0, 0, 0, 0, 0, 0, false⟩
/-- A mover descriptor of TAG 5 from jet store to jet store. -/
def move5 : MvDesc := ⟨0, 64, 32, 1, 32, 32, 5, 0, false, true, true, true, 0, 0, 0, 0⟩
/-- Work of chain 5 and tag 5 outstanding in jet 3, and 5 in s2. -/
def busy : State := ((rill (sets [(2, 5)])).modArr 3 7 fun a => { a with queue := [pass5] }).modJet 3 fun x => { x with mvQueue := [move5] }

theorem witness_SystemInstructionsComplete :
    busy.ready j3 false ∧ busy.chainBusy j3 ((busy.core j3).rs 2).toNat = true ∧ busy.tagBusy j3 ((busy.core j3).rs 2).toNat = true ∧
    busy.chainBusy j3 ((busy.core j3).rs 0).toNat = false ∧ busy.tagBusy j3 ((busy.core j3).rs 0).toNat = false ∧
    (rill inHandler).ready j3 false ∧ ((rill inHandler).core j3).inHandler = true ∧ (busy.core j3).inHandler = false ∧
    (ru id).ready u1 false ∧ ((ru id).core u1).inHandler = false ∧ ((1 : BitVec 5) ≠ 0 ∨ (0 : BitVec 5) ≠ 0) :=
  ⟨ready_of (by decide +kernel), by decide +kernel, by decide +kernel, by decide +kernel, by decide +kernel,
    ready_of (by decide +kernel), by decide +kernel, by decide +kernel, ready_of (by decide +kernel), by decide +kernel⟩

/-- Core 3 waiting. -/
def waits (h : HoldKind) (i : Instr) : State := rill fun k => { k with held := some (h, i) }

theorem witness_WaitsEndAndPendingFaultsAreTaken :
    ((waits (.chain 5) (.waitc j3 0 2 0)).core j3).held = some (.chain 5, .waitc j3 0 2 0) ∧
    (waits (.chain 5) (.waitc j3 0 2 0)).chainBusy j3 5 = false ∧
    ((waits (.tag 5) (.waitm j3 0 2 0)).core j3).held = some (.tag 5, .waitm j3 0 2 0) ∧
    (waits (.tag 5) (.waitm j3 0 2 0)).tagBusy j3 5 = false ∧
    (let s := rill fun k => { k with pendArray := [(7, 1), (7, 2)] }
     s.runs j3 false = true ∧ (s.core j3).inHandler = false ∧ (s.core j3).resumed = false ∧ (s.core j3).pendArray = (7, 1) :: [(7, 2)] ∧
      ∀ p ∈ [((7 : Nat), (2 : Nat))], 7 ≤ p.1) ∧
    (let s := rill fun k => { k with pendMover := [5] }
     s.runs j3 false = true ∧ (s.core j3).inHandler = false ∧ (s.core j3).resumed = false ∧ (s.core j3).pendArray = [] ∧
      (s.core j3).pendMover = 5 :: []) := by decide +kernel

/-- s2 holds the address of the last 8 bytes of jet store. -/
def top8 : State := rill (sets [(2, 0x13FFFF8)])
/-- s2 holds the address of the last 4 bytes of jet store. -/
def top4 : State := rill (sets [(2, 0x13FFFFC)])

theorem witness_LoadReadsItsBytes :
    let k := top8.core j3
    let f := fields 1 2 0x6000
    top8.ready j3 false ∧ k.resume = 0 ∧ Mem.wf k.store = true ∧ fld f 15 13 ≠ 7 ∧
    (∀ i < 8, mayAccess j3 k false ((ldAddr k f + i) % 2 ^ 64) = true) ∧ top8.hazard j3 false (ldAddr k f) 8 = false ∧
    (zeroBytes 8).length = 2 ^ (fld f 15 13 % 4) ∧ ∀ i < 8, byteAt k.store (ldAddr k f + i) = some ((zeroBytes 8).getD i 0) :=
  ⟨ready_of (by decide +kernel), by decide +kernel⟩

theorem witness_StoreWritesItsBytesOnly :
    let k := top8.core j3
    let f := fields 1 2 0x6000
    top8.ready j3 false ∧ k.resume = 0 ∧ Mem.wf k.store = true ∧ fld f 15 13 ≠ 7 ∧
    (∀ i < 8, mayAccess j3 k true ((ldAddr k f + i) % 2 ^ 64) = true) ∧ top8.hazard j3 true (ldAddr k f) 8 = false ∧
    ∀ i < 8, (byteAt k.store (ldAddr k f + i)).isSome = true :=
  ⟨ready_of (by decide +kernel), by decide +kernel⟩

theorem witness_AccessOutsideTheStoreIsRaised :
    let k := top4.core j3
    top4.ready j3 false ∧ k.resume = 0 ∧ fld (fields 1 2 0xE000) 15 13 = 7 ∧
    (∀ st : Bool, (∀ j < 4, mayAccess j3 k st ((ldAddr k (fields 1 2 0x6000) + j) % 2 ^ 64) = true) ∧
      mayAccess j3 k st ((ldAddr k (fields 1 2 0x6000) + 4) % 2 ^ 64) = false) ∧ 4 < 2 ^ (fld (fields 1 2 0x6000) 15 13 % 4) :=
  ⟨ready_of (by decide +kernel), by decide +kernel⟩

theorem witness_CsrOperationsActByAccessCode :
    let k := up.core j3
    up.ready j3 false ∧ (rill inHandler).ready j3 false ∧ ((rill inHandler).core j3).inHandler = true ∧ k.inHandler = false ∧
    (0x114#14).toNat ∉ [0x100, 0x104, 0x108, 0x10C, 0x110, 0x118, 0x120, 0x128, 0x130] ∧
    ((k.ctrl.setWidth 64 ||| (0xFFFFFFFFFFFFFFFD : W64)).setWidth 32 &&& 7 : W32) ≤ 5 ∧
    ((0x7F1F05 : W64).setWidth 32 &&& 7 : W32) ≤ 5 ∧ (0x2FFF : W64).toNat % 8192 ≤ 4095 :=
  ⟨ready_of (by decide +kernel), ready_of (by decide +kernel), by decide +kernel⟩

theorem witness_VectorMovesMoveElements :
    (rill (sets [(3, 63)])).ready j3 true ∧ vmovOk 0 = true ∧ vmovOk 12 = true ∧ ((rill (sets [(3, 63)])).core j3).resume = 0 ∧
    (((rill (sets [(3, 63)])).core j3).rs 3).toNat < 4096 / typeWidth (bits (0 : BitVec 6) 3 1) ∧
    (rill (sets [(3, 512)])).ready j3 true ∧ 4096 / typeWidth (bits (12 : BitVec 6) 3 1) ≤ (((rill (sets [(3, 512)])).core j3).rs 3).toNat :=
  ⟨ready_of (by decide +kernel), by decide +kernel, by decide +kernel, by decide +kernel, by decide +kernel,
    ready_of (by decide +kernel), by decide +kernel⟩

theorem witness_VectorLoadsAndStoresMoveBytes :
    let s := rill (sets [(2, 0x13FFE00)])
    let k := s.core j3
    let f := fields 1 2 0
    s.ready j3 true ∧ k.resume = 0 ∧ Mem.wf k.store = true ∧ baseOk f.d (groupSize (fld f 15 14)) = true ∧
    (∀ st : Bool, (∀ i < 512 * groupSize (fld f 15 14), mayAccess j3 k st ((vldAddr k f + i) % 2 ^ 64) = true) ∧
      s.hazard j3 st (vldAddr k f) (512 * groupSize (fld f 15 14)) = false) ∧
    ∀ i, (byteAt k.store (vldAddr k f + i)).isSome = true :=
  ⟨ready_of (by decide +kernel), by decide +kernel, by decide +kernel, by decide +kernel, by decide +kernel, fun i => by
    rw [show ((rill (sets [(2, 0x13FFE00)])).core j3).store = [] by decide +kernel, byteAt_nil]; rfl⟩

theorem witness_ElementwiseInstructionsWriteEveryElement :
    let s5 := rill fun k => { k with ctrl := 5 }
    let add := fields 4 8 0x0000
    let cmp := fields 4 8 0x0244
    let int := fields 8 16 0x03CC
    up.ready j3 true ∧ s5.ready j3 true ∧ (s5.core j3).frm = 5 ∧ (s5.core j3).inHandler = false ∧
    (∀ x : IFlags, x &&& (up.core j3).te = 0 ∧ x &&& (s5.core j3).te = 0) ∧
    fpOk (fld add 3 1) (fld add 10 6) = true ∧ isUnary (fld add 10 6) = false ∧ baseOk add.d 1 = true ∧ baseOk add.a 1 = true ∧
    inPlaceOk add.d 1 add.a 1 = true ∧ baseOk add.b 1 = true ∧ inPlaceOk add.d 1 add.b 1 = true ∧ fld add 3 1 ≤ 2 ∧
    baseOk (BitVec.ofNat 5 (fld add 10 6)) 1 = true ∧ inPlaceOk add.d 1 (BitVec.ofNat 5 (fld add 10 6)) 1 = true ∧
    fld cmp 3 1 = 2 ∧ isCmp (fld cmp 10 6) = true ∧ fpOk (fld cmp 3 1) (fld cmp 10 6) = true ∧
    fld int 3 1 = 6 ∧ fld int 10 6 = 15 ∧ groupSize (fld int 5 4) = 1 ∧ (3 ≤ fld int 3 1 ∧ fld int 3 1 ≤ 6) :=
  ⟨ready_of (by decide +kernel), ready_of (by decide +kernel), by decide +kernel⟩

/-- Element 63 of v2 is a signaling NaN, and every trap is enabled. -/
def snan : State := rill fun k => { k with ctrl := 0x1F00 }.wv 2 (0x7FF0000000000001 <<< (64 * 63))

theorem witness_TrappingElementStopsTheInstruction :
    let k := snan.core j3
    let f := fields 1 2 0x1800
    let fp (i : Nat) : Nat × IFlags := fpBinary (typeFmt 0) (Rnd.ofFrm k.frm) 0 (elemOf 64 (groupVal k f.a 1) i) (elemOf 64 (groupVal k f.b 1) i)
    snan.ready j3 true ∧ k.resume = 0 ∧ k.inHandler = false ∧ fld f 3 1 = 0 ∧ fld f 10 6 = 0 ∧ groupSize (fld f 5 4) = 1 ∧ fld f 0 0 = 0 ∧
    baseOk f.d 1 = true ∧ baseOk f.a 1 = true ∧ baseOk f.b 1 = true ∧ inPlaceOk f.d 1 f.a 1 = true ∧ inPlaceOk f.d 1 f.b 1 = true ∧
    (∀ i < 63, (fp i).2 &&& k.te = 0) ∧ (fp 63).2 &&& k.te ≠ 0 ∧ 63 < 1 * (4096 / typeWidth 0) :=
  ⟨ready_of (by decide +kernel), by decide +kernel⟩

/-- v2 holds 64-bit integers, all 0 but the last. -/
def last (x : BitVec 4096) : State := rill fun k => k.wv 2 (x <<< (64 * 63))
/-- Element `i` of v2 as a signed 64-bit integer. -/
def int64 (s : State) (i : Nat) : Int := (BitVec.ofNat 64 (elemOf 64 (groupVal (s.core j3) 2 1) i)).toInt

theorem witness_ScalarFloatReductionAndRandomComplete :
    let s5 := rill fun k => { k with ctrl := 5 }
    let red (f5 : Nat) := fields 1 2 (BitVec.ofNat 16 (64 * f5 + 6))
    up.ready j3 true ∧ s5.ready j3 true ∧ (up.core j3).resume = 0 ∧ (s5.core j3).frm = 5 ∧ (s5.core j3).inHandler = false ∧
    (∀ x : IFlags, x &&& (up.core j3).te = 0 ∧ x &&& (s5.core j3).te = 0) ∧ fpOk 2 0 = true ∧ isCmp 0 = false ∧
    (last 1).ready j3 true ∧ (last (-1)).ready j3 true ∧
    (∀ f5 : Fin 3, (red f5.val).b = 0 ∧ (red f5.val).d ≠ 31 ∧ fld (red f5.val) 3 1 = 3 ∧ fld (red f5.val) 0 0 = 0 ∧
      fld (red f5.val) 10 6 = f5.val ∧ baseOk (red f5.val).a (groupSize (fld (red f5.val) 5 4)) = true) ∧ typeWidth 3 = 64 ∧
    (∀ j < 64, int64 (last 1) j ≤ int64 (last 1) 63) ∧ (∀ j < 63, int64 (last 1) j < int64 (last 1) 63) ∧
    (∀ j < 64, int64 (last (-1)) 63 ≤ int64 (last (-1)) j) ∧
    (∀ j < 63, int64 (last (-1)) 63 < int64 (last (-1)) j) ∧
    ∀ f5 : Fin 3, (fields 8 0 (BitVec.ofNat 16 (64 * f5.val + 0x30))).b = 0 ∧ fld (fields 8 0 (BitVec.ofNat 16 (64 * f5.val + 0x30))) 3 0 = 0 ∧
      fld (fields 8 0 (BitVec.ofNat 16 (64 * f5.val + 0x30))) 10 6 = f5.val ∧
      baseOk 8 (groupSize (fld (fields 8 0 (BitVec.ofNat 16 (64 * f5.val + 0x30))) 5 4)) = true :=
  ⟨ready_of (by decide +kernel), ready_of (by decide +kernel), by decide +kernel, by decide +kernel, by decide +kernel, by decide +kernel,
    by decide +kernel, by decide +kernel, ready_of (by decide +kernel), ready_of (by decide +kernel), by decide +kernel⟩

theorem witness_ConversionsWriteEveryElement :
    let k := up.core j3
    up.ready j3 true ∧ k.resume = 0 ∧ k.inHandler = false ∧ (∀ x : IFlags, x &&& k.te = 0) ∧
    -- VCVT: binary64 to JF16 with RND stochastic, and binary64 to int8 with the rounding of FRM
    (∀ p ∈ [((2 : Nat), (5 : Nat), (0x4500 : BitVec 16)), (6, 6, 0xC600)], let f := fields 1 2 p.2.2
      fld f 15 13 = p.1 ∧ fld f 10 8 = p.2.1 ∧ fld f 3 1 = 0 ∧ fld f 12 11 = 0 ∧ fld f 7 6 = 0 ∧ fld f 0 0 = 0 ∧
      baseOk f.d (regsOf (fld f 5 4) (typeWidth p.1) (max (typeWidth p.1) 64)) = true ∧
      baseOk f.a (regsOf (fld f 5 4) 64 (max (typeWidth p.1) 64)) = true ∧ inPlaceOk f.d 1 f.a 1 = true) ∧ cvtDraws 5 2 k = true ∧
    -- VCVTB and VCVTW: BX16 and a signed 8-bit integer, stochastic
    (∀ p ∈ [((0x10 : Nat), (0x1840 : BitVec 16)), (0x20, 0x1C40)], let f := fields 1 2 p.2
      f.b = 3 ∧ fld f 3 1 = 0 ∧ fld f 6 6 = 1 ∧ fld f 0 0 = 0 ∧ dfmtCode (fld f 10 7) = some p.1 ∧
      baseOk f.d (regsOf (fld f 5 4) (destWidth p.1) 64) = true ∧ baseOk f.a (groupSize (fld f 5 4)) = true ∧
      overlaps f.b.toNat 1 f.d.toNat 1 = false ∧ overlaps f.b.toNat 1 f.a.toNat 1 = false ∧ inPlaceOk f.d 1 f.b 1 = true ∧
      ((blkFmt? p.1).isSome = true ∨ (intFmt? p.1).isSome = true)) ∧
    -- VCVTSB
    (let f := fields 8 2 0x1800
     fld f 3 1 = 0 ∧ fld f 10 6 = 0 ∧ fld f 0 0 = 0 ∧ baseOk f.d (groupSize (fld f 5 4)) = true ∧
      baseOk f.a (groupSize (fld f 5 4)) = true ∧ inPlaceOk f.d 1 f.a 1 = true ∧ overlaps f.b.toNat 1 f.d.toNat 1 = false ∧
      overlaps f.b.toNat 1 f.a.toNat 1 = false) :=
  ⟨ready_of (by decide +kernel), by decide +kernel⟩

/-- The bytes of a pass descriptor of one row. -/
def passBytes : List Byte := [0, 0, 1] ++ zeroBytes 13

/-- Jet 3 with a pass descriptor at the start of its store. -/
def passAt0 : State := rill fun k => { k with store := storeBytes [] 0 passBytes }
theorem passAt0_store : (passAt0.core j3).store = storeBytes [] 0 passBytes := by decide +kernel

theorem witness_ArrAndMoveQueueTheirDescriptors :
    let full := (passAt0.modArr 3 7 fun a => { a with queue := List.replicate 16 pass5 }).modJet 3 fun x => { x with mvQueue := List.replicate 32 move5 }
    let k := passAt0.core j3
    (passAt0.ready j3 false ∧ up.ready j3 false ∧ full.ready j3 false) ∧
    ((fields 28 2 0).d.toNat = 4 * 7 ∧ (fields 28 2 0).b = 0 ∧ (fields 28 2 0).lo = 0 ∧ k.rs 2 = 0 ∧
     (∀ i < 64, mayAccess j3 k false i = true) ∧ passAt0.hazard j3 false 0 16 = false ∧ passBytes.length = 16 ∧
     (let p := parsePass (leNat passBytes)
      (passLegal (passAt0.jet 3) 7 p && (passAt0.jet 3).within passAt0.logicalArrays 7 p.quad) = true ∧
       (passLegal (passAt0.jet 3) 7 { p with mode := 7 } && (passAt0.jet 3).within passAt0.logicalArrays 7 p.quad) = false) ∧
     (passAt0.arr 3 7).queue.length < 16 ∧ 16 ≤ (full.arr 3 7).queue.length ∧ (passAt0.jet 3).mvQueue.length < 32 ∧
     32 ≤ (full.jet 3).mvQueue.length ∧ up.hazard j3 false 0 64 = false ∧ (zeroBytes 64).length = 64) ∧
    Mem.wf k.store = true ∧ (∀ i < 16, byteAt k.store (0 + i) = some (passBytes.getD i 0)) ∧ ∀ i, byteAt [] i = some 0 :=
  ⟨⟨ready_of (by decide +kernel), ready_of (by decide +kernel), ready_of (by decide +kernel)⟩, by decide +kernel,
    by rw [passAt0_store]; exact storeBytes_wf _ _ _ rfl,
    fun i hi => by rw [passAt0_store]; exact byteAt_storeBytes [] 0 passBytes rfl i hi (by rw [byteAt_nil]; rfl), byteAt_nil⟩

theorem witness_HeldInstructionsIssueAgain :
    let f := fields 28 2 0x0700
    let held (h : HoldKind) (i : Instr) := ((waits h i).core j3).held = some (h, i)
    held .arrFull (.arr j3 f) ∧ ((waits .arrFull (.arr j3 f)).arr 3 7).queue.length < 16 ∧
    held .moveFull (.move j3 f) ∧ ((waits .moveFull (.move j3 f)).jet 3).mvQueue.length < 32 ∧
    held .vspout (.vspout j3 f) ∧ ((waits .vspout (.vspout j3 f)).arr 3 ⟨bits f.lo 10 8 % 8, by omega⟩).vspoutFree = true ∧
    ∀ i ∈ [Instr.ld j3 f, .st j3 f, .vld j3 f, .vst j3 f, .arr j3 f, .move j3 f, .pcomb j3 f, .vspout j3 f], accessOf j3 i = true ∧ held .hazard i := by
  decide +kernel

theorem witness_PcombAddsRecordsRowByRow :
    let s := rill (sets [(2, 96), (3, 192)])
    let k := s.core j3
    let f := fields 1 2 0x1802
    s.ready j3 true ∧ k.resume = 0 ∧ Mem.wf k.store = true ∧ bits f.lo 10 9 = 0 ∧ bits f.lo 7 1 = 1 ∧ f.lo.getLsbD 0 = false ∧
    f.lo.getLsbD 8 = false ∧ recBytes (recMode 0) = 96 ∧ (k.rs f.d).toNat = 0 ∧ (k.rs f.a).toNat = 96 ∧ (k.rs f.b).toNat = 192 ∧
    (∀ i < 288, ∀ st : Bool, mayAccess j3 k st i = true) ∧ (∀ st : Bool, s.hazard j3 st 0 288 = false) ∧
    ∀ i, (byteAt k.store i).isSome = true :=
  ⟨ready_of (by decide +kernel), by decide +kernel, by decide +kernel, by decide +kernel, by decide +kernel, by decide +kernel,
    by decide +kernel, by decide +kernel, by decide +kernel, by decide +kernel, by decide +kernel, by decide +kernel, by decide +kernel,
    fun i => by rw [show ((rill (sets [(2, 96), (3, 192)])).core j3).store = [] by decide +kernel, byteAt_nil]; rfl⟩

/-- No load from empty jet store is stopped. -/
theorem loadFaultAt_nil (j : Fin 160) (k : Core) (h : k.store = []) (a n row : Nat) (ha : a + n ≤ 0x1400000) :
    loadFaultAt (.jet j) k a n row = none := by
  have hw : wordFault k a (n - 0) 0 = none := wordFault_none k a _ 0 fun i _ => by rw [h, byteAt_nil]; rfl
  have hf : accessFault (.jet j) k false a (n - 0) 0 = none := accessFault_none _ _ _ _ _ _ fun i hi => by
    simp only [mayAccess, Bool.false_and, Bool.not_false, Bool.and_true, decide_eq_true_eq]; omega
  unfold loadFaultAt loadFault
  rw [hf]
  simp only [hw, Option.map_none]

/-- What ARR, MOVE and VSPOUT read from empty jet store. -/
theorem coreRead_nil (s : State) (j : Fin 160) (a n : Nat) (h : (s.core (.jet j)).store = []) (hh : s.hazard (.jet j) false a n = false)
    (ha : a + n ≤ 0x1400000) : s.coreRead (.jet j) a n = .bytes (List.replicate n 0) [] := by
  have hf : accessFault (.jet j) (s.core (.jet j)) false a n 0 = none := accessFault_none _ _ _ _ _ _ fun i hi => by
    simp only [mayAccess, Bool.false_and, Bool.not_false, Bool.and_true, decide_eq_true_eq]; omega
  have hw : wordFault (s.core (.jet j)) a n 0 = none := wordFault_none _ a _ 0 fun i _ => by rw [h, byteAt_nil]; rfl
  unfold State.coreRead
  simp only [hf, hh, hw, h, loadBytes_nil, List.map_replicate, Option.getD_some]
  rfl

/-- One step of a spout over one row of empty jet store ends where its writes may go. -/
theorem vspoutSteps_nil (j : Fin 160) (e : SpoutEnv) (a : Nat) (k : Core) (h : k.store = []) (hr : e.rows = 1)
    (ha : a + 0 * recBytes e.mode + min e.stepRows 1 * recBytes e.mode ≤ 0x1400000) (hs : 1 ≤ e.stepRows)
    (hw : ((e.vstep 0 k 0 [[unpackRow e.mode (List.replicate (recBytes e.mode) 0)]]).writes.findSome? fun w =>
      storeFaultAt (.jet j) k w.1 w.2.length 0) = none) : (vspoutSteps (.jet j) e 1 a 1 0 0 k).2 = none := by
  unfold vspoutSteps
  rw [if_neg (by omega)]
  simp only [hr, Nat.mul_one, Nat.sub_zero]
  have hc : min e.stepRows 1 = 1 := by omega
  rw [loadFaultAt_nil j k h _ _ _ (by simpa using ha)]
  simp only [h, loadBytes_nil, hc, Nat.one_mul]
  have hk : { k with store := [] } = k := by rw [← h]
  simp only [hk, List.range_one, List.map_cons, List.map_nil, Nat.zero_mul, Nat.zero_add, List.drop_zero,
    List.take_replicate, Nat.min_self, List.map_replicate, Option.getD_some, hw]
  rfl

theorem witness_VspoutRunsTheSpoutSteps :
    let s := rill (sets [(2, 96), (3, 64)])
    let k := s.core j3
    let f := fields 0 2 0x1F02
    let d := parseSpout (zeroBytes 64)
    let env := spoutEnv [] d (recMode 0) 1 16 16 ((s.jet 3).vspoutLanes s.logicalArrays 7 false 16)
    s.ready j3 true ∧
    (k.resume = 0 ∧ k.inHandler = false ∧ bits f.lo 10 8 = 7 ∧ bits f.lo 7 1 = 1 ∧ f.lo.getLsbD 0 = false ∧
     (s.jet 3).enabled 7 = true ∧ (s.jet 3).within s.logicalArrays 7 false = true ∧ (s.arr 3 7).vspoutFree = true ∧ outCols false d = 16 ∧ vecRanges false d = [] ∧
     s.hazard j3 false (k.rs f.a).toNat (recBytes (recMode 0)) = false ∧
     (∀ r ∈ outRanges (recMode 0) false 1 d, s.hazard j3 true r.1 r.2 = false)) ∧
    s.coreRead j3 64 64 = .bytes (zeroBytes 64) [] ∧ (k.rs f.b).toNat = 64 ∧ env.2 = k.store ∧
    (vspoutSteps j3 env.1 1 96 1 0 0 k).2 = none ∧ (k.rs f.a).toNat = 96 := by
  have hs : ((rill (sets [(2, 96), (3, 64)])).core j3).store = [] := by decide +kernel
  refine ⟨ready_of (by decide +kernel), by decide +kernel, ?_, by decide +kernel, by decide +kernel, ?_, by decide +kernel⟩
  · exact coreRead_nil _ 3 64 64 hs (by decide +kernel) (by decide)
  · exact vspoutSteps_nil 3 _ 96 _ hs (by decide +kernel) (by decide +kernel) (by decide +kernel) (by decide +kernel)

/-- The running module in a phase. -/
def phase (p : Byte) : State := { up with record := { up.record with phase := p } }

theorem witness_LaneWritesNeedTheirPhase : (phase 0).record.phase = 0 ∧ (191 : Fin 192).val < 192 ∧ (63 : Fin 192).val < 64 ∧
    (phase 7).record.phase = 7 ∧ (phase 7).record.phase ≠ 0 ∧ (phase 1).record.phase ≠ 0 ∧ (phase 1).record.phase ≠ 7 := by
  decide +kernel

/-! ## Matrix arrays and the tile sentinel -/

/-- The running module with array 7 of jet 3 changed. -/
def arr7 (f : Arr → Arr) : State := up.modArr 3 7 f

theorem witness_QueueHeadStartsHoldsOrFaults :
    let q (p : PassDesc) (t : Tile) : State := arr7 fun a => { a with queue := [p], tileA := t }
    let fits (p : PassDesc) (t : Tile) : Bool :=
      let s := q p t
      let a := s.arr 3 7
      (a.queue == [p]) && !p.quad && p.mode != 3 && s.keeper.aclkOn && a.running.isNone && !a.served 7 && !s.sentinelOn 3 7 &&
        Mem.wf (s.jet 3).core.store && !((s.jet 3).spoutDesc p.spout).any SpoutDesc.lockstep && (a.tile p.tile == t)
    fits pass5 {} = true ∧ pass5.first = true ∧ fits { pass5 with first := false } { state := .filling, chain := 5 } = true ∧
    fits pass5 { state := .filling, chain := 6 } = true ∧ fits pass5 { state := .draining, chain := 5 } = true ∧
    fits { pass5 with first := false } {} = true ∧ fits pass5 { state := .filling, chain := 5 } = true := by decide +kernel

theorem witness_ShadowLoadAndSwapExchangeBanks :
    let p1 : PassDesc := { pass5 with stat := 1 }
    let p2 : PassDesc := { pass5 with stat := 2 }
    let run (p : PassDesc) (sh : Nat) : State := arr7 fun a => { a with running := some ⟨p, [], [], false, false⟩, shadow := sh }
    (let s := arr7 fun a => { a with queue := [p1] }
     let a := s.arr 3 7
     a.running = none ∧ a.queue = [p1] ∧ p1.quad = false ∧ p1.stat = 1 ∧ a.shadow = 0 ∧ s.keeper.aclkOn = true ∧
      s.sentinelOn 3 7 = false ∧ a.served 7 = false ∧ (s.jet 3).gate s.logicalArrays 7 p1 ≠ .fault ∧ Mem.wf (s.jet 3).core.store = true) ∧
    (∀ sh < 3, ((run p1 sh).arr 3 7).running = some ⟨p1, [], [], false, false⟩ ∧ ((run p1 sh).arr 3 7).shadow = sh ∧
      ((run p1 sh).arr 3 7).served 7 = false) ∧
    ((run p2 0).arr 3 7).running = some ⟨p2, [], [], false, false⟩ ∧ p2.stat = 2 ∧ p2.quad = false ∧ ((run p2 0).arr 3 7).shadow ≠ 1 := by
  decide +kernel

theorem witness_IntPassAddsItsProducts :
    let p : PassDesc := { pass5 with last := false, segEnd := false, rows := 64 }
    let r : PassRun := ⟨p, [[(255, true)]], [], false, false⟩
    let a := (arr7 fun a => { a with running := some r }).arr 3 7
    a.running = some r ∧ p.mode = 0 ∧ p.quad = false ∧ p.stat = 0 ∧ p.blockEnd = true ∧ p.segEnd = false ∧ p.last = false ∧
    r.fault = false ∧ 63 < p.rows ∧ 15 < 16 := by decide +kernel

/-- Jet store whose first byte is 0xFF: its spout descriptor 0 asks for RAW. -/
def rawSpout (t : Tile) : State :=
  (rill fun k => { k with store := storeBytes [] 0 [0xFF] }).modArr 3 7 fun a => { a with tileA := t }

theorem witness_RawDrainStoresTheRowRecords :
    let t : Tile := { state := .drainWait, rows := 64 }
    let s := rawSpout t
    let x := s.jet 3
    let d : SpoutDesc := parseSpout (0xFF :: zeroBytes 63)
    (s.arr 3 7).tile .a = t ∧ t.quad = false ∧ t.mode ≤ 2 ∧ s.keeper.aclkOn = true ∧ x.spoutDesc t.spout = some d ∧ d.dest = 0xFF ∧
    (s.arr 3 7).tileA.state ≠ .draining ∧ (s.arr 3 7).tileB.state ≠ .draining ∧ (s.arr 3 7).inQuad = false ∧
    d.outElem.toNat + t.rows * recBytes t.mode ≤ 0x1400000 ∧ x.core.code = (0, 0) ∧ Mem.wf x.core.store = true ∧
    (byteAt x.core.store (d.outElem.toNat + 63 * recBytes t.mode + (recBytes t.mode - 1))).isSome = true := by decide +kernel

theorem witness_DrainedTileClearsAndReleases :
    ((rawSpout { state := .draining }).arr 3 7).tile .a = { state := .draining } ∧ ({ state := .draining } : Tile).quad = false ∧
    ({ state := .draining } : Tile).mode ≠ 3 ∧ ((rawSpout {}).arr 3 7).tileA.state ≠ .draining := by decide +kernel

/-- The running module with the sentinel of die 3 changed. -/
def snt (f : Sentinel → Sentinel) : State := up.modBasin 3 fun b => { b with snt := f b.snt }
/-- A sample of jet 159, array 7: no pass and no output, or one output of value 1 in a class 4 chain. -/
def sampleOf (outs : List (List (Option Rat))) : Sample :=
  ⟨159, 7, .b, 5, 4, 0, false, 9, [], outs, [], [], 0, 0, true⟩

theorem witness_TileSentinelSamplesRunsAndReleases :
    let on (v : Option Sample) (s : State) : Bool := (s.basins.get 3).snt.sample == v
    let due := some ((159 : Fin 160).val, 7, TileId.b, 5)
    let s1 := snt fun x => { x with due := due }
    let s2 := snt fun x => { x with due := due, sample := some (sampleOf []) }
    let s3 := snt fun x => { x with sample := some (sampleOf []) }
    let s4 := snt fun x => { x with sample := some (sampleOf []), runsOn := some (159, 7, {}, {}) }
    let s5 := s4.modArr 159 7 fun a => { a with queue := [pass5] }
    ((s1.basins.get 3).snt.due = due ∧ on none s1 = true) ∧ ((s2.basins.get 3).snt.due = due ∧ on (some (sampleOf [])) s2 = true) ∧
    (let a := s3.arr 159 7
     on (some (sampleOf [])) s3 = true ∧ (sampleOf []).drained = true ∧ (s3.basins.get 3).snt.runsOn = none ∧ s3.keeper.aclkOn = true ∧
      (s3.jet 159).enabled 7 = true ∧ a.queue = [] ∧ a.running = none ∧ a.inQuad = false ∧ a.shadow = 0 ∧ a.tileA.state = .idle ∧
      a.tileB.state = .idle) ∧
    ((s5.basins.get 3).snt.runsOn = some (159, 7, {}, {}) ∧ (s5.arr 159 7).queue ≠ [] ∧ s5.sentinelWanted 3 = true) ∧
    ((s4.basins.get 3).snt.runsOn = some (159, 7, {}, {}) ∧ on (some (sampleOf [])) s4 = true ∧ (sampleOf []).diff.1 = some 0 ∧
      (0 : Rat) ≤ 1 / (2 : Rat) ^ (s4.basins.get 3).snt.threshold (sampleOf []).cls) :=
  ⟨by decide +kernel, by decide +kernel, by decide +kernel, by decide +kernel, by decide +kernel⟩

theorem witness_SentinelDisagreementIsLogged :
    let v := sampleOf [[some 1]]
    let s (limit : Byte) := snt fun x => { x with sample := some v, runsOn := some (159, 7, {}, {}), eventLimit := limit }
    ((s 1).basins.get 3).snt.runsOn = some (159, 7, {}, {}) ∧ ((s 1).basins.get 3).snt.sample = some v ∧ v.diff.1 = none ∧
    ((s 0).basins.get 3).snt.eventLimit = 0 ∧ ((s 1).basins.get 3).snt.eventLimit ≠ 0 ∧
    (1 : Nat) = ((s 1).basins.get 3).snt.eventLimit.toNat ∧ (1 : Nat) ≠ ((s 2).basins.get 3).snt.eventLimit.toNat ∧
    ((s 1).basins.get 3).snt.inStep.2 = 0 := by decide +kernel

/-! ## Programs, the mover and the memory tiers -/

/-- A node of phase 1 with a predecessor of phase 0, and that predecessor. -/
def node2 : GraphNode := ⟨2, .update [], 0, 1, [1], [], false⟩
def node1 : GraphNode := ⟨1, .update [], 0, 0, [], [], false⟩
/-- An image: two nodes, two shards, one parameter group for shard records. -/
def img : Image :=
  { length := 0, buildId := 0, name := [], magic := 0, formatVer := 0, headerBytes := 0, imageBytes := 0, dirOffset := 0, hash := zeroBytes 32, hashOk := true, sections := []
    reqs := [], tensors := [], nodes := [node1, node2], vectorBits := 0, handlerIndex := 0, kernels := [(0, 0)], code := [], scratch := 0
    tags := [], spouts := [], recompute := [], windows := [], groups := [⟨0, 0, 0, 0, 0, 0, false, 0, 0⟩, ⟨0, 0, 0, 0, 0, 0, true, 0, 0⟩]
    shards := [2, 2], policy := ⟨100, 8, 2, 50, 2, 0⟩ }
/-- A job in a phase of its step. -/
def job (p : Byte) (f : Job → Job) : State :=
  { phase p with job := f { up.job with image := some img, running := true } }

theorem witness_GraphNodeStartsAfterItsPredecessors :
    let s := job 1 id
    let s' := job 1 fun j => { j with started := [2] }
    let s0 := job 1 fun j => { j with image := some { img with nodes := [{ node1 with phase := 1 }, node2] } }
    let plan : Image := { img with nodes := [{ node1 with phase := 1 }], recompute := [⟨0, [1]⟩] }
    let s5 := job 5 fun j => { j with image := some plan }
    let nk : GraphNode := { node1 with kind := .kernel 0 [] [] [159] false false }
    let sk := job 0 fun j => { j with image := some { img with nodes := [nk] } }
    s.job.image = some img ∧ img.nodes.find? (·.id == node2.id) = some node2 ∧ s.job.running = true ∧ s.record.phase.toNat = node2.phase ∧
    node2.id ∉ s.job.started ∧ (∀ p ∈ node2.preds, img.nodes.find? (·.id == p) = some node1 ∧ node1.phase < node2.phase) ∧
    node2.id ∈ s'.job.started ∧ s0.job.image = some { img with nodes := [{ node1 with phase := 1 }, node2] } ∧
    1 ∈ node2.preds ∧ 1 ∉ s0.job.finished ∧ node2.phase ≤ ({ node1 with phase := 1 } : GraphNode).phase ∧
    (s5.job.image = some plan ∧ s5.record.phase.toNat = 5 ∧ s5.rerunReady plan { node1 with phase := 1 } = true) ∧
    (sk.job.image = some { img with nodes := [nk] } ∧ sk.job.running = true ∧ nk.kind = .kernel 0 [] [] [159] false false ∧
      (159 : Fin 160).val ∈ [159] ∧ (158 : Fin 160).val ∉ [159]) := by decide +kernel

/-- A mover descriptor of one word of fast memory into the last word of jet store. -/
def word1 : MvDesc := ⟨0, 0x13FFFE0, 32, 1, 32, 32, 5, 0, false, false, true, true, 0, 0, 0, 0⟩

theorem witness_MoverMovesAWordOrFaults :
    let s (d : MvDesc) := up.modJet 3 fun x => { x with mvQueue := [d] }
    let bad : MvDesc := { word1 with rows := 0 }
    (∀ d ∈ [word1, bad], ((s d).jet 3).mvQueue = [d] ∧ (s d).keeper.rails = true ∧ (s d).keeper.step = 11 ∧ (s d).keeper.powerState = 0 ∧
      d.host = false ∧ ((s d).jet 3).mvActive = [] ∧ (s d).cxl.filter = [] ∧ (s d).cxl.snoops = [] ∧
      Mem.wf ((s d).jet 3).core.store = true) ∧
    (s word1).mvValid 3 word1 = true ∧ word1.transpose = 0 ∧ word1.conv = false ∧ word1.rows = 1 ∧ word1.rowBytes = 32 ∧
    word1.dstJs = true ∧ word1.src < 2 ^ 41 ∧ (s word1).canon word1.src = some word1.src ∧ (s word1).deadGranule word1.src = false ∧
    checkWord (List.replicate 36 0) = .clean (zeroBytes 32) ∧ (zeroBytes 32).length = 32 ∧ (s word1).tiers = [] ∧
    (s bad).mvValid 3 bad = false := by decide +kernel

/-- A descriptor that moves between jet store and a host window. -/
def hostMove : MvDesc := { word1 with src := hostBase }

theorem witness_MoverDescriptorsCompleteOrTimeOut :
    let s := up.modJet 3 fun x => { x with mvActive := [hostMove] }
    let linked : State := { s with cxl := { s.cxl with rate := 4, enabled := true } }
    let held := up.modJet 3 fun x => { x with mvQueue := [hostMove], mvHeld := [5] }
    hostMove.tag = (5 : W16).toNat ∧ hostMove.host = true ∧ ((s.jet 3).mvActive = [hostMove] ∧ s.cxl.rate = 0) ∧
    ((linked.jet 3).mvActive = [hostMove] ∧ linked.cxl.enabled = true ∧ linked.cxl.rate ≠ 0) ∧
    ((held.jet 3).mvQueue = [hostMove] ∧ (5 : W16).toNat ∈ (held.jet 3).mvHeld ∧ (held.jet 3).mvActive = [] ∧ held.cxl.rate = 0) := by
  decide +kernel

theorem witness_ScrubReadCorrectsAndCounts :
    let u : MemUnit := .channel 3 255
    let e1 : List Byte := zeroBytes 35 ++ [1]
    let c := (up.unitAddr u (0x3FFFFFF / 32 * 32)).getD 0
    up.unitAddr u (0x3FFFFFF / 32 * 32) = some c ∧ up.unitAt c = u ∧ up.scrubOn u = true ∧ (up.canon c).isSome ∧ up.deadGranule c = false ∧ 0x3FFFFFF < 2 ^ 31 ∧ Mem.wf up.tiers = true ∧ up.tiers = [] ∧
    (zeroBytes 32).length = 32 ∧ List.replicate 36 0 = encodeWord (zeroBytes 32) ∧ e1.length = 36 ∧ (zeroBytes 36).length = 36 ∧
    (∀ b ∈ zeroBytes 36, b = 0) ∧ (e1.getD 35 0 ≠ 0 ∧ ∀ k < 36, k ≠ 35 → e1.getD k 0 = 0) := by decide +kernel

/-- The running module with a channel changed. -/
def chan (x : UnitSt) : State := up.modUnit (.channel 3 255) fun _ => x

theorem witness_ScrubLimitsAskForMapOut :
    let l := (up.cisterns.get 31).limits
    let at1 : UnitSt := { passCe := bits l 15 0, passUe := bits l 31 24, hardAt := List.replicate (bits l 23 16) 0 }
    let past : UnitSt := { at1 with passCe := bits l 15 0 + 1 }
    (chan at1).unitSt (.channel 3 255) = at1 ∧ ((chan at1).cisterns.get 31).limits = l ∧ (31 : Nat) = 8 * 3 + 255 / 32 ∧
    (chan past).unitSt (.channel 3 255) = past ∧ past.state = 0 ∧ (chan past).job.image = none ∧ (chan past).mayMapOut (.domain 3) = true ∧
    ((chan past).region (.domain 3)).state = 0 ∧ ((chan past).region (.domain 3)).withdrawn < 32 ∧ (chan past).job.running = false ∧
    (chan past).record.phase = 0 := by decide +kernel

theorem witness_MapOutWithdrawsAndRelocates :
    let s1 := (chan { state := 1 }).modRegion (.domain 3) fun m => { m with queue := [(255, 4)], withdrawn := 31 }
    let s2 := (chan { state := 2 }).modRegion (.domain 3) fun m => { m with state := 1, unit := 255, outs := [255] }
    let s3 := chan { spares := [(Config.bankOf 64, 1)], hardAt := [64] }
    ((s1.region (.domain 3)).queue = [((255 : Fin 256).val, 4)] ∧ (s1.region (.domain 3)).state = 0 ∧
      (s1.region (.domain 3)).withdrawn < 32 ∧ (s1.unitSt (.channel 3 255)).state = 1 ∧ s1.mayMapOut (.domain 3) = true) ∧
    (let m := s2.region (.domain 3)
     s2.keeper.rails = true ∧ s2.keeper.powerState ≤ 1 ∧ m.state = 1 ∧ 4095 % 256 ∈ m.outs ∧ 4095 < 4096 ∧
      0 < s2.groupsOf (.domain 3) ∧ (4095, 0) ∉ m.moved ∧ m.moved.length + 1 < 16 * m.outs.length * s2.groupsOf (.domain 3) ∧
      s2.deadGranule (granuleAddr (.domain 3) 4095 0) = false) ∧
    (s3.record.phase = 0 ∧ (s3.unitSt (.channel 3 255)).spares = [(Config.bankOf 64, 1)] ∧ (s3.unitSt (.channel 3 255)).hardAt = [64]) ∧
    ∀ q r : Nat, Tbl.get 0 [(q, 1)] q = 1 ∧ (q == q && r == r) = true :=
  ⟨by decide +kernel, by decide +kernel, ⟨by decide +kernel, rfl, rfl⟩, fun q r => by simp [Tbl.get]⟩

theorem witness_StackTemperatureSetsRefresh : (-640 : Int) ≤ -640 ∧ (2400 : Int) ≤ 2400 ∧ (-641 : Int) < -640 ∧ (2400 : Int) < 2401 := by decide

/-! ## The parameter update and step survival -/

/-- The server of mailbox 7 at work on a command: opcode, arguments, input. -/
def box (s : State) (op : W16) (args : List W64) (buf : List Byte) : State :=
  s.modBox 7 fun b => { b with state := 2, lOpcode := op, lArgs := Vector.ofFn fun k => args.getD k.val 0, lLen := buf.length, buf := buf }
theorem serving_of {s : State} {op : Nat} (h : (s.inHand 7 op && (s.cmdCheck (s.boxes.get 7)).isNone) = true) : s.serving 7 op := by
  rw [Bool.and_eq_true] at h
  exact ⟨h.1, Option.isNone_iff_eq_none.mp h.2⟩

/-- The image with 16 records in a shard. -/
def img16 : Image := { img with shards := [16384, 16384] }
/-- The same with its one group frozen. -/
def frozen16 : Image := { img16 with groups := [⟨0, 0, 0, 0, 0, 0, true, 0, 0⟩] }
/-- UPDATE with the dispatchers of half 0 at work. -/
def upd (i : Image) (f : Runnel → Runnel) : State :=
  (job 8 fun j => { j with image := some i }).modRunnel 0 fun x => f { x with state := 1 }

/-- Is the word at a device address mapped, and its units in service? -/
def usable (s : State) (a : Nat) : Bool :=
  (s.canon a).any fun c => !s.deadGranule c && match regionAt c with
    | .half r => (s.region (.half r)).deadCheck.isEmpty
    | _ => true
theorem tierRead_empty {s : State} {c : Nat} (h0 : s.tiers = []) (hd : s.deadGranule c = false)
    (hc : (match regionAt c with | .half r => (s.region (.half r)).deadCheck.isEmpty | _ => true) = true) :
    s.tierRead c = (some (zeroBytes 32), none, s) := by
  have hr : rawWord ([] : Mem) (c / 32) = zeroBytes 36 := by
    rfl
  have hk : s.tierCheck c (s.tierRaw c) = .clean (zeroBytes 32) := by
    have hz : checkWord (zeroBytes 36) = .clean (zeroBytes 32) := by decide +kernel
    unfold State.tierRaw State.tierCheck
    rw [h0, hd, if_neg (by decide), hr]
    split
    · exact hz
    · next r heq =>
      rw [heq] at hc
      rw [List.isEmpty_iff.mp hc]
      exact hz
  simp only [State.tierRead, hk]
/-- Words of empty tiers read as zeros and change nothing. -/
theorem readWords_empty {s : State} (h0 : s.tiers = []) (n a : Nat) (h : ∀ k < n, usable s (a + 32 * k) = true) :
    s.readWords n a = (List.replicate n (some (zeroBytes 32)), s) := by
  induction n generalizing a with
  | zero => rfl
  | succ n ih =>
    have h1 := h 0 (by omega)
    unfold usable at h1
    cases hc : s.canon a with
    | none => rw [Nat.mul_zero, Nat.add_zero, hc] at h1; cases h1
    | some c =>
      rw [Nat.mul_zero, Nat.add_zero, hc, Option.any_some, Bool.and_eq_true, Bool.not_eq_true'] at h1
      have hi := ih (a + 32) fun k hk => by rw [Nat.add_assoc, Nat.add_comm 32, ← Nat.mul_succ]; exact h (k + 1) (by omega)
      simp only [State.readWords, hc, tierRead_empty h0 h1.1 h1.2, hi, List.replicate_succ]
theorem wordsGood_replicate (n : Nat) (w : List Byte) : wordsGood (List.replicate n (some w)) = true := by
  unfold wordsGood
  rw [List.all_eq_true]
  intro x hx
  rw [List.eq_of_mem_replicate hx]
  rfl

theorem witness_DispatcherStagesOrSkipsRecords :
    ∀ held : Bool, ∀ i ∈ [img16, frozen16],
      let s := upd i id
      let w := upd i fun x => { x with staged := [(15, ⟨false, held, 15, 15, 0, false⟩)] }
      let x := s.runnels.get 0
      let rank := if held then s.predecessor else s.coll.rank
      let idx := if held then 31 else 15
      (s.job.image = some i ∧ s.inPhase 8 = true ∧ x.state = 1 ∧ x.ahead.has 15 = false ∧ x.staged.has 15 = false ∧
        x.nextNo held 15 = 15 ∧ (i.bank rank 0)[15]? = some idx ∧ Mem.wf (x.cores.get 15).store = true ∧
        i.frozen (i.recordGroup idx) = decide (i = frozen16) ∧
        w.job.image = some i ∧ w.inPhase 8 = true ∧ (w.runnels.get 0).state = 1 ∧ (w.runnels.get 0).ahead.has 15 = false ∧
        (w.runnels.get 0).nextNo held 15 = 15 ∧ (w.runnels.get 0).staged.has 15 = true ∧
        ((w.runnels.get 0).cores.get 15).halted = false) ∧
      s.readRecord i held s.record.slot idx = (List.replicate 194 (some (zeroBytes 32)), s) ∧
      wordsGood (List.replicate 194 (some (zeroBytes 32))) = true ∧ wordsGood (s.gradOf i held idx []).1 = true := by
  intro held i hi
  refine ⟨?_, ?_, wordsGood_replicate _ _, ?_⟩
  · revert held i
    decide +kernel
  · refine readWords_empty rfl _ _ ?_
    revert held i
    decide +kernel
  · cases held
    · revert i
      decide +kernel
    · unfold State.gradOf
      rw [if_pos rfl, readWords_empty rfl _ _ (by revert i; decide +kernel)]
      exact wordsGood_replicate _ _

theorem wordData_empty (w : Nat) : wordData [] w = some (zeroBytes 32) :=
  wordData_of_check [] w _ (show checkWord (zeroBytes 36) = _ by decide +kernel)

theorem witness_WriteBackAndPassEndPublishTheDigest :
    let st : Staged := ⟨false, false, 15, 15, 0, true⟩
    let s := upd img16 fun x => { x with staged := [(15, st)], cores := x.cores.set 15 { x.cores.get 15 with staged := some true } }
    let x := s.runnels.get 0
    let t : State := { job 8 id with runnels := Vector.replicate 2 { (job 8 id).runnels.get 0 with state := 1, ownDone := true, heldDone := true } }
    (s.inPhase 8 = true ∧ s.job.image = some img16 ∧ x.staged.has 15 = true ∧ x.staged.get ⟨false, false, 0, 0, 0, false⟩ 15 = st ∧
      st.halted = true ∧ st.held = false ∧ x.ahead.has 15 = false ∧ (x.cores.get 15).store = []) ∧
    (∀ w < 194, (wordData [] (stageBase st.set / 32 + w)).isSome = true) ∧
    (t.inPhase 8 = true ∧ ∀ q : Fin 2, (t.runnels.get q).state = 1 ∧ (t.runnels.get q).ownDone = true ∧ (t.runnels.get q).heldDone = true) :=
  ⟨by decide +kernel, fun w _ => by rw [wordData_empty]; rfl, by decide +kernel⟩

theorem witness_TierWordsReadBack :
    let i := { img with shards := List.replicate 24 1024 }
    let s := job 10 fun j => { j with image := some i }
    let p := s.parityAddr i (4096 + 32)
    (s.canon 0x2000 = some 0x2000 ∧ 0x2000 % 32 = 0 ∧ s.deadGranule 0x2000 = false ∧ s.canon 0x4000 = some 0x4000) ∧
    Mem.wf s.tiers = true ∧ (s.canon p = some p ∧ p % 32 = 0 ∧ s.deadGranule p = false) ∧
    s.readWords 1 p = ([some (zeroBytes 32)], s) :=
  ⟨by decide +kernel, by decide +kernel, by decide +kernel, readWords_empty rfl 1 _ (by decide +kernel)⟩

/-- A reservoir entry of a rank and step. -/
def entryOf (rank : Nat) (step : W64) : ResEntry :=
  ⟨step, rank, 0, 16, 0, zeroBytes 32, 0, ⟨step, false, false, 1, 2, [0], [], []⟩, [], [], [], [], [], true⟩

theorem witness_ReservoirEntriesAreCheckedAndAcknowledged :
    let s := job 7 fun j => { j with image := some img16, predComplete := true, outgoing := some (entryOf 0 0) }
    let good (e : ResEntry) : Prop := e.globalStep = s.record.globalStep ∧ e.sourceRank = s.predecessor ∧ e.epoch = s.record.epoch ∧
      e.imageHash = img16.hash ∧ e.gradRecords = (img16.shardRecords s.predecessor).length ∧ e.wordsOk = true
    s.job.running = true ∧ s.job.image = some img16 ∧ good (entryOf 1 0) ∧ ¬good (entryOf 1 1) ∧
    ¬good { entryOf 1 0 with wordsOk := false } ∧ s.job.outgoing.isSome ∧ s.record.phase = 7 ∧ s.job.predComplete = true := by
  decide +kernel

/-- Step 0 in COMMIT with the vote's result held for a key, for the pair of rank 5, and the firmware at work or not. -/
def voted (key : Nat) (m : Option Nat) (serves : Bool) : State :=
  let s := job 9 fun j => { j with mismatch := m }
  { s with coll := { s.coll with finished := [16 * collVote], outputs := [(16 * collVote, [(0, .winners [(key, 5 * 2 ^ 32)])])] }
           record := { s.record with held := true }, keeper := { s.keeper with fwRestart := !serves } }

theorem witness_VotesCommitWaitOrRevert :
    ∀ p ∈ [(voteCode 1, (1 : Nat)), (voteCode 3, 2), (voteCode 2, 3)], ∀ m ∈ [none, some 5], ∀ f : Bool,
      let s := voted p.1 m f
      s.job.running = true ∧ s.record.phase = 9 ∧ s.job.vote = none ∧ s.record.held = true ∧ s.record.done 9 = false ∧
      s.fwServes = f ∧ s.voteHeld = some (p.2, 5) ∧ s.job.mismatch = m ∧ s.job.haltAt ≠ some s.record.globalStep := by decide +kernel

theorem witness_StepAbortRevertsToVersionV :
    ∀ p ∈ [(1 : Byte), 9], ∀ f : Bool, let s : State := { job p id with keeper := { (job p id).keeper with fwRestart := !f } }
      s.inStep = true ∧ s.fwServes = f ∧ 1 ∉ s.job.joined ∧ s.job.haltAt ≠ some s.record.globalStep ∧ (1 : W64) ≠ s.record.globalStep := by
  decide +kernel

theorem witness_SecuringPauseRunsItsStages :
    let i : Image := { img with shards := List.replicate 24 1024 }
    let at10 (f : Job → Job) : State := job 10 fun j => f { j with image := some i }
    let s1 : State :=
      let s := job 9 fun j => { j with image := some i, sincePause := 100 }
      { s with record := { s.record with doneMask := 0x200, result := 1 } }
    let s2 (l : List Nat) := at10 fun j => { j with pause := 1, parity := { j.parity with lastFrom := l }, completeFrom := [] }
    let s3 := at10 fun j => { j with pause := 1, completeFrom := [0, 1, 2, 3, 4, 5, 6, 7], copyWritten := true }
    let s4 := at10 fun j => { j with pause := 2 }
    (s1.job.running = true ∧ s1.job.image = some i ∧ s1.fwServes = true ∧ s1.committed = true ∧ s1.pauseDue = true ∧
      s1.job.decided = none ∧ s1.job.nextKG = none ∧ s1.job.haltAt ≠ some s1.record.globalStep) ∧
    (∀ l ∈ [[0, 1, 2, 3, 4, 5, 6], []], (s2 l).job.running = true ∧ (s2 l).job.image = some i ∧ (s2 l).record.phase = 0x0A ∧
      (s2 l).job.pause = 1 ∧ (s2 l).job.rebuild = none ∧ (s2 l).job.parity.complete = false ∧ 7 < (s2 l).job.policy.g ∧
      7 ∉ (s2 l).job.parity.lastFrom ∧ 7 ∉ (s2 l).job.completeFrom ∧
      ((7 :: (s2 l).job.parity.lastFrom).length = (s2 l).job.policy.g ↔ l ≠ [])) ∧
    (s3.job.running = true ∧ s3.job.image = some i ∧ s3.record.phase = 0x0A ∧ s3.job.pause = 1 ∧
      s3.job.completeFrom.length = s3.job.policy.g ∧ s3.job.copyWritten = true) ∧
    (s4.job.running = true ∧ s4.job.image = some i ∧ s4.record.phase = 0x0A ∧ s4.job.pause = 2 ∧ s4.fwServes = true ∧
      s4.job.repair = []) := by decide +kernel

theorem witness_SparesJoinFillAndVerify :
    let loaded (f : Job → Job) : State := { up with job := f { up.job with image := some img } }
    let s1 := box (loaded id) 0x0017 [1, 7] (zeroBytes 32)
    let s2 (failed : Bool) : State :=
      let s := loaded fun j => { j with spare := 2, spareRank := some (1, 7), fillFailed := failed }
      { s with coll := { s.coll with rank := 1, table := some ⟨0, 0, [(0, 0), (1, 0)]⟩ } }
    (s1.job.image = some img ∧ s1.serving 7 0x0017 ∧ s1.job.spareRank = none ∧ s1.job.spare = 0 ∧ ((s1.boxes.get 7).lArgs.get 0).toNat = 1 ∧
      1 < img.shards.length ∧ s1.spareCheck img 1 = none) ∧
    (∀ failed : Bool, (s2 failed).job.image = some img ∧ (s2 failed).job.spare = 2 ∧ (s2 failed).job.spareRank = some (1, 7) ∧
      (s2 failed).actives.contains (s2 failed).partnerRank = true ∧ (s2 failed).hasTerrace = false ∧ (s2 failed).job.fillFailed = failed) :=
  ⟨⟨by decide +kernel, serving_of (by decide +kernel), by decide +kernel, by decide +kernel, by decide +kernel, by decide +kernel,
    by decide +kernel⟩, by decide +kernel⟩

/-! ## The fabric -/

/-- The running module with port 5 UP and changed. -/
def port5 (f : Port → Port) : State := up.modPort 5 fun x => f { x with state := 2 }

theorem witness_FramesGoOutInOrder :
    let s1 := port5 fun x => { x with retry := [(1, []), (2, [])], resend := 2 }
    let s2 := port5 fun x => { x with txStream := zeroBytes 120, nak := true }
    let s3 := port5 fun x => { x with txStream := zeroBytes 119 }
    let ok (s : State) (n : Nat) : Prop := (s.weir.ports.get 5).state = 2 ∧ (s.weir.ports.get 5).resend = n ∧
      (s.weir.ports.get 5).unlocked = false
    ((up.modPort 5 fun x => { x with state := 1 }).weir.ports.get 5).state = 1 ∧
    (ok s1 2 ∧ (s1.weir.ports.get 5).retry[(s1.weir.ports.get 5).retry.length - 2]? = some (1, [])) ∧
    (ok s2 0 ∧ (s2.weir.ports.get 5).retry.length < 2048 ∧ 120 ≤ (s2.weir.ports.get 5).txStream.length) ∧
    (ok s3 0 ∧ (s3.weir.ports.get 5).txStream.length < 120) := by decide +kernel

theorem witness_FramesAreTakenInSequence :
    let s := port5 fun x => { x with rxSeq := 0xFFF }
    let bad : List Byte := 1 :: zeroBytes 7
    (s.weir.ports.get 5).state = 2 ∧ bad.length = 8 ∧ hcrc (bad.take 6) ≠ leNat (bad.drop 6) ∧ (s.weir.ports.get 5).retry = [] ∧
    (0 : BitVec 12) = (s.weir.ports.get 5).rxSeq + 1 ∧ (zeroBytes 120).length = 120 ∧ (1 : BitVec 12) ≠ (s.weir.ports.get 5).rxSeq + 1 := by
  decide +kernel

theorem witness_RetriesResendThenTakeTheLinkDown :
    let s (n : Nat) := port5 fun x => { x with retry := [(0xFFF, []), (0, []), (1, [])], retries := n }
    (∀ n ∈ [6, 7], ((s n).weir.ports.get 5).state = 2 ∧ ((s n).weir.ports.get 5).retry ≠ [] ∧ ((s n).weir.ports.get 5).retries = n) ∧
    ((s 6).weir.ports.get 5).retry = [(0xFFF, []), (0, [])] ++ [(1, [])] ∧ ([(0xFFF, []), (0, [])] : List (BitVec 12 × List Byte)) ≠ [] ∧
    ((0 : BitVec 12) - 0xFFF).toNat < 2048 ∧ ((0 : BitVec 12) - 0).toNat < 2048 ∧ 2048 ≤ ((0 : BitVec 12) - 1).toNat ∧
    ((port5 id).weir.ports.get 5).state = 2 ∧ ((port5 id).weir.ports.get 5).retry = [] := by decide +kernel

theorem witness_LockLossTakesTheLinkDown :
    let s (l : BitVec 2) (m : W16) := port5 fun x => { x with laneSet := l, lostLanes := m }
    (∀ l : BitVec 2, ((s l 0).weir.ports.get 5).state = 2) ∧ ((s 1 0).weir.ports.get 5).laneUsed 7 = true ∧
    ((s 1 0).weir.ports.get 5).laneUsed 8 = false ∧ ((s 2 0).weir.ports.get 5).laneUsed 8 = true ∧
    ((s 2 0).weir.ports.get 5).laneUsed 7 = false ∧ ((s 0 0x8000).weir.ports.get 5).state = 2 ∧
    ((s 0 0x8000).weir.ports.get 5).unlocked = true ∧ ((s 0 0).weir.ports.get 5).unlocked = false := by decide +kernel

theorem witness_TrainingBringsPortsUpOrRefuses :
    let s (st : BitVec 3) (cl : BitVec 3) : State :=
      let s := port5 fun x => { x with state := st }
      { s with keeper := { s.keeper with closed := cl } }
    let lanes (r : TrainReport) : Option (BitVec 2) := if r.lanes = 0xFFFF then some 0 else if r.lanes.extractLsb' 0 8 = 0xFF then some 1
      else if r.lanes.extractLsb' 8 8 = 0xFF then some 2 else none
    ((s 0 3).weir.ports.get 5).state = 0 ∧ (s 0 3).keeper.closed.getLsbD (5 / 2) = false ∧ ((s 4 0).weir.ports.get 5).state = 4 ∧
    (s 0 4).keeper.closed.getLsbD (5 / 2) = true ∧ ((s 1 0).weir.ports.get 5).state = 1 ∧ lanes ⟨0x7FFE, 0, 4, 0, true⟩ = none ∧
    (lanes ⟨0xFF7F, 0, 4, 0, false⟩ = some 2 ∧ lanes ⟨0xFEFF, 0, 4, 0, true⟩ = some 1) ∧ (otherPort 5).val = 4 ∧ (5 : Nat) ≠ (otherPort 5).val ∧
    600 < 601 ∧ 600 ≤ 600 := by decide +kernel

theorem witness_BypassSwitchesSetPortStates :
    let s (n : Nat) (e c : BitVec 3) : State :=
      { up with keeper := { up.keeper with step := n, energised := e, closed := c, uptime := 5000000 } }
    (∀ p ∈ [((0 : Fin 3), (0 : BitVec 3)), (2, 3)], (s 7 p.2 7).keeper.step = 7 ∧ (s 7 p.2 7).keeper.rails = true ∧
      (∀ e < 3, p.1.val ≤ e → (s 7 p.2 7).keeper.energised.getLsbD e = false) ∧ (s 7 p.2 7).mayOpen p.1 = true) ∧
    (s 11 3 4).keeper.energised.getLsbD 2 = false ∧ (s 11 7 0).keeper.energised.getLsbD 2 = true := by
  decide +kernel

/-- A packet to module 0 of a class and payload. -/
def pkt (op : Byte) (cls : BitVec 2) (payload : List (List Byte)) : Packet :=
  ⟨0, 1, op, cls, 0, 0, 0, 0, 0, false, false, false, 0, payload⟩

theorem witness_OutputsSendByClass :
    let q3 : Queued := ⟨pkt 4 3 [], none, 6⟩
    let q0 : Queued := ⟨pkt 2 0 (List.replicate 64 (zeroBytes 36)), none, 0⟩
    let s (q : Queued) := port5 fun x => { x with outQ := [q] }
    let t (q : Queued) := (s q).inject
    let x (q : Queued) := (t q).weir.ports.get 5
    let m : State := { up with outbox := [.packet 5 "ECHO" [1, 0]] }
    let k := up.form 5 4 3 0 0 (BitVec.ofNat 64 1) []
    (∀ q ∈ [q3, q0], (s q).keeper.rails = true ∧ (x q).state = 2 ∧ (s q).weir.taken = (s q).outbox.length ∧ (s q).weir.injQ = []) ∧
    (x q3).head (s q3).uptime 3 = some q3 ∧ (x q0).head (s q0).uptime 3 = none ∧
    (x q0).head (s q0).uptime (x q0).turn = some q0 ∧ q0.pkt.words = 65 ∧ q0.pkt.words ≤ (x q0).deficit.get 0 (x q0).turn ∧
    ((port5 fun x => { x with xonRx := 0 }).inject.weir.ports.get 5).xonRx = 0 ∧ (up.inject.weir.ports.get 5).state ≠ 2 ∧
    (m.weir.taken + 1 = m.outbox.length ∧ m.outbox.getLast? = some (.packet 5 "ECHO" [1, 0]) ∧
      m.toPackets m.weir.taken (.packet 5 "ECHO" [1, 0]) = [k] ∧ m.weir.injQ = [] ∧ m.mayInject k = true) := by decide +kernel

theorem witness_PacketsAreDeliveredOrDiscarded :
    let w : Weir := up.weir
    let good : Packet := pkt 1 1 [zeroBytes 36]
    let late : Packet := { good with epoch := 1 }
    let far : Packet := { good with hops := 128 }
    let near : Packet := { good with hops := 127 }
    let bad : Packet := pkt 1 0 [zeroBytes 36]
    (∀ k ∈ [good, late, far, near, bad], ((port5 fun x => { x with rxStream := k.bytes ++ [1] }).weir.ports.get 5).rxStream = k.bytes ++ [1] ∧
      k.payload.length < 256 ∧ k.rsvd < 2 ^ 35 ∧ k.hops < 256 ∧ k.payload = [encodeWord (zeroBytes 32)]) ∧ (zeroBytes 32).length = 32 ∧
    (∀ k ∈ [good, near], k.opOk = true ∧ w.epochLive k.epoch = true ∧ k.hops < 128 ∧ k.dest.toNat = (w.bank k.epoch).addr ∧
      ((w.bank k.epoch).overrides.get 0 (w.bank k.epoch).addr).getLsbD 15 = false ∧ k.mark = false ∧ k.opcode ≠ 3) ∧
    bad.opOk = false ∧ (late.opOk = true ∧ w.epochLive late.epoch = false) ∧
    (far.opOk = true ∧ w.epochLive far.epoch = true ∧ 128 ≤ far.hops) := by decide +kernel

/-- The weirs of a module at an X coordinate in a ring of eight. -/
def ring8 (x : Nat) : Weir := { up.weir with bank0 := { nx := 8, x := x } }

theorem witness_RoutesGoTheShorterWay :
    ∀ d ∈ [(0, 4), (3, 7), (7, 0), (0, 7)],
      let k : Packet := { pkt 1 1 [] with dest := BitVec.ofNat 15 d.2 }
      let w := ring8 d.1
      let b := w.bank k.epoch
      k.esc = false ∧ (b.overrides.get 0 k.dest.toNat).getLsbD 15 = false ∧ k.dest.toNat ≠ b.addr ∧ coordOf k.dest.toNat 0 ≠ b.own 0 ∧
      b.own 0 < b.size 0 ∧ coordOf k.dest.toNat 0 < b.size 0 ∧ w.breaks.get [] 0 = [] ∧ ∀ q, w.inGap b q k.dest.toNat = false := by
  decide +kernel

theorem witness_WritesReachOpenRanges :
    let s (n : Nat) : State := { up with weir := { up.weir with opened := [(1, 2 ^ 39 - 32 * n, 32 * n, 0)] } }
    let k (w : List Byte) : Packet := { pkt 1 1 [w] with addr := 2 ^ 39 - 2 ^ 38 }
    let t : State := { up with weir := { up.weir with opened := [(1, 2 ^ 38, 32, 0)] } }
    (∀ w ∈ [encodeWord (zeroBytes 32), lostWord], (k w).opcode = 1 ∧ (k w).opOk = true ∧ (s 1).writeOpen (k w) = false ∧
      t.writeOpen (k w) = true ∧ (k w).payload = [w]) ∧ (k []).addr.toNat % 2 ^ 48 = 2 ^ 38 ∧ 2 ^ 38 % 32 = 0 ∧
    t.canon (2 ^ 38) = some (2 ^ 38) ∧ t.deadGranule (2 ^ 38) = false ∧ Mem.wf t.tiers = true ∧ (zeroBytes 32).length = 32 := by
  decide +kernel

/-- At 8 µs of uptime, two flows of one destination; `h` and `e` are the first's latest halving and ECHO. -/
def flows (h e : Option W64) : State :=
  { up with weir := { up.weir with flows := [⟨5, 1, 3, h, e, 0⟩, ⟨5, 2, 3, h, e, 0⟩] }, keeper := { up.keeper with uptime := 8000 } }

theorem witness_EchoesHalveAndTimeRaisesRates :
    (∀ h e, (⟨5, 1, 3, h, e, 0⟩ : Flow) ∈ (flows h e).weir.flows ∧ (⟨5, 2, 3, h, e, 0⟩ : Flow) ∈ (flows h e).weir.flows ∧
      (flows h e).keeper.uptime = 8000) ∧
    (4000 : W64).toNat + 4000 ≤ (8000 : W64).toNat ∧ ¬(4001 : W64).toNat + 4000 ≤ (8000 : W64).toNat ∧
    (0 : W64).toNat + 8000 ≤ (8000 : W64).toNat ∧ ¬(1 : W64).toNat + 8000 ≤ (8000 : W64).toNat :=
  ⟨fun h e => ⟨List.mem_cons_self, List.mem_cons_of_mem _ List.mem_cons_self, rfl⟩, by decide⟩

theorem witness_RippleMapsCountBuffers : up.keeper.rails = true ∧ up.weir.records.length ≤ 64 ∧ (5 : Fin 6).val < 6 ∧ (7 : Fin 8).val < 8 := by
  decide +kernel

theorem witness_RingNoticesSpreadOnce :
    let s (bs : List Nat) : State := { up with weir := { ring8 0 with breaks := [(2, bs)], bank0 := { nz := 8 } } }
    (4 : Fin 6).val / 2 = (2 : Fin 3).val ∧ (∀ bs ∈ [[0, 1, 2], [7], [0, 1, 2, 7]], (s bs).weir.breaks.get [] 2 = bs) ∧
    (7 ∉ [0, 1, 2] ∧ [0, 1, 2].length < 4) ∧ 7 ∈ [0, 1, 2, 7] ∧ (1 ≤ 1 ∧ 7 < ((s [7]).weir.bank (s [7]).weir.inj).size 2) ∧
    up.weir.breaks.get [] 2 = [] := by decide +kernel

theorem witness_RouteCommandsSwitchBanks :
    let s (staged : Bool) (live : BitVec 4) : State := { up with weir := { up.weir with staged := staged, live := live } }
    let stage := box (s false 1) 0x0021 [0x0000000000070707, 0, 2, 0, 1] []
    let flip := box (s true 1) 0x0022 [0, 0] []
    let release := box (s false 0xF) 0x0022 [1, 3] []
    let ripple := box (s false 1) 0x0023 [0, 41] []
    (stage.serving 7 0x0021 ∧ (stage.boxes.get 7).arg 2 ≤ ([0xE000, 0x8000] : List W16).length ∧
      ∀ i < 2, (([0xE000, 0x8000] : List W16).getD i 0).extractLsb' 0 11 = 0 ∧
        ((([0xE000, 0x8000] : List W16).getD i 0).extractLsb' 12 4 = 0xE →
          0 + i = (stageGeometry stage.weir.idle ((stage.boxes.get 7).arg 0)).addr)) ∧
    (flip.serving 7 0x0022 ∧ (flip.boxes.get 7).arg 0 = 0) ∧ (release.serving 7 0x0022 ∧ (release.boxes.get 7).arg 0 = 1) ∧
    ripple.serving 7 0x0023 :=
  ⟨⟨serving_of (by decide +kernel), by decide +kernel, by decide +kernel⟩, ⟨serving_of (by decide +kernel), by decide +kernel⟩,
    ⟨serving_of (by decide +kernel), by decide +kernel⟩, serving_of (by decide +kernel)⟩

/-! ## Collectives and membership -/

/-- A table of `n` ACTIVE ranks at addresses 0 to n - 1. -/
def table (n : Nat) : MembTable := ⟨0, 0, (List.range n).map fun a => (BitVec.ofNat 15 a, 0)⟩
/-- A HELD member of a table of `n` with a job in a phase. -/
def member (n : Nat) (p : Byte) (f : Coll → Coll) : State :=
  let s := job p id
  { s with coll := f { s.coll with table := some (table n), state := 1 }, record := { s.record with held := true } }
/-- A binary64 tensor, and an image with EXCHANGE's collective and an all-reduce of BACKWARD over it. -/
def tensor0 : TensorDecl := ⟨0, 0, 1, 0, 2, 0, 0, 0, 0, [4096], [], 0⟩
def exch : Image := { img with
  tensors := [tensor0], nodes := [⟨9, .collective .reduceScatter 0, 0, 6, [], [], false⟩, ⟨10, .collective .allReduce 0, 0, 5, [], [], false⟩] }

theorem witness_CollectivesOpenWhileHeld :
    let s (p : Byte) (st : Option (List Nat × List Nat)) (on : List Nat) : State :=
      let s := member 3 p fun c => { c with started := st }
      { s with job := { s.job with image := some exch, started := on } }
    let ex (t : State) := t.collChunks exch .reduceScatter .binary64 true tensor0
    let ar (t : State) := t.collChunks exch .allReduce .binary64 false tensor0
    (∀ p ∈ [(5 : Byte), 6], ∀ st ∈ [none, some ([2], [1])], (s p st [10]).job.running = true ∧ (s p st [10]).record.held = true ∧
      (s p st [10]).coll.state = 1 ∧ (s p st [10]).coll.opened = [] ∧ (s p st [10]).coll.finished = [] ∧ (s p st [10]).coll.started = st ∧
      (s p st [10]).record.phase = p ∧ (s p st [10]).job.carried = none) ∧
    ((s 5 none [10]).collDue 1 0 .allReduce .binary64 (ar (s 5 none [10])) = true ∧ (s 5 none [10]).isExchange 1 = false) ∧
    ((s 6 none []).collDue 0 0 .reduceScatter .binary64 (ex (s 6 none [])) = true ∧ (s 6 none []).isExchange 0 = true) ∧
    (s 5 none []).collDue 1 0 .allReduce .binary64 (ar (s 5 none [])) = false ∧ up.record.held = false := by decide +kernel

/-- A chunk of collective 4, occurrence 15. -/
def chunk4 (k : ChunkKind) (step epoch : W32) : ChunkId := ⟨k, 4, 15, 0, 1, 7, step, epoch⟩

theorem witness_ChunksAreAcceptedOnce :
    let seen (k : ChunkKind) := member 3 6 fun c => { c with accepted := [(1, chunk4 k 0 0, false)] }
    let s := member 3 6 id
    (s.job.running = true ∧ s.isMember = true ∧ s.coll.accepted = [] ∧ s.coll.opened = []) ∧
    ∀ k ∈ [ChunkKind.leaf, .partialNode, .result], (seen k).job.running = true ∧ (seen k).isMember = true ∧
      (chunk4 k 0 1).epoch ≠ s.record.epoch ∧ (chunk4 k 0 0).epoch = (seen k).record.epoch ∧
      (seen k).olderStep (chunk4 k 0 0).step = false ∧ s.olderStep (chunk4 k 0 0).step = false ∧
      (1, chunk4 k 0 0, false) ∈ (seen k).coll.accepted := by decide +kernel

/-- An open sum of three chunks in a table of three ranks. -/
def sum3 : OpenColl := ⟨4, 15, .allReduce, .binary64, 3, 0, 0, [], [(0, 1, 2, .elems [1]), (1, 1, 2, .elems [2])], [], [], 0, []⟩

theorem witness_NodesAddTheirChildren :
    let s := member 3 6 fun c => { c with opened := [sum3] }
    s.findColl 4 15 = some sum3 ∧ 2 < s.tableRanks ∧ 2 < sum3.chunks ∧ (treeNodes 64 0 s.tableRanks).contains (0, 2) = true ∧
    (0, 2, 2) ∉ sum3.evald ∧ s.evalRank sum3 0 2 2 = some s.coll.rank ∧ treeParent 64 0 s.tableRanks (0, 2) = some (0, 3) ∧
    s.evalRank sum3 0 3 2 = some 2 ∧ 2 ≠ s.coll.rank ∧ s.coll.storeRoom = true ∧ 2 ^ Nat.log2 (2 - 1) = 1 ∧
    (sum3.nodes.find? fun n => n.1 == 0 && n.2.1 == 1 && n.2.2.1 == 2) = some (0, 1, 2, .elems [1]) ∧
    (sum3.nodes.find? fun n => n.1 == 1 && n.2.1 == 1 && n.2.2.1 == 2) = some (1, 1, 2, .elems [2]) := by decide +kernel

theorem witness_ChunksAreKeptUntilAcknowledged :
    let x (n : Nat) : Sent := ⟨2, chunk4 .leaf 0 0, .elems [1], n⟩
    let s (n : Nat) := member 3 6 fun c => { c with sent := [x n], accepted := [(2, chunk4 .leaf 0 0, false)] }
    (∀ n ∈ [3, 4], (s n).coll.sent.find? (fun y => y.dest == (x n).dest && y.id == (x n).id) = some (x n)) ∧ (x 3).resends ≠ 4 ∧
    (x 4).resends = 4 ∧ (x 3).id.kind ≠ .partialNode ∧
    ((s 3).coll.accepted.filter fun e => e.1 == 2 && sameStream e.2.1 (chunk4 .leaf 0 0)) =
      [(2, { chunk4 .leaf 0 0 with c := 7 }, false)] := by decide +kernel

theorem witness_CollectivesCloseWhenComplete :
    let done : OpenColl := { sum3 with results := [(0, .elems []), (1, .elems []), (2, .elems [])], evald := [(0, 3, 0), (0, 2, 0), (0, 2, 2)] }
    let s (x : OpenColl) (l : List Sent) := member 3 5 fun c => { c with opened := [x], sent := l }
    (∀ x ∈ [sum3, { done with evald := [] }], (s x []).findColl 4 15 = some x) ∧ (s sum3 []).holdsOutputs sum3 = false ∧
    (s { done with evald := [] } []).nodesDone { done with evald := [] } = false ∧
    (s done [⟨2, chunk4 .leaf 0 0, .elems [1], 0⟩]).findColl 4 15 = some done ∧
    ((s done []).findColl 4 15 = some done ∧ (s done []).holdsOutputs done = true ∧ (s done []).nodesDone done = true ∧
      (s done []).coll.sent = [] ∧ (s done []).isExchange 4 = false ∧ (4 : Nat) ≠ 0xFFE ∧ (s done []).record.phase ≠ 6) := by decide +kernel

theorem witness_ReadyAndStartOpenTheExchange :
    let s (n r : Nat) (l : List Nat) (k : Nat) : State :=
      let s := member n 6 fun c => { c with rank := r, readyFrom := l, window := true }
      { s with job := { s.job with stepsRun := k } }
    let held (s : State) (r : Nat) := (s.actives.filter (r :: s.coll.readyFrom).contains).length
    (∀ a ∈ [(3, ([] : List Nat), 1), (3, [0], 2), (3, [0, 1], 3), (4, [0], 2)],
      let t := s a.1 0 a.2.1 8
      t.job.running = true ∧ t.isMember = true ∧ t.leader = t.coll.rank ∧ 2 ∈ t.actives ∧ 2 ∉ t.coll.readyFrom ∧ t.coll.started = none ∧
        held t 2 = a.2.2 ∧ t.actives.length = a.1) ∧
    2 * 1 < 3 ∧ (2 < 3 ∧ 3 ≤ 2 * 2) ∧ (2 < 4 ∧ 4 ≤ 2 * 2) ∧
    (∀ k ∈ [7, 8], (s 3 0 [0] k).leader = (s 3 0 [0] k).coll.rank ∧ (s 3 0 [0] k).coll.window = true ∧ (s 3 0 [0] k).job.stepsRun = k) ∧
    (let t (ns : W64) : State := { s 3 0 [0] 8 with keeper := { (s 3 0 [0] 8).keeper with uptime := ns } }
     (t 2000000).coll.openNs.toNat + (t 2000000).windowNs = 2000000 ∧ (t 2000000).uptime = 2000000 ∧ (t 1999999).uptime = 1999999) ∧
    ((s 3 1 [] 8).job.running = true ∧ (s 3 1 [] 8).isMember = true ∧ (s 3 1 [] 8).leader ≠ (s 3 1 [] 8).coll.rank ∧
      (s 3 1 [] 8).coll.started = none) := by decide +kernel

theorem witness_SuspectQueueHoldsSixteen :
    let s (put take : W16) : State := { up with record := { up.record with put := put, take := take } }
    let m : State := let t := member 3 6 id; { t with record := { t.record with suspects := t.record.suspects.set 15 2, put := 0, take := 0xFFFF } }
    ((s 2 0xFFF3).record.put - (s 2 0xFFF3).record.take).toNat = 15 ∧ ((s 3 0xFFF3).record.put - (s 3 0xFFF3).record.take).toNat = 16 ∧
    up.fwServes = true ∧ up.isMember = false ∧ up.record.kept = [] ∧
    (m.fwServes = true ∧ m.isMember = true ∧ m.record.kept = [] ∧ (m.record.put - m.record.take).toNat = 1 ∧ m.coll.state = 1 ∧
      m.record.take.toNat % 16 = 15 ∧ (m.record.suspects.get 15).toNat % 2 ^ 15 = 2 ∧ 2 ∈ m.actives ∧ 2 ≠ m.coll.rank ∧
      2 ∉ m.coll.suspects) := by decide +kernel

/-- `member` at 750 µs of uptime. -/
def late (n r : Nat) (f : Coll → Coll) : State :=
  let s := member n 6 fun c => f { c with rank := r }
  { s with keeper := { s.keeper with uptime := 750000 } }

theorem witness_SilentNeighboursAreSuspected :
    let lost (s : State) (r : Nat) := !s.coll.lives.has r || decide ((s.coll.lives.get 0 r).toNat + 750000 ≤ s.keeper.uptime.toNat)
    let heard (at' : W64) (r : Nat) := late 3 r fun c => { c with lives := [(2, at')] }
    (∀ r ∈ [0, 1], (heard 0 r).isMember = true ∧ 2 = (if r = 0 then prevRank else nextRank) (heard 0 r).tableRanks (heard 0 r).coll.rank ∧
      lost (heard 0 r) 2 = true ∧ 2 ∈ (heard 0 r).actives ∧ 2 ≠ (heard 0 r).coll.rank ∧ (heard 0 r).coll.suspects = [] ∧
      (heard 0 r).coll.state = 1 ∧ (heard 0 r).actives.find? (· != 2) = some 0 ∧ (heard 0 r).coll.rank = r) ∧
    lost (heard 1 0) 2 = false ∧ (0 : W32) = (heard 0 0).record.epoch ∧ epochNewer (heard 0 0).record.epoch 0xFFFFFFFF = true ∧
    ([1, 2] : List Nat) ≠ [] ∧ [1, 2].Nodup ∧ (∀ r ∈ [1, 2], r ∈ (heard 0 0).actives ∧ r ≠ (heard 0 0).coll.rank) ∧
    ((late 3 0 fun c => { c with state := 2 }).isMember = true ∧ (late 3 0 fun c => { c with state := 2 }).coll.state = 2) := by
  decide +kernel

theorem witness_RoundsCommitWithQuorum :
    let r (a : List (Nat × List Nat × Bool)) : Round := ⟨0, [3], a, none⟩
    let s (n : Nat) (a : List (Nat × List Nat × Bool)) : State :=
      let s := member n 6 fun c => { c with state := 3, round := some (r a), suspects := [3] }
      { s with job := { s.job with running := false } }
    let quiet := member 5 6 id
    (quiet.isMember = true ∧ 1 ∈ quiet.actives ∧ quiet.coll.rank ∉ [3] ∧ quiet.coll.round = none ∧ quiet.coll.rank ∈ [0, 3]) ∧
    (let t := s 5 []
     t.isMember = true ∧ t.coll.round = some (r []) ∧ t.coll.state = 3 ∧ 1 ∈ t.actives ∧ 1 ∉ (r []).suspects ∧
      (2 ∈ t.actives ∧ 2 ≠ t.coll.rank ∧ (2 : Nat) ≠ 1 ∧ 2 ∉ (r []).suspects)) ∧
    (∀ q ∈ [(5, [(1, [3], true), (2, [3], true)], true), (5, [(1, [3], true)], false), (4, [(1, [3], true)], true)],
      let t := s q.1 q.2.1
      t.isMember = true ∧ t.coll.round = some (r q.2.1) ∧ t.coll.state = 3 ∧ t.coll.table = some (table q.1) ∧ (r q.2.1).entry = none ∧
        t.coll.joins = [] ∧ t.job.running = false ∧ MembTable.quorum (table q.1) (t.coll.rank :: (r q.2.1).answers.map (·.1)) = q.2.2) := by
  decide +kernel

theorem witness_CommitsAdoptOrFence :
    let s (run : Bool) (st : BitVec 3) : State :=
      let s := member 3 6 fun c => { c with state := st }
      { s with job := { s.job with running := run } }
    let failed : MembTable := ⟨1, 1, [(0, 1), (1, 0), (2, 0)]⟩
    let newer : MembTable := { table 3 with epoch := 0x7FFFFFFF }
    let older : MembTable := { table 3 with epoch := 0x80000000 }
    (∀ run : Bool, (s run 1).isMember = true ∧ (s run 1).job.spareRank = none) ∧ epochNewer older.epoch (s true 1).record.epoch = false ∧
    (epochNewer failed.epoch (s true 1).record.epoch = true ∧ MembTable.st failed (s true 1).coll.rank = 1) ∧
    (epochNewer newer.epoch (s false 1).record.epoch = true ∧ MembTable.st newer (s false 1).coll.rank ≠ 1 ∧ (s false 1).job.running = false) ∧
    ((s true 4).isMember = true ∧ (s true 4).job.spareRank = none ∧ (s true 4).coll.state = 4) := by decide +kernel

theorem witness_JoinsAreProposedByTheLeader :
    let t0 : MembTable := ⟨0, 0, [(0, 0), (1, 0), (2, 1)]⟩
    let s (st : BitVec 3) := member 3 6 fun c => { c with table := some t0, state := st }
    (∀ st ∈ [(1 : BitVec 3), 3], (s st).isMember = true ∧ (s st).coll.table = some t0 ∧ (s st).leader = (s st).coll.rank ∧
      (s st).coll.state = st) ∧ 2 < t0.entries.length ∧ MembTable.st t0 2 = 1 ∧ (3 : BitVec 3) ≠ 1 := by decide +kernel

theorem witness_ReserveTimeoutNamesTheSilentRank :
    let ranks (s : State) : State := { s with job := { s.job with image := some { img with shards := [2, 2, 2] } } }
    let s := ranks (job 7 id)
    let m := ranks (member 3 7 id)
    (s.job.running = true ∧ s.record.phase = 7 ∧ s.record.done 7 = false ∧ (1 = s.partnerRank ∧ s.job.acked = false) ∧
      (2 = s.predecessor ∧ s.job.predComplete = false) ∧ s.isMember = false ∧ 0 ≠ s.partnerRank ∧ 0 ≠ s.predecessor) ∧
    (m.job.running = true ∧ m.record.phase = 7 ∧ m.record.done 7 = false ∧ 1 = m.partnerRank ∧ m.job.acked = false ∧ m.isMember = true ∧
      1 ∈ m.actives ∧ 1 ≠ m.coll.rank ∧ 1 ∉ m.coll.suspects) := by decide +kernel

theorem witness_JobCommandsApplyAtTheirBoundary :
    let m := member 3 6 id
    m.job.running = true ∧ m.record.phase ≠ 0 ∧ m.job.policyBoxes = [] ∧ m.isMember = true ∧ m.leader = m.coll.rank ∧ 2 ∈ m.actives := by
  decide +kernel

theorem witness_MembershipSetInstallsTheTable :
    let s (st : BitVec 3) (p : Byte) (run : Bool) (n : W64) : State :=
      box { up with job := { up.job with running := run }, coll := { up.coll with state := st }, record := { up.record with phase := p } }
        0x0020 [0, 0x20 + 4 * n] []
    (∀ q ∈ [((1 : BitVec 3), (0 : Byte), false, 0), (5, 0x0B, false, 2), (1, 5, true, 32768)],
      (s q.1 q.2.1 q.2.2.1 (BitVec.ofNat 64 q.2.2.2)).inHand 7 0x0020 = true ∧
      (s q.1 q.2.1 q.2.2.1 (BitVec.ofNat 64 q.2.2.2)).cmdCheck ((s q.1 q.2.1 q.2.2.1 (BitVec.ofNat 64 q.2.2.2)).boxes.get 7) = none ∧
      (((s q.1 q.2.1 q.2.2.1 (BitVec.ofNat 64 q.2.2.2)).boxes.get 7).lArgs.get 1).toNat = 0x20 + 4 * q.2.2.2 ∧
      (s q.1 q.2.1 q.2.2.1 (BitVec.ofNat 64 q.2.2.2)).job.haltBoxes = []) ∧
    (2 ≤ (table 2).entries.length ∧ (table 2).tieBreak < (table 2).entries.length ∧ (∀ e ∈ (table 2).entries, e.2 = 0) ∧
      (s 5 0x0B false 2).rankIn (table 2) = some 0) := by decide +kernel

/-! ## The CXL port -/

theorem witness_HostLinkTrains : up.keeper.rails = true ∧ 1 ≤ 1 ∧ 4 ≤ 4 ∧ (∀ w ∈ [4, 8, 16], w = 4 ∨ w = 8 ∨ w = 16) ∧
    (∀ w ∈ [1, 2, 12, 32], w ≠ 4 ∧ w ≠ 8 ∧ w ≠ 16) := by decide +kernel

/-- The running module with the host link up, its window of 1 GiB open, and some of its memory and filter changed. -/
def host (filter snoops : List Nat) (tiers : Mem) : State :=
  { up with caps := { up.caps with hostWindow := 2 ^ 30 }, tiers := tiers
            cxl := { up.cxl with rate := 4, width := 16, enabled := true, committed := true, filter := filter, snoops := snoops } }

theorem witness_HostResetsClearTheHostSide : (host [] [] []).keeper.step = 11 ∧ (host [] [] []).cxl.rate ≠ 0 := by decide +kernel

theorem witness_DecoderCommitsTheWindow : (host [] [] []).cxl.rate ≠ 0 ∧ (host [] [] []).cxl.enabled = true ∧
    (2 ^ 30 = (host [] [] []).caps.hostWindow ∧ 2 ^ 30 ≠ 0) := by decide +kernel

/-- The first word of the window's last line. -/
def lastLine : Nat := 2 ^ 30 / 64 - 1
/-- The window with its last line's first word lost. -/
def lostLine : State := host [] [] (putWord [] (windowAddr (64 * lastLine) / 32) lostWord)
/-- The demand reads of the two words of that line. -/
def lostRead : Option (List Byte) × State := lostLine.demandRead (windowAddr (64 * lastLine))
def nextRead : Option (List Byte) × State := lostRead.2.demandRead (windowAddr (64 * lastLine) + 32)

theorem witness_HostReadsReturnTheLine :
    let s := host [] [] []
    let a := windowAddr (64 * lastLine)
    (s.lineOpen lastLine = true ∧ lastLine ∉ s.cxl.snoops ∧ ¬2 ^ 20 ≤ s.cxl.filter.length ∧ (host [lastLine] [] []).lineOpen lastLine = true ∧
      s.tierCheck a (s.tierRaw a) = .clean (zeroBytes 32) ∧ s.tierCheck (a + 32) (s.tierRaw (a + 32)) = .clean (zeroBytes 32)) ∧
    (lostLine.lineOpen lastLine = true ∧ lastLine ∉ lostLine.cxl.snoops ∧ ¬2 ^ 20 ≤ lostLine.cxl.filter.length ∧ lostRead.1 = none ∧
      nextRead.1 = some (zeroBytes 32) ∧ nextRead.2.cxl.filter = lostLine.cxl.filter) := by decide +kernel

theorem witness_HostReadsOfAFullFilter :
    let f := List.replicate (2 ^ 20) 7
    (host f [] []).lineOpen lastLine = true ∧ (host f [] []).cxl.filter = 7 :: List.replicate (2 ^ 20 - 1) 7 ∧
    2 ^ 20 ≤ (host f [] []).cxl.filter.length ∧ lastLine ∉ (host f [] []).cxl.filter ∧ 7 ∉ (host f [] []).cxl.snoops ∧
    7 ∈ (host f [7] []).cxl.snoops := by
  refine ⟨rfl, ?_, ?_, ?_, List.not_mem_nil, List.mem_cons_self⟩
  · show List.replicate (2 ^ 20 - 1 + 1) 7 = _
    rw [List.replicate_succ]
  · show 2 ^ 20 ≤ (List.replicate (2 ^ 20) 7).length
    rw [List.length_replicate]
  · show lastLine ∉ List.replicate (2 ^ 20) 7
    rw [List.mem_replicate]
    exact fun h => absurd h.2 (by decide)

theorem witness_HostWritesStoreTheLine :
    let s := host [] [] []
    let a := windowAddr (64 * lastLine)
    (zeroBytes 64).length = 64 ∧ lastLine ∉ s.cxl.snoops ∧ Mem.wf s.tiers = true ∧ Mem.wf lostLine.tiers = true ∧
    (s.lineOpen lastLine = true ∧ s.deadGranule a = false ∧ s.deadGranule (a + 32) = false ∧ (1 : W64) ≠ BitVec.allOnes 64 ∧
      s.tierCheck a (s.tierRaw a) = .clean (zeroBytes 32) ∧ s.tierCheck (a + 32) (s.tierRaw (a + 32)) = .clean (zeroBytes 32)) ∧
    (lostLine.lineOpen lastLine = true ∧ lostLine.deadGranule a = false ∧ lostLine.deadGranule (a + 32) = false ∧
      lostRead.1 = none ∧ nextRead.1 = some (zeroBytes 32) ∧ nextRead.2.deadGranule a = false ∧ nextRead.2.deadGranule (a + 32) = false ∧
      Mem.wf nextRead.2.tiers = true) ∧
    s.lineOpen (lastLine + 1) = false := by decide +kernel

theorem witness_HostServicesAnswer :
    let s := host [] [] []
    let x (p : W16) : Cxl := { s.cxl with pba := p, msixEn := true, funcMask := false }
    s.cxl.rate ≠ 0 ∧ s.cxl.enabled = true ∧ ((x 0x8000).pba.getLsbD 15 = true ∧ (x 0x8000).msixEn = true ∧ (x 0x8000).funcMask = false) ∧
    (x 0x7FFF).pba.getLsbD 15 = false ∧ s.keeper.rails = true := by decide +kernel

/-! ## Mailboxes and their commands -/

/-- The running module with mailbox 7 changed. -/
def box7 (f : Mailbox → Mailbox) : State := up.modBox 7 f

theorem witness_CompletionIsReported : ((box7 fun b => { b with state := 1 }).boxes.get 7).outstanding = true ∧
    (up.boxes.get 7).outstanding = false := by decide +kernel

theorem witness_GoLatchesAndChecks :
    let s (op : W16) (len : Nat) (ms : W16) := box7 fun b => { b with opcode := op, len := len, ms := ms, tag := 9 }
    let clash (op other : W16) (tag : Byte) := (s op 0 0).modBox 6 fun b => { b with state := 3, stTag := tag, lOpcode := other }
    up.keeper.rails = true ∧ ((box7 fun b => { b with state := 2 }).boxes.get 7).outstanding = true ∧
    (∀ q ∈ [((5 : W16), 0, (0 : W16)), (1, 0, 0), (1, 1, 0), (1, 0, 99), (1, 0, 60001), (1, 0, 100), (1, 0, 60000), (0x41, 65536, 0),
      (0x41, 96, 0)], ((s q.1 q.2.1 q.2.2).boxes.get 7).outstanding = false ∧
        (∀ k : Fin 8, ((s q.1 q.2.1 q.2.2).boxes.get k).outstanding = false)) ∧
    cmdRow 5 = none ∧ (cmdRow 1 = some ⟨1, 1, false, 0, false, 0, 0, 1⟩ ∧ cmdRow 0x41 = some ⟨0x41, 1, false, 4, false, 64, 65536, 64⟩ ∧
      65536 % 64 = 0 ∧ 96 % 64 ≠ 0) ∧
    (let t := clash 1 1 9
     (t.boxes.get 7).outstanding = false ∧ (t.boxes.get 6).outstanding = true ∧ (t.boxes.get 6).stTag = (t.boxes.get 7).tag ∧
      ∀ k : Fin 8, k < 6 → (t.boxes.get k).outstanding = false) ∧
    (let t := clash 0x14 0x11 8
     (t.boxes.get 7).outstanding = false ∧ cmdRow 0x14 = some ⟨0x14, 1, true, 1, false, 0, 0, 1⟩ ∧ (t.boxes.get 6).outstanding = true ∧
      (t.boxes.get 6).stTag ≠ (t.boxes.get 7).tag ∧ cmdRow (t.boxes.get 6).lOpcode.toNat = some ⟨0x11, 1, true, 1, true, 0, 0, 1⟩ ∧
      ∀ k : Fin 8, k < 6 → (t.boxes.get k).outstanding = false) := by decide +kernel

theorem witness_ServersTakeReportAndAbort :
    let s (st : BitVec 3) (op : W16) (a : W64) := box7 fun b => { b with state := st, server := 1, lOpcode := op, lArgs := Vector.replicate 8 a }
    let b (st : BitVec 3) (op : W16) (a : W64) := (s st op a).boxes.get 7
    (b 1 1 0).state = 1 ∧ (s 1 1 0).serverUp (b 1 1 0) = true ∧ (b 1 1 1).state = 1 ∧ (s 1 1 1).serverUp (b 1 1 1) = true ∧ (s 1 1 0).cmdCheck (b 1 1 0) = none ∧
    (s 1 1 1).cmdCheck (b 1 1 1) = some (3, 0) ∧
    (∀ st ∈ [(2 : BitVec 3), 3], (b st 0x14 0).state = st ∧ (b st 0x14 0).lOpcode ≠ 0x0011 ∧ (b st 0x14 0).lOpcode ≠ 0x0012 ∧
      (s st 0x14 0).serverUp (b st 0x14 0) = true) ∧ cmdRow (b 3 0x14 0).lOpcode.toNat = some ⟨0x14, 1, true, 1, false, 0, 0, 1⟩ ∧
    (b 3 0x11 0).state = 3 ∧ cmdRow (b 3 0x11 0).lOpcode.toNat = some ⟨0x11, 1, true, 1, true, 0, 0, 1⟩ ∧
    (s 3 0x11 0).serverUp (b 3 0x11 0) = true ∧ (b 2 0x14 0).state ≠ 1 := by decide +kernel

theorem witness_QueriesReturnTheirOutput :
    (box up 0x0001 [] []).serving 7 0x0001 ∧ (box up 0x0002 [] []).serving 7 0x0002 ∧
    ((box up 0x0003 [0, 1023, 8] []).serving 7 0x0003 ∧ (((box up 0x0003 [0, 1023, 8] []).boxes.get 7).arg 2 == 8) = true) ∧
    (box up 0x0004 [15] []).serving 7 0x0004 ∧ (box up 0x0031 [] []).serving 7 0x0031 ∧ (box up 0x0032 [] []).serving 7 0x0032 ∧
    (let s := (box up 0x0043 [] (zeroBytes 32)).modBox 7 fun b => { b with snapshot := zeroBytes 320 }
     s.serving 7 0x0043 ∧ (s.boxes.get 7).snapshot.length = 320) :=
  ⟨serving_of (by decide +kernel), serving_of (by decide +kernel), ⟨serving_of (by decide +kernel), by decide +kernel⟩,
    serving_of (by decide +kernel), serving_of (by decide +kernel), serving_of (by decide +kernel),
    ⟨serving_of (by decide +kernel), by decide +kernel⟩⟩

theorem witness_HostWindowChangesTheTable :
    (box up 0x0010 [0] []).serving 7 0x0010 ∧ ((box up 0x0010 [0] []).boxes.get 7).arg 0 = up.caps.hostWindow ∧
    (box up 0x0010 [0x10000000000] []).serving 7 0x0010 ∧ ((box up 0x0010 [0x10000000000] []).boxes.get 7).arg 0 ≠ up.caps.hostWindow :=
  ⟨serving_of (by decide +kernel), by decide +kernel, serving_of (by decide +kernel), by decide +kernel⟩

/-- An image file that passes every check: a kernel on jet 159 and EXCHANGE's collective. -/
def goodBody : List Byte :=
  zeroBytes 64 ++
  (List.range 5).flatMap (fun k => leBytes 2 (k + 1) ++ leBytes 2 1 ++ leBytes 4 ([256, 320, 448, 512, 576].getD k 0) ++
    leBytes 8 ([64, 96, 64, 64, 8].getD k 0)) ++ zeroBytes 48 ++
  -- requirements: REF_ORDER, CMDSET_VER, ISA_VER, and L of 8 in a requirement on ID 0x0012
  [(4, 1, 0, 1), (5, 0, 0, 0), (2, 0, 0, 0), (0x12, 3, 8, 0)].flatMap (fun (r : Nat × Nat × Nat × Nat) =>
    leBytes 2 r.1 ++ leBytes 1 r.2.1 ++ leBytes 1 r.2.2.1 ++ leBytes 4 0xFFFFFFFF ++ leBytes 8 r.2.2.2) ++
  -- tensor 3: BX16, rank 1, TIER 1, STEP, domain 0
  leBytes 4 3 ++ [0x10, 1, 0, 1, 0, 0, 0xFF, 0xFF] ++ zeroBytes 4 ++ (List.range 4).flatMap (fun _ => leBytes 8 1) ++ zeroBytes 48 ++ zeroBytes 32 ++
  zeroBytes 64 ++
  -- one kernel of no code
  zeroBytes 8 ++ leBytes 2 1 ++ zeroBytes 54 ++
  -- tag 1 for FORWARD and tag 2 for EXCHANGE
  leBytes 2 1 ++ [1, 0] ++ leBytes 2 2 ++ [6, 0]
def goodHead (hash : List Byte) : List Byte :=
  leBytes 4 0x4D49504A ++ leBytes 2 1 ++ leBytes 2 128 ++ leBytes 8 584 ++ leBytes 2 5 ++ zeroBytes 2 ++ leBytes 4 128 ++ zeroBytes 8 ++ hash
def goodFile : ImageFile :=
  { bytes := goodHead (sha256 (goodHead (zeroBytes 32) ++ goodBody)) ++ goodBody
    nodes := [⟨1, .kernel 0 [] [] [159] false false, 1, 1, [], [], false⟩, ⟨2, .collective .reduceScatter 3, 2, 6, [1], [3], false⟩]
    recompute := [], windows := [], policy := img.policy, scratch := 0 }

theorem witness_ImagesLoadWhenAccepted :
    let s (op : W16) := box up op [0, 0, 584] []
    let bad : LoadFault := { code := 0x0101 }
    (∀ v : Bool, (s (if v then 0x0012 else 0x0011)).serving 7 (if v then 0x0012 else 0x0011)) ∧
    (∀ v : Bool, (s (if v then 0x0012 else 0x0011)).loadCheck ({ goodFile with bytes := [] } : ImageFile).parse
        (((s (if v then 0x0012 else 0x0011)).boxes.get 7).arg 2) = some bad ∧
      (s (if v then 0x0012 else 0x0011)).loadCheck goodFile.parse (((s (if v then 0x0012 else 0x0011)).boxes.get 7).arg 2) = none) ∧
    runsOn goodFile.parse 159 = true := by
  refine ⟨fun v => ?_, by decide +kernel, by decide +kernel⟩
  cases v <;> exact serving_of (by decide +kernel)

/-- A module that has been asked to run an image, in a table of `n`. -/
def toRun (i : Image) (n : Nat) : State :=
  let s : State := { up with job := { up.job with image := some i }, coll := { up.coll with table := some (table n), state := 1 } }
  box s 0x0013 [1, 3, 4096, 600000] (zeroBytes 32)

theorem witness_RunStartsTheJobOrWaits :
    let i2 := { img with shards := [0, 0] }
    let i24 := { img with shards := List.replicate 24 0 }
    let i1 := { img with shards := [0] }
    let rs (s : State) := s.actives.filter (· != s.coll.rank)
    ((toRun i2 2).serving 7 0x0013 ∧ (toRun i2 2).job.image = some i2 ∧ 2 ≤ i2.shards.length ∧ (⟨[], [], true⟩ : Checkpoint).ok = true ∧
      (toRun i2 2).survivalCheck i2 (toRun i2 2).coll.rank = none ∧ (toRun i2 2).keeper.powerState = 0 ∧ (rs (toRun i2 2)).length = 1 ∧
      i2.hash ≠ [] ∧ (toRun i2 2).hasTerrace = false) ∧
    ((toRun i24 24).serving 7 0x0013 ∧ (toRun i24 24).job.image = some i24 ∧ 2 ≤ i24.shards.length ∧
      (toRun i24 24).survivalCheck i24 (toRun i24 24).coll.rank = none ∧ (toRun i24 24).keeper.powerState = 0 ∧
      (rs (toRun i24 24)).length = 23 ∧ (toRun i24 24).hasTerrace = true) ∧
    ((toRun i2 3).serving 7 0x0013 ∧ (toRun i2 3).survivalCheck i2 (toRun i2 3).coll.rank = none ∧ (rs (toRun i2 3)).length = 2 ∧
      ([i2.hash, []].getD 1 [] = []) ∧ (∀ m < 2, [i2.hash, []].getD m [] = [] ∨ [i2.hash, []].getD m [] = i2.hash) ∧
      [i2.hash, []].getD 0 [] ≠ []) ∧
    ((toRun i1 2).serving 7 0x0013 ∧ (toRun i1 2).job.image = some i1 ∧ (toRun i1 2).keeper.powerState = 0 ∧ i1.shards.length < 2) ∧
    (let s : State := { toRun i2 2 with job := { (toRun i2 2).job with runBox := some 7 } }
     s.inHand 7 0x0013 = true ∧ s.job.runBox = some (7 : Fin 8).val ∧ s.job.running = false) :=
  ⟨⟨serving_of (by decide +kernel), by decide +kernel⟩, ⟨serving_of (by decide +kernel), by decide +kernel⟩,
    ⟨serving_of (by decide +kernel), by decide +kernel⟩, ⟨serving_of (by decide +kernel), by decide +kernel⟩, by decide +kernel⟩

theorem witness_JobCommandsGoToTheLeader :
    let m : State :=
      let t := member 24 6 fun c => { c with rank := 1 }
      { t with job := { t.job with image := some { img with shards := List.replicate 24 0 } } }
    m.leader ≠ m.coll.rank ∧ m.job.running = true ∧ m.job.haltBoxes = [] ∧ m.job.policyBoxes = [] ∧ m.job.secureBoxes = [] ∧
    (box m 0x0014 [] []).serving 7 0x0014 ∧ (box m 0x0015 [65535, 16, 8, 500, 1000, 1, 0, 63] []).serving 7 0x0015 ∧
    (box m 0x0016 [] []).serving 7 0x0016 ∧ (box up 0x0014 [] []).serving 7 0x0014 ∧
    (up.job.running = false ∧ up.record.phase ≠ 0x0B ∧ up.job.haltBoxes = []) :=
  ⟨by decide +kernel, by decide +kernel, by decide +kernel, by decide +kernel, by decide +kernel, serving_of (by decide +kernel),
    serving_of (by decide +kernel), serving_of (by decide +kernel), serving_of (by decide +kernel), by decide +kernel⟩

theorem witness_KeeperCommandsSetLimitsAndAnchors :
    (box up 0x0030 [4200, 5200, 105, 46000, 36000, 0, 0, 31] []).serving 7 0x0030 ∧ (box up 0x0033 [] []).serving 7 0x0033 ∧
    up.sluice.planBoxes = [] ∧ (box up 0x0034 [7, 0] []).serving 7 0x0034 ∧ (box up 0x0034 [7, 1] []).serving 7 0x0034 :=
  ⟨serving_of (by decide +kernel), serving_of (by decide +kernel), by decide +kernel, serving_of (by decide +kernel),
    serving_of (by decide +kernel)⟩

theorem witness_PowerStateCommandsAreKept :
    (box up 0x0035 [3] []).serving 7 0x0035 ∧ (box up 0x0035 [0] []).serving 7 0x0035 ∧ (box up 0x0035 [2] []).serving 7 0x0035 ∧
    up.keeper.powerState = 0 ∧ (box up 0x0036 [3] []).serving 7 0x0036 :=
  ⟨serving_of (by decide +kernel), serving_of (by decide +kernel), serving_of (by decide +kernel), by decide +kernel,
    serving_of (by decide +kernel)⟩

/-- A slot image of 64 bytes that passes every check of R567. -/
def goodSlot : SlotImage :=
  { layoutOk := true, keyIndex := 3, svn := 128, revokeMask := 0, publicKeyHash := [1], signatureOk := true, keeperHashOk := true,
    otherHashesOk := true, versions := (1, 1, 1), measurements := [], bytes := 64 }
/-- A session over slot B, which holds an image. -/
def session (len : Nat) (gs : List Nat) (b : SlotImage) : State :=
  { up with fw := { up.fw with session := some (true, len, gs), keys := Vector.replicate 4 (some [1]), slotB := some b } }

theorem witness_FirmwareUpdatesAreCheckedAndStaged :
    (∀ a ∈ [0, 12288, 67108864], (box up 0x0040 [BitVec.ofNat 64 a, 1] []).serving 7 0x0040) ∧
    ((box (session 128 [] goodSlot) 0x0041 [64] (zeroBytes 64)).serving 7 0x0041 ∧
      (session 128 [] goodSlot).fw.session = some (true, 128, [])) ∧
    (∀ q ∈ [((128 : Nat), [0]), (128, [0, 1]), (0, [])], (box (session q.1 q.2 goodSlot) 0x0042 [] []).serving 7 0x0042 ∧
      (session q.1 q.2 goodSlot).fw.session = some (true, q.1, q.2)) ∧
    0 < 128 ∧ (1 < 128 / 64 ∧ 1 ∉ [0]) ∧ (∀ g < 128 / 64, g ∈ [0, 1]) ∧
    (let f := (session 0 [] goodSlot).fw
     f.slot true = some goodSlot ∧ f.slotCheck (f.slot true) true = none) ∧
    (let f := (session 0 [] { goodSlot with otherHashesOk := false }).fw
     f.slotCheck (f.slot true) true = some 6) ∧
    (let f := (session 128 [0, 1] goodSlot).fw
     f.slotCheck (some (slotWritten f.image 128)) true = some 1) := by
  refine ⟨fun a ha => ?_, ⟨serving_of (by decide +kernel), by decide +kernel⟩, fun q hq => ⟨?_, by rfl⟩, by decide, by decide, by decide,
    by decide +kernel, by decide +kernel, by decide +kernel⟩
  · have h : ∀ a ∈ [0, 12288, 67108864], ((box up 0x0040 [BitVec.ofNat 64 a, 1] []).inHand 7 0x0040 &&
        ((box up 0x0040 [BitVec.ofNat 64 a, 1] []).cmdCheck ((box up 0x0040 [BitVec.ofNat 64 a, 1] []).boxes.get 7)).isNone) = true := by
      decide +kernel
    exact serving_of (h a ha)
  · have h : ∀ q ∈ [((128 : Nat), [0]), (128, [0, 1]), (0, [])], ((box (session q.1 q.2 goodSlot) 0x0042 [] []).inHand 7 0x0042 &&
        ((box (session q.1 q.2 goodSlot) 0x0042 [] []).cmdCheck ((box (session q.1 q.2 goodSlot) 0x0042 [] []).boxes.get 7)).isNone) = true := by
      decide +kernel
    exact serving_of (h q hq)

theorem witness_EventsAreLoggedInOrder :
    let s (n : Nat) : State := { up with log := { up.log with inMs := n, msNo := 0, dropped := n - 256 } }
    let e : Event := ⟨0, 0, 0, 0, 3, 0, 0, []⟩
    (s 255).log.inMs < 256 ∧ (256 ≤ (s 256).log.inMs ∧ (s 256).log.msNo = up.keeper.uptime.toNat / 1000000) ∧
    (s 256).log.ring.length ≤ 4096 ∧ 2 ≤ 2 ∧ (1 : Nat) ≤ 1 ∧
    ({ up with log := { up.log with toFlash := [e] } } : State).log.toFlash = [e] ∧ up.log.flash.length < 16384 ∧ 0 < (s 257).log.dropped ∧
    ((s 256).log.inMs ≤ 256 ∧ (s 256).log.dropped = 0) := by decide +kernel

/-! ## The Sluice, sensors and stops -/

/-- The running module with domain 7 or 9 of the Sluice changed. -/
def dom (d : Fin 10) (f : Dom → Dom) : State := up.modDom d f

theorem witness_DomainsAdoptPendingBudgets :
    let c (x : Option (Option W16 × List (Nat × Nat × Nat))) (s : State) : State := { s with sluice := { s.sluice with copy := x } }
    let al : List (Nat × Nat × Nat) := (List.range 10).map fun d => (d % 5, 8 + d, 0)
    (∀ d : Fin 10, (c (some (some 7, al)) up).sluice.copy = some (some 7, al) ∧ ((c (some (some 7, al)) up).sluice.doms.get d).taken = false) ∧
    (let s := c (some (none, al)) (dom 9 fun x => { x with div := 4 })
     s.sluice.copy = some (none, al) ∧ max (al.getD 9 (0, 64, 0)).1 (max (s.sluice.doms.get 9).ceilDiv (s.sluice.doms.get 9).top) =
      (s.sluice.doms.get 9).div) ∧
    (∀ sag : Bool,
      let s := c (some (none, al)) (dom 3 fun x => { x with div := 4 })
      let t : State := { s with sluice := { s.sluice with sagAux := sag } }
      t.sluice.sag = sag ∧ max (al.getD 3 (0, 64, 0)).1 (max (t.sluice.doms.get 3).ceilDiv (t.sluice.doms.get 3).top) <
        (t.sluice.doms.get 3).div) ∧
    (up.sluice.doms.get 9).div < max (al.getD 9 (0, 64, 0)).1 (max (up.sluice.doms.get 9).ceilDiv (up.sluice.doms.get 9).top) ∧
    up.sluice.copy = none ∧ ((dom 7 fun x => { x with taken := true }).sluice.doms.get 7).taken = true :=
  ⟨by decide +kernel, by decide +kernel, by decide +kernel, by decide +kernel, by decide +kernel, by decide +kernel⟩

theorem witness_DividersSwitchAtBoundaries :
    let x (p : Option Nat) (st rail : Bool) := (dom 9 fun x => { x with div := 2, pending := p, stretch := st, railReady := rail }).sluice.doms.get 9
    ((x (some 4) false false).pending = some 4 ∧ (x (some 4) false false).stretch = false ∧ (x (some 4) false false).div < 4) ∧
    ((x (some 0) false true).pending = some 0 ∧ (x (some 0) false true).stretch = false ∧ (x (some 0) false true).railReady = true) ∧
    (x none false true).pending = none ∧ (x (some 4) true true).stretch = true ∧
    ((x (some 0) false false).pending = some 0 ∧ 0 ≤ (x (some 0) false false).div ∧ (x (some 0) false false).railReady = false) ∧
    (let y := (dom 9 fun x => { x with pending := some 4, hold := true }).sluice.doms.get 9
     y.hold = true ∧ y.stretch = false ∧ (999 : Nat) < y.releaseNs.toNat + 1000 ∧ ¬(1000 : Nat) < y.releaseNs.toNat + 1000) ∧
    up.keeper.aclkOn = true ∧ (x none false true).stretch = false ∧ 8 ≤ (9 : Fin 10).val := by decide +kernel

theorem witness_SagWarningsSlowEveryDomain :
    let s (a b : Bool) : State :=
      let s := dom 7 fun x => { x with pace := 9 }
      { s with sluice := { s.sluice with sagMain := a, sagAux := b } }
    ((s false false).sluice.sagOf .main = false ∧ 0xA410 - 1 < (s false false).sluice.warnMv ∧ (s false false).sluice.sag = false) ∧
    ((s true false).sluice.sagOf .aux = false ∧ 10699 < 10700 ∧ (s true false).sluice.sag = true) ∧
    (s true false).sluice.sagOf .main = true ∧ (s false false).sluice.warnMv ≤ 0xA410 ∧ (s false false).keeper.rails = true ∧
    8 < ((s false false).sluice.doms.get 7).pace ∧ (4 ≤ (7 : Fin 10).val ∧ (7 : Fin 10).val < 8) := by decide +kernel

theorem witness_PowerControllersSlowAboveTheirLimits :
    let s (w : Nat) (on floor ep : Bool) : State :=
      { up with sluice := { up.sluice with samples := [w], peakOn := on, sustainedOn := on, floorEpisode := ep
                                           doms := if floor then Vector.replicate 10 { div := 4, pace := 8 } else up.sluice.doms } }
    let big := 10 ^ 12
    ((s big false false false).atFloor = false ∧ (0 : Rat) ≤ (s big false false false).peakW ∧
      ((s big false false false).peakW : Rat) < (s big false false false).meanW 1000 ∧ 0 ≤ (s big false false false).powerLimit ∧
      (s big false false false).powerLimit < (s big false false false).meanW 100000) ∧
    (((s 0 false false false).meanW 1000 ≤ (s 0 false false false).peakW ∧ (s 0 false false false).sluice.peakOn = false) ∧
      ((s 0 false false false).meanW 100000 ≤ (s 0 false false false).powerLimit ∧ (s 0 false false false).sluice.sustainedOn = false)) ∧
    ((s 0 true false false).sluice.peakOn = true ∧ (s 0 true false false).meanW 1000 ≤ ((s 0 true false false).peakW : Rat) * 98 / 100 ∧
      (s 0 true false false).meanW 100000 ≤ (s 0 true false false).powerLimit * 98 / 100) ∧
    ((s (5200 * 10 ^ 6) true false false).atFloor = false ∧
      ((s (5200 * 10 ^ 6) true false false).peakW : Rat) * 98 / 100 < (s (5200 * 10 ^ 6) true false false).meanW 1000) ∧
    (∀ ep : Bool, (s big false true ep).sluice.floorEpisode = ep ∧ (s big false true ep).atFloor = true ∧
      (s big false true ep).powerLimit < (s big false true ep).meanW 100000) :=
  ⟨by decide +kernel, by decide +kernel, by decide +kernel, by decide +kernel, by decide +kernel⟩

theorem witness_SamplesAreRangeChecked :
    (∀ x ∈ [Sensor.stack 31, .inlet, .flow, .mainMv, .auxMv, .mainMa, .auxMa, dieSensor 0, dieSensor 4, dieSensor 6],
      (sensorRange x).1 ≤ (sensorRange x).2 ∧ (sensorRange x).1 - 1 < (sensorRange x).1 ∧ (sensorRange x).2 < (sensorRange x).2 + 1) ∧
    (∀ y ∈ [Sensor.mainMv, .mainMa, .auxMv, .auxMa], (up.sensor y).failed = false) ∧ sensorNo .inlet ≠ sensorNo .outlet := by
  decide +kernel

/-- The running module with a sensor's reading. -/
def reads (x : Sensor) (y : SensorSt) : State := { up with keeper := { up.keeper with sensors := [(sensorNo x, y)] } }

theorem witness_CeilingsFollowTemperature :
    let hot := reads (.stack 31) { good := 1520 }
    let die := reads .hub { good := 1601 }
    let bad := reads (.runnel 1) { failed := true }
    (Sensor.stack 31 ∈ domSensors 7 ∧ 1520 ≤ (hot.sensor (.stack 31)).good ∧ 8 < (hot.sluice.doms.get 7).ceilPace) ∧
    (Sensor.hub ∈ domSensors 3 ∧ ((16 * die.sluice.throttleC : Nat) : Int) < (die.sensor .hub).good) ∧
    ((reads .hub { good := 1552 }).coolEnough 3 = true ∧ (reads (.stack 31) { good := 1472 }).coolEnough 7 = true) ∧
    (reads (.stack 31) { good := 1519 }).hotSensor 7 = none ∧ (up.sensor (.runnel 1)).failed = false ∧
    (9 ∈ sensorDoms (.runnel 1) ∧ 7 ∈ sensorDoms (.stack 31)) ∧ (bad.sensor (.runnel 1)).failed = true := by decide +kernel

theorem witness_TripsAndLeaksStopTheModule :
    let flow (ok : Bool) (good : Int) : State :=
      let s := reads .flow { good := good }
      { s with keeper := { s.keeper with flowOk := ok } }
    up.keeper.rails = true ∧ (1680 : Int) ≤ 1680 ∧ (1840 : Int) ≤ 1840 ∧ (1839 : Int) < 1840 ∧
    ((flow true 999).keeper.rails = true ∧ (flow true 999).noFlow = true) ∧ ((flow false 1000).keeper.rails = true ∧ (flow false 1000).noFlow = true) ∧
    ((flow true 1000).keeper.rails = true ∧ (flow true 1000).noFlow = false) ∧
    ((reads .inlet { good := 721 }).keeper.rails = true ∧ 720 < ((reads .inlet { good := 721 }).sensor .inlet).good) ∧
    ((reads .inlet { good := 720 }).keeper.rails = true ∧ ((reads .inlet { good := 720 }).sensor .inlet).good ≤ 720) := by decide +kernel

theorem witness_MarginsAreReplanned :
    let s (last : W64) (due : Bool) (l : List Nat) : State :=
      { up with sluice := { up.sluice with planDue := due, planned := l, lastPlan := last }
                keeper := { up.keeper with uptime := 172800000000000 } }
    let now := (s 0 true []).keeper.uptime.toNat
    (s 86400000000000 true []).sluice.lastPlan.toNat + 86400000000000 ≤ now ∧
    now < (s 86400000000001 true []).sluice.lastPlan.toNat + 86400000000000 ∧
    (s 0 true []).sluice.lastPlan.toNat + (48 + 24 * (s 0 true []).sluice.deferred) * 3600000000000 ≤ now ∧
    ((s 0 true [0, 1, 2, 3, 4]).sluice.planDue = true ∧ 5 ∉ (s 0 true [0, 1, 2, 3, 4]).sluice.planned ∧
      6 ∉ (s 0 true [0, 1, 2, 3, 4]).sluice.planned ∧ (s 0 true [0, 1, 2, 3, 4]).planTime = true ∧
      (s 0 true [0, 1, 2, 3, 4]).keeper.rails = true ∧ (s 0 true [0, 1, 2, 3, 4]).sluice.planned.length < 6) ∧
    ([775, 776, 805, 806, 850] : List Nat).length = 5 ∧
    ((s 0 true [0, 1, 2, 3, 4, 5]).planTime = true ∧ 6 ∉ (s 0 true [0, 1, 2, 3, 4, 5]).sluice.planned ∧
      (s 0 true [0, 1, 2, 3, 4, 5]).sluice.planned.length = 6) ∧
    (s 0 false []).sluice.planDue = false ∧ (job 5 id).planTime = false := by decide +kernel

/-! ## The Keeper: firmware, resets and start-up -/

/-- The running module with the Keeper changed. -/
def kp (f : Keeper → Keeper) : State := { up with keeper := f up.keeper }

theorem witness_FirmwareRestartsAndResets :
    let s (h : List W64) := (kp fun k => { k with uptime := 60000000000, hangs := h }).modBox 7 fun b => { b with server := 1, state := 3 }
    let recent (s : State) := (s.keeper.hangs.filter fun h => decide (s.keeper.uptime.toNat ≤ h.toNat + 60000000000)).length
    (s [0, 1]).fwRuns = true ∧ (s [0, 1]).keeper.step = 11 ∧ recent (s [0, 1]) = 2 ∧ (s [0]).fwRuns = true ∧ (s [0]).keeper.step = 11 ∧
    recent (s [0]) = 1 ∧ ((s [0]).boxes.get 7).server = 1 ∧ ((s [0]).boxes.get 7).state = 3 ∧ ((s [0]).boxes.get 6).state = 0 ∧
    up.fwRuns = true ∧ up.keeper.ready = (up.keeper.dataReady && decide (up.keeper.powerState ≤ 1)) ∧
    ((kp fun k => { k with ready := false }).fwRuns = true ∧ (kp fun k => { k with ready := false }).keeper.ready ≠
      (up.keeper.dataReady && decide (up.keeper.powerState ≤ 1))) := by decide +kernel

theorem witness_RestartEndsWithCtrlReady :
    let s (a : Option Nat) (d : Option (Nat × Nat)) : State :=
      let s := job 9 fun j => { j with abortDue := a, decided := d }
      { s with keeper := { s.keeper with fwRestart := true, ctrlReady := false } }
    ∀ a ∈ [none, some 2], ∀ d ∈ [none, some (1, 5)], (s a d).keeper.fwRestart = true ∧ (s a d).job.abortDue = a ∧ (s a d).job.decided = d ∧
      (s a d).inStep = true := by decide +kernel

theorem witness_ResetsEnterStartup :
    let starting (s : State) : Prop := s.keeper.step < 11 ∧ s.keeper.abandoned = false
    let at' (n e : Nat) := kp fun k => { k with step := n, entry := e }
    ¬starting up ∧ (starting (at' 10 4) ∧ (at' 10 4).keeper.entry ≠ 1 ∧ (at' 10 4).keeper.entry ≠ 2) ∧
    (starting (at' 1 1) ∧ (at' 1 1).keeper.entry = 1) ∧ (starting (at' 10 2) ∧ (at' 10 2).keeper.entry = 2) ∧
    (up.keeper.abandoned = false ∧ up.keeper.rails = true) ∧
    (¬starting (kp fun k => { k with perst := true }) ∧ (kp fun k => { k with perst := true }).keeper.perst = true) ∧
    (¬starting (kp fun k => { k with warmPending := true }) ∧ (kp fun k => { k with warmPending := true }).keeper.warmPending = true) ∧
    (∀ p : Bool, (kp fun k => { k with warmHold := true, perst := p }).keeper.warmHold = true ∧
      (kp fun k => { k with warmHold := true, perst := p }).keeper.perst = p) := by decide +kernel

theorem witness_PinsAreFollowed :
    let held (t : W64) := kp fun k => { k with warmHold := true, perst := true, step := 4, entryNs := 1, uptime := t }
    let dry := kp fun k => { k with powerState := 3, rails := false, perst := true, pwrEn := false }
    let off := kp fun k => { k with rails := false, perst := false, pwrEn := true, tripLatch := 1 }
    let pins (r : Bool) (n : Nat) (c : Bool) := kp fun k => { k with rails := r, step := n, slotId := 3, slotChanged := c }
    let on := kp fun k => { k with perst := false, pwrEn := true }
    (on.keeper.perst = false ∧ on.keeper.step = 11 ∧ on.keeper.abandoned = false ∧ on.keeper.rails = true ∧ on.keeper.pwrEn = true) ∧
    (off.keeper.perst = false ∧ off.keeper.rails = false ∧ off.keeper.pwrEn = true) ∧
    (((held 1000001).keeper.perst = true ∧ (held 1000001).keeper.warmHold = true ∧ (held 1000001).keeper.powerState ≠ 3) ∧
      (held 1000001).keeper.entryNs.toNat + 1000000 ≤ (held 1000001).keeper.uptime.toNat ∧
      (held 1000000).keeper.uptime.toNat < (held 1000000).keeper.entryNs.toNat + 1000000) ∧
    (dry.keeper.powerState = 3 ∧ dry.keeper.step = 11 ∧ dry.keeper.perst = true ∧ dry.keeper.pwrEn = false) ∧
    (let s := kp fun k => { k with pwrEn := false }; s.keeper.pwrEn = false ∧ ¬(s.keeper.powerState = 3 ∧ s.keeper.step = 11)) ∧
    ((pins true 1 false).keeper.step < 2 ∧ 3 = (pins true 2 false).keeper.slotId ∧ (pins true 2 true).keeper.slotChanged = true) ∧
    (2 ≤ (pins true 5 false).keeper.step ∧ 4 ≠ (pins true 5 false).keeper.slotId ∧ (pins true 5 false).keeper.slotChanged = false ∧
      (pins true 5 false).keeper.rails = true ∧ 5 ≤ (pins true 5 false).keeper.step) ∧
    (2 ≤ (pins false 2 false).keeper.step ∧ 4 ≠ (pins false 2 false).keeper.slotId ∧ (pins false 2 false).keeper.slotChanged = false ∧
      (pins false 2 false).keeper.rails = false) := by decide +kernel

/-- A module in a step of start-up, with its key fuses blown and slots filled. -/
def boot (n : Nat) (a b : Option SlotImage) (f : Keeper → Keeper) : State :=
  { kp fun k => f { k with step := n } with
    fw := { up.fw with slotA := a, slotB := b, keys := Vector.replicate 4 (some [1]) } }

theorem witness_StartupBootsAndFails :
    let bad : SlotImage := { goodSlot with keeperHashOk := false }
    let ok (s : State) (b : Bool) (i : SlotImage) : Prop := s.fw.slot b = some i ∧ s.fw.slotCheck (some i) false = none
    let s2 (f : Keeper → Keeper) := boot 2 none none fun k => f { k with rails := false }
    ((boot 1 (some goodSlot) none id).keeper.step = 1 ∧ ok (boot 1 (some goodSlot) none id) false goodSlot ∧
      (boot 1 (some goodSlot) none id).fw.active = false) ∧
    ((boot 1 (some bad) (some goodSlot) id).fw.slot false = some bad ∧ (boot 1 (some bad) (some goodSlot) id).fw.slotCheck (some bad) false = some 6 ∧
      ok (boot 1 (some bad) (some goodSlot) id) true goodSlot) ∧
    (∀ b : Bool, (boot 1 none none id).fw.slot b = none) ∧
    (∀ l : Bool, let s := s2 fun k => { k with pwrEn := true, leak := l }
      s.keeper.step = 2 ∧ s.keeper.rails = false ∧ s.keeper.abandoned = false ∧ s.keeper.pwrEn = true ∧ s.keeper.tripLatch = 0 ∧
        s.sluice.sagMain = false ∧ s.keeper.leak = l) ∧
    ((s2 id).keeper.pwrEn = false ∧ (s2 fun k => { k with tripLatch := 2 }).keeper.tripLatch ≠ 0) ∧
    (∀ n ∈ [0, 1], (boot 10 none none fun k => { k with chainFails := n }).keeper.stepping = true ∧
      (boot 10 none none fun k => { k with chainFails := n }).keeper.chainFails = n) := by decide +kernel

theorem witness_StartupStepsCompleteInTurn :
    let s (n : Nat) (f : Keeper → Keeper) := boot n (some goodSlot) none f
    (∀ n < 11, 2 ≤ n → (s n id).keeper.stepping = true ∧ (s n id).keeper.rails = true ∧ (s n id).keeper.step = n) ∧
    ((s 4 id).fw.pend = none ∧ (s 4 id).fw.slot (s 4 id).fw.active = some goodSlot ∧ (s 4 id).fw.slotCheck (some goodSlot) true = none ∧
      (s 4 id).log.ring = [] ∧ (s 4 id).keeper.heldRecords.length < 4096) ∧
    (let t := s 9 fun k => { k with preq := true, entry := 4 }
     t.keeper.stepping = true ∧ t.keeper.preq = true ∧ t.keeper.entry = 4) ∧
    (s 9 id).keeper.preq = false ∧ (s 9 fun k => { k with preq := true, entry := 2 }).keeper.entry ≠ 4 ∧
    ((s 10 id).keeper.memFatal = false ∧ (s 10 id).keeper.exhausted = false ∧ (s 10 id).fw.trial = false) ∧
    (s 10 fun k => { k with memFatal := true }).keeper.memFatal = true ∧ (s 10 fun k => { k with exhausted := true }).keeper.exhausted = true := by
  decide +kernel

theorem witness_PowerStateChangesComplete :
    let s (r : Option (Nat × Option Nat)) := (kp fun k => { k with stateReq := r }).modBox 7 fun b => { b with state := 2 }
    (∀ r ∈ [none, some (2, some (7 : Fin 8).val), some (0, some 7), some (3, none)], (s r).keeper.step = 11 ∧ (s r).keeper.rails = true ∧
      (s r).keeper.stateReq = r ∧ ((s r).boxes.get 7).outstanding = true) := by decide +kernel

/-! ## The sideband -/

/-- A module at which one message from endpoint 9 waits. -/
def asked (m : List Byte) (rails : Bool) : State := kp fun k => { k with requests := [(9, m)], rails := rails }

theorem witness_ControlRequestsAreAnswered :
    ∀ q ∈ [(SideReq.setEid, ([0, 0x80, 1, 0, 5] : List Byte)), (.getEid, [0, 0x80, 2]), (.mctpVersion, [0, 0x80, 4, 0xFF]),
        (.msgTypes, [0, 0x80, 5])],
      ∀ r : Bool, (asked q.2 r).waiting q.1 = some (9, q.2) := by decide +kernel

theorem witness_PldmRequestsAreAnswered :
    (∀ q ∈ [(SideReq.getTid, ([1, 0x80, 0, 2] : List Byte)), (.pldmVersion, [1, 0x80, 0, 3, 0, 0, 0, 0, 1, 0]),
        (.pldmVersion, [1, 0x80, 0, 3, 0, 0, 0, 0, 1, 2]), (.pldmVersion, [1, 0x80, 0, 3, 0, 0, 0, 0, 1, 1]), (.pldmTypes, [1, 0x80, 0, 4]),
        (.pldmCommands, [1, 0x80, 0, 5, 0]), (.pldmCommands, [1, 0x80, 0, 5, 2]), (.sensorReading, [1, 0x80, 2, 0x11, 9, 0, 0]),
        (.pdrInfo, [1, 0x80, 2, 0x50]), (.getPdr, [1, 0x80, 2, 0x51])],
      ∀ r : Bool, (asked q.2 r).waiting q.1 = some (9, q.2)) ∧
    (asked [] false).keeper.rails = false ∧ (∀ r : Bool, ∀ n < 15, 1 ≤ n → (asked [] r).pldmFailed n = false) ∧
    14 < (15 : W16).toNat ∧ 14 < (15 : W32).toNat := by decide +kernel

theorem witness_MessagesAreAssembled :
    (up.keeper.partials.find? fun p => p.src == 9) = none ∧
    ((kp fun k => { k with partials := [⟨8, 1, 1, []⟩, ⟨9, 7, 3, [1]⟩] }).keeper.partials.find? fun p => p.src == 9) = some ⟨9, 7, 3, [1]⟩ ∧
    ((6 : BitVec 3) ≠ 7 ∧ (0 : BitVec 2) ≠ 3) := by decide +kernel

/-! ## Registers and the step sequencer -/

theorem witness_CounterReadsClearAndLowHalvesLatch :
    (8 % 8 = 0 ∧ up.reg64 .keeper 8 = some 0 ∧ reaches .keeper .keeper = true ∧ up.powered .keeper = true ∧ up.latch = none) ∧
    ({ up with latch := some (.keeper, 8, 1) } : State).latch = some (.keeper, 8, 1) ∧
    (0x30 % 4 = 0 ∧ up.reg64 .keeper (0x30 - 0x30 % 8) = none ∧ up.rc .keeper 0x30 = none) ∧ reaches .host .keeper = false := by decide +kernel

theorem witness_RegisterWritesFollowTheirAccess :
    up.keeper.rails = true ∧ (up.boxes.get 7).outstanding = false ∧ ((box7 fun b => { b with state := 1 }).boxes.get 7).outstanding = true ∧
    (box7 fun b => { b with state := 1 }).keeper.rails = true ∧ (5 : W64).toNat % 2 ^ 32 % 4 = 1 ∧ (6 : W64).toNat % 2 ^ 32 % 4 = 2 ∧
    (4 : W64).toNat % 2 ^ 32 % 4 = 0 ∧ 4 < (5 : W64).toNat % 2 ^ 32 % 8 ∧ ¬4 < (4 : W64).toNat % 2 ^ 32 % 8 ∧
    200 < (201 * 256 : W64).toNat % 2 ^ 32 / 256 % 256 ∧ ¬200 < (200 * 256 : W64).toNat % 2 ^ 32 / 256 % 256 ∧
    reaches .host (.jet 3) = false ∧ 4 % 8 ≠ 0 := by decide +kernel

theorem witness_PhasesAdvanceWhenDone :
    let s (p : Byte) (mask : W16) (f : Job → Job) : State := { job p f with record := { (job p f).record with doneMask := mask, result := 1 } }
    let halts (j : Job) : Job := { j with haltAt := some 0 }
    let on (t : State) : Prop := t.job.running = true ∧ t.fwServes = true ∧ t.job.decided = none ∧ t.job.abortDue = none
    (∀ p ∈ [1, 8], ∀ d : Bool, let t := s (BitVec.ofNat 8 p) (if d then 0x102 else 0) id
      on t ∧ t.record.phase.toNat = p ∧ t.record.done p = d) ∧
    (let t := s 9 0x200 id
     on t ∧ t.committed = true ∧ t.pauseDue = false ∧ t.job.haltAt ≠ some t.record.globalStep ∧ t.job.nextPolicy = none) ∧
    (let t := s 10 0x400 id
     on t ∧ t.record.phase.toNat = 0x0A ∧ t.record.done 10 = true ∧ t.job.repair = []) ∧
    (let t := s 9 0x200 halts
     on t ∧ t.committed = true ∧ t.job.haltAt = some t.record.globalStep) ∧
    (job 1 fun j => { j with decided := some (1, 0) }).job.decided ≠ none ∧ (job 1 fun j => { j with abortDue := some 2 }).job.abortDue ≠ none ∧
    up.job.running = false ∧ (kp fun k => { k with ctrlReady := false }).fwServes = false := by decide +kernel

theorem witness_RecordWritesCarryTheirStep : (1 : W64) ≠ up.record.globalStep ∧ (0 : W64) = up.record.globalStep := by decide +kernel

theorem witness_MoverConvEnNeedsIdle : (phase 0).record.phase = 0 ∧ (phase 10).record.phase ≠ 0 := by decide +kernel

/-! ## The whole block -/

theorem witness_StepRunsTheFrontCommand : State.reset.pending = [] := by decide +kernel

theorem witness_FusesAreNeverUndone :
    (1280 : Nat) ≠ 1152 ∧ (1152 : Nat) ≠ 1024 ∧ ∃ t, step { State.reset with pending := [.refclkReturn] } = .next t ∧
      State.reset.fw.rollback ≤ 128 := ⟨by decide, by decide, _, rfl, by decide +kernel⟩

theorem witness_FusesAreBlownByATrial :
    let s : State :=
      let s := boot 10 none (some goodSlot) id
      { s with fw := { s.fw with trial := true, trialStep := 10, running := true, pend := some true, rollback := 127 }
               pending := [.startupStepAdvance ⟨[], [], []⟩] }
    after (step s) (fun t => t.fw.rollback != s.fw.rollback) = true := by decide +kernel

theorem witness_MemoryStaysCanonical :
    State.reset.memOk = true ∧ ∃ t, step { State.reset with pending := [.refclkReturn] } = .next t := ⟨by decide +kernel, _, rfl⟩

/-! ## Well-formedness: each check refuses an ill-formed term and takes a well-formed one -/

theorem test_wf_register_accesses :
    Instr.wf (.registerWrite .firmware .fh 0x0C false 0xFFFFFFFF) = true ∧ Instr.wf (.registerWrite .firmware .fh 0x0E false 0) = false ∧
    Instr.wf (.registerWrite .firmware .fh 0x0C true 0) = false ∧ Instr.wf (.registerWrite .firmware .fh 0x0C false 0x100000000) = false ∧
    Instr.wf (.registerWrite .firmware (.basin 0) 0x308 true 0x100000000) = true ∧ Instr.wf (.reg64LowHalfRead .host .fh 0x20) = true ∧
    Instr.wf (.reg64LowHalfRead .host .fh 0x24) = false ∧ Instr.wf (.rcFieldRead .fh 0x2800 0) = true ∧
    Instr.wf (.rcFieldRead .fh 0x2802 0) = false := by decide +kernel

theorem test_wf_cores_and_memory :
    Instr.wf (.suspectEntryWrite 5 2) = true ∧ Instr.wf (.suspectEntryWrite 5 3) = false ∧ Instr.wf (.suspectEntryWrite 5 0) = false ∧
    Instr.wf (.arrWaitEnd j3) = true ∧ Instr.wf (.arrWaitEnd u1) = false ∧ Instr.wf (.moveWaitEnd u1) = false ∧
    Instr.wf (.vspoutWaitEnd u1) = false ∧ Instr.wf (.scrubRead (.channel 3 255) 32 (zeroBytes 36) []) = true ∧
    Instr.wf (.scrubRead (.channel 3 255) 33 [] []) = false ∧ Instr.wf (.scrubRead (.channel 3 255) 32 (zeroBytes 37) []) = false ∧
    Instr.wf (.scrubRead (.channel 3 255) 32 [] (zeroBytes 37)) = false ∧ Instr.wf (.replanDomain 5 [0, 0, 0, 0, 0]) = true ∧
    Instr.wf (.replanDomain 5 [0]) = false ∧ Instr.wf (.replanDomain 6 [0]) = true ∧ Instr.wf (.replanDomain 6 [0, 0, 0, 0, 0]) = false := by
  decide +kernel

theorem test_wf_fabric :
    Instr.wf (.frameReceive 5 (zeroBytes 8) (zeroBytes 120) true 0 0) = true ∧ Instr.wf (.frameReceive 5 (zeroBytes 7) (zeroBytes 120) true 0 0) = false ∧
    Instr.wf (.frameReceive 5 (zeroBytes 8) (zeroBytes 121) true 0 0) = false ∧ Instr.wf (.trainingDone 5 ⟨0, 0, 5, 65535, true⟩) = true ∧
    Instr.wf (.trainingDone 5 ⟨0, 0, 6, 0, true⟩) = false ∧ Instr.wf (.trainingDone 5 ⟨0, 0, 5, 65536, true⟩) = false ∧
    Instr.wf (.write (pkt 1 1 [zeroBytes 36])) = true ∧ Instr.wf (.write (pkt 1 1 [zeroBytes 35])) = false ∧
    Instr.wf (.write (pkt 1 1 (List.replicate 65 (zeroBytes 36)))) = false ∧ Instr.wf (.write { pkt 1 1 [] with hops := 256 }) = false := by
  decide +kernel

theorem test_wf_collectives :
    let i := chunk4 .leaf 0 0
    let all (i : ChunkId) : List Bool := [Instr.wf (.chunkReceive 1 i (.elems []) false), Instr.wf (.resultReceive 1 i (.elems []) false),
      Instr.wf (.chunkAckTimer 1 i), Instr.wf (.chunkAckReceive 1 i []), Instr.wf (.chunkRetransmit 1 i true)]
    all { i with c := 2 ^ 32 - 1, coll := 4095, occ := 15, a := 65535, m := 32768 } = [true, true, true, true, true] ∧
    ([{ i with c := 2 ^ 32 }, { i with coll := 4096 }, { i with occ := 16 }, { i with a := 65536 }, { i with m := 0 },
      { i with m := 32769 }].all fun i => all i == [false, false, false, false, false]) = true ∧
    Instr.wf (.commit (table 2) true) = true ∧ Instr.wf (.commit ⟨0, 0, [(0, 3)]⟩ true) = false ∧
    Instr.wf (.membershipSet 7 (table 2) true) = true ∧ Instr.wf (.membershipSet 7 ⟨0, 0, [(0, 3)]⟩ true) = false := by decide +kernel

theorem test_wf_host_and_sideband :
    Instr.wf (.cxlMemWrite 0 (zeroBytes 64) 0) = true ∧ Instr.wf (.cxlMemWrite 0 (zeroBytes 63) 0) = false ∧
    Instr.wf (.mctpPacketReceive 9 true true 0 0 (zeroBytes 64)) = true ∧ Instr.wf (.mctpPacketReceive 9 true true 0 0 (zeroBytes 65)) = false ∧
    Instr.wf (.progressUpdate 7 1000) = true ∧ Instr.wf (.progressUpdate 7 1001) = false ∧ Instr.wf (.cxlLinkUp 4 16 true) = true ∧
    Instr.wf (.cxlLinkUp 4 12 true) = false := by decide +kernel

/-- The table gives no row bits, so no word spells a command and placing one changes nothing. -/
theorem test_no_word_spells_a_command : decodeTableWord 32 0x08000000 = none ∧ up.withFetchWord 32 0x08000000 = up := ⟨rfl, rfl⟩

/-! ## Published check values -/

/-- R246, R242: g × 2,654,435,769 modulo 2^32 by its leading bits, for g = 1: 0x9E3779B9. -/
theorem test_fold : foldBits 12 1 = 0x9E3 ∧ foldBits 8 1 = 0x9E := by decide
/-- R360: the check value of CRC-16 with polynomial 0x1021 and initial value 0xFFFF over the digits 1 to 9. -/
theorem test_hcrc : hcrc [0x31, 0x32, 0x33, 0x34, 0x35, 0x36, 0x37, 0x38, 0x39] = 0x29B1 := by decide +kernel
/-- R145: the first output of the generator (13, 17, 5) from seed 1. -/
theorem test_sentinel_generator : sntStep 1 = 270369 := by decide +kernel
/-- The first bytes of SHA-256 of "abc" as FIPS 180-4 prints them. -/
theorem test_sha256 : (sha256 [0x61, 0x62, 0x63]).take 8 = [0xBA, 0x78, 0x16, 0xBF, 0x8F, 0x01, 0xCF, 0xEA] := by decide +kernel
/-- R249: a code word checks clean, one wrong byte is corrected, two are not. -/
theorem test_code_word :
    let w := encodeWord ((List.range 32).map fun k => BitVec.ofNat 8 (7 * k + 1))
    checkWord w = .clean ((List.range 32).map fun k => BitVec.ofNat 8 (7 * k + 1)) ∧
    checkWord (w.set 35 (w.getD 35 0 ^^^ 0x80)) = .corrected ((List.range 32).map fun k => BitVec.ofNat 8 (7 * k + 1)) w ∧
    checkWord ((w.set 0 (w.getD 0 0 ^^^ 1)).set 31 (w.getD 31 0 ^^^ 2)) = .bad := by decide +kernel

/-! ## Scalar instructions (R163, R164) -/

/-- s2 = 2^63 and s3 = -1. -/
def operands : State := rill (sets [(2, 0x8000000000000000), (3, 0xFFFFFFFFFFFFFFFF)])
/-- s1 after an ALU function of s2 and s3. -/
def aluOf (n : BitVec 11) (v : W64) : Bool := after (exec (.alu j3 ⟨1, 2, 3, n⟩) operands) fun t => (t.core j3).rs 1 == v
theorem test_alu_add_sub : aluOf 0 0x7FFFFFFFFFFFFFFF = true ∧ aluOf 1 0x8000000000000001 = true := by decide +kernel
theorem test_alu_shifts : aluOf 6 1 = true ∧ aluOf 7 0xFFFFFFFFFFFFFFFF = true ∧ aluOf 5 0 = true := by decide +kernel
theorem test_alu_mul : aluOf 8 0x8000000000000000 = true ∧ aluOf 9 0x7FFFFFFFFFFFFFFF = true := by decide +kernel
theorem test_alu_compare : aluOf 0xA 1 = true ∧ aluOf 0xB 1 = true := by decide +kernel
theorem test_addi_sign : after (exec (.addi j3 (fields 1 0 0x8000)) up) (fun t => (t.core j3).rs 1 == 0xFFFFFFFFFFFF8000) = true := by
  decide +kernel
theorem test_ori_zero_extends : after (exec (.ori j3 (fields 1 0 0x8000)) up) (fun t => (t.core j3).rs 1 == 0x8000) = true := by decide +kernel
theorem test_lui_sign : after (exec (.lui j3 (fields 1 0 0x8000)) up) (fun t => (t.core j3).rs 1 == 0xFFFFFFFF80000000) = true := by
  decide +kernel
/-- SRA by 63 of s2. -/
theorem test_shi_sra : after (exec (.shi j3 (fields 1 2 0x803F)) operands) (fun t => (t.core j3).rs 1 == 0xFFFFFFFFFFFFFFFF) = true := by
  decide +kernel
theorem test_register_zero : after (exec (.addi j3 (fields 0 0 5)) up) (fun t => (t.core j3).rs 0 == 0 && (t.core j3).pc == 4) = true := by
  decide +kernel
/-- BGE is taken backward by two words; BLTU of the same operands is not taken. -/
theorem test_branches :
    let k := rill fun k => sets [(2, 1), (3, 0xFFFFFFFFFFFFFFFF)] { k with pc := 64 }
    after (exec (.br j3 ⟨2, 3, 0x0F, 0x7FE⟩) k) (fun t => (t.core j3).pc == 56) = true ∧
    after (exec (.br j3 ⟨3, 2, 0x13, 0x7FE⟩) k) (fun t => (t.core j3).pc == 68) = true := by decide +kernel
/-- JAL writes the address of the next instruction. -/
theorem test_jal : after (exec (.jal j3 ⟨1, 0, 0, 4⟩) up) (fun t => (t.core j3).pc == 16 && (t.core j3).rs 1 == 4) = true := by decide +kernel
/-- A store of two bytes is little-endian; the load of its second byte is sign-extended. -/
theorem test_store_then_load :
    let s := rill (sets [(2, 31), (3, 0x80FF)])
    after (exec (.st j3 (fields 3 2 0x2000)) s) (fun t => byteAt (t.core j3).store 31 == some 0xFF && byteAt (t.core j3).store 32 == some 0x80 &&
      after (exec (.ld j3 (fields 1 2 0x0001)) t) fun u => (u.core j3).rs 1 == 0xFFFFFFFFFFFFFF80) = true := by decide +kernel
/-- R192: BREAK enters the handler at JT_TVEC with its pc saved. -/
theorem test_break_enters_the_handler :
    let s := rill fun k => { k with tvec := 0x400, pc := 8 }
    after (exec (.breakpoint j3 0 0 0) s) (fun t => (t.core j3).pc == 0x400 && (t.core j3).inHandler && (t.core j3).vxpc &&& ~~~3 == 8) = true := by
  decide +kernel

/-! ## Floating point, vectors and the arrays -/

/-- R165: binary64 1.0 + 2^-53 rounds to 1.0 and is inexact; (1 + 2^-52) + 2^-53 is a tie and goes to the even code. -/
theorem test_binary64_addition :
    b64.add (Rnd.ofFrm 0) false 0x3FF0000000000000 0x3CA0000000000000 = (0x3FF0000000000000, fNX) ∧
    b64.add (Rnd.ofFrm 0) false 0x3FF0000000000001 0x3CA0000000000000 = (0x3FF0000000000002, fNX) ∧
    b64.add (Rnd.ofFrm 0) true 0x7FF0000000000000 0x7FF0000000000000 = (b64.qnan, fNV) := by decide +kernel
/-- binary32 1 ÷ 3 is 0x3EAAAAAB. -/
theorem test_binary32_division : (b32.div (Rnd.ofFrm 0) 0x3F800000 0x40400000).1 = 0x3EAAAAAB := by decide +kernel
theorem test_vsplat_writes_every_element :
    after (exec (.vsplat j3 4 2 0 0) (rill (sets [(2, 7)]))) (fun t => elemOf 64 (groupVal (t.core j3) 4 1) 0 == 7 &&
      elemOf 64 (groupVal (t.core j3) 4 1) 63 == 7) = true := by decide +kernel
/-- A pass descriptor with CHAIN 5 and one row reaches the queue of array 7. -/
theorem test_array_fault_waits_for_the_core :
    after (exec (.queueHeadPass 3 7) (arr7 fun a => { a with queue := [{ pass5 with first := false }] }))
      (fun t => (t.core j3).pendArray == [(7, 5)] && (t.arr 3 7).flags == 8 && (t.arr 3 7).queue.isEmpty) = true := by decide +kernel
/-- R119 to R122: a second pass of another chain on a tile in use is held and counted once. -/
theorem test_held_pass_counts_once :
    let s := arr7 fun a => { a with queue := [pass5], tileA := { state := .filling, chain := 6 } }
    after (exec (.queueHeadPass 3 7) s) (fun t => (t.arr 3 7).held && (t.basins.get 0).conflict == 1 &&
      after (exec (.queueHeadPass 3 7) t) fun u => (u.basins.get 0).conflict == 1) = true := by decide +kernel
/-- A mover descriptor of one word writes it into jet store. -/
theorem test_mover_moves_a_word :
    let s := up.modJet 3 fun x => { x with mvQueue := [word1] }
    after (exec (.moverDescriptorStart 3 []) { s with tiers := putWord [] 0 (encodeWord (5 :: zeroBytes 31)) })
      (fun t => byteAt (t.jet 3).core.store 0x13FFFE0 == some 5 && (t.jet 3).mvActive == [word1]) = true := by decide +kernel

/-! ## The rest of the module -/

/-- R395: a flow of 3 GB/s halves to 1.5 and rises again by 2. -/
theorem test_flow_rate :
    after (exec (.echo 5 1) (flows none none)) (fun t => (t.weir.flows.map (·.rate)).contains (3 / 2)) = true ∧
    after (exec (.flowRateIncrease 5 1) (flows none (some 0))) (fun t => (t.weir.flows.map (·.rate)).contains 5) = true := by decide +kernel
/-- R366: a link whose round trip takes 601 ns is refused with code 2. -/
theorem test_training_refusal :
    after (exec (.trainingDone 5 ⟨0xFFFF, 1, 4, 601, true⟩) (port5 fun x => { x with state := 1 }))
      (fun t => (t.weir.ports.get 5).state == 4 && (t.weir.ports.get 5).refuse == 2 && (t.weir.ports.get 5).rtt == 601) = true := by decide +kernel
/-- R29: the first suspect entry. -/
theorem test_suspect_entry :
    after (exec (.suspectEntryWrite 5 2) up) (fun t => t.record.suspects.get 0 == 0x20005 && t.record.put == 1) = true := by decide +kernel
/-- R130, R416: the sum of binary64 1.0 and 2.0 goes to the parent's rank. -/
theorem test_node_adds :
    let x := { sum3 with nodes := [(0, 1, 2, .elems [0x3FF0000000000000]), (1, 1, 2, .elems [0x4000000000000000])] }
    after (exec (.nodeEvaluate 4 15 2 0 2) (member 3 6 fun c => { c with opened := [x] }))
      (fun t => t.outbox == [.chunk 2 ⟨.partialNode, 4, 15, 0, 2, 2, 0, 0⟩ (.elems [0x4008000000000000])]) = true := by decide +kernel
/-- R475: an opcode outside the table completes with BAD_OPCODE and raises the mailbox's cause. -/
theorem test_go_bad_opcode :
    after (exec (.mailboxGo 7) (box7 fun b => { b with opcode := 5 }))
      (fun t => (t.boxes.get 7).state == 4 && (t.boxes.get 7).status == 1 && t.cxl.cause.getLsbD 7) = true := by decide +kernel
/-- R449: a whole write of a line and the read of it. -/
theorem test_host_line :
    let d : List Byte := 9 :: zeroBytes 63
    after (exec (.cxlMemWrite 0 d (BitVec.allOnes 64)) (host [] [] [])) (fun t => after (exec (.cxlMemRead 0) t)
      fun u => u.outbox == [.cxlDone 0, .cxlMem 0 d false] && u.cxl.filter == [0]) = true := by decide +kernel
/-- R522: a stack at 105 °C stops the module. -/
theorem test_thermal_trip :
    after (exec (.thermalTrip (.stack 31) 1680) up) (fun t => !t.keeper.rails && t.keeper.thermtrip && t.keeper.tripLatch == 1) = true ∧
    after (exec (.thermalTrip (.stack 31) 1679) up) (fun t => t.keeper.rails) = true := by decide +kernel
/-- R598: a sample out of range leaves the last good value. -/
theorem test_sample_out_of_range :
    after (exec (.sensorSample .inlet 1601) (reads .inlet { good := 500 })) (fun t => (t.sensor .inlet).good == 500 && t.keeper.rejectCnt == 1) =
      true := by decide +kernel
/-- R595: Get Endpoint ID goes to its source and leaves the queue. -/
theorem test_get_endpoint_id :
    after (exec .getEndpointId (kp fun k => { k with eid := 0x1D, requests := [(9, [0, 0x80, 2])] }))
      (fun t => t.outbox == [.mctp 9 "GetEndpointID" [0, 0x1D]] && t.keeper.requests.isEmpty) = true := by decide +kernel
/-- R12: a cause bit is cleared by writing 1, and no other. -/
theorem test_write_one_to_clear :
    after (exec (.registerWrite .firmware .fh 0x0C false 2) { up with cxl := { up.cxl with cause := 3 } }) (fun t => t.cxl.cause == 1) = true := by
  decide +kernel
/-- R27: a complete BACKWARD is followed by the next phase. -/
theorem test_phase_advance :
    after (exec .phaseAdvance { job 5 id with record := { (job 5 id).record with doneMask := 0x20 } })
      (fun t => t.record.phase == 6 && t.record.globalStep == 0) = true := by decide +kernel
/-- R541: with PWR_EN asserted and no leak the rails rise. -/
theorem test_main_power :
    after (exec .mainPowerEnable (boot 2 none none fun k => { k with rails := false, pwrEn := true, leak := false }))
      (fun t => t.keeper.rails) = true := by decide +kernel

end Sys2Proof.Tests
end

section
/-! Rill cores, registers: what a write of a scalar or vector register leaves (R156). -/

namespace Sys2Proof.Machine

/-- A scalar write changes the scalar registers only. -/
theorem Core.ws_frame (k : Core) (d : BitVec 5) (v : W64) : k.ws d v = { k with s := (k.ws d v).s } := by
  unfold Core.ws
  split <;> rfl

/-- VECTOR_BITS of the capability table (R156, R209). -/
theorem State.capValues_vectorBits (s : State) : s.capValues 0x0006 = some [4096] := rfl

/-- Settles O1: each clause is a law of the register files or of the capability table. -/
theorem registersKeepWhatIsWritten : Obligations.RegistersKeepWhatIsWritten := by
  unfold Obligations.RegistersKeepWhatIsWritten
  intro k d r v x s
  exact ⟨k.rs_zero, k.ws_zero v, k.rs_ws_self d v, k.rs_ws_ne d r v, k.ws_frame d v, k.rv_wv_self d x, k.rv_wv_ne d r x, rfl,
    s.capValues_vectorBits⟩

end Sys2Proof.Machine
end

section
/-! Rill cores, scalar memory: LD and ST by the branch of their body that runs, and the bytes they move (R164, R169). -/

namespace Sys2Proof.Machine

/-- A loaded byte string widened as WIDTH says (R164): two's complement of its own length for WIDTH 0 to 3, its value above. -/
theorem extend_leNat (w : Nat) (bs : List Byte) (h : bs.length = widthBytes w) :
    extend w (leNat bs) = if w < 4 then
      BitVec.ofInt 64 ((leNat bs : Int) - (if 2 ^ (8 * widthBytes w - 1) ≤ leNat bs then 2 ^ (8 * widthBytes w) else 0))
    else BitVec.ofNat 64 (leNat bs) := by
  have hlt : leNat bs < 2 ^ (8 * widthBytes w) := h ▸ leNat_lt bs
  have hpos : 0 < widthBytes w := Nat.two_pow_pos _
  have half : 2 ^ (8 * widthBytes w) = 2 * 2 ^ (8 * widthBytes w - 1) := by
    rw [← Nat.pow_succ', Nat.succ_eq_add_one, Nat.sub_add_cancel (by omega)]
  have signed : toSigned (8 * widthBytes w) (leNat bs) =
      (leNat bs : Int) - (if 2 ^ (8 * widthBytes w - 1) ≤ leNat bs then 2 ^ (8 * widthBytes w) else 0) := by
    unfold toSigned
    rw [BitVec.toInt_eq_toNat_cond, BitVec.toNat_ofNat, Nat.mod_eq_of_lt hlt]
    push_cast
    by_cases hs : 2 ^ (8 * widthBytes w - 1) ≤ leNat bs
    · rw [if_neg (by omega), if_pos hs]
    · rw [if_pos (by omega), if_neg hs, Int.sub_zero]
  unfold extend sext
  rw [signed]

/-- What a load answers where every byte reads: the bytes of memory in order. -/
theorem loadBytes_read (m : Mem) (a : Nat) (bs : List Byte) (h : ∀ i < bs.length, byteAt m (a + i) = some (bs.getD i 0)) :
    (loadBytes m a bs.length).1.map (fun b => b.getD 0) = bs := by
  rw [loadBytes_fst, List.map_map]
  refine List.ext_getElem (by simp) fun i h1 h2 => ?_
  simp [h i h2, h2]

section
variable {c : CoreId} {f : RFields} {s : State}

/-- WIDTH 7 of LD is reserved (R163, R164). -/
theorem ldBody_reserved (hw : fld f 15 13 = 7) :
    ldBody c f s = s.raiseExc c (illegal (rillWord 0x08 f) dEnc) := by
  unfold ldBody
  simp only [hw, if_true]

/-- WIDTH 7 of ST is reserved (R163, R164). -/
theorem stBody_reserved (hw : fld f 15 13 = 7) :
    stBody c f s = s.raiseExc c (illegal (rillWord 0x09 f) dEnc) := by
  unfold stBody
  simp only [hw, if_true]

variable (hw : fld f 15 13 ≠ 7) (hr : (s.core c).resume = 0)
include hw hr

/-- LD on a core that executes, where its bytes may be accessed, no hold applies and none lies in a word that cannot be used. -/
theorem ldBody_loads
    (ha : accessFault c (s.core c) false (ldAddr (s.core c) f) (widthBytes (fld f 15 13)) 0 = none)
    (hh : s.hazard c false (ldAddr (s.core c) f) (widthBytes (fld f 15 13)) = false)
    (hu : wordFault (s.core c) (ldAddr (s.core c) f) (widthBytes (fld f 15 13)) 0 = none) :
    ldBody c f s =
      let k := s.core c
      let x := loadBytes k.store (ldAddr k f) (widthBytes (fld f 15 13))
      s.putCore c (({ k with store := x.2 } : Core).ws f.d (extend (fld f 15 13) (leNat (x.1.map fun b => b.getD 0)))).advance := by
  unfold ldBody
  simp only [hw, hr, ha, hh, hu, if_false, Nat.reduceLeDiff, Bool.false_eq_true]

/-- ST on a core that executes, where its bytes may be accessed and no hold applies. -/
theorem stBody_stores
    (ha : accessFault c (s.core c) true (ldAddr (s.core c) f) (widthBytes (fld f 15 13)) 0 = none)
    (hh : s.hazard c true (ldAddr (s.core c) f) (widthBytes (fld f 15 13)) = false) :
    stBody c f s =
      let k := s.core c
      let bs := leBytes (widthBytes (fld f 15 13)) (k.rs f.d).toNat
      s.putCore c ({ k with store := storeBytes k.store (ldAddr k f) bs } : Core).advance := by
  unfold stBody
  simp only [hw, hr, ha, hh, if_false, Nat.reduceLeDiff, Bool.false_eq_true]

/-- An LD of which the access check finds a byte raises that byte's cause, with index 0 (R192, R195). -/
theorem ldBody_fault {i : Nat} {e : Exc}
    (ha : accessFault c (s.core c) false (ldAddr (s.core c) f) (widthBytes (fld f 15 13)) 0 = some (i, e)) :
    ldBody c f s = s.raiseExc c { e with index := 0 } := by
  unfold ldBody
  simp only [hw, hr, ha, if_false, Nat.reduceLeDiff]

/-- An ST of which the access check finds a byte raises that byte's cause, with index 0 (R192, R195). -/
theorem stBody_fault {i : Nat} {e : Exc}
    (ha : accessFault c (s.core c) true (ldAddr (s.core c) f) (widthBytes (fld f 15 13)) 0 = some (i, e)) :
    stBody c f s = s.raiseExc c { e with index := 0 } := by
  unfold stBody
  simp only [hw, hr, ha, if_false, Nat.reduceLeDiff]

end

/-- The access check from byte 0 on finds nothing where every byte may be accessed. -/
theorem accessFault_zero_none {c : CoreId} {k : Core} {st : Bool} {a n : Nat}
    (h : ∀ i < n, mayAccess c k st ((a + i) % 2 ^ 64) = true) : accessFault c k st a n 0 = none :=
  accessFault_none c k st a n 0 fun j hj => by rw [Nat.zero_add]; exact h j hj

/-- The access check from byte 0 on finds the first byte that may not be accessed. -/
theorem accessFault_zero_first {c : CoreId} {k : Core} {st : Bool} {a n i : Nat} (hi : i < n)
    (h : ∀ j < i, mayAccess c k st ((a + j) % 2 ^ 64) = true) (hb : mayAccess c k st ((a + i) % 2 ^ 64) = false) :
    accessFault c k st a n 0 = some (i, { code := 2, val := BitVec.ofNat 64 ((a + i) % 2 ^ 64), index := i }) := by
  simpa only [Nat.zero_add] using
    accessFault_first c k st a n 0 i hi (fun j hj => by rw [Nat.zero_add]; exact h j hj) (by rw [Nat.zero_add]; exact hb)

/-- LD from its checks to the widened bytes; the write-back of corrections leaves what memory reads (R251). -/
theorem loadReadsItsBytes : Claims.LoadReadsItsBytes := by
  unfold Claims.LoadReadsItsBytes
  intro c f s hrun hr hwf k w n a hw hacc hh bs hlen hbs
  have hu : wordFault k a n 0 = none := wordFault_none k a n 0 fun j hj => by
    rw [Nat.zero_add, hbs j hj]; rfl
  have hv : (loadBytes k.store a n).1.map (fun b => b.getD 0) = bs := by
    rw [← hlen]
    exact loadBytes_read k.store a bs fun i hi => hbs i (hlen ▸ hi)
  refine ⟨(loadBytes k.store a n).2, ?_, byteAt_loadBytes k.store a n hwf⟩
  calc exec (.ld c f) s = .next (ldBody c f s) := State.rill_ready hrun _
    _ = .next (s.putCore c (({ k with store := (loadBytes k.store a n).2 } : Core).ws f.d
          (extend w (leNat ((loadBytes k.store a n).1.map fun b => b.getD 0)))).advance) :=
        congrArg _ (ldBody_loads hw hr (accessFault_zero_none hacc) hh hu)
    _ = _ := by rw [hv, extend_leNat w bs hlen]; rfl

/-- ST from its checks to the merged words (R252). -/
theorem storeWritesItsBytesOnly : Claims.StoreWritesItsBytesOnly := by
  unfold Claims.StoreWritesItsBytesOnly
  intro c f s hrun hr hwf k w n a hw hacc hh
  have hlen : (leBytes n (k.rs f.d).toNat).length = n := length_leBytes _ _
  refine ⟨storeBytes k.store a (leBytes n (k.rs f.d).toNat), ?_, fun p hp => ?_, fun i hi hs => ?_⟩
  · exact (State.rill_ready hrun _).trans (congrArg _ (stBody_stores hw hr (accessFault_zero_none hacc) hh))
  · exact byteAt_storeBytes_frame _ a _ hwf p (by rwa [hlen])
  · rw [byteAt_storeBytes _ a _ hwf i (by rwa [hlen]) hs, leBytes_getD n _ i hi]

/-- LD and ST stopped by WIDTH 7 or by the first byte out of reach. -/
theorem accessOutsideTheStoreIsRaised : Claims.AccessOutsideTheStoreIsRaised := by
  unfold Claims.AccessOutsideTheStoreIsRaised
  intro c f s hrun hr k w a
  have ld : exec (.ld c f) s = .next (ldBody c f s) := State.rill_ready hrun _
  have st : exec (.st c f) s = .next (stBody c f s) := State.rill_ready hrun _
  rw [ld, st]
  refine ⟨fun hw => ⟨congrArg _ (ldBody_reserved hw), congrArg _ (stBody_reserved hw)⟩, fun hw i hi h hb => ?_,
    fun hw i hi h hb => ?_, fun p hc => ?_⟩
  · rw [ldBody_fault hw hr (accessFault_zero_first hi h hb)]
  · rw [stBody_fault hw hr (accessFault_zero_first hi h hb)]
  · subst hc
    simp [mayAccess]

/-- Settles O6: an access that passes its checks moves its bytes through the code words, and a byte that fails them is the cause. -/
theorem loadsAndStoresMoveTheirBytes : Obligations.LoadsAndStoresMoveTheirBytes :=
  ⟨loadReadsItsBytes, storeWritesItsBytesOnly, accessOutsideTheStoreIsRaised⟩

end Sys2Proof.Machine
end

section
/-! Rill cores, vectors: packed elements and register groups, the run of an instruction over its elements, and the elementwise
instructions (R158 to R162, R186, R193, R196). -/

namespace Sys2Proof.Machine

/-! ## Packed elements -/

/-- An element is a digit in base 2^w. -/
theorem elemOf_eq (w v j : Nat) : elemOf w v j = v / (2 ^ w) ^ j % 2 ^ w := by
  rw [elemOf, Nat.shiftRight_eq_div_pow, Nat.pow_mul]

/-- An element lies in the digits below any higher place. -/
theorem elemOf_mod (w v : Nat) {j m : Nat} (h : j < m) : elemOf w (v % (2 ^ w) ^ m) j = elemOf w v j := by
  obtain ⟨d, rfl⟩ : ∃ d, m = j + (1 + d) := ⟨m - j - 1, by omega⟩
  rw [elemOf_eq, elemOf_eq, Nat.pow_add, Nat.mod_mul_right_div_self, Nat.pow_add, Nat.pow_one, Nat.mod_mul_right_mod]

/-- An element above a place is an element of the digits from that place on. -/
theorem elemOf_div (w v m j : Nat) : elemOf w (v / (2 ^ w) ^ m) j = elemOf w v (m + j) := by
  rw [elemOf_eq, elemOf_eq, Nat.div_div_eq_div_mul, ← Nat.pow_add]

/-- A replaced element, digit by digit: the digits above it, the new digit, and the digits below it. -/
theorem putElem_eq (w v k x : Nat) :
    putElem w v k x = (v / (2 ^ w) ^ k / 2 ^ w * 2 ^ w + x % 2 ^ w) * (2 ^ w) ^ k + v % (2 ^ w) ^ k := by
  rw [putElem, elemOf_eq, Nat.pow_mul]
  generalize (2 ^ w) ^ k = P
  have hv : v / P / 2 ^ w * 2 ^ w * P + v / P % 2 ^ w * P + v % P = v := by
    rw [← Nat.add_mul, Nat.div_add_mod', Nat.div_add_mod']
  rw [Nat.add_mul]
  omega

/-- The digit above a place, read back by division. -/
theorem digits_div {a r B : Nat} (h : r < B) : (a * B + r) / B = a := by
  rw [Nat.mul_comm, Nat.mul_add_div (by omega), Nat.div_eq_of_lt h, Nat.add_zero]

/-- A replaced element reads as the low w bits written, and every other element as before. -/
theorem elemOf_putElem (w v k x j : Nat) : elemOf w (putElem w v k x) j = if j = k then x % 2 ^ w else elemOf w v j := by
  have hP : 0 < (2 ^ w) ^ k := Nat.pow_pos (Nat.two_pow_pos w)
  have hB : x % 2 ^ w < 2 ^ w := Nat.mod_lt _ (Nat.two_pow_pos w)
  have low : putElem w v k x % (2 ^ w) ^ k = v % (2 ^ w) ^ k := by
    rw [putElem_eq, Nat.mul_add_mod', Nat.mod_mod]
  have high : putElem w v k x / (2 ^ w) ^ k = v / (2 ^ w) ^ k / 2 ^ w * 2 ^ w + x % 2 ^ w := by
    rw [putElem_eq, digits_div (Nat.mod_lt _ hP)]
  rcases Nat.lt_trichotomy j k with h | rfl | h
  · rw [if_neg (by omega), ← elemOf_mod w _ h, low, elemOf_mod w v h]
  · rw [if_pos rfl, elemOf_eq, high, Nat.mul_add_mod', Nat.mod_mod]
  · obtain ⟨d, rfl⟩ : ∃ d, j = k + 1 + d := ⟨j - k - 1, by omega⟩
    rw [if_neg (by omega), ← elemOf_div, ← elemOf_div, Nat.pow_add, ← Nat.div_div_eq_div_mul, ← Nat.div_div_eq_div_mul, high,
      Nat.pow_one, digits_div hB]

/-- Elements fill a register. -/
theorem typeWidth_mul (t : Nat) : typeWidth t * (4096 / typeWidth t) = 4096 := by
  unfold typeWidth
  split <;> rfl

/-! ## Groups of vector registers -/

/-- A group that starts at a multiple of its size ends within the 32 registers (R159). -/
theorem base_add_groupSize_le {r : BitVec 5} {g : Nat} (h : baseOk r (groupSize g) = true) : r.toNat + groupSize g ≤ 32 := by
  have hr : r.toNat % groupSize g = 0 := by simpa [baseOk] using h
  have hlt := r.isLt
  have hg : g % 4 < 4 := Nat.mod_lt _ (by decide)
  unfold groupSize at *
  generalize g % 4 = e at *
  interval_cases e <;> omega

theorem regAt_toNat {r : BitVec 5} {i : Nat} (h : r.toNat + i < 32) : (regAt r i).toNat = r.toNat + i := by
  rw [regAt, BitVec.toNat_add, BitVec.toNat_ofNat, Nat.mod_eq_of_lt (by omega : i < 2 ^ 5), Nat.mod_eq_of_lt h]

/-- The registers of a group are distinct. -/
theorem regAt_ne (r : BitVec 5) {i j : Nat} (hi : i < 32) (hj : j < 32) (h : i ≠ j) : regAt r i ≠ regAt r j := by
  intro e
  have := congrArg BitVec.toNat (BitVec.add_right_inj r |>.mp e)
  simp only [BitVec.toNat_ofNat] at this
  omega

/-- A value read from a group depends on the registers of the group only. -/
theorem groupVal_congr {k k' : Core} {r : BitVec 5} {n : Nat} (h : ∀ i < n, k'.rv (regAt r i) = k.rv (regAt r i)) :
    groupVal k' r n = groupVal k r n := by
  induction n with
  | zero => rfl
  | succ n ih => rw [groupVal, groupVal, ih fun i hi => h i (by omega), h n (by omega)]

/-- Writing a group changes vector registers only. -/
theorem putGroup_frame (k : Core) (r : BitVec 5) (v n : Nat) : putGroup k r v n = { k with v := (putGroup k r v n).v } := by
  induction n with
  | zero => rfl
  | succ n ih => rw [putGroup, Core.wv, ih]

/-- Writing a group leaves every register outside it. -/
theorem rv_putGroup_ne (k : Core) (r x : BitVec 5) (v : Nat) {n : Nat} (h : ∀ i < n, x ≠ regAt r i) :
    (putGroup k r v n).rv x = k.rv x := by
  induction n with
  | zero => rfl
  | succ n ih => rw [putGroup, Core.rv_wv_ne _ _ _ _ (h n (by omega)), ih fun i hi => h i (by omega)]

/-- A register below a group, or above it, is none of its registers. -/
theorem ne_regAt {r x : BitVec 5} {n : Nat} (hn : r.toNat + n ≤ 32) (h : x.toNat < r.toNat ∨ r.toNat + n ≤ x.toNat) :
    ∀ i < n, x ≠ regAt r i := by
  intro i hi e
  rw [e, regAt_toNat (by omega)] at h
  omega

/-- A group reads the value written to it, as far as its registers reach. -/
theorem groupVal_putGroup (k : Core) (r : BitVec 5) (v : Nat) {n : Nat} (hn : n ≤ 32) :
    groupVal (putGroup k r v n) r n = v % 2 ^ (4096 * n) := by
  induction n with
  | zero => simp [groupVal, Nat.mod_one]
  | succ n ih =>
    have below : groupVal (putGroup k r v (n + 1)) r n = groupVal (putGroup k r v n) r n :=
      groupVal_congr fun i hi => Core.rv_wv_ne _ _ _ _ (regAt_ne r (by omega) (by omega) (by omega))
    rw [groupVal, below, ih (by omega), putGroup, Core.rv_wv_self, BitVec.toNat_ofNat, Nat.shiftRight_eq_div_pow, Nat.mul_comm (_ % _),
      Nat.mul_add, Nat.mul_one, Nat.pow_add, Nat.mod_mul]

/-- An element of a group that holds a value written to it. -/
theorem elemOf_groupVal_putGroup (k : Core) (r : BitVec 5) (v : Nat) {w e n j : Nat} (hn : n ≤ 32) (hw : w * e = 4096)
    (hj : j < n * e) :
    elemOf w (groupVal (putGroup k r v n) r n) j = elemOf w v j := by
  have hp : 2 ^ (4096 * n) = (2 ^ w) ^ (n * e) := by rw [← hw, ← Nat.pow_mul, Nat.mul_assoc, Nat.mul_comm e n]
  rw [groupVal_putGroup k r v hn, hp, elemOf_mod w v hj]

/-! ## Draws -/

/-- The bank of lanes a core draws from (R188, R304). -/
def Core.bank (k : Core) : Tbl W64 := if k.heldBank then k.heldLanes else k.lanes

/-- `k'` is `k` but for what running elements changes: the flags, the format counters and the lanes. -/
def Core.ranFrom (k k' : Core) : Prop :=
  ∃ flags fmt lanes held, k' = { k with flags := flags, fmt := fmt, lanes := lanes, heldLanes := held }

/-- A draw answers with the next number of its lane (R187, R188). -/
theorem Core.draw_fst (k : Core) (n : Nat) : (k.draw n).1 = (drawFrom (k.bank.get 1 n)).1 := by
  unfold Core.draw Core.bank
  split <;> rfl

/-- A draw steps its lane and no other of its bank. -/
theorem Core.draw_bank (k : Core) (n : Nat) : (k.draw n).2.bank = k.bank.set n (drawFrom (k.bank.get 1 n)).2 := by
  unfold Core.draw Core.bank
  split <;> rfl

/-- A draw changes lanes only. -/
theorem Core.ranFrom_draw {k k' : Core} (h : k.ranFrom k') (n : Nat) : k.ranFrom (k'.draw n).2 := by
  obtain ⟨flags, fmt, lanes, held, rfl⟩ := h
  unfold Core.draw
  split <;> exact ⟨_, _, _, _, rfl⟩

theorem Core.ranFrom_refl (k : Core) : k.ranFrom k := ⟨_, _, _, _, rfl⟩

/-- Accruing flags and counting events change the flags and the format counters only. -/
theorem Core.ranFrom_accrue_count {k k' : Core} (h : k.ranFrom k') (fl : IFlags) (ev : Ev) : k.ranFrom ((k'.accrue fl).count ev) := by
  obtain ⟨flags, fmt, lanes, held, rfl⟩ := h
  exact ⟨_, _, _, _, rfl⟩

theorem Core.ranFrom_te {k k' : Core} (h : k.ranFrom k') : k'.te = k.te := by
  obtain ⟨flags, fmt, lanes, held, rfl⟩ := h
  rfl

theorem Core.ranFrom_frm {k k' : Core} (h : k.ranFrom k') : k'.frm = k.frm := by
  obtain ⟨flags, fmt, lanes, held, rfl⟩ := h
  rfl

theorem Core.ranFrom_rv {k k' : Core} (h : k.ranFrom k') (r : BitVec 5) : k'.rv r = k.rv r := by
  obtain ⟨flags, fmt, lanes, held, rfl⟩ := h
  rfl

/-- The lanes that the next 64 elements from `i` on draw from have given the draws of the elements below, from `start` on (R186). -/
def Core.drawnTo (k : Core) (start i : Nat) (k' : Core) : Prop :=
  ∀ j, i ≤ j → j < i + 64 →
    k'.bank.get 1 (j % 64) = Nat.repeat (fun x => (drawFrom x).2) ((j - start) / 64) (k.bank.get 1 (j % 64))

theorem Core.drawnTo_start (k : Core) (start : Nat) : k.drawnTo start start k := by
  intro j h1 h2
  rw [Nat.div_eq_of_lt (by omega)]
  rfl

/-- The draw of element `i`, once the elements below it have drawn. -/
theorem Core.drawnTo_draw {k k' : Core} {start i : Nat} (h : k.drawnTo start i k') : (k'.draw (i % 64)).1 = k.drawAt start i := by
  rw [Core.draw_fst, h i (by omega) (by omega)]
  rfl

/-- The draw of element `i` makes the lanes ready for the element after it: its own lane for element `i + 64`. -/
theorem Core.drawnTo_succ {k k' : Core} {start i : Nat} (hs : start ≤ i) (h : k.drawnTo start i k') :
    k.drawnTo start (i + 1) (k'.draw (i % 64)).2 := by
  intro j h1 h2
  rw [Core.draw_bank]
  by_cases hj : j = i + 64
  · have lane : j % 64 = i % 64 := by omega
    have turn : (j - start) / 64 = (i - start) / 64 + 1 := by omega
    rw [lane, turn, Tbl.get_set_self, h i (by omega) (by omega)]
    rfl
  · rw [Tbl.get_set_ne _ _ _ _ _ (by omega : j % 64 ≠ i % 64)]
    exact h j (by omega) (by omega)

/-! ## Running an instruction over its elements -/

/-- `k'` is `k` after the elements `start` to `i - 1` of an instruction, each of which drew where the instruction draws. -/
def Core.ranTo (k : Core) (draws : Bool) (start i : Nat) (k' : Core) : Prop :=
  k.ranFrom k' ∧ (draws = true → k.drawnTo start i k')

/-- What the element function of an instruction gives from element `start` on, on a core that has run the elements below:
`val` and the flags `fl`, and one draw from the element's lane where the instruction draws. -/
def ElemGives (k : Core) (draws : Bool) (start : Nat) (fn : Core → Nat → ElemOut) (val : Nat → Nat) (fl : Nat → IFlags) : Prop :=
  ∀ k' i, k.ranTo draws start i k' →
    (fn k' i).val = val i ∧ (fn k' i).fl = fl i ∧ (fn k' i).core = if draws then (k'.draw (i % 64)).2 else k'

theorem Core.ranTo_start (k : Core) (draws : Bool) (start : Nat) : k.ranTo draws start start k :=
  ⟨k.ranFrom_refl, fun _ => k.drawnTo_start start⟩

/-- One element more: its draw, its flags and its events. -/
theorem Core.ranTo_succ {k k' : Core} {draws : Bool} {start i : Nat} (hs : start ≤ i) (h : k.ranTo draws start i k')
    (fl : IFlags) (ev : Ev) :
    k.ranTo draws start (i + 1) (((if draws then (k'.draw (i % 64)).2 else k').accrue fl).count ev) := by
  obtain ⟨hran, hdrawn⟩ := h
  cases draws with
  | false => exact ⟨Core.ranFrom_accrue_count hran fl ev, fun h => nomatch h⟩
  | true => exact ⟨Core.ranFrom_accrue_count (Core.ranFrom_draw hran _) fl ev, fun _ => Core.drawnTo_succ hs (hdrawn rfl)⟩

section
variable {k : Core} {draws : Bool} {start w : Nat} {fn : Core → Nat → ElemOut} {val : Nat → Nat} {fl : Nat → IFlags}

/-- An element that does not trap: it is written, its flags accrue, and the run goes on. -/
theorem runElems_step (h : ElemGives k draws start fn val fl) {n i : Nat} {k' : Core} (hk : k.ranTo draws start i k') (acc : Nat)
    (ht : fl i &&& k.te = 0) :
    runElems w fn (n + 1) i k' acc = runElems w fn n (i + 1)
      (((if draws then (k'.draw (i % 64)).2 else k').accrue (fl i)).count (fn k' i).ev) (putElem w acc i (val i)) := by
  obtain ⟨hval, hfl, hcore⟩ := h k' i hk
  rw [runElems]
  simp only [hval, hfl, hcore, Core.traps, Core.ranFrom_te hk.1, ht, ne_eq, not_true, if_false]

/-- Elements that do not trap are written in turn, before whatever the elements after them do. -/
theorem runElems_run (h : ElemGives k draws start fn val fl) (m : Nat) : ∀ n i k' acc, start ≤ i → k.ranTo draws start i k' →
    (∀ j, i ≤ j → j < i + n → fl j &&& k.te = 0) →
    ∃ acc' k'', runElems w fn (n + m) i k' acc = runElems w fn m (i + n) k'' acc' ∧ k.ranTo draws start (i + n) k'' ∧
      ∀ j, elemOf w acc' j = if i ≤ j ∧ j < i + n then val j % 2 ^ w else elemOf w acc j := by
  intro n
  induction n with
  | zero => exact fun i k' acc _ hk _ => ⟨acc, k', by rw [Nat.zero_add, Nat.add_zero], hk, fun j => by rw [if_neg (by omega)]⟩
  | succ n ih =>
    intro i k' acc hs hk ht
    obtain ⟨acc', k'', hrun, hk'', hacc⟩ := ih (i + 1) _ (putElem w acc i (val i)) (by omega)
      (Core.ranTo_succ hs hk (fl i) (fn k' i).ev) fun j h1 h2 => ht j (by omega) (by omega)
    refine ⟨acc', k'', ?_, by rwa [Nat.add_right_comm i 1 n] at hk'', fun j => ?_⟩
    · rw [Nat.add_right_comm n 1 m, runElems_step h hk acc (ht i (by omega) (by omega)), hrun, Nat.add_right_comm i 1 n,
        Nat.add_assoc i n 1]
    · rw [hacc, elemOf_putElem]
      by_cases hj : j = i
      · rw [if_neg (by omega), if_pos hj, if_pos (by omega), hj]
      · rw [if_neg hj]
        exact if_congr (by omega) rfl rfl

/-- An element that traps stops the run, which writes nothing for it. -/
theorem runElems_trap (h : ElemGives k draws start fn val fl) {n i : Nat} {k' : Core} (hk : k.ranTo draws start i k') (acc : Nat)
    (ht : fl i &&& k.te ≠ 0) : runElems w fn (n + 1) i k' acc = (acc, k', some (i, fl i)) := by
  obtain ⟨-, hfl, -⟩ := h k' i hk
  rw [runElems]
  simp only [hfl, Core.traps, Core.ranFrom_te hk.1]
  rw [if_pos ht]

/-- A run that no element stops: the core writes its destination and is done. -/
theorem State.runVec_done {s : State} {c : CoreId} {d : BitVec 5} {nd n acc : Nat} {k' : Core}
    (h : runElems w fn (n - min (s.core c).resume n) (min (s.core c).resume n) (s.core c) (groupVal (s.core c) d nd) = (acc, k', none)) :
    s.runVec c d nd w n fn = s.putCore c (putGroup k' d (acc % 2 ^ (w * n)) nd).vdone := by
  unfold State.runVec
  simp only [h]

/-- A run that an element stops: the elements below it are written, and its cause is raised. -/
theorem State.runVec_trap {s : State} {c : CoreId} {d : BitVec 5} {nd n acc i : Nat} {k' : Core} {f : IFlags}
    (h : runElems w fn (n - min (s.core c).resume n) (min (s.core c).resume n) (s.core c) (groupVal (s.core c) d nd) =
      (acc, k', some (i, f))) :
    s.runVec c d nd w n fn = (s.putCore c (putGroup k' d acc nd)).raiseExc c (trapExc k' f i) := by
  unfold State.runVec
  simp only [h]

end

/-- Writing a group on a core that ran elements leaves all but its vector registers, flags, counters and lanes. -/
theorem putGroup_ranFrom {k k' : Core} (h : k.ranFrom k') (d : BitVec 5) (v n : Nat) :
    putGroup k' d v n = { k with
      v := (putGroup k' d v n).v, flags := k'.flags, fmt := k'.fmt, lanes := k'.lanes, heldLanes := k'.heldLanes } := by
  obtain ⟨flags, fmt, lanes, held, rfl⟩ := h
  exact putGroup_frame _ d v n

/-- An instruction over elements of which none traps runs to its end. -/
theorem State.vectorDone_of_runVec {s : State} {c : CoreId} {i : Instr} {d : BitVec 5} {g w : Nat} {fn : Core → Nat → ElemOut}
    {draws : Bool} {val : Nat → Nat} {fl : Nat → IFlags} (hw : w * (4096 / w) = 4096) (hd : d.toNat + g ≤ 32)
    (hexec : exec i s = .next (s.runVec c d g w (g * (4096 / w)) fn))
    (h : ElemGives (s.core c) draws (min (s.core c).resume (g * (4096 / w))) fn val fl)
    (ht : ∀ j < g * (4096 / w), fl j &&& (s.core c).te = 0) :
    s.vectorDone c i d g w (min (s.core c).resume (g * (4096 / w))) (g * (4096 / w)) val := by
  generalize hn : g * (4096 / w) = n at *
  generalize hst : min (s.core c).resume n = start at *
  have hle : start ≤ n := by omega
  obtain ⟨acc, k', hrun, ⟨hran, -⟩, hacc⟩ := runElems_run (w := w) h 0 (n - start) start (s.core c)
    (groupVal (s.core c) d g) (Nat.le_refl _) ((s.core c).ranTo_start draws start) fun j _ hj => ht j (by omega)
  rw [← hst] at hrun
  refine ⟨putGroup k' d (acc % 2 ^ (w * n)) g, hexec.trans (congrArg _ (State.runVec_done hrun)), ?_, fun r hr => ?_, fun j hj => ?_⟩
  · have e := putGroup_ranFrom hran d (acc % 2 ^ (w * n)) g
    rw [e]
  · rw [rv_putGroup_ne _ _ _ _ (ne_regAt hd hr), Core.ranFrom_rv hran]
  · have hjn : j < n := hn ▸ hj
    rw [elemOf_groupVal_putGroup _ _ _ (by omega) hw hj, Nat.pow_mul, elemOf_mod w acc hjn, hacc, if_pos hjn]
    by_cases hjs : j < start
    · rw [if_neg (by omega), if_pos hjs]
    · rw [if_pos (by omega), if_neg hjs]

/-! ## The element functions -/

/-- The rounding of element `i` of a JF16 instruction from element `start` on (R179, R186): under FRM 5 with the element's draw. -/
def Core.elemRnd (k : Core) (start i : Nat) : Rnd :=
  if k.frm = 5 then .stoch (draw16 (k.drawAt start i)) else Rnd.ofFrm k.frm

/-- The rounding a JF16 element takes, and the draw it makes for it. -/
theorem Core.jfRnd_eq {k k' : Core} {start i : Nat} (h : k.ranTo (k.frm == 5) start i k') :
    k'.jfRnd (i % 64) = (k.elemRnd start i, if k.frm == 5 then (k'.draw (i % 64)).2 else k') := by
  obtain ⟨hran, hdrawn⟩ := h
  unfold Core.jfRnd Core.elemRnd
  rw [Core.ranFrom_frm hran]
  by_cases hf : k.frm = 5
  · simp only [hf, if_true, beq_self_eq_true, ← Core.drawnTo_draw (hdrawn (by simpa using hf))]
  · simp only [hf, if_false, beq_iff_eq]

/-- A comparison of JF16 codes rounds nothing. -/
theorem fpJf_cmp {f5 : Nat} (h : isCmp f5 = true) (r r' : Rnd) (a b : Nat) : fpJf r f5 a b = fpJf r' f5 a b := by
  unfold fpJf
  rw [if_pos h, if_pos h]

/-- An element of VFP: value and flags of its function (R165, R166). -/
theorem elemGives_fp (k : Core) (t f5 start : Nat) (a b : Nat → Nat) :
    let r (i : Nat) : Nat × IFlags := if t = 2 then ((fpJf (k.elemRnd start i) f5 (a i) (b i)).1, 0)
      else fpBinary (typeFmt t) (Rnd.ofFrm k.frm) f5 (a i) (b i)
    ElemGives k (t == 2 && !isCmp f5 && k.frm == 5) start (fun k' i => fpElem t f5 (i % 64) k' (a i) (b i))
      (fun i => (r i).1) (fun i => (r i).2) := by
  intro r k' i h
  simp only [r, fpElem]
  by_cases ht : t = 2
  · cases hc : isCmp f5 with
    | true => simp [ht, fpJf_cmp hc (k.elemRnd start i) .even]
    | false =>
      have hj := Core.jfRnd_eq (k := k) (k' := k') (start := start) (i := i) (by simpa [ht, hc] using h)
      simp [ht, hj]
  · simp [ht, Core.ranFrom_frm h.1]

/-- An element of a fused multiply-add: value and flags (R163, R179). -/
theorem elemGives_fma (k : Core) (t start : Nat) (negP negC : Bool) (a b x : Nat → Nat) :
    let r (i : Nat) : Nat × IFlags := if t = 2 then ((jfFma (k.elemRnd start i) negP negC (a i) (b i) (x i)).1, 0)
      else (typeFmt t).fma (Rnd.ofFrm k.frm) negP negC (a i) (b i) (x i)
    ElemGives k (t == 2 && k.frm == 5) start (fun k' i => fmaElem t (i % 64) negP negC k' (a i) (b i) (x i))
      (fun i => (r i).1) (fun i => (r i).2) := by
  intro r k' i h
  simp only [r, fmaElem]
  by_cases ht : t = 2
  · have hj := Core.jfRnd_eq (k := k) (k' := k') (start := start) (i := i) (by simpa [ht] using h)
    simp [ht, hj]
  · simp [ht, Core.ranFrom_frm h.1]

/-- An element of VINT raises no flag and draws nothing. -/
theorem elemGives_int (k : Core) (start : Nat) (val : Nat → Nat) :
    ElemGives k false start (fun k' i => { val := val i, core := k' }) val (fun _ => 0) :=
  fun _ _ _ => ⟨rfl, rfl, rfl⟩

/-! ## Operands and checks -/

/-- The elements of vector operand `r` of core `k` (R158, R159). -/
def Core.vecElem (k : Core) (w g : Nat) (r : BitVec 5) (i : Nat) : Nat := elemOf w (groupVal k r g) i

/-- The elements of operand B: of a group, or with S set the scalar register in every element (R162). -/
def Core.operB (k : Core) (f : RFields) (w g i : Nat) : Nat :=
  if fld f 0 0 == 1 then (k.rs f.b).toNat % 2 ^ w else elemOf w (groupVal k f.b g) i

theorem Oper.at_operB (k : Core) (f : RFields) (w g i : Nat) :
    (if fld f 0 0 == 1 then (⟨w, (k.rs f.b).toNat, true⟩ : Oper) else ⟨w, groupVal k f.b g, false⟩).at i = k.operB f w g i := by
  unfold Core.operB
  cases fld f 0 0 == 1 <;> rfl

/-- An instruction whose checks all pass goes on. -/
theorem State.checked_pass {checks : List (Bool × Nat)} (h : ∀ p ∈ checks, p.1 = true) (s : State) (c : CoreId) (word : Nat)
    (body : State → State) : s.checked c word checks body = body s := by
  unfold State.checked
  rw [List.find?_eq_none.mpr fun p hp => by simp [h p hp]]

/-- The operands of a vector instruction pass the checks of R159 and R160, VB only where it is read as a group. -/
def operandsOk (f : RFields) (g : Nat) (readsB : Bool) : Bool :=
  baseOk f.d g && baseOk f.a g && inPlaceOk f.d g f.a g && (!readsB || (baseOk f.b g && inPlaceOk f.d g f.b g))

/-- VFP whose checks pass runs over its elements (R163). -/
theorem exec_vfp {c : CoreId} {f : RFields} {s : State} (hrun : s.ready c true) :
    let k := s.core c
    let t := fld f 3 1
    let f5 := fld f 10 6
    let g := groupSize (fld f 5 4)
    let w := typeWidth t
    fpOk t f5 = true → operandsOk f g (!(fld f 0 0 == 1) && !isUnary f5) = true →
    (t == 2 && !isCmp f5 && k.frm == 5 && k.inHandler) = false →
    exec (.vfp c f) s = .next (s.runVec c f.d g w (g * (4096 / w)) fun k' i =>
      fpElem t f5 (i % 64) k' (k.vecElem w g f.a i) (k.operB f w g i)) := by
  intro k t f5 g w hok hops hdraw
  simp only [operandsOk, Bool.and_eq_true, Bool.or_eq_true] at hops
  obtain ⟨⟨⟨hd, ha⟩, hda⟩, hb⟩ := hops
  rw [show exec (.vfp c f) s = execVfp c f s from rfl, execVfp, State.rill_ready hrun]
  refine congrArg Host.Outcome.next ((State.checked_pass ?_ s c _ _).trans ?_)
  · simp only [List.forall_mem_cons, Bool.and_eq_true, Bool.or_eq_true]
    exact ⟨hok, ⟨⟨hd, ha⟩, hb.imp_right And.left⟩, ⟨hda, hb.imp_right And.right⟩, by rw [hdraw]; rfl, fun _ h => nomatch h⟩
  · simp only [Oper.at_operB]
    rfl

/-- A fused multiply-add whose checks pass runs over its elements (R163). -/
theorem State.vfmaOp_runs {c : CoreId} {f : RFields} {s : State} (hrun : s.ready c true) (op : Nat) (negP negC : Bool) :
    let k := s.core c
    let t := fld f 3 1
    let g := groupSize (fld f 5 4)
    let w := typeWidth t
    let vc : BitVec 5 := BitVec.ofNat 5 (fld f 10 6)
    t ≤ 2 → operandsOk f g (!(fld f 0 0 == 1)) = true → baseOk vc g = true → inPlaceOk f.d g vc g = true →
    (t == 2 && k.frm == 5 && k.inHandler) = false →
    s.vfmaOp c op negP negC f = .next (s.runVec c f.d g w (g * (4096 / w)) fun k' i =>
      fmaElem t (i % 64) negP negC k' (k.vecElem w g f.a i) (k.operB f w g i) (k.vecElem w g vc i)) := by
  intro k t g w vc ht hops hc hdc hdraw
  simp only [operandsOk, Bool.and_eq_true, Bool.or_eq_true, Bool.not_not] at hops
  obtain ⟨⟨⟨hd, ha⟩, hda⟩, hb⟩ := hops
  rw [State.vfmaOp, State.rill_ready hrun]
  refine congrArg Host.Outcome.next ((State.checked_pass ?_ s c _ _).trans ?_)
  · simp only [List.forall_mem_cons, Bool.and_eq_true, Bool.or_eq_true]
    exact ⟨decide_eq_true ht, ⟨⟨⟨hd, ha⟩, hb.imp_right And.left⟩, hc⟩, ⟨⟨hda, hb.imp_right And.right⟩, hdc⟩,
      by rw [hdraw]; rfl, fun _ h => nomatch h⟩
  · simp only [Oper.at_operB]
    rfl

/-- VINT whose checks pass runs over its elements (R163). -/
theorem exec_vint {c : CoreId} {f : RFields} {s : State} (hrun : s.ready c true) :
    let k := s.core c
    let t := fld f 3 1
    let f5 := fld f 10 6
    let g := groupSize (fld f 5 4)
    let w := typeWidth t
    3 ≤ t → t ≤ 6 → f5 ≤ 15 → operandsOk f g (!(fld f 0 0 == 1)) = true →
    exec (.vint c f) s = .next (s.runVec c f.d g w (g * (4096 / w)) fun k' i =>
      { val := (intFn w f5 (k.vecElem w g f.a i) (k.operB f w g i)).getD 0, core := k' }) := by
  intro k t f5 g w ht ht' hf hops
  simp only [operandsOk, Bool.and_eq_true, Bool.or_eq_true, Bool.not_not] at hops
  obtain ⟨⟨⟨hd, ha⟩, hda⟩, hb⟩ := hops
  rw [show exec (.vint c f) s = execVint c f s from rfl, execVint, State.rill_ready hrun]
  refine congrArg Host.Outcome.next ((State.checked_pass ?_ s c _ _).trans ?_)
  · simp only [List.forall_mem_cons, Bool.and_eq_true, Bool.or_eq_true]
    exact ⟨⟨⟨decide_eq_true ht, decide_eq_true ht'⟩, decide_eq_true hf⟩, ⟨⟨hd, ha⟩, hb.imp_right And.left⟩,
      ⟨hda, hb.imp_right And.right⟩, fun _ h => nomatch h⟩
  · simp only [Oper.at_operB]
    rfl

/-- A run that no element stops, for each of the five instructions: VFP, the three fused multiply-adds by one argument, and VINT. -/
theorem elementwiseInstructionsWriteEveryElement : Claims.ElementwiseInstructionsWriteEveryElement := by
  unfold Claims.ElementwiseInstructionsWriteEveryElement
  intro c f s hrun k t f5 g w n start sc a b vc x mode jf two three four mayDraw fma fp
  have hw : w * (4096 / w) = 4096 := typeWidth_mul t
  have base (h : two = true) : f.d.toNat + g ≤ 32 := by
    simp only [two, Bool.and_eq_true] at h
    exact base_add_groupSize_le h.1.1
  have two_of_three (h : three = true) : two = true := by
    simp only [three, Bool.and_eq_true] at h
    exact h.1
  have reads_of_three (h : three = true) : operandsOk f g (!sc) = true := by
    simpa [operandsOk, two, three] using h
  refine ⟨fun hok hops hmay ht => ?_, fun ht2 hfour hmay => ?_, fun h3 h6 hf5 hthree => ?_⟩
  · obtain ⟨htwo, hread⟩ : two = true ∧ operandsOk f g (!sc && !isUnary f5) = true := by
      cases hu : isUnary f5 with
      | true =>
        rw [hu, if_pos rfl] at hops
        exact ⟨hops, by simpa [operandsOk, two] using hops⟩
      | false =>
        rw [hu, if_neg Bool.false_ne_true] at hops
        exact ⟨two_of_three hops, by simpa using reads_of_three hops⟩
    have hdraw : (t == 2 && !isCmp f5 && k.frm == 5 && k.inHandler) = false := by
      by_cases h : t = 2
      · rcases hmay h with hc | hf | hh <;> simp [*]
      · simp [h]
    exact State.vectorDone_of_runVec hw (base htwo) (exec_vfp hrun hok hread hdraw) (elemGives_fp k t f5 start a b) ht
  · simp only [four, Bool.and_eq_true] at hfour
    obtain ⟨⟨hthree, hc⟩, hdc⟩ := hfour
    have hdraw : (t == 2 && k.frm == 5 && k.inHandler) = false := by
      by_cases h : t = 2
      · rcases hmay h with hf | hh <;> simp [*]
      · simp [h]
    have done (op : Nat) (negP negC : Bool) (i : Instr) (he : exec i s = s.vfmaOp c op negP negC f)
        (ht : ∀ i < n, (fma negP negC i).2 &&& k.te = 0) : s.vectorDone c i f.d g w start n fun i => (fma negP negC i).1 :=
      State.vectorDone_of_runVec hw (base (two_of_three hthree))
        (he.trans (State.vfmaOp_runs hrun op negP negC ht2 (reads_of_three hthree) hc hdc hdraw))
        (elemGives_fma k t start negP negC a b x) ht
    exact ⟨done _ _ _ _ rfl, done _ _ _ _ rfl, done _ _ _ _ rfl⟩
  · exact State.vectorDone_of_runVec hw (base (two_of_three hthree)) (exec_vint hrun h3 h6 hf5 (reads_of_three hthree))
      (elemGives_int k start fun i => (intFn w f5 (a i) (b i)).getD 0) fun _ _ => BitVec.zero_and

/-! ## A trapping element -/

/-- A cause sets IN_HANDLER (R195, R201). -/
theorem Exc.word_inHandler (e : Exc) : e.word.getLsbD 31 = true := by
  have hfl := e.eflags.isLt
  have hn : e.code % 256 + 256 * (e.detail % 256) + 65536 * e.eflags.toNat < 2 ^ 31 := by omega
  rw [Exc.word, BitVec.getLsbD_ofNat, Nat.add_comm, Nat.testBit_two_pow_add_eq, Nat.testBit_lt_two_pow hn]
  rfl

/-- CODE of a cause (R201). -/
theorem Exc.word_code (e : Exc) : e.word.extractLsb' 0 8 = BitVec.ofNat 8 e.code := by
  apply BitVec.eq_of_toNat_eq
  have low : e.code % 256 + 256 * (e.detail % 256) + 65536 * e.eflags.toNat + 2 ^ 31 =
      e.code % 256 + 2 ^ 8 * (e.detail % 256 + 256 * e.eflags.toNat + 2 ^ 23) := by ring
  rw [Exc.word, BitVec.extractLsb'_toNat, BitVec.toNat_ofNat, BitVec.toNat_ofNat, Nat.shiftRight_zero,
    Nat.mod_mod_of_dvd _ (by decide : 2 ^ 8 ∣ 2 ^ 32), low, Nat.add_mul_mod_self_left]
  exact Nat.mod_mod _ _

/-- The priority of R193 counts from FP_INVALID, code 4. -/
theorem trapCode_eq (t : IFlags) : trapCode t = 4 + (if t.getLsbD 0 then 0 else if t.getLsbD 1 then 1 else if t.getLsbD 2 then 2
    else if t.getLsbD 3 then 3 else 4) := by
  unfold trapCode
  split_ifs <;> rfl

/-- The cause registers hold no vector register, and neither does the pc. -/
theorem Core.rv_enterExc (k : Core) (e : Exc) (pc : W64) (r : BitVec 5) : (k.enterExc e pc).rv r = k.rv r := by
  have hv : (k.enterExc e pc).v = k.v := by
    unfold Core.enterExc
    rfl
  rw [Core.rv, hv, Core.rv]

theorem Core.rv_setPc (k : Core) (pc : W64) (r : BitVec 5) : ({ k with pc := pc } : Core).rv r = k.rv r := rfl

/-- A run from element 0 whose first trapping element is `e`: the elements below are written, and the cause of `e` is raised. -/
theorem State.runVec_first_trap {s : State} {c : CoreId} {d : BitVec 5} {g w e : Nat} {fn : Core → Nat → ElemOut}
    {draws : Bool} {val : Nat → Nat} {fl : Nat → IFlags} (hw : w * (4096 / w) = 4096) (hd : d.toNat + g ≤ 32)
    (hr : (s.core c).resume = 0) (h : ElemGives (s.core c) draws 0 fn val fl) (he : e < g * (4096 / w))
    (hlow : ∀ i < e, fl i &&& (s.core c).te = 0) (htrap : fl e &&& (s.core c).te ≠ 0) :
    ∃ k' : Core, s.runVec c d g w (g * (4096 / w)) fn = (s.putCore c k').raiseExc c (trapExc (s.core c) (fl e) e) ∧
      k' = { s.core c with v := k'.v, flags := k'.flags, fmt := k'.fmt, lanes := k'.lanes, heldLanes := k'.heldLanes } ∧
      ∀ i < g * (4096 / w), elemOf w (groupVal k' d g) i = if i < e then val i % 2 ^ w else elemOf w (groupVal (s.core c) d g) i := by
  obtain ⟨m, hm⟩ : ∃ m, g * (4096 / w) = e + (m + 1) := ⟨g * (4096 / w) - e - 1, by omega⟩
  obtain ⟨acc, k', hrun, hk', hacc⟩ := runElems_run (w := w) h (m + 1) e 0 (s.core c) (groupVal (s.core c) d g) (Nat.le_refl _)
    ((s.core c).ranTo_start draws 0) fun j _ hj => hlow j (by omega)
  rw [Nat.zero_add] at hk' hrun
  rw [runElems_trap h hk' acc htrap] at hrun
  refine ⟨putGroup k' d acc g, ?_, ?_, fun i hi => ?_⟩
  · rw [State.runVec_trap (by rw [hr, hm]; exact hrun)]
    simp only [trapExc, Core.traps, Core.ranFrom_te hk'.1]
  · have e := putGroup_ranFrom hk'.1 d acc g
    rw [e]
  · rw [elemOf_groupVal_putGroup _ _ _ (by omega) hw hi, hacc]
    exact if_congr (by omega) rfl rfl

/-- A VFP stopped by its first trapping element, and the exception entry from the core it leaves. -/
theorem trappingElementStopsTheInstruction : Claims.TrappingElementStopsTheInstruction := by
  unfold Claims.TrappingElementStopsTheInstruction
  intro c f s hrun hr hh k t f5 g w b fp ht hf5 hd ha hda hb e he hlow htrap
  have ht2 : t ≠ 2 := by omega
  have hok : fpOk t f5 = true := by simp [fpOk, ht2, hf5]; omega
  have hread : operandsOk f g (!(fld f 0 0 == 1) && !isUnary f5) = true := by
    rcases hb with hb | hb | hb <;> simp [operandsOk, hd, ha, hda, hb]
  have hfp (i : Nat) : (if t = 2 then ((fpJf (k.elemRnd 0 i) f5 (k.vecElem w g f.a i) (k.operB f w g i)).1, 0)
      else fpBinary (typeFmt t) (Rnd.ofFrm k.frm) f5 (k.vecElem w g f.a i) (k.operB f w g i)) = fp i := by
    rw [if_neg ht2]
    simp only [fp, b, Core.vecElem, Core.operB, beq_iff_eq]
  have hgives := elemGives_fp k t f5 0 (k.vecElem w g f.a) (k.operB f w g)
  simp only [hfp] at hgives
  obtain ⟨k', hvec, hk', helem⟩ :=
    State.runVec_first_trap (typeWidth_mul t) (base_add_groupSize_le hd) hr hgives he hlow htrap
  have hin : ((s.putCore c k').core c).inHandler = false := by
    rw [State.core_putCore, hk']
    exact hh
  have hdraw : (t == 2 && !isCmp f5 && k.frm == 5 && k.inHandler) = false := by simp only [beq_false_of_ne ht2, Bool.false_and]
  have hexec := exec_vfp hrun hok hread hdraw
  rw [hvec, State.raiseExc_entry _ _ _ hin, State.core_putCore, State.putCore_putCore] at hexec
  refine ⟨_, hexec, ?_⟩
  rw [State.core_putCore]
  refine ⟨Exc.word_inHandler _, rfl, by rw [hk']; rfl, by rw [hk'], rfl, ?_, fun i hi => ?_⟩
  · exact (Exc.word_code _).trans (congrArg _ (trapCode_eq _))
  · rw [← helem i hi]
    exact congrArg (elemOf w · i) (groupVal_congr fun _ _ => (Core.rv_setPc ..).trans (Core.rv_enterExc ..))

/-- Settles O9: the run over the elements writes each in turn, to the end or to the first that traps. -/
theorem elementwiseInstructionsWriteOrTrap : Obligations.ElementwiseInstructionsWriteOrTrap :=
  ⟨elementwiseInstructionsWriteEveryElement, trappingElementStopsTheInstruction⟩

end Sys2Proof.Machine
end

section
/-! Step survival: what the predecessor's reservoir entry and its acknowledgement leave, and the rank that an entry missing in RESERVE
makes suspected (R322 to R324, R428). -/

namespace Sys2Proof

/-- A table lists what was written at a number. -/
theorem Tbl.find?_set_self {α : Type} (t : Tbl α) (k : Nat) (v : α) : (t.set k v).find? (fun p => p.1 == k) = some (k, v) := by
  induction t with
  | nil => simp [Tbl.set]
  | cons p t ih =>
    obtain ⟨k', v'⟩ := p
    by_cases h : k' = k
    · simp [Tbl.set, h]
    · simp [Tbl.set, h, ih]

namespace Machine

/-! ## Writes of the tiers -/

/-- A word put into the tiers changes nothing else. -/
theorem State.tierPut_frame (s : State) (a : Nat) (w : List Byte) : ∃ m, s.tierPut a w = { s with tiers := m } := by
  unfold State.tierPut
  split
  · exact ⟨s.tiers, rfl⟩
  · exact ⟨_, rfl⟩

/-- A run of words put into the tiers changes nothing else. -/
theorem State.writeWords_frame (ws : List (Option (List Byte))) : ∀ (s : State) (a : Nat), ∃ m,
    State.writeWords ws s a = { s with tiers := m } := by
  induction ws with
  | nil => exact fun s _ => ⟨s.tiers, rfl⟩
  | cons w ws ih =>
    intro s a
    unfold State.writeWords
    cases s.canon a with
    | none => exact ih s (a + 32)
    | some c =>
      simp only []
      obtain ⟨m, hput⟩ := s.tierPut_frame c _
      rw [hput]
      exact ih { s with tiers := m } (a + 32)

/-- Bytes put into the tiers change nothing else. -/
theorem State.writeBytes_frame (s : State) (a : Nat) (bs : List Byte) : ∃ m, s.writeBytes a bs = { s with tiers := m } :=
  State.writeWords_frame _ s a

/-- Steps that each change the tiers alone change nothing else together. -/
theorem State.foldl_tiers_frame {α : Type} {f : State → α → State} (hf : ∀ s x, ∃ m, f s x = { s with tiers := m })
    (l : List α) : ∀ s : State, ∃ m, l.foldl f s = { s with tiers := m } := by
  induction l with
  | nil => exact fun s => ⟨s.tiers, rfl⟩
  | cons x l ih =>
    intro s
    obtain ⟨m, hx⟩ := hf s x
    rw [List.foldl_cons, hx]
    exact ih { s with tiers := m }

/-! ## The ring and RESERVE -/

/-- A kept entry changes the tiers, its slot of the ring and the note that it is complete (R319, R322). -/
theorem State.keepEntry_frame (s : State) (i : Image) (e : ResEntry) : ∃ m, s.keepEntry i e =
    { s with tiers := m, job := { s.job with
        ring := s.job.ring.set (e.globalStep.toNat % (s.job.policy.d + 1)) { e with grads := [] }, predComplete := true } } := by
  unfold State.keepEntry
  obtain ⟨m, hfixed⟩ := s.writeBytes_frame (s.ringAddr i (e.globalStep.toNat % (s.job.policy.d + 1))) e.fixed
  simp only [hfixed]
  obtain ⟨m', hgrads⟩ := State.foldl_tiers_frame (fun (t : State) (p : Nat × List Byte) =>
    t.writeBytes_frame (t.gradAddr i (e.globalStep.toNat % (s.job.policy.d + 1)) p.1) (fitBytes 2080 p.2))
    ((i.shardRecords ({ s with tiers := m } : State).predecessor).zip e.grads) { s with tiers := m }
  rw [hgrads]
  exact ⟨m', rfl⟩

/-- A bit that is set reads as one. -/
theorem getLsbD_setBit_self {w : Nat} (x : BitVec w) {n : Nat} (h : n < w) : (setBit x n true).getLsbD n = true := by
  have hmask : (BitVec.ofNat w (1 * 2 ^ n)).getLsbD n = true := by
    rw [BitVec.getLsbD_ofNat, Nat.one_mul, Nat.testBit_two_pow_self, decide_eq_true h]
    rfl
  simp only [setBit, setBits, if_true, Nat.add_sub_cancel_left, Nat.pow_one, Nat.add_one_sub_one, BitVec.getLsbD_or,
    BitVec.getLsbD_and, hmask, Bool.and_true, Bool.or_true]

/-- The check of RESERVE notes whether the lanes are loaded, and completes the phase once all three conditions hold (R324). -/
theorem State.reserveCheck_frame (s : State) : ∃ (b : Bool) (r : StepRecord),
    s.reserveCheck = { s with job := { s.job with heldLoaded := b }, record := r } ∧
    (s.record.phase = 7 → s.job.acked = true → s.job.predComplete = true → b = true → r.doneMask.getLsbD 7 = true) := by
  unfold State.reserveCheck
  generalize (s.job.predComplete && (match s.predEntry with | some e => s.heldLanesMatch e | none => false)) = b
  simp only []
  split
  · exact ⟨b, _, rfl, fun _ _ _ _ => getLsbD_setBit_self _ (by decide)⟩
  · next hwait => exact ⟨b, _, rfl, fun hp ha hc hb => absurd (by rw [hp, ha, hc, hb]; rfl) hwait⟩

/-! ## The checks of an entry (R323) -/

/-- An entry is accepted where none of the cases of R323 applies. -/
theorem State.entryFault_eq_none_iff {s : State} {i : Image} (e : ResEntry) (hi : s.job.image = some i) :
    s.entryFault e = none ↔ e.globalStep = s.record.globalStep ∧ e.sourceRank = s.predecessor ∧ e.epoch = s.record.epoch ∧
      e.imageHash = i.hash ∧ e.gradRecords = (i.shardRecords s.predecessor).length ∧ e.wordsOk = true := by
  rw [State.entryFault, hi, Option.any_some, Option.any_some, eq_comm (a := e.imageHash), eq_comm (a := e.gradRecords)]
  split_ifs <;> simp_all

/-- A discarded entry has one of the six reasons of R323. -/
theorem State.entryFault_mem {s : State} {e : ResEntry} {r : Nat} (h : s.entryFault e = some r) : 1 ≤ r ∧ r ≤ 6 := by
  unfold State.entryFault at h
  split_ifs at h <;> cases h <;> decide

/-- R323: an entry that fails a check is counted and recorded. -/
theorem exec_reserveEntryReceive_fault {s : State} {e : ResEntry} {r : Nat} (hrun : s.job.running = true)
    (hi : s.job.image.isSome = true) (h : s.entryFault e = some r) :
    exec (.reserveEntryReceive e) s =
      .next (({ s with job := { s.job with cnt := bump s.job.cnt 5 } } : State).event 0x0042 2 srcFw [e.sourceRank, r]) := by
  rw [show exec (.reserveEntryReceive e) s = execReserveEntryReceive e s from rfl, execReserveEntryReceive,
    if_neg (by simp [hrun, Option.isSome_iff_ne_none.mp hi]), h]

/-- R322: an entry that passes the checks is kept and acknowledged, and RESERVE checked. -/
theorem exec_reserveEntryReceive_accept {s : State} {i : Image} {e : ResEntry} (hrun : s.job.running = true)
    (hi : s.job.image = some i) (h : s.entryFault e = none) :
    exec (.reserveEntryReceive e) s =
      .next ((s.keepEntry i e).send (.packet e.sourceRank "RESERVE_ACK" [e.globalStep.toNat, e.gradRecords])).reserveCheck := by
  rw [show exec (.reserveEntryReceive e) s = execReserveEntryReceive e s from rfl, execReserveEntryReceive,
    if_neg (by simp [hrun, hi]), h, hi]
  rfl

/-- R322, R324: the acknowledgement of the own entry is noted, and RESERVE checked. -/
theorem exec_reserveAckReceive {s : State} {i : Image} (hrun : s.job.running = true) (hi : s.job.image = some i)
    (hout : s.job.outgoing.isSome = true) :
    exec (.reserveAckReceive s.partnerRank s.record.globalStep (i.shardRecords s.coll.rank).length) s =
      .next ({ s with job := { s.job with acked := true } } : State).reserveCheck := by
  rw [show ∀ a b c, exec (.reserveAckReceive a b c) s = execReserveAckReceive a b c s from fun _ _ _ => rfl, execReserveAckReceive,
    if_pos (by simp [hrun, hi, hout])]

/-- An entry's checks, its place in the ring and its acknowledgement, and the acknowledgement of the own entry. -/
theorem reservoirEntriesAreCheckedAndAcknowledged : Claims.ReservoirEntriesAreCheckedAndAcknowledged := by
  unfold Claims.ReservoirEntriesAreCheckedAndAcknowledged
  intro e i s good own hrun hi
  have hfault : s.entryFault e = none ↔ good := State.entryFault_eq_none_iff e hi
  refine ⟨fun hgood => ?_, fun hbad => ?_, fun hout => ?_⟩
  · refine ⟨_, exec_reserveEntryReceive_accept hrun hi (hfault.mpr hgood), ?_⟩
    obtain ⟨m, hkeep⟩ := s.keepEntry_frame i e
    obtain ⟨b, r, hcheck, -⟩ :=
      ((s.keepEntry i e).send (.packet e.sourceRank "RESERVE_ACK" [e.globalStep.toNat, e.gradRecords])).reserveCheck_frame
    rw [hcheck, hkeep, ← hgood.1]
    exact ⟨rfl, rfl, Tbl.find?_set_self _ _ _⟩
  · obtain ⟨reason, hreason⟩ := Option.ne_none_iff_exists'.mp (mt hfault.mp hbad)
    obtain ⟨hlow, hhigh⟩ := State.entryFault_mem hreason
    exact ⟨reason, hlow, hhigh, exec_reserveEntryReceive_fault hrun (by rw [hi]; rfl) hreason⟩
  · refine ⟨_, exec_reserveAckReceive hrun hi hout, ?_⟩
    obtain ⟨b, r, hcheck, hdone⟩ := ({ s with job := { s.job with acked := true } } : State).reserveCheck_frame
    rw [hcheck]
    exact ⟨rfl, fun hp hc hb => hdone hp rfl hc hb⟩

/-! ## Suspicion (R428 to R430) -/

/-- Messages made from the step record and sent in a row go to the end of the outbox. -/
theorem State.foldl_send {α : Type} (f : StepRecord → α → Msg) (l : List α) : ∀ s : State,
    l.foldl (fun (t : State) x => t.send (f t.record x)) s = { s with outbox := s.outbox ++ l.map (f s.record) } := by
  induction l with
  | nil => intro s; simp
  | cons x l ih =>
    intro s
    rw [List.foldl_cons, ih]
    simp [State.send]

/-- A proposal changes the engine, HELD and the outbox, and no rank's suspicion (R430). -/
theorem State.propose_frame (s : State) (entry : Option (Nat × BitVec 15 × Nat)) : ∃ (c : Coll) (r : StepRecord) (o : List Msg),
    s.propose entry = { s with coll := c, record := r, outbox := o } ∧ c.suspects = s.coll.suspects := by
  unfold State.propose
  exact ⟨_, _, _, State.foldl_send (fun r x => .proposal x "PROPOSE" r.epoch s.coll.suspects) _ _, rfl⟩

/-- Where the membership logic takes no part, nothing is suspected (R428). -/
theorem State.suspectRanks_of_not_isMember {s : State} (h : s.isMember = false) (rs : List Nat) : s.suspectRanks rs = s := by
  unfold State.suspectRanks
  rw [if_pos (by simp [h])]

/-- A member that comes to suspect one rank adds it to those it suspects; beyond the engine's state, HELD and the outbox change at most
(R428 to R430). -/
theorem State.suspectRanks_new {s : State} {x : Nat} (hm : s.isMember = true) (hact : x ∈ s.actives) (hself : x ≠ s.coll.rank)
    (hnew : x ∉ s.coll.suspects) : ∃ (c : Coll) (r : StepRecord) (o : List Msg),
    s.suspectRanks [x] = { s with coll := c, record := r, outbox := o } ∧ c.suspects = s.coll.suspects ++ [x] := by
  have hfilter : ([x].filter fun r => s.actives.contains r && r != s.coll.rank && !s.coll.suspects.contains r) = [x] := by
    simp [hact, hself, hnew]
  rw [State.suspectRanks, hfilter, if_neg (by simp [hm])]
  rw [show [x].eraseDups = [x] from rfl]
  simp only []
  split
  · exact ⟨_, _, _, rfl, rfl⟩
  · split
    · split
      · exact State.propose_frame _ none
      · exact ⟨_, _, _, rfl, rfl⟩
    · exact ⟨_, _, _, rfl, rfl⟩

/-! ## The deadline of RESERVE (R324) -/

/-- R324: in RESERVE, the silent rank of a missing entry is recorded and suspected. -/
theorem exec_reserveTimeout {s : State} (silent : Nat) (hrun : s.job.running = true) (hp : s.record.phase = 7)
    (hdone : s.record.done 7 = false) :
    exec (.reserveTimeout silent) s =
      .next (if (silent = s.partnerRank ∧ s.job.acked = false) ∨ (silent = s.predecessor ∧ s.job.predComplete = false)
        then (s.event 0x0043 2 srcFw [silent]).suspectRanks [silent] else s) := by
  rw [show exec (.reserveTimeout silent) s = execReserveTimeout silent s from rfl, execReserveTimeout]
  exact congrArg Host.Outcome.next (if_congr (by simp [hrun, hp, hdone]) rfl rfl)

/-- The record of the silent rank, and its suspicion by a member. -/
theorem reserveTimeoutNamesTheSilentRank : Claims.ReserveTimeoutNamesTheSilentRank := by
  unfold Claims.ReserveTimeoutNamesTheSilentRank
  intro silent s hrun hp hdone missing
  have hevent := s.event_frame 0x0043 2 srcFw [silent]
  refine ⟨fun hmiss hm => ?_, fun hmiss hm hact hself hnew => ?_, fun hmiss => ?_⟩
  · rw [exec_reserveTimeout silent hrun hp hdone, if_pos hmiss, State.suspectRanks_of_not_isMember]
    rw [hevent]
    exact hm
  · rw [exec_reserveTimeout silent hrun hp hdone, if_pos hmiss]
    refine ⟨_, rfl, ?_⟩
    generalize s.event 0x0043 2 srcFw [silent] = t at hevent ⊢
    obtain ⟨c, r, o, hsuspect, hadd⟩ := State.suspectRanks_new (s := t) (x := silent)
      (by rw [hevent]; exact hm) (by rw [hevent]; exact hact) (by rw [hevent]; exact hself) (by rw [hevent]; exact hnew)
    rw [hsuspect]
    exact ⟨by rw [hadd, hevent], by rw [hevent], by rw [hevent], rfl⟩
  · rw [exec_reserveTimeout silent hrun hp hdone, if_neg hmiss]

/-- Settles O24: the checks of an arriving entry, and the deadline of a missing one. -/
theorem reservoirTakesEntriesOrTimesOut : Obligations.ReservoirTakesEntriesOrTimesOut :=
  ⟨reservoirEntriesAreCheckedAndAcknowledged, reserveTimeoutNamesTheSilentRank⟩

end Machine
end Sys2Proof
end

section
/-! Mailboxes: what a completion leaves, the checks that GO makes, and what a server, the service timeout and ABORT do to a command
(R461, R473 to R480). -/

namespace Sys2Proof.Machine

/-! ## Completion (R461, R478) -/

/-- Setting a bit of a word. -/
theorem setBit_true_eq_or {w : Nat} (x : BitVec w) (n : Nat) : setBit x n true = x ||| (1#w <<< n) := by
  have hmask : BitVec.ofNat w (1 * 2 ^ n) = 1#w <<< n := by
    apply BitVec.eq_of_toNat_eq
    rw [Nat.one_mul, ← BitVec.twoPow_eq, BitVec.toNat_twoPow, BitVec.toNat_ofNat]
  ext i hi
  simp only [setBit, setBits, if_true, Nat.add_sub_cancel_left, Nat.pow_one, Nat.add_one_sub_one, hmask, BitVec.and_self,
    BitVec.getElem_or, BitVec.getElem_and, BitVec.getElem_not]
  cases (1#w <<< n)[i] <;> simp

/-- Setting a bit that is set already changes nothing. -/
theorem or_shiftLeft_of_getLsbD {w n : Nat} {x : BitVec w} (h : x.getLsbD n = true) : x ||| (1#w <<< n) = x := by
  apply BitVec.eq_of_getLsbD_eq
  intro i hi
  rw [← BitVec.twoPow_eq, BitVec.getLsbD_or, BitVec.getLsbD_twoPow]
  by_cases hin : n = i
  · rw [← hin, h, Bool.true_or]
  · simp [hin]

/-- Raising a cause sets its bit (R461). -/
theorem State.raise_cause (s : State) (n : Nat) : (s.raise n).cxl.cause = s.cxl.cause ||| (1#15 <<< n) := by
  by_cases h : s.cxl.cause.getLsbD n = true
  · rw [State.raise_set s n h, or_shiftLeft_of_getLsbD h]
  · rw [← setBit_true_eq_or, State.raise, if_neg h]
    simp only []
    split_ifs <;> rfl

/-- Raising a cause leaves the mailboxes. -/
theorem State.raise_boxes (s : State) (n : Nat) : (s.raise n).boxes = s.boxes := by
  rw [(State.raise_frame s n).1]

/-- With no command outstanding there is nothing to complete (R478). -/
theorem State.complete_of_not_outstanding {s : State} {n : Fin 8} (status detail : Nat) (out : List Byte)
    (h : (s.boxes.get n).outstanding = false) : s.complete n status detail out = s := by
  rw [State.complete, h]
  rfl

/-- An outstanding command is completed, with its interrupt cause (R461, R473, R478). -/
theorem State.completed_complete {s : State} {n : Fin 8} (status detail : Nat) (out : List Byte)
    (h : (s.boxes.get n).outstanding = true) : Claims.completed s (s.complete n status detail out) n status detail out := by
  obtain ⟨hframe, hothers⟩ := State.complete_frame s n status detail out
  refine ⟨hframe, ?_, hothers, ?_⟩
  · rw [State.complete, if_pos h, State.raise_cause, State.modBox_cxl]
  · rw [State.complete, if_pos h, State.raise_boxes, State.boxes_modBox, vset_get_self]

/-- A completion of an outstanding command, and of none. -/
theorem completionIsReported : Claims.CompletionIsReported :=
  fun _ status detail out _ => ⟨State.completed_complete status detail out, State.complete_of_not_outstanding status detail out⟩

/-! ## The other mailboxes (R475) -/

/-- A change of one mailbox is not seen among the others. -/
theorem State.others_modBox (s : State) (n : Fin 8) (f : Mailbox → Bool) (g : Mailbox → Mailbox) :
    (s.modBox n g).others n f = s.others n f := by
  unfold State.others
  congr 2
  funext k
  by_cases hk : k = n
  · simp [hk]
  · rw [State.boxes_modBox, vset_get_ne _ _ _ _ hk]

section
variable {s : State} {n : Fin 8} {f : Mailbox → Bool} {P : Fin 8 → Prop}

/-- No other mailbox has what is looked for. -/
theorem State.others_eq_none (hP : ∀ k, P k ↔ k ≠ n ∧ (s.boxes.get k).outstanding = true ∧ f (s.boxes.get k) = true)
    (hnone : ∀ k, ¬P k) : s.others n f = none := by
  rw [State.others, Option.map_eq_none_iff, List.find?_eq_none]
  intro k _ hk
  exact hnone k ((hP k).mpr (by simpa [and_assoc] using hk))

/-- The lowest-numbered of the other mailboxes that have what is looked for. -/
theorem State.others_eq_some (hP : ∀ k, P k ↔ k ≠ n ∧ (s.boxes.get k).outstanding = true ∧ f (s.boxes.get k) = true)
    {m : Fin 8} (hm : P m) (hfirst : ∀ k < m, ¬P k) : s.others n f = some m.val := by
  rw [State.others, Option.map_eq_some_iff]
  refine ⟨m, List.find?_eq_some_iff_getElem.mpr ⟨?_, m.val, by simp, List.getElem_finRange _, fun j hj => ?_⟩, rfl⟩
  · simpa [and_assoc] using (hP m).mp hm
  · have hlt : j < 8 := hj.trans m.isLt
    have hno := mt (hP ⟨j, hlt⟩).mpr (hfirst ⟨j, hlt⟩ hj)
    simpa [or_assoc, imp_iff_not_or] using hno

end

/-! ## The latch and its checks (R474, R475) -/

/-- The state with the command of mailbox `n` latched and its outputs cleared (R474). -/
def State.latched (s : State) (n : Fin 8) : State :=
  s.modBox n fun b => { b with
    lOpcode := b.opcode, lLen := b.len, lArgs := b.args, stTag := b.tag
    server := BitVec.ofNat 2 (((cmdRow b.opcode.toNat).map (·.server)).getD 0), status := 0, detail := 0, outLen := 0
    permille := 0, heartbeat := 0, abort := false, state := 1 }

/-- R475: does the row take an input length? -/
def CmdRow.lenOk (r : CmdRow) (len : Nat) : Prop := r.lenMin ≤ len ∧ len ≤ r.lenMax ∧ len % r.unit = 0

/-- R470, R475: is a value of MS one that may be given? -/
def msOk (ms : W16) : Prop := ms = 0 ∨ (100 ≤ ms.toNat ∧ ms.toNat ≤ 60000)

/-- The row refuses a length below its least, above its greatest or between its units. -/
theorem CmdRow.not_lenOk_iff (r : CmdRow) (len : Nat) : ¬r.lenOk len ↔ len < r.lenMin ∨ r.lenMax < len ∨ len % r.unit ≠ 0 := by
  unfold CmdRow.lenOk
  omega

/-- MS is refused below 100 and above 60,000. -/
theorem not_msOk_iff (ms : W16) : ¬msOk ms ↔ ms ≠ 0 ∧ (ms.toNat < 100 ∨ 60000 < ms.toNat) := by
  simp only [msOk, not_or, not_and_or, Nat.not_le]

section
variable {s : State} {n : Fin 8} {r : CmdRow}

/-- GO while a command is outstanding (R474). -/
theorem exec_mailboxGo_outstanding (h : (s.boxes.get n).outstanding = true) : exec (.mailboxGo n) s = .next s := by
  rw [show exec (.mailboxGo n) s = .next (s.go n) from rfl, State.go, h, Bool.true_or, if_pos rfl]

/-- GO on an idle mailbox latches the command, and completes it where a check fails (R474, R475). -/
theorem exec_mailboxGo_idle (hrails : s.keeper.rails = true) (h : (s.boxes.get n).outstanding = false) :
    ((s.latched n).latchCheck n = none → exec (.mailboxGo n) s = .next (s.latched n)) ∧
    ∀ st d, (s.latched n).latchCheck n = some (st, d) → exec (.mailboxGo n) s = .next ((s.latched n).complete n st d []) := by
  rw [show exec (.mailboxGo n) s = .next (s.go n) from rfl, State.go, if_neg (by simp [h, hrails])]
  simp only []
  exact ⟨fun hcheck => by rw [← State.latched, hcheck], fun st d hcheck => by rw [← State.latched, hcheck]⟩

/-- The box that holds the latched command (R474). -/
theorem State.latched_box (s : State) (n : Fin 8) : (s.latched n).boxes.get n =
    { s.boxes.get n with
      lOpcode := (s.boxes.get n).opcode, lLen := (s.boxes.get n).len, lArgs := (s.boxes.get n).args, stTag := (s.boxes.get n).tag
      server := BitVec.ofNat 2 (((cmdRow (s.boxes.get n).opcode.toNat).map (·.server)).getD 0), status := 0, detail := 0
      outLen := 0, permille := 0, heartbeat := 0, abort := false, state := 1 } := by
  rw [State.latched, State.boxes_modBox, vset_get_self]

/-- The row of the latched command. -/
theorem State.latched_row (s : State) (n : Fin 8) : ((s.latched n).boxes.get n).row = cmdRow (s.boxes.get n).opcode.toNat := by
  rw [State.latched_box, Mailbox.row]

/-- An opcode without a row fails first. -/
theorem State.latchCheck_unknown (h : cmdRow (s.boxes.get n).opcode.toNat = none) : (s.latched n).latchCheck n = some (1, 0) := by
  simp only [State.latchCheck, State.latched_row, h]

variable (hrow : cmdRow (s.boxes.get n).opcode.toNat = some r)
include hrow

/-- The length is checked next. -/
theorem State.latchCheck_badLen (hlen : ¬r.lenOk (s.boxes.get n).len) : (s.latched n).latchCheck n = some (2, r.lenMax) := by
  simp only [State.latchCheck, State.latched_row, hrow]
  rw [State.latched_box, if_pos ((r.not_lenOk_iff _).mp hlen)]

variable (hlen : r.lenOk (s.boxes.get n).len)
include hlen

/-- MS is checked next. -/
theorem State.latchCheck_badMs (hms : ¬msOk (s.boxes.get n).ms) : (s.latched n).latchCheck n = some (4, 8) := by
  simp only [State.latchCheck, State.latched_row, hrow]
  rw [State.latched_box, if_neg (mt (r.not_lenOk_iff _).mpr (not_not_intro hlen)), if_pos ((not_msOk_iff _).mp hms)]

variable (hms : msOk (s.boxes.get n).ms)
include hms

/-- A command whose length and MS may be given fails by its TAG or, where that is free, by its group alone. -/
theorem State.latchCheck_clashes : (s.latched n).latchCheck n =
    ((s.others n fun c => c.stTag == (s.boxes.get n).tag).map (Prod.mk 5)).or
      ((if r.group = 0 then none else s.others n fun c => c.row.any fun q => q.group == r.group).map (Prod.mk 6)) := by
  simp only [State.latchCheck, State.latched_row, hrow]
  rw [State.latched_box, if_neg (mt (r.not_lenOk_iff _).mpr (not_not_intro hlen)),
    if_neg (mt (not_msOk_iff _).mpr (not_not_intro hms))]
  simp only [State.latched, State.others_modBox]
  cases s.others n fun c => c.stTag == (s.boxes.get n).tag with
  | some m => rfl
  | none => cases (if r.group = 0 then none else s.others n fun c => c.row.any fun q => q.group == r.group) <;> rfl

end

/-- The order of the checks of GO: opcode, length, MS, TAG and group. -/
theorem goLatchesAndChecks : Claims.GoLatchesAndChecks := by
  unfold Claims.GoLatchesAndChecks
  intro n m s hrails b row latched fails tagClash groupClash
  refine ⟨exec_mailboxGo_outstanding, fun hidle => ?_⟩
  obtain ⟨hpass, hfail⟩ := exec_mailboxGo_idle hrails hidle
  refine ⟨fun hrow => hfail 1 0 (State.latchCheck_unknown hrow), fun r hrow => ?_⟩
  have htag : ∀ k, tagClash k ↔ k ≠ n ∧ (s.boxes.get k).outstanding = true ∧ ((s.boxes.get k).stTag == b.tag) = true := by
    simp [tagClash]
  have hgroup : ∀ k, r.group ≠ 0 → (groupClash r k ↔
      k ≠ n ∧ (s.boxes.get k).outstanding = true ∧ ((s.boxes.get k).row.any fun q => q.group == r.group) = true) := by
    simp +contextual [groupClash, Mailbox.row, Option.any_eq_true]
  refine ⟨fun hlen => hfail 2 _ (State.latchCheck_badLen hrow hlen), fun hlen hms => hfail 4 8 (State.latchCheck_badMs hrow hlen hms),
    fun hlen hms hm hfirst => hfail 5 _ ?_, fun hlen hms hnotag hm hfirst => hfail 6 _ ?_, fun hlen hms hnotag hnogroup => hpass ?_⟩
  · rw [State.latchCheck_clashes hrow hlen hms, State.others_eq_some htag hm hfirst]
    rfl
  · have hne : r.group ≠ 0 := hm.1
    rw [State.latchCheck_clashes hrow hlen hms, State.others_eq_none htag hnotag, if_neg hne,
      State.others_eq_some (fun k => hgroup k hne) hm hfirst]
    rfl
  · rw [State.latchCheck_clashes hrow hlen hms, State.others_eq_none htag hnotag]
    by_cases hzero : r.group = 0
    · rw [if_pos hzero]
      rfl
    · rw [if_neg hzero, State.others_eq_none (fun k => hgroup k hzero) hnogroup]
      rfl

/-! ## Servers, the service timeout and ABORT (R476, R477, R479, R480) -/

section
variable {s : State} {n : Fin 8}

/-- The checks of R476 look at no mailbox but the one they are given. -/
theorem State.cmdCheck_modBox (s : State) (n : Fin 8) (f : Mailbox → Mailbox) (b : Mailbox) : (s.modBox n f).cmdCheck b = s.cmdCheck b :=
  rfl

/-- The state in which the server has taken the command of mailbox `n` (R476). -/
def State.takenBox (s : State) (n : Fin 8) : State :=
  s.modBox n fun b => { b with
    state := 2, taken := s.keeper.uptime
    snapshot := if b.lOpcode = 0x0043 then s.evidence (b.buf.take 32) else b.snapshot }

/-- A server that serves takes a pending command, and completes it where a check fails (R476). -/
theorem exec_serverTake_pending (hpend : (s.boxes.get n).state = 1) (hup : s.serverUp (s.boxes.get n) = true) :
    (s.cmdCheck (s.boxes.get n) = none → exec (.serverTake n) s = .next (s.takenBox n)) ∧
    ∀ st d, s.cmdCheck (s.boxes.get n) = some (st, d) → exec (.serverTake n) s = .next ((s.takenBox n).complete n st d []) := by
  rw [show exec (.serverTake n) s = execServerTake n s from rfl, execServerTake]
  simp only [State.cmdCheck_modBox]
  rw [if_neg (by simp [hpend, hup])]
  exact ⟨fun hcheck => by rw [hcheck, State.takenBox], fun st d hcheck => by rw [hcheck, State.takenBox]⟩

/-- The service timeout ends a pending command (R479). -/
theorem exec_serviceTimeout_pending (hpend : (s.boxes.get n).state = 1) :
    exec (.serviceTimeout n) s = .next (s.complete n 8 0 []) :=
  congrArg Host.Outcome.next (if_pos hpend)

/-- The service timeout leaves a mailbox with no command pending (R479). -/
theorem exec_serviceTimeout_other (hstate : (s.boxes.get n).state ≠ 1) : exec (.serviceTimeout n) s = .next s :=
  congrArg Host.Outcome.next (if_neg hstate)

/-- ABORT ends a pending command (R480). -/
theorem exec_mailboxAbort_pending (hpend : (s.boxes.get n).state = 1) :
    exec (.mailboxAbort n) s = .next (s.complete n 9 0 []) :=
  congrArg Host.Outcome.next (if_pos hpend)

/-- ABORT ends a background command that can be aborted, and the loader's watch of the capability table with it (R480). -/
theorem exec_mailboxAbort_background (hstate : (s.boxes.get n).state = 3) (hrow : (s.boxes.get n).row.any (·.abortable) = true)
    (hup : s.serverUp (s.boxes.get n) = true) : exec (.mailboxAbort n) s =
      .next (({ s with caps := { s.caps with loadGen := none } } : State).complete n 9 0 []) := by
  rw [show exec (.mailboxAbort n) s = .next (s.abortBox n) from rfl, State.abortBox]
  simp only [hstate, hrow, hup]
  rfl

/-- ABORT leaves a command that is neither pending nor a background one that can be aborted (R480). -/
theorem exec_mailboxAbort_ignored (hpend : (s.boxes.get n).state ≠ 1)
    (hno : (s.boxes.get n).state = 3 → (s.boxes.get n).row.any (·.abortable) = false) : exec (.mailboxAbort n) s = .next s := by
  rw [show exec (.mailboxAbort n) s = .next (s.abortBox n) from rfl, State.abortBox]
  rw [if_neg hpend, if_neg fun h => ?_]
  simp only [Bool.and_eq_true, decide_eq_true_eq] at h
  simp [hno h.1.1] at h

/-- A background command other than a load reports its progress (R477). -/
theorem exec_progressUpdate_background (permille : Nat) (hstate : (s.boxes.get n).state = 2 ∨ (s.boxes.get n).state = 3)
    (hrow : (s.boxes.get n).row.any (·.background) = true) (hup : s.serverUp (s.boxes.get n) = true)
    (hload : (s.boxes.get n).lOpcode ≠ 0x0011) (hverify : (s.boxes.get n).lOpcode ≠ 0x0012) :
    exec (.progressUpdate n permille) s =
      .next (s.modBox n fun b => { b with state := 3, permille := min 1000 permille, heartbeat := s.keeper.uptime }) := by
  rw [show exec (.progressUpdate n permille) s = execProgressUpdate n permille s from rfl, execProgressUpdate]
  simp only []
  rw [if_neg (by simpa [hrow, hup, or_iff_not_imp_left] using hstate), if_neg (not_or.mpr ⟨hload, hverify⟩)]

end

/-- What a server, the service timeout and ABORT do to a command in each state. -/
theorem serversTakeReportAndAbort : Claims.ServersTakeReportAndAbort := by
  unfold Claims.ServersTakeReportAndAbort
  intro n permille r s b taken
  have hany : ∀ {p : CmdRow → Bool}, cmdRow b.lOpcode.toNat = some r → b.row.any p = p r := fun hrow => by
    rw [Mailbox.row, hrow, Option.any_some]
  refine ⟨exec_serverTake_pending, fun hpend => ⟨exec_serviceTimeout_pending hpend, exec_mailboxAbort_pending hpend⟩,
    exec_serviceTimeout_other, fun hstate hrow hback hup hload hverify => ?_,
    fun hstate hrow hup => ⟨fun habort => ?_, fun habort => ?_⟩, fun hbusy => ?_⟩
  · exact exec_progressUpdate_background permille hstate ((hany hrow).trans hback) hup hload hverify
  · exact exec_mailboxAbort_background hstate ((hany hrow).trans habort) hup
  · exact exec_mailboxAbort_ignored (by rw [hstate]; decide) fun _ => (hany hrow).trans habort
  · exact exec_mailboxAbort_ignored (by rw [hbusy]; decide) fun hback => absurd (hbusy.symm.trans hback) (by decide)

/-- Settles O39: completion, the latch with the order of its checks, and what servers, timeouts and aborts do. -/
theorem mailboxesCheckTakeAndComplete : Obligations.MailboxesCheckTakeAndComplete :=
  ⟨completionIsReported, goLatchesAndChecks, serversTakeReportAndAbort⟩

end Sys2Proof.Machine
end

section
/-! Fuses: the part, FUSED_EN and the firmware's fuses, which every operation of the model leaves but the activation of a trial at the
end of start-up (R3, R568, R574, R575). -/

namespace Sys2Proof.Machine

/-! ## The fuses of a module -/

/-- What the firmware's fuses hold: the identity engine's, the key hashes, the revocation fuses and the anti-rollback count (R568, R575). -/
structure FwFuses where
  skSeed : List Byte
  skPrf : List Byte
  pkSeed : List Byte
  keys : Vector (Option (List Byte)) 4
  revoked : BitVec 4
  rollback : Nat

/-- What no command may undo: the part, FUSED_EN of every jet, and the firmware's fuses (R3, R568, R575). -/
structure Fuses where
  part : Part
  enabled : Vector Byte 160
  fw : FwFuses

/-- FUSED_EN of every jet. -/
def fusedEn (v : Vector Jet 160) : Vector Byte 160 := v.map (·.fused)

/-- The fuses that the firmware's state holds. -/
def Firmware.fuses (f : Firmware) : FwFuses := ⟨f.skSeed, f.skPrf, f.pkSeed, f.keys, f.revoked, f.rollback⟩

/-- The fuses of a module. -/
def State.fuses (s : State) : Fuses := ⟨s.part, fusedEn s.jets, s.fw.fuses⟩

/-- A command answers a state with the fuses of `s`. -/
def Out.Keeps (o : Out) (s : State) : Prop := ∀ t, o = .next t → t.fuses = s.fuses

/-! ## Updates of records -/

/-- A state made from `s` has its fuses where the part is as it was and neither the jets' nor the firmware's fuses differ. -/
@[simp] theorem State.fuses_mk {s : State} {pending readData latch outbox freeCount jets basins cisterns runnels tiers record job caps
    weir coll cxl boxes log sluice keeper fw} (hj : fusedEn jets = fusedEn s.jets) (hf : fw.fuses = s.fw.fuses) :
    (State.mk pending readData latch outbox freeCount jets basins cisterns runnels tiers record job caps weir coll cxl boxes log
      sluice keeper fw s.part).fuses = s.fuses := by
  unfold State.fuses
  rw [hj, hf]

@[simp] theorem Firmware.fuses_mk {f : Firmware} {active pend tries recSeq older slotA slotB running keyIndex trial trialStep keeperHash
    keyPair session image measures versions} :
    (Firmware.mk active pend tries recSeq older slotA slotB running keyIndex trial trialStep keeperHash f.keys f.revoked f.rollback
      f.skSeed f.skPrf f.pkSeed keyPair session image measures versions).fuses = f.fuses := by unfold Firmware.fuses; rfl

@[simp] theorem State.fw_fuses (s : State) : s.fw.fuses = s.fuses.fw := by unfold State.fuses; rfl
@[simp] theorem State.fusedEn_jets (s : State) : fusedEn s.jets = s.fuses.enabled := by unfold State.fuses; rfl

@[simp] theorem State.jets_get_fused (s : State) (j : Fin 160) : (s.jets.get j).fused = s.fuses.enabled.get j := by
  show _ = (s.jets.map (·.fused))[j.val]
  rw [Vector.getElem_map]
  rfl
@[simp] theorem State.jet_fused (s : State) (j : Fin 160) : (s.jet j).fused = s.fuses.enabled.get j := s.jets_get_fused j

@[simp] theorem fusedEn_map {v : Vector Jet 160} {f : Jet → Jet} (h : ∀ x, (f x).fused = x.fused) : fusedEn (v.map f) = fusedEn v := by
  unfold fusedEn
  rw [Vector.map_map]
  exact congrArg v.map (funext h)

/-- Jets built one by one from those of `s`. -/
theorem fusedEn_ofFn {s : State} {f : Fin 160 → Jet} (h : ∀ j, (f j).fused = s.fuses.enabled.get j) :
    fusedEn (Vector.ofFn f) = fusedEn s.jets := by
  refine Vector.ext fun k hk => ?_
  simp only [fusedEn, Vector.getElem_map, Vector.getElem_ofFn]
  exact (h ⟨k, hk⟩).trans (s.jets_get_fused ⟨k, hk⟩).symm

/-- A jet replaced by one with the same FUSED_EN. -/
@[simp] theorem State.putJet_fuses {s : State} {j : Fin 160} {x : Jet} (h : x.fused = s.fuses.enabled.get j) :
    (s.putJet j x).fuses = s.fuses := by
  refine State.fuses_mk (Vector.ext fun k hk => ?_) rfl
  have e := vset_get s.jets j ⟨k, hk⟩ x
  simp only [fusedEn, Vector.getElem_map]
  show ((vset s.jets j x).get ⟨k, hk⟩).fused = (s.jets.get ⟨k, hk⟩).fused
  rw [e]
  split
  · next hkj => rw [h, hkj, s.jets_get_fused]
  · rfl
@[simp] theorem State.modJet_fuses {s : State} {j : Fin 160} {f : Jet → Jet} (h : (f (s.jet j)).fused = s.fuses.enabled.get j) :
    (s.modJet j f).fuses = s.fuses := State.putJet_fuses h

/-! ## Branches, folds and pairs -/

@[simp] theorem State.fuses_ite (c : Prop) [Decidable c] (s t : State) : (if c then s else t).fuses = if c then s.fuses else t.fuses :=
  apply_ite State.fuses c s t
@[simp] theorem State.fuses_dite (c : Prop) [Decidable c] (f : c → State) (g : ¬ c → State) :
    (if h : c then f h else g h).fuses = if h : c then (f h).fuses else (g h).fuses := apply_dite State.fuses c f g
@[simp] theorem Firmware.fuses_ite (c : Prop) [Decidable c] (f g : Firmware) :
    (if c then f else g).fuses = if c then f.fuses else g.fuses := apply_ite Firmware.fuses c f g
@[simp] theorem Jet.fused_ite (c : Prop) [Decidable c] (x y : Jet) : (if c then x else y).fused = if c then x.fused else y.fused :=
  apply_ite Jet.fused c x y

@[simp] theorem State.foldl_fuses {α : Type} {f : State → α → State} (h : ∀ s a, (f s a).fuses = s.fuses) (l : List α) (s : State) :
    (l.foldl f s).fuses = s.fuses := by
  induction l generalizing s with
  | nil => rfl
  | cons a l ih => exact (ih (f s a)).trans (h s a)
@[simp] theorem State.foldl_fst_fuses {α β : Type} {f : State × β → α → State × β} (h : ∀ p a, (f p a).1.fuses = p.1.fuses) (l : List α)
    (p : State × β) : (l.foldl f p).1.fuses = p.1.fuses := by
  induction l generalizing p with
  | nil => rfl
  | cons a l ih => exact (ih (f p a)).trans (h p a)
@[simp] theorem State.foldl_snd_fuses {α β : Type} {f : β × State → α → β × State} (h : ∀ p a, (f p a).2.fuses = p.2.fuses) (l : List α)
    (p : β × State) : (l.foldl f p).2.fuses = p.2.fuses := by
  induction l generalizing p with
  | nil => rfl
  | cons a l ih => exact (ih (f p a)).trans (h p a)
@[simp] theorem Jet.foldl_fused {α : Type} {f : Jet → α → Jet} (h : ∀ x a, (f x a).fused = x.fused) (l : List α) (x : Jet) :
    (l.foldl f x).fused = x.fused := by
  induction l generalizing x with
  | nil => rfl
  | cons a l ih => exact (ih (f x a)).trans (h x a)

@[simp] theorem Jet.foldl_fst_fused {α β : Type} {f : Jet × β → α → Jet × β} (h : ∀ p a, (f p a).1.fused = p.1.fused) (l : List α)
    (p : Jet × β) : (l.foldl f p).1.fused = p.1.fused := by
  induction l generalizing p with
  | nil => rfl
  | cons a l ih => exact (ih (f p a)).trans (h p a)

/-- An operation that an optional value calls for. -/
@[simp] theorem State.getD_map_fuses {α : Type} {f : α → State} {s : State} (h : ∀ a, (f a).fuses = s.fuses) (o : Option α) :
    ((o.map f).getD s).fuses = s.fuses := by
  cases o with
  | none => rfl
  | some a => exact h a

/-- The state of a pair that an operation answers. -/
theorem State.fuses_of_fst {α : Type} {p : State × α} {a : α} {s t : State} (h : p.1.fuses = s.fuses) (e : p = (t, a)) :
    t.fuses = s.fuses := by rwa [e] at h
theorem State.fuses_of_snd {α : Type} {p : α × State} {a : α} {s t : State} (h : p.2.fuses = s.fuses) (e : p = (a, t)) :
    t.fuses = s.fuses := by rwa [e] at h

@[simp] theorem Out.keeps_next {s t : State} : Out.Keeps (.next t) s ↔ t.fuses = s.fuses :=
  ⟨fun h => h t rfl, fun h _ e => by cases e; exact h⟩
@[simp] theorem Out.keeps_ite {c : Prop} [Decidable c] {o o' : Out} {s : State} :
    Out.Keeps (if c then o else o') s ↔ if c then o.Keeps s else o'.Keeps s := by split <;> rfl
theorem Out.Keeps.of_fuses {o : Out} {s t : State} (h : o.Keeps t) (e : t.fuses = s.fuses) : o.Keeps s := fun u hu => (h u hu).trans e

/-! # The operations of the model, in its order, leave the fuses -/

/-! ## Ops -/

@[simp] theorem State.modArr_fuses (s : State) (j : Fin 160) (n : Fin 8) (f : Arr → Arr) : (s.modArr j n f).fuses = s.fuses := by
  simp [State.modArr]
@[simp] theorem State.modBasin_fuses (s : State) (d : Fin 4) (f : Basin → Basin) : (s.modBasin d f).fuses = s.fuses := by
  simp [State.modBasin]
@[simp] theorem State.modCistern_fuses (s : State) (i : Fin 32) (f : Cistern → Cistern) : (s.modCistern i f).fuses = s.fuses := by
  simp [State.modCistern]
@[simp] theorem State.modRunnel_fuses (s : State) (r : Fin 2) (f : Runnel → Runnel) : (s.modRunnel r f).fuses = s.fuses := by
  simp [State.modRunnel]
@[simp] theorem State.modBox_fuses (s : State) (n : Fin 8) (f : Mailbox → Mailbox) : (s.modBox n f).fuses = s.fuses := by
  simp [State.modBox]
@[simp] theorem State.modPort_fuses (s : State) (p : Fin 6) (f : Port → Port) : (s.modPort p f).fuses = s.fuses := by simp [State.modPort]
@[simp] theorem State.modDom_fuses (s : State) (d : Fin 10) (f : Dom → Dom) : (s.modDom d f).fuses = s.fuses := by simp [State.modDom]
@[simp] theorem State.putCore_fuses (s : State) (c : CoreId) (k : Core) : (s.putCore c k).fuses = s.fuses := by
  unfold State.putCore
  split <;> simp
@[simp] theorem State.modCore_fuses (s : State) (c : CoreId) (f : Core → Core) : (s.modCore c f).fuses = s.fuses := by
  simp [State.modCore]
@[simp] theorem State.send_fuses (s : State) (m : Msg) : (s.send m).fuses = s.fuses := by simp [State.send]
@[simp] theorem State.fresh_fuses (s : State) : s.fresh.2.fuses = s.fuses := by simp [State.fresh]
@[simp] theorem State.raise_fuses (s : State) (n : Nat) : (s.raise n).fuses = s.fuses := by simp [State.raise]
@[simp] theorem State.store_fuses (s : State) (code sev src : Nat) (args : List Nat) : (s.store code sev src args).fuses = s.fuses := by
  simp [State.store]
@[simp] theorem State.event_fuses (s : State) (code sev src : Nat) (args : List Nat) : (s.event code sev src args).fuses = s.fuses := by
  simp [State.event]
@[simp] theorem State.rsvdWrite_fuses (s : State) (addr v : Nat) : (s.rsvdWrite addr v).fuses = s.fuses := by simp [State.rsvdWrite]
@[simp] theorem State.capChange_fuses (s : State) : s.capChange.fuses = s.fuses := by simp [State.capChange]
@[simp] theorem State.complete_fuses (s : State) (n : Fin 8) (status detail : Nat) (out : List Byte) :
    (s.complete n status detail out).fuses = s.fuses := by simp [State.complete]
@[simp] theorem State.completeAll_fuses (s : State) (ns : List Nat) (status detail : Nat) :
    (s.completeAll ns status detail).fuses = s.fuses := by
  simp [State.completeAll]

/-! ## TierOps -/

@[simp] theorem State.modRegion_fuses (s : State) (g : MemRegion) (f : RegionSt → RegionSt) : (s.modRegion g f).fuses = s.fuses := by
  unfold State.modRegion
  split <;> simp
@[simp] theorem State.modUnit_fuses (s : State) (u : MemUnit) (f : UnitSt → UnitSt) : (s.modUnit u f).fuses = s.fuses := by
  unfold State.modUnit
  split <;> simp
@[simp] theorem State.tierPut_fuses (s : State) (a : Nat) (w : List Byte) : (s.tierPut a w).fuses = s.fuses := by simp [State.tierPut]
@[simp] theorem State.writeBack_fuses (s : State) (u : MemUnit) (a : Nat) (w e2 : List Byte) :
    (s.writeBack u a w e2).fuses = s.fuses := by
  unfold State.writeBack
  dsimp only
  split <;> simp
@[simp] theorem State.countBad_fuses (s : State) (u : MemUnit) (lost : Bool) : (s.countBad u lost).fuses = s.fuses := by
  simp [State.countBad]
@[simp] theorem State.tierRead_fuses (s : State) (a : Nat) : (s.tierRead a).2.2.fuses = s.fuses := by
  unfold State.tierRead
  dsimp only
  split <;> simp
@[simp] theorem State.readWords_fuses (n : Nat) (s : State) (a : Nat) : (s.readWords n a).2.fuses = s.fuses := by
  induction n generalizing s a with
  | zero => rfl
  | succ n ih =>
    unfold State.readWords
    cases s.canon a with
    | none => exact ih s _
    | some c => exact (ih _ _).trans (s.tierRead_fuses c)
/-- A name for a read of many words that says of it only that it leaves the fuses: put for the read, it keeps the kernel from reading
the words to compare the states that two terms build from them. -/
theorem State.readWords_stands : ∃ r, r = @State.readWords ∧ ∀ n s a, (r n s a).2.fuses = s.fuses := ⟨_, rfl, State.readWords_fuses⟩
@[simp] theorem State.writeWords_fuses (ws : List (Option (List Byte))) (s : State) (a : Nat) :
    (State.writeWords ws s a).fuses = s.fuses := by
  induction ws generalizing s a with
  | nil => rfl
  | cons w ws ih =>
    unfold State.writeWords
    cases s.canon a with
    | none => exact ih s _
    | some c => exact (ih _ _).trans (s.tierPut_fuses c _)

/-! ## Layout -/

@[simp] theorem State.readRecord_fuses (s : State) (i : Image) (held slot : Bool) (idx : Nat) :
    (s.readRecord i held slot idx).2.fuses = s.fuses := by simp [State.readRecord]
theorem State.readRecord_stands : ∃ r, r = @State.readRecord ∧ ∀ s i held slot idx, (r s i held slot idx).2.fuses = s.fuses :=
  ⟨_, rfl, State.readRecord_fuses⟩
@[simp] theorem State.writeRecord_fuses (s : State) (i : Image) (held slot : Bool) (idx : Nat) (bs : List Byte) :
    (s.writeRecord i held slot idx bs).fuses = s.fuses := by simp [State.writeRecord]
@[simp] theorem State.noteBad_fuses (s : State) (held : Bool) (idx : Nat) : (s.noteBad held idx).fuses = s.fuses := by
  simp [State.noteBad]
@[simp] theorem State.takeRecord_fuses (s : State) (i : Image) (held : Bool) (idx : Nat) :
    (s.takeRecord i held idx).2.fuses = s.fuses := by
  generalize hf : @State.takeRecord = f
  delta State.takeRecord at hf
  obtain ⟨r, hr, read⟩ := State.readRecord_stands
  rw [← hr] at hf
  subst hf
  dsimp only
  split <;> simp [read]
theorem State.takeRecord_stands : ∃ r, r = @State.takeRecord ∧ ∀ s i held idx, (r s i held idx).2.fuses = s.fuses :=
  ⟨_, rfl, State.takeRecord_fuses⟩
@[simp] theorem State.shardDigest_fuses (s : State) (i : Image) (held slot : Bool) : (s.shardDigest i held slot).2.fuses = s.fuses := by
  generalize hf : @State.shardDigest = f
  delta State.shardDigest at hf
  obtain ⟨r, hr, read⟩ := State.readRecord_stands
  rw [← hr] at hf
  subst hf
  simp [read]
theorem State.shardDigest_stands : ∃ r, r = @State.shardDigest ∧ ∀ s i held slot, (r s i held slot).2.fuses = s.fuses :=
  ⟨_, rfl, State.shardDigest_fuses⟩
@[simp] theorem State.writeThrough_fuses (s : State) (i : Image) (idx : Nat) (ws : List (Option (List Byte))) :
    (s.writeThrough i idx ws).fuses = s.fuses := by simp [State.writeThrough]
@[simp] theorem State.rewriteWeights_fuses (s : State) : s.rewriteWeights.fuses = s.fuses := by
  unfold State.rewriteWeights
  obtain ⟨r, hr, take⟩ := State.takeRecord_stands
  rw [← hr]
  split <;> simp [take]

/-! ## Totals -/

@[simp] theorem Jet.readCounters_fused (j : Jet) : j.readCounters.fused = j.fused := by simp [Jet.readCounters]
@[simp] theorem State.readCounters_fuses (s : State) : s.readCounters.fuses = s.fuses := by simp [State.readCounters]
@[simp] theorem State.boundary_fuses (s : State) : s.boundary.fuses = s.fuses := by simp [State.boundary]

/-! ## StepOps -/

@[simp] theorem State.captureLanes_fuses (s : State) : s.captureLanes.fuses = s.fuses := by simp [State.captureLanes]
@[simp] theorem State.restoreLanes_fuses (s : State) : s.restoreLanes.fuses = s.fuses := by simp [State.restoreLanes]
@[simp] theorem State.clearStep_fuses (s : State) : s.clearStep.fuses = s.fuses := by simp [State.clearStep]
@[simp] theorem State.setDone_fuses (s : State) (n : Nat) : (s.setDone n).fuses = s.fuses := by simp [State.setDone]
@[simp] theorem State.passEmpty_fuses (s : State) : s.passEmpty.fuses = s.fuses := by simp [State.passEmpty]
@[simp] theorem State.enterForward_fuses (s : State) : s.enterForward.fuses = s.fuses := by simp [State.enterForward]
@[simp] theorem State.unload_fuses (s : State) : s.unload.fuses = s.fuses := by simp [State.unload]
@[simp] theorem State.completeAt_fuses (s : State) (n status detail : Nat) (out : List Byte) :
    (s.completeAt n status detail out).fuses = s.fuses := by
  unfold State.completeAt
  split <;> simp
@[simp] theorem State.jobHalt_fuses (s : State) (cause : Nat) : (s.jobHalt cause).fuses = s.fuses := by
  unfold State.jobHalt
  dsimp only
  split <;> simp
@[simp] theorem State.freeCores_fuses (s : State) : s.freeCores.fuses = s.fuses := by simp [State.freeCores]
@[simp] theorem State.setThr_fuses (s : State) (c : Nat) (on : Bool) : (s.setThr c on).fuses = s.fuses := by simp [State.setThr]
@[simp] theorem State.findBad_fuses (s : State) : s.findBad.fuses = s.fuses := by
  unfold State.findBad
  split <;> simp
@[simp] theorem State.askRepair_fuses (s : State) : s.askRepair.fuses = s.fuses := by simp [State.askRepair]
@[simp] theorem State.rerunStep_fuses (s : State) : s.rerunStep.fuses = s.fuses := by simp [State.rerunStep]
@[simp] theorem State.revert_fuses (s : State) (cause : Nat) : (s.revert cause).fuses = s.fuses := by simp [State.revert]
@[simp] theorem State.reserveCheck_fuses (s : State) : s.reserveCheck.fuses = s.fuses := by simp [State.reserveCheck]
@[simp] theorem State.takeAbort_fuses (s : State) (n : Nat) : (s.takeAbort n).fuses = s.fuses := by simp [State.takeAbort]
@[simp] theorem State.abortStep_fuses (s : State) : s.abortStep.fuses = s.fuses := by simp [State.abortStep]
@[simp] theorem State.faultStep_fuses (s : State) : s.faultStep.fuses = s.fuses := by simp [State.faultStep]
@[simp] theorem State.haltCore_fuses (s : State) (c : CoreId) : (s.haltCore c).fuses = s.fuses := by
  unfold State.haltCore
  split <;> simp
@[simp] theorem State.takeExc_fuses (s : State) (c : CoreId) (e : Exc) (pc : W64) : (s.takeExc c e pc).fuses = s.fuses := by
  simp [State.takeExc]
@[simp] theorem State.haltInHandler_fuses (s : State) (c : CoreId) : (s.haltInHandler c).fuses = s.fuses := by simp [State.haltInHandler]
@[simp] theorem State.useFlow_fuses (s : State) (dest : BitVec 15) (cls : BitVec 2) : (s.useFlow dest cls).fuses = s.fuses := by
  simp [State.useFlow]
@[simp] theorem State.sendSecuring_fuses (s : State) (rank : Nat) (m : Msg) : (s.sendSecuring rank m).fuses = s.fuses := by
  simp [State.sendSecuring]

/-! ## Power -/

@[simp] theorem State.readyUpdate_fuses (s : State) : s.readyUpdate.fuses = s.fuses := by simp [State.readyUpdate]
@[simp] theorem State.reportFailed_fuses (s : State) : s.reportFailed.fuses = s.fuses := by simp [State.reportFailed]
@[simp] theorem State.askDivider_fuses (s : State) (d : Fin 10) (k : Nat) : (s.askDivider d k).fuses = s.fuses := by
  simp [State.askDivider]
@[simp] theorem State.settle_fuses (s : State) (d : Fin 10) : (s.settle d).fuses = s.fuses := by simp [State.settle]
@[simp] theorem State.adoptSettings_fuses (s : State) (d : Fin 10) : (s.adoptSettings d).fuses = s.fuses := by simp [State.adoptSettings]
@[simp] theorem State.urgentEntry_fuses (s : State) (n why : Nat) : (s.urgentEntry n why).fuses = s.fuses := by simp [State.urgentEntry]
@[simp] theorem State.throttles_fuses (s : State) : s.throttles.fuses = s.fuses := by simp [State.throttles]
@[simp] theorem State.diesReset_fuses (s : State) (warm : Bool) : (s.diesReset warm).fuses = s.fuses :=
  State.fuses_mk (fusedEn_map fun _ => rfl) rfl
@[simp] theorem State.resetTaken_fuses (s : State) (cls trigger : Nat) : (s.resetTaken cls trigger).fuses = s.fuses := by
  simp [State.resetTaken]
@[simp] theorem State.mainReset_fuses (s : State) (trigger : Nat) : (s.mainReset trigger).fuses = s.fuses := by simp [State.mainReset]
@[simp] theorem State.warmReset_fuses (s : State) (trigger : Nat) (chain : Bool) : (s.warmReset trigger chain).fuses = s.fuses := by
  simp [State.warmReset]
@[simp] theorem State.auxReset_fuses (s : State) (trigger : Nat) : (s.auxReset trigger).fuses = s.fuses := by
  simp [State.auxReset]
@[simp] theorem State.tick_fuses (s : State) : s.tick.fuses = s.fuses := by simp [State.tick]

/-! ## Sluice -/

@[simp] theorem State.allocate_fuses (s : State) (tag : Option W16) : (s.allocate tag).fuses = s.fuses := by simp [State.allocate]
@[simp] theorem State.adopt_fuses (s : State) (d : Fin 10) (tag : W16) : (s.adopt d tag).1.fuses = s.fuses := by
  unfold State.adopt
  repeat' split
  all_goals simp
@[simp] theorem State.learn_fuses (s : State) (d : Fin 10) (us : Nat) (power : Rat) : (s.learn d us power).fuses = s.fuses := by
  simp [State.learn]
@[simp] theorem execDividerSwitch_keeps (d : Fin 10) (s : State) : (execDividerSwitch d s).Keeps s := by
  unfold execDividerSwitch
  dsimp only
  split <;> simp
@[simp] theorem State.cancelUpshifts_fuses (s : State) : s.cancelUpshifts.fuses = s.fuses := by simp [State.cancelUpshifts]
@[simp] theorem execSagReset_keeps (i : Supply) (s : State) : (execSagReset i s).Keeps s := by
  unfold execSagReset
  split <;> simp
@[simp] theorem State.floorEnd_fuses (s : State) : s.floorEnd.fuses = s.fuses := by simp [State.floorEnd]
@[simp] theorem State.planDom_fuses (s : State) (l : Nat) (vmins : List Nat) : (s.planDom l vmins).fuses = s.fuses := by
  simp [State.planDom]
@[simp] theorem State.planHub_fuses (s : State) (vmin : Nat) : (s.planHub vmin).fuses = s.fuses := by simp [State.planHub]
@[simp] theorem State.planComplete_fuses (s : State) : s.planComplete.fuses = s.fuses := by simp [State.planComplete]

/-! ## RillCore -/

@[simp] theorem State.rill_keeps {s : State} {c : CoreId} {vector : Bool} {body : State → State} (h : (body s).fuses = s.fuses) :
    (s.rill c vector body).Keeps s := by
  unfold State.rill
  rw [Out.keeps_next]
  split
  · split <;> simp [h]
  · rfl
@[simp] theorem State.raiseExc_fuses (s : State) (c : CoreId) (e : Exc) : (s.raiseExc c e).fuses = s.fuses := by simp [State.raiseExc]
@[simp] theorem State.hold_fuses (s : State) (c : CoreId) (kind : HoldKind) (i : Instr) : (s.hold c kind i).fuses = s.fuses := by
  simp [State.hold]

/-! ## Arrays -/

@[simp] theorem Jet.putArr_fused (x : Jet) (n : Nat) (a : Arr) : (x.putArr n a).fused = x.fused := by
  unfold Jet.putArr
  split <;> simp
@[simp] theorem Jet.modArr_fused (x : Jet) (n : Nat) (f : Arr → Arr) : (x.modArr n f).fused = x.fused := by simp [Jet.modArr]
@[simp] theorem Jet.arrayFault_fused (x : Jet) (n chain : Nat) : (x.arrayFault n chain).fused = x.fused := by simp [Jet.arrayFault]
@[simp] theorem Jet.modTiles_fused (x : Jet) (l : List (Nat × TileId)) (f : Tile → Tile) : (x.modTiles l f).fused = x.fused := by
  simp [Jet.modTiles]
@[simp] theorem execShadowLoadStart_keeps (j : Fin 160) (n : Fin 8) (s : State) : (execShadowLoadStart j n s).Keeps s := by
  unfold execShadowLoadStart
  dsimp only
  split <;> simp
@[simp] theorem execBankSwap_keeps (j : Fin 160) (n : Fin 8) (stall : Nat) (s : State) : (execBankSwap j n stall s).Keeps s := by
  unfold execBankSwap
  dsimp only
  split <;> simp
@[simp] theorem State.sampleDue_fuses (s : State) (d : Fin 4) : (s.sampleDue d).fuses = s.fuses := by
  unfold State.sampleDue
  split <;> simp
@[simp] theorem State.sentinelGap_fuses (s : State) (j : Fin 160) (n : Nat) (p : PassDesc) : (s.sentinelGap j n p).fuses = s.fuses := by
  simp [State.sentinelGap]
@[simp] theorem State.samplePass_fuses (s : State) (j : Fin 160) (n : Nat) (r : PassRun) (banks : List Bank) :
    (s.samplePass j n r banks).fuses = s.fuses := by simp [State.samplePass]
@[simp] theorem Jet.refusePass_fused (x : Jet) (n : Nat) (p : PassDesc) : (x.refusePass n p).fused = x.fused := by simp [Jet.refusePass]
@[simp] theorem placeFrom_fuses (l : List Placed) (full : List (Nat × Nat)) (s : State) : (placeFrom l full s).1.fuses = s.fuses := by
  induction l generalizing full s with
  | nil => rfl
  | cons q l ih =>
    unfold placeFrom
    dsimp only
    split
    · split <;> simp [ih]
    · exact ih full s
@[simp] theorem State.placeWork_fuses (s : State) : s.placeWork.fuses = s.fuses := by simp [State.placeWork]
@[simp] theorem execQueueHeadPass_keeps (j : Fin 160) (n : Fin 8) (s : State) : (execQueueHeadPass j n s).Keeps s := by
  unfold execQueueHeadPass
  dsimp only
  repeat' split
  all_goals simp
@[simp] theorem Jet.accumulate_fused (x : Jet) (n : Nat) (r : PassRun) : (x.accumulate n r).fused = x.fused := by simp [Jet.accumulate]
@[simp] theorem Jet.passFlags_fused (x : Jet) (n : Nat) (p : PassDesc) : (x.passFlags n p).1.fused = x.fused := by
  simp [Jet.passFlags]
@[simp] theorem execPassComplete_keeps (j : Fin 160) (n : Fin 8) (s : State) : (execPassComplete j n s).Keeps s := by
  unfold execPassComplete
  dsimp only
  split <;> simp
@[simp] theorem Jet.clearTiles_fused (x : Jet) (l : List (Nat × TileId)) : (x.clearTiles l).fused = x.fused := by simp [Jet.clearTiles]
@[simp] theorem State.sampleDrain_fuses (s : State) (j : Fin 160) (n : Nat) (t : TileId) (chain : Nat) (e : SpoutEnv)
    (vals : List (List Src)) (poison : Bool) : (s.sampleDrain j n t chain e vals poison).fuses = s.fuses := by simp [State.sampleDrain]
@[simp] theorem State.sampleLost_fuses (s : State) (j : Fin 160) (n : Nat) (t : TileId) (chain : Nat) :
    (s.sampleLost j n t chain).fuses = s.fuses := by simp [State.sampleLost]
@[simp] theorem State.dropDrain_fuses (s : State) (j : Fin 160) (l : List Nat) (t : TileId) : (s.dropDrain j l t).fuses = s.fuses := by
  simp [State.dropDrain]
@[simp] theorem State.drain_fuses (s : State) (j : Fin 160) (l : List Nat) (t : TileId) (d : SpoutDesc) :
    (s.drain j l t d).fuses = s.fuses := by simp [State.drain]
@[simp] theorem execSpoutDrainStart_keeps (j : Fin 160) (n : Fin 8) (t : TileId) (s : State) : (execSpoutDrainStart j n t s).Keeps s := by
  unfold execSpoutDrainStart
  dsimp only
  repeat' split
  all_goals simp

/-! ## Tiers -/

@[simp] theorem State.memFatal_fuses (s : State) (g : MemRegion) (unit reason : Nat) : (s.memFatal g unit reason).fuses = s.fuses := by
  simp [State.memFatal]
@[simp] theorem State.waitCheck_fuses (s : State) (g : MemRegion) : (s.waitCheck g).fuses = s.fuses := by
  unfold State.waitCheck
  dsimp only
  split <;> simp
@[simp] theorem State.mapOutBegin_fuses (s : State) (g : MemRegion) (unit reason : Nat) (dead : Bool) :
    (s.mapOutBegin g unit reason dead).fuses = s.fuses := by simp [State.mapOutBegin]
@[simp] theorem State.checkPackage_fuses (s : State) (g : MemRegion) (unit reason : Nat) (dead : Bool) :
    (s.checkPackage g unit reason dead).fuses = s.fuses := by simp [State.checkPackage]
@[simp] theorem State.mapOutRequest_fuses (s : State) (u : MemUnit) (reason : Nat) (dead : Bool) :
    (s.mapOutRequest u reason dead).fuses = s.fuses := by simp [State.mapOutRequest]
@[simp] theorem State.mapOutCheck_fuses (s : State) (u : MemUnit) : (s.mapOutCheck u).fuses = s.fuses := by simp [State.mapOutCheck]
@[simp] theorem execMapOutStart_keeps (g : MemRegion) (s : State) : (execMapOutStart g s).Keeps s := by
  unfold execMapOutStart
  dsimp only
  split <;> simp
@[simp] theorem State.mapOutDone_fuses (s : State) (g : MemRegion) : (s.mapOutDone g).fuses = s.fuses := by simp [State.mapOutDone]
@[simp] theorem execScrubRead_keeps (u : MemUnit) (addr : Nat) (e1 e2 : List Byte) (s : State) :
    (execScrubRead u addr e1 e2 s).Keeps s := by
  unfold execScrubRead
  dsimp only
  repeat' split
  all_goals simp
@[simp] theorem State.demandRead_fuses (s : State) (a : Nat) : (s.demandRead a).2.fuses = s.fuses := by
  unfold State.demandRead
  split
  next d u t e => exact (t.mapOutCheck_fuses u).trans (State.fuses_of_snd (s.tierRead_fuses a) (congrArg Prod.snd e))
  next d t e => exact State.fuses_of_snd (s.tierRead_fuses a) (congrArg Prod.snd e)
theorem State.demandRead_stands : ∃ r, r = @State.demandRead ∧ ∀ s a, (r s a).2.fuses = s.fuses := ⟨_, rfl, State.demandRead_fuses⟩
@[simp] theorem State.tierWriteIn_fuses (s : State) (a : Nat) (bs : List Byte) : (s.tierWriteIn a bs).fuses = s.fuses := by
  unfold State.tierWriteIn
  dsimp only
  split
  · simp
  · split
    next d t e => exact (t.tierPut_fuses _ _).trans (State.fuses_of_snd (s.demandRead_fuses _) e)
    next t e => exact (t.tierPut_fuses _ _).trans (State.fuses_of_snd (s.demandRead_fuses _) e)
@[simp] theorem State.deviceWrite_fuses (n : Nat) (s : State) (a : Nat) (bs : List Byte) : (s.deviceWrite n a bs).fuses = s.fuses := by
  induction n generalizing s a bs with
  | zero => rfl
  | succ n ih =>
    unfold State.deviceWrite
    split
    · rfl
    · cases s.canon a with
      | none => exact ih s _ _
      | some c => exact (ih _ _ _).trans (s.tierWriteIn_fuses c _)

/-! ## Fabric -/

@[simp] theorem State.countWeir_fuses (s : State) (k : Nat) : (s.countWeir k).fuses = s.fuses := by simp [State.countWeir]
@[simp] theorem State.countPort_fuses (s : State) (p : Fin 6) (k n : Nat) : (s.countPort p k n).fuses = s.fuses := by
  simp [State.countPort]
@[simp] theorem State.enterChannel_fuses (s : State) (e : BitVec 2) (v : Nat) : (s.enterChannel e v).fuses = s.fuses := by
  simp [State.enterChannel]
@[simp] theorem State.leaveChannel_fuses (s : State) (e : BitVec 2) (v : Nat) : (s.leaveChannel e v).fuses = s.fuses := by
  simp [State.leaveChannel]
@[simp] theorem State.holdWords_fuses (s : State) (p : Fin 6) (v n : Nat) : (s.holdWords p v n).fuses = s.fuses := by
  simp [State.holdWords]
@[simp] theorem State.leave_fuses (s : State) (x : Queued) : (s.leave x).fuses = s.fuses := by
  unfold State.leave
  split <;> simp
@[simp] theorem State.discard_fuses (s : State) (x : Queued) (k : Nat) : (s.discard x k).fuses = s.fuses := by simp [State.discard]
@[simp] theorem State.join_fuses (s : State) (q : Fin 6) (x : Queued) : (s.join q x).fuses = s.fuses := by simp [State.join]
@[simp] theorem State.reinject_fuses (s : State) (p : Fin 6) (x : Queued) : (s.reinject p x).fuses = s.fuses := by simp [State.reinject]
@[simp] theorem State.echoFor_fuses (s : State) (p : Packet) : (s.echoFor p).fuses = s.fuses := by simp [State.echoFor]
@[simp] theorem State.deliver_fuses (s : State) (p : Packet) : (s.deliver p).fuses = s.fuses := by simp [State.deliver]
@[simp] theorem State.routePacket_fuses (s : State) (x : Queued) (arr : Option (Fin 6)) : (s.routePacket x arr).fuses = s.fuses := by
  unfold State.routePacket
  split <;> simp
@[simp] theorem execPacketReceive_keeps (p : Fin 6) (s : State) : (execPacketReceive p s).Keeps s := by
  unfold execPacketReceive
  dsimp only
  repeat' split
  all_goals simp
@[simp] theorem State.putPayload_fuses (s : State) (a : Nat) (w : List Byte) : (s.putPayload a w).fuses = s.fuses := by
  unfold State.putPayload
  dsimp only
  repeat' split
  all_goals simp
@[simp] theorem State.modFlow_fuses (s : State) (dest : BitVec 15) (cls : BitVec 2) (f : Flow → Flow) :
    (s.modFlow dest cls f).fuses = s.fuses := by simp [State.modFlow]
@[simp] theorem State.lineSeen_fuses (s : State) (d : Nat) : (s.lineSeen d).fuses = s.fuses := by simp [State.lineSeen]
@[simp] theorem State.addBreak_fuses (s : State) (p : Fin 6) (d coord : Nat) : (s.addBreak p d coord).1.fuses = s.fuses := by
  unfold State.addBreak
  dsimp only
  repeat' split
  all_goals simp
@[simp] theorem State.clearBreaks_fuses (s : State) (p : Fin 6) (d coord span : Nat) :
    (s.clearBreaks p d coord span).1.fuses = s.fuses := by
  unfold State.clearBreaks
  dsimp only
  repeat' split
  all_goals simp
@[simp] theorem State.sendNotice_fuses (s : State) (q : Fin 6) (d coord span : Nat) (clear : Bool) :
    (s.sendNotice q d coord span clear).fuses = s.fuses := by simp [State.sendNotice]
@[simp] theorem execRingNotice_keeps (p : Fin 6) (dim : Fin 3) (coord span : Nat) (clear : Bool) (s : State) :
    (execRingNotice p dim coord span clear s).Keeps s := by
  unfold execRingNotice
  dsimp only
  split <;> simp

/-! ## Records -/

@[simp] theorem State.writeBytes_fuses (s : State) (a : Nat) (bs : List Byte) : (s.writeBytes a bs).fuses = s.fuses := by
  simp [State.writeBytes]
@[simp] theorem State.keepEntry_fuses (s : State) (i : Image) (e : ResEntry) : (s.keepEntry i e).fuses = s.fuses := by
  simp [State.keepEntry]
@[simp] theorem State.readEach_fuses (l : List Nat) (s : State) : (State.readEach l s).2.fuses = s.fuses := by
  induction l generalizing s with
  | nil => rfl
  | cons a l ih => exact (ih _).trans (State.readWords_fuses 1 s a)
@[simp] theorem State.writeEach_fuses (l : List (Nat × Option (List Byte))) (s : State) : (State.writeEach l s).fuses = s.fuses := by
  induction l generalizing s with
  | nil => rfl
  | cons p l ih => exact (ih _).trans (State.writeWords_fuses [p.2] s p.1)
@[simp] theorem State.putShare_fuses (s : State) (i : Image) (o : Nat) (l : List (Option (List Byte))) :
    (s.putShare i o l).fuses = s.fuses := by
  induction l generalizing s o with
  | nil => rfl
  | cons w l ih => exact (ih _ _).trans (State.writeWords_fuses [w] s _)
@[simp] theorem State.putHeader_fuses (s : State) (i : Image) : (s.putHeader i).fuses = s.fuses := by simp [State.putHeader]
@[simp] theorem State.clearShare_fuses (s : State) (i : Image) : (s.clearShare i).fuses = s.fuses := by simp [State.clearShare]
@[simp] theorem State.foldShare_fuses (s : State) (i : Image) (o : Nat) (l : List (Option (List Byte))) :
    (s.foldShare i o l).fuses = s.fuses := by
  generalize hf : @State.foldShare = f
  delta State.foldShare State.foldShare._f at hf
  obtain ⟨r, hr, read⟩ := State.readWords_stands
  rw [← hr] at hf
  subst hf
  induction l generalizing s o with
  | nil => rfl
  | cons w l ih => exact (ih _ _).trans ((State.writeWords_fuses _ _ _).trans (read 1 s _))

/-! ## Update -/

@[simp] theorem State.stepSkew_fuses (s : State) (r : Fin 2) (held : Bool) (local' agreed : List W32) (groups : Nat) :
    (s.stepSkew r held local' agreed groups).fuses = s.fuses := by simp [State.stepSkew]
@[simp] theorem State.takeDesc_fuses (s : State) (i : Image) (held : Bool) : (s.takeDesc i held).fuses = s.fuses := by
  unfold State.takeDesc
  split <;> simp
@[simp] theorem State.beginUpdate_fuses (s : State) : s.beginUpdate.fuses = s.fuses := by
  unfold State.beginUpdate
  split <;> simp
@[simp] theorem State.gradOf_fuses (s : State) (i : Image) (held : Bool) (idx : Nat) (bad : List Nat) :
    (s.gradOf i held idx bad).2.fuses = s.fuses := by
  unfold State.gradOf
  split <;> simp
theorem State.gradOf_stands : ∃ r, r = @State.gradOf ∧ ∀ s i held idx bad, (r s i held idx bad).2.fuses = s.fuses :=
  ⟨_, rfl, State.gradOf_fuses⟩
@[simp] theorem State.skipRecord_fuses (s : State) (i : Image) (r : Fin 2) (n : Nat) (held : Bool) (idx total : Nat) :
    (s.skipRecord i r n held idx total).fuses = s.fuses := by
  generalize hf : @State.skipRecord = f
  delta State.skipRecord at hf
  obtain ⟨r, hr, read⟩ := State.readRecord_stands
  rw [← hr] at hf
  subst hf
  simp [read]
@[simp] theorem State.stageRecord_fuses (s : State) (i : Image) (r : Fin 2) (n : Fin 16) (held : Bool) (no idx : Nat) (bad : List Nat) :
    (s.stageRecord i r n held no idx bad).fuses = s.fuses := by
  generalize hf : @State.stageRecord = f
  delta State.stageRecord at hf
  obtain ⟨r, hr, take⟩ := State.takeRecord_stands
  obtain ⟨g, hg, grad⟩ := State.gradOf_stands
  rw [← hr, ← hg] at hf
  subst hf
  simp [take, grad]
@[simp] theorem execRecordStage_keeps (r : Fin 2) (n : Fin 16) (b : StageFrom) (s : State) : (execRecordStage r n b s).Keeps s := by
  unfold execRecordStage
  dsimp only
  repeat' split
  all_goals simp
@[simp] theorem execRecordWriteback_keeps (r : Fin 2) (n : Fin 16) (s : State) : (execRecordWriteback r n s).Keeps s := by
  unfold execRecordWriteback
  obtain ⟨r, hr, read⟩ := State.readWords_stands
  rw [← hr, Out.keeps_next]
  split
  · rfl
  · dsimp only
    split
    · rfl
    · split <;> simp [read]

/-! ## CollOps -/

@[simp] theorem State.countColl_fuses (s : State) (k n : Nat) : (s.countColl k n).fuses = s.fuses := by simp [State.countColl]
@[simp] theorem State.reportSuspect_fuses (s : State) (rank : BitVec 15) (cause : Nat) :
    (s.reportSuspect rank cause).fuses = s.fuses := by simp [State.reportSuspect]
@[simp] theorem State.modColl_fuses (s : State) (coll occ : Nat) (f : OpenColl → OpenColl) : (s.modColl coll occ f).fuses = s.fuses := by
  simp [State.modColl]
@[simp] theorem State.sendChunk_fuses (s : State) (dest : Nat) (id : ChunkId) (d : ChunkData) :
    (s.sendChunk dest id d).fuses = s.fuses := by simp [State.sendChunk]
@[simp] theorem State.feed_fuses (s : State) (coll occ a m c : Nat) (d : ChunkData) : (s.feed coll occ a m c d).fuses = s.fuses := by
  unfold State.feed
  repeat' split
  all_goals simp
@[simp] theorem State.takeResult_fuses (s : State) (coll occ c : Nat) (d : ChunkData) : (s.takeResult coll occ c d).fuses = s.fuses := by
  unfold State.takeResult
  dsimp only
  repeat' split
  all_goals simp
@[simp] theorem State.takeEarly_fuses (s : State) (e : ChunkId × ChunkData) : (s.takeEarly e).fuses = s.fuses := by simp [State.takeEarly]
@[simp] theorem State.openColl_fuses (s : State) (coll occ : Nat) (op : CollOp) (fmt : CollFmt) (chunks : Nat) (own : Tbl ChunkData)
    (absent : List Nat) : (s.openColl coll occ op fmt chunks own absent).fuses = s.fuses := by
  unfold State.openColl
  split <;> simp
@[simp] theorem State.takeStart_fuses (s : State) (absent carried : List Nat) : (s.takeStart absent carried).fuses = s.fuses := by
  unfold State.takeStart
  dsimp only
  split <;> simp
@[simp] theorem State.sendStart_fuses (s : State) : s.sendStart.fuses = s.fuses := by simp [State.sendStart]
@[simp] theorem State.takeReady_fuses (s : State) (rank : Nat) (carried : Bool) : (s.takeReady rank carried).fuses = s.fuses := by
  simp [State.takeReady]
@[simp] theorem State.beginExchange_fuses (s : State) : s.beginExchange.fuses = s.fuses := by simp [State.beginExchange]
@[simp] theorem State.endExchange_fuses (s : State) : s.endExchange.fuses = s.fuses := by simp [State.endExchange]
@[simp] theorem State.keepExchange_fuses (s : State) : s.keepExchange.fuses = s.fuses := by simp [State.keepExchange]

/-! ## Sequencer -/

@[simp] theorem State.beginReserve_fuses (s : State) : s.beginReserve.fuses = s.fuses := by simp [State.beginReserve]
@[simp] theorem State.formVote_fuses (s : State) : s.formVote.fuses = s.fuses := by
  unfold State.formVote
  split <;> simp
@[simp] theorem State.beginCommit_fuses (s : State) : s.beginCommit.fuses = s.fuses := by simp [State.beginCommit]
@[simp] theorem State.enterPhase_fuses (s : State) (p : Nat) : (s.enterPhase p).fuses = s.fuses := by simp [State.enterPhase]
@[simp] theorem State.openRegions_fuses (s : State) : s.openRegions.fuses = s.fuses := by
  unfold State.openRegions
  split <;> simp
@[simp] theorem State.relay_fuses (s : State) (i : Image) (p : Policy) : (s.relay i p).fuses = s.fuses := by simp [State.relay]
@[simp] theorem State.applyPolicy_fuses (s : State) : s.applyPolicy.fuses = s.fuses := by
  unfold State.applyPolicy
  dsimp only
  repeat' split
  all_goals simp
@[simp] theorem State.startStep_fuses (s : State) : s.startStep.fuses = s.fuses := by simp [State.startStep]
@[simp] theorem State.nextStep_fuses (s : State) : s.nextStep.fuses = s.fuses := by simp [State.nextStep]
@[simp] theorem State.afterPause_fuses (s : State) : s.afterPause.fuses = s.fuses := by simp [State.afterPause]

/-! ## Boxes -/

@[simp] theorem State.go_fuses (s : State) (n : Fin 8) : (s.go n).fuses = s.fuses := by
  unfold State.go
  dsimp only
  repeat' split
  all_goals simp
@[simp] theorem execServerTake_keeps (n : Fin 8) (s : State) : (execServerTake n s).Keeps s := by
  unfold execServerTake
  dsimp only
  repeat' split
  all_goals simp
@[simp] theorem State.abortBox_fuses (s : State) (n : Fin 8) : (s.abortBox n).fuses = s.fuses := by simp [State.abortBox]
@[simp] theorem State.watchCaps_fuses (s : State) : s.watchCaps.fuses = s.fuses := by
  unfold State.watchCaps
  split <;> simp
@[simp] theorem State.serve_fuses {s : State} {n : Fin 8} {op : Nat} {f : State → Mailbox → State} (h : ∀ b, (f s b).fuses = s.fuses) :
    (s.serve n op f).fuses = s.fuses := by
  unfold State.serve
  split
  · split <;> simp [h]
  · rfl

/-! ## Survival -/

@[simp] theorem execReserveEntryReceive_keeps (e : ResEntry) (s : State) : (execReserveEntryReceive e s).Keeps s := by
  unfold execReserveEntryReceive
  rw [Out.keeps_next]
  split
  · rfl
  · split <;> simp
@[simp] theorem State.commitStep_fuses (s : State) : s.commitStep.fuses = s.fuses := by simp [State.commitStep]
@[simp] theorem State.recordMismatch_fuses (s : State) (winner : Nat) : (s.recordMismatch winner).fuses = s.fuses := by
  simp [State.recordMismatch]
@[simp] theorem State.actVote_fuses (s : State) : s.actVote.fuses = s.fuses := by
  unfold State.actVote
  split <;> simp
@[simp] theorem State.resumeStep_fuses (s : State) : s.resumeStep.fuses = s.fuses := by
  unfold State.resumeStep
  split <;> simp
@[simp] theorem State.imageOf_fuses {s : State} {i : Image} {take : State → Nat → List (Option (List Byte)) × State} {t : List W32}
    (h : ∀ s n, (take s n).2.fuses = s.fuses) : (s.imageOf i take t).2.fuses = s.fuses :=
  State.foldl_snd_fuses (f := fun p x => (p.1 ++ (take p.2 x).1, (take p.2 x).2)) (fun p x => h p.2 x) _ ([], s)
@[simp] theorem State.liveImage_fuses (s : State) (i : Image) : (s.liveImage i).2.fuses = s.fuses := by
  generalize hf : @State.liveImage = f
  delta State.liveImage at hf
  obtain ⟨r, hr, take⟩ := State.takeRecord_stands
  rw [← hr] at hf
  subst hf
  exact State.imageOf_fuses fun s x => take s i false x
@[simp] theorem State.copyImage_fuses (s : State) (i : Image) : (s.copyImage i).2.fuses = s.fuses := by
  generalize hf : @State.copyImage = f
  delta State.copyImage at hf
  obtain ⟨r, hr, read⟩ := State.readWords_stands
  obtain ⟨g, hg, live⟩ : ∃ g, g = @State.liveImage ∧ ∀ s i, (g s i).2.fuses = s.fuses := ⟨_, rfl, State.liveImage_fuses⟩
  rw [← hr, ← hg] at hf
  subst hf
  dsimp only
  split <;> simp [read, live]
@[simp] theorem State.putSecured_fuses (s : State) (i : Image) (o : Nat) (l : List (Option (List Byte))) :
    (s.putSecured i o l).fuses = s.fuses := by
  induction l generalizing s o with
  | nil => rfl
  | cons w l ih =>
    unfold State.putSecured
    dsimp only
    split <;> simp [ih]
@[simp] theorem State.sendStripes_fuses (s : State) (img : List (Option (List Byte))) (digest : W128) :
    (s.sendStripes img digest).fuses = s.fuses := by simp [State.sendStripes]
@[simp] theorem State.applyKG_fuses (s : State) : s.applyKG.fuses = s.fuses := by
  unfold State.applyKG
  split <;> simp
@[simp] theorem State.noTerraceCheck_fuses (s : State) : s.noTerraceCheck.fuses = s.fuses := by simp [State.noTerraceCheck]
@[simp] theorem State.beginPause_fuses (s : State) : s.beginPause.fuses = s.fuses := by
  unfold State.beginPause
  dsimp only
  split <;> simp
@[simp] theorem State.foldPiece_fuses (s : State) (i : Image) (member offset : Nat) (data : List Byte) (digest : W128) (last : Bool) :
    (s.foldPiece i member offset data digest last).fuses = s.fuses := by simp [State.foldPiece]
@[simp] theorem State.sendRebuilt_fuses (s : State) (i : Image) (rank : Nat) (pieces : Tbl (List Byte)) :
    (s.sendRebuilt i rank pieces).fuses = s.fuses := by simp [State.sendRebuilt]
@[simp] theorem State.rebuildPiece_fuses (s : State) (i : Image) (rank : Nat) (pieces : Tbl (List Byte)) (whole : List Nat)
    (member offset : Nat) (data : List Byte) (last : Bool) :
    (s.rebuildPiece i rank pieces whole member offset data last).fuses = s.fuses := by
  simp [State.rebuildPiece]
@[simp] theorem execParityPieceReceive_keeps (member offset : Nat) (data : List Byte) (digest : W128) (last : Bool) (s : State) :
    (execParityPieceReceive member offset data digest last s).Keeps s := by
  unfold execParityPieceReceive
  split <;> simp
@[simp] theorem execSecurePauseEnd_keeps (takenUs : Nat) (s : State) : (execSecurePauseEnd takenUs s).Keeps s := by
  unfold execSecurePauseEnd
  rw [Out.keeps_next]
  dsimp only
  repeat' split
  all_goals simp
@[simp] theorem State.setJetLanes_fuses (s : State) (l : Tbl W64) : (s.setJetLanes l).fuses = s.fuses :=
  State.fuses_mk (fusedEn_ofFn fun j => s.jet_fused j) rfl
@[simp] theorem State.setCoreLanes_fuses (s : State) (l : Tbl W64) : (s.setCoreLanes l).fuses = s.fuses := by simp [State.setCoreLanes]

/-! ## Membership -/

@[simp] theorem State.memb_fuses (s : State) (st : Nat) : (s.memb st).fuses = s.fuses := by simp [State.memb]
@[simp] theorem State.abandonColls_fuses (s : State) : s.abandonColls.fuses = s.fuses := by simp [State.abandonColls]
@[simp] theorem State.dropWaiters_fuses (s : State) : s.dropWaiters.fuses = s.fuses := by
  unfold State.dropWaiters
  dsimp only
  split <;> simp
@[simp] theorem State.dropCarried_fuses (s : State) : s.dropCarried.fuses = s.fuses := by simp [State.dropCarried]
@[simp] theorem State.fence_fuses (s : State) : s.fence.fuses = s.fuses := by simp [State.fence]
@[simp] theorem State.uncoverGroups_fuses (s : State) : s.uncoverGroups.fuses = s.fuses := by simp [State.uncoverGroups]
@[simp] theorem State.coverUpdate_fuses (s : State) : s.coverUpdate.fuses = s.fuses := by simp [State.coverUpdate]
@[simp] theorem State.reopenVote_fuses (s : State) : s.reopenVote.fuses = s.fuses := by simp [State.reopenVote]
@[simp] theorem State.failureOutcome_fuses (s : State) (newly : List Nat) (complete : Bool) :
    (s.failureOutcome newly complete).fuses = s.fuses := by simp [State.failureOutcome]
@[simp] theorem State.leaderLost_fuses (s : State) : s.leaderLost.fuses = s.fuses := by simp [State.leaderLost]
@[simp] theorem State.countFills_fuses (s : State) (t : MembTable) : (s.countFills t).fuses = s.fuses := by simp [State.countFills]
@[simp] theorem State.sendFill_fuses (s : State) (rank : Nat) (f : FillData) : (s.sendFill rank f).fuses = s.fuses := by
  simp [State.sendFill]
@[simp] theorem State.sendRecords_fuses (s : State) (i : Image) (rank : Nat) (held : Bool) :
    (s.sendRecords i rank held).fuses = s.fuses := by
  unfold State.sendRecords
  obtain ⟨r, hr, take⟩ := State.takeRecord_stands
  rw [← hr]
  simp [take]
@[simp] theorem State.wholeEntry_fuses (s : State) (i : Image) (e : ResEntry) : (s.wholeEntry i e).2.fuses = s.fuses := by
  generalize hf : @State.wholeEntry = f
  delta State.wholeEntry at hf
  obtain ⟨r, hr, read⟩ := State.readWords_stands
  rw [← hr] at hf
  subst hf
  simp [read]
@[simp] theorem State.fillOwn_fuses (s : State) (i : Image) (rank : Nat) : (s.fillOwn i rank).fuses = s.fuses := by
  unfold State.fillOwn
  dsimp only
  repeat' split
  all_goals simp
@[simp] theorem State.fillHeld_fuses (s : State) (i : Image) (rank : Nat) : (s.fillHeld i rank).fuses = s.fuses := by
  unfold State.fillHeld
  dsimp only
  split <;> simp
@[simp] theorem State.fillParity_fuses (s : State) (i : Image) (rank : Nat) : (s.fillParity i rank).fuses = s.fuses := by
  simp [State.fillParity]
@[simp] theorem State.donate_fuses (s : State) (i : Image) (rank : Nat) : (s.donate i rank).fuses = s.fuses := by simp [State.donate]
@[simp] theorem State.donateAll_fuses (s : State) (was : Option MembTable) (t : MembTable) (newly : List Nat) :
    (s.donateAll was t newly).fuses = s.fuses := by
  unfold State.donateAll
  split <;> simp
@[simp] theorem State.adoptTable_fuses (s : State) (t : MembTable) (complete : Bool) : (s.adoptTable t complete).fuses = s.fuses := by
  simp [State.adoptTable]
@[simp] theorem State.beginFill_fuses (s : State) (t : MembTable) (rank : Nat) : (s.beginFill t rank).fuses = s.fuses := by
  unfold State.beginFill
  dsimp only
  split <;> simp
@[simp] theorem State.becomeMember_fuses (s : State) (t : MembTable) (rank box : Nat) : (s.becomeMember t rank box).fuses = s.fuses := by
  simp [State.becomeMember]
@[simp] theorem State.spareTable_fuses (s : State) (t : MembTable) (rank box : Nat) : (s.spareTable t rank box).fuses = s.fuses := by
  unfold State.spareTable
  split <;> simp
@[simp] theorem execCommit_keeps (table : MembTable) (complete : Bool) (s : State) : (execCommit table complete s).Keeps s := by
  unfold execCommit
  split <;> simp
@[simp] theorem State.propose_fuses (s : State) (entry : Option (Nat × BitVec 15 × Nat)) : (s.propose entry).fuses = s.fuses := by
  simp [State.propose]
@[simp] theorem State.suspectRanks_fuses (s : State) (rs : List Nat) : (s.suspectRanks rs).fuses = s.fuses := by
  unfold State.suspectRanks
  dsimp only
  repeat' split
  all_goals simp
@[simp] theorem State.admitRank_fuses (s : State) (rank : Nat) (addr : BitVec 15) : (s.admitRank rank addr).fuses = s.fuses := by
  unfold State.admitRank
  repeat' split
  all_goals simp
@[simp] theorem State.nextJoin_fuses (s : State) : s.nextJoin.fuses = s.fuses := by
  unfold State.nextJoin
  split <;> simp
@[simp] theorem State.endRound_fuses (s : State) : s.endRound.fuses = s.fuses := by
  unfold State.endRound
  split <;> simp
@[simp] theorem State.roundCheck_fuses (s : State) : s.roundCheck.fuses = s.fuses := by
  unfold State.roundCheck
  split <;> simp
@[simp] theorem State.answer_fuses (s : State) (src : Nat) (suspects : List Nat) : (s.answer src suspects).fuses = s.fuses := by
  simp [State.answer]
@[simp] theorem execPropose_keeps (src : Nat) (epoch : W32) (suspects : List Nat) (s : State) :
    (execPropose src epoch suspects s).Keeps s := by
  unfold execPropose
  repeat' split
  all_goals simp
@[simp] theorem execAccept_keeps (src : Nat) (epoch : W32) (suspects : List Nat) (complete : Bool) (s : State) :
    (execAccept src epoch suspects complete s).Keeps s := by
  unfold execAccept
  split <;> simp
@[simp] theorem State.installTable_fuses (s : State) (t : Option MembTable) (rank st : Nat) (epoch : W32) :
    (s.installTable t rank st epoch).fuses = s.fuses := by simp [State.installTable]
@[simp] theorem execMembershipSet_keeps (n : Fin 8) (table : MembTable) (othersIdle : Bool) (s : State) :
    (execMembershipSet n table othersIdle s).Keeps s := by
  unfold execMembershipSet
  rw [Out.keeps_next]
  refine State.serve_fuses fun b => ?_
  dsimp only
  repeat' split
  all_goals simp

/-! ## JobCmds -/

@[simp] theorem State.policyChange_fuses (s : State) (sel : BitVec 6) (p : Policy) (step : W64) :
    (s.policyChange sel p step).fuses = s.fuses := by simp [State.policyChange]
@[simp] theorem State.applyJob_fuses (s : State) (cmd : JobCmd) (step : W64) : (s.applyJob cmd step).fuses = s.fuses := by
  unfold State.applyJob
  repeat' split
  all_goals simp
@[simp] theorem State.leadJob_fuses (s : State) (cmd : JobCmd) : (s.leadJob cmd).fuses = s.fuses := by simp [State.leadJob]
@[simp] theorem State.forwardJob_fuses (s : State) (cmd : JobCmd) : (s.forwardJob cmd).fuses = s.fuses := by simp [State.forwardJob]

/-! ## Mover -/

@[simp] theorem State.mvFault_fuses (s : State) (j : Fin 160) (tag reason addr : Nat) :
    (s.mvFault j tag reason addr).fuses = s.fuses := by simp [State.mvFault]
@[simp] theorem State.mvRead_fuses (s : State) (j : Fin 160) (d : MvDesc) (host : List Byte) (pos a : Nat) :
    (s.mvRead j d host pos a).2.fuses = s.fuses := by
  unfold State.mvRead
  dsimp only
  split
  · split <;> exact State.modJet_fuses (s.jet_fused j)
  · split
    · split
      · rfl
      · split <;> rfl
    · split
      · rfl
      next c _ =>
        split
        next b t e => exact State.fuses_of_snd (s.demandRead_fuses c) e
        next t e => exact State.fuses_of_snd (s.demandRead_fuses c) e
@[simp] theorem State.hostReads_fuses (s : State) (d : MvDesc) : (s.hostReads d).fuses = s.fuses := by
  unfold State.hostReads
  split
  · rfl
  · exact State.foldl_fuses (fun s r => by split <;> simp) _ s
@[simp] theorem State.hostWrite_fuses (s : State) (b o len : Nat) (prev w : List Byte) :
    (s.hostWrite b o len prev w).2.fuses = s.fuses := by
  unfold State.hostWrite
  dsimp only
  repeat' split
  all_goals simp
@[simp] theorem State.mvWrite_fuses (s : State) (j : Fin 160) (d : MvDesc) (a o len : Nat) (prev : List Byte) (w : Option (List Byte)) :
    (s.mvWrite j d a o len prev w).2.fuses = s.fuses := by
  unfold State.mvWrite
  repeat' split
  all_goals simp
@[simp] theorem State.mvCopy_fuses (s : State) (j : Fin 160) (d : MvDesc) (host : List Byte) (n i : Nat) (prev : List Byte) :
    (s.mvCopy j d host n i prev).1.fuses = s.fuses := by
  induction n generalizing s i prev with
  | zero => rfl
  | succ n ih =>
    unfold State.mvCopy
    dsimp only
    have read {a : Nat} {w : MvWord} {t : State} (e : s.mvRead j d host (32 * i) a = (w, t)) : t.fuses = s.fuses :=
      State.fuses_of_snd (s.mvRead_fuses ..) e
    split
    next t e => exact read e
    next t e => exact read e
    next t e => exact (t.mvWrite_fuses ..).trans (read e)
    next w t e =>
      split
      next u e' => exact (State.fuses_of_snd (t.mvWrite_fuses ..) e').trans (read e)
      next u e' => exact (ih _ _ _).trans ((State.fuses_of_snd (t.mvWrite_fuses ..) e').trans (read e))
@[simp] theorem State.tileRows_fuses (s : State) (d : MvDesc) (n i : Nat) : (s.tileRows d n i).2.2.fuses = s.fuses := by
  induction n generalizing s i with
  | zero => rfl
  | succ n ih =>
    unfold State.tileRows
    dsimp only
    split
    · simp [ih]
    · rfl
@[simp] theorem State.countTile_fuses (s : State) (a : Nat) : (s.countTile a).fuses = s.fuses := by
  unfold State.countTile
  repeat' split
  all_goals simp
@[simp] theorem State.mvTranspose_fuses (s : State) (j : Fin 160) (d : MvDesc) (n t : Nat) :
    (s.mvTranspose j d n t).1.fuses = s.fuses := by
  induction n generalizing s t with
  | zero => rfl
  | succ n ih =>
    unfold State.mvTranspose
    dsimp only
    split
    next u e => exact State.fuses_of_snd (s.tileRows_fuses ..) (congrArg Prod.snd e)
    next bad u _ e =>
      have hu : u.fuses = s.fuses := State.fuses_of_snd (s.tileRows_fuses ..) (congrArg Prod.snd e)
      cases bad <;> simp [ih, hu]
@[simp] theorem State.mvRow_fuses (s : State) (j : Fin 160) (d : MvDesc) (host : List Byte) (pos a n : Nat) (acc : List Byte) :
    (s.mvRow j d host pos a n acc).2.2.fuses = s.fuses := by
  induction n generalizing s pos a acc with
  | zero => rfl
  | succ n ih =>
    unfold State.mvRow
    have read {w : MvWord} {t : State} (e : s.mvRead j d host pos a = (w, t)) := State.fuses_of_snd (s.mvRead_fuses j d host pos a) e
    split
    next t e => exact read e
    next t e => exact read e
    next t e => exact read e
    next w t e => exact (ih _ _ _ _).trans (read e)
@[simp] theorem State.mvWriteAll_fuses (s : State) (j : Fin 160) (d : MvDesc) (a len n o : Nat) (prev bs : List Byte) :
    (s.mvWriteAll j d a len n o prev bs).1.fuses = s.fuses := by
  induction n generalizing s o prev bs with
  | zero => rfl
  | succ n ih =>
    unfold State.mvWriteAll
    dsimp only
    split
    · rfl
    · split
      next t e => exact State.fuses_of_snd (s.mvWrite_fuses ..) e
      next t e => exact (ih _ _ _ _).trans (State.fuses_of_snd (s.mvWrite_fuses ..) e)
@[simp] theorem State.mvConvert_fuses (s : State) (j : Fin 160) (d : MvDesc) (host : List Byte) (n i : Nat) :
    (s.mvConvert j d host n i).1.fuses = s.fuses := by
  induction n generalizing s i with
  | zero => rfl
  | succ n ih =>
    unfold State.mvConvert
    split
    next bs f t e =>
      have ht : t.fuses = s.fuses := State.fuses_of_snd (s.mvRow_fuses ..) (congrArg Prod.snd e)
      dsimp only
      split <;> simp [ht]
    next bs t e =>
      have ht : t.fuses = s.fuses := State.fuses_of_snd (s.mvRow_fuses ..) (congrArg Prod.snd e)
      dsimp only
      split
      next u f e' => exact (State.fuses_of_fst (State.mvWriteAll_fuses ..) e').trans (by simp [ht])
      next u e' => exact (ih _ _).trans ((State.fuses_of_fst (State.mvWriteAll_fuses ..) e').trans (by simp [ht]))
@[simp] theorem State.snoopFor_fuses (s : State) (ls : List Nat) (write : Bool) : (s.snoopFor ls write).fuses = s.fuses := by
  simp [State.snoopFor]
@[simp] theorem State.mvRun_fuses (s : State) (j : Fin 160) (d : MvDesc) (host : List Byte) : (s.mvRun j d host).1.fuses = s.fuses := by
  unfold State.mvRun
  repeat' split
  all_goals simp
@[simp] theorem execMoverDescriptorStart_keeps (j : Fin 160) (hostData : List Byte) (s : State) :
    (execMoverDescriptorStart j hostData s).Keeps s := by
  unfold execMoverDescriptorStart
  rw [Out.keeps_next]
  dsimp only
  split
  · rfl
  · iterate 6
      split
      · simp
    split
    next t e => simp [State.fuses_of_fst (State.mvRun_fuses ..) e]
    next t reason a e => simp [State.fuses_of_fst (State.mvRun_fuses ..) e]
@[simp] theorem Jet.dropDesc_fused (x : Jet) (d : MvDesc) : (x.dropDesc d).fused = x.fused := by simp [Jet.dropDesc]
@[simp] theorem execCxlCacheTimeout_keeps (j : Fin 160) (tag : W16) (s : State) : (execCxlCacheTimeout j tag s).Keeps s := by
  unfold execCxlCacheTimeout
  split <;> simp
@[simp] theorem execLinkHoldExpiry_keeps (j : Fin 160) (tag : W16) (s : State) : (execLinkHoldExpiry j tag s).Keeps s := by
  unfold execLinkHoldExpiry
  dsimp only
  repeat' split
  all_goals simp

/-! ## VecFn -/

@[simp] theorem State.runVec_fuses (s : State) (c : CoreId) (d : BitVec 5) (nd w n : Nat) (fn : Core → Nat → ElemOut) :
    (s.runVec c d nd w n fn).fuses = s.fuses := by
  unfold State.runVec
  dsimp only
  split <;> simp
@[simp] theorem State.runVecWhole_fuses (s : State) (c : CoreId) (d : BitVec 5) (nd w n : Nat) (fn : Core → Nat → ElemOut) :
    (s.runVecWhole c d nd w n fn).fuses = s.fuses := by
  unfold State.runVecWhole
  dsimp only
  split <;> simp
@[simp] theorem State.checked_fuses {s : State} {c : CoreId} {word : Nat} {checks : List (Bool × Nat)} {body : State → State}
    (h : (body s).fuses = s.fuses) : (s.checked c word checks body).fuses = s.fuses := by
  unfold State.checked
  split <;> simp [h]

/-! ## Vector -/

@[simp] theorem vldBody_fuses (c : CoreId) (f : RFields) (s : State) : (vldBody c f s).fuses = s.fuses := by
  unfold vldBody
  dsimp only
  split <;> simp
@[simp] theorem execVld_keeps (c : CoreId) (f : RFields) (s : State) : (execVld c f s).Keeps s := by simp [execVld]
@[simp] theorem vstBody_fuses (c : CoreId) (f : RFields) (s : State) : (vstBody c f s).fuses = s.fuses := by
  unfold vstBody
  dsimp only
  split <;> simp
@[simp] theorem execVst_keeps (c : CoreId) (f : RFields) (s : State) : (execVst c f s).Keeps s := by simp [execVst]
@[simp] theorem State.vfmaOp_keeps (s : State) (c : CoreId) (op : Nat) (negP negC : Bool) (f : RFields) :
    (s.vfmaOp c op negP negC f).Keeps s := by simp [State.vfmaOp]
@[simp] theorem execVred_keeps (c : CoreId) (f : RFields) (s : State) : (execVred c f s).Keeps s := by
  refine State.rill_keeps (State.checked_fuses ?_)
  dsimp only
  split
  · split <;> simp
  · split
    · simp
    · split <;> simp
@[simp] theorem execVcvtb_keeps (c : CoreId) (f : RFields) (s : State) : (execVcvtb c f s).Keeps s := by
  unfold execVcvtb
  dsimp only
  split <;> simp

/-! ## Graph -/

@[simp] theorem State.readTensor_fuses (s : State) (i : Image) (t : TensorDecl) : (s.readTensor i t).2.fuses = s.fuses := by
  unfold State.readTensor
  dsimp only
  repeat' split
  all_goals simp
@[simp] theorem State.writeTensor_fuses (s : State) (i : Image) (t : TensorDecl) (bs : List Byte) :
    (s.writeTensor i t bs).fuses = s.fuses := by simp [State.writeTensor]
@[simp] theorem State.writePart_fuses (s : State) (i : Image) (t : TensorDecl) (n o : Nat) (bs : List Byte) :
    (s.writePart i t n o bs).fuses = s.fuses := by
  induction n generalizing s o bs with
  | zero => rfl
  | succ n ih =>
    unfold State.writePart
    split
    · rfl
    · simp [ih]
@[simp] theorem State.reduce_fuses (s : State) (i : Image) (op : RedKind) (src dst : TensorDecl) :
    (s.reduce i op src dst).fuses = s.fuses := by simp [State.reduce]
@[simp] theorem State.startKernel_fuses (s : State) (i : Image) (k : Nat) (jets : List Nat) :
    (s.startKernel i k jets).fuses = s.fuses := by simp [State.startKernel]
@[simp] theorem State.runNode_fuses (s : State) (i : Image) (n : GraphNode) : (s.runNode i n).fuses = s.fuses := by
  unfold State.runNode
  dsimp only
  repeat' split
  all_goals simp
@[simp] theorem execGraphNodeStart_keeps (node : Nat) (finished : List Nat) (s : State) :
    (execGraphNodeStart node finished s).Keeps s := by
  unfold execGraphNodeStart
  dsimp only
  repeat' split
  all_goals simp

/-! ## Inject -/

@[simp] theorem State.viewOf_fuses (s : State) (rank : Nat) : (s.viewOf rank).fuses = s.fuses := by simp [State.viewOf]
@[simp] theorem State.startFlow_fuses (s : State) (p : Packet) : (s.startFlow p).fuses = s.fuses := by simp [State.startFlow]
@[simp] theorem State.injectOne_fuses (s : State) (p : Packet) : (s.injectOne p).fuses = s.fuses := by simp [State.injectOne]
@[simp] theorem injectFrom_fuses (l : List Packet) (s : State) : (injectFrom l s).1.fuses = s.fuses := by
  induction l generalizing s with
  | nil => rfl
  | cons p l ih =>
    unfold injectFrom
    split <;> simp [ih]
@[simp] theorem State.inject_fuses (s : State) : s.inject.fuses = s.fuses := by simp [State.inject]
@[simp] theorem State.startNext_fuses (s : State) (p : Fin 6) : (s.startNext p).fuses = s.fuses := by
  unfold State.startNext
  dsimp only
  repeat' split
  all_goals simp

/-! ## Collective -/

@[simp] theorem State.stallCheck_fuses (s : State) : s.stallCheck.fuses = s.fuses := by simp [State.stallCheck]
@[simp] theorem execCollectiveOpen_keeps (coll occ : Nat) (op : CollOp) (fmt : CollFmt) (chunks : Nat) (own : Tbl ChunkData) (s : State) :
    (execCollectiveOpen coll occ op fmt chunks own s).Keeps s := by
  unfold execCollectiveOpen
  repeat' split
  all_goals simp
@[simp] theorem State.sendAck_fuses (s : State) (src : Nat) (id : ChunkId) : (s.sendAck src id).fuses = s.fuses := by
  unfold State.sendAck
  dsimp only
  split <;> simp
/-- A chunk that goes no further leaves the fuses. -/
theorem State.screened_fuses {s t : State} {src : Nat} {id : ChunkId} {lost : Bool} (h : s.screened src id lost = some t) :
    t.fuses = s.fuses := by
  unfold State.screened at h
  dsimp only at h
  repeat' split at h
  all_goals cases h
  all_goals simp
@[simp] theorem State.accept_fuses (s : State) (src : Nat) (id : ChunkId) (data : ChunkData) :
    (s.accept src id data).fuses = s.fuses := by simp [State.accept]
@[simp] theorem execChunkReceive_keeps (src : Nat) (id : ChunkId) (data : ChunkData) (lost : Bool) (s : State) :
    (execChunkReceive src id data lost s).Keeps s := by
  unfold execChunkReceive
  rw [Out.keeps_next]
  split
  · rfl
  · split
    next t h => exact State.screened_fuses h
    next => simp
@[simp] theorem execResultReceive_keeps (src : Nat) (id : ChunkId) (data : ChunkData) (lost : Bool) (s : State) :
    (execResultReceive src id data lost s).Keeps s := by
  unfold execResultReceive
  rw [Out.keeps_next]
  split
  · rfl
  · split
    next t h => exact State.screened_fuses h
    next => simp
@[simp] theorem execNodeEvaluate_keeps (coll occ c a m : Nat) (s : State) : (execNodeEvaluate coll occ c a m s).Keeps s := by
  unfold execNodeEvaluate
  dsimp only
  repeat' split
  all_goals simp
@[simp] theorem execChunkRetransmit_keeps (dest : Nat) (id : ChunkId) (readable : Bool) (s : State) :
    (execChunkRetransmit dest id readable s).Keeps s := by
  unfold execChunkRetransmit
  split <;> simp
@[simp] theorem State.storeResults_fuses (s : State) (i : Image) (t : TensorDecl) (x : OpenColl) :
    (s.storeResults i t x).fuses = s.fuses := by simp [State.storeResults]
@[simp] theorem State.delivered_fuses (s : State) (x : OpenColl) : (s.delivered x).fuses = s.fuses := by
  unfold State.delivered
  repeat' split
  all_goals simp
@[simp] theorem execCollectiveComplete_keeps (coll occ : Nat) (s : State) : (execCollectiveComplete coll occ s).Keeps s := by
  unfold execCollectiveComplete
  split <;> simp

/-! ## Thermal -/

@[simp] theorem State.stop_fuses (s : State) (code : Nat) (args : List Nat) : (s.stop code args).fuses = s.fuses := by simp [State.stop]
@[simp] theorem State.emergencyStop_fuses (s : State) (cause : Nat) : (s.emergencyStop cause).fuses = s.fuses := by
  simp [State.emergencyStop]
@[simp] theorem execThermalTrip_keeps (x : Sensor) (temp : Int) (s : State) : (execThermalTrip x temp s).Keeps s := by
  unfold execThermalTrip
  split <;> simp
@[simp] theorem State.coolantUpdate_fuses (s : State) : s.coolantUpdate.fuses = s.fuses := by simp [State.coolantUpdate]
@[simp] theorem State.takeSample_fuses (s : State) (x : Sensor) (v : Int) : (s.takeSample x v).fuses = s.fuses := by
  simp [State.takeSample]
@[simp] theorem execSensorSample_keeps (x : Sensor) (v : Int) (s : State) : (execSensorSample x v s).Keeps s := by
  unfold execSensorSample
  split <;> simp
@[simp] theorem execSensorFail_keeps (x : Sensor) (s : State) : (execSensorFail x s).Keeps s := by
  unfold execSensorFail
  split <;> simp
@[simp] theorem execThermalCeilingLower_keeps (d : Fin 10) (s : State) : (execThermalCeilingLower d s).Keeps s := by
  unfold execThermalCeilingLower
  split <;> simp

/-! ## CxlPort -/

@[simp] theorem execCxlMemRead_keeps (line : Nat) (s : State) : (execCxlMemRead line s).Keeps s := by
  unfold execCxlMemRead
  obtain ⟨r, hr, read⟩ := State.demandRead_stands
  rw [← hr, Out.keeps_next]
  repeat' split
  all_goals simp [read]
@[simp] theorem execCxlMemWrite_keeps (line : Nat) (data : List Byte) (enables : W64) (s : State) :
    (execCxlMemWrite line data enables s).Keeps s := by
  unfold execCxlMemWrite
  obtain ⟨r, hr, read⟩ := State.demandRead_stands
  rw [← hr, Out.keeps_next]
  split
  · rfl
  · dsimp only
    rw [State.send_fuses]
    split
    · simp
    · split <;> simp [read]
@[simp] theorem State.unmask_fuses (s : State) (v : Nat) : (s.unmask v).fuses = s.fuses := by simp [State.unmask]

/-! ## Slots -/

@[simp] theorem Firmware.record_fuses (f : Firmware) : f.record.fuses = f.fuses := by simp [Firmware.record]

/-! ## Startup -/

@[simp] theorem Firmware.bootKeeper_fuses (f : Firmware) (i : SlotImage) : (f.bootKeeper i).fuses = f.fuses := by
  simp [Firmware.bootKeeper]
@[simp] theorem execKeeperBoot_keeps (s : State) : (execKeeperBoot s).Keeps s := by
  unfold execKeeperBoot
  dsimp only
  repeat' split
  all_goals simp
@[simp] theorem State.holdRecord_fuses (s : State) (code sev : Nat) (args : List Nat) : (s.holdRecord code sev args).fuses = s.fuses := by
  simp [State.holdRecord]
@[simp] theorem State.abandon_fuses (s : State) : s.abandon.fuses = s.fuses := by simp [State.abandon]
@[simp] theorem State.startupFail_fuses (s : State) (ms : Nat) : (s.startupFail ms).fuses = s.fuses := by simp [State.startupFail]
@[simp] theorem State.chooseSlot_fuses (s : State) : s.chooseSlot.2.2.fuses = s.fuses := by
  unfold State.chooseSlot
  dsimp only
  repeat' split
  all_goals simp
@[simp] theorem State.bootSlot_fuses (s : State) (b trial : Bool) (i : SlotImage) : (s.bootSlot b trial i).fuses = s.fuses := by
  simp [State.bootSlot]
@[simp] theorem State.bootFirmware_fuses (s : State) : s.bootFirmware.1.fuses = s.fuses := by
  unfold State.bootFirmware
  dsimp only
  repeat' split
  all_goals simp
@[simp] theorem State.trainFailed_fuses (s : State) (us : List MemUnit) : (s.trainFailed us).fuses = s.fuses := by
  simp [State.trainFailed]
@[simp] theorem State.portsFailed_fuses (s : State) (ps : List (Fin 6)) : (s.portsFailed ps).fuses = s.fuses := by
  simp [State.portsFailed]
@[simp] theorem State.memoryInit_fuses (s : State) : s.memoryInit.fuses = s.fuses := by simp [State.memoryInit]
@[simp] theorem State.selfTest_fuses (s : State) (pass : Tbl Byte) : (s.selfTest pass).fuses = s.fuses := by
  unfold State.selfTest
  dsimp only
  rw [State.fuses_ite, State.capChange_fuses, ite_self]
  exact State.fuses_mk (fusedEn_ofFn fun j => s.jet_fused j) rfl
@[simp] theorem State.toStep_fuses (s : State) (n : Nat) : (s.toStep n).fuses = s.fuses := by simp [State.toStep]
@[simp] theorem State.dimPorts_fuses (s : State) (d : Fin 3) (f : Port → Port) : (s.dimPorts d f).fuses = s.fuses := by
  simp [State.dimPorts]

/-! ## Keeper -/

@[simp] theorem State.endHold_fuses (s : State) : s.endHold.fuses = s.fuses := by simp [State.endHold]
@[simp] theorem State.restartBoxes_fuses (s : State) : s.restartBoxes.fuses = s.fuses := by
  simp [State.restartBoxes]
@[simp] theorem State.classTaken_fuses (s : State) (cls trigger : Nat) : (s.classTaken cls trigger).fuses = s.fuses := by
  simp [State.classTaken]
@[simp] theorem State.fwRestart_fuses (s : State) : s.fwRestart.fuses = s.fuses := by simp [State.fwRestart]
@[simp] theorem State.dropReady_fuses (s : State) : s.dropReady.fuses = s.fuses := by simp [State.dropReady]
@[simp] theorem State.hostReset_fuses (s : State) (cls : Nat) (f : Cxl → Cxl) : (s.hostReset cls f).fuses = s.fuses := by
  simp [State.hostReset]
@[simp] theorem State.gateBasins_fuses (s : State) : s.gateBasins.fuses = s.fuses := by simp [State.gateBasins]
@[simp] theorem execPowerStateChangeDone_keeps (s : State) : (execPowerStateChangeDone s).Keeps s := by
  unfold execPowerStateChangeDone
  dsimp only
  repeat' split
  all_goals simp

/-! ## Link -/

@[simp] theorem State.sendFrame_fuses (s : State) (p : Fin 6) (hdr body : List Byte) : (s.sendFrame p hdr body).fuses = s.fuses := by
  simp [State.sendFrame]
@[simp] theorem State.linkDown_fuses (s : State) (p : Fin 6) : (s.linkDown p).fuses = s.fuses := by simp [State.linkDown]
@[simp] theorem State.retryPort_fuses (s : State) (p : Fin 6) : (s.retryPort p).fuses = s.fuses := by simp [State.retryPort]
@[simp] theorem State.takeAck_fuses (s : State) (p : Fin 6) (ack : BitVec 12) : (s.takeAck p ack).fuses = s.fuses := by
  simp [State.takeAck]
@[simp] theorem execFrameTransmit_keeps (p : Fin 6) (s : State) : (execFrameTransmit p s).Keeps s := by
  unfold execFrameTransmit
  dsimp only
  repeat' split
  all_goals simp
@[simp] theorem State.trainRefused_fuses (s : State) (p : Fin 6) (why : Nat) : (s.trainRefused p why).fuses = s.fuses := by
  simp [State.trainRefused]
@[simp] theorem State.emptyBuffers_fuses (s : State) (p : Fin 6) : (s.emptyBuffers p).fuses = s.fuses := by simp [State.emptyBuffers]
@[simp] theorem State.linkUp_fuses (s : State) (p : Fin 6) (lanes : Nat) : (s.linkUp p lanes).fuses = s.fuses := by simp [State.linkUp]
@[simp] theorem execTrainingDone_keeps (p : Fin 6) (rep : TrainReport) (s : State) : (execTrainingDone p rep s).Keeps s := by
  unfold execTrainingDone
  repeat' split
  all_goals simp

/-! ## Loader -/

@[simp] theorem Jet.place_fused (x : Jet) (i : Image) (j : Nat) : (x.place i j).fused = x.fused := by simp [Jet.place]
@[simp] theorem State.placeImage_fuses (s : State) (i : Image) : (s.placeImage i).fuses = s.fuses :=
  State.fuses_mk (fusedEn_ofFn fun j => by simp) rfl
@[simp] theorem State.loadEnds_fuses (s : State) : s.loadEnds.fuses = s.fuses := by simp [State.loadEnds]
@[simp] theorem State.finishLoad_fuses (s : State) (n : Fin 8) (b : Mailbox) (img : Option ImageFile) (keep : Bool) :
    (s.finishLoad n b img keep).fuses = s.fuses := by
  unfold State.finishLoad
  dsimp only
  repeat' split
  all_goals simp
@[simp] theorem State.seedJets_fuses (s : State) (tail : List Byte) : (s.seedJets tail).fuses = s.fuses := by simp [State.seedJets]
@[simp] theorem State.seedCores_fuses (s : State) (tail : List Byte) : (s.seedCores tail).fuses = s.fuses := by simp [State.seedCores]
@[simp] theorem State.importShard_fuses (s : State) (i : Image) (held weights : Bool) (recs : List (List Byte)) :
    (s.importShard i held weights recs).1.fuses = s.fuses := by simp [State.importShard]
@[simp] theorem State.jobStart_fuses (s : State) (i : Image) (n : Fin 8) (b : Mailbox) (cp : Checkpoint) :
    (s.jobStart i n b cp).fuses = s.fuses := by
  generalize hf : @State.jobStart = f
  delta State.jobStart at hf
  obtain ⟨r, hr, digest⟩ := State.shardDigest_stands
  rw [← hr] at hf
  subst hf
  simp [digest]
@[simp] theorem State.jobBegin_fuses (s : State) (n : Fin 8) : (s.jobBegin n).fuses = s.fuses := by simp [State.jobBegin]
@[simp] theorem State.toFlowing_fuses (s : State) : s.toFlowing.fuses = s.fuses := by simp [State.toFlowing]
@[simp] theorem execRun_keeps (n : Fin 8) (cp : Checkpoint) (others : List (List Byte)) (s : State) :
    (execRun n cp others s).Keeps s := by
  unfold execRun
  obtain ⟨check, hc⟩ : ∃ check, check = @State.survivalCheck := exists_eq
  rw [← hc, Out.keeps_next]
  refine State.serve_fuses fun b => ?_
  dsimp only
  repeat' split
  all_goals simp

/-! ## Mgmt -/

@[simp] theorem execFlashLogCopy_keeps (s : State) : (execFlashLogCopy s).Keeps s := by
  unfold execFlashLogCopy
  split <;> simp
@[simp] theorem Firmware.putSlot_fuses (f : Firmware) (b : Bool) (x : Option SlotImage) : (f.putSlot b x).fuses = f.fuses := by
  simp [Firmware.putSlot]
@[simp] theorem execFwUpdateChunk_keeps (n : Fin 8) (s : State) : (execFwUpdateChunk n s).Keeps s := by
  unfold execFwUpdateChunk
  rw [Out.keeps_next]
  refine State.serve_fuses fun b => ?_
  split <;> simp
@[simp] theorem execFwUpdateCommit_keeps (n : Fin 8) (cut : Bool) (s : State) : (execFwUpdateCommit n cut s).Keeps s := by
  unfold execFwUpdateCommit
  rw [Out.keeps_next]
  split
  · rfl
  · refine State.serve_fuses fun b => ?_
    split
    · rfl
    · dsimp only
      split
      · simp
      · split <;> simp

/-! ## Scalar -/

@[simp] theorem State.scalarResult_fuses (s : State) (c : CoreId) (op : Nat) (f : RFields) (v : Option W64) :
    (s.scalarResult c op f v).fuses = s.fuses := by
  unfold State.scalarResult
  split <;> simp
@[simp] theorem ldBody_fuses (c : CoreId) (f : RFields) (s : State) : (ldBody c f s).fuses = s.fuses := by
  unfold ldBody
  dsimp only
  repeat' split
  all_goals simp
@[simp] theorem execLd_keeps (c : CoreId) (f : RFields) (s : State) : (execLd c f s).Keeps s := by simp [execLd]
@[simp] theorem stBody_fuses (c : CoreId) (f : RFields) (s : State) : (stBody c f s).fuses = s.fuses := by
  unfold stBody
  dsimp only
  repeat' split
  all_goals simp
@[simp] theorem execSt_keeps (c : CoreId) (f : RFields) (s : State) : (execSt c f s).Keeps s := by simp [execSt]
@[simp] theorem execBr_keeps (c : CoreId) (f : RFields) (s : State) : (execBr c f s).Keeps s := by
  refine State.rill_keeps ?_
  dsimp only
  split <;> simp
@[simp] theorem State.sys_keeps {s : State} {c : CoreId} {d a b : BitVec 5} {func : Nat} {body : State → State}
    (h : (body s).fuses = s.fuses) : (s.sys c d a b func body).Keeps s := by
  refine State.rill_keeps ?_
  split <;> simp [h]
@[simp] theorem execWaitcEnd_keeps (c : CoreId) (s : State) : (execWaitcEnd c s).Keeps s := by
  unfold execWaitcEnd
  split <;> simp
@[simp] theorem execWaitmEnd_keeps (c : CoreId) (s : State) : (execWaitmEnd c s).Keeps s := by
  unfold execWaitmEnd
  split <;> simp
@[simp] theorem execAsyncCauseTake_keeps (c : CoreId) (s : State) : (execAsyncCauseTake c s).Keeps s := by
  unfold execAsyncCauseTake
  dsimp only
  repeat' split
  all_goals simp
@[simp] theorem State.csrApply_fuses (s : State) (c : CoreId) (off op : Nat) (old v : W64) :
    (s.csrApply c off op old v).fuses = s.fuses := by
  unfold State.csrApply
  split <;> simp
@[simp] theorem State.csr_keeps (s : State) (c : CoreId) (d a : BitVec 5) (off : BitVec 14) (op : Nat) :
    (s.csr c d a off op).Keeps s := by
  refine State.rill_keeps ?_
  dsimp only
  split
  · simp
  · split <;> simp

/-! ## RillIssue -/

@[simp] theorem State.jetOnly_fuses {s : State} {c : CoreId} {word : Nat} {body : Fin 160 → State → State}
    (h : ∀ j, (body j s).fuses = s.fuses) : (s.jetOnly c word body).fuses = s.fuses := by
  unfold State.jetOnly
  split <;> simp [h]

@[simp] theorem arrBody_fuses (c : CoreId) (f : RFields) (s : State) : (arrBody c f s).fuses = s.fuses := by
  refine State.jetOnly_fuses fun j => State.checked_fuses ?_
  split
  · simp
  · simp
  · dsimp only
    simp
@[simp] theorem execArr_keeps (c : CoreId) (f : RFields) (s : State) : (execArr c f s).Keeps s := by simp [execArr]
@[simp] theorem execArrWaitEnd_keeps (c : CoreId) (s : State) : (execArrWaitEnd c s).Keeps s := by
  unfold execArrWaitEnd
  split
  · split
    · exact (execArr_keeps _ _ _).of_fuses (by simp)
    · simp
  · simp
@[simp] theorem moveBody_fuses (c : CoreId) (f : RFields) (s : State) : (moveBody c f s).fuses = s.fuses := by
  refine State.jetOnly_fuses fun j => State.checked_fuses ?_
  split
  · simp
  · simp
  · dsimp only
    simp
@[simp] theorem execMove_keeps (c : CoreId) (f : RFields) (s : State) : (execMove c f s).Keeps s := by simp [execMove]
@[simp] theorem execMoveWaitEnd_keeps (c : CoreId) (s : State) : (execMoveWaitEnd c s).Keeps s := by
  unfold execMoveWaitEnd
  split
  · split
    · exact (execMove_keeps _ _ _).of_fuses (by simp)
    · simp
  · simp
@[simp] theorem pcombBody_fuses (c : CoreId) (f : RFields) (s : State) : (pcombBody c f s).fuses = s.fuses := by
  refine State.jetOnly_fuses fun j => State.checked_fuses ?_
  dsimp only
  generalize (if f.lo.getLsbD 8 then 2 else 1 : Nat) = recs
  split
  · simp
  · split <;> simp
@[simp] theorem execPcomb_keeps (c : CoreId) (f : RFields) (s : State) : (execPcomb c f s).Keeps s := by simp [execPcomb]
@[simp] theorem vspoutBody_fuses (c : CoreId) (f : RFields) (s : State) : (vspoutBody c f s).fuses = s.fuses := by
  refine State.jetOnly_fuses fun j => State.checked_fuses ?_
  dsimp only
  split
  · simp
  · split
    · simp
    · simp
    · repeat' split
      all_goals simp
@[simp] theorem execVspout_keeps (c : CoreId) (f : RFields) (s : State) : (execVspout c f s).Keeps s := by simp [execVspout]
@[simp] theorem execVspoutWaitEnd_keeps (c : CoreId) (s : State) : (execVspoutWaitEnd c s).Keeps s := by
  unfold execVspoutWaitEnd
  split
  · split
    · exact (execVspout_keeps _ _ _).of_fuses (by simp)
    · simp
  · simp
@[simp] theorem execHazardHoldEnd_keeps (c : CoreId) (cycles : Nat) (s : State) : (execHazardHoldEnd c cycles s).Keeps s := by
  unfold execHazardHoldEnd
  dsimp only
  have hs := s.modCore_fuses c fun k => { k with held := none, hazard := satAdd k.hazard cycles }
  split
  · exact (execLd_keeps _ _ _).of_fuses hs
  · exact (execSt_keeps _ _ _).of_fuses hs
  · exact (execVld_keeps _ _ _).of_fuses hs
  · exact (execVst_keeps _ _ _).of_fuses hs
  · exact (execArr_keeps _ _ _).of_fuses hs
  · exact (execMove_keeps _ _ _).of_fuses hs
  · exact (execPcomb_keeps _ _ _).of_fuses hs
  · exact (execVspout_keeps _ _ _).of_fuses hs
  · simp
@[simp] theorem State.laneWrite_fuses (s : State) (c : CoreId) (k : Nat) (v : W64) : (s.laneWrite c k v).fuses = s.fuses := by
  simp [State.laneWrite]
@[simp] theorem State.heldLaneWrite_fuses (s : State) (r : Fin 2) (n : Fin 16) (k : Nat) (v : W64) :
    (s.heldLaneWrite r n k v).fuses = s.fuses := by simp [State.heldLaneWrite]

/-! ## Routes -/

@[simp] theorem execRouteStage_keeps (n : Fin 8) (entries : List W16) (s : State) : (execRouteStage n entries s).Keeps s := by
  unfold execRouteStage
  rw [Out.keeps_next]
  refine State.serve_fuses fun b => ?_
  dsimp only
  split
  · simp
  · split <;> simp

/-! ## Sentinel -/

@[simp] theorem State.sentinelRelease_fuses (s : State) (d : Fin 4) : (s.sentinelRelease d).fuses = s.fuses := by
  unfold State.sentinelRelease
  repeat' split
  all_goals simp
@[simp] theorem execSentinelCompare_keeps (d : Fin 4) (s : State) : (execSentinelCompare d s).Keeps s := by
  unfold execSentinelCompare
  dsimp only
  split <;> simp
@[simp] theorem State.sentinelSeed_fuses (s : State) (d : Fin 4) (v : W32) : (s.sentinelSeed d v).fuses = s.fuses := by
  simp [State.sentinelSeed]
@[simp] theorem State.sentinelOff_fuses (s : State) (d : Fin 4) : (s.sentinelOff d).fuses = s.fuses := by simp [State.sentinelOff]

/-! ## RegRead -/

/-- The counter that an offset names, if any, takes writes that leave the fuses. -/
def State.WritesKeep (s : State) (o : Option (W32 × (W32 → State))) : Prop := ∀ p ∈ o, ∀ v, (p.2 v).fuses = s.fuses

@[simp] theorem State.writesKeep_none {s : State} : s.WritesKeep none := nofun
@[simp] theorem State.writesKeep_some {s : State} {p : W32 × (W32 → State)} : s.WritesKeep (some p) ↔ ∀ v, (p.2 v).fuses = s.fuses := by
  simp [State.WritesKeep]
@[simp] theorem State.writesKeep_map {s : State} {o : Option W32} {f : W32 → W32 × (W32 → State)} :
    s.WritesKeep (o.map f) ↔ ∀ c ∈ o, ∀ v, ((f c).2 v).fuses = s.fuses := by cases o <;> simp
@[simp] theorem State.writesKeep_bind {α : Type} {s : State} {o : Option α} {f : α → Option (W32 × (W32 → State))} :
    s.WritesKeep (o.bind f) ↔ ∀ a ∈ o, s.WritesKeep (f a) := by cases o <;> simp
@[simp] theorem State.writesKeep_dite {s : State} {c : Prop} [Decidable c] {f : c → Option (W32 × (W32 → State))} :
    s.WritesKeep (if hc : c then f hc else none) ↔ ∀ hc, s.WritesKeep (f hc) := by split <;> simp [*]

theorem State.rc_writesKeep (s : State) (blk : RegBlock) (off : Nat) : s.WritesKeep (s.rc blk off) := by
  unfold State.rc
  repeat' split
  all_goals simp
@[simp] theorem execRcFieldRead_keeps (blk : RegBlock) (off arriving : Nat) (s : State) :
    (execRcFieldRead blk off arriving s).Keeps s := by
  unfold execRcFieldRead
  rw [Out.keeps_next]
  split
  next c put h => exact (State.fuses_mk rfl rfl).trans (s.rc_writesKeep blk off (c, put) h _)
  next => rfl
@[simp] theorem State.read32_fuses (s : State) (who : Agent) (blk : RegBlock) (off : Nat) : (s.read32 who blk off).2.fuses = s.fuses := by
  unfold State.read32
  split
  · dsimp only
    split
    · simp
    · split
      · split <;> simp
      · rfl
  · split
    next c put h =>
      split
      · rfl
      · exact s.rc_writesKeep blk off (c, put) h 0
    next => rfl

/-! ## RegFile -/

@[simp] theorem State.noteRsvd_fuses (s : State) (bad : Bool) (off v : Nat) : (s.noteRsvd bad off v).fuses = s.fuses := by
  simp [State.noteRsvd]
@[simp] theorem State.coreWrite_fuses (s : State) (c : CoreId) (off : Nat) (v : Nat) : (s.coreWrite c off v).fuses = s.fuses := by
  unfold State.coreWrite
  split <;> simp
@[simp] theorem State.coreWrite64_fuses (s : State) (c : CoreId) (off : Nat) (v : W64) : (s.coreWrite64 c off v).fuses = s.fuses := by
  unfold State.coreWrite64
  repeat' split
  all_goals simp
@[simp] theorem State.limitsPut_fuses (s : State) (v : Nat) : (s.limitsPut v).fuses = s.fuses := by simp [State.limitsPut]
@[simp] theorem State.sagPut_fuses (s : State) (v : Nat) : (s.sagPut v).fuses = s.fuses := by simp [State.sagPut]
@[simp] theorem State.regWrite64_fuses (s : State) (who : Agent) (blk : RegBlock) (off : Nat) (v : W64) :
    (s.regWrite64 who blk off v).fuses = s.fuses := by
  unfold State.regWrite64
  repeat' split
  all_goals simp
@[simp] theorem State.sentinelCtrl_fuses (s : State) (d : Fin 4) (v : Nat) : (s.sentinelCtrl d v).fuses = s.fuses := by
  simp [State.sentinelCtrl]
@[simp] theorem State.fhWrite_fuses (s : State) (off v : Nat) : (s.fhWrite off v).fuses = s.fuses := by
  unfold State.fhWrite
  split <;> simp
@[simp] theorem State.boxWrite_fuses (s : State) (n : Fin 8) (off v : Nat) : (s.boxWrite n off v).fuses = s.fuses := by
  unfold State.boxWrite
  split <;> simp
@[simp] theorem State.configWrite_fuses (s : State) (off v : Nat) : (s.configWrite off v).fuses = s.fuses := by simp [State.configWrite]
@[simp] theorem State.msixWrite_fuses (s : State) (off v : Nat) : (s.msixWrite off v).fuses = s.fuses := by
  unfold State.msixWrite
  split <;> simp
@[simp] theorem State.regWrite32_fuses (s : State) (who : Agent) (blk : RegBlock) (off v : Nat) :
    (s.regWrite32 who blk off v).fuses = s.fuses := by
  unfold State.regWrite32
  repeat' split
  all_goals simp
@[simp] theorem State.wordWrite_fuses (s : State) (who : Agent) (blk : RegBlock) (off v : Nat) :
    (s.wordWrite who blk off v).fuses = s.fuses := by
  unfold State.wordWrite
  split <;> simp
@[simp] theorem execRegisterWrite_keeps (who : Agent) (blk : RegBlock) (off : Nat) (wide : Bool) (v : W64) (s : State) :
    (execRegisterWrite who blk off wide v s).Keeps s := by
  unfold execRegisterWrite
  repeat' split
  all_goals simp

/-! ## Sideband -/

@[simp] theorem State.sideAnswer_fuses (s : State) (q : SideReq) (what : String) (args : List Int) :
    (s.sideAnswer q what args).fuses = s.fuses := by
  unfold State.sideAnswer
  split <;> simp
@[simp] theorem execGetsensorreading_keeps (id : W16) (s : State) : (execGetsensorreading id s).Keeps s := by
  unfold execGetsensorreading
  dsimp only
  repeat' split
  all_goals simp
@[simp] theorem State.mctpDrop_fuses (s : State) : s.mctpDrop.fuses = s.fuses := by simp [State.mctpDrop]
@[simp] theorem State.mctpMessage_fuses (s : State) (src : Byte) (m : List Byte) : (s.mctpMessage src m).fuses = s.fuses := by
  simp [State.mctpMessage]
@[simp] theorem execMctpPacketReceive_keeps (src : Byte) (som eom : Bool) (seq : BitVec 2) (tag : BitVec 3) (data : List Byte)
    (s : State) : (execMctpPacketReceive src som eom seq tag data s).Keeps s := by
  unfold execMctpPacketReceive
  split <;> simp

/-! ## Spare -/

@[simp] theorem State.sendJoin_fuses (s : State) (rank : Nat) : (s.sendJoin rank).fuses = s.fuses := by simp [State.sendJoin]
@[simp] theorem execSpareJoin_keeps (n : Fin 8) (s : State) : (execSpareJoin n s).Keeps s := by
  unfold execSpareJoin
  rw [Out.keeps_next]
  refine State.serve_fuses fun b => ?_
  dsimp only
  repeat' split
  all_goals simp
@[simp] theorem State.stepFrom_fuses (s : State) (bs : List Byte) : (s.stepFrom bs).fuses = s.fuses := by simp [State.stepFrom]
@[simp] theorem State.entryLanes_fuses (s : State) (e : ResEntry) : (s.entryLanes e).fuses = s.fuses :=
  (State.setCoreLanes_fuses _ _).trans (State.fuses_mk (fusedEn_ofFn fun j => by simp) rfl)
@[simp] theorem State.takeHeader_fuses (s : State) (gen : W16) (step : W64) (len member : Nat) (digest : W128) :
    (s.takeHeader gen step len member digest).fuses = s.fuses := by simp [State.takeHeader]
@[simp] theorem State.takeFill_fuses (s : State) (i : Image) (f : FillData) : (s.takeFill i f).fuses = s.fuses := by
  unfold State.takeFill
  split <;> simp
@[simp] theorem State.wrongImage_fuses (s : State) : s.wrongImage.fuses = s.fuses := by
  unfold State.wrongImage
  split <;> simp
@[simp] theorem State.repaired_fuses (s : State) (i : Image) : (s.repaired i).fuses = s.fuses := by
  unfold State.repaired
  obtain ⟨r, hr, digest⟩ := State.shardDigest_stands
  rw [← hr]
  dsimp only
  repeat' split
  all_goals simp [digest]
@[simp] theorem State.takeCopy_fuses (s : State) (i : Image) (f : FillData) : (s.takeCopy i f).fuses = s.fuses := by
  unfold State.takeCopy
  split <;> simp
@[simp] theorem execFillStreamReceive_keeps (f : FillData) (s : State) : (execFillStreamReceive f s).Keeps s := by
  unfold execFillStreamReceive
  split <;> simp
@[simp] theorem State.ownFromSecured_fuses (s : State) (i : Image) : (s.ownFromSecured i).fuses = s.fuses := by
  unfold State.ownFromSecured
  obtain ⟨r, hr, read⟩ := State.readWords_stands
  rw [← hr]
  simp [read]
@[simp] theorem State.fillAccepted_fuses (s : State) (i : Image) (rank : Nat) (own held : W128) :
    (s.fillAccepted i rank own held).fuses = s.fuses := by
  unfold State.fillAccepted
  dsimp only
  split <;> simp
@[simp] theorem State.fillFails_fuses (s : State) (i : Image) (rank box content : Nat) :
    (s.fillFails i rank box content).fuses = s.fuses := by simp [State.fillFails]
@[simp] theorem execFillVerify_keeps (ownDigest heldDigest securedDigest : W128) (s : State) :
    (execFillVerify ownDigest heldDigest securedDigest s).Keeps s := by
  unfold execFillVerify
  obtain ⟨r, hr, digest⟩ := State.shardDigest_stands
  obtain ⟨g, hg, copy⟩ : ∃ g, g = @State.copyImage ∧ ∀ s i, (g s i).2.fuses = s.fuses := ⟨_, rfl, State.copyImage_fuses⟩
  rw [← hr, ← hg, Out.keeps_next]
  dsimp only
  repeat' split
  all_goals simp [digest, copy]

/-! ## Commands -/

@[simp] theorem execHalt_keeps (c : CoreId) (d a b : BitVec 5) (s : State) : (execHalt c d a b s).Keeps s := by
  refine State.sys_keeps ?_
  dsimp only
  split
  · exact s.haltInHandler_fuses c
  · cases c <;> simp

/-- Every command but the end of a step of start-up answers a state with the fuses it was given: its branches are built of operations
that leave them. -/
theorem exec_keeps (i : Instr) (s : State) (h : ∀ rep, i ≠ .startupStepAdvance rep) :
    Out.Keeps (exec i s) s := by
  cases i
  case startupStepAdvance rep => exact absurd rfl (h rep)
  all_goals simp [exec, execReg64LowHalfRead, execPhaseAdvance, execDataPlaneRecordWrite, execSuspectEntryWrite, execSuspectEntryRead,
    execPhaseTagChange, execBudgetIntervalReport, execFwHang, execFwRestartDone, execCtrlReadySet, execMoverConvEnWrite, execAlu,
    execAddi, execAndi, execOri, execXori, execShi, execLui, execJal, execJalr, execFence, execWaitc, execWaitm, execRetx,
    execBreakpoint, execCsrRead, execCsrWrite, execCsrSet, execCsrClear, execFsc, execVfp, execVfma, execVfms, execVfnma,
    execVint, execVcvt, execVcvtw, execVcvtsb, execVrand, execVsplat, execVget, execVput, execLaneStateWrite, execHeldLaneWrite,
    execShadowLoadDone, execTileReturnIdle, execDrainLastWrite, execSentinelSample, execSentinelRecomputeStart, execSentinelPreempt,
    execSentinelSeedWrite, execSentinelDisable, execMoverDescriptorComplete, execScrubPassEnd, execUnitCommandTimeout,
    execRelocationGranuleDone, execRowRepair, execStackTempReport, execMemoryRetrain, execUpdatePassComplete, execReserveAckReceive,
    execReserveTimeout, execHeldDigestReceive, execVoteResult, execStepAbort, execSecurePauseStart, execHolderCompleteReceive,
    execSecureStage2Enter, execFrameReceive, execRetryTimeout, execHeartbeatTimeout, execLaneLockLoss, execLockLossTimeout,
    execTrainingAttempt, execPacketSendStart, execWrite, execEcho, execFlowRateIncrease, execRippleSample, execRippleRecordClose,
    execRippleMapRequest, execBypassOpen, execRouteCommitFlip, execRouteCommitRelease, execChunkAckTimer, execChunkAckReceive,
    execReady, execExchangeWindowClose, execStart, execLiveSend, execLive, execLiveTimeout, execSuspect, execSuspectWaitTimeout,
    execRoundTimeout, execAbandon, execFenceTimeout, execJoin, execJobCommandForward, execJobCommandApply, execCxlLinkUp,
    execCxlLinkDown, execHotReset, execFlr, execHdmDecoderCommit, execBisnpResponse, execHostSnoop, execDoeTableAccess,
    execMsixVectorUnmask, execTelemetryRewrite, execMailboxGo, execMailboxAbort, execServiceTimeout, execProgressUpdate,
    execIdentify, execGetCaps, execGetEventLog, execStepStatus, execSetHostWindow, execLoadProgram, execVerifyProgram,
    execHaltCommand, execSetPolicy, execSecureNow, execGetRippleMap, execSetPowerLimits, execGetThrottleLog, execGetAgeing,
    execReplanMargins, execSetTimeAnchor, execSetPowerState, execWarmReset, execWarmResetBegin, execFwUpdateBegin, execGetEvidence,
    execEventsDropped, execRailRampDone, execStretchBegin, execStretchRelease, execSagWarn, execSagClear, execPeakControllerStep,
    execSustainedControllerStep, execCapFloor, execDieTempSample, execThermalCeilingRaise, execFlowOkChange, execFlowLossTimeout,
    execLeakAssert, execInletOvertempTimeout, execPllUnlock, execRefclkLoss, execReplanDue, execReplanDomain, execReplanDeferred,
    execAuxPor, execMainPor, execPerstAssert, execPerstRelease, execPwrEnDeassert, execPwrEnAssert, execMainPowerEnable,
    execStartupStepTimeout, execSlotIdChanged, execSetdasa, execEntdaa, execMctpReassemblyTimeout, execSetEndpointId,
    execGetEndpointId, execGetMctpVersionSupport, execGetMessageTypeSupport, execGettid, execGetpldmversion, execGetpldmtypes,
    execGetpldmcommands, execGetpdrrepositoryinfo, execGetpdr, execFwAliveToggle, execControlCoreFault, execRefclkReturn,
    execLaneLockRegain, execLeakRelease, execBypassSwitchClosed, execWarmResetHoldEnd, execRunWaitExpiry]

/-! ## The end of a trial (R574) -/

/-- Setting bits of a word adds to it. -/
theorem foldl_setBit_eq_or {w : Nat} (ks : List Nat) (x : BitVec w) : ∃ m, ks.foldl (fun y k => setBit y k true) x = x ||| m := by
  induction ks generalizing x with
  | nil => exact ⟨0, by simp⟩
  | cons k ks ih =>
    obtain ⟨m, hm⟩ := ih (setBit x k true)
    exact ⟨1#w <<< k ||| m, by rw [List.foldl_cons, hm, setBit_true_eq_or, BitVec.or_assoc]⟩

/-- `t` has the fuses of `s` but for those that the activation of a trial blows (R574). -/
def State.Blows (s t : State) : Prop :=
  s.fw.trial = true ∧ ∃ n m, t.fuses = { s.fuses with fw := { s.fuses.fw with
    rollback := max s.fuses.fw.rollback (min 128 n), revoked := s.fuses.fw.revoked ||| m } }

/-- What was blown from one state was blown from any with its fuses and its trial. -/
theorem State.Blows.congr {s s' t t' : State} (h : s'.Blows t') (htrial : s'.fw.trial = s.fw.trial) (hs : s'.fuses = s.fuses)
    (ht : t.fuses = t'.fuses) : s.Blows t := by
  obtain ⟨trial, n, m, e⟩ := h
  exact ⟨htrial ▸ trial, n, m, by rw [ht, e, hs]⟩

/-- Only a trial is activated. -/
theorem State.activate_blows (s : State) : s.activate.fuses = s.fuses ∨ s.Blows s.activate := by
  unfold State.activate
  dsimp only
  split
  next i htrial hslot =>
    obtain ⟨m, hm⟩ := foldl_setBit_eq_or (s.fw.toRevoke i) s.fw.revoked
    refine .inr ⟨htrial, i.svn, m, ?_⟩
    simp only [State.event_fuses, State.foldl_fuses fun (s : State) k => s.event_fuses 0x0206 2 srcKeeper [k], State.fuses_ite,
      ite_self, hm]
    rfl
  next => exact .inl rfl

@[simp] theorem State.event_keeper (s : State) (code sev src : Nat) (args : List Nat) :
    (s.event code sev src args).keeper = s.keeper := by
  rw [s.event_frame code sev src args]

@[simp] theorem State.foldl_keeper {α : Type} {f : State → α → State} (h : ∀ s a, (f s a).keeper = s.keeper) (l : List α) (s : State) :
    (l.foldl f s).keeper = s.keeper := by
  induction l generalizing s with
  | nil => rfl
  | cons a l ih => exact (ih (f s a)).trans (h s a)

@[simp] theorem State.activate_keeper (s : State) : s.activate.keeper = s.keeper := by
  unfold State.activate
  dsimp only
  split
  · simp [apply_ite State.keeper]
  · rfl

@[simp] theorem State.readyUpdate_dataReady (s : State) : s.readyUpdate.keeper.dataReady = s.keeper.dataReady := by
  unfold State.readyUpdate
  split
  · rfl
  · rw [(State.raise_frame _ icReady).1]

/-- Start-up ends with fuses blown only with a trial activated, which DATA_READY goes with. -/
theorem State.startupDone_blows (s : State) :
    s.startupDone.fuses = s.fuses ∨ s.startupDone.keeper.dataReady = true ∧ s.Blows s.startupDone := by
  unfold State.startupDone
  dsimp only
  split
  next ok =>
    generalize hu : ({ s with keeper := _ } : State) = u
    have trial : u.fw.trial = s.fw.trial := hu ▸ rfl
    have fuses : u.fuses = s.fuses := by rw [← hu]; simp
    have ready : u.keeper.dataReady = true := by rw [← hu]; exact ok
    refine u.activate_blows.imp (fun keeps => ?_) fun blows => ⟨?_, blows.congr trial fuses ?_⟩
    · rw [State.readyUpdate_fuses, State.event_fuses, keeps, fuses]
    · rw [State.readyUpdate_dataReady, State.event_keeper, State.activate_keeper, ready]
    · rw [State.readyUpdate_fuses, State.event_fuses]
  next => exact .inl (by simp)

theorem State.selfTest_trial (s : State) (pass : Tbl Byte) : (s.selfTest pass).fw.trial = s.fw.trial := by
  unfold State.selfTest
  dsimp only
  split <;> rfl

theorem State.toStep_trial (s : State) (n : Nat) : (s.toStep n).fw.trial = s.fw.trial := by
  simp only [State.toStep]
  split <;> rfl

/-- Of the steps of start-up, only the last blows fuses (R539, R574). -/
theorem State.stepDone_blows (s : State) (rep : StepReport) :
    (s.stepDone rep).fuses = s.fuses ∨ s.keeper.step = 10 ∧ (s.stepDone rep).keeper.dataReady = true ∧ s.Blows (s.stepDone rep) := by
  unfold State.stepDone
  dsimp only
  split
  next => exact .inl (by simp)
  next => exact .inl (by simp)
  next => exact .inl (by split <;> simp)
  next => exact .inl (by simp)
  next => exact .inl (by simp)
  next => exact .inl (by simp)
  next => exact .inl (by simp)
  next => exact .inl (by simp)
  next step10 =>
    have keeps : ((s.selfTest rep.arrayPass).toStep 11).fuses = s.fuses := by simp
    have trial := ((s.selfTest rep.arrayPass).toStep_trial 11).trans (s.selfTest_trial rep.arrayPass)
    exact (State.startupDone_blows _).imp (·.trans keeps) fun ⟨ready, blows⟩ => ⟨step10, ready, blows.congr trial keeps rfl⟩
  next => exact .inl rfl

/-! ## A step of the module -/

/-- The fuses are what they were, or the end of start-up blew those of a trial. -/
theorem step_fuses {s t : State} (h : step s = .next t) :
    t.fuses = s.fuses ∨ s.keeper.step = 10 ∧ t.keeper.dataReady = true ∧
      (∃ rep rest, s.pending = .startupStepAdvance rep :: rest) ∧ s.Blows t := by
  unfold step at h
  split at h
  next c rest pending =>
    by_cases advance : ∃ rep, c = .startupStepAdvance rep
    · obtain ⟨rep, rfl⟩ := advance
      obtain rfl := Host.Outcome.next.inj h
      split
      · refine (State.stepDone_blows _ rep).imp (·.trans (by simp)) fun ⟨step10, ready, blows⟩ =>
          ⟨step10, ready, ⟨rep, rest, pending⟩, blows.congr rfl (by simp) rfl⟩
      · exact .inl (by simp)
    · exact .inl ((exec_keeps c _ (fun rep e => advance ⟨rep, e⟩) t h).trans (by simp))
  next =>
    obtain rfl := Host.Outcome.next.inj h
    exact .inl s.tick_fuses

/-! ## What the fuses say -/

theorem State.gradeOk_eq (s : State) : s.gradeOk = gradeFuses s.fuses.part.grade s.fuses.enabled.toList := by
  unfold State.gradeOk State.fuses fusedEn
  rw [Vector.toList_map]

/-- A module with the same fuses keeps them. -/
theorem State.fusesKept_of_eq {s t : State} (h : t.fuses = s.fuses) : s.fusesKept t := by
  have fw : t.fw.fuses = s.fw.fuses := congrArg Fuses.fw h
  refine ⟨congrArg Fuses.part h, fun j => by rw [t.jet_fused, s.jet_fused, h], congrArg FwFuses.skSeed fw, congrArg FwFuses.skPrf fw,
    congrArg FwFuses.pkSeed fw, congrArg FwFuses.keys fw, ?_, (congrArg FwFuses.rollback fw).ge⟩
  rw [show t.fw.revoked = s.fw.revoked from congrArg FwFuses.revoked fw, BitVec.and_not_self]

theorem and_not_or_self {w : Nat} (x m : BitVec w) : x &&& ~~~(x ||| m) = 0 := by
  rw [BitVec.not_or, ← BitVec.and_assoc, BitVec.and_not_self]
  exact BitVec.zero_and

/-- What a trial blows undoes nothing. -/
theorem State.Blows.fusesKept {s t : State} (h : s.Blows t) : s.fusesKept t := by
  obtain ⟨-, n, m, e⟩ := h
  have fw := congrArg Fuses.fw e
  refine ⟨congrArg Fuses.part e, fun j => by rw [t.jet_fused, s.jet_fused, e], congrArg FwFuses.skSeed fw, congrArg FwFuses.skPrf fw,
    congrArg FwFuses.pkSeed fw, congrArg FwFuses.keys fw, ?_, ?_⟩
  · rw [show t.fw.revoked = s.fw.revoked ||| m from congrArg FwFuses.revoked fw, and_not_or_self]
  · rw [show t.fw.rollback = max s.fw.rollback (min 128 n) from congrArg FwFuses.rollback fw]
    exact le_max_left _ _

theorem State.Blows.gradeOk {s t : State} (h : s.Blows t) : t.gradeOk = s.gradeOk := by
  obtain ⟨-, n, m, e⟩ := h
  rw [t.gradeOk_eq, s.gradeOk_eq, e]

/-- The thermometer has 128 fuses. -/
theorem State.Blows.rollback_le {s t : State} (h : s.Blows t) (hs : s.fw.rollback ≤ 128) : t.fw.rollback ≤ 128 := by
  obtain ⟨-, n, m, e⟩ := h
  rw [show t.fw.rollback = max s.fw.rollback (min 128 n) from congrArg (·.fw.rollback) e]
  omega

/-! ## A part as it is made (R2, R3) -/

theorem madeFuses_length (g : Nat) : (madeFuses g).length = 160 := by
  unfold madeFuses
  dsimp only
  split <;> simp

/-- Where a part's own fuses are not R3's, those that stand for them are. -/
theorem gradeFuses_madeFuses {g : Nat} (hg : g = 1280 ∨ g = 1152 ∨ g = 1024) : gradeFuses g (madeFuses g) = true := by
  unfold madeFuses
  dsimp only
  split
  next ok => exact ok
  next => rcases hg with rfl | rfl | rfl <;> decide +kernel

theorem made_fused (g : Nat) : (State.made g).jets.toList.map (·.fused) = madeFuses g := by
  refine List.ext_getElem (by simp [madeFuses_length]) fun k hk hk' => ?_
  simp [State.made, hk']

/-- Settles O58: no operation of the model writes a fuse but the activation of a trial, which only the end of start-up asks for; that
raises the anti-rollback count, to 128 at most, and sets revocation fuses. -/
theorem fusesAreNeverUndone : Obligations.FusesAreNeverUndone := by
  unfold Obligations.FusesAreNeverUndone
  refine ⟨fun g hg => ⟨?_, rfl⟩, fun s t h => ?_⟩
  · unfold State.gradeOk
    rw [made_fused]
    exact gradeFuses_madeFuses hg
  · rcases step_fuses h with keeps | ⟨step10, ready, pending, blows⟩
    · have fw : t.fw.fuses = s.fw.fuses := congrArg Fuses.fw keeps
      have revoked : t.fw.revoked = s.fw.revoked := congrArg FwFuses.revoked fw
      have rollback : t.fw.rollback = s.fw.rollback := congrArg FwFuses.rollback fw
      refine ⟨State.fusesKept_of_eq keeps, by rw [t.gradeOk_eq, s.gradeOk_eq, keeps], rollback ▸ id, fun blown => ?_⟩
      exact absurd blown (by simp [revoked, rollback])
    · exact ⟨blows.fusesKept, blows.gradeOk, blows.rollback_le, fun _ => ⟨blows.1, step10, ready, pending⟩⟩

end Sys2Proof.Machine
end

section
/-! The whole block: a step runs the front command, and reset leaves the register maps' values. -/

namespace Sys2Proof.Machine

/-- Settles O56: a step is by definition the front command's meaning, and a tick moves the clock and what counts its time. -/
theorem stepRunsTheFrontCommand : Obligations.StepRunsTheFrontCommand := by
  unfold Obligations.StepRunsTheFrontCommand
  refine ⟨fun c rest s => rfl, fun s empty => ⟨?_, rfl, rfl⟩⟩
  unfold step
  rw [empty]

/-- After reset every core is as made. -/
theorem State.core_reset (c : CoreId) : State.reset.core c = {} := by
  cases c <;> simp [State.core, State.reset, State.jet, Vector.get]

theorem State.reset_memOk : State.reset.memOk = true := by
  simp [State.memOk, State.reset, Mem.wf, Mem.wfFrom]

/-- Settles O60: every field of `State.reset` is the register map's. -/
theorem resetLeavesTheRegisterMaps : Obligations.ResetLeavesTheRegisterMaps := by
  unfold Obligations.ResetLeavesTheRegisterMaps
  refine ⟨State.reset_memOk, rfl, rfl, fun c => ?_, fun d => ?_, fun i => ?_, fun r => ?_, fun p => ?_, rfl, rfl, rfl, rfl, rfl, rfl, rfl, rfl,
    rfl, rfl, rfl, rfl, rfl, fun d => ?_, rfl, rfl, rfl, rfl⟩
  case refine_1 =>
    rw [State.core_reset]
    exact ⟨rfl, rfl, rfl, fun k => rfl⟩
  all_goals simp [State.reset, Vector.get]

end Sys2Proof.Machine
end

section
/-! The queue and the memories: every command answers a next state, leaves the queue of commands as it is, and leaves every memory that
was in canonical form in it. -/

namespace Sys2Proof.Machine

/-! ## What a module holds -/

/-- The memories that the firmware's state holds: the image being written and the contents of the slots. -/
structure FwMems where
  image : Mem
  slotA : Option Mem
  slotB : Option Mem

/-- The queue of commands and every memory of the module: the tiers, each jet store, each update store and the firmware's. -/
structure Holds where
  queue : List Instr
  tiers : Mem
  jets : Vector Mem 160
  cores : Vector (Vector Mem 16) 2
  fw : FwMems

/-- The store of every jet. -/
def jetStores (v : Vector Jet 160) : Vector Mem 160 := v.map (·.core.store)
/-- The store of every update core of a die. -/
def Runnel.stores (x : Runnel) : Vector Mem 16 := x.cores.map (·.store)
/-- The store of every update core. -/
def coreStores (v : Vector Runnel 2) : Vector (Vector Mem 16) 2 := v.map Runnel.stores
/-- The memories that the firmware's state holds. -/
def Firmware.mems (f : Firmware) : FwMems := ⟨f.image, f.slotA.map (·.content), f.slotB.map (·.content)⟩
/-- The queue and the memories of a module. -/
def State.holds (s : State) : Holds := ⟨s.pending, s.tiers, jetStores s.jets, coreStores s.runnels, s.fw.mems⟩

/-- The firmware's memories are canonical. -/
def FwMems.ok (f : FwMems) : Prop := f.image.wf = true ∧ (∀ m ∈ f.slotA, Mem.wf m = true) ∧ ∀ m ∈ f.slotB, Mem.wf m = true
/-- Every memory is canonical. -/
def Holds.ok (h : Holds) : Prop :=
  h.tiers.wf = true ∧ (∀ j, (h.jets.get j).wf = true) ∧ (∀ r n, ((h.cores.get r).get n).wf = true) ∧ h.fw.ok

/-- `k` may follow `h`: the queue is the same, and memories that are canonical stay so. -/
def Holds.To (h k : Holds) : Prop := k.queue = h.queue ∧ (h.ok → k.ok)

/-- A command answers a next state whose queue and memories may follow those of `s`. -/
def Out.To (o : Out) (s : State) : Prop := ∃ t, o = .next t ∧ s.holds.To t.holds

@[simp, refl] theorem Holds.To.refl (h : Holds) : h.To h := ⟨rfl, id⟩
theorem Holds.To.trans {h k l : Holds} (hk : h.To k) (kl : k.To l) : h.To l := ⟨kl.1.trans hk.1, kl.2 ∘ hk.2⟩
theorem Holds.To.of_eq {h k : Holds} (e : k = h) : h.To k := e ▸ .refl k

/-! ## Updates of records -/

/-- A state made from `s` holds what `s` does where no memory and no queue differ. -/
@[simp] theorem State.holds_mk {s : State} {readData latch outbox freeCount jets basins cisterns runnels record job caps
    weir coll cxl boxes log sluice keeper fw part} (hj : jetStores jets = jetStores s.jets) (hc : coreStores runnels = coreStores s.runnels)
    (hf : fw.mems = s.fw.mems) :
    (State.mk s.pending readData latch outbox freeCount jets basins cisterns runnels s.tiers record job caps weir coll cxl boxes log
      sluice keeper fw part).holds = s.holds := by
  unfold State.holds
  rw [hj, hc, hf]

@[simp] theorem Firmware.mems_mk {f : Firmware} {active pend tries recSeq older running keyIndex trial trialStep keeperHash keys revoked
    rollback skSeed skPrf pkSeed keyPair session measures versions} :
    (Firmware.mk active pend tries recSeq older f.slotA f.slotB running keyIndex trial trialStep keeperHash keys revoked rollback
      skSeed skPrf pkSeed keyPair session f.image measures versions).mems = f.mems := by unfold Firmware.mems; rfl

@[simp] theorem State.fw_mems (s : State) : s.fw.mems = s.holds.fw := by unfold State.holds; rfl
@[simp] theorem State.jetStores_jets (s : State) : jetStores s.jets = s.holds.jets := by unfold State.holds; rfl
@[simp] theorem State.coreStores_runnels (s : State) : coreStores s.runnels = s.holds.cores := by unfold State.holds; rfl

theorem State.jets_get_store (s : State) (j : Fin 160) : (s.jets.get j).core.store = s.holds.jets.get j := by
  rw [← s.jetStores_jets, jetStores, Vector.get_map]
theorem State.jet_store (s : State) (j : Fin 160) : (s.jet j).core.store = s.holds.jets.get j := s.jets_get_store j
@[simp] theorem State.runnels_get_stores (s : State) (r : Fin 2) : (s.runnels.get r).stores = s.holds.cores.get r := by
  rw [← s.coreStores_runnels, coreStores, Vector.get_map]
theorem Runnel.cores_get_store (x : Runnel) (n : Fin 16) : (x.cores.get n).store = x.stores.get n := by
  rw [Runnel.stores, Vector.get_map]

/-- The memory of a core. -/
def Holds.core (h : Holds) : CoreId → Mem
  | .jet j => h.jets.get j
  | .upd r n => (h.cores.get r).get n
theorem State.core_store (s : State) (c : CoreId) : (s.core c).store = s.holds.core c := by
  cases c <;> simp [State.core, Holds.core, State.jet_store, Runnel.cores_get_store]

@[simp] theorem jetStores_map {v : Vector Jet 160} {f : Jet → Jet} (h : ∀ x, (f x).core.store = x.core.store) :
    jetStores (v.map f) = jetStores v := by
  unfold jetStores
  rw [Vector.map_map]
  exact congrArg v.map (funext h)
@[simp] theorem coreStores_map {v : Vector Runnel 2} {f : Runnel → Runnel} (h : ∀ x, (f x).stores = x.stores) :
    coreStores (v.map f) = coreStores v := by
  unfold coreStores
  rw [Vector.map_map]
  exact congrArg v.map (funext h)
@[simp] theorem Runnel.stores_map {x : Runnel} {f : Core → Core} (h : ∀ k, (f k).store = k.store) {staged ahead nextOwn nextHeld faultCore
    heldDone ownDone state ownCount heldCount cnt digOwn digHeld periodH en limits map units} :
    (Runnel.mk (x.cores.map f) staged ahead nextOwn nextHeld faultCore heldDone ownDone state ownCount heldCount cnt digOwn digHeld periodH
      en limits map units).stores = x.stores := by
  unfold Runnel.stores
  rw [Vector.map_map]
  exact congrArg x.cores.map (funext h)
@[simp] theorem Runnel.stores_mk {x : Runnel} {staged ahead nextOwn nextHeld faultCore
    heldDone ownDone state ownCount heldCount cnt digOwn digHeld periodH en limits map units} :
    (Runnel.mk x.cores staged ahead nextOwn nextHeld faultCore heldDone ownDone state ownCount heldCount cnt digOwn digHeld periodH
      en limits map units).stores = x.stores := by unfold Runnel.stores; rfl

/-- Jets built one by one from those of `s`. -/
theorem jetStores_ofFn {s : State} {f : Fin 160 → Jet} (h : ∀ j, (f j).core.store = (s.jet j).core.store) :
    jetStores (Vector.ofFn f) = jetStores s.jets := by
  refine Vector.ext fun k hk => ?_
  simp only [jetStores, Vector.getElem_map, Vector.getElem_ofFn]
  exact h ⟨k, hk⟩

/-- Dies built one by one from those of `s`, and their cores from theirs. -/
theorem coreStores_ofFn {s : State} {f : Fin 2 → Runnel} (h : ∀ r, (f r).stores = (s.runnels.get r).stores) :
    coreStores (Vector.ofFn f) = coreStores s.runnels := by
  refine Vector.ext fun k hk => ?_
  simp only [coreStores, Vector.getElem_map, Vector.getElem_ofFn]
  exact h ⟨k, hk⟩
theorem Runnel.stores_ofFn {x y : Runnel} {f : Fin 16 → Core} (hy : y.cores = Vector.ofFn f) (h : ∀ n, (f n).store = (x.cores.get n).store) :
    y.stores = x.stores := by
  refine Vector.ext fun k hk => ?_
  simp only [Runnel.stores, hy, Vector.getElem_map, Vector.getElem_ofFn]
  exact h ⟨k, hk⟩

/-- A memory replaced in a family of memories. -/
theorem map_vset {α β : Type} {n : Nat} (f : α → β) (v : Vector α n) (i : Fin n) (x : α) : (vset v i x).map f = vset (v.map f) i (f x) := by
  refine Vector.ext fun k hk => ?_
  rw [Vector.getElem_map]
  show f ((vset v i x).get ⟨k, hk⟩) = (vset (v.map f) i (f x)).get ⟨k, hk⟩
  rw [vset_get, vset_get, Vector.get_map]
  split <;> rfl

/-- What a state holds with a jet replaced. -/
theorem State.holds_putJet (s : State) (j : Fin 160) (x : Jet) :
    (s.putJet j x).holds = { s.holds with jets := vset s.holds.jets j x.core.store } := by
  rw [← s.jetStores_jets]
  unfold State.holds State.putJet jetStores
  rw [map_vset]
/-- What a state holds with a Runnel die changed. -/
theorem State.holds_modRunnel (s : State) (r : Fin 2) (f : Runnel → Runnel) :
    (s.modRunnel r f).holds = { s.holds with cores := vset s.holds.cores r (f (s.runnels.get r)).stores } := by
  rw [← s.coreStores_runnels]
  unfold State.holds State.modRunnel coreStores
  rw [map_vset]

/-- A jet replaced by one with the same store. -/
@[simp] theorem State.putJet_holds {s : State} {j : Fin 160} {x : Jet} (h : x.core.store = (s.jet j).core.store) :
    (s.putJet j x).holds = s.holds := by
  rw [State.holds_putJet, h, State.jet_store, vset_get_same]
@[simp] theorem State.modJet_holds {s : State} {j : Fin 160} {f : Jet → Jet} (h : (f (s.jet j)).core.store = (s.jet j).core.store) :
    (s.modJet j f).holds = s.holds := State.putJet_holds h
/-- A Runnel die whose update stores are as they were. -/
@[simp] theorem State.modRunnel_holds {s : State} {r : Fin 2} {f : Runnel → Runnel} (h : (f (s.runnels.get r)).stores = s.holds.cores.get r) :
    (s.modRunnel r f).holds = s.holds := by
  rw [State.holds_modRunnel, h, vset_get_same]

/-! ## Memories that are written -/

/-- The tiers with other words in them. -/
theorem Holds.To.tiers {o : Holds} {s : State} {m : Mem} (h : o.To s.holds) (hm : Mem.wf s.tiers = true → Mem.wf m = true) :
    o.To ({ s with tiers := m } : State).holds :=
  h.trans ⟨rfl, fun ⟨tiers, rest⟩ => ⟨hm tiers, rest⟩⟩

theorem vset_all {α : Type} {n : Nat} {p : α → Prop} {v : Vector α n} {i : Fin n} {x : α} (hv : ∀ k, p (v.get k)) (hx : p x) (k : Fin n) :
    p ((vset v i x).get k) := by
  rw [vset_get]
  split
  · exact hx
  · exact hv k

/-- A core's memory is one of those that are canonical. -/
theorem Holds.ok.core {h : Holds} (ok : h.ok) (c : CoreId) : (h.core c).wf = true := by
  obtain ⟨_, jets, cores, _⟩ := ok
  cases c with
  | jet j => exact jets j
  | upd r n => exact cores r n

theorem Holds.ok.jet {s : State} (ok : s.holds.ok) (j : Fin 160) : Mem.wf (s.jet j).core.store = true := s.jet_store j ▸ ok.core (.jet j)
theorem Holds.ok.coreStore {s : State} (ok : s.holds.ok) (c : CoreId) : Mem.wf (s.core c).store = true := s.core_store c ▸ ok.core c
theorem Holds.ok.stores {s : State} (ok : s.holds.ok) (r : Fin 2) (n : Fin 16) : ((s.runnels.get r).stores.get n).wf = true :=
  s.runnels_get_stores r ▸ ok.core (.upd r n)
/-- The stores of a die with one core replaced. -/
theorem Runnel.vset_wf {x y : Runnel} {n : Fin 16} {k : Core} (hy : y.cores = vset x.cores n k) (hx : ∀ m, (x.stores.get m).wf = true)
    (hk : Mem.wf k.store = true) (m : Fin 16) : (y.stores.get m).wf = true := by
  rw [Runnel.stores, hy, map_vset]
  exact vset_all (p := fun m => Mem.wf m = true) hx hk m

/-- A jet with other words in its store. -/
theorem Holds.To.putJet {o : Holds} {s : State} {j : Fin 160} {x : Jet} (h : o.To s.holds) (hx : o.ok → Mem.wf x.core.store = true) :
    o.To (s.putJet j x).holds := by
  rw [State.holds_putJet]
  refine ⟨h.1, fun ok => ?_⟩
  obtain ⟨tiers, jets, rest⟩ := h.2 ok
  exact ⟨tiers, vset_all (p := fun m => Mem.wf m = true) jets (hx ok), rest⟩
theorem Holds.To.modJet {o : Holds} {s : State} {j : Fin 160} {f : Jet → Jet} (h : o.To s.holds)
    (hx : o.ok → Mem.wf (f (s.jet j)).core.store = true) : o.To (s.modJet j f).holds := h.putJet hx
/-- A Runnel die with other words in its update stores. -/
theorem Holds.To.modRunnel {o : Holds} {s : State} {r : Fin 2} {f : Runnel → Runnel} (h : o.To s.holds)
    (hx : o.ok → ∀ n, ((f (s.runnels.get r)).stores.get n).wf = true) : o.To (s.modRunnel r f).holds := by
  rw [State.holds_modRunnel]
  refine ⟨h.1, fun ok => ?_⟩
  obtain ⟨tiers, jets, cores, fw⟩ := h.2 ok
  exact ⟨tiers, jets, vset_all (p := fun v => ∀ n, Mem.wf (Vector.get v n) = true) cores (hx ok), fw⟩
/-- A Runnel die in which one core is replaced. -/
theorem Holds.To.modRunnel_core {o : Holds} {s : State} {r : Fin 2} {f : Runnel → Runnel} (n : Fin 16) (h : o.To s.holds)
    (hf : ∀ x, (o.ok → ∀ m, Mem.wf (x.cores.get m).store = true) → ∃ k, (f x).cores = vset x.cores n k ∧ (o.ok → Mem.wf k.store = true)) :
    o.To (s.modRunnel r f).holds := by
  have hx : o.ok → ∀ m, ((s.runnels.get r).stores.get m).wf = true := fun ok => (h.2 ok).stores r
  obtain ⟨k, hc, hk⟩ := hf (s.runnels.get r) fun ok m => Runnel.cores_get_store _ m ▸ hx ok m
  exact h.modRunnel fun ok => Runnel.vset_wf hc (hx ok) (hk ok)
/-- A core with other words in its store. -/
theorem Holds.To.putCore {o : Holds} {s : State} {c : CoreId} {k : Core} (h : o.To s.holds) (hk : o.ok → Mem.wf k.store = true) :
    o.To (s.putCore c k).holds := by
  cases c with
  | jet j => exact h.modJet hk
  | upd r n =>
    exact h.modRunnel_core n fun _ _ => ⟨k, rfl, hk⟩

/-- A state built from `s`: its memories are canonical where those of `s` are. -/
theorem Holds.To.mk {o : Holds} {s : State} {readData latch outbox freeCount jets basins cisterns runnels tiers record job caps
    weir coll cxl boxes log sluice keeper fw part} (h : o.To s.holds)
    (hk : s.holds.ok → Mem.wf tiers = true ∧ (∀ j, Mem.wf ((jetStores jets).get j) = true) ∧
      (∀ r n, Mem.wf (((coreStores runnels).get r).get n) = true) ∧ fw.mems.ok) :
    o.To (State.mk s.pending readData latch outbox freeCount jets basins cisterns runnels tiers record job caps weir coll cxl boxes log
      sluice keeper fw part).holds := h.trans ⟨rfl, hk⟩
/-- A state built from `s` with other memories of the firmware's. -/
theorem Holds.To.fw {o : Holds} {s : State} {readData latch outbox freeCount basins cisterns record job caps
    weir coll cxl boxes log sluice keeper fw part} (h : o.To s.holds) (hf : s.fw.mems.ok → fw.mems.ok) :
    o.To (State.mk s.pending readData latch outbox freeCount s.jets basins cisterns s.runnels s.tiers record job caps weir coll cxl boxes log
      sluice keeper fw part).holds :=
  h.mk fun ok => ⟨ok.1, ok.2.1, ok.2.2.1, hf ok.2.2.2⟩

/-! ## Branches, folds and pairs -/

@[simp] theorem State.holds_ite (c : Prop) [Decidable c] (s t : State) : (if c then s else t).holds = if c then s.holds else t.holds :=
  apply_ite State.holds c s t
@[simp] theorem State.holds_dite (c : Prop) [Decidable c] (f : c → State) (g : ¬ c → State) :
    (if h : c then f h else g h).holds = if h : c then (f h).holds else (g h).holds := apply_dite State.holds c f g
@[simp] theorem Holds.to_ite {o : Holds} (c : Prop) [Decidable c] {h k : Holds} :
    o.To (if c then h else k) ↔ if c then o.To h else o.To k := by split <;> rfl
theorem Holds.To.ite {o : Holds} {c : Prop} [Decidable c] {s t : State} (hs : o.To s.holds) (ht : o.To t.holds) :
    o.To (if c then s else t).holds := by split <;> assumption
@[simp] theorem Firmware.mems_ite (c : Prop) [Decidable c] (f g : Firmware) :
    (if c then f else g).mems = if c then f.mems else g.mems := apply_ite Firmware.mems c f g
@[simp] theorem Jet.store_ite (c : Prop) [Decidable c] (x y : Jet) :
    (if c then x else y).core.store = if c then x.core.store else y.core.store := apply_ite (fun x : Jet => x.core.store) c x y
@[simp] theorem Core.store_ite (c : Prop) [Decidable c] (x y : Core) :
    (if c then x else y).store = if c then x.store else y.store := apply_ite Core.store c x y
@[simp] theorem Runnel.stores_ite (c : Prop) [Decidable c] (x y : Runnel) :
    (if c then x else y).stores = if c then x.stores else y.stores := apply_ite Runnel.stores c x y

@[simp] theorem State.foldl_holds {α : Type} {f : State → α → State} (h : ∀ s a, (f s a).holds = s.holds) (l : List α) (s : State) :
    (l.foldl f s).holds = s.holds := by
  induction l generalizing s with
  | nil => rfl
  | cons a l ih => exact (ih (f s a)).trans (h s a)
@[simp] theorem State.foldl_fst_holds {α β : Type} {f : State × β → α → State × β} (h : ∀ p a, (f p a).1.holds = p.1.holds) (l : List α)
    (p : State × β) : (l.foldl f p).1.holds = p.1.holds := by
  induction l generalizing p with
  | nil => rfl
  | cons a l ih => exact (ih (f p a)).trans (h p a)
/-- A fold of a step that may write. -/
@[simp] theorem State.foldl_to {α : Type} {f : State → α → State} (h : ∀ (s : State) a, s.holds.To (f s a).holds) (l : List α) {o : Holds} {s : State}
    (hs : o.To s.holds) : o.To (l.foldl f s).holds := by
  induction l generalizing s with
  | nil => exact hs
  | cons a l ih => exact ih (hs.trans (h s a))
@[simp] theorem State.foldl_fst_to {α β : Type} {f : State × β → α → State × β} (h : ∀ (p : State × β) a, p.1.holds.To (f p a).1.holds) (l : List α)
    {o : Holds} {p : State × β} (hp : o.To p.1.holds) : o.To (l.foldl f p).1.holds := by
  induction l generalizing p with
  | nil => exact hp
  | cons a l ih => exact ih (hp.trans (h p a))
@[simp] theorem State.foldl_snd_to {α β : Type} {f : β × State → α → β × State} (h : ∀ (p : β × State) a, p.2.holds.To (f p a).2.holds) (l : List α)
    {o : Holds} {p : β × State} (hp : o.To p.2.holds) : o.To (l.foldl f p).2.holds := by
  induction l generalizing p with
  | nil => exact hp
  | cons a l ih => exact ih (hp.trans (h p a))
@[simp] theorem Jet.foldl_store {α : Type} {f : Jet → α → Jet} (h : ∀ x a, (f x a).core.store = x.core.store) (l : List α) (x : Jet) :
    (l.foldl f x).core.store = x.core.store := by
  induction l generalizing x with
  | nil => rfl
  | cons a l ih => exact (ih (f x a)).trans (h x a)
@[simp] theorem Jet.foldl_fst_store {α β : Type} {f : Jet × β → α → Jet × β} (h : ∀ p a, (f p a).1.core.store = p.1.core.store) (l : List α)
    (p : Jet × β) : (l.foldl f p).1.core.store = p.1.core.store := by
  induction l generalizing p with
  | nil => rfl
  | cons a l ih => exact (ih (f p a)).trans (h p a)

/-- The state of a pair that an operation answers. -/
theorem State.to_of_fst {α : Type} {p : State × α} {a : α} {o : Holds} {t : State} (h : o.To p.1.holds) (e : p = (t, a)) :
    o.To t.holds := by rwa [e] at h
theorem State.to_of_snd {α : Type} {p : α × State} {a : α} {o : Holds} {t : State} (h : o.To p.2.holds) (e : p = (a, t)) :
    o.To t.holds := by rwa [e] at h

@[simp] theorem Out.to_next {s t : State} : Out.To (.next t) s ↔ s.holds.To t.holds :=
  ⟨fun ⟨_, e, h⟩ => by cases e; exact h, fun h => ⟨t, rfl, h⟩⟩
@[simp] theorem Out.to_ite {c : Prop} [Decidable c] {o o' : Out} {s : State} :
    Out.To (if c then o else o') s ↔ if c then o.To s else o'.To s := by split <;> rfl
theorem Out.To.of_holds {o : Out} {s t : State} (h : o.To t) (e : t.holds = s.holds) : o.To s := by
  obtain ⟨u, hu, keeps⟩ := h
  exact ⟨u, hu, e ▸ keeps⟩

end Sys2Proof.Machine
end

section
/-! What the operations on the state keep: the queue and the memories, for the operations shared by all units, the tiers, the layout of
records, the step, resets and the Sluice. -/

namespace Sys2Proof.Machine

/-! ## Ops -/

@[simp] theorem State.modArr_holds (s : State) (j : Fin 160) (n : Fin 8) (f : Arr → Arr) : (s.modArr j n f).holds = s.holds := by
  simp [State.modArr]
@[simp] theorem State.modBasin_holds (s : State) (d : Fin 4) (f : Basin → Basin) : (s.modBasin d f).holds = s.holds := by
  simp [State.modBasin]
@[simp] theorem State.modCistern_holds (s : State) (i : Fin 32) (f : Cistern → Cistern) : (s.modCistern i f).holds = s.holds := by
  simp [State.modCistern]
@[simp] theorem State.modBox_holds (s : State) (n : Fin 8) (f : Mailbox → Mailbox) : (s.modBox n f).holds = s.holds := by
  simp [State.modBox]
@[simp] theorem State.modPort_holds (s : State) (p : Fin 6) (f : Port → Port) : (s.modPort p f).holds = s.holds := by simp [State.modPort]
@[simp] theorem State.modDom_holds (s : State) (d : Fin 10) (f : Dom → Dom) : (s.modDom d f).holds = s.holds := by simp [State.modDom]
@[simp] theorem State.putCore_holds {s : State} {c : CoreId} {k : Core} (h : k.store = (s.core c).store) : (s.putCore c k).holds = s.holds := by
  cases c with
  | jet j => exact State.modJet_holds h
  | upd r n =>
    refine State.modRunnel_holds ?_
    have e := vset_get_same (s.holds.cores.get r) n
    simp only [Runnel.stores, map_vset, h, State.core_store, Holds.core]
    rw [← Runnel.stores, State.runnels_get_stores, e]
@[simp] theorem State.modCore_holds {s : State} {c : CoreId} {f : Core → Core} (h : (f (s.core c)).store = (s.core c).store) : (s.modCore c f).holds = s.holds :=
  State.putCore_holds h
@[simp] theorem State.send_holds (s : State) (m : Msg) : (s.send m).holds = s.holds := by simp [State.send]
@[simp] theorem State.fresh_holds (s : State) : s.fresh.2.holds = s.holds := by simp [State.fresh]
@[simp] theorem State.raise_holds (s : State) (n : Nat) : (s.raise n).holds = s.holds := by simp [State.raise]
@[simp] theorem State.store_holds (s : State) (code sev src : Nat) (args : List Nat) : (s.store code sev src args).holds = s.holds := by
  simp [State.store]
@[simp] theorem State.event_holds (s : State) (code sev src : Nat) (args : List Nat) : (s.event code sev src args).holds = s.holds := by
  simp [State.event]
@[simp] theorem State.rsvdWrite_holds (s : State) (addr v : Nat) : (s.rsvdWrite addr v).holds = s.holds := by simp [State.rsvdWrite]
@[simp] theorem State.capChange_holds (s : State) : s.capChange.holds = s.holds := by simp [State.capChange]
@[simp] theorem State.complete_holds (s : State) (n : Fin 8) (status detail : Nat) (out : List Byte) :
    (s.complete n status detail out).holds = s.holds := by simp [State.complete]
@[simp] theorem State.completeAll_holds (s : State) (ns : List Nat) (status detail : Nat) :
    (s.completeAll ns status detail).holds = s.holds := by
  simp [State.completeAll]

/-! ## TierOps -/

@[simp] theorem State.modRegion_holds (s : State) (g : MemRegion) (f : RegionSt → RegionSt) : (s.modRegion g f).holds = s.holds := by
  unfold State.modRegion
  split <;> simp
@[simp] theorem State.modUnit_holds (s : State) (u : MemUnit) (f : UnitSt → UnitSt) : (s.modUnit u f).holds = s.holds := by
  unfold State.modUnit
  split <;> simp
@[simp] theorem State.tierPut_to {s : State} (a : Nat) (w : List Byte) {o : Holds} (h : o.To s.holds) :
    o.To (s.tierPut a w).holds := by
  unfold State.tierPut
  split
  · exact h
  · exact h.tiers (putWord_wf _ _ _)
@[simp] theorem State.writeBack_to {s : State} (u : MemUnit) (a : Nat) (w e2 : List Byte) {o : Holds} (h : o.To s.holds) :
    o.To (s.writeBack u a w e2).holds := by
  unfold State.writeBack
  dsimp only
  split <;> simp [h]
@[simp] theorem State.countBad_holds (s : State) (u : MemUnit) (lost : Bool) : (s.countBad u lost).holds = s.holds := by
  simp [State.countBad]
@[simp] theorem State.tierRead_to {s : State} (a : Nat) {o : Holds} (h : o.To s.holds) :
    o.To (s.tierRead a).2.2.holds := by
  unfold State.tierRead
  dsimp only
  split <;> simp [h]
@[simp] theorem State.readWords_to (n : Nat) {s : State} (a : Nat) {o : Holds} (h : o.To s.holds) :
    o.To (s.readWords n a).2.holds := by
  induction n generalizing s a with
  | zero => exact h
  | succ n ih =>
    unfold State.readWords
    cases s.canon a with
    | none => exact ih _ h
    | some c => exact ih _ (State.tierRead_to c h)
/-- A name for a read of many words that says of it only what it keeps: put for the read, it keeps the kernel from reading the words to
compare the states that two terms build from them. -/
theorem State.readWords_reads : ∃ r, r = @State.readWords ∧ ∀ (n : Nat) {s : State} (a : Nat) {o : Holds}, o.To s.holds →
    o.To (r n s a).2.holds := ⟨_, rfl, State.readWords_to⟩
@[simp] theorem State.writeWords_to (ws : List (Option (List Byte))) {s : State} (a : Nat) {o : Holds} (h : o.To s.holds) :
    o.To (State.writeWords ws s a).holds := by
  induction ws generalizing s a with
  | nil => exact h
  | cons w ws ih =>
    unfold State.writeWords
    cases s.canon a with
    | none => exact ih _ h
    | some c => exact ih _ (State.tierPut_to c _ h)

/-! ## Layout -/

@[simp] theorem State.readRecord_to {s : State} (i : Image) (held slot : Bool) (idx : Nat) {o : Holds} (h : o.To s.holds) :
    o.To (s.readRecord i held slot idx).2.holds := by simp [h, State.readRecord]
theorem State.readRecord_reads : ∃ r, r = @State.readRecord ∧ ∀ {s : State} (i : Image) (held slot : Bool) (idx : Nat) {o : Holds},
    o.To s.holds → o.To (r s i held slot idx).2.holds := ⟨_, rfl, State.readRecord_to⟩
@[simp] theorem State.writeRecord_to {s : State} (i : Image) (held slot : Bool) (idx : Nat) (bs : List Byte) {o : Holds} (h : o.To s.holds) :
    o.To (s.writeRecord i held slot idx bs).holds := by simp [h, State.writeRecord]
@[simp] theorem State.noteBad_holds (s : State) (held : Bool) (idx : Nat) : (s.noteBad held idx).holds = s.holds := by
  simp [State.noteBad]
@[simp] theorem State.takeRecord_to {s : State} (i : Image) (held : Bool) (idx : Nat) {o : Holds} (h : o.To s.holds) :
    o.To (s.takeRecord i held idx).2.holds := by
  generalize hf : @State.takeRecord = f
  delta State.takeRecord at hf
  obtain ⟨r, hr, read⟩ := State.readRecord_reads
  rw [← hr] at hf
  subst hf
  dsimp only
  split <;> simp [h, read]
theorem State.takeRecord_reads : ∃ r, r = @State.takeRecord ∧ ∀ {s : State} (i : Image) (held : Bool) (idx : Nat) {o : Holds},
    o.To s.holds → o.To (r s i held idx).2.holds := ⟨_, rfl, State.takeRecord_to⟩
@[simp] theorem State.shardDigest_to {s : State} (i : Image) (held slot : Bool) {o : Holds} (h : o.To s.holds) :
    o.To (s.shardDigest i held slot).2.holds := by
  generalize hf : @State.shardDigest = f
  delta State.shardDigest at hf
  obtain ⟨r, hr, read⟩ := State.readRecord_reads
  rw [← hr] at hf
  subst hf
  refine State.foldl_snd_to ?_ _ ?_
  · exact fun p x => read i held slot x (.refl p.2.holds)
  · exact h
theorem State.shardDigest_reads : ∃ r, r = @State.shardDigest ∧ ∀ {s : State} (i : Image) (held slot : Bool) {o : Holds},
    o.To s.holds → o.To (r s i held slot).2.holds := ⟨_, rfl, State.shardDigest_to⟩
@[simp] theorem State.writeThrough_to {s : State} (i : Image) (idx : Nat) (ws : List (Option (List Byte))) {o : Holds} (h : o.To s.holds) :
    o.To (s.writeThrough i idx ws).holds := by simp [h, State.writeThrough]
@[simp] theorem State.rewriteWeights_to {s : State} {o : Holds} (h : o.To s.holds) :
    o.To s.rewriteWeights.holds := by
  unfold State.rewriteWeights
  obtain ⟨r, hr, take⟩ := State.takeRecord_reads
  rw [← hr]
  split
  · exact State.foldl_to (fun s idx => State.writeThrough_to _ _ _ (take _ _ _ (.refl s.holds))) _ h
  · exact h

/-! ## Totals -/

@[simp] theorem Core.readCounters_store (k : Core) : k.readCounters.store = k.store := rfl
@[simp] theorem Jet.readCounters_store (j : Jet) : j.readCounters.core.store = j.core.store := by simp [Jet.readCounters]
@[simp] theorem State.readCounters_holds (s : State) : s.readCounters.holds = s.holds :=
  State.holds_mk (jetStores_map Jet.readCounters_store) (coreStores_map fun _ => Runnel.stores_map Core.readCounters_store) rfl
@[simp] theorem State.boundary_holds (s : State) : s.boundary.holds = s.holds := by simp [State.boundary]

/-! ## StepOps -/

@[simp] theorem State.captureLanes_holds (s : State) : s.captureLanes.holds = s.holds :=
  State.holds_mk (jetStores_map fun _ => rfl) (coreStores_map fun _ => Runnel.stores_map (by intro; rfl)) rfl
@[simp] theorem State.restoreLanes_holds (s : State) : s.restoreLanes.holds = s.holds :=
  State.holds_mk (jetStores_map fun _ => rfl) (coreStores_map fun _ => Runnel.stores_map (by intro; rfl)) rfl
@[simp] theorem State.clearStep_holds (s : State) : s.clearStep.holds = s.holds := by
  simp [State.clearStep, Runnel.clearStep]
@[simp] theorem State.setDone_holds (s : State) (n : Nat) : (s.setDone n).holds = s.holds := by simp [State.setDone]
@[simp] theorem State.passEmpty_holds (s : State) : s.passEmpty.holds = s.holds := by simp [State.passEmpty]
@[simp] theorem State.enterForward_holds (s : State) : s.enterForward.holds = s.holds := by simp [State.enterForward]
@[simp] theorem State.unload_holds (s : State) : s.unload.holds = s.holds :=
  State.holds_mk (jetStores_map fun _ => rfl) (coreStores_map fun _ => Runnel.stores_map (by intro; rfl)) rfl
@[simp] theorem State.completeAt_holds (s : State) (n status detail : Nat) (out : List Byte) :
    (s.completeAt n status detail out).holds = s.holds := by
  unfold State.completeAt
  split <;> simp
@[simp] theorem State.jobHalt_holds (s : State) (cause : Nat) : (s.jobHalt cause).holds = s.holds := by
  unfold State.jobHalt
  dsimp only
  split <;> simp
@[simp] theorem State.freeCores_holds (s : State) : s.freeCores.holds = s.holds :=
  State.holds_mk (jetStores_map fun _ => rfl) (coreStores_map fun _ => Runnel.stores_map (by intro; rfl)) rfl
@[simp] theorem State.setThr_holds (s : State) (c : Nat) (on : Bool) : (s.setThr c on).holds = s.holds := by simp [State.setThr]
@[simp] theorem State.findBad_holds (s : State) : s.findBad.holds = s.holds := by
  unfold State.findBad
  split <;> simp
@[simp] theorem State.askRepair_holds (s : State) : s.askRepair.holds = s.holds := by simp [State.askRepair]
@[simp] theorem State.rerunStep_holds (s : State) : s.rerunStep.holds = s.holds := by simp [State.rerunStep]
@[simp] theorem State.revert_to {s : State} (cause : Nat) {o : Holds} (h : o.To s.holds) : o.To (s.revert cause).holds := by
  simp [State.revert, h]
@[simp] theorem State.reserveCheck_holds (s : State) : s.reserveCheck.holds = s.holds := by simp [State.reserveCheck]
@[simp] theorem State.takeAbort_to {s : State} (n : Nat) {o : Holds} (h : o.To s.holds) : o.To (s.takeAbort n).holds := by
  simp [State.takeAbort, h]
@[simp] theorem State.abortStep_to {s : State} {o : Holds} (h : o.To s.holds) : o.To s.abortStep.holds := by
  simp [State.abortStep, h]
@[simp] theorem State.faultStep_to {s : State} {o : Holds} (h : o.To s.holds) : o.To s.faultStep.holds := by
  simp [State.faultStep, h]
@[simp] theorem State.haltCore_to {s : State} (c : CoreId) {o : Holds} (h : o.To s.holds) : o.To (s.haltCore c).holds := by
  unfold State.haltCore
  cases c <;> simp [h]
@[simp] theorem Core.enterExc_store (k : Core) (e : Exc) (pc : W64) : (k.enterExc e pc).store = k.store := by
  unfold Core.enterExc
  generalize e.word = w
  rfl
@[simp] theorem State.takeExc_to {s : State} (c : CoreId) (e : Exc) (pc : W64) {o : Holds} (h : o.To s.holds) :
    o.To (s.takeExc c e pc).holds := by
  simp [State.takeExc, h]
@[simp] theorem State.haltInHandler_to {s : State} (c : CoreId) {o : Holds} (h : o.To s.holds) : o.To (s.haltInHandler c).holds :=
  State.haltCore_to c h
@[simp] theorem State.useFlow_holds (s : State) (dest : BitVec 15) (cls : BitVec 2) : (s.useFlow dest cls).holds = s.holds := by
  simp [State.useFlow]
@[simp] theorem State.sendSecuring_holds (s : State) (rank : Nat) (m : Msg) : (s.sendSecuring rank m).holds = s.holds := by
  simp [State.sendSecuring]

/-! ## Power -/

@[simp] theorem State.readyUpdate_holds (s : State) : s.readyUpdate.holds = s.holds := by simp [State.readyUpdate]
@[simp] theorem State.reportFailed_holds (s : State) : s.reportFailed.holds = s.holds := by simp [State.reportFailed]
@[simp] theorem State.askDivider_holds (s : State) (d : Fin 10) (k : Nat) : (s.askDivider d k).holds = s.holds := by
  simp [State.askDivider]
@[simp] theorem State.settle_holds (s : State) (d : Fin 10) : (s.settle d).holds = s.holds := by simp [State.settle]
@[simp] theorem State.adoptSettings_holds (s : State) (d : Fin 10) : (s.adoptSettings d).holds = s.holds := by simp [State.adoptSettings]
@[simp] theorem State.urgentEntry_holds (s : State) (n why : Nat) : (s.urgentEntry n why).holds = s.holds := by simp [State.urgentEntry]
@[simp] theorem State.throttles_holds (s : State) : s.throttles.holds = s.holds := by simp [State.throttles]
theorem Mem.wf_nil : Mem.wf [] = true := rfl
@[simp] theorem State.diesReset_to {s : State} (warm : Bool) {o : Holds} (h : o.To s.holds) : o.To (s.diesReset warm).holds :=
  h.trans ⟨rfl, fun ⟨tiers, _, _, fw⟩ =>
    ⟨by
      show Mem.wf (if warm then s.tiers else []) = true
      split
      · exact tiers
      · rfl,
     fun j => by rw [← State.jets_get_store]; simp [State.diesReset, Mem.wf_nil],
     fun r n => by
      rw [← State.runnels_get_stores, ← Runnel.cores_get_store]
      simp [State.diesReset, Mem.wf_nil], rfl, fw.2.1, fw.2.2⟩⟩
@[simp] theorem State.resetTaken_holds (s : State) (cls trigger : Nat) : (s.resetTaken cls trigger).holds = s.holds := by
  simp [State.resetTaken]
@[simp] theorem State.mainReset_to {s : State} (trigger : Nat) {o : Holds} (h : o.To s.holds) : o.To (s.mainReset trigger).holds := by
  simp [State.mainReset, h]
@[simp] theorem State.warmReset_to {s : State} (trigger : Nat) (chain : Bool) {o : Holds} (h : o.To s.holds) : o.To (s.warmReset trigger chain).holds := by
  simp [State.warmReset, h]
@[simp] theorem State.auxReset_to {s : State} (trigger : Nat) {o : Holds} (h : o.To s.holds) : o.To (s.auxReset trigger).holds := by
  simp [State.auxReset, h]
@[simp] theorem State.tick_holds (s : State) : s.tick.holds = s.holds := by simp [State.tick]

/-! ## Sluice -/

@[simp] theorem State.allocate_holds (s : State) (tag : Option W16) : (s.allocate tag).holds = s.holds := by simp [State.allocate]
@[simp] theorem State.adopt_holds (s : State) (d : Fin 10) (tag : W16) : (s.adopt d tag).1.holds = s.holds := by
  unfold State.adopt
  repeat' split
  all_goals simp
@[simp] theorem State.learn_holds (s : State) (d : Fin 10) (us : Nat) (power : Rat) : (s.learn d us power).holds = s.holds := by
  simp [State.learn]
@[simp] theorem execDividerSwitch_to (d : Fin 10) (s : State) : (execDividerSwitch d s).To s := by
  unfold execDividerSwitch
  dsimp only
  split <;> simp
@[simp] theorem State.cancelUpshifts_holds (s : State) : s.cancelUpshifts.holds = s.holds := by simp [State.cancelUpshifts]
@[simp] theorem execSagReset_to (i : Supply) (s : State) : (execSagReset i s).To s := by
  unfold execSagReset
  split <;> simp
@[simp] theorem State.floorEnd_holds (s : State) : s.floorEnd.holds = s.holds := by simp [State.floorEnd]
@[simp] theorem State.planDom_holds (s : State) (l : Nat) (vmins : List Nat) : (s.planDom l vmins).holds = s.holds := by
  simp [State.planDom]
@[simp] theorem State.planHub_holds (s : State) (vmin : Nat) : (s.planHub vmin).holds = s.holds := by simp [State.planHub]
@[simp] theorem State.planComplete_holds (s : State) : s.planComplete.holds = s.holds := by simp [State.planComplete]


end Sys2Proof.Machine
end

section
/-! What the core operations do to a core's store: the spout's steps draw and count only, and every read and write of a store
leaves it canonical. -/

namespace Sys2Proof.Machine

/-! ## The core's own operations -/

@[simp] theorem Core.count_store (k : Core) (e : Ev) : (k.count e).store = k.store := rfl
@[simp] theorem Core.accrue_store (k : Core) (f : IFlags) : (k.accrue f).store = k.store := rfl
@[simp] theorem Core.draw_store (k : Core) (n : Nat) : (k.draw n).2.store = k.store := by
  unfold Core.draw
  split <;> rfl
@[simp] theorem Core.ws_store (k : Core) (r : BitVec 5) (v : W64) : (k.ws r v).store = k.store := by
  unfold Core.ws
  split <;> rfl
@[simp] theorem Core.wv_store (k : Core) (r : BitVec 5) (v : BitVec 4096) : (k.wv r v).store = k.store := rfl
@[simp] theorem Core.advance_store (k : Core) : k.advance.store = k.store := rfl
@[simp] theorem Core.jump_store (k : Core) (t : W64) : (k.jump t).store = k.store := rfl
@[simp] theorem Core.vdone_store (k : Core) : k.vdone.store = k.store := by simp [Core.vdone]

@[simp] theorem putGroup_store (k : Core) (r : BitVec 5) (v n : Nat) : (putGroup k r v n).store = k.store := by
  induction n with
  | zero => rfl
  | succ n ih => exact ih

/-! ## Elements -/

@[simp] theorem Core.jfRnd_store (k : Core) (lane : Nat) : (k.jfRnd lane).2.store = k.store := by
  unfold Core.jfRnd
  split <;> simp
@[simp] theorem cvtRnd_store (r d lane : Nat) (k : Core) : (cvtRnd r d lane k).2.store = k.store := by
  unfold cvtRnd
  dsimp only
  split <;> simp
@[simp] theorem fpElem_store (t f5 lane : Nat) (k : Core) (a b : Nat) : (fpElem t f5 lane k a b).core.store = k.store := by
  unfold fpElem
  split
  · cases isCmp f5 <;> simp
  · rfl
@[simp] theorem fmaElem_store (t lane : Nat) (negP negC : Bool) (k : Core) (a b c : Nat) :
    (fmaElem t lane negP negC k a b c).core.store = k.store := by
  unfold fmaElem
  split <;> simp
@[simp] theorem cvtElem_store (st dt r lane : Nat) (k : Core) (a : Nat) : (cvtElem st dt r lane k a).core.store = k.store := by
  unfold cvtElem
  dsimp only
  repeat' split
  all_goals exact cvtRnd_store ..
/-- Running elements that leave the store leaves the store. -/
theorem runElems_store {fn : Core → Nat → ElemOut} (hf : ∀ k i, (fn k i).core.store = k.store) (w n i : Nat) (k : Core) (acc : Nat) :
    (runElems w fn n i k acc).2.1.store = k.store := by
  induction n generalizing i k acc with
  | zero => rfl
  | succ n ih =>
    unfold runElems
    dsimp only
    split
    · rfl
    · exact (ih _ _ _).trans (hf k i)
@[simp] theorem drawList_store (k : Core) (i n : Nat) : (drawList k i n).2.store = k.store := by
  induction n generalizing k i with
  | zero => rfl
  | succ n ih => exact (ih _ _).trans (k.draw_store _)
@[simp] theorem cvtbBlock_store (f : BlkFmt) (stoch : Bool) (src : Nat → Src) (start b : Nat) (acc : Nat × Nat × Core) :
    (cvtbBlock f stoch src start b acc).2.2.store = acc.2.2.store := by
  unfold cvtbBlock
  dsimp only
  split
  · rfl
  · exact drawList_store ..
theorem foldl_core_store {α β : Type} {f : β × Core → α → β × Core} (h : ∀ p a, (f p a).2.store = p.2.store) (l : List α) (p : β × Core) :
    (l.foldl f p).2.store = p.2.store := by
  induction l generalizing p with
  | nil => rfl
  | cons a l ih => exact (ih (f p a)).trans (h p a)

/-! ## The spout -/

@[simp] theorem Core.drawLane_store (k : Core) (l : Option Nat) : (k.drawLane l).2.store = k.store := by
  cases l <;> simp [Core.drawLane]
@[simp] theorem drawLanes_store (k : Core) (l : List (Option Nat)) : (drawLanes k l).2.store = k.store := by
  induction l generalizing k with
  | nil => rfl
  | cons x l ih => exact (ih _).trans (k.drawLane_store x)
@[simp] theorem SpoutEnv.elem_store (e : SpoutEnv) (k : Core) (c : Nat) (y : Option Nat) : (e.elem k c y).2.2.store = k.store := by
  unfold SpoutEnv.elem
  dsimp only
  split
  · split <;> simp
  · split
    · split <;> simp
    · split <;> simp
@[simp] theorem SpoutEnv.elems_store (e : SpoutEnv) (k : Core) (c : Nat) (l : List (Option Nat)) : (e.elems k c l).2.2.store = k.store := by
  induction l generalizing k c with
  | nil => rfl
  | cons y l ih => exact (ih _ _).trans (e.elem_store k c y)
@[simp] theorem SpoutEnv.block_store (e : SpoutEnv) (f : BlkFmt) (skip : Nat) (k : Core) (lanes : List (Option Nat)) (xs : List Src) :
    (e.block f skip k lanes xs).2.2.2.store = k.store := drawLanes_store k _
@[simp] theorem SpoutEnv.blockCols_store (e : SpoutEnv) (f : BlkFmt) (b skip : Nat) (rows : List (List (Option Nat))) (n c : Nat) (k : Core) :
    (e.blockCols f b skip rows n c k).2.2.store = k.store := by
  induction n generalizing c k with
  | zero => rfl
  | succ n ih => exact (ih _ _).trans (e.block_store f skip k _ _)
@[simp] theorem SpoutEnv.plainRow_store (e : SpoutEnv) (k : Core) (r : Nat) (row : List ((Int × Int) × Bool)) :
    (e.plainRow k r row).core.store = k.store := e.elems_store k 0 _
@[simp] theorem SpoutEnv.blockRow_store (e : SpoutEnv) (f : BlkFmt) (k : Core) (r : Nat) (row : List ((Int × Int) × Bool)) :
    (e.blockRow f k r row).core.store = k.store := e.block_store f 0 k _ _
/-- A step of the spout answers what it writes, and leaves the store to its caller. -/
@[simp] theorem SpoutEnv.stepFrom_store (e : SpoutEnv) (skip : Nat) (k : Core) (r : Nat) (rows : List (List ((Int × Int) × Bool))) :
    (e.stepFrom skip k r rows).core.store = k.store := by
  unfold SpoutEnv.stepFrom
  split
  · split
    · exact e.blockRow_store _ k r _
    · exact e.blockCols_store _ _ skip _ _ _ k
  · exact e.plainRow_store k r _

theorem drainSteps_wf (e : SpoutEnv) (rows : Nat → List ((Int × Int) × Bool)) (n row : Nat) (k : Core) (h : Mem.wf k.store = true) :
    Mem.wf (drainSteps e rows n row k).1.store = true := by
  induction n generalizing row k with
  | zero => exact h
  | succ n ih =>
    unfold drainSteps
    split
    · exact h
    · refine ih _ _ (storeAll_wf _ _ ?_)
      rw [SpoutEnv.step, SpoutEnv.stepFrom_store]
      exact h

/-! ## Operands and vectors that are read -/

theorem jsLoad_wf (m : Mem) (a n : Nat) (h : m.wf = true) : (jsLoad m a n).2.wf = true := by
  unfold jsLoad
  exact loadBytes_wf m a _ h
theorem readBlock_wf (p : PassDesc) (op slice : Nat) (m : Mem) (a ea k0 cnt : Nat) (h : m.wf = true) :
    (readBlock p op slice m a ea k0 cnt).2.wf = true := by
  unfold readBlock
  dsimp only
  repeat' split
  all_goals simp [h, jsLoad_wf]
theorem readBlocks_wf (p : PassDesc) (op slice base total n i : Nat) (m : Mem) (h : m.wf = true) :
    (readBlocks p op slice base total n i m).2.wf = true := by
  induction n generalizing i m with
  | zero => exact h
  | succ n ih => exact ih _ _ (readBlock_wf _ _ _ _ _ _ _ _ h)
theorem PassDesc.loadBanks_wf (p : PassDesc) (m : Mem) (h : m.wf = true) : (p.loadBanks m).2.2.wf = true :=
  readBlocks_wf _ _ _ _ _ _ _ _ h
theorem PassDesc.begin_wf (p : PassDesc) (m : Mem) (h : m.wf = true) : (p.begin m).2.wf = true := readBlocks_wf _ _ _ _ _ _ _ _ h
theorem colValues_wf (m : Mem) (vec : Bool) (field : W64) (wide : Bool) (n single : Nat) (h : m.wf = true) :
    (colValues m vec field wide n single).2.wf = true := by
  unfold colValues
  split
  · exact h
  · simp only [apply_ite Mem.wf, loadBytes_wf m _ _ h, h, ite_self]
theorem spoutEnv_wf (m : Mem) (d : SpoutDesc) (mode rows cols real : Nat) (lanes : List (Option Nat)) (h : m.wf = true) :
    (spoutEnv m d mode rows cols real lanes).2.wf = true := colValues_wf _ _ _ _ _ _ (colValues_wf _ _ _ _ _ _ h)

@[simp] theorem SpoutEnv.vstep_store (e : SpoutEnv) (skip : Nat) (k : Core) (row : Nat) (rows : List (List TileRow)) :
    (e.vstep skip k row rows).core.store = k.store := by
  unfold SpoutEnv.vstep
  split
  · rfl
  · exact e.stepFrom_store ..
theorem vspoutSteps_wf (c : CoreId) (e : SpoutEnv) (recs a n skip row : Nat) (k : Core) (h : Mem.wf k.store = true) :
    Mem.wf (vspoutSteps c e recs a n skip row k).1.store = true := by
  induction n generalizing skip row k with
  | zero => exact h
  | succ n ih =>
    unfold vspoutSteps
    dsimp only
    split
    · exact h
    · split
      · exact h
      · split
        · exact h
        · exact ih _ _ _ (storeAll_wf _ _ (loadBytes_wf _ _ _ h))
theorem pcombRows_wf (c : CoreId) (mode recs a b d n row : Nat) (k : Core) (h : Mem.wf k.store = true) :
    Mem.wf (pcombRows c mode recs a b d n row k).1.store = true := by
  induction n generalizing row k with
  | zero => exact h
  | succ n ih =>
    unfold pcombRows
    dsimp only
    split
    · exact h
    · exact ih _ _ (storeBytes_wf _ _ _ (loadBytes_wf _ _ _ (loadBytes_wf _ _ _ h)))
/-- The store after a read of a core: the correction is written back. -/
theorem State.coreRead_wf {s : State} {c : CoreId} {a n : Nat} {b : List Byte} {m : Mem} (h : s.coreRead c a n = .bytes b m)
    (hs : Mem.wf (s.core c).store = true) : m.wf = true := by
  unfold State.coreRead at h
  dsimp only at h
  split at h
  · cases h
  · split at h
    · cases h
    · split at h
      · cases h
      · cases h
        exact loadBytes_wf _ _ _ hs
@[simp] theorem Core.putCounter_store (k : Core) (off : Nat) (v : W32) : (k.putCounter off v).store = k.store := by
  unfold Core.putCounter
  split <;> rfl

/-! ## The staging sets of an update core -/

theorem storeWords_wf (ws : List (Option (List Byte))) (m : Mem) (w : Nat) (h : m.wf = true) : (storeWords m w ws).wf = true := by
  induction ws generalizing m w with
  | nil => exact h
  | cons x ws ih => exact ih _ _ (putWord_wf _ _ _ h)
theorem Core.stageSet_wf (k : Core) (set : Bool) (record grad : List (Option (List Byte))) (block : List Byte) (h : Mem.wf k.store = true) :
    Mem.wf (k.stageSet set record grad block).store = true := storeWords_wf _ _ _ (storeWords_wf _ _ _ (storeWords_wf _ _ _ h))
@[simp] theorem Core.enterKernel_store (k : Core) (set held : Bool) (entry : Nat) : (k.enterKernel set held entry).store = k.store := by
  simp [Core.enterKernel]
@[simp] theorem Runnel.countRecord_cores (x : Runnel) (held : Bool) (total : Nat) : (x.countRecord held total).cores = x.cores := by
  cases held <;> rfl
@[simp] theorem Runnel.addDigest_cores (x : Runnel) (held : Bool) (term : W128) : (x.addDigest held term).cores = x.cores := by
  cases held <;> rfl
@[simp] theorem Runnel.takeNo_cores (x : Runnel) (held : Bool) (n : Nat) : (x.takeNo held n).cores = x.cores := by
  cases held <;> rfl
@[simp] theorem Runnel.takeNo_stores (x : Runnel) (held : Bool) (n : Nat) : (x.takeNo held n).stores = x.stores := by simp [Runnel.stores]
@[simp] theorem Runnel.countRecord_stores (x : Runnel) (held : Bool) (total : Nat) : (x.countRecord held total).stores = x.stores := by
  simp [Runnel.stores]
@[simp] theorem Runnel.addDigest_stores (x : Runnel) (held : Bool) (term : W128) : (x.addDigest held term).stores = x.stores := by
  simp [Runnel.stores]

end Sys2Proof.Machine
end

section
/-! What the operations of the arrays, the tiers, the fabric, the update cores, the exchange, the sequencer and step survival keep. -/

namespace Sys2Proof.Machine

/-! ## RillCore -/

@[simp] theorem State.rill_to {s : State} {c : CoreId} {vector : Bool} {body : State → State} (h : s.holds.To (body s).holds) :
    Out.To (s.rill c vector body) s := by
  unfold State.rill
  rw [Out.to_next]
  split
  · split
    · simp
    · exact h
  · simp
@[simp] theorem State.raiseExc_to {s : State} (c : CoreId) (e : Exc) {o : Holds} (h : o.To s.holds) :
    o.To (s.raiseExc c e).holds := by simp [h, State.raiseExc]
@[simp] theorem State.hold_holds (s : State) (c : CoreId) (kind : HoldKind) (i : Instr) : (s.hold c kind i).holds = s.holds := by
  simp [State.hold]

/-! ## Arrays -/

@[simp] theorem Jet.putArr_store (x : Jet) (n : Nat) (a : Arr) : (x.putArr n a).core.store = x.core.store := by
  unfold Jet.putArr
  split <;> simp
@[simp] theorem Jet.modArr_store (x : Jet) (n : Nat) (f : Arr → Arr) : (x.modArr n f).core.store = x.core.store := by simp [Jet.modArr]
@[simp] theorem Jet.arrayFault_store (x : Jet) (n chain : Nat) : (x.arrayFault n chain).core.store = x.core.store := by simp [Jet.arrayFault]
@[simp] theorem Jet.modTiles_store (x : Jet) (l : List (Nat × TileId)) (f : Tile → Tile) : (x.modTiles l f).core.store = x.core.store := by
  simp [Jet.modTiles]
@[simp] theorem execShadowLoadStart_to (j : Fin 160) (n : Fin 8) (s : State) : (execShadowLoadStart j n s).To s := by
  unfold execShadowLoadStart
  rw [Out.to_next]
  dsimp only
  split
  · exact .refl _
  next p _ =>
    split
    · exact .refl _
    · split
      · exact .refl _
      · refine Holds.To.putJet (.refl _) fun ok => ?_
        rw [Jet.modArr_store, Jet.foldl_store (fun _ _ => Jet.modArr_store _ _ _)]
        exact p.loadBanks_wf _ (ok.jet j)
@[simp] theorem execBankSwap_to (j : Fin 160) (n : Fin 8) (stall : Nat) (s : State) : (execBankSwap j n stall s).To s := by
  unfold execBankSwap
  dsimp only
  split <;> simp
@[simp] theorem State.sampleDue_holds (s : State) (d : Fin 4) : (s.sampleDue d).holds = s.holds := by
  unfold State.sampleDue
  split <;> simp
@[simp] theorem State.sentinelGap_holds (s : State) (j : Fin 160) (n : Nat) (p : PassDesc) : (s.sentinelGap j n p).holds = s.holds := by
  simp [State.sentinelGap]
@[simp] theorem State.samplePass_holds (s : State) (j : Fin 160) (n : Nat) (r : PassRun) (banks : List Bank) :
    (s.samplePass j n r banks).holds = s.holds := by simp [State.samplePass]
@[simp] theorem Jet.refusePass_store (x : Jet) (n : Nat) (p : PassDesc) : (x.refusePass n p).core.store = x.core.store := by simp [Jet.refusePass]
@[simp] theorem placeFrom_holds (l : List Placed) (full : List (Nat × Nat)) (s : State) : (placeFrom l full s).1.holds = s.holds := by
  induction l generalizing full s with
  | nil => rfl
  | cons q l ih =>
    unfold placeFrom
    dsimp only
    split
    · split <;> simp [ih]
    · exact ih full s
@[simp] theorem State.placeWork_holds (s : State) : s.placeWork.holds = s.holds := by simp [State.placeWork]
/-- A pass whose operands have been read into the array: the jet's store has been read, and nothing else has changed it. -/
theorem State.putJet_begin_to {s : State} {j : Fin 160} {x : Jet} (p : PassDesc) (hx : x.core.store = (p.begin (s.jet j).core.store).2) :
    s.holds.To (s.putJet j x).holds :=
  Holds.To.putJet (.refl _) fun ok => hx ▸ p.begin_wf _ (ok.jet j)
@[simp] theorem execQueueHeadPass_to (j : Fin 160) (n : Fin 8) (s : State) : (execQueueHeadPass j n s).To s := by
  unfold execQueueHeadPass
  rw [Out.to_next]
  dsimp only
  split
  · exact .refl _
  next p rest _ =>
    split
    · exact .refl _
    · split
      · simp
      · split <;> simp
      · rw [State.placeWork_holds, State.holds_ite, State.sentinelGap_holds, ite_self]
        refine State.putJet_begin_to p ?_
        simp
@[simp] theorem Jet.accumulate_store (x : Jet) (n : Nat) (r : PassRun) : (x.accumulate n r).core.store = x.core.store := by simp [Jet.accumulate]
@[simp] theorem Jet.passFlags_store (x : Jet) (n : Nat) (p : PassDesc) : (x.passFlags n p).1.core.store = x.core.store := by
  simp [Jet.passFlags]
@[simp] theorem execPassComplete_to (j : Fin 160) (n : Fin 8) (s : State) : (execPassComplete j n s).To s := by
  unfold execPassComplete
  dsimp only
  split <;> simp [State.jet_store]
@[simp] theorem Jet.clearTiles_store (x : Jet) (l : List (Nat × TileId)) : (x.clearTiles l).core.store = x.core.store := by simp [Jet.clearTiles]
@[simp] theorem State.sampleDrain_holds (s : State) (j : Fin 160) (n : Nat) (t : TileId) (chain : Nat) (e : SpoutEnv)
    (vals : List (List Src)) (poison : Bool) : (s.sampleDrain j n t chain e vals poison).holds = s.holds := by simp [State.sampleDrain]
@[simp] theorem State.sampleLost_holds (s : State) (j : Fin 160) (n : Nat) (t : TileId) (chain : Nat) :
    (s.sampleLost j n t chain).holds = s.holds := by simp [State.sampleLost]
@[simp] theorem State.dropDrain_holds (s : State) (j : Fin 160) (l : List Nat) (t : TileId) : (s.dropDrain j l t).holds = s.holds := by
  simp [State.dropDrain, State.jet_store]
@[simp] theorem State.drain_to {s : State} (j : Fin 160) (l : List Nat) (t : TileId) (d : SpoutDesc) {o : Holds} (h : o.To s.holds) :
    o.To (s.drain j l t d).holds := by
  unfold State.drain
  dsimp only
  split
  · simp [h]
  · rw [State.foldl_holds fun _ _ => State.sampleDrain_holds ..]
    refine h.putJet fun ok => ?_
    have hs := (h.2 ok).jet j
    simp only [Jet.store_ite, Jet.arrayFault_store, ite_self, Jet.foldl_store fun _ _ => Jet.modTiles_store _ _ _]
    split
    · exact storeBytes_wf _ _ _ hs
    · refine drainSteps_wf _ _ _ _ _ ?_
      dsimp only
      exact spoutEnv_wf _ _ _ _ _ _ _ hs
@[simp] theorem execSpoutDrainStart_to (j : Fin 160) (n : Fin 8) (t : TileId) (s : State) : (execSpoutDrainStart j n t s).To s := by
  unfold execSpoutDrainStart
  dsimp only
  repeat' split
  all_goals simp

/-! ## Tiers -/

@[simp] theorem State.memFatal_holds (s : State) (g : MemRegion) (unit reason : Nat) : (s.memFatal g unit reason).holds = s.holds := by
  simp [State.memFatal]
@[simp] theorem State.waitCheck_holds (s : State) (g : MemRegion) : (s.waitCheck g).holds = s.holds := by
  unfold State.waitCheck
  dsimp only
  split <;> simp
@[simp] theorem State.mapOutBegin_to {s : State} (g : MemRegion) (unit reason : Nat) (dead : Bool) {o : Holds} (h : o.To s.holds) :
    o.To (s.mapOutBegin g unit reason dead).holds := by simp [h, State.mapOutBegin]
@[simp] theorem State.checkPackage_holds (s : State) (g : MemRegion) (unit reason : Nat) (dead : Bool) :
    (s.checkPackage g unit reason dead).holds = s.holds := by simp [State.checkPackage]
@[simp] theorem State.mapOutRequest_to {s : State} (u : MemUnit) (reason : Nat) (dead : Bool) {o : Holds} (h : o.To s.holds) :
    o.To (s.mapOutRequest u reason dead).holds := by simp [h, State.mapOutRequest]
@[simp] theorem State.mapOutCheck_to {s : State} (u : MemUnit) {o : Holds} (h : o.To s.holds) :
    o.To (s.mapOutCheck u).holds := by simp [h, State.mapOutCheck]
@[simp] theorem execMapOutStart_to (g : MemRegion) (s : State) : (execMapOutStart g s).To s := by
  unfold execMapOutStart
  dsimp only
  split <;> simp
@[simp] theorem State.mapOutDone_holds (s : State) (g : MemRegion) : (s.mapOutDone g).holds = s.holds := by simp [State.mapOutDone]
@[simp] theorem execScrubRead_to (u : MemUnit) (addr : Nat) (e1 e2 : List Byte) (s : State) :
    (execScrubRead u addr e1 e2 s).To s := by
  unfold execScrubRead
  dsimp only
  repeat' split
  all_goals simp
@[simp] theorem State.demandRead_to {s : State} (a : Nat) {o : Holds} (h : o.To s.holds) :
    o.To (s.demandRead a).2.holds := by
  have hr := State.tierRead_to a h
  unfold State.demandRead
  split
  next d u t e =>
    rw [e] at hr
    exact State.mapOutCheck_to u hr
  next d t e =>
    rw [e] at hr
    exact hr
theorem State.demandRead_reads : ∃ r, r = @State.demandRead ∧ ∀ {s : State} (a : Nat) {o : Holds}, o.To s.holds →
    o.To (r s a).2.holds := ⟨_, rfl, State.demandRead_to⟩
@[simp] theorem State.tierWriteIn_to {s : State} (a : Nat) (bs : List Byte) {o : Holds} (h : o.To s.holds) :
    o.To (s.tierWriteIn a bs).holds := by
  unfold State.tierWriteIn
  dsimp only
  split
  · simp [h]
  · split
    next d t e => exact State.tierPut_to _ _ (State.to_of_snd (State.demandRead_to _ h) e)
    next t e => exact State.tierPut_to _ _ (State.to_of_snd (State.demandRead_to _ h) e)
@[simp] theorem State.deviceWrite_to (n : Nat) {s : State} (a : Nat) (bs : List Byte) {o : Holds} (h : o.To s.holds) :
    o.To (s.deviceWrite n a bs).holds := by
  induction n generalizing s a bs with
  | zero => exact h
  | succ n ih =>
    unfold State.deviceWrite
    split
    · exact h
    · cases s.canon a with
      | none => exact ih _ _ h
      | some c => exact ih _ _ (State.tierWriteIn_to c _ h)

/-! ## Fabric -/

@[simp] theorem State.countWeir_holds (s : State) (k : Nat) : (s.countWeir k).holds = s.holds := by simp [State.countWeir]
@[simp] theorem State.countPort_holds (s : State) (p : Fin 6) (k n : Nat) : (s.countPort p k n).holds = s.holds := by
  simp [State.countPort]
@[simp] theorem State.enterChannel_holds (s : State) (e : BitVec 2) (v : Nat) : (s.enterChannel e v).holds = s.holds := by
  simp [State.enterChannel]
@[simp] theorem State.leaveChannel_holds (s : State) (e : BitVec 2) (v : Nat) : (s.leaveChannel e v).holds = s.holds := by
  simp [State.leaveChannel]
@[simp] theorem State.holdWords_holds (s : State) (p : Fin 6) (v n : Nat) : (s.holdWords p v n).holds = s.holds := by
  simp [State.holdWords]
@[simp] theorem State.leave_holds (s : State) (x : Queued) : (s.leave x).holds = s.holds := by
  unfold State.leave
  split <;> simp
@[simp] theorem State.discard_holds (s : State) (x : Queued) (k : Nat) : (s.discard x k).holds = s.holds := by simp [State.discard]
@[simp] theorem State.join_holds (s : State) (q : Fin 6) (x : Queued) : (s.join q x).holds = s.holds := by simp [State.join]
@[simp] theorem State.reinject_holds (s : State) (p : Fin 6) (x : Queued) : (s.reinject p x).holds = s.holds := by simp [State.reinject]
@[simp] theorem State.echoFor_holds (s : State) (p : Packet) : (s.echoFor p).holds = s.holds := by simp [State.echoFor]
@[simp] theorem State.deliver_to {s : State} (p : Packet) {o : Holds} (h : o.To s.holds) :
    o.To (s.deliver p).holds := by simp [h, State.deliver]
@[simp] theorem State.routePacket_to {s : State} (x : Queued) (arr : Option (Fin 6)) {o : Holds} (h : o.To s.holds) :
    o.To (s.routePacket x arr).holds := by
  unfold State.routePacket
  split <;> simp [h]
@[simp] theorem execPacketReceive_to (p : Fin 6) (s : State) : (execPacketReceive p s).To s := by
  unfold execPacketReceive
  dsimp only
  repeat' split
  all_goals simp
@[simp] theorem State.putPayload_to {s : State} (a : Nat) (w : List Byte) {o : Holds} (h : o.To s.holds) :
    o.To (s.putPayload a w).holds := by
  unfold State.putPayload
  dsimp only
  repeat' split
  all_goals simp [h]
@[simp] theorem State.modFlow_holds (s : State) (dest : BitVec 15) (cls : BitVec 2) (f : Flow → Flow) :
    (s.modFlow dest cls f).holds = s.holds := by simp [State.modFlow]
@[simp] theorem State.lineSeen_holds (s : State) (d : Nat) : (s.lineSeen d).holds = s.holds := by simp [State.lineSeen]
@[simp] theorem State.addBreak_holds (s : State) (p : Fin 6) (d coord : Nat) : (s.addBreak p d coord).1.holds = s.holds := by
  unfold State.addBreak
  dsimp only
  repeat' split
  all_goals simp
@[simp] theorem State.clearBreaks_holds (s : State) (p : Fin 6) (d coord span : Nat) :
    (s.clearBreaks p d coord span).1.holds = s.holds := by
  unfold State.clearBreaks
  dsimp only
  repeat' split
  all_goals simp
@[simp] theorem State.sendNotice_holds (s : State) (q : Fin 6) (d coord span : Nat) (clear : Bool) :
    (s.sendNotice q d coord span clear).holds = s.holds := by simp [State.sendNotice]
@[simp] theorem execRingNotice_to (p : Fin 6) (dim : Fin 3) (coord span : Nat) (clear : Bool) (s : State) :
    (execRingNotice p dim coord span clear s).To s := by
  unfold execRingNotice
  dsimp only
  split <;> simp

/-! ## Records -/

@[simp] theorem State.writeBytes_to {s : State} (a : Nat) (bs : List Byte) {o : Holds} (h : o.To s.holds) :
    o.To (s.writeBytes a bs).holds := by
  simp [h, State.writeBytes]
@[simp] theorem State.keepEntry_to {s : State} (i : Image) (e : ResEntry) {o : Holds} (h : o.To s.holds) :
    o.To (s.keepEntry i e).holds := by
  simp [h, State.keepEntry]
@[simp] theorem State.readEach_to (l : List Nat) {s : State} {o : Holds} (h : o.To s.holds) :
    o.To (State.readEach l s).2.holds := by
  induction l generalizing s with
  | nil => exact h
  | cons a l ih => exact ih (State.readWords_to 1 a h)
@[simp] theorem State.writeEach_to (l : List (Nat × Option (List Byte))) {s : State} {o : Holds} (h : o.To s.holds) :
    o.To (State.writeEach l s).holds := by
  induction l generalizing s with
  | nil => exact h
  | cons p l ih => exact ih (State.writeWords_to [p.2] p.1 h)
@[simp] theorem State.putShare_to (l : List (Option (List Byte))) {s : State} (i : Image) (n : Nat) {o : Holds} (h : o.To s.holds) :
    o.To (s.putShare i n l).holds := by
  induction l generalizing s n with
  | nil => exact h
  | cons w l ih => exact ih _ (State.writeWords_to [w] _ h)
@[simp] theorem State.putHeader_to {s : State} (i : Image) {o : Holds} (h : o.To s.holds) :
    o.To (s.putHeader i).holds := State.putShare_to _ i _ h
@[simp] theorem State.clearShare_to {s : State} (i : Image) {o : Holds} (h : o.To s.holds) :
    o.To (s.clearShare i).holds := State.putShare_to _ i _ h
@[simp] theorem State.foldShare_to (l : List (Option (List Byte))) {s : State} (i : Image) (n : Nat) {o : Holds} (h : o.To s.holds) :
    o.To (s.foldShare i n l).holds := by
  generalize hf : @State.foldShare = f
  delta State.foldShare State.foldShare._f at hf
  obtain ⟨r, hr, read⟩ := State.readWords_reads
  rw [← hr] at hf
  subst hf
  induction l generalizing s n with
  | nil => exact h
  | cons w l ih => exact ih _ (State.writeWords_to _ _ (read 1 _ h))

/-! ## Update -/

@[simp] theorem State.stepSkew_holds (s : State) (r : Fin 2) (held : Bool) (local' agreed : List W32) (groups : Nat) :
    (s.stepSkew r held local' agreed groups).holds = s.holds := by simp [State.stepSkew]
@[simp] theorem State.takeDesc_holds (s : State) (i : Image) (held : Bool) : (s.takeDesc i held).holds = s.holds := by
  unfold State.takeDesc
  split <;> simp
@[simp] theorem State.beginUpdate_holds (s : State) : s.beginUpdate.holds = s.holds := by
  unfold State.beginUpdate
  split <;> simp
@[simp] theorem State.gradOf_to {s : State} (i : Image) (held : Bool) (idx : Nat) (bad : List Nat) {o : Holds} (h : o.To s.holds) :
    o.To (s.gradOf i held idx bad).2.holds := by
  unfold State.gradOf
  split <;> simp [h]
theorem State.gradOf_reads : ∃ r, r = @State.gradOf ∧ ∀ {s : State} (i : Image) (held : Bool) (idx : Nat) (bad : List Nat) {o : Holds},
    o.To s.holds → o.To (r s i held idx bad).2.holds := ⟨_, rfl, State.gradOf_to⟩
@[simp] theorem State.skipRecord_to {s : State} (i : Image) (r : Fin 2) (n : Nat) (held : Bool) (idx total : Nat) {o : Holds} (h : o.To s.holds) :
    o.To (s.skipRecord i r n held idx total).holds := by
  generalize hf : @State.skipRecord = f
  delta State.skipRecord at hf
  obtain ⟨r, hr, read⟩ := State.readRecord_reads
  rw [← hr] at hf
  subst hf
  dsimp only
  rw [State.modRunnel_holds (by simp [← State.runnels_get_stores, Runnel.stores])]
  exact read _ _ _ _ h
@[simp] theorem State.stageRecord_to {s : State} (i : Image) (d : Fin 2) (n : Fin 16) (held : Bool) (no idx : Nat) (bad : List Nat) {o : Holds} (h : o.To s.holds) :
    o.To (s.stageRecord i d n held no idx bad).holds := by
  generalize hf : @State.stageRecord = f
  delta State.stageRecord at hf
  obtain ⟨r, hr, take⟩ := State.takeRecord_reads
  obtain ⟨g, hg, grad⟩ := State.gradOf_reads
  rw [← hr, ← hg] at hf
  subst hf
  dsimp only
  have ht := grad i held idx bad (take i held idx h)
  refine ht.modRunnel_core n fun x hx => ?_
  rw [Runnel.takeNo_cores]
  split
  · refine ⟨_, by dsimp only, fun ok => ?_⟩
    exact Core.stageSet_wf _ _ _ _ _ (hx ok n)
  · refine ⟨_, by dsimp only, fun ok => ?_⟩
    rw [Core.enterKernel_store]
    exact Core.stageSet_wf _ _ _ _ _ (hx ok n)
@[simp] theorem execRecordStage_to (r : Fin 2) (n : Fin 16) (b : StageFrom) (s : State) : (execRecordStage r n b s).To s := by
  unfold execRecordStage
  dsimp only
  repeat' split
  all_goals simp
@[simp] theorem execRecordWriteback_to (d : Fin 2) (n : Fin 16) (s : State) : (execRecordWriteback d n s).To s := by
  unfold execRecordWriteback
  obtain ⟨r, hr, read⟩ := State.readWords_reads
  rw [← hr, Out.to_next]
  split
  · exact .refl _
  · dsimp only
    split
    · exact .refl _
    · refine Holds.To.modRunnel_core n ?_ fun x _ => ?_
      · split
        · exact State.writeWords_to _ _ (read _ _ (.refl _))
        · exact State.writeThrough_to _ _ _ (State.writeWords_to _ _ (read _ _ (.refl _)))
      · rw [apply_ite Runnel.cores, Runnel.addDigest_cores, Runnel.countRecord_cores, ← apply_ite (vset x.cores n)]
        refine ⟨_, rfl, fun ok => ?_⟩
        rw [Core.store_ite, Core.enterKernel_store, ite_self]
        exact ok.coreStore (.upd d n)

/-! ## CollOps -/

@[simp] theorem State.countColl_holds (s : State) (k n : Nat) : (s.countColl k n).holds = s.holds := by simp [State.countColl]
@[simp] theorem State.reportSuspect_holds (s : State) (rank : BitVec 15) (cause : Nat) :
    (s.reportSuspect rank cause).holds = s.holds := by simp [State.reportSuspect]
@[simp] theorem State.modColl_holds (s : State) (coll occ : Nat) (f : OpenColl → OpenColl) : (s.modColl coll occ f).holds = s.holds := by
  simp [State.modColl]
@[simp] theorem State.sendChunk_holds (s : State) (dest : Nat) (id : ChunkId) (d : ChunkData) :
    (s.sendChunk dest id d).holds = s.holds := by simp [State.sendChunk]
@[simp] theorem State.feed_holds (s : State) (coll occ a m c : Nat) (d : ChunkData) : (s.feed coll occ a m c d).holds = s.holds := by
  unfold State.feed
  repeat' split
  all_goals simp
@[simp] theorem State.takeResult_holds (s : State) (coll occ c : Nat) (d : ChunkData) : (s.takeResult coll occ c d).holds = s.holds := by
  unfold State.takeResult
  dsimp only
  repeat' split
  all_goals simp
@[simp] theorem State.takeEarly_holds (s : State) (e : ChunkId × ChunkData) : (s.takeEarly e).holds = s.holds := by simp [State.takeEarly]
@[simp] theorem State.openColl_holds (s : State) (coll occ : Nat) (op : CollOp) (fmt : CollFmt) (chunks : Nat) (own : Tbl ChunkData)
    (absent : List Nat) : (s.openColl coll occ op fmt chunks own absent).holds = s.holds := by
  unfold State.openColl
  split <;> simp
@[simp] theorem State.takeStart_holds (s : State) (absent carried : List Nat) : (s.takeStart absent carried).holds = s.holds := by
  unfold State.takeStart
  dsimp only
  split <;> simp
@[simp] theorem State.sendStart_holds (s : State) : s.sendStart.holds = s.holds := by simp [State.sendStart]
@[simp] theorem State.takeReady_holds (s : State) (rank : Nat) (carried : Bool) : (s.takeReady rank carried).holds = s.holds := by
  simp [State.takeReady]
@[simp] theorem State.beginExchange_holds (s : State) : s.beginExchange.holds = s.holds := by simp [State.beginExchange]
@[simp] theorem State.endExchange_holds (s : State) : s.endExchange.holds = s.holds := by simp [State.endExchange]
@[simp] theorem State.keepExchange_holds (s : State) : s.keepExchange.holds = s.holds := by simp [State.keepExchange]

/-! ## Sequencer -/

@[simp] theorem State.beginReserve_holds (s : State) : s.beginReserve.holds = s.holds := by simp [State.beginReserve]
@[simp] theorem State.formVote_holds (s : State) : s.formVote.holds = s.holds := by
  unfold State.formVote
  split <;> simp
@[simp] theorem State.beginCommit_holds (s : State) : s.beginCommit.holds = s.holds := by simp [State.beginCommit]
@[simp] theorem State.enterPhase_holds (s : State) (p : Nat) : (s.enterPhase p).holds = s.holds := by simp [State.enterPhase]
@[simp] theorem State.openRegions_holds (s : State) : s.openRegions.holds = s.holds := by
  unfold State.openRegions
  split <;> simp
@[simp] theorem State.relay_to {s : State} (i : Image) (p : Policy) {o : Holds} (h : o.To s.holds) :
    o.To (s.relay i p).holds := by simp [h, State.relay]
@[simp] theorem State.applyPolicy_to {s : State} {o : Holds} (h : o.To s.holds) :
    o.To s.applyPolicy.holds := by
  unfold State.applyPolicy
  dsimp only
  repeat' split
  all_goals simp [h]
@[simp] theorem State.startStep_to {s : State} {o : Holds} (h : o.To s.holds) :
    o.To s.startStep.holds := by simp [h, State.startStep]
@[simp] theorem State.nextStep_to {s : State} {o : Holds} (h : o.To s.holds) :
    o.To s.nextStep.holds := by simp [h, State.nextStep]
@[simp] theorem State.afterPause_to {s : State} {o : Holds} (h : o.To s.holds) :
    o.To s.afterPause.holds := by simp [h, State.afterPause]

/-! ## Boxes -/

@[simp] theorem State.go_holds (s : State) (n : Fin 8) : (s.go n).holds = s.holds := by
  unfold State.go
  dsimp only
  repeat' split
  all_goals simp
@[simp] theorem execServerTake_to (n : Fin 8) (s : State) : (execServerTake n s).To s := by
  unfold execServerTake
  dsimp only
  repeat' split
  all_goals simp
@[simp] theorem State.abortBox_holds (s : State) (n : Fin 8) : (s.abortBox n).holds = s.holds := by simp [State.abortBox]
@[simp] theorem State.watchCaps_holds (s : State) : s.watchCaps.holds = s.holds := by
  unfold State.watchCaps
  split <;> simp
@[simp] theorem State.serve_holds {s : State} {n : Fin 8} {op : Nat} {f : State → Mailbox → State} (h : ∀ b, (f s b).holds = s.holds) :
    (s.serve n op f).holds = s.holds := by
  unfold State.serve
  split
  · split <;> simp [h]
  · rfl
theorem State.serve_to {s : State} {n : Fin 8} {op : Nat} {f : State → Mailbox → State} {o : Holds} (h : o.To s.holds)
    (hf : ∀ b, o.To (f s b).holds) : o.To (s.serve n op f).holds := by
  unfold State.serve
  split
  · split
    · simp [h]
    · exact hf _
  · exact h

/-! ## Survival -/

@[simp] theorem execReserveEntryReceive_to (e : ResEntry) (s : State) : (execReserveEntryReceive e s).To s := by
  unfold execReserveEntryReceive
  rw [Out.to_next]
  split
  · exact .refl _
  · split
    · simp
    · cases s.job.image <;> simp
@[simp] theorem State.commitStep_holds (s : State) : s.commitStep.holds = s.holds := by simp [State.commitStep]
@[simp] theorem State.recordMismatch_holds (s : State) (winner : Nat) : (s.recordMismatch winner).holds = s.holds := by
  simp [State.recordMismatch]
@[simp] theorem State.actVote_to {s : State} {o : Holds} (h : o.To s.holds) :
    o.To s.actVote.holds := by
  unfold State.actVote
  split <;> simp [h]
@[simp] theorem State.resumeStep_to {s : State} {o : Holds} (h : o.To s.holds) :
    o.To s.resumeStep.holds := by
  unfold State.resumeStep
  split <;> simp [h]
theorem State.imageOf_to {s : State} {i : Image} {take : State → Nat → List (Option (List Byte)) × State} {t : List W32}
    (ht : ∀ (s : State) n, s.holds.To (take s n).2.holds) {o : Holds} (h : o.To s.holds) : o.To (s.imageOf i take t).2.holds :=
  State.foldl_snd_to (f := fun p x => (p.1 ++ (take p.2 x).1, (take p.2 x).2)) (fun p x => ht p.2 x) _ h
@[simp] theorem State.liveImage_to {s : State} (i : Image) {o : Holds} (h : o.To s.holds) :
    o.To (s.liveImage i).2.holds := by
  generalize hf : @State.liveImage = f
  delta State.liveImage at hf
  obtain ⟨r, hr, take⟩ := State.takeRecord_reads
  rw [← hr] at hf
  subst hf
  exact State.imageOf_to (fun s x => take i false x (.refl s.holds)) h
theorem State.liveImage_reads : ∃ r, r = @State.liveImage ∧ ∀ {s : State} (i : Image) {o : Holds}, o.To s.holds →
    o.To (r s i).2.holds := ⟨_, rfl, State.liveImage_to⟩
@[simp] theorem State.copyImage_to {s : State} (i : Image) {o : Holds} (h : o.To s.holds) :
    o.To (s.copyImage i).2.holds := by
  generalize hf : @State.copyImage = f
  delta State.copyImage at hf
  obtain ⟨r, hr, read⟩ := State.readWords_reads
  obtain ⟨g, hg, live⟩ := State.liveImage_reads
  rw [← hr, ← hg] at hf
  subst hf
  dsimp only
  split
  · exact live i h
  · exact State.imageOf_to (fun s x => read _ _ (.refl s.holds)) h
@[simp] theorem State.putSecured_to (l : List (Option (List Byte))) {s : State} (i : Image) (n : Nat) {o : Holds} (h : o.To s.holds) :
    o.To (s.putSecured i n l).holds := by
  induction l generalizing s n with
  | nil => exact h
  | cons w l ih =>
    unfold State.putSecured
    dsimp only
    split <;> refine ih _ ?_ <;> simp [h]
@[simp] theorem State.sendStripes_holds (s : State) (img : List (Option (List Byte))) (digest : W128) :
    (s.sendStripes img digest).holds = s.holds := by simp [State.sendStripes]
@[simp] theorem State.applyKG_holds (s : State) : s.applyKG.holds = s.holds := by
  unfold State.applyKG
  split <;> simp
@[simp] theorem State.noTerraceCheck_holds (s : State) : s.noTerraceCheck.holds = s.holds := by simp [State.noTerraceCheck]
@[simp] theorem State.beginPause_to {s : State} {o : Holds} (h : o.To s.holds) :
    o.To s.beginPause.holds := by
  unfold State.beginPause
  dsimp only
  split
  · simp [h]
  · split
    · simp [h]
    next i _ _ =>
      refine Holds.To.trans (State.putSecured_to _ i 0 ?_) (.of_eq (State.holds_mk rfl rfl rfl))
      rw [State.sendStripes_holds]
      exact State.liveImage_to i (State.putHeader_to i (State.clearShare_to i (by simp [h])))
@[simp] theorem State.foldPiece_to {s : State} (i : Image) (member offset : Nat) (data : List Byte) (digest : W128) (last : Bool) {o : Holds} (h : o.To s.holds) :
    o.To (s.foldPiece i member offset data digest last).holds := by simp [h, State.foldPiece]
@[simp] theorem State.sendRebuilt_to {s : State} (i : Image) (rank : Nat) (pieces : Tbl (List Byte)) {o : Holds} (h : o.To s.holds) :
    o.To (s.sendRebuilt i rank pieces).holds := by simp [h, State.sendRebuilt]
@[simp] theorem State.rebuildPiece_to {s : State} (i : Image) (rank : Nat) (pieces : Tbl (List Byte)) (whole : List Nat)
    (member offset : Nat) (data : List Byte) (last : Bool) {o : Holds} (h : o.To s.holds) :
    o.To (s.rebuildPiece i rank pieces whole member offset data last).holds := by
  simp [h, State.rebuildPiece]
@[simp] theorem execParityPieceReceive_to (member offset : Nat) (data : List Byte) (digest : W128) (last : Bool) (s : State) :
    (execParityPieceReceive member offset data digest last s).To s := by
  unfold execParityPieceReceive
  split <;> simp
@[simp] theorem execSecurePauseEnd_to (takenUs : Nat) (s : State) : (execSecurePauseEnd takenUs s).To s := by
  unfold execSecurePauseEnd
  rw [Out.to_next]
  dsimp only
  repeat' split
  all_goals simp
@[simp] theorem State.setJetLanes_holds (s : State) (l : Tbl W64) : (s.setJetLanes l).holds = s.holds :=
  State.holds_mk (jetStores_ofFn fun _ => rfl) rfl rfl
@[simp] theorem State.setCoreLanes_holds (s : State) (l : Tbl W64) : (s.setCoreLanes l).holds = s.holds :=
  State.holds_mk rfl (coreStores_ofFn fun _ => Runnel.stores_ofFn rfl fun _ => rfl) rfl

end Sys2Proof.Machine
end

section
/-! What the operations of membership, the mover, the vector unit, the graph, collectives, start-up and the firmware keep. -/

namespace Sys2Proof.Machine

/-! ## Membership -/

@[simp] theorem State.memb_holds (s : State) (st : Nat) : (s.memb st).holds = s.holds := by simp [State.memb]
@[simp] theorem State.abandonColls_holds (s : State) : s.abandonColls.holds = s.holds := by simp [State.abandonColls]
@[simp] theorem State.dropWaiters_holds (s : State) : s.dropWaiters.holds = s.holds := by
  unfold State.dropWaiters
  dsimp only
  split <;> simp
@[simp] theorem State.dropCarried_holds (s : State) : s.dropCarried.holds = s.holds := by simp [State.dropCarried]
@[simp] theorem State.fence_holds (s : State) : s.fence.holds = s.holds := by simp [State.fence]
@[simp] theorem State.uncoverGroups_holds (s : State) : s.uncoverGroups.holds = s.holds := by simp [State.uncoverGroups]
@[simp] theorem State.coverUpdate_holds (s : State) : s.coverUpdate.holds = s.holds := by simp [State.coverUpdate]
@[simp] theorem State.reopenVote_holds (s : State) : s.reopenVote.holds = s.holds := by simp [State.reopenVote]
@[simp] theorem State.failureOutcome_to {s : State} (newly : List Nat) (complete : Bool) {o : Holds} (h : o.To s.holds) :
    o.To (s.failureOutcome newly complete).holds := by simp [h, State.failureOutcome]
@[simp] theorem State.leaderLost_holds (s : State) : s.leaderLost.holds = s.holds := by simp [State.leaderLost]
@[simp] theorem State.countFills_holds (s : State) (t : MembTable) : (s.countFills t).holds = s.holds := by simp [State.countFills]
@[simp] theorem State.sendFill_holds (s : State) (rank : Nat) (f : FillData) : (s.sendFill rank f).holds = s.holds := by
  simp [State.sendFill]
@[simp] theorem State.sendRecords_to {s : State} (i : Image) (rank : Nat) (held : Bool) {o : Holds} (h : o.To s.holds) :
    o.To (s.sendRecords i rank held).holds := by
  unfold State.sendRecords
  obtain ⟨r, hr, take⟩ := State.takeRecord_reads
  rw [← hr]
  exact State.foldl_to (fun s x => by simp [take]) _ h
@[simp] theorem State.wholeEntry_to {s : State} (i : Image) (e : ResEntry) {o : Holds} (h : o.To s.holds) :
    o.To (s.wholeEntry i e).2.holds := by
  generalize hf : @State.wholeEntry = f
  delta State.wholeEntry at hf
  obtain ⟨r, hr, read⟩ := State.readWords_reads
  rw [← hr] at hf
  subst hf
  refine State.foldl_snd_to ?_ _ ?_
  · exact fun p x => read 65 _ (.refl p.2.holds)
  · exact h
@[simp] theorem State.fillOwn_to {s : State} (i : Image) (rank : Nat) {o : Holds} (h : o.To s.holds) :
    o.To (s.fillOwn i rank).holds := by
  unfold State.fillOwn
  dsimp only
  repeat' split
  all_goals simp [h]
@[simp] theorem State.fillHeld_to {s : State} (i : Image) (rank : Nat) {o : Holds} (h : o.To s.holds) :
    o.To (s.fillHeld i rank).holds := by
  unfold State.fillHeld
  dsimp only
  split <;> simp [h]
@[simp] theorem State.fillParity_to {s : State} (i : Image) (rank : Nat) {o : Holds} (h : o.To s.holds) :
    o.To (s.fillParity i rank).holds := by
  simp [h, State.fillParity]
@[simp] theorem State.donate_to {s : State} (i : Image) (rank : Nat) {o : Holds} (h : o.To s.holds) :
    o.To (s.donate i rank).holds := by simp [h, State.donate]
@[simp] theorem State.donateAll_to {s : State} (was : Option MembTable) (t : MembTable) (newly : List Nat) {o : Holds} (h : o.To s.holds) :
    o.To (s.donateAll was t newly).holds := by
  unfold State.donateAll
  split <;> simp [h]
@[simp] theorem State.adoptTable_to {s : State} (t : MembTable) (complete : Bool) {o : Holds} (h : o.To s.holds) :
    o.To (s.adoptTable t complete).holds := by
  unfold State.adoptTable
  dsimp only
  refine Holds.To.ite (State.donateAll_to _ _ _ ?_) ?_ <;>
    rw [State.reopenVote_holds, State.coverUpdate_holds, State.uncoverGroups_holds] <;>
    exact State.failureOutcome_to _ _ (by simp [h])
@[simp] theorem State.beginFill_to {s : State} (t : MembTable) (rank : Nat) {o : Holds} (h : o.To s.holds) :
    o.To (s.beginFill t rank).holds := by
  unfold State.beginFill
  dsimp only
  split <;> simp [h]
@[simp] theorem State.becomeMember_to {s : State} (t : MembTable) (rank box : Nat) {o : Holds} (h : o.To s.holds) :
    o.To (s.becomeMember t rank box).holds := by
  simp [h, State.becomeMember]
@[simp] theorem State.spareTable_to {s : State} (t : MembTable) (rank box : Nat) {o : Holds} (h : o.To s.holds) :
    o.To (s.spareTable t rank box).holds := by
  unfold State.spareTable
  split <;> simp [h]
@[simp] theorem execCommit_to (table : MembTable) (complete : Bool) (s : State) : (execCommit table complete s).To s := by
  unfold execCommit
  split <;> simp
@[simp] theorem State.propose_holds (s : State) (entry : Option (Nat × BitVec 15 × Nat)) : (s.propose entry).holds = s.holds := by
  simp [State.propose]
@[simp] theorem State.suspectRanks_holds (s : State) (rs : List Nat) : (s.suspectRanks rs).holds = s.holds := by
  unfold State.suspectRanks
  dsimp only
  repeat' split
  all_goals simp
@[simp] theorem State.admitRank_holds (s : State) (rank : Nat) (addr : BitVec 15) : (s.admitRank rank addr).holds = s.holds := by
  unfold State.admitRank
  repeat' split
  all_goals simp
@[simp] theorem State.nextJoin_holds (s : State) : s.nextJoin.holds = s.holds := by
  unfold State.nextJoin
  split <;> simp
@[simp] theorem State.endRound_to {s : State} {o : Holds} (h : o.To s.holds) :
    o.To s.endRound.holds := by
  unfold State.endRound
  split <;> simp [h]
@[simp] theorem State.roundCheck_to {s : State} {o : Holds} (h : o.To s.holds) :
    o.To s.roundCheck.holds := by
  unfold State.roundCheck
  split <;> simp [h]
@[simp] theorem State.answer_holds (s : State) (src : Nat) (suspects : List Nat) : (s.answer src suspects).holds = s.holds := by
  simp [State.answer]
@[simp] theorem execPropose_to (src : Nat) (epoch : W32) (suspects : List Nat) (s : State) :
    (execPropose src epoch suspects s).To s := by
  unfold execPropose
  repeat' split
  all_goals simp
@[simp] theorem execAccept_to (src : Nat) (epoch : W32) (suspects : List Nat) (complete : Bool) (s : State) :
    (execAccept src epoch suspects complete s).To s := by
  unfold execAccept
  split <;> simp
@[simp] theorem State.installTable_holds (s : State) (t : Option MembTable) (rank st : Nat) (epoch : W32) :
    (s.installTable t rank st epoch).holds = s.holds := by simp [State.installTable]
@[simp] theorem execMembershipSet_to (n : Fin 8) (table : MembTable) (othersIdle : Bool) (s : State) :
    (execMembershipSet n table othersIdle s).To s := by
  unfold execMembershipSet
  rw [Out.to_next]
  refine State.serve_to (.refl _) fun b => ?_
  dsimp only
  repeat' split
  all_goals simp

/-! ## JobCmds -/

@[simp] theorem State.policyChange_holds (s : State) (sel : BitVec 6) (p : Policy) (step : W64) :
    (s.policyChange sel p step).holds = s.holds := by simp [State.policyChange]
@[simp] theorem State.applyJob_holds (s : State) (cmd : JobCmd) (step : W64) : (s.applyJob cmd step).holds = s.holds := by
  unfold State.applyJob
  repeat' split
  all_goals simp
@[simp] theorem State.leadJob_holds (s : State) (cmd : JobCmd) : (s.leadJob cmd).holds = s.holds := by simp [State.leadJob]
@[simp] theorem State.forwardJob_holds (s : State) (cmd : JobCmd) : (s.forwardJob cmd).holds = s.holds := by simp [State.forwardJob]

/-! ## Mover -/

@[simp] theorem State.mvFault_holds (s : State) (j : Fin 160) (tag reason addr : Nat) :
    (s.mvFault j tag reason addr).holds = s.holds := by simp [State.mvFault]
@[simp] theorem State.mvRead_to {s : State} (j : Fin 160) (d : MvDesc) (host : List Byte) (pos a : Nat) {o : Holds} (h : o.To s.holds) :
    o.To (s.mvRead j d host pos a).2.holds := by
  unfold State.mvRead
  dsimp only
  split
  · have hr : o.To (s.modJet j fun x => { x with core := { x.core with store := (readWord (s.jet j).core.store (a / 32)).2 } }).holds :=
      h.modJet fun ok => readWord_wf _ _ ((h.2 ok).jet j)
    split <;> exact hr
  · split
    · split
      · exact h
      · split <;> exact h
    · split
      · exact h
      next c _ =>
        split
        next b t e => exact State.to_of_snd (State.demandRead_to c h) e
        next t e => exact State.to_of_snd (State.demandRead_to c h) e
@[simp] theorem State.hostReads_holds (s : State) (d : MvDesc) : (s.hostReads d).holds = s.holds := by
  unfold State.hostReads
  split
  · rfl
  · exact State.foldl_holds (fun s r => by split <;> simp) _ s
@[simp] theorem State.hostWrite_holds (s : State) (b o len : Nat) (prev w : List Byte) :
    (s.hostWrite b o len prev w).2.holds = s.holds := by
  unfold State.hostWrite
  dsimp only
  repeat' split
  all_goals simp
@[simp] theorem State.mvWrite_to {s : State} (j : Fin 160) (d : MvDesc) (a n len : Nat) (prev : List Byte) (w : Option (List Byte)) {o : Holds} (h : o.To s.holds) :
    o.To (s.mvWrite j d a n len prev w).2.holds := by
  unfold State.mvWrite
  dsimp only
  split
  · exact h.modJet fun ok => putWord_wf _ _ _ ((h.2 ok).jet j)
  · split
    · simp [h]
    · split <;> simp [h]
@[simp] theorem State.mvCopy_to {s : State} (j : Fin 160) (d : MvDesc) (host : List Byte) (n i : Nat) (prev : List Byte) {o : Holds} (h : o.To s.holds) :
    o.To (s.mvCopy j d host n i prev).1.holds := by
  induction n generalizing s i prev with
  | zero => exact h
  | succ n ih =>
    unfold State.mvCopy
    dsimp only
    have read {a : Nat} {w : MvWord} {t : State} (e : s.mvRead j d host (32 * i) a = (w, t)) : o.To t.holds :=
      State.to_of_snd (State.mvRead_to j d host _ a h) e
    split
    next t e => exact read e
    next t e => exact read e
    next t e => exact State.mvWrite_to j d _ _ _ _ _ (read e)
    next w t e =>
      split
      next u e' => exact State.to_of_snd (State.mvWrite_to j d _ _ _ _ _ (read e)) e'
      next u e' => exact ih _ _ (State.to_of_snd (State.mvWrite_to j d _ _ _ _ _ (read e)) e')
@[simp] theorem State.tileRows_to {s : State} (d : MvDesc) (n i : Nat) {o : Holds} (h : o.To s.holds) :
    o.To (s.tileRows d n i).2.2.holds := by
  induction n generalizing s i with
  | zero => exact h
  | succ n ih =>
    unfold State.tileRows
    dsimp only
    split
    · exact ih _ (State.demandRead_to _ (State.demandRead_to _ h))
    · exact h
@[simp] theorem State.countTile_holds (s : State) (a : Nat) : (s.countTile a).holds = s.holds := by
  unfold State.countTile
  repeat' split
  all_goals simp
@[simp] theorem State.mvTranspose_to {s : State} (j : Fin 160) (d : MvDesc) (n t : Nat) {o : Holds} (h : o.To s.holds) :
    o.To (s.mvTranspose j d n t).1.holds := by
  induction n generalizing s t with
  | zero => exact h
  | succ n ih =>
    unfold State.mvTranspose
    dsimp only
    split
    next u e =>
      have hu := State.tileRows_to d (if d.transpose = 1 then 32 else 64) (t * if d.transpose = 1 then 32 else 64) h
      rw [e] at hu
      exact hu
    next bad u _ e =>
      have hu := State.tileRows_to d (if d.transpose = 1 then 32 else 64) (t * if d.transpose = 1 then 32 else 64) h
      rw [e] at hu
      split
      · refine State.foldl_to (fun s k => ?_) _ (by simpa using hu)
        exact State.mvWrite_to j d _ _ _ _ _ (State.mvWrite_to j d _ _ _ _ _ (.refl s.holds))
      · refine ih _ (State.foldl_to (fun s k => ?_) _ (by simpa using hu))
        exact State.mvWrite_to j d _ _ _ _ _ (State.mvWrite_to j d _ _ _ _ _ (.refl s.holds))
@[simp] theorem State.mvRow_to {s : State} (j : Fin 160) (d : MvDesc) (host : List Byte) (pos a n : Nat) (acc : List Byte) {o : Holds} (h : o.To s.holds) :
    o.To (s.mvRow j d host pos a n acc).2.2.holds := by
  induction n generalizing s pos a acc with
  | zero => exact h
  | succ n ih =>
    unfold State.mvRow
    have read {w : MvWord} {t : State} (e : s.mvRead j d host pos a = (w, t)) := State.to_of_snd (State.mvRead_to j d host pos a h) e
    split
    next t e => exact read e
    next t e => exact read e
    next t e => exact read e
    next w t e => exact ih _ _ _ (read e)
@[simp] theorem State.mvWriteAll_to {s : State} (j : Fin 160) (d : MvDesc) (a len n m : Nat) (prev bs : List Byte) {o : Holds} (h : o.To s.holds) :
    o.To (s.mvWriteAll j d a len n m prev bs).1.holds := by
  induction n generalizing s m prev bs with
  | zero => exact h
  | succ n ih =>
    unfold State.mvWriteAll
    dsimp only
    split
    · exact h
    · split
      next t e => exact State.to_of_snd (State.mvWrite_to j d _ _ _ _ _ h) e
      next t e => exact ih _ _ _ (State.to_of_snd (State.mvWrite_to j d _ _ _ _ _ h) e)
@[simp] theorem State.mvConvert_to {s : State} (j : Fin 160) (d : MvDesc) (host : List Byte) (n i : Nat) {o : Holds} (h : o.To s.holds) :
    o.To (s.mvConvert j d host n i).1.holds := by
  induction n generalizing s i with
  | zero => exact h
  | succ n ih =>
    unfold State.mvConvert
    split
    next bs f t e =>
      have ht := State.mvRow_to j d host (i * d.rowBytes) (d.src + i * d.srcStride) (d.rowBytes / 32) [] h
      rw [e] at ht
      dsimp only
      split <;> simp [State.jet_store, ht]
    next bs t e =>
      have ht := State.mvRow_to j d host (i * d.rowBytes) (d.src + i * d.srcStride) (d.rowBytes / 32) [] h
      rw [e] at ht
      dsimp only
      split
      next u f e' => exact State.to_of_fst (State.mvWriteAll_to j d _ _ _ _ _ _ (by simpa [State.jet_store] using ht)) e'
      next u e' => exact ih _ (State.to_of_fst (State.mvWriteAll_to j d _ _ _ _ _ _ (by simpa [State.jet_store] using ht)) e')
@[simp] theorem State.snoopFor_holds (s : State) (ls : List Nat) (write : Bool) : (s.snoopFor ls write).holds = s.holds := by
  simp [State.snoopFor]
@[simp] theorem State.mvRun_to {s : State} (j : Fin 160) (d : MvDesc) (host : List Byte) {o : Holds} (h : o.To s.holds) :
    o.To (s.mvRun j d host).1.holds := by
  unfold State.mvRun
  repeat' split
  all_goals simp [h]
@[simp] theorem execMoverDescriptorStart_to (j : Fin 160) (hostData : List Byte) (s : State) :
    (execMoverDescriptorStart j hostData s).To s := by
  unfold execMoverDescriptorStart
  rw [Out.to_next]
  dsimp only
  split
  · rfl
  next d rest _ =>
    have hr := State.mvRun_to j d hostData (o := s.holds)
      (s := s.modJet j fun x => { x with mvQueue := rest, mvSnooped := false, mvHeld := x.mvHeld.filter (· != d.tag) }) (by simp)
    iterate 6
      split
      · simp
    split
    next t e => simp [State.to_of_fst hr e]
    next t reason a e => simp [State.to_of_fst hr e]
@[simp] theorem Jet.dropDesc_store (x : Jet) (d : MvDesc) : (x.dropDesc d).core.store = x.core.store := by simp [Jet.dropDesc]
@[simp] theorem execCxlCacheTimeout_to (j : Fin 160) (tag : W16) (s : State) : (execCxlCacheTimeout j tag s).To s := by
  unfold execCxlCacheTimeout
  split <;> simp
@[simp] theorem execLinkHoldExpiry_to (j : Fin 160) (tag : W16) (s : State) : (execLinkHoldExpiry j tag s).To s := by
  unfold execLinkHoldExpiry
  dsimp only
  repeat' split
  all_goals simp

/-! ## VecFn -/

@[simp] theorem State.runVec_to {s : State} {fn : Core → Nat → ElemOut} (hf : ∀ k i, (fn k i).core.store = k.store) (c : CoreId) (d : BitVec 5)
    (nd w n : Nat) {o : Holds} (h : o.To s.holds) : o.To (s.runVec c d nd w n fn).holds := by
  unfold State.runVec
  dsimp only
  have hr := runElems_store hf w (n - min (s.core c).resume n) (min (s.core c).resume n) (s.core c) (groupVal (s.core c) d nd)
  split
  next k' e =>
    rw [e] at hr
    simp_all
  next k' i fl e =>
    rw [e] at hr
    simp_all
@[simp] theorem State.runVecWhole_to {s : State} {fn : Core → Nat → ElemOut} (hf : ∀ k i, (fn k i).core.store = k.store) (c : CoreId)
    (d : BitVec 5) (nd w n : Nat) {o : Holds} (h : o.To s.holds) : o.To (s.runVecWhole c d nd w n fn).holds := by
  unfold State.runVecWhole
  dsimp only
  have hr := runElems_store hf w n 0 (s.core c) (groupVal (s.core c) d nd)
  split
  next k' e =>
    rw [e] at hr
    simp_all
  next => simp [h]
@[simp] theorem State.checked_to {s : State} {c : CoreId} {word : Nat} {checks : List (Bool × Nat)} {body : State → State} {o : Holds}
    (h : o.To s.holds) (hb : o.To (body s).holds) : o.To (s.checked c word checks body).holds := by
  unfold State.checked
  split
  · simp [h]
  · exact hb

/-! ## Vector -/

theorem vldBody_to (c : CoreId) (f : RFields) (s : State) : s.holds.To (vldBody c f s).holds := by
  unfold vldBody
  dsimp only
  refine State.checked_to (.refl _) ?_
  split
  · simp
  · split
    · refine State.raiseExc_to _ _ (Holds.To.putCore (.refl _) fun ok => ?_)
      rw [putGroup_store]
      exact loadBytes_wf _ _ _ (ok.coreStore c)
    · refine Holds.To.putCore (.refl _) fun ok => ?_
      rw [Core.vdone_store, putGroup_store]
      exact loadBytes_wf _ _ _ (ok.coreStore c)
@[simp] theorem execVld_to (c : CoreId) (f : RFields) (s : State) : (execVld c f s).To s := State.rill_to (vldBody_to c f s)
theorem vstBody_to (c : CoreId) (f : RFields) (s : State) : s.holds.To (vstBody c f s).holds := by
  unfold vstBody
  dsimp only
  refine State.checked_to (.refl _) ?_
  split
  · simp
  · split
    · exact State.raiseExc_to _ _ (Holds.To.putCore (.refl _) fun ok => storeBytes_wf _ _ _ (ok.coreStore c))
    · refine Holds.To.putCore (.refl _) fun ok => ?_
      rw [Core.vdone_store]
      exact storeBytes_wf _ _ _ (ok.coreStore c)
@[simp] theorem execVst_to (c : CoreId) (f : RFields) (s : State) : (execVst c f s).To s := State.rill_to (vstBody_to c f s)
@[simp] theorem State.vfmaOp_to (s : State) (c : CoreId) (op : Nat) (negP negC : Bool) (f : RFields) :
    (s.vfmaOp c op negP negC f).To s :=
  State.rill_to (State.checked_to (.refl _) (State.runVec_to (fun _ _ => fmaElem_store ..) _ _ _ _ _ (.refl _)))
@[simp] theorem execVred_to (c : CoreId) (f : RFields) (s : State) : (execVred c f s).To s := by
  refine State.rill_to (State.checked_to (.refl _) ?_)
  dsimp only
  split
  · split <;> simp
  · split
    · simp
    · split <;> simp
@[simp] theorem execVcvtb_to (c : CoreId) (f : RFields) (s : State) : (execVcvtb c f s).To s := by
  refine State.rill_to (State.checked_to (.refl _) ?_)
  dsimp only
  split
  next bf _ =>
    refine Holds.To.of_eq (State.putCore_holds ?_)
    have hb : ∀ (l : List Nat) stoch src start (p : Nat × Nat × Core),
        (l.foldl (fun acc b => cvtbBlock bf stoch src start b acc) p).2.2.store = p.2.2.store := by
      intro l stoch src start p
      induction l generalizing p with
      | nil => rfl
      | cons b l ih => exact (ih _).trans (cvtbBlock_store ..)
    simp [hb]
  · refine State.runVec_to (fun k i => ?_) _ _ _ _ _ (.refl _)
    dsimp only
    split <;> simp
  · rfl

/-! ## Graph -/

@[simp] theorem State.readTensor_to {s : State} (i : Image) (t : TensorDecl) {o : Holds} (h : o.To s.holds) :
    o.To (s.readTensor i t).2.holds := by
  unfold State.readTensor
  dsimp only
  split
  · split
    · refine h.modJet fun ok => ?_
      have hl : ∀ (l : List Nat) (p : List (Option (List Byte)) × Mem), p.2.wf = true →
          Mem.wf (l.foldl (fun (a : List (Option (List Byte)) × Mem) w =>
            (a.1 ++ [if (loadBytes a.2 w 32).1.all (·.isSome) then some ((loadBytes a.2 w 32).1.map fun b => b.getD 0) else none],
              (loadBytes a.2 w 32).2)) p).2 = true := by
        intro l p hp
        induction l generalizing p with
        | nil => exact hp
        | cons w l ih => exact ih _ (loadBytes_wf _ _ _ hp)
      exact hl _ _ ((h.2 ok).jet _)
    · exact h
  · simp [h]
/-- Every jet of a list takes a write that leaves its store canonical. -/
theorem State.foldl_jets_to {p : Fin 160 → Prop} [DecidablePred p] {f : Mem → Mem} (hf : ∀ m : Mem, m.wf = true → (f m).wf = true)
    (l : List (Fin 160)) {s : State} {o : Holds} (h : o.To s.holds) :
    o.To (l.foldl (fun (s : State) j =>
      if p j then s.modJet j fun x => { x with core := { x.core with store := f x.core.store } } else s) s).holds :=
  State.foldl_to (fun s j => Holds.To.ite (Holds.To.modJet (.refl s.holds) fun ok => hf _ (ok.jet j)) (.refl s.holds)) l h
@[simp] theorem State.writeTensor_to {s : State} (i : Image) (t : TensorDecl) (bs : List Byte) {o : Holds} (h : o.To s.holds) :
    o.To (s.writeTensor i t bs).holds :=
  Holds.To.ite (State.foldl_jets_to (fun m => storeAll_wf m _) _ h) (State.writeEach_to _ h)
@[simp] theorem State.writePart_to {s : State} (i : Image) (t : TensorDecl) (n m : Nat) (bs : List Byte) {o : Holds} (h : o.To s.holds) :
    o.To (s.writePart i t n m bs).holds := by
  induction n generalizing s m bs with
  | zero => exact h
  | succ n ih =>
    unfold State.writePart
    split
    · exact h
    · exact ih _ _ (Holds.To.ite (State.foldl_jets_to (fun m => storeBytes_wf m _ _) _ h) (State.deviceWrite_to _ _ _ h))
@[simp] theorem State.reduce_to {s : State} (i : Image) (op : RedKind) (src dst : TensorDecl) {o : Holds} (h : o.To s.holds) :
    o.To (s.reduce i op src dst).holds := by simp [h, State.reduce]
@[simp] theorem State.startKernel_holds (s : State) (i : Image) (k : Nat) (jets : List Nat) :
    (s.startKernel i k jets).holds = s.holds := by simp [State.startKernel]
@[simp] theorem State.runNode_to {s : State} (i : Image) (n : GraphNode) {o : Holds} (h : o.To s.holds) :
    o.To (s.runNode i n).holds := by
  unfold State.runNode
  dsimp only
  repeat' split
  all_goals simp [h]
@[simp] theorem execGraphNodeStart_to (node : Nat) (finished : List Nat) (s : State) :
    (execGraphNodeStart node finished s).To s := by
  unfold execGraphNodeStart
  dsimp only
  repeat' split
  all_goals simp

/-! ## Inject -/

@[simp] theorem State.viewOf_holds (s : State) (rank : Nat) : (s.viewOf rank).holds = s.holds := by simp [State.viewOf]
@[simp] theorem State.startFlow_holds (s : State) (p : Packet) : (s.startFlow p).holds = s.holds := by simp [State.startFlow]
@[simp] theorem State.injectOne_to {s : State} (p : Packet) {o : Holds} (h : o.To s.holds) :
    o.To (s.injectOne p).holds := by simp [h, State.injectOne]
@[simp] theorem injectFrom_to (l : List Packet) {s : State} {o : Holds} (h : o.To s.holds) :
    o.To (injectFrom l s).1.holds := by
  induction l generalizing s with
  | nil => exact h
  | cons p l ih =>
    unfold injectFrom
    split <;> simp [h, ih]
@[simp] theorem State.inject_to {s : State} {o : Holds} (h : o.To s.holds) :
    o.To s.inject.holds := by simp [h, State.inject]
@[simp] theorem State.startNext_holds (s : State) (p : Fin 6) : (s.startNext p).holds = s.holds := by
  unfold State.startNext
  dsimp only
  repeat' split
  all_goals simp

/-! ## Collective -/

@[simp] theorem State.stallCheck_holds (s : State) : s.stallCheck.holds = s.holds := by simp [State.stallCheck]
@[simp] theorem execCollectiveOpen_to (coll occ : Nat) (op : CollOp) (fmt : CollFmt) (chunks : Nat) (own : Tbl ChunkData) (s : State) :
    (execCollectiveOpen coll occ op fmt chunks own s).To s := by
  unfold execCollectiveOpen
  repeat' split
  all_goals simp
@[simp] theorem State.sendAck_holds (s : State) (src : Nat) (id : ChunkId) : (s.sendAck src id).holds = s.holds := by
  unfold State.sendAck
  dsimp only
  split <;> simp
/-- A chunk that goes no further leaves the fuses. -/
theorem State.screened_holds {s t : State} {src : Nat} {id : ChunkId} {lost : Bool} (h : s.screened src id lost = some t) :
    t.holds = s.holds := by
  unfold State.screened at h
  dsimp only at h
  repeat' split at h
  all_goals cases h
  all_goals simp
@[simp] theorem State.accept_holds (s : State) (src : Nat) (id : ChunkId) (data : ChunkData) :
    (s.accept src id data).holds = s.holds := by simp [State.accept]
@[simp] theorem execChunkReceive_to (src : Nat) (id : ChunkId) (data : ChunkData) (lost : Bool) (s : State) :
    (execChunkReceive src id data lost s).To s := by
  unfold execChunkReceive
  rw [Out.to_next]
  split
  · rfl
  · split
    next t h => exact .of_eq (State.screened_holds h)
    next => simp
@[simp] theorem execResultReceive_to (src : Nat) (id : ChunkId) (data : ChunkData) (lost : Bool) (s : State) :
    (execResultReceive src id data lost s).To s := by
  unfold execResultReceive
  rw [Out.to_next]
  split
  · rfl
  · split
    next t h => exact .of_eq (State.screened_holds h)
    next => simp
@[simp] theorem execNodeEvaluate_to (coll occ c a m : Nat) (s : State) : (execNodeEvaluate coll occ c a m s).To s := by
  unfold execNodeEvaluate
  dsimp only
  repeat' split
  all_goals simp
@[simp] theorem execChunkRetransmit_to (dest : Nat) (id : ChunkId) (readable : Bool) (s : State) :
    (execChunkRetransmit dest id readable s).To s := by
  unfold execChunkRetransmit
  split <;> simp
@[simp] theorem State.storeResults_to {s : State} (i : Image) (t : TensorDecl) (x : OpenColl) {o : Holds} (h : o.To s.holds) :
    o.To (s.storeResults i t x).holds :=
  Holds.To.ite h (State.foldl_to (fun s _ => State.writePart_to _ _ _ _ _ (State.writePart_to _ _ _ _ _ (.refl s.holds))) _ h)
@[simp] theorem State.delivered_to {s : State} (x : OpenColl) {o : Holds} (h : o.To s.holds) :
    o.To (s.delivered x).holds := by
  unfold State.delivered
  split
  · simp [h]
  · split
    · simp [h]
    · split
      next i _ =>
        split
        · split
          next t _ =>
            cases i.tensors.find? fun d => d.id == t with
            | none => exact h
            | some d => exact State.storeResults_to i d x h
          · exact h
        · exact h
      · exact h
@[simp] theorem execCollectiveComplete_to (coll occ : Nat) (s : State) : (execCollectiveComplete coll occ s).To s := by
  unfold execCollectiveComplete
  split <;> simp

/-! ## Thermal -/

@[simp] theorem State.stop_to {s : State} (code : Nat) (args : List Nat) {o : Holds} (h : o.To s.holds) :
    o.To (s.stop code args).holds := by simp [h, State.stop]
@[simp] theorem State.emergencyStop_to {s : State} (cause : Nat) {o : Holds} (h : o.To s.holds) :
    o.To (s.emergencyStop cause).holds := by
  simp [h, State.emergencyStop]
@[simp] theorem execThermalTrip_to (x : Sensor) (temp : Int) (s : State) : (execThermalTrip x temp s).To s := by
  unfold execThermalTrip
  split <;> simp
@[simp] theorem State.coolantUpdate_holds (s : State) : s.coolantUpdate.holds = s.holds := by simp [State.coolantUpdate]
@[simp] theorem State.takeSample_holds (s : State) (x : Sensor) (v : Int) : (s.takeSample x v).holds = s.holds := by
  simp [State.takeSample]
@[simp] theorem execSensorSample_to (x : Sensor) (v : Int) (s : State) : (execSensorSample x v s).To s := by
  unfold execSensorSample
  split <;> simp
@[simp] theorem execSensorFail_to (x : Sensor) (s : State) : (execSensorFail x s).To s := by
  unfold execSensorFail
  split <;> simp
@[simp] theorem execThermalCeilingLower_to (d : Fin 10) (s : State) : (execThermalCeilingLower d s).To s := by
  unfold execThermalCeilingLower
  split <;> simp

/-! ## CxlPort -/

@[simp] theorem execCxlMemRead_to (line : Nat) (s : State) : (execCxlMemRead line s).To s := by
  unfold execCxlMemRead
  obtain ⟨r, hr, read⟩ := State.demandRead_reads
  rw [← hr, Out.to_next]
  split
  · rfl
  · split
    · split
      · split <;> simp
      · rfl
    · simp [read]
@[simp] theorem execCxlMemWrite_to (line : Nat) (data : List Byte) (enables : W64) (s : State) :
    (execCxlMemWrite line data enables s).To s := by
  unfold execCxlMemWrite
  obtain ⟨r, hr, read⟩ := State.demandRead_reads
  rw [← hr, Out.to_next]
  split
  · rfl
  · dsimp only
    rw [State.send_holds]
    have hs := read (windowAddr (64 * line) + 32) (read (windowAddr (64 * line)) (.refl s.holds))
    split
    · simp
    · split <;> simp [hs]
@[simp] theorem State.unmask_holds (s : State) (v : Nat) : (s.unmask v).holds = s.holds := by simp [State.unmask]

/-! ## Slots -/

@[simp] theorem Firmware.record_mems (f : Firmware) : f.record.mems = f.mems := by simp [Firmware.record]

/-! ## Startup -/

@[simp] theorem Firmware.bootKeeper_mems (f : Firmware) (i : SlotImage) : (f.bootKeeper i).mems = f.mems := by
  simp [Firmware.bootKeeper]
@[simp] theorem execKeeperBoot_to (s : State) : (execKeeperBoot s).To s := by
  unfold execKeeperBoot
  dsimp only
  repeat' split
  all_goals simp
@[simp] theorem State.holdRecord_holds (s : State) (code sev : Nat) (args : List Nat) : (s.holdRecord code sev args).holds = s.holds := by
  simp [State.holdRecord]
@[simp] theorem State.abandon_to {s : State} {o : Holds} (h : o.To s.holds) :
    o.To s.abandon.holds := by simp [h, State.abandon]
@[simp] theorem State.startupFail_to {s : State} (ms : Nat) {o : Holds} (h : o.To s.holds) :
    o.To (s.startupFail ms).holds := by simp [h, State.startupFail]
@[simp] theorem State.chooseSlot_holds (s : State) : s.chooseSlot.2.2.holds = s.holds := by
  unfold State.chooseSlot
  dsimp only
  repeat' split
  all_goals simp
@[simp] theorem State.bootSlot_holds (s : State) (b trial : Bool) (i : SlotImage) : (s.bootSlot b trial i).holds = s.holds := by
  simp [State.bootSlot]
@[simp] theorem State.bootFirmware_holds (s : State) : s.bootFirmware.1.holds = s.holds := by
  unfold State.bootFirmware
  dsimp only
  repeat' split
  all_goals simp
@[simp] theorem State.trainFailed_to {s : State} (us : List MemUnit) {o : Holds} (h : o.To s.holds) :
    o.To (s.trainFailed us).holds := by
  simp [h, State.trainFailed]
@[simp] theorem State.portsFailed_holds (s : State) (ps : List (Fin 6)) : (s.portsFailed ps).holds = s.holds := by
  simp [State.portsFailed]
@[simp] theorem State.memoryInit_to {s : State} {o : Holds} (h : o.To s.holds) :
    o.To s.memoryInit.holds := by
  refine Holds.To.ite (by simp [h]) (h.mk fun ok => ⟨rfl, ok.2.1, ok.2.2.1, ok.2.2.2⟩)
@[simp] theorem State.selfTest_to {s : State} (pass : Tbl Byte) {o : Holds} (h : o.To s.holds) :
    o.To (s.selfTest pass).holds := by
  unfold State.selfTest
  dsimp only
  rw [State.holds_ite, State.capChange_holds, ite_self]
  refine h.mk fun ok => ⟨ok.1, fun j => ?_, fun r n => ?_, ok.2.2.2⟩
  · simp [jetStores, Mem.wf_nil]
  · simp [coreStores, Runnel.stores, Mem.wf_nil]
@[simp] theorem State.toStep_holds (s : State) (n : Nat) : (s.toStep n).holds = s.holds := by simp [State.toStep]
@[simp] theorem State.dimPorts_holds (s : State) (d : Fin 3) (f : Port → Port) : (s.dimPorts d f).holds = s.holds := by
  simp [State.dimPorts]

/-! ## Keeper -/

@[simp] theorem State.endHold_holds (s : State) : s.endHold.holds = s.holds := by simp [State.endHold]
@[simp] theorem State.restartBoxes_to {s : State} {o : Holds} (h : o.To s.holds) :
    o.To s.restartBoxes.holds :=
  Holds.To.fw (s := ((List.finRange 8).filter fun n => (s.boxes.get n).controlTaken).foldl (fun (s : State) n => s.complete n 0xA 0 []) s)
    (by simp [h]) fun ok => ⟨rfl, ok.2⟩
@[simp] theorem State.classTaken_holds (s : State) (cls trigger : Nat) : (s.classTaken cls trigger).holds = s.holds := by
  simp [State.classTaken]
@[simp] theorem State.fwRestart_to {s : State} {o : Holds} (h : o.To s.holds) :
    o.To s.fwRestart.holds := by simp [h, State.fwRestart]
@[simp] theorem State.dropReady_holds (s : State) : s.dropReady.holds = s.holds := by simp [State.dropReady]
@[simp] theorem State.hostReset_holds (s : State) (cls : Nat) (f : Cxl → Cxl) : (s.hostReset cls f).holds = s.holds := by
  simp [State.hostReset]
@[simp] theorem State.gateBasins_to {s : State} {o : Holds} (h : o.To s.holds) : o.To s.gateBasins.holds :=
  h.mk fun ok => ⟨ok.1, fun j => by simp [jetStores, Mem.wf_nil], ok.2.2.1, ok.2.2.2⟩
@[simp] theorem execPowerStateChangeDone_to (s : State) : (execPowerStateChangeDone s).To s := by
  unfold execPowerStateChangeDone
  dsimp only
  repeat' split
  all_goals simp

/-! ## Link -/

@[simp] theorem State.sendFrame_holds (s : State) (p : Fin 6) (hdr body : List Byte) : (s.sendFrame p hdr body).holds = s.holds := by
  simp [State.sendFrame]
@[simp] theorem State.linkDown_holds (s : State) (p : Fin 6) : (s.linkDown p).holds = s.holds := by simp [State.linkDown]
@[simp] theorem State.retryPort_holds (s : State) (p : Fin 6) : (s.retryPort p).holds = s.holds := by simp [State.retryPort]
@[simp] theorem State.takeAck_holds (s : State) (p : Fin 6) (ack : BitVec 12) : (s.takeAck p ack).holds = s.holds := by
  simp [State.takeAck]
@[simp] theorem execFrameTransmit_to (p : Fin 6) (s : State) : (execFrameTransmit p s).To s := by
  unfold execFrameTransmit
  dsimp only
  repeat' split
  all_goals simp
@[simp] theorem State.trainRefused_holds (s : State) (p : Fin 6) (why : Nat) : (s.trainRefused p why).holds = s.holds := by
  simp [State.trainRefused]
@[simp] theorem State.emptyBuffers_holds (s : State) (p : Fin 6) : (s.emptyBuffers p).holds = s.holds := by simp [State.emptyBuffers]
@[simp] theorem State.linkUp_holds (s : State) (p : Fin 6) (lanes : Nat) : (s.linkUp p lanes).holds = s.holds := by simp [State.linkUp]
@[simp] theorem execTrainingDone_to (p : Fin 6) (rep : TrainReport) (s : State) : (execTrainingDone p rep s).To s := by
  unfold execTrainingDone
  repeat' split
  all_goals simp

/-! ## Loader -/

theorem Jet.place_wf (x : Jet) (i : Image) (j : Nat) (h : Mem.wf x.core.store = true) : Mem.wf (x.place i j).core.store = true := by
  have hc : Mem.wf (if runsOn i j then { x with core := x.core.placeCode i (some x) } else x).core.store = true := by
    split
    · exact storeBytes_wf _ _ _ h
    · exact h
  unfold Jet.place
  dsimp only
  split
  · exact hc
  · exact storeBytes_wf _ _ _ hc
@[simp] theorem State.placeImage_to {s : State} (i : Image) {o : Holds} (h : o.To s.holds) :
    o.To (s.placeImage i).holds := by
  refine h.mk fun ok => ⟨ok.1, fun j => ?_, fun r n => ?_, ok.2.2.2⟩
  · simp only [jetStores, Vector.get_map, Vector.get_ofFn]
    exact Jet.place_wf _ i _ (ok.jet j)
  · split
    · simp only [coreStores, Runnel.stores, Vector.get_map]
      exact storeBytes_wf _ _ _ (ok.coreStore (.upd r n))
    · exact ok.core (.upd r n)
@[simp] theorem State.loadEnds_holds (s : State) : s.loadEnds.holds = s.holds := by simp [State.loadEnds]
@[simp] theorem State.finishLoad_to {s : State} (n : Fin 8) (b : Mailbox) (img : Option ImageFile) (keep : Bool) {o : Holds} (h : o.To s.holds) :
    o.To (s.finishLoad n b img keep).holds := by
  unfold State.finishLoad
  dsimp only
  repeat' split
  all_goals simp [h]
@[simp] theorem State.seedJets_holds (s : State) (tail : List Byte) : (s.seedJets tail).holds = s.holds := by simp [State.seedJets]
@[simp] theorem State.seedCores_holds (s : State) (tail : List Byte) : (s.seedCores tail).holds = s.holds := by simp [State.seedCores]
@[simp] theorem State.importShard_to {s : State} (i : Image) (held weights : Bool) (recs : List (List Byte)) {o : Holds} (h : o.To s.holds) :
    o.To (s.importShard i held weights recs).1.holds := by
  simp only [State.importShard, State.holds_mk, State.jetStores_jets, State.coreStores_runnels, State.fw_mems]
  refine State.foldl_fst_to ?_ _ ?_
  · intro p x
    simp
  · exact h
theorem State.importShard_reads : ∃ r, r = @State.importShard ∧ ∀ {s : State} (i : Image) (held weights : Bool) (recs : List (List Byte))
    {o : Holds}, o.To s.holds → o.To (r s i held weights recs).1.holds := ⟨_, rfl, State.importShard_to⟩
@[simp] theorem State.jobStart_to {s : State} (i : Image) (n : Fin 8) (b : Mailbox) (cp : Checkpoint) {o : Holds} (h : o.To s.holds) :
    o.To (s.jobStart i n b cp).holds := by
  generalize hf : @State.jobStart = f
  delta State.jobStart at hf
  obtain ⟨r, hr, digest⟩ := State.shardDigest_reads
  obtain ⟨g, hg, imports⟩ := State.importShard_reads
  rw [← hr, ← hg] at hf
  subst hf
  dsimp only
  rw [State.openRegions_holds]
  refine State.rewriteWeights_to ?_
  rw [State.seedCores_holds, State.seedJets_holds, State.holds_mk rfl rfl rfl]
  refine digest i true _ (digest i false _ ?_)
  rw [State.modJet_holds (by simp)]
  exact imports i true _ _ (imports i false _ _ (by simp [h]))
@[simp] theorem State.jobBegin_to {s : State} (n : Fin 8) {o : Holds} (h : o.To s.holds) :
    o.To (s.jobBegin n).holds := by simp [h, State.jobBegin]
@[simp] theorem State.toFlowing_holds (s : State) : s.toFlowing.holds = s.holds := by simp [State.toFlowing]
@[simp] theorem execRun_to (n : Fin 8) (cp : Checkpoint) (others : List (List Byte)) (s : State) :
    (execRun n cp others s).To s := by
  unfold execRun
  obtain ⟨check, hc⟩ : ∃ check, check = @State.survivalCheck := exists_eq
  rw [← hc, Out.to_next]
  refine State.serve_to (.refl _) fun b => ?_
  dsimp only
  repeat' split
  all_goals simp

/-! ## Mgmt -/

@[simp] theorem execFlashLogCopy_to (s : State) : (execFlashLogCopy s).To s := by
  unfold execFlashLogCopy
  split <;> simp
theorem Firmware.slot_ok {f : Firmware} (h : f.mems.ok) (b : Bool) : ∀ x ∈ f.slot b, Mem.wf x.content = true := by
  obtain ⟨_, a, b'⟩ := h
  intro x hx
  cases b with
  | false => exact a _ (Option.mem_map_of_mem _ hx)
  | true => exact b' _ (Option.mem_map_of_mem _ hx)
theorem Firmware.putSlot_ok {f : Firmware} (h : f.mems.ok) (b : Bool) {x : Option SlotImage} (hx : ∀ i ∈ x, Mem.wf i.content = true) :
    (f.putSlot b x).mems.ok := by
  obtain ⟨image, slotA, slotB⟩ := h
  have hm : ∀ m ∈ x.map (·.content), Mem.wf m = true := by
    intro m hm
    obtain ⟨i, hi, rfl⟩ := Option.mem_map.mp hm
    exact hx i hi
  cases b with
  | false => exact ⟨image, hm, slotB⟩
  | true => exact ⟨image, slotA, hm⟩
@[simp] theorem execFwUpdateChunk_to (n : Fin 8) (s : State) : (execFwUpdateChunk n s).To s := by
  unfold execFwUpdateChunk
  rw [Out.to_next]
  refine State.serve_to (.refl _) fun b => ?_
  split
  · rfl
  next slot len gs _ =>
    dsimp only
    rw [State.complete_holds]
    refine Holds.To.fw (.refl _) fun ok => ?_
    have hm := memPut_wf (fitBytes b.lLen b.buf) s.fw.image (b.arg 0) ok.1
    have hf : (if len = 0 then s.fw.putSlot slot (some (slotWritten (memPut s.fw.image (b.arg 0) (fitBytes b.lLen b.buf)) s.fw.sessionBytes))
        else s.fw).mems.ok := by
      split
      · exact Firmware.putSlot_ok ok slot (by simpa [slotWritten] using hm)
      · exact ok
    exact ⟨hm, hf.2⟩
@[simp] theorem execFwUpdateCommit_to (n : Fin 8) (cut : Bool) (s : State) : (execFwUpdateCommit n cut s).To s := by
  unfold execFwUpdateCommit
  rw [Out.to_next]
  split
  · rfl
  · refine State.serve_to (.refl _) fun b => ?_
    split
    · rfl
    next slot len gs _ =>
      have ended : s.holds.To ({ s with fw := { s.fw with session := none, image := [] } } : State).holds :=
        Holds.To.fw (.refl _) fun ok => ⟨rfl, ok.2⟩
      dsimp only
      split
      · rw [State.complete_holds]
        exact ended
      · split
        next i hc _ =>
          rw [State.complete_holds, State.event_holds]
          refine Holds.To.fw (.refl _) fun ok => ?_
          have hs : ∀ x ∈ (if len = 0 then Firmware.slot { s.fw with session := none, image := [] } slot
              else some (slotWritten s.fw.image len)), Mem.wf x.content = true := by
            split
            · exact Firmware.slot_ok ok slot
            · simp only [slotWritten, Option.mem_some_iff, forall_eq']
              exact ok.1
          exact Firmware.record_mems _ ▸ Firmware.putSlot_ok (f := { s.fw with session := none, image := [] }) ⟨rfl, ok.2⟩ slot hs
        · rw [State.complete_holds]
          exact ended

end Sys2Proof.Machine
end

section
/-! What the commands keep: every command answers a next state with the same queue, and leaves canonical memories canonical. -/

namespace Sys2Proof.Machine

/-! ## Scalar -/

@[simp] theorem State.scalarResult_to {s : State} (c : CoreId) (op : Nat) (f : RFields) (v : Option W64) {o : Holds} (h : o.To s.holds) :
    o.To (s.scalarResult c op f v).holds := by
  unfold State.scalarResult
  split <;> simp [h]
theorem ldBody_to (c : CoreId) (f : RFields) (s : State) : s.holds.To (ldBody c f s).holds := by
  unfold ldBody
  dsimp only
  split
  · simp
  · split
    · simp [State.core_store]
    · split
      · simp
      · split
        · simp
        · split
          · simp
          · refine Holds.To.putCore (.refl _) fun ok => ?_
            rw [Core.advance_store, Core.ws_store]
            exact loadBytes_wf _ _ _ (ok.coreStore c)
@[simp] theorem execLd_to (c : CoreId) (f : RFields) (s : State) : (execLd c f s).To s := State.rill_to (ldBody_to c f s)
theorem stBody_to (c : CoreId) (f : RFields) (s : State) : s.holds.To (stBody c f s).holds := by
  unfold stBody
  dsimp only
  split
  · simp
  · split
    · simp [State.core_store]
    · split
      · simp
      · split
        · simp
        · exact Holds.To.putCore (.refl _) fun ok => storeBytes_wf _ _ _ (ok.coreStore c)
@[simp] theorem execSt_to (c : CoreId) (f : RFields) (s : State) : (execSt c f s).To s := State.rill_to (stBody_to c f s)
@[simp] theorem execBr_to (c : CoreId) (f : RFields) (s : State) : (execBr c f s).To s := by
  refine State.rill_to ?_
  dsimp only
  split <;> simp [State.core_store]
@[simp] theorem State.sys_to {s : State} {c : CoreId} {d a b : BitVec 5} {func : Nat} {body : State → State}
    (h : s.holds.To (body s).holds) : (s.sys c d a b func body).To s :=
  State.rill_to (Holds.To.ite (by simp) h)
@[simp] theorem execWaitcEnd_to (c : CoreId) (s : State) : (execWaitcEnd c s).To s := by
  unfold execWaitcEnd
  rw [Out.to_next]
  split
  · exact Holds.To.ite (.refl _) (.of_eq (State.modCore_holds (by simp)))
  · rfl
@[simp] theorem execWaitmEnd_to (c : CoreId) (s : State) : (execWaitmEnd c s).To s := by
  unfold execWaitmEnd
  rw [Out.to_next]
  split
  · exact Holds.To.ite (.refl _) (.of_eq (State.modCore_holds (by simp)))
  · rfl
@[simp] theorem execAsyncCauseTake_to (c : CoreId) (s : State) : (execAsyncCauseTake c s).To s := by
  unfold execAsyncCauseTake
  dsimp only
  repeat' split
  all_goals simp
@[simp] theorem State.csrApply_holds (s : State) (c : CoreId) (off op : Nat) (old v : W64) :
    (s.csrApply c off op old v).holds = s.holds := by
  unfold State.csrApply
  split <;> simp
@[simp] theorem State.csr_to (s : State) (c : CoreId) (d a : BitVec 5) (off : BitVec 14) (op : Nat) :
    (s.csr c d a off op).To s := by
  refine State.rill_to ?_
  dsimp only
  split
  · simp
  · split <;> simp

/-! ## RillIssue -/

theorem State.jetOnly_to {s : State} {c : CoreId} {word : Nat} {body : Fin 160 → State → State} {o : Holds} (h : o.To s.holds)
    (hb : ∀ j, o.To (body j s).holds) : o.To (s.jetOnly c word body).holds := by
  unfold State.jetOnly
  split
  · exact hb _
  · simp [h]
theorem arrBody_to (c : CoreId) (f : RFields) (s : State) : s.holds.To (arrBody c f s).holds := by
  refine State.jetOnly_to (.refl _) fun j => State.checked_to (.refl _) ?_
  split
  · simp
  · simp
  next b m hr =>
    dsimp only
    refine Holds.To.ite (by simp) (Holds.To.ite (by simp) ?_)
    rw [State.modArr_holds]
    exact Holds.To.putCore (.refl _) fun ok => State.coreRead_wf hr (ok.coreStore c)
@[simp] theorem execArr_to (c : CoreId) (f : RFields) (s : State) : (execArr c f s).To s := State.rill_to (arrBody_to c f s)
@[simp] theorem execArrWaitEnd_to (c : CoreId) (s : State) : (execArrWaitEnd c s).To s := by
  unfold execArrWaitEnd
  split
  · split
    · exact (execArr_to _ _ _).of_holds (by simp)
    · simp
  · simp
theorem moveBody_to (c : CoreId) (f : RFields) (s : State) : s.holds.To (moveBody c f s).holds := by
  refine State.jetOnly_to (.refl _) fun j => State.checked_to (.refl _) ?_
  split
  · simp
  · simp
  next b m hr =>
    dsimp only
    refine Holds.To.ite (by simp) ?_
    rw [State.modJet_holds (by simp)]
    refine Holds.To.putCore (.refl _) fun ok => ?_
    rw [Core.advance_store, Core.ws_store]
    exact State.coreRead_wf hr (ok.coreStore c)
@[simp] theorem execMove_to (c : CoreId) (f : RFields) (s : State) : (execMove c f s).To s := State.rill_to (moveBody_to c f s)
@[simp] theorem execMoveWaitEnd_to (c : CoreId) (s : State) : (execMoveWaitEnd c s).To s := by
  unfold execMoveWaitEnd
  split
  · split
    · exact (execMove_to _ _ _).of_holds (by simp)
    · simp
  · simp
theorem pcombBody_to (c : CoreId) (f : RFields) (s : State) : s.holds.To (pcombBody c f s).holds := by
  refine State.jetOnly_to (.refl _) fun j => State.checked_to (.refl _) ?_
  dsimp only
  refine Holds.To.ite (by simp) ?_
  have hw := fun ok => pcombRows_wf c (recMode (bits f.lo 10 9)) (if f.lo.getLsbD 8 then 2 else 1) ((s.core c).rs f.a).toNat
    ((s.core c).rs f.b).toNat ((s.core c).rs f.d).toNat (bits f.lo 7 1 - min (s.core c).resume (bits f.lo 7 1))
    (min (s.core c).resume (bits f.lo 7 1)) (s.core c) (Holds.ok.coreStore ok c)
  split
  next k' e =>
    rw [e] at hw
    exact Holds.To.putCore (.refl _) fun ok => (Core.vdone_store _).symm ▸ hw ok
  next k' x e =>
    rw [e] at hw
    exact State.raiseExc_to _ _ (Holds.To.putCore (.refl _) hw)
@[simp] theorem execPcomb_to (c : CoreId) (f : RFields) (s : State) : (execPcomb c f s).To s := State.rill_to (pcombBody_to c f s)
theorem vspoutBody_to (c : CoreId) (f : RFields) (s : State) : s.holds.To (vspoutBody c f s).holds := by
  refine State.jetOnly_to (.refl _) fun j => State.checked_to (.refl _) ?_
  dsimp only
  refine Holds.To.ite (by simp) ?_
  split
  · simp
  · simp
  next b m hr =>
    have hm := fun ok d rows cols lanes => spoutEnv_wf m d (recMode (f.d.toNat % 4)) rows cols cols lanes
      (State.coreRead_wf hr (Holds.ok.coreStore ok c))
    refine Holds.To.ite (by simp) (Holds.To.ite (by simp) ?_)
    split
    · refine State.raiseExc_to _ _ (Holds.To.putCore (.refl _) fun ok => ?_)
      dsimp only
      exact hm ok _ _ _ _
    · refine Holds.To.ite (by simp) ?_
      split
      next k' e =>
        refine Holds.To.putCore (.refl _) fun ok => ?_
        have hk : (vspoutSteps _ _ _ _ _ _ _ _).1 = k' := congrArg Prod.fst e
        rw [Core.vdone_store, ← hk]
        refine vspoutSteps_wf _ _ _ _ _ _ _ _ ?_
        dsimp only
        exact hm ok _ _ _ _
      next k' x e =>
        refine State.raiseExc_to _ _ (Holds.To.putCore (.refl _) fun ok => ?_)
        have hk : (vspoutSteps _ _ _ _ _ _ _ _).1 = k' := congrArg Prod.fst e
        rw [← hk]
        refine vspoutSteps_wf _ _ _ _ _ _ _ _ ?_
        dsimp only
        exact hm ok _ _ _ _
@[simp] theorem execVspout_to (c : CoreId) (f : RFields) (s : State) : (execVspout c f s).To s := State.rill_to (vspoutBody_to c f s)
@[simp] theorem execVspoutWaitEnd_to (c : CoreId) (s : State) : (execVspoutWaitEnd c s).To s := by
  unfold execVspoutWaitEnd
  split
  · split
    · exact (execVspout_to _ _ _).of_holds (by simp)
    · simp
  · simp
@[simp] theorem execHazardHoldEnd_to (c : CoreId) (cycles : Nat) (s : State) : (execHazardHoldEnd c cycles s).To s := by
  unfold execHazardHoldEnd
  dsimp only
  have hs : (s.modCore c fun k => { k with held := none, hazard := satAdd k.hazard cycles }).holds = s.holds := by simp
  split
  · exact (execLd_to _ _ _).of_holds hs
  · exact (execSt_to _ _ _).of_holds hs
  · exact (execVld_to _ _ _).of_holds hs
  · exact (execVst_to _ _ _).of_holds hs
  · exact (execArr_to _ _ _).of_holds hs
  · exact (execMove_to _ _ _).of_holds hs
  · exact (execPcomb_to _ _ _).of_holds hs
  · exact (execVspout_to _ _ _).of_holds hs
  · simp
@[simp] theorem State.laneWrite_holds (s : State) (c : CoreId) (k : Nat) (v : W64) : (s.laneWrite c k v).holds = s.holds := by
  simp [State.laneWrite]
@[simp] theorem State.heldLaneWrite_holds (s : State) (r : Fin 2) (n : Fin 16) (k : Nat) (v : W64) :
    (s.heldLaneWrite r n k v).holds = s.holds := by simp [State.heldLaneWrite]

/-! ## Routes -/

@[simp] theorem execRouteStage_to (n : Fin 8) (entries : List W16) (s : State) : (execRouteStage n entries s).To s := by
  unfold execRouteStage
  rw [Out.to_next]
  refine State.serve_to (.refl _) fun b => ?_
  dsimp only
  split
  · simp
  · split <;> simp

/-! ## Sentinel -/

@[simp] theorem State.sentinelRelease_holds (s : State) (d : Fin 4) : (s.sentinelRelease d).holds = s.holds := by
  unfold State.sentinelRelease
  repeat' split
  all_goals simp
@[simp] theorem execSentinelCompare_to (d : Fin 4) (s : State) : (execSentinelCompare d s).To s := by
  unfold execSentinelCompare
  dsimp only
  split <;> simp
@[simp] theorem State.sentinelSeed_holds (s : State) (d : Fin 4) (v : W32) : (s.sentinelSeed d v).holds = s.holds := by
  simp [State.sentinelSeed]
@[simp] theorem State.sentinelOff_holds (s : State) (d : Fin 4) : (s.sentinelOff d).holds = s.holds := by simp [State.sentinelOff]

/-! ## RegRead -/

/-- The counter that an offset names, if any, takes writes that leave the queue and the memories. -/
def State.CountersHold (s : State) (o : Option (W32 × (W32 → State))) : Prop := ∀ p ∈ o, ∀ v, (p.2 v).holds = s.holds

@[simp] theorem State.countersHold_none {s : State} : s.CountersHold none := nofun
@[simp] theorem State.countersHold_some {s : State} {p : W32 × (W32 → State)} : s.CountersHold (some p) ↔ ∀ v, (p.2 v).holds = s.holds := by
  simp [State.CountersHold]
@[simp] theorem State.countersHold_map {s : State} {o : Option W32} {f : W32 → W32 × (W32 → State)} :
    s.CountersHold (o.map f) ↔ ∀ c ∈ o, ∀ v, ((f c).2 v).holds = s.holds := by cases o <;> simp
@[simp] theorem State.countersHold_bind {α : Type} {s : State} {o : Option α} {f : α → Option (W32 × (W32 → State))} :
    s.CountersHold (o.bind f) ↔ ∀ a ∈ o, s.CountersHold (f a) := by cases o <;> simp
@[simp] theorem State.countersHold_dite {s : State} {c : Prop} [Decidable c] {f : c → Option (W32 × (W32 → State))} :
    s.CountersHold (if hc : c then f hc else none) ↔ ∀ hc, s.CountersHold (f hc) := by split <;> simp [*]

theorem State.rc_countersHold (s : State) (blk : RegBlock) (off : Nat) : s.CountersHold (s.rc blk off) := by
  unfold State.rc
  repeat' split
  all_goals simp
@[simp] theorem execRcFieldRead_to (blk : RegBlock) (off arriving : Nat) (s : State) :
    (execRcFieldRead blk off arriving s).To s := by
  unfold execRcFieldRead
  rw [Out.to_next]
  split
  next c put h => exact .of_eq <| (State.holds_mk rfl rfl rfl).trans (s.rc_countersHold blk off (c, put) h _)
  next => rfl
@[simp] theorem State.read32_holds (s : State) (who : Agent) (blk : RegBlock) (off : Nat) : (s.read32 who blk off).2.holds = s.holds := by
  unfold State.read32
  split
  · dsimp only
    split
    · simp
    · split
      · split <;> simp
      · rfl
  · split
    next c put h =>
      split
      · rfl
      · exact s.rc_countersHold blk off (c, put) h 0
    next => rfl

/-! ## RegFile -/

@[simp] theorem State.noteRsvd_holds (s : State) (bad : Bool) (off v : Nat) : (s.noteRsvd bad off v).holds = s.holds := by
  simp [State.noteRsvd]
@[simp] theorem State.coreWrite_holds (s : State) (c : CoreId) (off : Nat) (v : Nat) : (s.coreWrite c off v).holds = s.holds := by
  unfold State.coreWrite
  split <;> simp
@[simp] theorem State.coreWrite64_holds (s : State) (c : CoreId) (off : Nat) (v : W64) : (s.coreWrite64 c off v).holds = s.holds := by
  unfold State.coreWrite64
  repeat' split
  all_goals simp
@[simp] theorem State.limitsPut_holds (s : State) (v : Nat) : (s.limitsPut v).holds = s.holds := by simp [State.limitsPut]
@[simp] theorem State.sagPut_holds (s : State) (v : Nat) : (s.sagPut v).holds = s.holds := by simp [State.sagPut]
@[simp] theorem State.regWrite64_holds (s : State) (who : Agent) (blk : RegBlock) (off : Nat) (v : W64) :
    (s.regWrite64 who blk off v).holds = s.holds := by
  unfold State.regWrite64
  repeat' split
  all_goals simp
@[simp] theorem State.sentinelCtrl_holds (s : State) (d : Fin 4) (v : Nat) : (s.sentinelCtrl d v).holds = s.holds := by
  simp [State.sentinelCtrl]
@[simp] theorem State.fhWrite_holds (s : State) (off v : Nat) : (s.fhWrite off v).holds = s.holds := by
  unfold State.fhWrite
  split <;> simp
@[simp] theorem State.boxWrite_holds (s : State) (n : Fin 8) (off v : Nat) : (s.boxWrite n off v).holds = s.holds := by
  unfold State.boxWrite
  split <;> simp
@[simp] theorem State.configWrite_holds (s : State) (off v : Nat) : (s.configWrite off v).holds = s.holds := by simp [State.configWrite]
@[simp] theorem State.msixWrite_holds (s : State) (off v : Nat) : (s.msixWrite off v).holds = s.holds := by
  unfold State.msixWrite
  split <;> simp
@[simp] theorem State.regWrite32_holds (s : State) (who : Agent) (blk : RegBlock) (off v : Nat) :
    (s.regWrite32 who blk off v).holds = s.holds := by
  unfold State.regWrite32
  repeat' split
  all_goals simp
@[simp] theorem State.wordWrite_holds (s : State) (who : Agent) (blk : RegBlock) (off v : Nat) :
    (s.wordWrite who blk off v).holds = s.holds := by
  unfold State.wordWrite
  split <;> simp
@[simp] theorem execRegisterWrite_to (who : Agent) (blk : RegBlock) (off : Nat) (wide : Bool) (v : W64) (s : State) :
    (execRegisterWrite who blk off wide v s).To s := by
  unfold execRegisterWrite
  repeat' split
  all_goals simp

/-! ## Sideband -/

@[simp] theorem State.sideAnswer_holds (s : State) (q : SideReq) (what : String) (args : List Int) :
    (s.sideAnswer q what args).holds = s.holds := by
  unfold State.sideAnswer
  split <;> simp
@[simp] theorem execGetsensorreading_to (id : W16) (s : State) : (execGetsensorreading id s).To s := by
  unfold execGetsensorreading
  dsimp only
  repeat' split
  all_goals simp
@[simp] theorem State.mctpDrop_holds (s : State) : s.mctpDrop.holds = s.holds := by simp [State.mctpDrop]
@[simp] theorem State.mctpMessage_holds (s : State) (src : Byte) (m : List Byte) : (s.mctpMessage src m).holds = s.holds := by
  simp [State.mctpMessage]
@[simp] theorem execMctpPacketReceive_to (src : Byte) (som eom : Bool) (seq : BitVec 2) (tag : BitVec 3) (data : List Byte)
    (s : State) : (execMctpPacketReceive src som eom seq tag data s).To s := by
  unfold execMctpPacketReceive
  split <;> simp

/-! ## Spare -/

@[simp] theorem State.sendJoin_holds (s : State) (rank : Nat) : (s.sendJoin rank).holds = s.holds := by simp [State.sendJoin]
@[simp] theorem execSpareJoin_to (n : Fin 8) (s : State) : (execSpareJoin n s).To s := by
  unfold execSpareJoin
  rw [Out.to_next]
  refine State.serve_to (.refl _) fun b => ?_
  dsimp only
  repeat' split
  all_goals simp
@[simp] theorem State.stepFrom_holds (s : State) (bs : List Byte) : (s.stepFrom bs).holds = s.holds := by simp [State.stepFrom]
@[simp] theorem State.entryLanes_holds (s : State) (e : ResEntry) : (s.entryLanes e).holds = s.holds :=
  (State.setCoreLanes_holds _ _).trans (State.holds_mk (jetStores_ofFn fun j => by simp [State.jet_store]) rfl rfl)
@[simp] theorem State.takeHeader_holds (s : State) (gen : W16) (step : W64) (len member : Nat) (digest : W128) :
    (s.takeHeader gen step len member digest).holds = s.holds := by simp [State.takeHeader]
@[simp] theorem State.takeFill_to {s : State} (i : Image) (f : FillData) {o : Holds} (h : o.To s.holds) :
    o.To (s.takeFill i f).holds := by
  unfold State.takeFill
  split <;> simp [h]
@[simp] theorem State.wrongImage_holds (s : State) : s.wrongImage.holds = s.holds := by
  unfold State.wrongImage
  split <;> simp
@[simp] theorem State.repaired_to {s : State} (i : Image) {o : Holds} (h : o.To s.holds) :
    o.To (s.repaired i).holds := by
  unfold State.repaired
  obtain ⟨r, hr, digest⟩ := State.shardDigest_reads
  rw [← hr]
  dsimp only
  have hd := digest i true (r s i false s.record.slot).2.record.slot (digest i false s.record.slot h)
  split
  · exact h
  · split
    · simp [hd]
    · exact Holds.To.ite (by simp [hd]) (State.rewriteWeights_to hd)
@[simp] theorem State.takeCopy_to {s : State} (i : Image) (f : FillData) {o : Holds} (h : o.To s.holds) :
    o.To (s.takeCopy i f).holds := by
  unfold State.takeCopy
  split <;> simp [h]
@[simp] theorem execFillStreamReceive_to (f : FillData) (s : State) : (execFillStreamReceive f s).To s := by
  unfold execFillStreamReceive
  split <;> simp
@[simp] theorem State.ownFromSecured_to {s : State} (i : Image) {o : Holds} (h : o.To s.holds) :
    o.To (s.ownFromSecured i).holds := by
  unfold State.ownFromSecured
  obtain ⟨r, hr, read⟩ := State.readWords_reads
  rw [← hr]
  simp only [State.holds_mk, State.jetStores_jets, State.coreStores_runnels, State.fw_mems]
  refine State.foldl_to ?_ _ h
  exact fun s idx => State.writeWords_to _ _ (read _ _ (.refl s.holds))
@[simp] theorem State.fillAccepted_to {s : State} (i : Image) (rank : Nat) (own held : W128) {o : Holds} (h : o.To s.holds) :
    o.To (s.fillAccepted i rank own held).holds := by
  unfold State.fillAccepted
  dsimp only
  split <;> simp [h]
@[simp] theorem State.fillFails_to {s : State} (i : Image) (rank box content : Nat) {o : Holds} (h : o.To s.holds) :
    o.To (s.fillFails i rank box content).holds := by simp [h, State.fillFails]
theorem State.copyImage_reads : ∃ r, r = @State.copyImage ∧ ∀ {s : State} (i : Image) {o : Holds}, o.To s.holds →
    o.To (r s i).2.holds := ⟨_, rfl, State.copyImage_to⟩
@[simp] theorem execFillVerify_to (ownDigest heldDigest securedDigest : W128) (s : State) :
    (execFillVerify ownDigest heldDigest securedDigest s).To s := by
  unfold execFillVerify
  obtain ⟨r, hr, digest⟩ := State.shardDigest_reads
  obtain ⟨g, hg, copy⟩ := State.copyImage_reads
  rw [← hr, ← hg, Out.to_next]
  split
  next rank box i _ _ =>
    dsimp only
    split
    · rfl
    · have hs : s.holds.To (if s.actives.contains s.partnerRank then s else s.ownFromSecured i).holds :=
        Holds.To.ite (.refl _) (State.ownFromSecured_to i (.refl _))
      generalize (if s.actives.contains s.partnerRank then s else s.ownFromSecured i) = u at hs ⊢
      have hd := copy i (digest i true (r u i false u.record.slot).2.record.slot (digest i false u.record.slot hs))
      exact Holds.To.ite (State.fillFails_to _ _ _ _ hd) (Holds.To.ite (State.fillFails_to _ _ _ _ hd)
        (Holds.To.ite (State.fillFails_to _ _ _ _ hd) (State.fillAccepted_to _ _ _ _ hd)))
  · rfl

/-! ## Commands -/

@[simp] theorem execHalt_to (c : CoreId) (d a b : BitVec 5) (s : State) : (execHalt c d a b s).To s := by
  refine State.sys_to ?_
  dsimp only
  split
  · simp
  · cases c <;> simp

@[simp] theorem execVfp_to (c : CoreId) (f : RFields) (s : State) : (execVfp c f s).To s :=
  State.rill_to (State.checked_to (.refl _) (State.runVec_to (fun _ _ => fpElem_store ..) _ _ _ _ _ (.refl _)))
@[simp] theorem execVint_to (c : CoreId) (f : RFields) (s : State) : (execVint c f s).To s :=
  State.rill_to (State.checked_to (.refl _) (State.runVec_to (fun _ _ => rfl) _ _ _ _ _ (.refl _)))
@[simp] theorem execVcvt_to (c : CoreId) (f : RFields) (s : State) : (execVcvt c f s).To s :=
  State.rill_to (State.checked_to (.refl _) (Holds.To.ite (State.runVecWhole_to (fun _ _ => cvtElem_store ..) _ _ _ _ _ (.refl _))
    (State.runVec_to (fun _ _ => cvtElem_store ..) _ _ _ _ _ (.refl _))))
@[simp] theorem execVrand_to (c : CoreId) (f : RFields) (s : State) : (execVrand c f s).To s :=
  State.rill_to (State.checked_to (.refl _) (State.runVec_to (fun k _ => k.draw_store _) _ _ _ _ _ (.refl _)))
@[simp] theorem execVcvtsb_to (c : CoreId) (f : RFields) (s : State) : (execVcvtsb c f s).To s :=
  State.rill_to (State.checked_to (.refl _) (.of_eq (State.putCore_holds (by simp))))
@[simp] theorem execVcvtw_to (c : CoreId) (f : RFields) (s : State) : (execVcvtw c f s).To s := by
  refine State.rill_to (State.checked_to (.refl _) (.of_eq (State.putCore_holds ?_)))
  rw [Core.vdone_store, putGroup_store, foldl_core_store, State.core_store]
  intro p i
  rw [Core.count_store, Core.accrue_store]
  dsimp only
  split
  · split <;> split <;> simp
  · rfl
@[simp] theorem execFsc_to (c : CoreId) (f : RFields) (s : State) : (execFsc c f s).To s := by
  refine State.rill_to (State.checked_to (.refl _) ?_)
  dsimp only
  have he : ∀ (p : Prop) [Decidable p] t l k a b d f5, (if p then fmaElem t l false false k a b d else fpElem t f5 l k a b).core.store = k.store := by
    intro p _ t l k a b d f5
    split <;> simp
  refine Holds.To.ite (by simp) (Holds.To.ite (by simp) (.of_eq (State.putCore_holds ?_)))
  rw [Core.vdone_store]
  split <;> simp [he]
@[simp] theorem execVsplat_to (c : CoreId) (d a b : BitVec 5) (lo : BitVec 6) (s : State) : (execVsplat c d a b lo s).To s :=
  State.rill_to (State.checked_to (.refl _) (State.runVec_to (fun _ _ => rfl) _ _ _ _ _ (.refl _)))
@[simp] theorem execVget_to (c : CoreId) (d a b : BitVec 5) (lo : BitVec 6) (s : State) : (execVget c d a b lo s).To s :=
  State.rill_to (State.checked_to (.refl _) (.of_eq (State.putCore_holds (by simp))))
@[simp] theorem execVput_to (c : CoreId) (d a b : BitVec 5) (lo : BitVec 6) (s : State) : (execVput c d a b lo s).To s :=
  State.rill_to (State.checked_to (.refl _) (.of_eq (State.putCore_holds (by simp))))
@[simp] theorem execRelocationGranuleDone_to (g : MemRegion) (slot group : Nat) (s : State) : (execRelocationGranuleDone g slot group s).To s := by
  unfold execRelocationGranuleDone
  rw [Out.to_next]
  refine Holds.To.ite (.refl _) ?_
  have hw : s.holds.To ({ s with tiers := storeLost s.tiers (granuleAddr g slot group) 256 } : State).holds :=
    Holds.To.tiers (.refl _) (storeLost_wf _ _ _)
  refine Holds.To.ite ?_ ?_ <;> simp [hw]
@[simp] theorem execLoadProgram_to (n : Fin 8) (img : Option ImageFile) (s : State) : (execLoadProgram n img s).To s :=
  Out.to_next.mpr (State.serve_to (.refl _) fun b => State.finishLoad_to n b img true (.refl _))
@[simp] theorem execVerifyProgram_to (n : Fin 8) (img : Option ImageFile) (s : State) : (execVerifyProgram n img s).To s :=
  Out.to_next.mpr (State.serve_to (.refl _) fun b => State.finishLoad_to n b img false (.refl _))
@[simp] theorem execFwUpdateBegin_to (n : Fin 8) (s : State) : (execFwUpdateBegin n s).To s := by
  refine Out.to_next.mpr (State.serve_to (.refl _) fun b => ?_)
  dsimp only
  rw [State.complete_holds, State.fresh_holds]
  refine Holds.To.fw (.refl _) fun ok => ?_
  have hf : Firmware.mems (if b.arg 0 = 0 then s.fw else
      if (s.fw.putSlot (b.arg 1 == 1) none).pend = some (b.arg 1 == 1) then { (s.fw.putSlot (b.arg 1 == 1) none).record with pend := none }
      else s.fw.putSlot (b.arg 1 == 1) none) |>.ok := by
    split
    · exact ok
    · have hp := Firmware.putSlot_ok ok (b.arg 1 == 1) (x := none) nofun
      split
      · exact hp
      · exact hp
  refine ⟨?_, hf.2⟩
  show Mem.wf (if b.arg 0 = 0 then _ else []) = true
  split
  next h =>
    have hs := Firmware.slot_ok ok (b.arg 1 == 1)
    cases e : s.fw.slot (b.arg 1 == 1) with
    | none => simp [Mem.wf_nil]
    | some x => simpa [h, e] using hs x e
  · rfl

/-! ## The end of a step of start-up -/

@[simp] theorem State.activate_holds (s : State) : s.activate.holds = s.holds := by
  unfold State.activate
  dsimp only
  split
  · simp [Firmware.record]
  · rfl
@[simp] theorem State.startupDone_holds (s : State) : s.startupDone.holds = s.holds := by
  unfold State.startupDone
  dsimp only
  rw [State.readyUpdate_holds, State.event_holds]
  split <;> simp
@[simp] theorem State.stepDone_to {s : State} (rep : StepReport) {o : Holds} (h : o.To s.holds) : o.To (s.stepDone rep).holds := by
  unfold State.stepDone
  dsimp only
  split
  · simp [h]
  · simp [h]
  · split <;> simp [h]
  all_goals simp [h]
@[simp] theorem execStartupStepAdvance_to (rep : StepReport) (s : State) : (execStartupStepAdvance rep s).To s :=
  Out.to_next.mpr (Holds.To.ite (State.stepDone_to rep (.refl _)) (.refl _))

/-- Every command answers a next state whose queue is the one it was given, and whose memories are canonical where those it was given are:
its branches are built of operations that do so. -/
theorem exec_to (i : Instr) (s : State) : Out.To (exec i s) s := by
  cases i
  all_goals simp [exec, execReg64LowHalfRead, execPhaseAdvance, execDataPlaneRecordWrite, execSuspectEntryWrite, execSuspectEntryRead,
    execPhaseTagChange, execBudgetIntervalReport, execFwHang, execFwRestartDone, execCtrlReadySet, execMoverConvEnWrite, execAlu,
    execAddi, execAndi, execOri, execXori, execShi, execLui, execJal, execJalr, execFence, execWaitc, execWaitm, execRetx,
    execBreakpoint, execCsrRead, execCsrWrite, execCsrSet, execCsrClear, execVfma, execVfms, execVfnma,
    execLaneStateWrite, execHeldLaneWrite,
    execShadowLoadDone, execTileReturnIdle, execDrainLastWrite, execSentinelSample, execSentinelRecomputeStart, execSentinelPreempt,
    execSentinelSeedWrite, execSentinelDisable, execMoverDescriptorComplete, execScrubPassEnd, execUnitCommandTimeout,
    execRowRepair, execStackTempReport, execMemoryRetrain, execUpdatePassComplete, execReserveAckReceive,
    execReserveTimeout, execHeldDigestReceive, execVoteResult, execStepAbort, execSecurePauseStart, execHolderCompleteReceive,
    execSecureStage2Enter, execFrameReceive, execRetryTimeout, execHeartbeatTimeout, execLaneLockLoss, execLockLossTimeout,
    execTrainingAttempt, execPacketSendStart, execWrite, execEcho, execFlowRateIncrease, execRippleSample, execRippleRecordClose,
    execRippleMapRequest, execBypassOpen, execRouteCommitFlip, execRouteCommitRelease, execChunkAckTimer, execChunkAckReceive,
    execReady, execExchangeWindowClose, execStart, execLiveSend, execLive, execLiveTimeout, execSuspect, execSuspectWaitTimeout,
    execRoundTimeout, execAbandon, execFenceTimeout, execJoin, execJobCommandForward, execJobCommandApply, execCxlLinkUp,
    execCxlLinkDown, execHotReset, execFlr, execHdmDecoderCommit, execBisnpResponse, execHostSnoop, execDoeTableAccess,
    execMsixVectorUnmask, execTelemetryRewrite, execMailboxGo, execMailboxAbort, execServiceTimeout, execProgressUpdate,
    execIdentify, execGetCaps, execGetEventLog, execStepStatus, execSetHostWindow, execHaltCommand, execSetPolicy, execSecureNow, execGetRippleMap, execSetPowerLimits, execGetThrottleLog, execGetAgeing,
    execReplanMargins, execSetTimeAnchor, execSetPowerState, execWarmReset, execWarmResetBegin, execGetEvidence,
    execEventsDropped, execRailRampDone, execStretchBegin, execStretchRelease, execSagWarn, execSagClear, execPeakControllerStep,
    execSustainedControllerStep, execCapFloor, execDieTempSample, execThermalCeilingRaise, execFlowOkChange, execFlowLossTimeout,
    execLeakAssert, execInletOvertempTimeout, execPllUnlock, execRefclkLoss, execReplanDue, execReplanDomain, execReplanDeferred,
    execAuxPor, execMainPor, execPerstAssert, execPerstRelease, execPwrEnDeassert, execPwrEnAssert, execMainPowerEnable,
    execStartupStepTimeout, execSlotIdChanged, execSetdasa, execEntdaa, execMctpReassemblyTimeout, execSetEndpointId,
    execGetEndpointId, execGetMctpVersionSupport, execGetMessageTypeSupport, execGettid, execGetpldmversion, execGetpldmtypes,
    execGetpldmcommands, execGetpdrrepositoryinfo, execGetpdr, execFwAliveToggle, execControlCoreFault, execRefclkReturn,
    execLaneLockRegain, execLeakRelease, execBypassSwitchClosed, execWarmResetHoldEnd, execRunWaitExpiry, State.core_store, State.jet_store, Runnel.cores_get_store]

end Sys2Proof.Machine
end

section
/-! What every command keeps: it answers a next state, the queue of commands and the canonical form of every memory. -/

namespace Sys2Proof.Machine

theorem forall_mem_toList {α : Type} {n : Nat} {p : α → Prop} (v : Vector α n) : (∀ x ∈ v.toList, p x) ↔ ∀ i, p (v.get i) := by
  simp only [Vector.mem_toList_iff, Vector.mem_iff_getElem, Vector.get_eq_getElem]
  exact ⟨fun h i => h _ ⟨i.val, i.isLt, rfl⟩, fun h _ ⟨i, hi, e⟩ => e ▸ h ⟨i, hi⟩⟩
/-- The memories of a module are canonical where `State.memOk` says so. -/
theorem State.memOk_iff (s : State) : s.memOk = true ↔ s.holds.ok := by
  have hj : (∀ x ∈ s.jets.toList, Mem.wf x.core.store = true) ↔ ∀ j, Mem.wf (s.holds.jets.get j) = true := by
    simp only [← s.jets_get_store]
    exact forall_mem_toList (p := fun x : Jet => Mem.wf x.core.store = true) s.jets
  have hc (r : Fin 2) : (∀ k ∈ (s.runnels.get r).cores.toList, Mem.wf k.store = true) ↔ ∀ n, Mem.wf ((s.holds.cores.get r).get n) = true := by
    simp only [← s.runnels_get_stores, ← Runnel.cores_get_store]
    exact forall_mem_toList (p := fun k : Core => Mem.wf k.store = true) _
  have hr : (∀ x ∈ s.runnels.toList, ∀ k ∈ x.cores.toList, Mem.wf k.store = true) ↔
      ∀ r n, Mem.wf ((s.holds.cores.get r).get n) = true := by
    rw [forall_mem_toList (p := fun x : Runnel => ∀ k ∈ x.cores.toList, Mem.wf k.store = true)]
    exact forall_congr' hc
  have hs (o : Option SlotImage) : (o.all fun x => Mem.wf x.content) = true ↔ ∀ m ∈ o.map (·.content), Mem.wf m = true := by
    cases o <;> simp
  unfold State.memOk Holds.ok FwMems.ok
  simp only [Bool.and_eq_true, List.all_eq_true, hj, hr, hs, and_assoc]
  rfl

/-- A step leaves the memories canonical: that of a command by `exec_to`, and 10 ns of the Keeper's clock write none. -/
theorem step_to {s t : State} (h : step s = .next t) : s.holds.ok → t.holds.ok := by
  unfold step at h
  split at h
  next c rest e =>
    obtain ⟨u, hu, keeps⟩ := exec_to c { s with pending := rest }
    cases hu.symm.trans h
    exact keeps.2
  · cases h
    rw [State.tick_holds]
    exact id

/-- Settles O59: no command writes a memory but by words, bytes and lost words stored into it, which leave it in canonical form. -/
theorem memoryStaysCanonical : Obligations.MemoryStaysCanonical := by
  unfold Obligations.MemoryStaysCanonical
  intro s t ok h
  exact t.memOk_iff.mpr (step_to h (s.memOk_iff.mp ok))

/-- Settles O57: every branch of every command is a next state, and none is built with another queue. -/
theorem everyCommandAnswersANextState : Obligations.EveryCommandAnswersANextState := by
  unfold Obligations.EveryCommandAnswersANextState
  intro c s
  obtain ⟨t, ht, keeps⟩ := exec_to c s
  exact ⟨t, ht, keeps.1⟩

end Sys2Proof.Machine
end

section
/-! SUPPORT. What raising a cause, recording an event and completing a command leave, field by field. -/

namespace Sys2Proof.Machine

@[simp] theorem State.raise_pending (s : State) (n : Nat) : (s.raise n).pending = s.pending := (congrArg State.pending (s.raise_frame n).1 :)
@[simp] theorem State.raise_readData (s : State) (n : Nat) : (s.raise n).readData = s.readData := (congrArg State.readData (s.raise_frame n).1 :)
@[simp] theorem State.raise_latch (s : State) (n : Nat) : (s.raise n).latch = s.latch := (congrArg State.latch (s.raise_frame n).1 :)
@[simp] theorem State.raise_freeCount (s : State) (n : Nat) : (s.raise n).freeCount = s.freeCount := (congrArg State.freeCount (s.raise_frame n).1 :)
@[simp] theorem State.raise_jets (s : State) (n : Nat) : (s.raise n).jets = s.jets := (congrArg State.jets (s.raise_frame n).1 :)
@[simp] theorem State.raise_basins (s : State) (n : Nat) : (s.raise n).basins = s.basins := (congrArg State.basins (s.raise_frame n).1 :)
@[simp] theorem State.raise_cisterns (s : State) (n : Nat) : (s.raise n).cisterns = s.cisterns := (congrArg State.cisterns (s.raise_frame n).1 :)
@[simp] theorem State.raise_runnels (s : State) (n : Nat) : (s.raise n).runnels = s.runnels := (congrArg State.runnels (s.raise_frame n).1 :)
@[simp] theorem State.raise_tiers (s : State) (n : Nat) : (s.raise n).tiers = s.tiers := (congrArg State.tiers (s.raise_frame n).1 :)
@[simp] theorem State.raise_record (s : State) (n : Nat) : (s.raise n).record = s.record := (congrArg State.record (s.raise_frame n).1 :)
@[simp] theorem State.raise_job (s : State) (n : Nat) : (s.raise n).job = s.job := (congrArg State.job (s.raise_frame n).1 :)
@[simp] theorem State.raise_caps (s : State) (n : Nat) : (s.raise n).caps = s.caps := (congrArg State.caps (s.raise_frame n).1 :)
@[simp] theorem State.raise_weir (s : State) (n : Nat) : (s.raise n).weir = s.weir := (congrArg State.weir (s.raise_frame n).1 :)
@[simp] theorem State.raise_coll (s : State) (n : Nat) : (s.raise n).coll = s.coll := (congrArg State.coll (s.raise_frame n).1 :)
@[simp] theorem State.raise_sluice (s : State) (n : Nat) : (s.raise n).sluice = s.sluice := (congrArg State.sluice (s.raise_frame n).1 :)
@[simp] theorem State.raise_keeper (s : State) (n : Nat) : (s.raise n).keeper = s.keeper := (congrArg State.keeper (s.raise_frame n).1 :)
@[simp] theorem State.raise_fw (s : State) (n : Nat) : (s.raise n).fw = s.fw := (congrArg State.fw (s.raise_frame n).1 :)
@[simp] theorem State.raise_part (s : State) (n : Nat) : (s.raise n).part = s.part := (congrArg State.part (s.raise_frame n).1 :)

@[simp] theorem State.event_pending (s : State) (code sev src : Nat) (args : List Nat) : (s.event code sev src args).pending = s.pending :=
  (congrArg State.pending (s.event_frame code sev src args) :)
@[simp] theorem State.event_readData (s : State) (code sev src : Nat) (args : List Nat) : (s.event code sev src args).readData = s.readData :=
  (congrArg State.readData (s.event_frame code sev src args) :)
@[simp] theorem State.event_latch (s : State) (code sev src : Nat) (args : List Nat) : (s.event code sev src args).latch = s.latch :=
  (congrArg State.latch (s.event_frame code sev src args) :)
@[simp] theorem State.event_freeCount (s : State) (code sev src : Nat) (args : List Nat) : (s.event code sev src args).freeCount = s.freeCount :=
  (congrArg State.freeCount (s.event_frame code sev src args) :)
@[simp] theorem State.event_jets (s : State) (code sev src : Nat) (args : List Nat) : (s.event code sev src args).jets = s.jets :=
  (congrArg State.jets (s.event_frame code sev src args) :)
@[simp] theorem State.event_basins (s : State) (code sev src : Nat) (args : List Nat) : (s.event code sev src args).basins = s.basins :=
  (congrArg State.basins (s.event_frame code sev src args) :)
@[simp] theorem State.event_cisterns (s : State) (code sev src : Nat) (args : List Nat) : (s.event code sev src args).cisterns = s.cisterns :=
  (congrArg State.cisterns (s.event_frame code sev src args) :)
@[simp] theorem State.event_runnels (s : State) (code sev src : Nat) (args : List Nat) : (s.event code sev src args).runnels = s.runnels :=
  (congrArg State.runnels (s.event_frame code sev src args) :)
@[simp] theorem State.event_tiers (s : State) (code sev src : Nat) (args : List Nat) : (s.event code sev src args).tiers = s.tiers :=
  (congrArg State.tiers (s.event_frame code sev src args) :)
@[simp] theorem State.event_record (s : State) (code sev src : Nat) (args : List Nat) : (s.event code sev src args).record = s.record :=
  (congrArg State.record (s.event_frame code sev src args) :)
@[simp] theorem State.event_job (s : State) (code sev src : Nat) (args : List Nat) : (s.event code sev src args).job = s.job :=
  (congrArg State.job (s.event_frame code sev src args) :)
@[simp] theorem State.event_caps (s : State) (code sev src : Nat) (args : List Nat) : (s.event code sev src args).caps = s.caps :=
  (congrArg State.caps (s.event_frame code sev src args) :)
@[simp] theorem State.event_weir (s : State) (code sev src : Nat) (args : List Nat) : (s.event code sev src args).weir = s.weir :=
  (congrArg State.weir (s.event_frame code sev src args) :)
@[simp] theorem State.event_coll (s : State) (code sev src : Nat) (args : List Nat) : (s.event code sev src args).coll = s.coll :=
  (congrArg State.coll (s.event_frame code sev src args) :)
@[simp] theorem State.event_boxes (s : State) (code sev src : Nat) (args : List Nat) : (s.event code sev src args).boxes = s.boxes :=
  (congrArg State.boxes (s.event_frame code sev src args) :)
@[simp] theorem State.event_sluice (s : State) (code sev src : Nat) (args : List Nat) : (s.event code sev src args).sluice = s.sluice :=
  (congrArg State.sluice (s.event_frame code sev src args) :)
@[simp] theorem State.event_fw (s : State) (code sev src : Nat) (args : List Nat) : (s.event code sev src args).fw = s.fw :=
  (congrArg State.fw (s.event_frame code sev src args) :)
@[simp] theorem State.event_part (s : State) (code sev src : Nat) (args : List Nat) : (s.event code sev src args).part = s.part :=
  (congrArg State.part (s.event_frame code sev src args) :)

@[simp] theorem State.complete_pending (s : State) (n : Fin 8) (status detail : Nat) (out : List Byte) : (s.complete n status detail out).pending = s.pending :=
  (congrArg State.pending (s.complete_frame n status detail out).1 :)
@[simp] theorem State.complete_readData (s : State) (n : Fin 8) (status detail : Nat) (out : List Byte) : (s.complete n status detail out).readData = s.readData :=
  (congrArg State.readData (s.complete_frame n status detail out).1 :)
@[simp] theorem State.complete_latch (s : State) (n : Fin 8) (status detail : Nat) (out : List Byte) : (s.complete n status detail out).latch = s.latch :=
  (congrArg State.latch (s.complete_frame n status detail out).1 :)
@[simp] theorem State.complete_freeCount (s : State) (n : Fin 8) (status detail : Nat) (out : List Byte) : (s.complete n status detail out).freeCount = s.freeCount :=
  (congrArg State.freeCount (s.complete_frame n status detail out).1 :)
@[simp] theorem State.complete_jets (s : State) (n : Fin 8) (status detail : Nat) (out : List Byte) : (s.complete n status detail out).jets = s.jets :=
  (congrArg State.jets (s.complete_frame n status detail out).1 :)
@[simp] theorem State.complete_basins (s : State) (n : Fin 8) (status detail : Nat) (out : List Byte) : (s.complete n status detail out).basins = s.basins :=
  (congrArg State.basins (s.complete_frame n status detail out).1 :)
@[simp] theorem State.complete_cisterns (s : State) (n : Fin 8) (status detail : Nat) (out : List Byte) : (s.complete n status detail out).cisterns = s.cisterns :=
  (congrArg State.cisterns (s.complete_frame n status detail out).1 :)
@[simp] theorem State.complete_runnels (s : State) (n : Fin 8) (status detail : Nat) (out : List Byte) : (s.complete n status detail out).runnels = s.runnels :=
  (congrArg State.runnels (s.complete_frame n status detail out).1 :)
@[simp] theorem State.complete_tiers (s : State) (n : Fin 8) (status detail : Nat) (out : List Byte) : (s.complete n status detail out).tiers = s.tiers :=
  (congrArg State.tiers (s.complete_frame n status detail out).1 :)
@[simp] theorem State.complete_record (s : State) (n : Fin 8) (status detail : Nat) (out : List Byte) : (s.complete n status detail out).record = s.record :=
  (congrArg State.record (s.complete_frame n status detail out).1 :)
@[simp] theorem State.complete_job (s : State) (n : Fin 8) (status detail : Nat) (out : List Byte) : (s.complete n status detail out).job = s.job :=
  (congrArg State.job (s.complete_frame n status detail out).1 :)
@[simp] theorem State.complete_caps (s : State) (n : Fin 8) (status detail : Nat) (out : List Byte) : (s.complete n status detail out).caps = s.caps :=
  (congrArg State.caps (s.complete_frame n status detail out).1 :)
@[simp] theorem State.complete_weir (s : State) (n : Fin 8) (status detail : Nat) (out : List Byte) : (s.complete n status detail out).weir = s.weir :=
  (congrArg State.weir (s.complete_frame n status detail out).1 :)
@[simp] theorem State.complete_coll (s : State) (n : Fin 8) (status detail : Nat) (out : List Byte) : (s.complete n status detail out).coll = s.coll :=
  (congrArg State.coll (s.complete_frame n status detail out).1 :)
@[simp] theorem State.complete_sluice (s : State) (n : Fin 8) (status detail : Nat) (out : List Byte) : (s.complete n status detail out).sluice = s.sluice :=
  (congrArg State.sluice (s.complete_frame n status detail out).1 :)
@[simp] theorem State.complete_keeper (s : State) (n : Fin 8) (status detail : Nat) (out : List Byte) : (s.complete n status detail out).keeper = s.keeper :=
  (congrArg State.keeper (s.complete_frame n status detail out).1 :)
@[simp] theorem State.complete_fw (s : State) (n : Fin 8) (status detail : Nat) (out : List Byte) : (s.complete n status detail out).fw = s.fw :=
  (congrArg State.fw (s.complete_frame n status detail out).1 :)
@[simp] theorem State.complete_part (s : State) (n : Fin 8) (status detail : Nat) (out : List Byte) : (s.complete n status detail out).part = s.part :=
  (congrArg State.part (s.complete_frame n status detail out).1 :)

/-- A core reads the jets and the Runnel dies only. -/
theorem State.core_congr {s t : State} (hj : t.jets = s.jets) (hr : t.runnels = s.runnels) (c : CoreId) : t.core c = s.core c := by
  cases c with
  | jet j => exact congrArg (fun v => (v.get j).core) hj
  | upd r n => exact congrArg (fun v => (v.get r).cores.get n) hr

@[simp] theorem State.event_core (s : State) (code sev src : Nat) (args : List Nat) (c : CoreId) :
    (s.event code sev src args).core c = s.core c := State.core_congr (State.event_jets ..) (State.event_runnels ..) c

end Sys2Proof.Machine
end

section
/-! Rill cores, integer instructions: the fields of a word as the encoding chapter cuts them, and ALU, the immediate forms, SHI and
LUI by the value each gives (R163). -/

namespace Sys2Proof.Machine

/-! ## The low half of a word -/

/-- Bits [15:0] of a word are B above the low eleven bits. -/
theorem low16_eq (f : RFields) : low16 f = (f.b ++ f.lo).toNat := by
  rw [BitVec.toNat_append, ← Nat.shiftLeft_add_eq_or_of_lt f.lo.isLt, Nat.shiftLeft_eq]
  rfl

/-- Bits [20:0] of a word are A above its low half. -/
theorem low21_eq (f : RFields) : low21 f = (f.a ++ (f.b ++ f.lo)).toNat := by
  rw [BitVec.toNat_append, ← Nat.shiftLeft_add_eq_or_of_lt (f.b ++ f.lo).isLt, Nat.shiftLeft_eq, ← low16_eq]
  rfl

/-- A field of the low half. -/
theorem fld_eq (f : RFields) (hi lo : Nat) : fld f hi lo = ((f.b ++ f.lo).extractLsb' lo (hi + 1 - lo)).toNat := by
  unfold fld bits
  rw [low16_eq, BitVec.ofNat_toNat, BitVec.setWidth_eq, BitVec.extractLsb'_toNat]

/-- A field of a word extended with its sign (R163). -/
theorem sext_toNat {w : Nat} (x : BitVec w) : sext w x.toNat = x.signExtend 64 := by
  unfold sext toSigned
  rw [BitVec.ofNat_toNat, BitVec.setWidth_eq, BitVec.signExtend]

/-- The low half extended with its sign. -/
theorem sext_low16 (f : RFields) : sext 16 (low16 f) = (f.b ++ f.lo).signExtend 64 := by rw [low16_eq, sext_toNat]

/-- The low half extended with zeros. -/
theorem ofNat_low16 (f : RFields) : BitVec.ofNat 64 (low16 f) = (f.b ++ f.lo).setWidth 64 := by
  rw [low16_eq, BitVec.ofNat_toNat]

/-- LUI's value: the low half above sixteen zeros, extended with its sign. -/
theorem sext_low16_high (f : RFields) : sext 32 (low16 f * 65536) = (((f.b ++ f.lo) ++ (0 : W16)).signExtend 64) := by
  have h : low16 f * 65536 = ((f.b ++ f.lo) ++ (0 : W16)).toNat := by
    rw [BitVec.toNat_append, low16_eq, Nat.shiftLeft_eq]; simp
  rw [h, sext_toNat]

/-! ## Results -/

section
variable {c : CoreId} {f : RFields} {s : State}

/-- An instruction with a value writes it to D and goes on. -/
theorem State.scalarResult_some (op : Nat) (v : W64) : s.scalarResult c op f (some v) = s.wrote c f.d v := rfl

/-- An instruction without a value is ILLEGAL, encoding. -/
theorem State.scalarResult_none (op : Nat) : s.scalarResult c op f none = s.raiseExc c (illegal (rillWord op f) 1) := rfl

/-- The upper 64 bits of a product (R163). -/
theorem mulHigh_eq (a b : W64) :
    BitVec.ofNat 64 (a.toNat * b.toNat / 2 ^ 64) = (a.setWidth 128 * b.setWidth 128).extractLsb' 64 64 := by
  have hlt : a.toNat * b.toNat < 2 ^ 128 := by
    rw [show (2 : Nat) ^ 128 = 2 ^ 64 * 2 ^ 64 from rfl]
    exact Nat.mul_lt_mul'' a.isLt b.isLt
  have ha : a.toNat % 2 ^ 128 = a.toNat := Nat.mod_eq_of_lt (a.isLt.trans (by decide))
  have hb : b.toNat % 2 ^ 128 = b.toNat := Nat.mod_eq_of_lt (b.isLt.trans (by decide))
  apply BitVec.eq_of_toNat_eq
  rw [BitVec.extractLsb'_toNat, BitVec.toNat_mul, BitVec.toNat_setWidth, BitVec.toNat_setWidth, ha, hb,
    Nat.mod_eq_of_lt hlt, BitVec.toNat_ofNat, Nat.shiftRight_eq_div_pow]

/-- The values of ALU by FUNC, as the table lists them (R163). -/
def aluRows (a b : W64) : List W64 :=
  let n := (b.extractLsb' 0 6).toNat
  [a + b, a - b, a &&& b, a ||| b, a ^^^ b, a <<< n, a >>> n, a.sshiftRight n, a * b,
    ((a.setWidth 128 * b.setWidth 128).extractLsb' 64 64), if a.toInt < b.toInt then 1 else 0, if a.toNat < b.toNat then 1 else 0]

/-- A shift amount is the low six bits of its register. -/
theorem shiftAmount_eq (b : W64) : (b.extractLsb' 0 6).toNat = b.toNat % 64 := by simp

/-- ALU has the table's value for each FUNC of the table, and none for any other. -/
theorem aluFn_eq (n : Nat) (a b : W64) : aluFn n a b = (aluRows a b)[n]? := by
  unfold aluRows
  simp only [shiftAmount_eq, ← mulHigh_eq]
  match n with
  | 0 | 1 | 2 | 3 | 4 | 5 | 6 | 7 | 8 | 9 => rfl
  | 10 => simp [aluFn, BitVec.slt]
  | 11 => simp [aluFn, BitVec.ult]
  | n + 12 => rfl

/-- ALU on a core that executes. -/
theorem exec_alu (h : s.ready c false) :
    exec (.alu c f) s =
      .next (s.scalarResult c 0x01 f (aluRows ((s.core c).rs f.a) ((s.core c).rs f.b))[f.lo.toNat]?) := by
  rw [← aluFn_eq]
  change execAlu c f s = _
  unfold execAlu
  rw [State.rill_ready h]

/-- The shift of SHI by its kind, bits [15:14] of the word (R163). -/
def shiFn (kind : Nat) (a : W64) (n : Nat) : Option W64 :=
  match kind with
  | 0 => some (a <<< n)
  | 1 => some (a >>> n)
  | 2 => some (a.sshiftRight n)
  | _ => none

/-- SHI on a core that executes: its amount in bits [5:0], its kind in bits [15:14], and zeros between. -/
theorem exec_shi (h : s.ready c false) :
    exec (.shi c f) s = .next (s.scalarResult c 0x06 f
      (if fld f 13 6 ≠ 0 then none else shiFn (fld f 15 14) ((s.core c).rs f.a) (fld f 5 0))) := by
  change execShi c f s = _
  unfold execShi
  rw [State.rill_ready h]
  rfl

/-- A field of the low half that holds a value. -/
theorem fld_of_extract {hi lo n : Nat} (x : BitVec n) (hn : hi + 1 - lo = n)
    (h : (f.b ++ f.lo).extractLsb' lo n = x) : fld f hi lo = x.toNat := by
  rw [fld_eq, hn, h]

/-- A shift of SHI's table completes. -/
theorem exec_shi_some (h : s.ready c false) (hz : (f.b ++ f.lo).extractLsb' 6 8 = 0) (k : BitVec 2) (v : W64)
    (hk : (f.b ++ f.lo).extractLsb' 14 2 = k)
    (hv : shiFn k.toNat ((s.core c).rs f.a) (fld f 5 0) = some v) : exec (.shi c f) s = .next (s.wrote c f.d v) := by
  have hz' : fld f 13 6 = 0 := fld_of_extract (0 : BitVec 8) rfl hz
  have hk' : fld f 15 14 = k.toNat := fld_of_extract k rfl hk
  rw [exec_shi h, if_neg (by simp [hz']), hk', hv, State.scalarResult_some]

/-- A word of SHI that the table does not list is ILLEGAL. -/
theorem exec_shi_illegal (h : s.ready c false)
    (hz : (f.b ++ f.lo).extractLsb' 6 8 ≠ 0 ∨ (f.b ++ f.lo).extractLsb' 14 2 = 3) :
    exec (.shi c f) s = .next (s.raiseExc c (illegal (rillWord 0x06 f) 1)) := by
  rw [exec_shi h, ← State.scalarResult_none 0x06]
  rcases hz with hz | hk
  · have hz' : fld f 13 6 ≠ 0 := by
      rw [fld_eq]
      exact fun e => hz (BitVec.eq_of_toNat_eq e)
    rw [if_pos hz']
  · have hk' : fld f 15 14 = 3 := fld_of_extract (3 : BitVec 2) rfl hk
    rw [hk', show shiFn 3 _ _ = none from rfl, ite_self]

end

/-- ADDI, ANDI, ORI, XORI, SHI and LUI. -/
theorem immediateInstructionsWriteTheirResult : Claims.ImmediateInstructionsWriteTheirResult := by
  intro c f s h k a imm
  refine ⟨?_, ?_, ?_, ?_, fun ha => ?_, fun ha => ?_, fun hz => ⟨fun hk => ?_, fun hk => ?_, fun hk => ?_⟩, exec_shi_illegal h⟩
  · change execAddi c f s = _
    unfold execAddi
    rw [State.rill_ready h, sext_low16]
    rfl
  · change execAndi c f s = _
    unfold execAndi
    rw [State.rill_ready h, ofNat_low16]
    rfl
  · change execOri c f s = _
    unfold execOri
    rw [State.rill_ready h, ofNat_low16]
    rfl
  · change execXori c f s = _
    unfold execXori
    rw [State.rill_ready h, ofNat_low16]
    rfl
  · change execLui c f s = _
    unfold execLui
    rw [State.rill_ready h, if_pos ha, sext_low16_high]
    rfl
  · change execLui c f s = _
    unfold execLui
    rw [State.rill_ready h, if_neg ha]
    rfl
  all_goals
    refine exec_shi_some h hz _ _ hk ?_
    rw [fld_eq]
    rfl

/-- ALU. -/
theorem aluWritesItsResult : Claims.AluWritesItsResult := by
  intro c f s h k a b n rows
  refine ⟨fun v hv => ?_, fun hn => ?_⟩
  · rw [exec_alu h, show (aluRows a b)[f.lo.toNat]? = some v from hv, State.scalarResult_some]
  · rw [exec_alu h, List.getElem?_eq_none (by exact hn), State.scalarResult_none]

/-- Settles O2: each function of the table by its value, the others by the exception they raise. -/
theorem scalarArithmeticWritesItsResult : Obligations.ScalarArithmeticWritesItsResult :=
  ⟨immediateInstructionsWriteTheirResult, aluWritesItsResult⟩

end Sys2Proof.Machine
end

section
/-! Rill cores, control: branches and jumps, SYS, exceptions, the ends of waits and lane writes (R163, R172 to R177, R191, R195 to
R197). -/

namespace Sys2Proof.Machine

/-! ## Branches and jumps -/

/-- The conditions of BR, as the table lists them (R163). -/
def brRows (x y : W64) : List Bool :=
  [x == y, x != y, decide (x.toInt < y.toInt), decide (y.toInt ≤ x.toInt), decide (x.toNat < y.toNat), decide (y.toNat ≤ x.toNat)]

/-- BR has a condition for each COND of the table, and none for any other. -/
theorem condHolds_eq (n : Nat) (x y : W64) : condHolds n x y = (brRows x y)[n]? := by
  match n with
  | 0 | 1 => rfl
  | 2 => simp [condHolds, brRows, BitVec.slt]
  | 3 => simp [condHolds, brRows, BitVec.slt, ← decide_not]
  | 4 => simp [condHolds, brRows, BitVec.ult]
  | 5 => simp [condHolds, brRows, BitVec.ult, ← decide_not]
  | n + 6 => rfl

/-- BR, JAL and JALR. -/
theorem branchesAndJumpsSetPc : Claims.BranchesAndJumpsSetPc := by
  intro c f s h k x y imm far target goes
  have hcond : fld f 15 13 = (imm.extractLsb' 13 3).toNat := fld_eq f 15 13
  have hoff : sext 13 (fld f 12 0) = (imm.extractLsb' 0 13).signExtend 64 := by rw [fld_eq]; exact sext_toNat _
  have br : exec (.br c f) s = .next (match (brRows x y)[(imm.extractLsb' 13 3).toNat]? with
      | some true => s.putCore c (k.jump (k.pc + 4 * (imm.extractLsb' 0 13).signExtend 64))
      | some false => s.putCore c k.advance
      | none => s.raiseExc c (illegal (rillWord 0x0A f) 1)) := by
    change execBr c f s = _
    rw [execBr, State.rill_ready h, hoff, hcond, ← condHolds_eq]
    rfl
  refine ⟨fun b hb => ?_, fun hb => ?_, ?_, fun ht => ?_, fun ht => ?_⟩
  · rw [br, show (brRows _ _)[_]? = some b from hb]
    cases b <;> rfl
  · rw [br, List.getElem?_eq_none (by exact hb)]
  · change execJal c f s = _
    rw [execJal, State.rill_ready h, low21_eq, sext_toNat]
  · change execJalr c f s = _
    rw [execJalr, State.rill_ready h, sext_low16]
    exact congrArg Host.Outcome.next (if_neg (not_not.mpr ht))
  · change execJalr c f s = _
    rw [execJalr, State.rill_ready h, sext_low16]
    exact congrArg Host.Outcome.next (if_pos ht)

/-! ## Waits and pending faults -/

/-- The lowest array of a pending list whose lowest stands first. -/
theorem foldl_min_eq (l : List (Nat × Nat)) : ∀ n, (∀ p ∈ l, n ≤ p.1) → l.foldl (fun m p => min m p.1) n = n := by
  induction l with
  | nil => intros; rfl
  | cons p l ih =>
    intro n h
    rw [List.foldl_cons, Nat.min_eq_left (h p List.mem_cons_self)]
    exact ih n fun q hq => h q (List.mem_cons_of_mem _ hq)

/-- An exception at a core that has just been written. -/
theorem State.raiseExc_putCore (s : State) (c : CoreId) (k : Core) (e : Exc) :
    (s.putCore c k).raiseExc c e = (s.putCore c k).takeExc c e k.pc := by
  rw [State.raiseExc, State.core_putCore]

/-- The ends of WAITC and WAITM, and the pending faults. -/
theorem waitsEndAndPendingFaultsAreTaken : Claims.WaitsEndAndPendingFaultsAreTaken := by
  intro c s k
  have goes (hr : s.runs c false = true) (hh : k.inHandler = false) (hres : k.resumed = false) :
      (!s.runs c false || (s.core c).inHandler || (s.core c).resumed) = false := by
    rw [hr, hh, hres]
    rfl
  refine ⟨fun ch i hk hb => ?_, fun tg i hk hb => ?_, fun hr hh hres => ⟨fun n ch l hp hl hn => ?_, fun tg l hp hm => ?_⟩⟩
  · change execWaitcEnd c s = _
    rw [execWaitcEnd, hk]
    exact congrArg Host.Outcome.next (if_neg (Bool.eq_false_iff.mp hb))
  · change execWaitmEnd c s = _
    rw [execWaitmEnd, hk]
    exact congrArg Host.Outcome.next (if_neg (Bool.eq_false_iff.mp hb))
  · have hlo : ((n, ch) :: l).foldl (fun m p => min m p.1) 8 = n := by
      rw [List.foldl_cons, Nat.min_eq_right (le_of_lt hn), foldl_min_eq l n hl]
    change execAsyncCauseTake c s = _
    have hgo := goes hr hh hres
    rw [State.raiseExc_putCore, execAsyncCauseTake]
    simp only [hgo, show (s.core c).pendArray = (n, ch) :: l from hp, hlo, Bool.false_eq_true, if_false, List.find?_cons,
      beq_self_eq_true, List.erase_cons_head]
    rfl
  · change execAsyncCauseTake c s = _
    have hgo := goes hr hh hres
    rw [State.raiseExc_putCore, execAsyncCauseTake]
    simp only [k, hgo, show (s.core c).pendArray = [] from hp, show (s.core c).pendMover = tg :: l from hm, Bool.false_eq_true,
      if_false, List.find?_nil]

/-- Settles O3: each branch of the encoding, and each wait and pending fault, by the state it is in. -/
theorem controlFlowSetsPc : Obligations.ControlFlowSetsPc := ⟨branchesAndJumpsSetPc, waitsEndAndPendingFaultsAreTaken⟩

/-! ## SYS and exceptions -/

/-- Clearing the two low bits of an address. -/
theorem setBits_low_two (x : W64) : setBits x 1 0 0 = x &&& ~~~3 := by
  simp [setBits]

/-- Clearing a bit leaves the others. -/
theorem getLsbD_setBit_false {w : Nat} (x : BitVec w) (n i : Nat) : (setBit x n false).getLsbD i = (x.getLsbD i && i != n) := by
  by_cases hi : i < w
  · have h2 : (BitVec.ofNat w (2 ^ n)).getLsbD i = (n == i) := by
      rw [BitVec.getLsbD_ofNat, Nat.testBit_two_pow, decide_eq_true hi, Bool.true_and]
      rfl
    have hm : (2 ^ (n + 1 - n) - 1) * 2 ^ n = 2 ^ n := by simp
    simp only [setBit, setBits, hm, BitVec.getLsbD_or, BitVec.getLsbD_and, BitVec.getLsbD_not, h2, hi]
    rw [BEq.comm]
    simp [bne]
  · simp [BitVec.getLsbD_of_ge _ _ (Nat.le_of_not_lt hi)]

/-- DETAIL of a cause (R201). -/
theorem Exc.word_detail (e : Exc) : e.word.extractLsb' 8 8 = BitVec.ofNat 8 e.detail := by
  apply BitVec.eq_of_toNat_eq
  have hfl := e.eflags.isLt
  rw [Exc.word, BitVec.extractLsb'_toNat, BitVec.toNat_ofNat, BitVec.toNat_ofNat, Nat.shiftRight_eq_div_pow]
  omega

/-- FP_FLAGS of a cause (R201). -/
theorem Exc.word_eflags (e : Exc) : e.word.extractLsb' 16 5 = e.eflags := by
  apply BitVec.eq_of_toNat_eq
  have hfl := e.eflags.isLt
  rw [Exc.word, BitVec.extractLsb'_toNat, BitVec.toNat_ofNat, Nat.shiftRight_eq_div_pow]
  omega

/-- A core that has taken an exception is in handler mode. -/
theorem Core.enterExc_inHandler (k : Core) (e : Exc) (pc : W64) : (k.enterExc e pc).inHandler = true := e.word_inHandler

/-- An exception outside handler mode. -/
theorem exceptionEntrySetsCauseRegisters : Claims.ExceptionEntrySetsCauseRegisters := by
  intro c s e hh _ _ k k'
  have hk' : k' = { k.enterExc e k.pc with pc := k.tvec } := by
    simp only [k', State.raiseExc_entry s c e hh, State.core_putCore]
    rfl
  have hput : s.raiseExc c e = s.putCore c k' := by rw [hk', State.raiseExc_entry s c e hh]
  clear_value k' k
  have hc : k'.cause = e.word := by rw [hk']; rfl
  have hall := hk'
  rw [Core.enterExc, ← hc] at hall
  refine ⟨hput, hall, (congrArg (BitVec.getLsbD · 31) hc).trans e.word_inHandler, by rw [hc, e.word_code],
    by rw [hc, e.word_detail], by rw [hc, e.word_eflags], fun h a => ?_⟩
  change execBreakpoint c 0 a 0 s = _
  rw [execBreakpoint, State.sys_ready h]

/-- Events leave what says whether a step is in progress. -/
@[simp] theorem State.event_inStep (s : State) (code sev src : Nat) (args : List Nat) :
    (s.event code sev src args).inStep = s.inStep := by
  simp [State.inStep, State.committed]

/-- A core's fields say nothing about the step. -/
@[simp] theorem State.putCore_inStep (s : State) (c : CoreId) (k : Core) : (s.putCore c k).inStep = s.inStep := by
  simp [State.inStep, State.committed]

/-- While no step is in progress a fault aborts none. -/
theorem State.faultStep_idle {s : State} (h : s.inStep = false) : s.faultStep = s := by
  unfold State.faultStep
  rw [h]
  rfl

/-- An exception in handler mode. -/
theorem exceptionInHandlerHalts : Claims.ExceptionInHandlerHalts := by
  intro j s e hh hin k k'
  refine ⟨?_, e.word_inHandler⟩
  rw [State.raiseExc_handler s _ e hh]
  unfold State.haltCore
  simp only [State.core_putCore, State.putCore_putCore]
  rw [State.faultStep_idle (by simp [hin]), setBits_low_two]
  rfl

/-- RETX in handler mode (R196). -/
theorem exec_retx {c : CoreId} {s : State} (h : s.ready c false) (a : BitVec 5) (hh : (s.core c).inHandler = true) :
    exec (.retx c 0 a 0) s = .next (s.putCore c { s.core c with
      cause := setBit (s.core c).cause 31 false, pc := setBits (s.core c).vxpc 1 0 0, resume := bits (s.core c).index 12 0,
      resumed := true }) := by
  change execRetx c 0 a 0 s = _
  rw [execRetx, State.sys_ready h]
  exact congrArg Host.Outcome.next (if_pos hh)

/-- HALT outside handler mode ends the kernel; the dispatcher of an update core takes its record (R197, R296). -/
theorem exec_halt {c : CoreId} {s : State} (h : s.ready c false) (a : BitVec 5) (hh : (s.core c).inHandler = false) :
    exec (.halt c 0 a 0) s = .next (match c with
      | .jet _ => s.putCore c { (s.core c).advance with halted := true }
      | .upd r n => (s.putCore c { (s.core c).advance with halted := true }).modRunnel r fun x =>
          { x with staged := x.staged.set n.val { x.staged.get ⟨false, false, 0, 0, 0, false⟩ n.val with halted := true } }) := by
  change execHalt c 0 a 0 s = _
  rw [execHalt, State.sys_ready h]
  refine congrArg Host.Outcome.next ((if_neg (by simp [hh])).trans ?_)
  cases c <;> rfl

/-- A SYS instruction whose D or B is not zero is ILLEGAL. -/
theorem exec_sys_illegal {c : CoreId} {s : State} (h : s.ready c false) (a d b : BitVec 5) (hz : d ≠ 0 ∨ b ≠ 0) :
    ∀ p ∈ [(0, Instr.fence c d a b), (1, .waitc c d a b), (2, .waitm c d a b), (3, .retx c d a b), (4, .breakpoint c d a b),
      (5, .halt c d a b)], exec p.2 s = .next (s.raiseExc c (illegal (rillWord 0x0D ⟨d, a, b, BitVec.ofNat 11 p.1⟩) 1)) := by
  simp only [List.forall_mem_cons]
  refine ⟨?_, ?_, ?_, ?_, ?_, ?_, fun _ hp => nomatch hp⟩
  · exact (show execFence c d a b s = _ by rw [execFence, State.sys_illegal h d a b 0 _ hz]; rfl)
  · exact (show execWaitc c d a b s = _ by rw [execWaitc, State.sys_illegal h d a b 1 _ hz]; rfl)
  · exact (show execWaitm c d a b s = _ by rw [execWaitm, State.sys_illegal h d a b 2 _ hz]; rfl)
  · exact (show execRetx c d a b s = _ by rw [execRetx, State.sys_illegal h d a b 3 _ hz]; rfl)
  · exact (show execBreakpoint c d a b s = _ by rw [execBreakpoint, State.sys_illegal h d a b 4 _ hz]; rfl)
  · exact (show execHalt c d a b s = _ by rw [execHalt, State.sys_illegal h d a b 5 _ hz]; rfl)

/-- The SYS instructions. -/
theorem systemInstructionsComplete : Claims.SystemInstructionsComplete := by
  intro c a s h k
  refine ⟨?_, fun hb => ?_, fun hb => ?_, fun hb => ?_, fun hb => ?_, fun hh => ?_, fun hh => ?_, fun hh j hc => ?_,
    fun hh r n hc => ?_, exec_sys_illegal h a⟩
  · change execFence c 0 a 0 s = _
    rw [execFence, State.sys_ready h]
    rfl
  · change execWaitc c 0 a 0 s = _
    rw [execWaitc, State.sys_ready h]
    exact congrArg Host.Outcome.next (if_neg (Bool.eq_false_iff.mp hb))
  · change execWaitc c 0 a 0 s = _
    rw [execWaitc, State.sys_ready h]
    exact congrArg Host.Outcome.next (if_pos hb)
  · change execWaitm c 0 a 0 s = _
    rw [execWaitm, State.sys_ready h]
    exact congrArg Host.Outcome.next (if_neg (Bool.eq_false_iff.mp hb))
  · change execWaitm c 0 a 0 s = _
    rw [execWaitm, State.sys_ready h]
    exact congrArg Host.Outcome.next (if_pos hb)
  · refine ⟨_, exec_retx h a hh, ?_, ?_, ?_⟩
    · rw [Core.inHandler, getLsbD_setBit_false]
      exact Bool.and_false _
    · simp only [setBits_low_two, k]
      simp [bits]
    · ext i hi
      simp only [BitVec.getElem_extractLsb', Nat.zero_add, getLsbD_setBit_false]
      simp [show i ≠ 31 by omega, k]
  · change execRetx c 0 a 0 s = _
    rw [execRetx, State.sys_ready h]
    exact congrArg Host.Outcome.next (if_neg (Bool.eq_false_iff.mp hh))
  · subst hc
    exact exec_halt h a hh
  · subst hc
    refine ⟨_, exec_halt h a hh, rfl, ?_, ?_⟩
    · simp [State.core, State.putCore, k]
    · simp [State.putCore]

/-- Settles O4: the SYS instructions by their branch, exceptions by the mode they are raised in. -/
theorem exceptionsSetTheCauseRegisters : Obligations.ExceptionsSetTheCauseRegisters :=
  ⟨systemInstructionsComplete, exceptionEntrySetsCauseRegisters, exceptionInHandlerHalts⟩

/-! ## Held instructions -/

/-- Settles O5: each end of a wait is the instruction's own execution on the core without its hold. -/
theorem heldInstructionsIssueAgain : Obligations.HeldInstructionsIssueAgain := by
  intro j f s cycles c k free count both
  have go {i i' : Instr} {s' : State} (e : exec i s = exec i' s') : both i i' s' :=
    have ⟨t, ht, _⟩ := exec_to i' s'
    ⟨t, e.trans ht, ht⟩
  refine ⟨fun hk hq => go ?_, fun hk hq => go ?_, fun hk hq => go ?_, fun i hi hk => go ?_⟩
  · change execArrWaitEnd (.jet j) s = execArr (.jet j) f free
    unfold execArrWaitEnd
    rw [show (s.core (.jet j)).held = _ from hk]
    exact if_pos hq
  · change execMoveWaitEnd (.jet j) s = execMove (.jet j) f free
    unfold execMoveWaitEnd
    rw [show (s.core (.jet j)).held = _ from hk]
    exact if_pos hq
  · change execVspoutWaitEnd (.jet j) s = execVspout (.jet j) f free
    unfold execVspoutWaitEnd
    rw [show (s.core (.jet j)).held = _ from hk]
    exact if_pos hq
  · change execHazardHoldEnd (.jet j) cycles s = _
    unfold execHazardHoldEnd
    rw [show (s.core (.jet j)).held = _ from hk]
    unfold accessOf at hi
    split at hi
    case h_9 => cases hi
    all_goals
      cases of_decide_eq_true hi
      rfl

/-! ## Lane writes -/

/-- A table written at a number reads the value there, and every other number as before. -/
theorem Tbl.get_set_eq {α : Type} (d : α) (t : Tbl α) (k i : Nat) (v : α) :
    (t.set k v).get d i = if i = k then v else t.get d i := by
  by_cases h : i = k
  · simp [h]
  · rw [if_neg h, Tbl.get_set_ne _ _ _ _ _ h]

/-- Outside RESERVE a check leaves the record. -/
theorem State.reserveCheck_idle {s : State} (h : s.record.phase ≠ 7) :
    s.reserveCheck = { s with job := { s.job with heldLoaded := s.reserveCheck.job.heldLoaded } } := by
  have hw (b : Bool) : (s.record.phase == 7 && s.job.acked && s.job.predComplete && b) = false := by
    rw [beq_false_of_ne h]
    rfl
  unfold State.reserveCheck
  simp only [hw]
  rfl

/-- A check of RESERVE leaves every core. -/
theorem State.reserveCheck_core (s : State) (c : CoreId) : s.reserveCheck.core c = s.core c := by
  obtain ⟨b, r, h, _⟩ := s.reserveCheck_frame
  rw [h]
  cases c <;> rfl

/-- Settles O14: a lane write by the phase the record shows. -/
theorem laneWritesNeedTheirPhase : Obligations.LaneWritesNeedTheirPhase := by
  intro c k r n h v s lanes v'
  have hlt (hk : k.val < lanes) : ¬ lanes ≤ k.val := by omega
  have held (hp : s.record.phase = 0 ∨ s.record.phase = 7) : exec (.heldLaneWrite r n h v) s =
      .next (s.modCore (.upd r n) fun x => { x with heldLanes := x.heldLanes.set h.val (laneValue v) }).reserveCheck :=
    congrArg Host.Outcome.next (if_pos hp)
  refine ⟨fun hp hk => ⟨_, congrArg Host.Outcome.next ((if_neg (hlt hk)).trans (if_pos hp)), ?_, ?_, fun i => ?_⟩,
    fun hp hk => congrArg Host.Outcome.next ((if_neg (hlt hk)).trans (if_neg hp)),
    fun hp => ⟨_, held (.inl hp), ?_, fun c' hc' => ?_, ?_, fun i => ?_⟩,
    fun hp => ⟨_, held (.inr hp), fun i => ?_⟩,
    fun hp hp' => congrArg Host.Outcome.next (if_neg (by rintro (h | h); exacts [hp h, hp' h]))⟩
  · simp
  · simp
  · simp [Tbl.get_set_eq, v', laneValue]
  · rw [State.reserveCheck_idle (by rw [State.modCore_eq, State.putCore_record, hp]; decide)]
    rfl
  · rw [State.reserveCheck_core, State.modCore_eq, State.core_putCore_ne _ _ _ _ hc']
  · simp [State.reserveCheck_core]
  · simp [State.reserveCheck_core, Tbl.get_set_eq, v', laneValue]
  · simp [State.reserveCheck_core, Tbl.get_set_eq, v', laneValue]

end Sys2Proof.Machine
end

section
/-! Rill cores, CSR operations: a write of JT_VX_PC drops bits [1:0] (R198 to R203, R610). -/

namespace Sys2Proof.Machine

/-- Jet 0 executes, with 1 in s1. -/
def jetWithOne : State :=
  ({ State.reset with keeper := { State.reset.keeper with
      rails := true, aclkOn := true, step := 11, powerState := 0, ctrlReady := true, dataReady := true, ready := true } } : State).modCore
    (.jet 0) fun k => k.ws 1 1

/-- JT_VX_PC of jet 0 after a command. -/
def vxpcAfter (o : Out) : Option W64 :=
  match o with
  | .next t => some (t.core (.jet 0)).vxpc
  | _ => none

/-- Refutes O7: a CSR write of 1 to JT_VX_PC leaves 0 in it, since its bits [1:0] are no field; the statement has it hold the value
written, 1. -/
theorem not_csrOperationsActByAccessCode : ¬ Obligations.CsrOperationsActByAccessCode := by
  intro h
  have ready : jetWithOne.ready (.jet 0) false := ⟨by decide +kernel, Option.isNone_iff_eq_none.mp (by decide +kernel)⟩
  obtain ⟨_, _, _, _, _, _, vxpc, _, _⟩ := h (.jet 0) 0 1 0x118 jetWithOne ready
  have written := congrArg vxpcAfter (vxpc (by decide) _ List.mem_cons_self)
  exact absurd written (by decide +kernel)

end Sys2Proof.Machine
end

section
/-! Rill cores, memory reads of instructions: ARR and MOVE with the descriptors they queue, VLD and VST, and the moves of elements
(R169, R170, R173 to R175, R609). -/

namespace Sys2Proof.Machine

/-! ## Reads for an instruction -/

/-- Bytes that may be read, are in no hold and lie in words that can be used are read. -/
theorem State.coreRead_bytes {s : State} {c : CoreId} {a n : Nat} {bs : List Byte}
    (hacc : ∀ i < n, mayAccess c (s.core c) false ((a + i) % 2 ^ 64) = true) (hh : s.hazard c false a n = false)
    (hlen : bs.length = n) (hbs : ∀ i < n, byteAt (s.core c).store (a + i) = some (bs.getD i 0)) :
    s.coreRead c a n = .bytes bs (loadBytes (s.core c).store a n).2 := by
  subst hlen
  have hu : wordFault (s.core c) a bs.length 0 = none := wordFault_none _ a _ 0 fun j hj => by
    rw [Nat.zero_add, hbs j hj]; rfl
  unfold State.coreRead
  simp only [accessFault_zero_none hacc, hh, hu, loadBytes_read _ a bs hbs, Bool.false_eq_true, if_false]

/-! ## ARR and MOVE -/

section
variable {j : Fin 160} {f : RFields} {s : State}

/-- ARR whose descriptor is read: an illegal pass is ILLEGAL, a legal one joins the queue or waits for room. -/
theorem arrBody_read {n : Fin 8} {bs : List Byte} {m : Mem} (hd : f.d.toNat = 4 * n.val) (hb : f.b = 0) (hlo : f.lo = 0)
    (hread : s.coreRead (.jet j) ((s.core (.jet j)).rs f.a).toNat 16 = .bytes bs m) :
    arrBody (.jet j) f s =
      let p := parsePass (leNat bs)
      if !passLegal (s.jet j) n.val p || !(s.jet j).within s.logicalArrays n.val p.quad then
        s.raiseExc (.jet j) (illegal (rillWord 0x20 f) 4)
      else if 16 ≤ (s.arr j n).queue.length then s.hold (.jet j) .arrFull (.arr (.jet j) f)
      else (s.putCore (.jet j) ({ s.core (.jet j) with store := m } : Core).advance).modArr j n
        fun x => { x with queue := x.queue ++ [p] } := by
  have hq : f.d.toNat / 4 % 8 = n.val := by omega
  have hn : (⟨f.d.toNat / 4 % 8, by omega⟩ : Fin 8) = n := Fin.ext hq
  have hok : (f.d.toNat % 4 == 0 && f.b == 0 && f.lo == 0) = true := by rw [hd, hb, hlo]; simp
  simp only [arrBody, State.jetOnly, hn]
  refine (State.checked_pass (by simpa using hok) s _ _ _).trans ?_
  rw [hread]
  simp only [hq]
  rfl

/-- MOVE whose descriptor is read: it joins the mover's queue with its tag in D, or waits for room. -/
theorem moveBody_read {bs : List Byte} {m : Mem} (hb : f.b = 0) (hlo : f.lo = 0)
    (hread : s.coreRead (.jet j) ((s.core (.jet j)).rs f.a).toNat 64 = .bytes bs m) :
    moveBody (.jet j) f s =
      let p := parseMover ((s.core (.jet j)).rs f.a).toNat bs
      if 32 ≤ (s.jet j).mvQueue.length then s.hold (.jet j) .moveFull (.move (.jet j) f)
      else (s.putCore (.jet j) (({ s.core (.jet j) with store := m } : Core).ws f.d (BitVec.ofNat 64 p.tag)).advance).modJet j
        fun x => { x with mvQueue := x.mvQueue ++ [p] } := by
  simp only [moveBody, State.jetOnly]
  refine (State.checked_pass (by simp [hb, hlo]) s _ _ _).trans ?_
  rw [hread]

end

/-- Settles O12: the descriptor as read, by its legality and the room in its queue. -/
theorem arrAndMoveQueueTheirDescriptors : Obligations.ArrAndMoveQueueTheirDescriptors := by
  intro j f s h hwf c k a ok reads
  refine ⟨fun n bs hd hb hlo hok hbs => ?_, fun bs hb hlo hok hbs => ?_⟩
  · intro p legal
    have e : exec (.arr c f) s = .next (arrBody c f s) := State.rill_ready h _
    rw [arrBody_read hd hb hlo (State.coreRead_bytes hok.1 hok.2 hbs.1 hbs.2)] at e
    have hif : (!passLegal (s.jet j) n.val p || !(s.jet j).within s.logicalArrays n.val p.quad) = !legal := (Bool.not_and _ _).symm
    refine ⟨fun hl => ?_, fun hl => ⟨fun hq => ⟨_, byteAt_loadBytes k.store a 16 hwf, ?_⟩, fun hq => ?_⟩⟩
    · exact e.trans (congrArg _ (if_pos (by rw [hif, hl]; rfl)))
    · exact e.trans (congrArg _ ((if_neg (by rw [hif, hl]; decide)).trans (if_neg (by omega))))
    · exact e.trans (congrArg _ ((if_neg (by rw [hif, hl]; decide)).trans (if_pos hq)))
  · intro p
    have e : exec (.move c f) s = .next (moveBody c f s) := State.rill_ready h _
    rw [moveBody_read hb hlo (State.coreRead_bytes hok.1 hok.2 hbs.1 hbs.2)] at e
    refine ⟨fun hq => ⟨_, byteAt_loadBytes k.store a 64 hwf, ?_⟩, fun hq => ?_⟩
    · exact e.trans (congrArg _ (if_neg (by omega)))
    · exact e.trans (congrArg _ (if_pos hq))

/-! ## Bytes of a group -/

/-- The value of a group fits its registers. -/
theorem groupVal_lt (k : Core) (r : BitVec 5) (n : Nat) : groupVal k r n < 2 ^ (4096 * n) := by
  induction n with
  | zero => exact Nat.one_pos
  | succ n ih =>
    have hr := (k.rv (regAt r n)).isLt
    rw [groupVal, Nat.mul_succ, Nat.pow_add]
    nlinarith

/-- A byte of a little-endian number. -/
theorem elemOf_leNat (bs : List Byte) : ∀ i, elemOf 8 (leNat bs) i = (bs.getD i 0).toNat := by
  induction bs with
  | nil => intro i; simp [elemOf, leNat]
  | cons b t ih =>
    intro i
    have hb := b.isLt
    cases i with
    | zero =>
      have hmod : (b.toNat + 256 * leNat t) % 2 ^ 8 = b.toNat := by omega
      rw [elemOf_eq, leNat, Nat.pow_zero, Nat.div_one, hmod, List.getD_cons_zero]
    | succ i =>
      have hdiv : (b.toNat + 256 * leNat t) / 2 ^ 8 = leNat t := by omega
      rw [Nat.add_comm, ← elemOf_div, Nat.pow_one, leNat, hdiv, ih, Nat.add_comm, List.getD_cons_succ]

/-- Byte `i` of the bytes of a number is its element of width 8. -/
theorem leBytes_getD_elemOf (n v i : Nat) (h : i < n) : (leBytes n v).getD i 0 = BitVec.ofNat 8 (elemOf 8 v i) := by
  rw [leBytes_getD n v i h, elemOf_eq]
  exact BitVec.eq_of_toNat_eq (by simp only [BitVec.toNat_ofNat, Nat.mod_mod, Nat.reducePow])

/-! ## Stores of whole words -/

/-- A store that covers whole words writes each of its bytes, whatever the words held (R252). -/
theorem byteAt_storeBytes_whole {m : Mem} {a : Nat} {bs : List Byte} (h : m.wf = true) (ha : a % 32 = 0) (hb : bs.length % 32 = 0)
    {i : Nat} (hi : i < bs.length) : byteAt (storeBytes m a bs) (a + i) = some (bs.getD i 0) := by
  have main : ∀ (ws : List Nat) (m : Mem), m.wf = true → ws.Nodup → (a + i) / 32 ∈ ws →
      byteAt (storeInWords m ws a bs) (a + i) = some (bs.getD i 0) := by
    intro ws
    induction ws with
    | nil => exact fun _ _ _ hm => nomatch hm
    | cons w t ih =>
      intro m hm hn hw
      obtain ⟨hwt, hnt⟩ := List.nodup_cons.mp hn
      by_cases hp : (a + i) / 32 = w
      · refine (storeInWords_frame t a bs (a + i) (hp ▸ hwt) _ (storeInWord_wf m w a bs hm)).trans ?_
        rw [byteAt_storeInWord m w a bs hm, if_neg (not_not_intro hp), if_pos (.inl (by omega)), if_pos (by omega),
          Nat.add_sub_cancel_left]
      · exact ih _ (storeInWord_wf m w a bs hm) hnt ((List.mem_cons.mp hw).resolve_left hp)
  exact main _ m h (nodup_wordsOf _ _) (mem_wordsOf a _ i hi)

/-! ## VLD and VST -/

section
variable {c : CoreId} {f : RFields} {s : State} (hr : (s.core c).resume = 0) (hd : baseOk f.d (groupSize (fld f 15 14)) = true)
include hr hd

/-- VLD whose bytes can be read puts them into its group. -/
theorem vldBody_loads (hacc : ∀ i < 512 * groupSize (fld f 15 14),
      mayAccess c (s.core c) false ((vldAddr (s.core c) f + i) % 2 ^ 64) = true)
    (hh : s.hazard c false (vldAddr (s.core c) f) (512 * groupSize (fld f 15 14)) = false)
    (hs : ∀ i < 512 * groupSize (fld f 15 14), (byteAt (s.core c).store (vldAddr (s.core c) f + i)).isSome = true) :
    vldBody c f s =
      let g := groupSize (fld f 15 14)
      let x := loadBytes (s.core c).store (vldAddr (s.core c) f) (512 * g)
      s.putCore c (putGroup { s.core c with store := x.2 } f.d (leNat (x.1.map fun b => b.getD 0)) g).vdone := by
  have hu : wordFault (s.core c) (vldAddr (s.core c) f) (512 * groupSize (fld f 15 14)) 0 = none :=
    wordFault_none _ _ _ 0 fun j hj => by rw [Nat.zero_add]; exact hs j hj
  have hold : groupVal (s.core c) f.d (groupSize (fld f 15 14)) / 2 ^ (8 * (512 * groupSize (fld f 15 14))) = 0 := by
    rw [← Nat.mul_assoc]
    exact Nat.div_eq_of_lt (groupVal_lt _ _ _)
  unfold vldBody
  refine (State.checked_pass (by simpa using hd) s _ _ _).trans ?_
  simp only [hr, Nat.zero_min, moveSpan, Nat.sub_zero, Nat.add_zero, accessFault_zero_none hacc, hh, hu, hold, Bool.false_eq_true,
    if_false, Nat.mul_zero, Nat.pow_zero, Nat.mod_one, Nat.mul_one, Nat.zero_mul, Nat.zero_add]

/-- VST that may write stores the bytes of its group. -/
theorem vstBody_stores (hacc : ∀ i < 512 * groupSize (fld f 15 14),
      mayAccess c (s.core c) true ((vldAddr (s.core c) f + i) % 2 ^ 64) = true)
    (hh : s.hazard c true (vldAddr (s.core c) f) (512 * groupSize (fld f 15 14)) = false) :
    vstBody c f s =
      let g := groupSize (fld f 15 14)
      s.putCore c ({ s.core c with
        store := storeBytes (s.core c).store (vldAddr (s.core c) f) (leBytes (512 * g) (groupVal (s.core c) f.d g)) } : Core).vdone := by
  unfold vstBody
  refine (State.checked_pass (by simpa using hd) s _ _ _).trans ?_
  simp only [hr, Nat.zero_min, moveSpan, Nat.sub_zero, Nat.add_zero, accessFault_zero_none hacc, hh, Bool.false_eq_true, if_false,
    Nat.mul_zero, Nat.pow_zero, Nat.div_one]

end

/-- What a vector instruction's end leaves: the vector registers. -/
theorem Core.vdone_rv (k : Core) (r : BitVec 5) : k.vdone.rv r = k.rv r := by
  unfold Core.vdone
  split <;> rfl

theorem groupVal_vdone (k : Core) (r : BitVec 5) (n : Nat) : groupVal k.vdone r n = groupVal k r n :=
  groupVal_congr fun _ _ => k.vdone_rv _

/-- The vector registers do not take part in an instruction's end. -/
theorem Core.vdone_v (k : Core) : k.vdone.v = k.v := by
  unfold Core.vdone
  split <;> rfl

/-- VLD and VST. -/
theorem vectorLoadsAndStoresMoveBytes : Claims.VectorLoadsAndStoresMoveBytes := by
  intro c f s h hr hwf k g a hd
  have hbase : f.d.toNat + g ≤ 32 := base_add_groupSize_le hd
  refine ⟨fun hacc hh hs => ?_, fun hacc hh => ?_⟩
  · have e : exec (.vld c f) s = .next (vldBody c f s) := State.rill_ready h _
    rw [vldBody_loads hr hd hacc hh hs] at e
    set x := loadBytes k.store a (512 * g) with hx
    refine ⟨x.2, _, e, by rw [State.core_putCore], ?_, byteAt_loadBytes k.store a _ hwf, fun i hi => ?_, fun r hrr => ?_⟩
    · rw [State.core_putCore, Core.vdone_v]
      exact congrArg Core.vdone (putGroup_frame _ _ _ _)
    · have hb : x.1.map (fun b => b.getD 0) = (List.range (512 * g)).map fun i => (byteAt k.store (a + i)).getD 0 := by
        rw [hx, loadBytes_fst, List.map_map]
        rfl
      rw [State.core_putCore, groupVal_vdone, elemOf_groupVal_putGroup (e := 512) _ _ _ (by omega) rfl (by omega), elemOf_leNat, hb]
      obtain ⟨b, hbi⟩ := Option.isSome_iff_exists.mp (hs i hi)
      simp [hi, hbi]
    · rw [State.core_putCore, Core.vdone_rv, rv_putGroup_ne _ _ _ _ (ne_regAt hbase hrr)]
      rfl
  · have e : exec (.vst c f) s = .next (vstBody c f s) := State.rill_ready h _
    rw [vstBody_stores hr hd hacc hh] at e
    have hlen : (leBytes (512 * g) (groupVal k f.d g)).length = 512 * g := length_leBytes _ _
    refine ⟨_, e, fun p hp => byteAt_storeBytes_frame _ _ _ hwf p (by rwa [hlen]), fun i hi hs => ?_⟩
    rw [← leBytes_getD_elemOf (512 * g) _ i hi]
    rcases hs with hs | ha
    · exact byteAt_storeBytes _ a _ hwf i (by rwa [hlen]) hs
    · exact byteAt_storeBytes_whole hwf ha (by rw [hlen]; omega) (by rwa [hlen])

/-! ## VSPLAT, VGET and VPUT -/

/-- A counter that counts nothing stays as it is. -/
theorem satAdd_zero {w : Nat} (x : BitVec w) : satAdd x 0 = x := by
  unfold satAdd
  rw [Nat.add_zero, if_pos x.isLt, BitVec.ofNat_toNat, BitVec.setWidth_eq]

/-- An element without flags and events leaves the core. -/
theorem Core.accrue_count_none (k : Core) : (k.accrue 0).count {} = k := by
  have hf : k.fmt.count {} = k.fmt := by simp [Fmt.count, satAdd_zero]
  have ha : k.accrue 0 = k := by
    unfold Core.accrue
    rw [show BitVec.setWidth 32 (0 : IFlags) = 0 from rfl]
    simp only [BitVec.ofNat_eq_ofNat, BitVec.or_zero]
  rw [ha, Core.count, hf]

/-- Elements with values alone, the same core throughout: each is written in turn. -/
theorem runElems_values (w : Nat) (val : Nat → Nat) (k : Core) : ∀ n i acc, ∃ acc',
    runElems w (fun k' i => { val := val i, core := k' }) n i k acc = (acc', k, none) ∧
    ∀ j, elemOf w acc' j = if i ≤ j ∧ j < i + n then val j % 2 ^ w else elemOf w acc j := by
  intro n
  induction n with
  | zero => exact fun i acc => ⟨acc, rfl, fun j => by rw [if_neg (by omega)]⟩
  | succ n ih =>
    intro i acc
    obtain ⟨acc', hrun, hacc⟩ := ih (i + 1) (putElem w acc i (val i))
    refine ⟨acc', ?_, fun j => ?_⟩
    · rw [runElems]
      simp only [Core.traps, Core.accrue_count_none]
      exact (if_neg (not_not.mpr BitVec.zero_and)).trans hrun
    · rw [hacc, elemOf_putElem]
      by_cases hj : j = i
      · rw [if_neg (by omega), if_pos hj, if_pos (by omega), hj]
      · rw [if_neg hj]
        exact if_congr (by omega) rfl rfl

/-- An element of a register that holds a value. -/
theorem elemOf_ofNat {w n v : Nat} (hw : w * (4096 / w) = 4096) (hn : n < 4096 / w) :
    elemOf w (BitVec.ofNat 4096 v).toNat n = elemOf w v n := by
  have hp : (2 : Nat) ^ 4096 = (2 ^ w) ^ (4096 / w) := by rw [← Nat.pow_mul, hw]
  rw [BitVec.toNat_ofNat, hp, elemOf_mod w v hn]

/-- A group of one register is the register. -/
theorem putGroup_one (k : Core) (d : BitVec 5) (v : Nat) : putGroup k d v 1 = k.wv d (BitVec.ofNat 4096 v) := by
  rw [putGroup, putGroup, regAt, Nat.mul_zero, Nat.shiftRight_zero, BitVec.add_zero]

/-- The scalar an element is read into (R609). -/
theorem redScalar_eq (t v : Nat) : redScalar t v =
    if 3 ≤ t then BitVec.ofInt 64 (BitVec.ofNat (typeWidth t) v).toInt else BitVec.ofNat 64 v := rfl

/-- VSPLAT, VGET and VPUT. -/
theorem vectorMovesMoveElements : Claims.VectorMovesMoveElements := by
  intro c d a b lo s h hok k w i
  have hw : w * (4096 / w) = 4096 := typeWidth_mul _
  refine ⟨fun hr => ?_, fun hi => ⟨?_, ?_⟩, fun hi => ⟨?_, ?_⟩⟩
  · obtain ⟨acc, hrun, hacc⟩ := runElems_values w (fun _ => (k.rs a).toNat) k (4096 / w) 0 (groupVal k d 1)
    refine ⟨BitVec.ofNat 4096 (acc % 2 ^ (w * (4096 / w))), ?_, fun n hn => ?_⟩
    · change execVsplat c d a b lo s = _
      rw [execVsplat, State.rill_ready h, ← putGroup_one]
      refine congrArg _ ((State.checked_pass (by simpa using hok) s _ _ _).trans (State.runVec_done ?_))
      rw [show (s.core c).resume = 0 from hr, Nat.zero_min]
      exact hrun
    · rw [elemOf_ofNat hw hn, Nat.pow_mul, elemOf_mod w acc hn, hacc, if_pos (by omega)]
  · change execVget c d a b lo s = _
    rw [execVget, State.rill_ready h, ← redScalar_eq]
    exact congrArg _ (State.checked_pass (by simpa using ⟨hok, hi⟩) s _ _ _)
  · refine ⟨BitVec.ofNat 4096 (putElem w (k.rv d).toNat i (k.rs a).toNat), ?_, fun n hn => ?_⟩
    · change execVput c d a b lo s = _
      rw [execVput, State.rill_ready h]
      exact congrArg _ (State.checked_pass (by simpa using ⟨hok, hi⟩) s _ _ _)
    · rw [elemOf_ofNat hw hn, elemOf_putElem]
  · change execVget c d a b lo s = _
    rw [execVget, State.rill_ready h]
    simp only [State.checked]
    rw [List.find?_cons_of_neg (by simp [hok]), List.find?_cons_of_pos (by simpa using hi)]
    rfl
  · change execVput c d a b lo s = _
    rw [execVput, State.rill_ready h]
    simp only [State.checked]
    rw [List.find?_cons_of_neg (by simp [hok]), List.find?_cons_of_pos (by simpa using hi)]
    rfl

/-- Settles O8: the moves by the element they name, VLD and VST by the bytes of their group. -/
theorem vectorMovesAndVectorMemoryComplete : Obligations.VectorMovesAndVectorMemoryComplete :=
  ⟨vectorMovesMoveElements, vectorLoadsAndStoresMoveBytes⟩

end Sys2Proof.Machine
end

section
/-! Rill cores: FSC, reductions of integers and random numbers (R163, R165 to R167, R180, R186, R189). -/

namespace Sys2Proof.Machine

/-! ## FSC -/

/-- The rounding of a scalar JF16 operation (R179, R186): under FRM 5 with a draw of the scalar lane. -/
theorem Core.jfRnd_lane (k : Core) (lane : Nat) : k.jfRnd lane =
    (if k.frm == 5 then .stoch (draw16 (k.draw lane).1) else Rnd.ofFrm k.frm, if k.frm == 5 then (k.draw lane).2 else k) := by
  unfold Core.jfRnd
  by_cases h : k.frm = 5 <;> simp [h]

/-- What an element of a floating function gives: the core after its draw, and its value, flags and events. -/
theorem fpElem_eq (t f5 lane : Nat) (k : Core) (a b : Nat) :
    let draws := t == 2 && !isCmp f5 && k.frm == 5
    let r := if draws then .stoch (draw16 (k.draw lane).1) else Rnd.ofFrm k.frm
    let v : Nat × IFlags × Ev :=
      if t = 2 then ((fpJf r f5 a b).1, 0, (fpJf r f5 a b).2)
      else ((fpBinary (typeFmt t) r f5 a b).1, (fpBinary (typeFmt t) r f5 a b).2, {})
    fpElem t f5 lane k a b =
      { val := v.1, fl := v.2.1, ev := v.2.2, core := if draws then (k.draw lane).2 else k } := by
  intro draws r v
  unfold fpElem
  by_cases ht : t = 2
  · cases hc : isCmp f5 with
    | true => simp [v, draws, ht, hc, fpJf_cmp hc r .even]
    | false => simp [v, r, draws, ht, hc, Core.jfRnd_lane]
  · simp [v, r, draws, ht]

/-- What an element of a fused multiply-add gives. -/
theorem fmaElem_eq (t lane : Nat) (k : Core) (a b d : Nat) :
    let draws := t == 2 && k.frm == 5
    let r := if draws then .stoch (draw16 (k.draw lane).1) else Rnd.ofFrm k.frm
    let v : Nat × IFlags × Ev :=
      if t = 2 then ((jfFma r false false a b d).1, 0, (jfFma r false false a b d).2)
      else (((typeFmt t).fma r false false a b d).1, ((typeFmt t).fma r false false a b d).2, {})
    fmaElem t lane false false k a b d =
      { val := v.1, fl := v.2.1, ev := v.2.2, core := if draws then (k.draw lane).2 else k } := by
  intro draws r v
  unfold fmaElem
  by_cases ht : t = 2
  · simp [v, r, draws, ht, Core.jfRnd_lane]
  · simp [v, r, draws, ht]

/-- The element of FSC: a fused multiply-add for F5 0x1F, else the function of VFP (R163). -/
def fscElem (k : Core) (t f5 a b d : Nat) : ElemOut :=
  if f5 = 0x1F then fmaElem t k.slane false false k a b d else fpElem t f5 k.slane k a b

/-- FSC on a core that executes, of which nothing traps. -/
theorem exec_fsc {c : CoreId} {f : RFields} {s : State} (h : s.ready c true) :
    let k := s.core c
    let t := fld f 3 1
    let f5 := fld f 10 6
    let w := typeWidth t
    let draws := t == 2 && !isCmp f5 && k.frm == 5
    let e := fscElem k t f5 ((k.rs f.a).toNat % 2 ^ w) ((k.rs f.b).toNat % 2 ^ w) ((k.rs f.d).toNat % 2 ^ w)
    k.resume = 0 → (fpOk t f5 = true ∨ (t ≤ 2 ∧ f5 = 0x1F)) → fld f 5 4 = 0 → fld f 0 0 = 0 →
    (draws = true → k.inHandler = false) → k.traps e.fl = 0 →
    exec (.fsc c f) s = .next (s.putCore c
      (let k' := ((e.core.accrue e.fl).count e.ev).ws f.d (BitVec.ofNat 64 e.val)
       if draws && k.ctrl.getLsbD 22 then { k' with ctrl := setBits k'.ctrl 21 16 ((k.slane + 1) % 64) } else k').vdone) := by
  intro k t f5 w draws e hr hf h5 h0 hd ht
  change execFsc c f s = _
  rw [execFsc, State.rill_ready h]
  refine congrArg _ ((State.checked_pass ?_ s c _ _).trans ?_)
  · simp only [List.forall_mem_cons, Bool.and_eq_true, Bool.or_eq_true, beq_iff_eq, decide_eq_true_eq]
    refine ⟨⟨⟨hf.imp_right And.symm, h5⟩, h0⟩, ?_, fun _ hp => nomatch hp⟩
    cases hb : draws with
    | true => rw [show (t == 2 && !isCmp f5 && k.frm == 5) = true from hb, hd hb]; rfl
    | false => rw [show (t == 2 && !isCmp f5 && k.frm == 5) = false from hb]; rfl
  · refine (if_neg (by rw [show (s.core c).resume = 0 from hr]; decide)).trans ?_
    exact if_neg (not_not.mpr ht)

/-! ## Integer reductions -/

/-- The tree of an integer SUM adds its leaves modulo 2^64, and raises nothing (R180). -/
theorem redTree_sum {te : IFlags} {t : Nat} (ht : 3 ≤ t) : ∀ (fuel i : Nat) (l : List Nat), l.length ≤ 2 ^ fuel →
    (∀ x ∈ l, x < 2 ^ 64) → redTree te (redAdd t) fuel i l = { val := l.sum % 2 ^ 64 } := by
  intro fuel
  induction fuel with
  | zero =>
    intro i l hl hx
    match l, hl with
    | [], _ => rfl
    | [x], _ => rw [redTree, List.sum_singleton, Nat.mod_eq_of_lt (hx x List.mem_cons_self), List.headD_cons]
  | succ fuel ih =>
    intro i l hl hx
    rw [redTree]
    by_cases h1 : l.length ≤ 1
    · rw [if_pos h1]
      match l, h1 with
      | [], _ => rfl
      | [x], _ => rw [List.sum_singleton, Nat.mod_eq_of_lt (hx x List.mem_cons_self), List.headD_cons]
    · rw [if_neg h1]
      have hne : l.length - 1 ≠ 0 := by omega
      have hlo : 2 ^ Nat.log2 (l.length - 1) ≤ l.length - 1 := Nat.log2_self_le hne
      have hhi : l.length - 1 < 2 ^ (Nat.log2 (l.length - 1) + 1) := Nat.lt_log2_self
      have hf : Nat.log2 (l.length - 1) ≤ fuel := by
        have : Nat.log2 (l.length - 1) < fuel + 1 := (Nat.log2_lt hne).mpr (by omega)
        omega
      have hp : 2 ^ Nat.log2 (l.length - 1) ≤ 2 ^ fuel := Nat.pow_le_pow_right (by decide) hf
      rw [Nat.pow_succ] at hhi hl
      simp only []
      generalize 2 ^ Nat.log2 (l.length - 1) = p at *
      rw [ih i _ (by rw [List.length_take]; omega) fun x h => hx x (List.mem_of_mem_take h),
        ih (i + p) _ (by rw [List.length_drop]; omega) fun x h => hx x (List.mem_of_mem_drop h)]
      have hsum : l.sum = (l.take p).sum + (l.drop p).sum := by rw [← List.sum_append, List.take_append_drop]
      have hte : (0 : IFlags) &&& te = 0 := BitVec.zero_and
      simp only [redAdd, if_pos ht, hte, if_true]
      rw [hsum, Nat.add_mod (l.take p).sum]
      rfl

/-- The sum of numbers in two's complement is the number of their sum. -/
theorem sum_sext_toNat (w : Nat) (es : List Nat) :
    BitVec.ofNat 64 ((es.map fun e => (sext w e).toNat).sum % 2 ^ 64) = BitVec.ofInt 64 (es.map (toSigned w)).sum := by
  have e : ∀ l : List Nat, BitVec.ofNat 64 (l.map fun e => (sext w e).toNat).sum = BitVec.ofInt 64 (l.map (toSigned w)).sum := by
    intro l
    induction l with
    | nil => rfl
    | cons x l ih =>
      rw [List.map_cons, List.map_cons, List.sum_cons, List.sum_cons, BitVec.ofNat_add, ih, BitVec.ofInt_add, BitVec.ofNat_toNat,
        BitVec.setWidth_eq]
      rfl
  rw [← e]
  exact BitVec.eq_of_toNat_eq (by simp only [BitVec.toNat_ofNat, Nat.mod_mod])

/-- An integer MAX or MIN: the element that beats every one before it and is beaten by none after it wins (R180). -/
theorem redWinner_first {t : Nat} {max : Bool} {w : Nat → Nat → Bool} (hw : ∀ a b, redWins t max a b = w a b) (g : Nat → Nat) :
    ∀ (n i o : Nat), i < n → (∀ j < n, w (g (o + i)) (g (o + j)) = false) → (∀ j < i, w (g (o + j)) (g (o + i)) = true) →
    redWinner t max ((List.range' o n).map fun j => (j, g j)) = some (o + i, g (o + i)) := by
  intro n
  induction n with
  | zero => intro i o hi; omega
  | succ n ih =>
    intro i o hi hmax hfirst
    rw [List.range'_succ, List.map_cons, redWinner]
    cases i with
    | zero =>
      cases hr : redWinner t max ((List.range' (o + 1) n).map fun j => (j, g j)) with
      | none => rfl
      | some p =>
        have hmem : ∀ (l : List (Nat × Nat)) p, redWinner t max l = some p → p ∈ l := by
          intro l
          induction l with
          | nil => intro p h; cases h
          | cons q l ihl =>
            intro p h
            rw [redWinner] at h
            cases hl : redWinner t max l with
            | none => rw [hl] at h; cases h; exact List.mem_cons_self
            | some r =>
              rw [hl] at h
              simp only [] at h
              split at h
              · cases h; exact List.mem_cons_of_mem _ (ihl _ hl)
              · cases h; exact List.mem_cons_self
        obtain ⟨j, hj, hp⟩ := List.mem_map.mp (hmem _ _ hr)
        rw [List.mem_range'_1] at hj
        subst hp
        have hno : redWins t max (g o) (g j) = false := by
          have := hmax (j - o) (by omega)
          rw [hw]
          rwa [Nat.add_zero, show o + (j - o) = j by omega] at this
        simp only [hno, Nat.add_zero, Bool.false_eq_true, if_false]
    | succ i =>
      have hs (j : Nat) : o + (j + 1) = o + 1 + j := by omega
      have hwin := ih i (o + 1) (by omega) (fun j hj => by rw [← hs, ← hs]; exact hmax (j + 1) (by omega))
        (fun j hj => by rw [← hs, ← hs]; exact hfirst (j + 1) (by omega))
      rw [hwin]
      have hyes : redWins t max (g o) (g (o + 1 + i)) = true := by
        rw [hw, ← hs]
        exact hfirst 0 (by omega)
      rw [hs i]
      simp only [hyes, if_true]

/-- The elements of VRED's source group. -/
def redElems (k : Core) (f : RFields) : List Nat :=
  (List.range (groupSize (fld f 5 4) * (4096 / typeWidth (fld f 3 1)))).map fun i =>
    elemOf (typeWidth (fld f 3 1)) (groupVal k f.a (groupSize (fld f 5 4))) i

/-- A group has at most 4,096 elements. -/
theorem length_redElems (k : Core) (f : RFields) : (redElems k f).length ≤ 2 ^ 13 := by
  have hg : groupSize (fld f 5 4) ≤ 8 := by
    have hlt : fld f 5 4 % 4 < 4 := Nat.mod_lt _ (by decide)
    unfold groupSize
    generalize fld f 5 4 % 4 = e at *
    interval_cases e <;> decide
  have hw : 4096 / typeWidth (fld f 3 1) ≤ 512 := by
    unfold typeWidth
    split <;> decide
  rw [redElems, List.length_map, List.length_range]
  nlinarith

section
variable {c : CoreId} {f : RFields} {s : State} (h : s.ready c true) (h3 : 3 ≤ fld f 3 1) (h6 : fld f 3 1 ≤ 6)
  (hb : f.b = 0) (h0 : fld f 0 0 = 0) (hbase : baseOk f.a (groupSize (fld f 5 4)) = true)
include h h3 h6 hb h0 hbase

/-- The checks of an integer VRED pass. -/
theorem vred_checks (hfn : fld f 10 6 ≤ 2) (hd : fld f 10 6 = 0 ∨ f.d ≠ 31) :
    ∀ p ∈ [(decide (fld f 3 1 ≤ 6) && decide (fld f 10 6 ≤ 2) && f.b == 0 && fld f 0 0 == 0 && (fld f 10 6 == 0 || f.d != 31), dEnc),
      (baseOk f.a (groupSize (fld f 5 4)), dBase)], p.1 = true := by
  simp only [List.forall_mem_cons, Bool.and_eq_true, Bool.or_eq_true, beq_iff_eq, decide_eq_true_eq, bne_iff_ne]
  exact ⟨⟨⟨⟨⟨h6, hfn⟩, hb⟩, h0⟩, hd⟩, hbase, fun _ hp => nomatch hp⟩

/-- An integer SUM writes the sum modulo 2^64 (R180). -/
theorem exec_vred_sum (hfn : fld f 10 6 = 0) :
    exec (.vred c f) s = .next (s.putCore c ((s.core c).ws f.d
      (BitVec.ofInt 64 ((redElems (s.core c) f).map (toSigned (typeWidth (fld f 3 1)))).sum)).vdone) := by
  have hsum := redTree_sum (te := (s.core c).te) h3 13 0
    ((redElems (s.core c) f).map fun e => (sext (typeWidth (fld f 3 1)) e).toNat)
    (by rw [List.length_map]; exact length_redElems _ _) (by
      intro x hx
      obtain ⟨e, -, rfl⟩ := List.mem_map.mp hx
      exact BitVec.isLt _)
  change execVred c f s = _
  rw [execVred, State.rill_ready h]
  refine congrArg _ ((State.checked_pass (vred_checks h h3 h6 hb h0 hbase (by omega) (.inl hfn)) s c _ _).trans ?_)
  refine (if_pos hfn).trans ?_
  simp only [if_pos h3]
  unfold redElems at hsum
  rw [hsum]
  simp only [Core.accrue_count_none, sum_sext_toNat]
  rfl

/-- An integer MAX or MIN writes its winner and the winner's index (R180). -/
theorem exec_vred_win (hfn : fld f 10 6 = 1 ∨ fld f 10 6 = 2) (hd : f.d ≠ 31) {i e : Nat}
    (hwin : redWinner (fld f 3 1) (fld f 10 6 == 1) ((redElems (s.core c) f).zipIdx.map fun p => (p.2, p.1)) = some (i, e)) :
    exec (.vred c f) s = .next (s.putCore c (((s.core c).ws f.d
      (BitVec.ofInt 64 (toSigned (typeWidth (fld f 3 1)) e))).ws (f.d + 1) (BitVec.ofNat 64 i)).vdone) := by
  have hany (l : List Nat) : (l.any fun e => decide (fld f 3 1 < 2) && (typeFmt (fld f 3 1)).isSnan e) = false := by
    rw [decide_eq_false (by omega)]
    simp
  have hskip (v : Nat) : redSkips (fld f 3 1) v = false := if_pos h3
  have hscalar : redScalar (fld f 3 1) e = BitVec.ofInt 64 (toSigned (typeWidth (fld f 3 1)) e) := if_pos h3
  have htrap : (s.core c).traps 0 = 0 := BitVec.zero_and
  change execVred c f s = _
  rw [execVred, State.rill_ready h]
  refine congrArg _ ((State.checked_pass (vred_checks h h3 h6 hb h0 hbase (by omega) (.inr hd)) s c _ _).trans ?_)
  refine (if_neg (by omega)).trans ?_
  unfold redElems at hwin
  simp only [hany, Bool.false_eq_true, if_false, htrap, ne_eq, not_true, hskip, Bool.not_false, List.filter_true, hwin,
    show fld f 3 1 ≠ 2 by omega, Core.accrue_count_none, hscalar]

end

/-- The elements with their indices. -/
theorem redElems_zipIdx (k : Core) (f : RFields) : (redElems k f).zipIdx.map (fun p => (p.2, p.1)) =
    (List.range' 0 (groupSize (fld f 5 4) * (4096 / typeWidth (fld f 3 1)))).map fun j =>
      (j, elemOf (typeWidth (fld f 3 1)) (groupVal k f.a (groupSize (fld f 5 4))) j) := by
  refine List.ext_getElem (by simp [redElems]) fun i h1 h2 => ?_
  simp [redElems]

/-- Which of two integers wins: the greater of a MAX, the less of a MIN (R180). -/
theorem redWins_int {t : Nat} (h3 : 3 ≤ t) (max : Bool) (a b : Nat) : redWins t max a b =
    if max then decide (toSigned (typeWidth t) a < toSigned (typeWidth t) b)
    else decide (toSigned (typeWidth t) b < toSigned (typeWidth t) a) := by
  simp only [redWins, if_pos h3]

/-! ## VRAND -/

/-- A random element: one draw of its lane, and no flag (R189). -/
theorem elemGives_draw (k : Core) (start : Nat) (val : W64 → Nat) :
    ElemGives k true start (fun k' i => { val := val (k'.draw (i % 64)).1, core := (k'.draw (i % 64)).2 })
      (fun i => val (k.drawAt start i)) (fun _ => 0) := by
  intro k' i h
  exact ⟨congrArg val (Core.drawnTo_draw (h.2 rfl)), rfl, rfl⟩

/-- The value of VRAND's function for a draw (R189). -/
def randVal (fn : Nat) (o : W64) : Nat :=
  match fn with
  | 0 => o.toNat
  | 1 => (b64.round .even false (o.toNat >>> 11) (-53) false).1
  | _ => (b32.round .even false (o.toNat >>> 40) (-24) false).1

/-- VRAND outside handler mode draws each element of its group. -/
theorem vrand_done {c : CoreId} {f : RFields} {s : State} (h : s.ready c true) (ha : f.a = 0) (hb : f.b = 0) (h0 : fld f 3 0 = 0)
    (hbase : baseOk f.d (groupSize (fld f 5 4)) = true) (hh : (s.core c).inHandler = false) {w n : Nat}
    (hfn : fld f 10 6 ≤ 2) (hw : (if fld f 10 6 = 2 then 32 else 64) = w)
    (hn : groupSize (fld f 5 4) * (4096 / w) = n) :
    s.vectorDone c (.vrand c f) f.d (groupSize (fld f 5 4)) w (min (s.core c).resume n) n fun i =>
      randVal (fld f 10 6) ((s.core c).drawAt (min (s.core c).resume n) i) := by
  subst hn
  have hw' : w * (4096 / w) = 4096 := by
    subst hw
    split <;> rfl
  have he : exec (.vrand c f) s = .next (s.runVec c f.d (groupSize (fld f 5 4)) w (groupSize (fld f 5 4) * (4096 / w)) fun k' i =>
      { val := randVal (fld f 10 6) (k'.draw (i % 64)).1, core := (k'.draw (i % 64)).2 }) := by
    change execVrand c f s = _
    rw [execVrand, State.rill_ready h]
    refine congrArg _ ((State.checked_pass ?_ s c _ _).trans ?_)
    · simp only [List.forall_mem_cons, Bool.and_eq_true, beq_iff_eq, decide_eq_true_eq]
      exact ⟨⟨⟨⟨ha, hb⟩, hfn⟩, h0⟩, hbase, by rw [hh]; rfl, fun _ hp => nomatch hp⟩
    · simp only [hw]
      rfl
  exact State.vectorDone_of_runVec hw' (base_add_groupSize_le hbase) he (elemGives_draw _ _ _) fun _ _ => BitVec.zero_and

/-! ## The statement -/

/-- Settles O10: FSC by its one element, VRED by its tree and its winner, VRAND by its draws. -/
theorem scalarFloatReductionAndRandomComplete : Obligations.ScalarFloatReductionAndRandomComplete := by
  intro c f s h k t f5 g w n a b es
  refine ⟨fun hr hok h5 h0 => ?_, fun h3 h6 hb h0 hbase => ⟨fun hf => ?_, fun hd i hi => ⟨fun hf hmax hfst => ?_, fun hf hmin hfst => ?_⟩⟩,
    fun ha hb h0 hbase hh => ⟨fun hf => ?_, fun hf => ?_, fun hf => ?_⟩⟩
  · intro d draws o k1 r v hdraw ht k2
    have helem : fscElem k t f5 a b d = { val := v.1, fl := v.2.1, ev := v.2.2, core := k1 } := by
      unfold fscElem
      by_cases hf : f5 = 0x1F
      · have hc : isCmp f5 = false := by rw [hf]; rfl
        have hd : (t == 2 && k.frm == 5) = draws := by simp [draws, hc]
        rw [if_pos hf, fmaElem_eq, hd]
        simp only [v, if_pos hf]
        by_cases ht2 : t = 2
        · simp only [if_pos ht2]; rfl
        · simp only [if_neg ht2]; rfl
      · rw [if_neg hf, fpElem_eq]
        simp only [v, if_neg hf]
        by_cases ht2 : t = 2
        · simp only [if_pos ht2]; rfl
        · simp only [if_neg ht2]; rfl
    have e := exec_fsc (f := f) h hr hok h5 h0 hdraw (by
      rw [show fscElem (s.core c) (fld f 3 1) (fld f 10 6) _ _ _ = _ from helem]
      exact ht)
    rw [show fscElem (s.core c) (fld f 3 1) (fld f 10 6) _ _ _ = _ from helem] at e
    exact e
  · rw [exec_vred_sum h h3 h6 hb h0 hbase hf, redElems, List.map_map]
    rfl
  · have hwin := redWinner_first (redWins_int h3 true) (fun j => elemOf w (groupVal k f.a g) j) n i 0 hi
      (fun j hj => by rw [Nat.zero_add, Nat.zero_add]; exact decide_eq_false (not_lt.mpr (hmax j hj)))
      (fun j hj => by rw [Nat.zero_add, Nat.zero_add]; exact decide_eq_true (hfst j hj))
    rw [Nat.zero_add] at hwin
    exact exec_vred_win h h3 h6 hb h0 hbase (.inl hf) hd (by rw [redElems_zipIdx, show fld f 10 6 = 1 from hf]; exact hwin)
  · have hwin := redWinner_first (redWins_int h3 false) (fun j => elemOf w (groupVal k f.a g) j) n i 0 hi
      (fun j hj => by rw [Nat.zero_add, Nat.zero_add]; exact decide_eq_false (not_lt.mpr (hmin j hj)))
      (fun j hj => by rw [Nat.zero_add, Nat.zero_add]; exact decide_eq_true (hfst j hj))
    rw [Nat.zero_add] at hwin
    exact exec_vred_win h h3 h6 hb h0 hbase (.inr hf) hd (by rw [redElems_zipIdx, show fld f 10 6 = 2 from hf]; exact hwin)
  · have e := vrand_done (w := 64) (n := 64 * g) h ha hb h0 hbase hh (le_of_eq_of_le hf (by decide))
      (by rw [show fld f 10 6 = 0 from hf]; rfl) (Nat.mul_comm _ _)
    rw [show fld f 10 6 = 0 from hf] at e
    simp only [randVal] at e
    exact e
  · have e := vrand_done (w := 64) (n := 64 * g) h ha hb h0 hbase hh (le_of_eq_of_le hf (by decide))
      (by rw [show fld f 10 6 = 1 from hf]; rfl) (Nat.mul_comm _ _)
    rw [show fld f 10 6 = 1 from hf] at e
    simp only [randVal, Nat.shiftRight_eq_div_pow] at e
    exact e
  · have e := vrand_done (w := 32) (n := 128 * g) h ha hb h0 hbase hh (le_of_eq hf)
      (by rw [show fld f 10 6 = 2 from hf]; rfl) (Nat.mul_comm _ _)
    rw [show fld f 10 6 = 2 from hf] at e
    simp only [randVal, Nat.shiftRight_eq_div_pow] at e
    exact e

end Sys2Proof.Machine
end

section
/-! Rill cores, conversions: what an instruction that writes whole elements leaves, then VCVT, VCVTB, VCVTW and VCVTSB by their elements
and their blocks (R60, R70, R182 to R186). -/

namespace Sys2Proof.Machine

/-! ## Registers of a conversion -/

/-- A conversion's operand takes 1, 2, 4 or 8 registers. -/
theorem regsOf_dvd (g : Nat) {a b : Nat} (hab : a ≤ b) (hb : b ≤ 6) : regsOf g (2 ^ a) (2 ^ b) ∣ 32 := by
  have hlt : g % 4 < 4 := Nat.mod_lt _ (by decide)
  unfold regsOf groupSize
  generalize g % 4 = e at *
  interval_cases b <;> interval_cases a <;> interval_cases e <;> decide

/-- The elements of a conversion fill at most the registers of its operand. -/
theorem elems_le_regsOf (g : Nat) {a b : Nat} (hab : a ≤ b) (hb : b ≤ 6) :
    groupSize g * (4096 / 2 ^ b) ≤ regsOf g (2 ^ a) (2 ^ b) * (4096 / 2 ^ a) := by
  have hlt : g % 4 < 4 := Nat.mod_lt _ (by decide)
  unfold regsOf groupSize
  generalize g % 4 = e at *
  interval_cases b <;> interval_cases a <;> interval_cases e <;> decide

/-- An aligned operand ends within the 32 registers (R159). -/
theorem base_add_le {r : BitVec 5} {n : Nat} (hn : n ∣ 32) (h : baseOk r n = true) : r.toNat + n ≤ 32 := by
  have hr : n ∣ r.toNat := Nat.dvd_of_mod_eq_zero (by simpa [baseOk] using h)
  have hlt := r.isLt
  have hsub : n ∣ 32 - r.toNat := Nat.dvd_sub hn hr
  have := Nat.le_of_dvd (by omega) hsub
  omega

/-- The widths of the types are powers of two. -/
theorem typeWidth_pow (t : Nat) : ∃ a, 3 ≤ a ∧ a ≤ 6 ∧ typeWidth t = 2 ^ a := by
  unfold typeWidth
  split
  · exact ⟨6, by decide, by decide, rfl⟩
  · exact ⟨5, by decide, by decide, rfl⟩
  · exact ⟨4, by decide, by decide, rfl⟩
  · exact ⟨6, by decide, by decide, rfl⟩
  · exact ⟨5, by decide, by decide, rfl⟩
  · exact ⟨4, by decide, by decide, rfl⟩
  · exact ⟨3, by decide, by decide, rfl⟩

/-! ## Elements above a value -/

/-- A value below a place has no digit from that place on. -/
theorem elemOf_of_lt {w v m j : Nat} (h : v < 2 ^ (w * m)) (hj : m ≤ j) : elemOf w v j = 0 := by
  rw [elemOf, Nat.shiftRight_eq_div_pow, Nat.div_eq_of_lt (lt_of_lt_of_le h (Nat.pow_le_pow_right (by decide) (Nat.mul_le_mul_left w hj))),
    Nat.zero_mod]

/-- A value cut at a place keeps the digits below it and has none above. -/
theorem elemOf_cut (w v m j : Nat) : elemOf w (v % 2 ^ (w * m)) j = if j < m then elemOf w v j else 0 := by
  split
  · next h => rw [Nat.pow_mul, elemOf_mod w v h]
  · next h => exact elemOf_of_lt (Nat.mod_lt _ (Nat.two_pow_pos _)) (by omega)

/-! ## What a vector instruction leaves -/

/-- An instruction that ends with its destination written: what `vectorDone` says of it. -/
theorem State.vectorDone_of_put {s : State} {c : CoreId} {i : Instr} {d : BitVec 5} {nd w start count V : Nat} {val : Nat → Nat}
    {k' : Core} (hw : w * (4096 / w) = 4096) (hd : d.toNat + nd ≤ 32) (hran : (s.core c).ranFrom k')
    (hexec : exec i s = .next (s.putCore c (putGroup k' d V nd).vdone))
    (hV : ∀ j < nd * (4096 / w), elemOf w V j =
      if j < start then elemOf w (groupVal (s.core c) d nd) j else if j < count then val j % 2 ^ w else 0) :
    s.vectorDone c i d nd w start count val := by
  refine ⟨putGroup k' d V nd, hexec, ?_, fun r hr => ?_, fun j hj => ?_⟩
  · have e := putGroup_ranFrom hran d V nd
    rw [e]
  · rw [rv_putGroup_ne _ _ _ _ (ne_regAt hd hr), Core.ranFrom_rv hran]
  · rw [elemOf_groupVal_putGroup _ _ _ (by omega) hw hj, hV j hj]

/-- Elements `start` to `n - 1` run over a value, cut behind them. -/
theorem elemOf_ran {w n start acc old : Nat} {val : Nat → Nat} (hs : start ≤ n)
    (h : ∀ j, elemOf w acc j = if start ≤ j ∧ j < start + (n - start) then val j % 2 ^ w else elemOf w old j) (j : Nat) :
    elemOf w (acc % 2 ^ (w * n)) j = if j < start then elemOf w old j else if j < n then val j % 2 ^ w else 0 := by
  rw [elemOf_cut, h]
  by_cases hn : j < n
  · by_cases hjs : j < start
    · rw [if_pos hn, if_neg (by omega), if_pos hjs]
    · rw [if_pos hn, if_pos (by omega), if_neg hjs, if_pos hn]
  · rw [if_neg hn, if_neg (by omega), if_neg hn]

/-- An instruction over `n` elements of which none traps, in registers that may hold more. -/
theorem State.vectorDone_of_elems {s : State} {c : CoreId} {i : Instr} {d : BitVec 5} {nd w n : Nat} {fn : Core → Nat → ElemOut}
    {draws : Bool} {val : Nat → Nat} {fl : Nat → IFlags} (hw : w * (4096 / w) = 4096) (hd : d.toNat + nd ≤ 32)
    (hexec : exec i s = .next (s.runVec c d nd w n fn))
    (h : ElemGives (s.core c) draws (min (s.core c).resume n) fn val fl) (ht : ∀ j < n, fl j &&& (s.core c).te = 0) :
    s.vectorDone c i d nd w (min (s.core c).resume n) n val := by
  obtain ⟨acc, k', hrun, ⟨hran, -⟩, hacc⟩ := runElems_run (w := w) h 0 (n - min (s.core c).resume n) (min (s.core c).resume n)
    (s.core c) (groupVal (s.core c) d nd) (Nat.le_refl _) ((s.core c).ranTo_start draws _) fun j _ hj => ht j (by omega)
  exact State.vectorDone_of_put hw hd hran (hexec.trans (congrArg _ (State.runVec_done hrun)))
    fun j _ => elemOf_ran (Nat.min_le_right _ _) hacc j

/-- The same for an instruction that always starts at element 0 (R182). -/
theorem State.vectorDone_of_whole {s : State} {c : CoreId} {i : Instr} {d : BitVec 5} {nd w n : Nat} {fn : Core → Nat → ElemOut}
    {draws : Bool} {val : Nat → Nat} {fl : Nat → IFlags} (hw : w * (4096 / w) = 4096) (hd : d.toNat + nd ≤ 32)
    (hexec : exec i s = .next (s.runVecWhole c d nd w n fn))
    (h : ElemGives (s.core c) draws 0 fn val fl) (ht : ∀ j < n, fl j &&& (s.core c).te = 0) :
    s.vectorDone c i d nd w 0 n val := by
  obtain ⟨acc, k', hrun, ⟨hran, -⟩, hacc⟩ := runElems_run (w := w) h 0 n 0 (s.core c) (groupVal (s.core c) d nd) (Nat.le_refl _)
    ((s.core c).ranTo_start draws 0) fun j _ hj => ht j (by omega)
  refine State.vectorDone_of_put hw hd hran (hexec.trans (congrArg _ ?_)) fun j _ => elemOf_ran (Nat.zero_le n) hacc j
  rw [Nat.add_zero] at hrun
  unfold State.runVecWhole
  simp only [hrun]
  rfl

/-! ## VCVT -/

/-- The value of a conversion of VCVT to JF16: the source rounded. -/
theorem cvtElem_jf (t rnd lane : Nat) (k : Core) (x : Nat) :
    let src : Src := if 3 ≤ t then .fin (decide (toSigned (typeWidth t) x < 0)) (toSigned (typeWidth t) x).natAbs 0 else typeSrc t x
    (cvtElem t 2 rnd lane k x).val = (jfRound (cvtRnd rnd 2 lane k).1 src).1 ∧ (cvtElem t 2 rnd lane k x).fl = 0 ∧
      (cvtElem t 2 rnd lane k x).core = (cvtRnd rnd 2 lane k).2 := by
  intro src
  unfold cvtElem
  by_cases h3 : 3 ≤ t
  · simp [src, h3]
  · by_cases h2 : t = 2
    · simp [src, h2, typeSrc]
    · simp [src, h3, h2, typeSrc]

/-- A conversion that draws nothing depends on the core's rounding mode only. -/
theorem cvtElem_still {t dt rnd : Nat} {k k' : Core} (hdt : dt ≠ 2) (hfrm : k'.frm = k.frm) (lane x : Nat) :
    (cvtElem t dt rnd lane k' x).val = (cvtElem t dt rnd 0 k x).val ∧ (cvtElem t dt rnd lane k' x).fl = (cvtElem t dt rnd 0 k x).fl ∧
      (cvtElem t dt rnd lane k' x).core = k' := by
  have hr (k : Core) (lane : Nat) : cvtRnd rnd dt lane k = (Rnd.ofFrm (if rnd = 6 then k.frm else rnd), k) := by
    simp [cvtRnd, hdt]
  unfold cvtElem
  simp only [hr, hfrm, if_neg hdt]
  split_ifs <;> exact ⟨rfl, rfl, rfl⟩

/-- The rounding of element `i` of a conversion to JF16, and the core after its draw (R179, R186). -/
theorem cvtRnd_eq {k k' : Core} {rnd start i : Nat} (h : k.ranTo (cvtDraws rnd 2 k) start i k') :
    cvtRnd rnd 2 (i % 64) k' =
      (if cvtDraws rnd 2 k then .stoch (draw16 (k.drawAt start i)) else Rnd.ofFrm (if rnd = 6 then k.frm else rnd),
        if cvtDraws rnd 2 k then (k'.draw (i % 64)).2 else k') := by
  obtain ⟨hran, hdrawn⟩ := h
  have hs : (2 == 2 && (rnd == 5 || (rnd == 6 && k'.frm == 5))) = cvtDraws rnd 2 k := by
    rw [cvtDraws, Core.ranFrom_frm hran]
  unfold cvtRnd
  simp only [hs]
  cases hd : cvtDraws rnd 2 k with
  | true => simp only [if_true, ← Core.drawnTo_draw (hdrawn hd)]
  | false => simp [Core.ranFrom_frm hran]

/-- An element of VCVT: its value and flags, and a draw where it rounds stochastically (R182, R186). -/
theorem elemGives_cvt (k : Core) (t dt rnd start : Nat) (x : Nat → Nat) :
    let src (i : Nat) : Src :=
      if 3 ≤ t then .fin (decide (toSigned (typeWidth t) (x i) < 0)) (toSigned (typeWidth t) (x i)).natAbs 0 else typeSrc t (x i)
    let r (i : Nat) : Rnd :=
      if cvtDraws rnd dt k then .stoch (draw16 (k.drawAt start i)) else Rnd.ofFrm (if rnd = 6 then k.frm else rnd)
    ElemGives k (cvtDraws rnd dt k) start (fun k' i => cvtElem t dt rnd (i % 64) k' (x i))
      (fun i => if dt = 2 then (jfRound (r i) (src i)).1 else (cvtElem t dt rnd 0 k (x i)).val)
      (fun i => if dt = 2 then 0 else (cvtElem t dt rnd 0 k (x i)).fl) := by
  intro src r k' i h
  by_cases hdt : dt = 2
  · subst hdt
    obtain ⟨hval, hfl, hcore⟩ := cvtElem_jf t rnd (i % 64) k' (x i)
    rw [cvtRnd_eq h] at hval hcore
    exact ⟨hval.trans (if_pos rfl).symm, hfl.trans (if_pos rfl).symm, hcore⟩
  · have hno : cvtDraws rnd dt k = false := by simp [cvtDraws, hdt]
    obtain ⟨hval, hfl, hcore⟩ := cvtElem_still (t := t) (rnd := rnd) hdt (Core.ranFrom_frm h.1) (i % 64) (x i)
    rw [hno]
    exact ⟨hval.trans (if_neg hdt).symm, hfl.trans (if_neg hdt).symm, hcore⟩

/-- VCVT on a core that executes: its elements, all of them where it converts in place to another width (R182). -/
theorem exec_vcvt {c : CoreId} {f : RFields} {s : State} (h : s.ready c true) :
    let k := s.core c
    let dt := fld f 15 13
    let t := fld f 3 1
    let rnd := fld f 10 8
    let dw := typeWidth dt
    let sw := typeWidth t
    let nd := regsOf (fld f 5 4) dw (max dw sw)
    let ns := regsOf (fld f 5 4) sw (max dw sw)
    let n := groupSize (fld f 5 4) * (4096 / max dw sw)
    let fn := fun (k' : Core) i => cvtElem t dt rnd (i % 64) k' (elemOf sw (groupVal k f.a ns) i)
    dt ≤ 6 → t ≤ 6 → rnd ≤ 6 → (rnd = 5 → dt = 2) → fld f 12 11 = 0 → fld f 7 6 = 0 → fld f 0 0 = 0 →
    (cvtDraws rnd dt k = true → k.inHandler = false) → baseOk f.d nd = true → baseOk f.a ns = true → inPlaceOk f.d nd f.a ns = true →
    exec (.vcvt c f) s = .next (if f.d = f.a ∧ dw ≠ sw then s.runVecWhole c f.d nd dw n fn else s.runVec c f.d nd dw n fn) := by
  intro k dt t rnd dw sw nd ns n fn hdt ht hrnd h5 h12 h7 h0 hdraw hd ha hp
  change execVcvt c f s = _
  rw [execVcvt, State.rill_ready h]
  refine congrArg _ (State.checked_pass ?_ s c _ _)
  simp only [List.forall_mem_cons, Bool.and_eq_true, Bool.not_eq_true', Bool.and_eq_false_iff, beq_iff_eq, decide_eq_true_eq,
    beq_eq_false_iff_ne, bne_eq_false_iff_eq]
  refine ⟨⟨⟨⟨⟨⟨⟨hdt, ht⟩, hrnd⟩, ?_⟩, h12⟩, h7⟩, h0⟩, ⟨hd, ha⟩, hp, ?_, fun _ hp => nomatch hp⟩
  · exact Decidable.or_iff_not_imp_left.mpr fun hn => h5 (not_not.mp hn)
  · cases hc : cvtDraws rnd dt k with
    | true => exact .inr (hdraw hc)
    | false => exact .inl rfl

/-! ## VCVTB over plain integers, and VCVTW -/

/-- The rounding of an element that may draw, and the core after it (R186). -/
def rndOf (draws : Bool) (k : Core) (lane : Nat) : Rnd × Core :=
  if draws then (.stoch (draw16 (k.draw lane).1), (k.draw lane).2) else (.even, k)

/-- The rounding of element `i` of a run. -/
theorem rndOf_eq {k k' : Core} {draws : Bool} {start i : Nat} (h : k.ranTo draws start i k') : rndOf draws k' (i % 64) =
    (if draws then .stoch (draw16 (k.drawAt start i)) else .even, if draws then (k'.draw (i % 64)).2 else k') := by
  unfold rndOf
  cases draws with
  | true => simp only [if_true, ← Core.drawnTo_draw (h.2 rfl)]
  | false => rfl

/-- An element of VCVTB to a plain integer raises no flag (R67, R183). -/
theorem elemGives_encodeInt (k : Core) (fi : IntFmt) (stoch : Bool) (factor start : Nat) (src : Nat → Src) :
    ElemGives k stoch start
      (fun k' i => { val := (encodeInt fi (rndOf stoch k' (i % 64)).1 (srcMul (src i) factor)).1,
                     ev := (encodeInt fi (rndOf stoch k' (i % 64)).1 (srcMul (src i) factor)).2, core := (rndOf stoch k' (i % 64)).2 })
      (fun i => (encodeInt fi (if stoch then .stoch (draw16 (k.drawAt start i)) else .even) (srcMul (src i) factor)).1)
      fun _ => 0 := by
  intro k' i h
  simp only [rndOf_eq h]
  exact ⟨trivial, trivial, trivial⟩

/-- The element of VCVTW: a source rounded to its destination type (R184). -/
def cvtwElem (t : Nat) (draws : Bool) (src : Nat → Src) (k : Core) (i : Nat) : ElemOut :=
  if t = 2 then
    let r := rndOf draws k (i % 64)
    if (src i).isPoison then { val := jfPoison, core := r.2 }
    else { val := (jfRound r.1 (src i)).1, ev := (jfRound r.1 (src i)).2, core := r.2 }
  else { val := (srcToIF (typeFmt t) (src i)).1, fl := (srcToIF (typeFmt t) (src i)).2, core := k }

/-- The element of VCVTW by the form of its source. -/
theorem cvtwElem_eq (t : Nat) (draws : Bool) (src : Nat → Src) (k : Core) (i : Nat) : cvtwElem t draws src k i =
    if t = 2 then
      let (rnd, k') := if draws then (let (o, k') := k.draw (i % 64); (Rnd.stoch (draw16 o), k')) else (Rnd.even, k)
      match src i with
      | .poison => { val := jfPoison, core := k' }
      | x => let (y, ev) := jfRound rnd x; { val := y, ev := ev, core := k' }
    else
      let (y, fl) := srcToIF (typeFmt t) (src i)
      { val := y, fl := fl, core := k } := by
  unfold cvtwElem rndOf
  split
  · cases draws <;> cases src i <;> rfl
  · rfl

/-- The value of an element of VCVTW. -/
def cvtwVal (t : Nat) (draws : Bool) (src : Nat → Src) (k : Core) (start i : Nat) : Nat :=
  if t = 2 then
    if (src i).isPoison then jfPoison
    else (jfRound (if draws then .stoch (draw16 (k.drawAt start i)) else .even) (src i)).1
  else (srcToIF (typeFmt t) (src i)).1

theorem elemGives_cvtw (k : Core) (t : Nat) (draws : Bool) (hd : draws = true → t = 2) (src : Nat → Src) (start : Nat) :
    ElemGives k draws start (cvtwElem t draws src) (cvtwVal t draws src k start)
      (fun i => if t = 2 then 0 else (srcToIF (typeFmt t) (src i)).2) := by
  intro k' i h
  unfold cvtwElem cvtwVal
  by_cases ht : t = 2
  · simp only [if_pos ht, rndOf_eq h]
    split <;> exact ⟨rfl, rfl, rfl⟩
  · have hno : draws = false := Bool.eq_false_iff.mpr fun hc => ht (hd hc)
    simp only [if_neg ht, hno, Bool.false_eq_true, if_false]
    exact ⟨trivial, trivial, trivial⟩

/-- Elements written in turn whatever flags they raise (R184). -/
theorem foldElems_run {k : Core} {draws : Bool} {start w : Nat} {fn : Core → Nat → ElemOut} {val : Nat → Nat} {fl : Nat → IFlags}
    (h : ElemGives k draws start fn val fl) (old : Nat) : ∀ m, ∃ acc k',
    (List.range m).foldl (fun (p : Nat × Core) j =>
      let e := fn p.2 (start + j)
      (putElem w p.1 (start + j) e.val, (e.core.accrue e.fl).count e.ev)) (old, k) = (acc, k') ∧
    k.ranTo draws start (start + m) k' ∧
    ∀ j, elemOf w acc j = if start ≤ j ∧ j < start + m then val j % 2 ^ w else elemOf w old j := by
  intro m
  induction m with
  | zero => exact ⟨old, k, rfl, k.ranTo_start draws start, fun j => by rw [if_neg (by omega)]⟩
  | succ m ih =>
    obtain ⟨acc, k', hfold, hran, hacc⟩ := ih
    obtain ⟨hval, -, hcore⟩ := h k' (start + m) hran
    refine ⟨putElem w acc (start + m) (val (start + m)), _, ?_, Core.ranTo_succ (by omega) hran (fn k' (start + m)).fl
      (fn k' (start + m)).ev, fun j => ?_⟩
    · rw [List.range_succ, List.foldl_append, hfold]
      simp only [List.foldl_cons, List.foldl_nil, hval, hcore]
    · rw [elemOf_putElem, hacc]
      by_cases hj : j = start + m
      · rw [if_pos hj, if_pos (by omega), hj]
      · rw [if_neg hj]
        exact if_congr (by omega) rfl rfl

/-! ## Values written element by element -/

/-- The elements of a list written into a value. -/
def putAll (w : Nat) (l : List (Nat × Nat)) (v : Nat) : Nat := l.foldl (fun v p => putElem w v p.1 p.2) v

/-- Elements that agree with a function: those written have its values, the others stay. -/
theorem elemOf_putAll {w : Nat} {F : Nat → Nat} : ∀ (l : List (Nat × Nat)), (∀ p ∈ l, p.2 % 2 ^ w = F p.1) → ∀ v j,
    elemOf w (putAll w l v) j = if j ∈ l.map Prod.fst then F j else elemOf w v j := by
  intro l
  induction l with
  | nil => intro _ v j; rfl
  | cons p l ih =>
    intro h v j
    have e := ih (fun q hq => h q (List.mem_cons_of_mem _ hq)) (putElem w v p.1 p.2) j
    change elemOf w (putAll w l (putElem w v p.1 p.2)) j = _
    rw [e, List.map_cons]
    by_cases hj : j ∈ l.map Prod.fst
    · rw [if_pos hj, if_pos (List.mem_cons_of_mem _ hj)]
    · rw [if_neg hj, elemOf_putElem]
      by_cases hp : j = p.1
      · rw [if_pos hp, if_pos (hp ▸ List.mem_cons_self), h p List.mem_cons_self, hp]
      · rw [if_neg hp, if_neg fun hm => (List.mem_cons.mp hm).elim hp hj]

/-- Codes written one after another from element `o` on. -/
theorem elemOf_foldl_zipIdx (w o : Nat) (codes : List Nat) (v j : Nat) :
    elemOf w (codes.zipIdx.foldl (fun v p => putElem w v (o + p.2) p.1) v) j =
      if o ≤ j ∧ j < o + codes.length then codes.getD (j - o) 0 % 2 ^ w else elemOf w v j := by
  have hl : codes.zipIdx.foldl (fun v p => putElem w v (o + p.2) p.1) v = putAll w (codes.zipIdx.map fun p => (o + p.2, p.1)) v := by
    rw [putAll, List.foldl_map]
  rw [hl, elemOf_putAll (F := fun j => codes.getD (j - o) 0 % 2 ^ w)]
  · refine if_congr ?_ rfl rfl
    simp only [List.map_map, List.mem_map, Function.comp_apply]
    constructor
    · rintro ⟨p, hp, rfl⟩
      have := (List.mem_zipIdx hp).2.1
      omega
    · intro hj
      exact ⟨(codes[j - o]'(by omega), j - o), List.mem_zipIdx_iff_getElem?.mpr (by simp), by simp only; omega⟩
  · intro p hp
    obtain ⟨q, hq, rfl⟩ := List.mem_map.mp hp
    have hg := List.mem_zipIdx_iff_getElem?.mp hq
    simp only [Nat.add_sub_cancel_left, List.getD_eq_getElem?_getD, hg, Option.getD_some]

/-! ## VCVTB over blocks -/

/-- The draws of a block, and the lanes after it (R186). -/
theorem drawList_eq {k : Core} : ∀ (n i : Nat) (k' : Core), k.ranTo true 0 i k' →
    (drawList k' i n).1 = ((List.range n).map fun p => draw16 (k.drawAt 0 (i + p))) ∧ k.ranTo true 0 (i + n) (drawList k' i n).2 := by
  intro n
  induction n with
  | zero => exact fun i k' h => ⟨rfl, h⟩
  | succ n ih =>
    intro i k' h
    have hnext : k.ranTo true 0 (i + 1) (k'.draw (i % 64)).2 :=
      ⟨Core.ranFrom_draw h.1 _, fun _ => Core.drawnTo_succ (Nat.zero_le _) (h.2 rfl)⟩
    obtain ⟨hl, hr⟩ := ih (i + 1) _ hnext
    refine ⟨?_, by rw [Nat.add_right_comm i 1 n] at hr; exact hr⟩
    rw [List.range_succ_eq_map, List.map_cons, List.map_map]
    simp only [drawList, hl, Core.drawnTo_draw (h.2 rfl), Nat.add_zero, Function.comp_def, Nat.add_assoc, Nat.add_comm 1]

/-- A block has as many codes as elements. -/
theorem length_encodeElems (f : BlkFmt) (stoch rescue : Bool) (unit q : Int) (noTop : Bool) : ∀ (xs : List Src) (rs : List Nat),
    (encodeElems f stoch rescue unit q noTop xs rs).1.length = xs.length := by
  intro xs
  induction xs with
  | nil => exact fun _ => rfl
  | cons x xs ih => exact fun rs => congrArg Nat.succ (ih _)

theorem length_encodeBlock (f : BlkFmt) (stoch rescue : Bool) (rs : List Nat) (xs : List Src) :
    (encodeBlock f stoch rescue rs xs).2.1.length = xs.length := by
  unfold encodeBlock encodeBlockFrom
  simp only []
  split_ifs <;> simp [length_encodeElems]

/-- A register outside a group keeps the group's value when it is written. -/
theorem groupVal_wv {k : Core} {r x : BitVec 5} {n : Nat} (hn : r.toNat + n ≤ 32) (h : overlaps x.toNat 1 r.toNat n = false)
    (v : BitVec 4096) : groupVal (k.wv x v) r n = groupVal k r n := by
  refine groupVal_congr fun i hi => Core.rv_wv_ne _ _ _ _ (Ne.symm (ne_regAt hn ?_ i hi))
  simp only [overlaps, Bool.and_eq_false_iff, decide_eq_false_iff_not, not_lt] at h
  omega

/-- Counting events is no draw. -/
theorem Core.ranTo_count {k k' : Core} {draws : Bool} {start i : Nat} (h : k.ranTo draws start i k') (ev : Ev) :
    k.ranTo draws start i (k'.count ev) := by
  obtain ⟨⟨flags, fmt, lanes, held, rfl⟩, hdrawn⟩ := h
  exact ⟨⟨_, _, _, _, rfl⟩, hdrawn⟩

/-- Draws leave the flags. -/
theorem Core.draw_flags (k : Core) (n : Nat) : (k.draw n).2.flags = k.flags := by
  unfold Core.draw
  split <;> rfl

theorem drawList_flags : ∀ (n i : Nat) (k : Core), (drawList k i n).2.flags = k.flags := by
  intro n
  induction n with
  | zero => exact fun _ _ => rfl
  | succ n ih => exact fun i k => (ih (i + 1) _).trans (k.draw_flags _)

/-- Block `b` of a VCVTB from element 0 (R60, R183). -/
def cvtbBlk (k : Core) (bf : BlkFmt) (stoch : Bool) (src : Nat → Src) (b : Nat) : Nat × List Nat × Ev :=
  encodeBlock bf stoch true ((List.range 32).map fun p => draw16 (k.drawAt 0 (32 * b + p))) ((List.range 32).map fun p => src (32 * b + p))

theorem cvtbBlock_eq {k k' : Core} {bf : BlkFmt} {stoch : Bool} {src : Nat → Src} {b v ex : Nat} (h : k.ranTo true 0 (32 * b) k') :
    cvtbBlock bf stoch src 0 b (v, ex, k') =
      ((cvtbBlk k bf stoch src b).2.1.zipIdx.foldl (fun v p => putElem bf.width v (32 * b + p.2) p.1) v,
        putElem 8 ex b (cvtbBlk k bf stoch src b).1, (drawList k' (32 * b) 32).2.count (cvtbBlk k bf stoch src b).2.2) := by
  unfold cvtbBlock
  refine (if_neg (by omega)).trans ?_
  simp only [Nat.zero_sub, Nat.add_zero, Nat.sub_zero, List.replicate_zero, List.nil_append, List.drop_zero,
    (drawList_eq 32 (32 * b) k' h).1]
  rfl

/-- The blocks of a VCVTB in turn. -/
theorem foldl_cvtbBlock (k : Core) (bf : BlkFmt) (stoch : Bool) (src : Nat → Src) (v0 ex0 : Nat) : ∀ m, ∃ v ex k',
    (List.range m).foldl (fun acc b => cvtbBlock bf stoch src 0 b acc) (v0, ex0, k) = (v, ex, k') ∧
    k.ranTo true 0 (32 * m) k' ∧ k'.flags = k.flags ∧
    (∀ j < 32 * m, elemOf bf.width v j = (cvtbBlk k bf stoch src (j / 32)).2.1.getD (j % 32) 0 % 2 ^ bf.width) ∧
    ∀ b < m, elemOf 8 ex b = (cvtbBlk k bf stoch src b).1 % 256 := by
  intro m
  induction m with
  | zero => exact ⟨v0, ex0, k, rfl, k.ranTo_start true 0, rfl, fun j hj => by omega, fun b hb => by omega⟩
  | succ m ih =>
    obtain ⟨v, ex, k', hfold, hran, hflags, hv, hex⟩ := ih
    have hlen : (cvtbBlk k bf stoch src m).2.1.length = 32 := by
      rw [cvtbBlk, length_encodeBlock, List.length_map, List.length_range]
    have hnext := Core.ranTo_count (drawList_eq 32 (32 * m) k' hran).2 (cvtbBlk k bf stoch src m).2.2
    refine ⟨(cvtbBlk k bf stoch src m).2.1.zipIdx.foldl (fun v p => putElem bf.width v (32 * m + p.2) p.1) v,
      putElem 8 ex m (cvtbBlk k bf stoch src m).1, _, ?_, hnext, (drawList_flags 32 _ k').trans hflags, fun j hj => ?_, fun b hb => ?_⟩
    · rw [List.range_succ, List.foldl_append, hfold, List.foldl_cons, List.foldl_nil, cvtbBlock_eq hran]
    · rw [elemOf_foldl_zipIdx, hlen]
      by_cases hm : j < 32 * m
      · rw [if_neg (by omega), hv j hm]
      · rw [if_pos (by omega), show j / 32 = m by omega, show j % 32 = j - 32 * m by omega]
    · rw [elemOf_putElem]
      by_cases hm : b = m
      · rw [if_pos hm, hm]
        rfl
      · rw [if_neg hm, hex b (by omega)]

/-! ## VCVTSB -/

/-- Block `b` of a VCVTSB (R70, R185). -/
def cvtsbBlk (P : Nat) (src : Nat → Src) (b : Nat) : Nat × List Int × Ev := encodeSb P ((List.range 32).map fun p => src (32 * b + p))

/-- A block of VCVTSB has as many integers as elements. -/
theorem length_cvtsbBlk (P : Nat) (src : Nat → Src) (b : Nat) : (cvtsbBlk P src b).2.1.length = 32 := by
  unfold cvtsbBlk encodeSb encodeSbFrom
  simp only []
  split_ifs <;> simp

/-- The bytes that block `b` of VCVTSB writes: byte plane by byte plane for each of its integers (R185). -/
def sbWrites (P n b : Nat) (ns : List Int) : List (Nat × Nat) :=
  ns.zipIdx.flatMap fun p => (List.range P).map fun i => (i * n + 32 * b + p.2, sbPlane P p.1 i)

theorem foldl_sbWrites (P n b : Nat) (ns : List Int) (x : Nat) :
    ns.zipIdx.foldl (fun x p => (List.range P).foldl (fun x i => putElem 8 x (i * n + 32 * b + p.2) (sbPlane P p.1 i)) x) x =
      putAll 8 (sbWrites P n b ns) x := by
  rw [putAll, sbWrites, List.foldl_flatMap]
  simp only [List.foldl_map]

/-- The byte that VCVTSB puts at element `j` of its destination. -/
def sbByte (P n : Nat) (src : Nat → Src) (j : Nat) : Nat :=
  sbPlane P ((cvtsbBlk P src (j % n / 32)).2.1.getD (j % n % 32) 0) (j / n)

/-- Byte `i` of plane `p`. -/
theorem sbByte_plane (P : Nat) {n : Nat} (src : Nat → Src) (p : Nat) {i : Nat} (hi : i < n) :
    sbByte P n src (p * n + i) = sbPlane P ((cvtsbBlk P src (i / 32)).2.1.getD (i % 32) 0) p := by
  rw [sbByte, Nat.mul_comm, Nat.mul_add_mod, Nat.mod_eq_of_lt hi, Nat.mul_add_div (by omega), Nat.div_eq_of_lt hi, Nat.add_zero]

/-- A block's writes, where they fall within the planes. -/
theorem elemOf_sbWrites {P n b : Nat} {src : Nat → Src} (hb : 32 * b + 32 ≤ n) (x p i : Nat) (hp : p < P) (hi : i < n) :
    elemOf 8 (putAll 8 (sbWrites P n b (cvtsbBlk P src b).2.1) x) (p * n + i) =
      if 32 * b ≤ i ∧ i < 32 * b + 32 then sbByte P n src (p * n + i) else elemOf 8 x (p * n + i) := by
  have hlen := length_cvtsbBlk P src b
  rw [elemOf_putAll (F := sbByte P n src)]
  · refine if_congr ?_ rfl rfl
    simp only [sbWrites, List.map_flatMap, List.map_map, List.mem_flatMap, List.mem_map, List.mem_range, Function.comp_apply]
    constructor
    · rintro ⟨q, hq, i', hi', he⟩
      have hq2 := (List.mem_zipIdx hq).2.1
      have hlt : 32 * b + q.2 < n := by omega
      have hmod : (i' * n + 32 * b + q.2) % n = (p * n + i) % n := by rw [he]
      rw [Nat.add_assoc, Nat.mul_comm, Nat.mul_add_mod, Nat.mul_comm p, Nat.mul_add_mod, Nat.mod_eq_of_lt hlt, Nat.mod_eq_of_lt hi] at hmod
      omega
    · intro h
      refine ⟨((cvtsbBlk P src b).2.1[i - 32 * b]'(by omega), i - 32 * b), List.mem_zipIdx_iff_getElem?.mpr (by simp), p, hp, ?_⟩
      simp only
      omega
  · intro w hw
    simp only [sbWrites, List.mem_flatMap, List.mem_map, List.mem_range] at hw
    obtain ⟨q, hq, i', hi', rfl⟩ := hw
    have hq2 := (List.mem_zipIdx hq).2.1
    have hg := List.mem_zipIdx_iff_getElem?.mp hq
    have hidx : i' * n + 32 * b + q.2 = i' * n + (32 * b + q.2) := Nat.add_assoc _ _ _
    rw [hidx, sbByte_plane P src i' (by omega), show (32 * b + q.2) / 32 = b by omega, show (32 * b + q.2) % 32 = q.2 by omega,
      List.getD_eq_getElem?_getD, hg, Option.getD_some]
    exact Nat.mod_mod _ _

/-- A step of VCVTSB from element 0. -/
def sbStep (P n : Nat) (src : Nat → Src) (acc : Nat × Nat × Ev) (b : Nat) : Nat × Nat × Ev :=
  (putAll 8 (sbWrites P n b (cvtsbBlk P src b).2.1) acc.1, putElem 16 acc.2.1 b (cvtsbBlk P src b).1,
    acc.2.2.add (cvtsbBlk P src b).2.2)

/-- The blocks of a VCVTSB in turn. -/
theorem foldl_sbStep (P n : Nat) (src : Nat → Src) : ∀ m, 32 * m ≤ n →
    (∀ p < P, ∀ i < 32 * m, elemOf 8 ((List.range m).foldl (sbStep P n src) (0, 0, {})).1 (p * n + i) = sbByte P n src (p * n + i)) ∧
    ∀ b, elemOf 16 ((List.range m).foldl (sbStep P n src) (0, 0, {})).2.1 b =
      if b < m then (cvtsbBlk P src b).1 % 65536 else 0 := by
  intro m
  induction m with
  | zero => exact fun _ => ⟨fun p _ i hi => by omega, fun b => by simp [elemOf]⟩
  | succ m ih =>
    intro hm
    obtain ⟨hx, hex⟩ := ih (by omega)
    rw [List.range_succ, List.foldl_append, List.foldl_cons, List.foldl_nil]
    refine ⟨fun p hp i hi => ?_, fun b => ?_⟩
    · rw [sbStep, elemOf_sbWrites (by omega) _ p i hp (by omega)]
      by_cases hb : 32 * m ≤ i
      · rw [if_pos (by omega)]
      · rw [if_neg (by omega), hx p hp i (by omega)]
    · rw [sbStep, elemOf_putElem, hex]
      by_cases hb : b = m
      · rw [if_pos hb, if_pos (by omega), hb]
        rfl
      · rw [if_neg hb]
        exact if_congr (by omega) rfl rfl

/-! ## The instructions -/

/-- The formats of DFMT and SFMT have elements of 16, 8 or 4 bits (R183). -/
theorem destWidth_pow {n : Nat} (h : (dfmtCode n).isSome = true) : ∃ a, 2 ≤ a ∧ a ≤ 4 ∧ destWidth ((dfmtCode n).getD 0) = 2 ^ a := by
  unfold dfmtCode at *
  split at h
  · exact ⟨4, by decide, by decide, rfl⟩
  · exact ⟨3, by decide, by decide, rfl⟩
  · exact ⟨2, by decide, by decide, rfl⟩
  · exact ⟨3, by decide, by decide, rfl⟩
  · exact ⟨2, by decide, by decide, rfl⟩
  · exact ⟨3, by decide, by decide, rfl⟩
  · exact ⟨3, by decide, by decide, rfl⟩
  · exact ⟨2, by decide, by decide, rfl⟩
  · exact ⟨2, by decide, by decide, rfl⟩
  · cases h

/-- A format is a block format or a plain integer, never both. -/
theorem blkFmt?_of_int {n : Nat} {fi : IntFmt} (h : intFmt? n = some fi) : blkFmt? n = none := by
  unfold intFmt? at h
  split at h
  case h_5 => cases h
  all_goals rfl

/-- The width of a block format. -/
theorem destWidth_blk {n : Nat} {bf : BlkFmt} (h : blkFmt? n = some bf) : destWidth n = bf.width := by
  simp only [destWidth, h]

/-- Powers of two up to 4,096 divide it. -/
theorem pow_mul_elems {a : Nat} (ha : a ≤ 6) : 2 ^ a * (4096 / 2 ^ a) = 4096 := by
  interval_cases a <;> rfl

/-- The destination of VCVTSB before its blocks is zero where it starts at element 0. -/
theorem sbKept_zero (P n old : Nat) : sbKept P n 0 old = 0 := by
  have hall : ∀ (l : List Nat) x, l.foldl (fun x i => x + old / 2 ^ (8 * (i * n)) % 2 ^ (8 * 0) * 2 ^ (8 * (i * n))) x = x := by
    intro l
    induction l with
    | nil => exact fun _ => rfl
    | cons i l ih =>
      intro x
      rw [List.foldl_cons, ih, Nat.mul_zero, Nat.pow_zero, Nat.mod_one, Nat.zero_mul, Nat.add_zero]
  exact hall _ 0

section
variable {c : CoreId} {f : RFields} {s : State} (h : s.ready c true)
include h

/-- The source elements of VCVTB. -/
def cvtbSrc (k : Core) (f : RFields) (i : Nat) : Src :=
  typeSrc (fld f 3 1) (elemOf (typeWidth (fld f 3 1)) (groupVal k f.a (groupSize (fld f 5 4))) i)

/-- VCVTB to a plain integer, on a core that executes. -/
theorem exec_vcvtb_int {fi : IntFmt} :
    let k := s.core c
    let code := (dfmtCode (fld f 10 7)).getD 0
    let sw := typeWidth (fld f 3 1)
    let G := groupSize (fld f 5 4)
    let nd := regsOf (fld f 5 4) (destWidth code) sw
    let stoch := fld f 6 6 == 1
    fld f 3 1 ≤ 2 → (dfmtCode (fld f 10 7)).isSome = true → fld f 0 0 = 0 → baseOk f.d nd = true → baseOk f.a G = true →
    inPlaceOk f.d nd f.a G = true → intFmt? code = some fi → (stoch = true → k.inHandler = false) →
    exec (.vcvtb c f) s = .next (s.runVec c f.d nd (destWidth code) (G * (4096 / sw)) fun k' i =>
      { val := (encodeInt fi (rndOf stoch k' (i % 64)).1 (srcMul (cvtbSrc k f i) ((k.rs f.b).toNat % 2 ^ 32))).1,
        ev := (encodeInt fi (rndOf stoch k' (i % 64)).1 (srcMul (cvtbSrc k f i) ((k.rs f.b).toNat % 2 ^ 32))).2,
        core := (rndOf stoch k' (i % 64)).2 }) := by
  intro k code sw G nd stoch ht hc h0 hd ha hp hi hdraw
  have hblk : blkFmt? ((dfmtCode (fld f 10 7)).getD 0) = none := blkFmt?_of_int hi
  change execVcvtb c f s = _
  rw [execVcvtb, State.rill_ready h]
  refine congrArg _ ((State.checked_pass ?_ s c _ _).trans ?_)
  · simp only [List.forall_mem_cons, Bool.and_eq_true, decide_eq_true_eq, beq_iff_eq, hblk]
    refine ⟨⟨⟨ht, hc⟩, h0⟩, ⟨hd, ha⟩, ⟨hp, rfl⟩, ?_, fun _ hp => nomatch hp⟩
    cases hs : stoch with
    | true =>
      rw [show (s.core c).inHandler = false from hdraw hs]
      exact congrArg (!·) (Bool.and_false _)
    | false =>
      rw [show (fld f 6 6 == 1) = false from hs]
      rfl
  · simp only [hblk, show intFmt? ((dfmtCode (fld f 10 7)).getD 0) = some fi from hi]
    refine congrArg (s.runVec c f.d nd (destWidth code) (G * (4096 / sw))) (funext fun k' => funext fun i => ?_)
    simp only [rndOf, stoch]
    rfl

/-- VCVTB to blocks, on a core that executes, from element 0. -/
theorem exec_vcvtb_blk {bf : BlkFmt} :
    let k := s.core c
    let code := (dfmtCode (fld f 10 7)).getD 0
    let sw := typeWidth (fld f 3 1)
    let G := groupSize (fld f 5 4)
    let nd := regsOf (fld f 5 4) (destWidth code) sw
    let n := G * (4096 / sw)
    fld f 3 1 ≤ 2 → (dfmtCode (fld f 10 7)).isSome = true → fld f 0 0 = 0 → baseOk f.d nd = true → baseOk f.a G = true →
    inPlaceOk f.d nd f.a G = true → blkFmt? code = some bf → overlaps f.b.toNat 1 f.d.toNat nd = false →
    overlaps f.b.toNat 1 f.a.toNat G = false → k.inHandler = false → min k.resume n = 0 →
    exec (.vcvtb c f) s = .next (match (List.range (n / 32)).foldl
        (fun acc b => cvtbBlock bf (fld f 6 6 == 1) (cvtbSrc k f) 0 b acc) (groupVal k f.d nd, (k.rv f.b).toNat, k) with
      | (x, ex, k') => s.putCore c ((putGroup k' f.d (x % 2 ^ (destWidth code * n)) nd).wv f.b
          (BitVec.ofNat 4096 (ex % 2 ^ (8 * (n / 32))))).vdone) := by
  intro k code sw G nd n ht hc h0 hd ha hp hb hbd hba hh hst
  have hb' : blkFmt? ((dfmtCode (fld f 10 7)).getD 0) = some bf := hb
  change execVcvtb c f s = _
  rw [execVcvtb, State.rill_ready h]
  refine congrArg _ ((State.checked_pass ?_ s c _ _).trans ?_)
  · simp only [List.forall_mem_cons, Bool.and_eq_true, decide_eq_true_eq, beq_iff_eq, hb']
    refine ⟨⟨⟨ht, hc⟩, h0⟩, ⟨hd, ha⟩, ⟨hp, ?_⟩, ?_, fun _ hp => nomatch hp⟩
    · rw [hbd, hba]
      rfl
    · rw [show (s.core c).inHandler = false from hh]
      rfl
  · simp only [hb', show min (s.core c).resume (groupSize (fld f 5 4) * (4096 / typeWidth (fld f 3 1))) = 0 from hst]
    rfl

/-- The source elements of VCVTW. -/
def cvtwSrc (k : Core) (f : RFields) (i : Nat) : Src :=
  let code := (dfmtCode (fld f 10 7)).getD 0
  let x := elemOf (destWidth code) (groupVal k f.a (regsOf (fld f 5 4) (destWidth code) (typeWidth (fld f 3 1)))) i
  match blkFmt? code, intFmt? code with
  | some bf, _ => blkRead bf (elemOf 8 (k.rv f.b).toNat (i / 32)) x
  | none, some fi => srcMul (.fin (decide (intRead fi x < 0)) (intRead fi x).natAbs 0) ((k.rs f.b).toNat % 2 ^ 32)
  | none, none => .poison

/-- VCVTW on a core that executes. -/
theorem exec_vcvtw :
    let k := s.core c
    let t := fld f 3 1
    let code := (dfmtCode (fld f 10 7)).getD 0
    let dw := typeWidth t
    let G := groupSize (fld f 5 4)
    let ns := regsOf (fld f 5 4) (destWidth code) dw
    let n := G * (4096 / dw)
    let draws := fld f 6 6 == 1 && t == 2 && code == 0x10
    t ≤ 2 → (dfmtCode (fld f 10 7)).isSome = true → fld f 0 0 = 0 → baseOk f.d G = true → baseOk f.a ns = true →
    inPlaceOk f.d G f.a ns = true → ((blkFmt? code).isSome = true → inPlaceOk f.d G f.b 1 = true) →
    (draws = true → k.inHandler = false) →
    exec (.vcvtw c f) s = .next (match (List.range (n - min k.resume n)).foldl (fun (p : Nat × Core) j =>
        let e := cvtwElem t draws (cvtwSrc k f) p.2 (min k.resume n + j)
        (putElem dw p.1 (min k.resume n + j) e.val, (e.core.accrue e.fl).count e.ev)) (groupVal k f.d G, k) with
      | (acc, k') => s.putCore c (putGroup k' f.d acc G).vdone) := by
  intro k t code dw G ns n draws ht hc h0 hd ha hp hpb hdraw
  change execVcvtw c f s = _
  rw [execVcvtw, State.rill_ready h]
  refine congrArg _ ((State.checked_pass ?_ s c _ _).trans ?_)
  · simp only [List.forall_mem_cons, Bool.and_eq_true, Bool.or_eq_true, decide_eq_true_eq, beq_iff_eq]
    refine ⟨⟨⟨ht, hc⟩, h0⟩, ⟨hd, ha⟩, ⟨hp, ?_⟩, ?_, fun _ hp => nomatch hp⟩
    · cases hb : blkFmt? ((dfmtCode (fld f 10 7)).getD 0) with
      | none => exact .inl rfl
      | some bf => exact .inr (hpb (by rw [show blkFmt? code = some bf from hb]; rfl))
    · cases hs : draws with
      | true => rw [show (s.core c).inHandler = false from hdraw hs, Bool.and_false]; rfl
      | false => rw [show (fld f 6 6 == 1 && fld f 3 1 == 2 && (dfmtCode (fld f 10 7)).getD 0 == 0x10) = false from hs]; rfl
  · refine congrArg (fun x : Nat × Core => s.putCore c (putGroup x.2 f.d x.1 G).vdone) (List.foldl_ext _ _ _ fun p j _ => ?_)
    rw [cvtwElem_eq]
    rfl

/-- VCVTSB on a core that executes, from element 0. -/
theorem exec_vcvtsb :
    let k := s.core c
    let G := groupSize (fld f 5 4)
    let P := if fld f 3 1 = 0 then 7 else 3
    let n := G * (4096 / typeWidth (fld f 3 1))
    fld f 3 1 ≤ 1 → fld f 10 6 = 0 → fld f 0 0 = 0 → baseOk f.d G = true → baseOk f.a G = true → inPlaceOk f.d G f.a G = true →
    overlaps f.b.toNat 1 f.d.toNat G = false → overlaps f.b.toNat 1 f.a.toNat G = false → k.resume = 0 →
    exec (.vcvtsb c f) s = .next (
      let r := (List.range (n / 32)).foldl (sbStep P n (cvtbSrc k f)) (0, 0, {})
      s.putCore c (((putGroup k f.d r.1 G).wv f.b (BitVec.ofNat 4096 r.2.1)).count r.2.2).vdone) := by
  intro k G P n ht h10 h0 hd ha hp hbd hba hr
  change execVcvtsb c f s = _
  rw [execVcvtsb, State.rill_ready h]
  refine congrArg _ ((State.checked_pass ?_ s c _ _).trans ?_)
  · simp only [List.forall_mem_cons, Bool.and_eq_true, Bool.not_eq_true', decide_eq_true_eq, beq_iff_eq]
    exact ⟨⟨⟨ht, h10⟩, h0⟩, ⟨hd, ha⟩, ⟨⟨hp, hbd⟩, hba⟩, fun _ hp => nomatch hp⟩
  · simp only [show (s.core c).resume = 0 from hr, Nat.zero_min, sbKept_zero, Nat.zero_div, Nat.mul_zero, Nat.pow_zero, Nat.mod_one]
    refine congrArg (fun r : Nat × Nat × Ev =>
      s.putCore c (((putGroup k f.d r.1 G).wv f.b (BitVec.ofNat 4096 r.2.1)).count r.2.2).vdone) ?_
    refine List.foldl_ext _ _ _ fun acc b _ => ?_
    obtain ⟨x, ex, ev⟩ := acc
    refine (if_neg (by omega)).trans ?_
    simp only [Nat.zero_sub, List.drop_zero, foldl_sbWrites]
    rfl

end

/-! ## The statement -/

/-- VCVT writes every element. -/
theorem vcvt_done {c : CoreId} {f : RFields} {s : State} (h : s.ready c true) :
    let k := s.core c
    let t := fld f 3 1
    let g := fld f 5 4
    let dt := fld f 15 13
    let rnd := fld f 10 8
    let dw := typeWidth dt
    let sw := typeWidth t
    let nd := regsOf g dw (max dw sw)
    let ns := regsOf g sw (max dw sw)
    let n := groupSize g * (4096 / max dw sw)
    let start := if f.d = f.a ∧ dw ≠ sw then 0 else min k.resume n
    let x (i : Nat) : Nat := elemOf sw (groupVal k f.a ns) i
    let src (i : Nat) : Src :=
      if 3 ≤ t then .fin (decide (toSigned sw (x i) < 0)) (toSigned sw (x i)).natAbs 0 else typeSrc t (x i)
    let draws := cvtDraws rnd dt k
    let r (i : Nat) : Rnd := if draws then .stoch (draw16 (k.drawAt start i)) else Rnd.ofFrm (if rnd = 6 then k.frm else rnd)
    dt ≤ 6 → t ≤ 6 → rnd ≤ 6 → (rnd = 5 → dt = 2) → fld f 12 11 = 0 → fld f 7 6 = 0 → fld f 0 0 = 0 →
    (draws = true → k.inHandler = false) → baseOk f.d nd = true → baseOk f.a ns = true → inPlaceOk f.d nd f.a ns = true →
    (dt ≠ 2 → ∀ i < n, (cvtElem t dt rnd 0 k (x i)).fl &&& k.te = 0) →
      s.vectorDone c (.vcvt c f) f.d nd dw start n fun i =>
        if dt = 2 then (jfRound (r i) (src i)).1 else (cvtElem t dt rnd 0 k (x i)).val := by
  intro k t g dt rnd dw sw nd ns n start x src draws r hdt ht hrnd h5 h12 h7 h0 hdraw hd ha hp htrap
  obtain ⟨a, -, ha6, hdw⟩ := typeWidth_pow dt
  obtain ⟨b, -, hb6, hsw⟩ := typeWidth_pow t
  have hmax : max dw sw = 2 ^ max a b := by
    rw [show dw = 2 ^ a from hdw, show sw = 2 ^ b from hsw]
    rcases Nat.le_total a b with hab | hab
    · rw [Nat.max_eq_right hab, Nat.max_eq_right (Nat.pow_le_pow_right (by decide) hab)]
    · rw [Nat.max_eq_left hab, Nat.max_eq_left (Nat.pow_le_pow_right (by decide) hab)]
  have hdvd : nd ∣ 32 := by
    change regsOf g dw (max dw sw) ∣ 32
    rw [hmax, show dw = 2 ^ a from hdw]
    exact regsOf_dvd g (Nat.le_max_left a b) (Nat.max_le.mpr ⟨ha6, hb6⟩)
  have hend : f.d.toNat + nd ≤ 32 := base_add_le hdvd hd
  have hw : dw * (4096 / dw) = 4096 := typeWidth_mul dt
  have hexec := exec_vcvt h hdt ht hrnd h5 h12 h7 h0 hdraw hd ha hp
  have hfl : ∀ j < n, (if dt = 2 then 0 else (cvtElem t dt rnd 0 k (x j)).fl) &&& k.te = 0 := by
    intro j hj
    by_cases h2 : dt = 2
    · rw [if_pos h2]
      exact BitVec.zero_and
    · rw [if_neg h2]
      exact htrap h2 j hj
  by_cases hwhole : f.d = f.a ∧ dw ≠ sw
  · have hs : start = 0 := if_pos hwhole
    clear_value start
    subst hs
    have hg := elemGives_cvt k t dt rnd 0 x
    rw [if_pos hwhole] at hexec
    exact State.vectorDone_of_whole hw hend hexec hg hfl
  · have hs : start = min k.resume n := if_neg hwhole
    clear_value start
    subst hs
    have hg := elemGives_cvt k t dt rnd (min k.resume n) x
    rw [if_neg hwhole] at hexec
    exact State.vectorDone_of_elems hw hend hexec hg hfl

section
variable {c : CoreId} {f : RFields} {s : State} (h : s.ready c true) (ht : fld f 3 1 ≤ 2)
  (hc : (dfmtCode (fld f 10 7)).isSome = true) (h0 : fld f 0 0 = 0)
include h ht hc h0

omit h h0 in
/-- The registers of VCVTB's destination: at most 32, and room for its elements. -/
theorem cvtb_room (hd : baseOk f.d (regsOf (fld f 5 4) (destWidth ((dfmtCode (fld f 10 7)).getD 0)) (typeWidth (fld f 3 1))) = true) :
    let cw := destWidth ((dfmtCode (fld f 10 7)).getD 0)
    let nd := regsOf (fld f 5 4) cw (typeWidth (fld f 3 1))
    cw * (4096 / cw) = 4096 ∧ f.d.toNat + nd ≤ 32 ∧ groupSize (fld f 5 4) * (4096 / typeWidth (fld f 3 1)) ≤ nd * (4096 / cw) := by
  intro cw nd
  obtain ⟨a, -, ha4, hcw⟩ := destWidth_pow hc
  have hsw : ∃ b, 4 ≤ b ∧ b ≤ 6 ∧ typeWidth (fld f 3 1) = 2 ^ b := by
    generalize fld f 3 1 = t at ht
    interval_cases t
    · exact ⟨6, by decide, by decide, rfl⟩
    · exact ⟨5, by decide, by decide, rfl⟩
    · exact ⟨4, by decide, by decide, rfl⟩
  obtain ⟨b, hb4, hb6, hsw⟩ := hsw
  rw [hcw, hsw] at hd
  simp only [nd, cw, hcw, hsw]
  exact ⟨pow_mul_elems (by omega), base_add_le (regsOf_dvd _ (by omega) hb6) hd, elems_le_regsOf _ (by omega) hb6⟩

/-- VCVTB to a plain integer writes every element. -/
theorem vcvtb_int_done {fi : IntFmt} :
    let k := s.core c
    let code := (dfmtCode (fld f 10 7)).getD 0
    let sw := typeWidth (fld f 3 1)
    let G := groupSize (fld f 5 4)
    let nd := regsOf (fld f 5 4) (destWidth code) sw
    let n := G * (4096 / sw)
    let start := min k.resume n
    let stoch := fld f 6 6 == 1
    baseOk f.d nd = true → baseOk f.a G = true → inPlaceOk f.d nd f.a G = true → intFmt? code = some fi →
    (stoch = true → k.inHandler = false) →
    s.vectorDone c (.vcvtb c f) f.d nd (destWidth code) start n fun i =>
      (encodeInt fi (if stoch then .stoch (draw16 (k.drawAt start i)) else .even)
        (srcMul (cvtbSrc k f i) ((k.rs f.b).toNat % 2 ^ 32))).1 := by
  intro k code sw G nd n start stoch hd ha hp hi hdraw
  obtain ⟨hw, hend, -⟩ := cvtb_room ht hc hd
  exact State.vectorDone_of_elems hw hend (exec_vcvtb_int h ht hc h0 hd ha hp hi hdraw) (elemGives_encodeInt _ _ _ _ _ _)
    fun _ _ => BitVec.zero_and

/-- VCVTB to blocks writes every element and every block exponent. -/
theorem vcvtb_blk_done {bf : BlkFmt} :
    let k := s.core c
    let code := (dfmtCode (fld f 10 7)).getD 0
    let cw := destWidth code
    let sw := typeWidth (fld f 3 1)
    let G := groupSize (fld f 5 4)
    let nd := regsOf (fld f 5 4) cw sw
    let n := G * (4096 / sw)
    baseOk f.d nd = true → baseOk f.a G = true → inPlaceOk f.d nd f.a G = true → blkFmt? code = some bf →
    overlaps f.b.toNat 1 f.d.toNat nd = false → overlaps f.b.toNat 1 f.a.toNat G = false → k.inHandler = false →
    min k.resume n = 0 →
    let blk := cvtbBlk k bf (fld f 6 6 == 1) (cvtbSrc k f)
    ∃ u, ∃ k' : Core, exec (.vcvtb c f) s = .next u ∧ u = s.putCore c k'.vdone ∧
      k' = { k with v := k'.v, fmt := k'.fmt, lanes := k'.lanes, heldLanes := k'.heldLanes } ∧
      (∀ i < n, elemOf cw (groupVal k' f.d nd) i = ((blk (i / 32)).2.1.getD (i % 32) 0) % 2 ^ cw) ∧
      (∀ b < 512, elemOf 8 (k'.rv f.b).toNat b = if b < n / 32 then (blk b).1 % 256 else 0) := by
  intro k code cw sw G nd n hd ha hp hb hbd hba hh hst blk
  obtain ⟨hw, hend, hroom⟩ := cvtb_room ht hc hd
  have hcw : cw = bf.width := destWidth_blk hb
  have hn : 32 * (n / 32) = n := by
    change 32 * (G * (4096 / typeWidth (fld f 3 1)) / 32) = G * (4096 / typeWidth (fld f 3 1))
    generalize fld f 3 1 = t at ht
    interval_cases t <;> simp only [typeWidth] <;> omega
  obtain ⟨v, ex, k', hfold, hran, hflags, hv, hex⟩ :=
    foldl_cvtbBlock k bf (fld f 6 6 == 1) (cvtbSrc k f) (groupVal k f.d nd) (k.rv f.b).toNat (n / 32)
  have hexec := exec_vcvtb_blk h ht hc h0 hd ha hp hb hbd hba hh hst
  rw [hfold] at hexec
  refine ⟨_, (putGroup k' f.d (v % 2 ^ (cw * n)) nd).wv f.b (BitVec.ofNat 4096 (ex % 2 ^ (8 * (n / 32)))), hexec, rfl, ?_,
    fun i hi => ?_, fun b hb => ?_⟩
  · obtain ⟨⟨flags, fmt, lanes, held, rfl⟩, -⟩ := hran
    have hfl : flags = k.flags := hflags
    rw [putGroup_frame, hfl]
    rfl
  · rw [groupVal_wv hend hbd, elemOf_groupVal_putGroup _ _ _ ((Nat.le_add_left _ _).trans hend) hw (lt_of_lt_of_le hi hroom),
      elemOf_cut, if_pos hi]
    change elemOf cw v i = _
    rw [hcw, hv i (by rw [hn]; exact hi)]
  · rw [Core.rv_wv_self, elemOf_ofNat rfl hb, elemOf_cut]
    by_cases hlt : b < n / 32
    · rw [if_pos hlt, if_pos hlt, hex b hlt]
    · rw [if_neg hlt, if_neg hlt]

/-- VCVTW writes every element. -/
theorem vcvtw_done :
    let k := s.core c
    let t := fld f 3 1
    let code := (dfmtCode (fld f 10 7)).getD 0
    let dw := typeWidth t
    let G := groupSize (fld f 5 4)
    let ns := regsOf (fld f 5 4) (destWidth code) dw
    let n := G * (4096 / dw)
    let start := min k.resume n
    let draws := fld f 6 6 == 1 && t == 2 && code == 0x10
    baseOk f.d G = true → baseOk f.a ns = true → inPlaceOk f.d G f.a ns = true →
    ((blkFmt? code).isSome = true → inPlaceOk f.d G f.b 1 = true) → (draws = true → k.inHandler = false) →
    s.vectorDone c (.vcvtw c f) f.d G dw start n (cvtwVal t draws (cvtwSrc k f) k start) := by
  intro k t code dw G ns n start draws hd ha hp hpb hdraw
  have hdr : draws = true → t = 2 := by
    intro hdr
    simp only [draws, Bool.and_eq_true, beq_iff_eq] at hdr
    exact hdr.1.2
  obtain ⟨acc, k', hfold, ⟨hran, -⟩, hacc⟩ := foldElems_run (w := dw) (elemGives_cvtw k t draws hdr (cvtwSrc k f) start)
    (groupVal k f.d G) (n - start)
  have hexec := exec_vcvtw h ht hc h0 hd ha hp hpb hdraw
  rw [hfold] at hexec
  refine State.vectorDone_of_put (typeWidth_mul t) (base_add_groupSize_le hd) hran hexec fun j hj => ?_
  have hj' : j < n := hj
  have hs : start ≤ n := Nat.min_le_right _ _
  rw [hacc]
  by_cases hjs : j < start
  · rw [if_neg (by omega), if_pos hjs]
  · rw [if_pos (by omega), if_neg hjs, if_pos hj']

omit ht hc

/-- VCVTSB writes every byte of its planes and every block exponent. -/
theorem vcvtsb_done (ht1 : fld f 3 1 ≤ 1) (h10 : fld f 10 6 = 0) :
    let k := s.core c
    let G := groupSize (fld f 5 4)
    let P := if fld f 3 1 = 0 then 7 else 3
    let n := G * (4096 / typeWidth (fld f 3 1))
    baseOk f.d G = true → baseOk f.a G = true → inPlaceOk f.d G f.a G = true →
    overlaps f.b.toNat 1 f.d.toNat G = false → overlaps f.b.toNat 1 f.a.toNat G = false → k.resume = 0 →
    let blk := cvtsbBlk P (cvtbSrc k f)
    ∃ u, ∃ k' : Core, exec (.vcvtsb c f) s = .next u ∧ u = s.putCore c k'.vdone ∧ k' = { k with v := k'.v, fmt := k'.fmt } ∧
      (∀ p < P, ∀ i < n, elemOf 8 (groupVal k' f.d G) (p * n + i) = sbPlane P ((blk (i / 32)).2.1.getD (i % 32) 0) p) ∧
      (∀ b < 256, elemOf 16 (k'.rv f.b).toNat b = if b < n / 32 then (blk b).1 % 65536 else 0) := by
  intro k G P n hd ha hp hbd hba hr blk
  have hend : f.d.toNat + G ≤ 32 := base_add_groupSize_le hd
  have hroom : P * n ≤ G * 512 ∧ 32 * (n / 32) = n := by
    simp only [P, n]
    generalize fld f 3 1 = t at ht1
    interval_cases t <;> simp only [typeWidth] <;> constructor <;> simp <;> omega
  obtain ⟨hx, hex⟩ := foldl_sbStep P n (cvtbSrc k f) (n / 32) (le_of_eq hroom.2)
  have hexec := exec_vcvtsb h ht1 h10 h0 hd ha hp hbd hba hr
  set r := (List.range (n / 32)).foldl (sbStep P n (cvtbSrc k f)) (0, 0, {})
  refine ⟨_, ((putGroup k f.d r.1 G).wv f.b (BitVec.ofNat 4096 r.2.1)).count r.2.2, hexec, rfl, ?_, fun p hpP i hi => ?_,
    fun b hb => ?_⟩
  · rw [putGroup_frame]
    rfl
  · have hidx : p * n + i < G * 512 := by
      have hle : (p + 1) * n ≤ P * n := Nat.mul_le_mul_right n hpP
      have hroom' := hroom.1
      rw [Nat.add_mul, Nat.one_mul] at hle
      omega
    have hcount : groupVal (((putGroup k f.d r.1 G).wv f.b (BitVec.ofNat 4096 r.2.1)).count r.2.2) f.d G =
        groupVal ((putGroup k f.d r.1 G).wv f.b (BitVec.ofNat 4096 r.2.1)) f.d G := groupVal_congr fun _ _ => rfl
    rw [hcount, groupVal_wv hend hbd, elemOf_groupVal_putGroup _ _ _ ((Nat.le_add_left _ _).trans hend) rfl hidx,
      hx p hpP i (by rw [hroom.2]; exact hi), sbByte_plane P (cvtbSrc k f) p hi]
  · have hcount : (((putGroup k f.d r.1 G).wv f.b (BitVec.ofNat 4096 r.2.1)).count r.2.2).rv f.b =
        ((putGroup k f.d r.1 G).wv f.b (BitVec.ofNat 4096 r.2.1)).rv f.b := rfl
    rw [hcount, Core.rv_wv_self, elemOf_ofNat rfl hb, hex b]

end

/-- Settles O11: each conversion over the elements or the blocks it writes. -/
theorem conversionsWriteEveryElement : Obligations.ConversionsWriteEveryElement := by
  intro c f s h k t g G code cw stoch
  refine ⟨vcvt_done h, ?_, ?_, ?_⟩
  · intro sw nd n start src ht hc h0 hd ha hp
    exact ⟨fun fi hi hdraw => vcvtb_int_done h ht hc h0 hd ha hp hi hdraw,
      fun bf hb hbd hba hh hst => vcvtb_blk_done h ht hc h0 hd ha hp hb hbd hba hh hst⟩
  · intro dw ns n start x src draws ht hc h0 hd ha hp hpb hdraw
    exact vcvtw_done h ht hc h0 hd ha hp hpb hdraw
  · intro w P n ht h10 h0 hd ha hp hbd hba hr
    exact vcvtsb_done h h0 ht h10 hd ha hp hbd hba hr

end Sys2Proof.Machine
end

section
/-! Rill cores: PCOMB row by row, and what VSPOUT's steps leave (R131, R132, R176, R177). -/

namespace Sys2Proof.Machine

/-! ## Row records -/

/-- A row record has the length of its mode (R132). -/
theorem length_packRow (mode : Nat) (r : TileRow) : (packRow mode r).length = recBytes mode := by
  have flat (sb : Nat) (g : Nat → Nat) : ((List.range 16).flatMap fun c => leBytes sb (g c)).length = 16 * sb := by
    simp [List.length_flatMap, length_leBytes]
    omega
  unfold packRow recBytes
  simp only [List.length_append, List.length_map, List.length_range, length_leBytes, flat, zeroBytes, List.length_replicate]
  split <;> rfl

/-- A byte of equal pieces one after another. -/
theorem getD_flatMap_range {f : Nat → List Byte} {sz : Nat} (hsz : 0 < sz) (hf : ∀ i, (f i).length = sz) : ∀ n j, j < n * sz →
    ((List.range n).flatMap f).getD j 0 = (f (j / sz)).getD (j % sz) 0 := by
  have hlen : ∀ n, ((List.range n).flatMap f).length = n * sz := fun n => by simp [List.length_flatMap, hf]
  intro n
  induction n with
  | zero => intro j hj; omega
  | succ n ih =>
    intro j hj
    rw [Nat.succ_mul] at hj
    rw [List.range_succ, List.flatMap_append, List.flatMap_singleton]
    by_cases hlt : j < n * sz
    · rw [List.getD_append _ _ _ _ (by rw [hlen]; exact hlt), ih j hlt]
    · have hdiv : j / sz = n := Nat.div_eq_of_lt_le (by omega) (by rw [Nat.succ_mul]; omega)
      have hmod : j % sz = j - n * sz := by
        have := Nat.div_add_mod j sz
        rw [hdiv, Nat.mul_comm] at this
        omega
      rw [List.getD_append_right _ _ _ _ (by rw [hlen]; omega), hlen, hdiv, hmod]

/-- A piece of the bytes read at an address. -/
theorem loadBytes_piece (m : Mem) (a n o sz : Nat) (h : o + sz ≤ n) :
    (((loadBytes m a n).1.drop o).take sz).map (fun y => y.getD 0) = (List.range sz).map fun i => (byteAt m (a + o + i)).getD 0 := by
  refine List.ext_getElem (by simp [loadBytes_fst]; omega) fun i h1 h2 => ?_
  simp [loadBytes_fst, Nat.add_assoc]

/-! ## PCOMB -/

/-- The record at an address of a store. -/
def recAt (m : Mem) (mode x : Nat) : TileRow := unpackRow mode ((List.range (recBytes mode)).map fun i => (byteAt m (x + i)).getD 0)

/-- The byte that PCOMB writes at offset `q` of its output: of the node addition of the two records there (R131, R176). -/
def pcombByte (m : Mem) (mode a b q : Nat) : Byte :=
  let o := q / recBytes mode * recBytes mode
  (packRow mode (nodeAddRow mode (recAt m mode (a + o)) (recAt m mode (b + o))).1).getD (q % recBytes mode) 0

theorem recBytes_pos (mode : Nat) : 0 < recBytes mode := by
  unfold recBytes
  split <;> decide

/-- `m` holds PCOMB's output up to offset `q`, and every other byte as `m0` does. -/
def pcombTo (m0 : Mem) (mode a b d q : Nat) (m : Mem) : Prop :=
  ∀ p, byteAt m p = if d ≤ p ∧ p < d + q then some (pcombByte m0 mode a b (p - d)) else byteAt m0 p

/-- A record whose bytes are those of the store before is the same record. -/
theorem recAt_congr {m m0 : Mem} {mode x : Nat} (h : ∀ i < recBytes mode, byteAt m (x + i) = byteAt m0 (x + i)) :
    recAt m mode x = recAt m0 mode x := by
  unfold recAt
  exact congrArg _ (List.map_congr_left fun i hi => by rw [h i (List.mem_range.mp hi)])

/-- What a row of PCOMB may touch: its addresses are open to it, their words can be used, and its output lies apart from its
sources. -/
structure PcombRoom (c : CoreId) (k : Core) (a b d n : Nat) : Prop where
  wf : Mem.wf k.store = true
  open_ : ∀ i < n, mayAccess c k false ((a + i) % 2 ^ 64) = true ∧ mayAccess c k false ((b + i) % 2 ^ 64) = true ∧
    mayAccess c k true ((d + i) % 2 ^ 64) = true
  used : ∀ i < n, (byteAt k.store (a + i)).isSome = true ∧ (byteAt k.store (b + i)).isSome = true ∧
    (byteAt k.store (d + i)).isSome = true
  apartA : d + n ≤ a ∨ a + n ≤ d
  apartB : d + n ≤ b ∨ b + n ≤ d

/-- A load meets no cause where its bytes are open and their words can be used. -/
theorem loadFaultAt_none {c : CoreId} {k : Core} {a n row : Nat} (ho : ∀ i < n, mayAccess c k false ((a + i) % 2 ^ 64) = true)
    (hs : ∀ i < n, (byteAt k.store (a + i)).isSome = true) : loadFaultAt c k a n row = none := by
  have hw : wordFault k a n 0 = none := wordFault_none k a n 0 fun j hj => by rw [Nat.zero_add]; exact hs j hj
  simp only [loadFaultAt, loadFault, Nat.sub_zero, accessFault_zero_none ho, hw, Option.map_none]

/-- A store meets no cause where its bytes are open. -/
theorem storeFaultAt_none {c : CoreId} {k : Core} {a n row : Nat} (ho : ∀ i < n, mayAccess c k true ((a + i) % 2 ^ 64) = true) :
    storeFaultAt c k a n row = none := by
  simp only [storeFaultAt, accessFault_zero_none ho, Option.map_none]

/-- Access to a jet's store does not depend on what the store holds. -/
theorem mayAccess_store (c : CoreId) (k : Core) (m : Mem) (fmt : Fmt) (w : Bool) (p : Nat) :
    mayAccess c { k with store := m, fmt := fmt } w p = mayAccess c k w p := rfl

section
variable {c : CoreId} {k : Core} {mode recs a b d rows : Nat}

/-- A byte of a source keeps what it held, however far the output reaches. -/
theorem byteAt_source {m0 m : Mem} {x q n p : Nat} (hm : pcombTo m0 mode a b d q m) (hq : q ≤ n) (hx : d + n ≤ x ∨ x + n ≤ d)
    (hp : x ≤ p ∧ p < x + n) : byteAt m p = byteAt m0 p := by
  rw [hm p, if_neg (by omega)]

/-- The bytes of an output stay in use. -/
theorem isSome_of_pcombTo {m0 m : Mem} {q p : Nat} (hm : pcombTo m0 mode a b d q m) (hp : (byteAt m0 p).isSome = true) :
    (byteAt m p).isSome = true := by
  rw [hm p]
  split
  · rfl
  · exact hp

/-- A row of PCOMB: both records are read, added node by node, and stored. -/
theorem pcombRows_succ (h : PcombRoom c k a b d (rows * (recBytes mode * recs))) (hrec : 0 < recs) {n row : Nat} (hn : row + (n + 1) ≤ rows)
    {m : Mem} {fmt : Fmt} (hwf : Mem.wf m = true) (hm : pcombTo k.store mode a b d (row * (recBytes mode * recs)) m) :
    ∃ m' fmt', pcombRows c mode recs a b d (n + 1) row { k with store := m, fmt := fmt } =
        pcombRows c mode recs a b d n (row + 1) { k with store := m', fmt := fmt' } ∧
      Mem.wf m' = true ∧ pcombTo k.store mode a b d ((row + 1) * (recBytes mode * recs)) m' := by
  have hle : (row + 1) * (recBytes mode * recs) ≤ rows * (recBytes mode * recs) := Nat.mul_le_mul_right _ (by omega)
  have hsucc : (row + 1) * (recBytes mode * recs) = row * (recBytes mode * recs) + recBytes mode * recs := Nat.succ_mul _ _
  have hpos : 0 < recBytes mode * recs := Nat.mul_pos (recBytes_pos mode) hrec
  have hdvd : row * (recBytes mode * recs) = row * recs * recBytes mode := by ring
  generalize hS : recBytes mode * recs = S at *
  generalize ho : row * S = o at *
  generalize hN : rows * S = N at *
  have hoN : o + S ≤ N := by omega
  -- the three checks of the row pass
  have hla : loadFaultAt c { k with store := m, fmt := fmt } (a + o) S row = none := loadFaultAt_none
    (fun i hi => by rw [Nat.add_assoc]; exact (h.open_ (o + i) (by omega)).1)
    fun i hi => by rw [Nat.add_assoc]; exact isSome_of_pcombTo hm (h.used (o + i) (by omega)).1
  have hlb : loadFaultAt c { k with store := m, fmt := fmt } (b + o) S row = none := loadFaultAt_none
    (fun i hi => by rw [Nat.add_assoc]; exact (h.open_ (o + i) (by omega)).2.1)
    fun i hi => by rw [Nat.add_assoc]; exact isSome_of_pcombTo hm (h.used (o + i) (by omega)).2.1
  have hsd : storeFaultAt c { k with store := m, fmt := fmt } (d + o) S row = none := storeFaultAt_none
    fun i hi => by rw [Nat.add_assoc]; exact (h.open_ (o + i) (by omega)).2.2
  -- what the reads answer
  have hwf1 : Mem.wf (loadBytes m (a + o) S).2 = true := loadBytes_wf _ _ _ hwf
  have hwf2 : Mem.wf (loadBytes (loadBytes m (a + o) S).2 (b + o) S).2 = true := loadBytes_wf _ _ _ hwf1
  have hb2 (p : Nat) : byteAt (loadBytes (loadBytes m (a + o) S).2 (b + o) S).2 p = byteAt m p := by
    rw [byteAt_loadBytes _ _ _ hwf1, byteAt_loadBytes _ _ _ hwf]
  have hpiece (i : Nat) (hi : i < recs) : i * recBytes mode + recBytes mode ≤ S := by
    rw [← hS, ← Nat.succ_mul, Nat.mul_comm (recBytes mode)]
    exact Nat.mul_le_mul_right _ hi
  have hA (i : Nat) (hi : i < recs) :
      unpackRow mode ((((loadBytes m (a + o) S).1.drop (i * recBytes mode)).take (recBytes mode)).map fun y => y.getD 0) =
        recAt k.store mode (a + (o + i * recBytes mode)) := by
    have hp := hpiece i hi
    rw [loadBytes_piece _ _ _ _ _ hp, ← Nat.add_assoc]
    exact recAt_congr fun j hj => byteAt_source hm (by omega) h.apartA (by omega)
  have hB (i : Nat) (hi : i < recs) :
      unpackRow mode ((((loadBytes (loadBytes m (a + o) S).2 (b + o) S).1.drop (i * recBytes mode)).take (recBytes mode)).map
        fun y => y.getD 0) = recAt k.store mode (b + (o + i * recBytes mode)) := by
    have hp := hpiece i hi
    rw [loadBytes_piece _ _ _ _ _ hp, ← Nat.add_assoc]
    refine recAt_congr fun j hj => ?_
    rw [byteAt_loadBytes _ _ _ hwf]
    exact byteAt_source hm (by omega) h.apartB (by omega)
  -- what the row stores
  have houts : ((List.range recs).map fun i => nodeAddRow mode
        (unpackRow mode ((((loadBytes m (a + o) S).1.drop (i * recBytes mode)).take (recBytes mode)).map fun y => y.getD 0))
        (unpackRow mode ((((loadBytes (loadBytes m (a + o) S).2 (b + o) S).1.drop (i * recBytes mode)).take (recBytes mode)).map
          fun y => y.getD 0))) =
      (List.range recs).map fun i => nodeAddRow mode (recAt k.store mode (a + (o + i * recBytes mode)))
        (recAt k.store mode (b + (o + i * recBytes mode))) :=
    List.map_congr_left fun i hi => by rw [hA i (List.mem_range.mp hi), hB i (List.mem_range.mp hi)]
  rw [pcombRows]
  simp only [hS, ho, hla, hlb, hsd, houts, Option.orElse]
  refine ⟨_, _, rfl, storeBytes_wf _ _ _ hwf2, fun p => ?_⟩
  -- the bytes of the row, one by one
  have hbs (j : Nat) (hj : j < S) : (((List.range recs).map fun i => nodeAddRow mode
      (recAt k.store mode (a + (o + i * recBytes mode))) (recAt k.store mode (b + (o + i * recBytes mode)))).flatMap
        fun q => packRow mode q.1).getD j 0 = pcombByte k.store mode a b (o + j) := by
    have hjr : j < recs * recBytes mode := by rw [Nat.mul_comm, hS]; exact hj
    have hq : (o + j) / recBytes mode * recBytes mode = o + j / recBytes mode * recBytes mode ∧
        (o + j) % recBytes mode = j % recBytes mode := by
      rw [hdvd, Nat.mul_comm, Nat.mul_comm (row * recs), Nat.mul_add_div (recBytes_pos mode), Nat.mul_add_mod]
      exact ⟨by ring, rfl⟩
    rw [List.flatMap_map, getD_flatMap_range (recBytes_pos mode) (fun i => length_packRow _ _) recs j hjr, pcombByte]
    simp only [hq.1, hq.2]
  have hlen : (((List.range recs).map fun i => nodeAddRow mode
      (recAt k.store mode (a + (o + i * recBytes mode))) (recAt k.store mode (b + (o + i * recBytes mode)))).flatMap
        fun q => packRow mode q.1).length = S := by
    rw [List.length_flatMap, List.map_map]
    simp [Function.comp_def, length_packRow, ← hS, Nat.mul_comm]
  generalize (((List.range recs).map fun i => nodeAddRow mode
      (recAt k.store mode (a + (o + i * recBytes mode))) (recAt k.store mode (b + (o + i * recBytes mode)))).flatMap
        fun q => packRow mode q.1) = bs at *
  subst hlen
  by_cases hp : d + o ≤ p ∧ p < d + o + bs.length
  · obtain ⟨j, rfl⟩ : ∃ j, p = d + o + j := ⟨p - (d + o), by omega⟩
    have hj : j < bs.length := by omega
    have hu : (byteAt (loadBytes (loadBytes m (a + o) bs.length).2 (b + o) bs.length).2 (d + o + j)).isSome = true := by
      rw [hb2, Nat.add_assoc]
      exact isSome_of_pcombTo hm (h.used (o + j) (by omega)).2.2
    rw [byteAt_storeBytes _ _ _ hwf2 j hj hu, hbs j hj, if_pos (by omega), show d + o + j - d = o + j by omega]
  · rw [byteAt_storeBytes_frame _ _ _ hwf2 p (by omega), hb2, hm p]
    exact if_congr (by omega) rfl rfl

/-- PCOMB from a row on runs to its end. -/
theorem pcombRows_run (h : PcombRoom c k a b d (rows * (recBytes mode * recs))) (hrec : 0 < recs) : ∀ n row m fmt, row + n = rows →
    Mem.wf m = true → pcombTo k.store mode a b d (row * (recBytes mode * recs)) m →
    ∃ m' fmt', pcombRows c mode recs a b d n row { k with store := m, fmt := fmt } = ({ k with store := m', fmt := fmt' }, none) ∧
      pcombTo k.store mode a b d (rows * (recBytes mode * recs)) m' := by
  intro n
  induction n with
  | zero =>
    intro row m fmt hrow _ hm
    rw [Nat.add_zero] at hrow
    subst hrow
    exact ⟨m, fmt, rfl, hm⟩
  | succ n ih =>
    intro row m fmt hrow hwf hm
    obtain ⟨m', fmt', hstep, hwf', hm'⟩ := pcombRows_succ (n := n) (row := row) (fmt := fmt) h hrec (by omega) hwf hm
    rw [hstep]
    exact ih (row + 1) m' fmt' (by omega) hwf' hm'

end

/-- PCOMB on a core that executes, whose bytes can be read and written. -/
theorem exec_pcomb {j : Fin 160} {f : RFields} {s : State} {k' : Core} (h : s.ready (.jet j) true) :
    let c := CoreId.jet j
    let k := s.core c
    let mode := recMode (bits f.lo 10 9)
    let recs := if f.lo.getLsbD 8 then 2 else 1
    let rows := bits f.lo 7 1
    let n := rows * recs * recBytes mode
    let a := (k.rs f.a).toNat
    let b := (k.rs f.b).toNat
    let d := (k.rs f.d).toNat
    k.resume = 0 → bits f.lo 10 9 ≤ 2 → 1 ≤ rows → rows ≤ 64 → f.lo.getLsbD 0 = false →
    s.hazard c false a n = false → s.hazard c false b n = false → s.hazard c true d n = false →
    pcombRows c mode recs a b d rows 0 k = (k', none) → exec (.pcomb c f) s = .next (s.putCore c k'.vdone) := by
  intro c k mode recs rows n a b d hr hmf h1 h64 h0 ha hb hd hrun
  change execPcomb c f s = _
  rw [execPcomb, State.rill_ready h]
  simp only [pcombBody, State.jetOnly]
  refine congrArg _ ((State.checked_pass ?_ s c _ _).trans ?_)
  · simp only [List.forall_mem_cons, Bool.and_eq_true, Bool.not_eq_true', decide_eq_true_eq]
    exact ⟨⟨⟨⟨hmf, h1⟩, h64⟩, h0⟩, fun _ hp => nomatch hp⟩
  · refine (if_neg ?_).trans ?_
    · rw [show s.hazard _ false _ _ = false from ha, show s.hazard _ false _ _ = false from hb, show s.hazard _ true _ _ = false from hd]
      decide
    · simp only [show (s.core c).resume = 0 from hr, Nat.zero_min, Nat.sub_zero]
      rw [show pcombRows _ _ _ _ _ _ _ _ _ = (k', none) from hrun]

/-- PCOMB. -/
theorem pcombAddsRecordsRowByRow : Claims.PcombAddsRecordsRowByRow := by
  intro j f s h hr hwf c k mf mode recs rows sz n a b d rec? hmf h1 h64 h0 hopen hused hda hdb hha hhb hhd
  have hn : rows * (recBytes mode * recs) = n := by
    simp only [n, sz]
    ring
  have hroom : PcombRoom c k a b d (rows * (recBytes mode * recs)) := by
    rw [hn]
    exact ⟨hwf, hopen, hused, hda, hdb⟩
  have hrec : 0 < recs := by
    simp only [recs]
    split <;> decide
  have hstart : pcombTo k.store mode a b d (0 * (recBytes mode * recs)) k.store := fun p => by
    rw [Nat.zero_mul, if_neg (by omega)]
  obtain ⟨m', fmt', hrun, hm'⟩ := pcombRows_run hroom hrec rows 0 k.store k.fmt (Nat.zero_add _) hwf hstart
  rw [hn] at hm'
  refine ⟨{ k with store := m', fmt := fmt' }, exec_pcomb h hr hmf h1 h64 h0 hha hhb hhd hrun, rfl, fun p hp => ?_, fun r hrr i hi => ?_⟩
  · exact (hm' p).trans (if_neg (by omega))
  · have hlt : r * sz + i < n := by
      have hle : (r + 1) * sz ≤ rows * recs * sz := Nat.mul_le_mul_right _ hrr
      rw [Nat.add_mul, Nat.one_mul] at hle
      exact lt_of_lt_of_le (Nat.add_lt_add_left hi _) hle
    have hdiv : (r * sz + i) / sz = r := by
      rw [Nat.mul_comm, Nat.mul_add_div (recBytes_pos mode), Nat.div_eq_of_lt hi, Nat.add_zero]
    have hmod : (r * sz + i) % sz = i := by rw [Nat.mul_comm, Nat.mul_add_mod, Nat.mod_eq_of_lt hi]
    refine (hm' (d + r * sz + i)).trans ((if_pos (by omega)).trans ?_)
    rw [Nat.add_assoc, Nat.add_sub_cancel_left]
    simp only [pcombByte]
    rw [show (r * sz + i) / recBytes mode = r from hdiv, show (r * sz + i) % recBytes mode = i from hmod]
    rfl

/-! ## VSPOUT -/

/-- `k'` is `k` but for what the spout's steps change: the store, the format counters and the lanes (R112, R114). -/
def Core.spun (k k' : Core) : Prop := ∃ store fmt lanes held, k' = { k with store := store, fmt := fmt, lanes := lanes, heldLanes := held }

theorem Core.spun_refl (k : Core) : k.spun k := ⟨_, _, _, _, rfl⟩

theorem Core.spun_trans {k k' k'' : Core} (h : k.spun k') (h' : k'.spun k'') : k.spun k'' := by
  obtain ⟨_, _, _, _, rfl⟩ := h
  obtain ⟨_, _, _, _, rfl⟩ := h'
  exact ⟨_, _, _, _, rfl⟩

theorem Core.spun_count (k : Core) (ev : Ev) : k.spun (k.count ev) := ⟨_, _, _, _, rfl⟩

theorem Core.spun_store (k : Core) (m : Mem) : k.spun { k with store := m } := ⟨_, _, _, _, rfl⟩

theorem Core.spun_draw (k : Core) (n : Nat) : k.spun (k.draw n).2 := by
  unfold Core.draw
  split <;> exact ⟨_, _, _, _, rfl⟩

theorem Core.spun_drawLane (k : Core) (l : Option Nat) : k.spun (k.drawLane l).2 := by
  cases l with
  | none => exact k.spun_refl
  | some n => exact k.spun_draw n

theorem drawLanes_spun : ∀ (l : List (Option Nat)) (k : Core), k.spun (drawLanes k l).2 := by
  intro l
  induction l with
  | nil => exact Core.spun_refl
  | cons x l ih => exact fun k => Core.spun_trans (k.spun_drawLane x) (ih _)

section
variable (e : SpoutEnv)

/-- The rounding of an element and the core after it (R114). -/
theorem SpoutEnv.rnd_spun (k : Core) (c : Nat) :
    k.spun (if e.stoch then (let (o, k') := k.drawLane (e.lanes.getD c none); (Rnd.stoch (draw16 o), k')) else (Rnd.even, k)).2 := by
  cases e.stoch with
  | true => exact k.spun_drawLane _
  | false => exact k.spun_refl

theorem SpoutEnv.elem_spun (k : Core) (c : Nat) (y : Option Nat) : k.spun (e.elem k c y).2.2 := by
  unfold SpoutEnv.elem
  simp only []
  split
  · exact Core.spun_trans (e.rnd_spun k c) (Core.spun_count _ _)
  · split
    · exact Core.spun_trans (e.rnd_spun k c) (Core.spun_count _ _)
    · split
      · exact k.spun_refl
      · exact k.spun_count _

theorem SpoutEnv.elems_spun : ∀ (l : List (Option Nat)) (k : Core) (c : Nat), k.spun (e.elems k c l).2.2 := by
  intro l
  induction l with
  | nil => exact fun k _ => k.spun_refl
  | cons y l ih => exact fun k c => Core.spun_trans (e.elem_spun k c y) (ih _ _)

theorem SpoutEnv.block_spun (f : BlkFmt) (skip : Nat) (k : Core) (lanes : List (Option Nat)) (xs : List Src) :
    k.spun (e.block f skip k lanes xs).2.2.2 := Core.spun_trans (drawLanes_spun _ k) (Core.spun_count _ _)

theorem SpoutEnv.blockCols_spun (f : BlkFmt) (b skip : Nat) (rows : List (List (Option Nat))) : ∀ n c (k : Core),
    k.spun (e.blockCols f b skip rows n c k).2.2 := by
  intro n
  induction n with
  | zero => exact fun _ k => k.spun_refl
  | succ n ih => exact fun c k => Core.spun_trans (e.block_spun f skip k _ _) (ih _ _)

/-- A step of VSPOUT. -/
theorem SpoutEnv.vstep_spun (skip : Nat) (k : Core) (row : Nat) (rows : List (List TileRow)) : k.spun (e.vstep skip k row rows).core := by
  unfold SpoutEnv.vstep
  split
  · exact k.spun_refl
  · unfold SpoutEnv.stepFrom
    split
    · split
      · exact e.block_spun _ _ _ _ _
      · exact e.blockCols_spun _ _ _ _ _ _ _
    · exact e.elems_spun _ _ _

/-- The steps of VSPOUT in turn. -/
theorem vspoutSteps_spun (c : CoreId) (recs a : Nat) : ∀ n skip row (k : Core), k.spun (vspoutSteps c e recs a n skip row k).1 := by
  intro n
  induction n with
  | zero => exact fun _ _ k => k.spun_refl
  | succ n ih =>
    intro skip row k
    rw [vspoutSteps]
    simp only []
    split
    · exact k.spun_refl
    · split
      · exact k.spun_refl
      · split
        · exact k.spun_refl
        · exact Core.spun_trans (Core.spun_trans (Core.spun_trans (k.spun_store _) (e.vstep_spun _ _ _ _)) (Core.spun_store _ _)) (ih _ _ _)

end

/-- VSPOUT. -/
theorem vspoutRunsTheSpoutSteps : Claims.VspoutRunsTheSpoutSteps := by
  intro j f s m bs k' h hr hh c k n rows quad d cols mode env recs hmf h1 h64 hen hwithin hquad hfree hread hvec hha hho hhv hrun
  refine ⟨?_, ?_⟩
  · change execVspout c f s = _
    rw [execVspout, State.rill_ready h]
    simp only [vspoutBody, State.jetOnly]
    refine congrArg _ ((State.checked_pass ?_ s c _ _).trans ?_)
    · have hq : (!quad || ((n.val == 0 || n.val == 4) && (s.jet j).quadOk (n.val / 4))) = true := by
        cases hc : quad with
        | false => rfl
        | true =>
          obtain ⟨hn, hok⟩ := hquad hc
          rw [hok]
          rcases hn with hn | hn <;> rw [hn] <;> rfl
      have hd4 : f.d.toNat / 4 = 0 ∧ f.d.toNat % 4 ≤ 2 := by omega
      simp only [List.forall_mem_cons, Bool.and_eq_true, decide_eq_true_eq, beq_iff_eq]
      exact ⟨⟨⟨⟨hd4.1, hd4.2⟩, h1⟩, h64⟩, ⟨⟨hen, hwithin⟩, hq⟩, fun _ hp => nomatch hp⟩
    · refine (if_neg (by rw [show ((s.jet j).arrays.get n).vspoutFree = true from hfree]; decide)).trans ?_
      rw [show s.coreRead _ _ 64 = .bytes bs m from hread]
      have hvh : (vecRanges quad d).any (fun r => s.hazard c false r.1 r.2) = false :=
        List.any_eq_false.mpr fun r hr => by rw [hhv r hr]; decide
      have hvn : (vecRanges quad d).findSome? (fun r =>
          loadFaultAt c { k with store := env.2 } r.1 r.2 (s.core c).resume) = none :=
        List.findSome?_eq_none_iff.mpr fun r hm =>
          (congrArg (loadFaultAt c { k with store := env.2 } r.1 r.2) hr).trans (hvec r hm)
      have hoh : (outRanges mode quad rows d).any (fun r => s.hazard c true r.1 r.2) = false :=
        List.any_eq_false.mpr fun r hr => by rw [hho r hr]; decide
      refine (if_neg (by rw [show (vecRanges _ _).any _ = false from hvh]; decide)).trans ?_
      refine (if_neg fun hc => Bool.false_ne_true (hh.symm.trans (Bool.and_eq_true_iff.mp hc).2)).trans ?_
      rw [show (vecRanges _ _).findSome? _ = none from hvn]
      refine (if_neg ?_).trans ?_
      · exact fun hc => (Bool.or_eq_true_iff.mp hc).elim (fun h' => Bool.false_ne_true (hha.symm.trans h'))
          fun h' => Bool.false_ne_true (hoh.symm.trans h')
      · have hst : (if rows ≤ (s.core c).resume then rows else (s.core c).resume / env.1.stepRows * env.1.stepRows) = 0 := by
          rw [hr, if_neg (by omega), Nat.zero_div, Nat.zero_mul]
        have hrun' : ∀ start resume, start = 0 → resume = 0 → vspoutSteps c env.1 recs (k.rs f.a).toNat (rows - start)
            (resume - start) start { k with store := env.2 } = (k', none) := by
          rintro _ _ rfl rfl
          exact hrun
        rw [show vspoutSteps _ _ _ _ _ _ _ _ = (k', none) from hrun' _ _ hst hr]
  · have hs := vspoutSteps_spun env.1 c recs (k.rs f.a).toNat rows 0 0 { k with store := env.2 }
    rw [hrun] at hs
    obtain ⟨store, fmt, lanes, held, rfl⟩ := hs
    rfl

/-- Settles O13: PCOMB by the rows it has stored, VSPOUT by its steps. -/
theorem partialSumsAndSpoutRunByRow : Obligations.PartialSumsAndSpoutRunByRow := ⟨pcombAddsRecordsRowByRow, vspoutRunsTheSpoutSteps⟩

end Sys2Proof.Machine
end

section
/-! The matrix arrays: the head of an array's queue, shadow loads and swaps (R88 to R95, R103 to R106). -/

namespace Sys2Proof.Machine

/-! ### One array of a jet -/

/-- An array of a jet by its number. -/
theorem Jet.arr_val (x : Jet) (n : Fin 8) : x.arr n.val = x.arrays.get n := dif_pos n.isLt

/-- A change of one array of a jet. -/
theorem Jet.modArr_val (x : Jet) (n : Fin 8) (f : Arr → Arr) :
    x.modArr n.val f = { x with arrays := vset x.arrays n (f (x.arrays.get n)) } := by
  rw [Jet.modArr, Jet.putArr, dif_pos n.isLt, x.arr_val n]

/-- A change of one tile of one array of a jet. -/
theorem Jet.modTiles_one (x : Jet) (n : Fin 8) (t : TileId) (f : Tile → Tile) :
    x.modTiles [(n.val, t)] f = x.modArr n.val fun a => a.putTile t (f (a.tile t)) := rfl

@[simp] theorem Arr.tile_putTile (a : Arr) (t : TileId) (v : Tile) : (a.putTile t v).tile t = v := by cases t <;> rfl
@[simp] theorem Arr.putTile_putTile (a : Arr) (t : TileId) (v w : Tile) : (a.putTile t v).putTile t w = a.putTile t w := by
  cases t <;> rfl
theorem Arr.tile_putTile_ne (a : Arr) {t u : TileId} (v : Tile) (h : u ≠ t) : (a.putTile t v).tile u = a.tile u := by
  cases t <;> cases u
  · exact absurd rfl h
  · rfl
  · rfl
  · exact absurd rfl h
@[simp] theorem Arr.putTile_queue (a : Arr) (t : TileId) (v : Tile) : (a.putTile t v).queue = a.queue := by cases t <;> rfl
@[simp] theorem Arr.putTile_running (a : Arr) (t : TileId) (v : Tile) : (a.putTile t v).running = a.running := by cases t <;> rfl
@[simp] theorem Arr.putTile_flags (a : Arr) (t : TileId) (v : Tile) : (a.putTile t v).flags = a.flags := by cases t <;> rfl
@[simp] theorem Arr.putTile_bank0 (a : Arr) (t : TileId) (v : Tile) : (a.putTile t v).bank0 = a.bank0 := by cases t <;> rfl
@[simp] theorem Arr.putTile_bank1 (a : Arr) (t : TileId) (v : Tile) : (a.putTile t v).bank1 = a.bank1 := by cases t <;> rfl
@[simp] theorem Arr.putTile_active (a : Arr) (t : TileId) (v : Tile) : (a.putTile t v).active = a.active := by cases t <;> rfl
theorem Arr.tile_ext {a b : Arr} (ha : a.tileA = b.tileA) (hb : a.tileB = b.tileB) (t : TileId) : a.tile t = b.tile t := by
  cases t <;> assumption

/-- A jet with one array and its store replaced. -/
def Jet.withArr (x : Jet) (n : Fin 8) (a : Arr) (m : Mem) : Jet :=
  { x with arrays := vset x.arrays n a, core := { x.core with store := m } }

/-- The array replaced, and every other. -/
theorem State.arr_withArr (s : State) (j : Fin 160) (n m : Fin 8) (a : Arr) (st : Mem) :
    (s.putJet j ((s.jet j).withArr n a st)).arr j m = if m = n then a else s.arr j m := by
  rw [State.arr, State.jet_putJet]
  exact vset_get _ _ _ _

/-! ### Reading an operand changes no byte -/

/-- A reader of the jet store that keeps the store canonical and every byte as it reads. -/
def Mem.same (m m' : Mem) : Prop := m'.wf = true ∧ ∀ q, byteAt m' q = byteAt m q

theorem Mem.same_refl {m : Mem} (h : m.wf = true) : m.same m := ⟨h, fun _ => rfl⟩
theorem Mem.same_trans {m m' m'' : Mem} (h : m.same m') (h' : m'.same m'') : m.same m'' :=
  ⟨h'.1, fun q => (h'.2 q).trans (h.2 q)⟩

theorem jsLoad_same {m : Mem} (h : m.wf = true) (a n : Nat) : m.same (jsLoad m a n).2 :=
  ⟨loadBytes_wf _ _ _ h, byteAt_loadBytes _ _ _ h⟩

theorem readBlock_same {m : Mem} (h : m.wf = true) (p : PassDesc) (op slice a ea k0 cnt : Nat) :
    m.same (readBlock p op slice m a ea k0 cnt).2 := by
  have h0 : m.same (if expBytes p op = 0 then (([], m) : List (Option Byte) × Mem) else jsLoad m ea (expBytes p op)).2 := by
    split
    · exact Mem.same_refl h
    · exact jsLoad_same h _ _
  unfold readBlock
  simp only []
  generalize (if expBytes p op = 0 then (([], m) : List (Option Byte) × Mem) else jsLoad m ea (expBytes p op)) = q at h0 ⊢
  split
  · exact h0
  · split
    · exact h0
    · exact Mem.same_trans h0 (jsLoad_same h0.1 _ _)

theorem readBlocks_same (p : PassDesc) (op slice base total : Nat) : ∀ (n i : Nat) {m : Mem}, m.wf = true →
    m.same (readBlocks p op slice base total n i m).2
  | 0, _, _, h => Mem.same_refl h
  | n + 1, i, _, h =>
    have h0 := readBlock_same h p op slice _ _ _ _
    Mem.same_trans h0 (readBlocks_same p op slice base total n (i + 1) h0.1)

/-- The start of a pass reads its streaming operand. -/
theorem PassDesc.begin_same {m : Mem} (h : m.wf = true) (p : PassDesc) : m.same (p.begin m).2 := readBlocks_same p _ _ _ _ _ _ h
@[simp] theorem PassDesc.begin_desc (m : Mem) (p : PassDesc) : (p.begin m).1.desc = p := rfl
/-- A shadow load reads the stationary operand. -/
theorem PassDesc.loadBanks_same {m : Mem} (h : m.wf = true) (p : PassDesc) : m.same (p.loadBanks m).2.2 :=
  readBlocks_same p _ _ _ _ _ _ h

/-! ### The gate of the head of a queue (R104 to R106, R113) -/

section
variable {x : Jet} {L : Nat} {n : Fin 8} {p : PassDesc} (hq : p.quad = false) (hm : p.mode ≠ 3)

include hq hm

/-- A pass of one array has one tile. -/
theorem chainTiles_one : chainTiles n.val p.quad p.mode p.tile = [(n.val, p.tile)] := by simp [chainTiles, tileArrays, hq, hm]

/-- The gate of a pass of one array, by the state of its tile. -/
theorem Jet.gate_one (hl : (x.spoutDesc p.spout).any SpoutDesc.lockstep = true → (x.partner L n.val).isSome = true) :
    x.gate L n.val p =
      let t := (x.arrays.get n).tile p.tile
      let own := t.state == .filling && t.chain == p.chain
      if p.first then (if own then .fault else if t.state == .idle then .start else .held)
      else if own then .go
      else if t.state == .idle then .fault
      else .held := by
  have hno : ¬(!p.quad && (x.spoutDesc p.spout).any SpoutDesc.lockstep && (x.partner L n.val).isNone) = true := by
    intro hc
    simp only [Bool.and_eq_true, Option.isNone_iff_eq_none] at hc
    have := hl hc.1.2
    rw [hc.2] at this
    cases this
  rw [Jet.gate, if_neg hno, chainTiles_one hq hm]
  simp only [List.map_cons, List.map_nil, List.any_cons, List.any_nil, List.all_cons, List.all_nil, Bool.or_false, Bool.and_true, Jet.arr_val]
  split
  · rfl
  · split
    · rfl
    · next h => rw [Bool.eq_false_iff.mpr h, Bool.false_or]

end

/-! ### Sampling touches the basins only -/

/-- Two states that differ in their basins at most. -/
def State.exceptBasins (s t : State) : Prop := t = { s with basins := t.basins }

theorem State.sampleDue_basins (s : State) (d : Fin 4) : s.exceptBasins (s.sampleDue d) := by
  unfold State.sampleDue
  split
  · rfl
  · rfl

theorem State.sentinelGap_basins (s : State) (j : Fin 160) (n : Nat) (p : PassDesc) : s.exceptBasins (s.sentinelGap j n p) := by
  unfold State.sentinelGap
  simp only []
  split
  · rfl
  · rw [State.sampleDue_basins s]
    rfl

/-! ### The pass at the head of a queue -/

@[simp] theorem Arr.putTile_tile (a : Arr) (t : TileId) : a.putTile t (a.tile t) = a := by cases t <;> rfl

/-- The tile of a pass that runs: a new one of its chain where the pass starts it, with the rows of the chain's last pass. -/
def PassDesc.takeTile (p : PassDesc) (start : Bool) (cols : Nat) (t : Tile) : Tile :=
  let t := if start then { state := .filling, chain := p.chain, mode := p.mode, quad := p.quad, spout := p.spout, cols := cols,
                           drainTo := t.drainTo, drainChain := t.drainChain } else t
  if p.last then { t with rows := p.rows } else t

/-- The array of a pass that runs. -/
def Jet.headArr (x : Jet) (n : Fin 8) (p : PassDesc) (rest : List PassDesc) (start : Bool) : Arr :=
  { x.arrays.get n with queue := rest, held := false, running := some (p.begin x.core.store).1 }.putTile p.tile
    (p.takeTile start (x.chainCols.get 32 p.chain) ((x.arrays.get n).tile p.tile))

/-- The state in which a pass at the head of a queue runs. -/
def State.headRun (s : State) (j : Fin 160) (n : Fin 8) (p : PassDesc) (rest : List PassDesc) (start : Bool) : State :=
  let t := s.putJet j ((s.jet j).withArr n ((s.jet j).headArr n p rest start) (p.begin (s.jet j).core.store).2)
  if start then t.sentinelGap j n.val p else t

/-- A pass at the head of a queue that is held. -/
def State.headHeld (s : State) (j : Fin 160) (n : Fin 8) : State :=
  if (s.arr j n).held then s
  else (s.modArr j n fun x => { x with held := true }).modBasin ⟨j.val / 40, by omega⟩ fun b => { b with conflict := satInc b.conflict }

section
variable {j : Fin 160} {n : Fin 8} {p : PassDesc} {rest : List PassDesc} {s : State}
  (hqueue : (s.arr j n).queue = p :: rest) (hquad : p.quad = false) (hm : p.mode ≠ 3) (hclk : s.keeper.aclkOn = true)
  (hrun : (s.arr j n).running = none) (hserved : (s.arr j n).served n.val = false) (hsnt : s.sentinelOn j n.val = false)

include hqueue hquad hm hclk hrun hserved hsnt

/-- A pass of one array that need not wait goes by its gate. -/
theorem exec_queueHead : exec (.queueHeadPass j n) s = .next (match (s.jet j).gate s.logicalArrays n.val p with
    | .fault => (s.putJet j ((s.jet j).refusePass n.val p)).placeWork
    | .held => s.headHeld j n
    | .start => (s.headRun j n p rest true).placeWork
    | .go => (s.headRun j n p rest false).placeWork) := by
  change execQueueHeadPass j n s = _
  simp only [execQueueHeadPass, Jet.arr_val, show (s.jet j).arrays.get n = s.arr j n from rfl, hqueue]
  refine congrArg _ ((if_neg ?_).trans ?_)
  · simp [passArrays, hquad, hclk, hrun, hserved, hsnt]
  · rw [chainTiles_one hquad hm, hquad]
    cases (s.jet j).gate s.logicalArrays n.val p with
    | fault => rfl
    | held =>
      simp only [Jet.modArr_val]
      rfl
    | start =>
      cases hl : p.last <;>
        simp [Jet.modTiles_one, Jet.modArr_val, State.headRun, Jet.withArr, Jet.headArr, PassDesc.takeTile, hl, hquad] <;> rfl
    | go =>
      cases hl : p.last <;> cases ht : p.tile <;>
        simp [Jet.modTiles_one, Jet.modArr_val, State.headRun, Jet.withArr, Jet.headArr, PassDesc.takeTile, hl, hquad, ht] <;> rfl

end

/-- The array of a pass that is refused. -/
def Arr.refused (a : Arr) (loaded : Bool) : Arr :=
  let a := { a with queue := a.queue.drop 1, held := false, flags := a.flags ||| 8 }
  if loaded then { a with shadow := 0, loadFault := false, formed := false } else a

/-- A pass that is refused sets the fault flag of its array, and makes ARRAY_FAULT pending. -/
theorem Jet.refusePass_eq (x : Jet) (n : Fin 8) (p : PassDesc) (hquad : p.quad = false) : x.refusePass n.val p =
    { x with arrays := vset x.arrays n ((x.arrays.get n).refused (p.loads && (x.arrays.get n).headLoaded)),
             core := { x.core with pendArray := x.core.pendArray ++ [(n.val, p.chain)] } } := by
  simp only [Jet.refusePass, Jet.arrayFault, Jet.arr_val, Jet.modArr_val, passArrays, hquad]
  cases p.loads && (x.arrays.get n).headLoaded with
  | false => simp [Jet.modArr_val, Arr.refused]
  | true => simp [Jet.modArr_val, Arr.refused]

/-- A pass that runs changes its jet, and the basin's sentinel where it starts its chain. -/
theorem State.headRun_eq (s : State) (j : Fin 160) (n : Fin 8) (p : PassDesc) (rest : List PassDesc) (start : Bool) :
    ∃ b, s.headRun j n p rest start =
      { s.putJet j ((s.jet j).withArr n ((s.jet j).headArr n p rest start) (p.begin (s.jet j).core.store).2) with basins := b } ∧
        (start = false → b = s.basins) := by
  rw [State.headRun]
  generalize (s.jet j).withArr n _ _ = x
  cases start with
  | true => exact ⟨_, State.sentinelGap_basins _ _ _ _, fun h => nomatch h⟩
  | false => exact ⟨s.basins, rfl, fun _ => rfl⟩

/-- A pass that runs leaves every jet and array but its own, and every byte of the store, as they are. -/
theorem State.headRun_spec (s : State) (j : Fin 160) (n : Fin 8) (p : PassDesc) (rest : List PassDesc) (start : Bool)
    (hwf : Mem.wf (s.jet j).core.store = true) :
    let t := s.headRun j n p rest start
    t.arr j n = (s.jet j).headArr n p rest start ∧ (∀ m, m ≠ n → t.arr j m = s.arr j m) ∧ (∀ i, i ≠ j → t.jet i = s.jet i) ∧
      (∀ q, byteAt (t.jet j).core.store q = byteAt (s.jet j).core.store q) ∧ t = { s with jets := t.jets, basins := t.basins } ∧
      (start = false → t.basins = s.basins) := by
  obtain ⟨b, hb, hbs⟩ := s.headRun_eq j n p rest start
  intro t
  have hjet : t.jet j = (s.jet j).withArr n ((s.jet j).headArr n p rest start) (p.begin (s.jet j).core.store).2 := by
    rw [show t = _ from hb]
    exact State.jet_putJet _ _ _
  refine ⟨?_, fun m hmn => ?_, fun i hi => ?_, fun q => ?_, ?_, fun h => ?_⟩
  · rw [State.arr, hjet]
    exact vset_get_self _ _ _
  · rw [State.arr, hjet]
    exact vset_get_ne _ _ _ _ hmn
  · rw [show t = _ from hb]
    exact State.jet_putJet_ne _ _ _ _ hi
  · rw [hjet]
    exact (p.begin_same hwf).2 q
  · rw [show t = _ from hb]
    rfl
  · rw [show t = _ from hb]
    exact hbs h

/-- Settles O15: the gate of the head of the queue by its tile's state, and what each of its outcomes does. -/
theorem queueHeadStartsHoldsOrFaults : Obligations.QueueHeadStartsHoldsOrFaults := by
  intro j n p rest s a tile d hqueue hquad hm hclk hrun hserved hsnt hwf hlock runs
  have hexec := exec_queueHead hqueue hquad hm hclk hrun hserved hsnt
  rw [Jet.gate_one hquad hm hlock] at hexec
  have hruns (start : Bool) : runs (s.headRun j n p rest start) := by
    obtain ⟨harr, hother, hjet, hbyte, hrest, -⟩ := s.headRun_spec j n p rest start hwf
    refine ⟨?_, ?_, ?_, ?_, ?_, hother, hjet, hbyte, hrest⟩ <;> rw [harr] <;> simp [Jet.headArr] <;> rfl
  have ht : ((s.jet j).arrays.get n).tile p.tile = tile := rfl
  simp only [ht] at hexec
  have harr (start : Bool) : ((s.headRun j n p rest start).arr j n).tile p.tile =
      p.takeTile start ((s.jet j).chainCols.get 32 p.chain) tile := by
    rw [(s.headRun_spec j n p rest start hwf).1]
    exact Arr.tile_putTile _ _ _
  refine ⟨fun hi hf => ⟨s.headRun j n p rest true, ?_, hruns true, ?_⟩, fun hs hc hf => ⟨s.headRun j n p rest false, ?_, hruns false, ?_⟩,
    fun hi hown => ?_, fun hor => ⟨s.putJet j ((s.jet j).refusePass n.val p), ?_, rfl, fun i hi => State.jet_putJet_ne _ _ _ _ hi, ?_⟩⟩
  · simpa [hi, hf] using hexec
  · rw [harr]
    cases hl : p.last <;> simp [PassDesc.takeTile, hl]
  · simpa [hs, hc, hf] using hexec
  · refine ⟨(harr false).trans ?_, (s.headRun_spec j n p rest false hwf).2.2.2.2.2 rfl⟩
    cases hl : p.last <;> simp [PassDesc.takeTile, hl]
  · have hown' : (tile.state == .filling && tile.chain == p.chain) = false := by
      simpa [Bool.and_eq_false_iff] using hown
    have hi' : (tile.state == .idle) = false := by simpa using hi
    exact hexec.trans (by simp only [hown', hi', Bool.false_eq_true, if_false, ite_self]; rfl)
  · rcases hor with ⟨hi, hf⟩ | ⟨hs, hc, hf⟩
    · simpa [hi, hf] using hexec
    · simpa [hs, hc, hf] using hexec
  · rw [State.arr, State.jet_putJet, (s.jet j).refusePass_eq n p hquad]
    simp only [vset_get_self, Arr.refused]
    have hq : ((s.jet j).arrays.get n).queue = p :: rest := hqueue
    split <;> simp [hq] <;> exact ⟨rfl, rfl, rfl⟩

/-! ### Shadow loads and swaps (R92 to R95) -/

/-- The load of a pass of one array fills its shadow bank. -/
theorem PassDesc.loadBanks_one {p : PassDesc} (hquad : p.quad = false) (m : Mem) : ∃ b, (p.loadBanks m).1 = [b] :=
  List.length_eq_one_iff.mp (by simp [PassDesc.loadBanks, hquad])

@[simp] theorem Arr.putShadow_bank (a : Arr) (b : Bank) : (a.putShadow b).bank = a.bank := by
  cases h : a.active <;> simp [Arr.putShadow, Arr.bank, h]

/-- The shadow load of a pass that heads the queue of an idle array. -/
theorem exec_shadowLoadStart {j : Fin 160} {n : Fin 8} {p : PassDesc} {rest : List PassDesc} {b : Bank} {s : State}
    (hrun : (s.arr j n).running = none) (hqueue : (s.arr j n).queue = p :: rest) (hquad : p.quad = false) (hstat : p.stat = 1)
    (hsh : (s.arr j n).shadow = 0) (hclk : s.keeper.aclkOn = true) (hsnt : s.sentinelOn j n.val = false)
    (hserved : (s.arr j n).served n.val = false) (hgate : (s.jet j).gate s.logicalArrays n.val p ≠ .fault)
    (hb : (p.loadBanks (s.jet j).core.store).1 = [b]) : exec (.shadowLoadStart j n) s = .next (s.putJet j ((s.jet j).withArr n
      { (s.arr j n).putShadow b with shadow := 1, formed := false, loadFault := (p.loadBanks (s.jet j).core.store).2.1 }
      (p.loadBanks (s.jet j).core.store).2.2)) := by
  change execShadowLoadStart j n s = _
  have hfor : (s.arr j n).loadFor = some p := by rw [Arr.loadFor, hrun, hqueue]; rfl
  simp only [execShadowLoadStart, Jet.arr_val, show (s.jet j).arrays.get n = s.arr j n from rfl, hfor, hb]
  refine congrArg _ ((if_neg ?_).trans ((if_neg ?_).trans ?_))
  · simp [passArrays, Jet.arr_val, hquad, hclk, hserved, hsnt, PassDesc.loads, hstat, show ((s.jet j).arrays.get n).shadow = 0 from hsh]
  · simp [hrun, hquad, hgate]
  · simp [passArrays, hquad, hrun, Jet.modArr_val, Jet.withArr, State.arr]

/-- The end of the shadow load of the pass that runs. -/
theorem exec_shadowLoadDone {j : Fin 160} {n : Fin 8} {r : PassRun} {s : State} (hrun : (s.arr j n).running = some r)
    (hsw : r.swapped = false) (hquad : r.desc.quad = false) (hstat : r.desc.stat = 1) (hsh : (s.arr j n).shadow = 1)
    (hserved : (s.arr j n).served n.val = false) :
    exec (.shadowLoadDone j n) s = .next (s.modArr j n fun x => { x with shadow := 2 }) := by
  change execShadowLoadDone j n s = _
  have hfor : (s.arr j n).loadFor = some r.desc := by
    rw [Arr.loadFor, hrun]
    simp [PassRun.toLoad, PassDesc.loads, hstat, hsw]
  simp only [execShadowLoadDone, Jet.arr_val, show (s.jet j).arrays.get n = s.arr j n from rfl, hfor]
  refine congrArg _ ((if_neg ?_).trans ?_)
  · simp [hsh, hserved]
  · simp [passArrays, hquad, Jet.modArr_val, show ((s.jet j).arrays.get n).shadow = 1 from hsh, State.modArr, State.modJet]

/-- The banks of an array exchanged (R93). -/
def Arr.swap (a : Arr) (r : PassRun) (stall : Nat) : Arr :=
  { a with active := !a.active, shadow := 0, loadFault := false
           running := some { r with swapped := true, fault := r.fault || (r.desc.loads && a.loadFault) }
           stall := if r.desc.stat = 1 then satAdd a.stall stall else a.stall }

/-- The swap of the pass that runs. -/
theorem exec_bankSwap {j : Fin 160} {n : Fin 8} {r : PassRun} {stall : Nat} {s : State} (hrun : (s.arr j n).running = some r)
    (hsw : r.swapped = false) (hquad : r.desc.quad = false)
    (h : (r.desc.stat = 1 ∧ (s.arr j n).shadow = 2) ∨ (r.desc.stat = 2 ∧ (s.arr j n).shadow ≠ 1)) :
    exec (.bankSwap j n stall) s = .next (s.modArr j n fun a => a.swap r stall) := by
  change execBankSwap j n stall s = _
  simp only [execBankSwap, Jet.arr_val, show (s.jet j).arrays.get n = s.arr j n from rfl, hrun]
  refine congrArg _ ((if_neg ?_).trans ?_)
  · rcases h with ⟨hs, h2⟩ | ⟨hs, h2⟩ <;> simp [PassRun.toSwap, PassDesc.swaps, PassDesc.loads, hs, h2, hsw]
  · simp [passArrays, hquad, Jet.modArr_val, Arr.swap, PassDesc.loads, State.modArr, State.modJet, State.arr]

/-- The banks after a swap, seen from the new active one. -/
theorem Arr.swap_banks (a : Arr) (r : PassRun) (stall : Nat) : (a.swap r stall).bank = (if a.active then a.bank0 else a.bank1) ∧
    (if (a.swap r stall).active then (a.swap r stall).bank0 else (a.swap r stall).bank1) = a.bank := by
  cases h : a.active <;> simp [Arr.swap, Arr.bank, h]

/-- The array that a change is made to, after it. -/
theorem State.arr_modArr (s : State) (j : Fin 160) (n : Fin 8) (f : Arr → Arr) : (s.modArr j n f).arr j n = f (s.arr j n) := by
  rw [State.modArr, State.modJet, State.arr, State.jet_putJet]
  exact vset_get_self _ _ _

/-- Settles O16: the shadow load, its end and the swap, each on the one array. -/
theorem shadowLoadAndSwapExchangeBanks : Obligations.ShadowLoadAndSwapExchangeBanks := by
  intro j n stall s a
  refine ⟨fun p rest hrun hqueue hquad hstat hsh hclk hsnt hserved hgate hwf => ?_,
    fun r hrun hsw hquad hstat hsh hserved => exec_shadowLoadDone hrun hsw hquad hstat hsh hserved,
    fun r hrun hsw hquad h => ⟨_, exec_bankSwap hrun hsw hquad h, rfl, fun i hi => State.jet_putJet_ne _ _ _ _ hi, ?_⟩⟩
  · obtain ⟨b, hb⟩ := PassDesc.loadBanks_one hquad (s.jet j).core.store
    refine ⟨_, exec_shadowLoadStart hrun hqueue hquad hstat hsh hclk hsnt hserved hgate hb, rfl,
      fun i hi => State.jet_putJet_ne _ _ _ _ hi, ?_⟩
    rw [s.arr_withArr, if_pos rfl, hb, State.jet_putJet]
    refine ⟨Arr.putShadow_bank _ _, rfl, ?_, ?_, ?_, ?_, (p.loadBanks_same hwf).2⟩ <;> cases h : a.active <;>
      simp [Arr.putShadow, show (s.arr j n).active = _ from h] <;> rfl
  · rw [State.arr_modArr]
    obtain ⟨hact, hsh⟩ := Arr.swap_banks a r stall
    exact ⟨hact, hsh, rfl, rfl, rfl, rfl, rfl⟩

end Sys2Proof.Machine
end

section
/-! The matrix arrays: an INT pass, the RAW drain and the clearing of a tile (R97, R100, R103, R113, R132). -/

namespace Sys2Proof.Machine

/-! ### An INT pass (R97, R100) -/

/-- A table whose values are all changed by a function. -/
theorem Tbl.get_map_of_has {α : Type} (d : α) (f : α → α) {t : Tbl α} {k : Nat} (h : Tbl.has t k = true) :
    Tbl.get d (t.map fun q => (q.1, f q.2)) k = f (Tbl.get d t k) := by
  induction t with
  | nil => cases h
  | cons q t ih =>
    simp only [List.map_cons, Tbl.get]
    split
    · rfl
    · next hk =>
      refine ih ?_
      simpa [Tbl.has, hk] using h

/-- A table with a value set has it. -/
theorem Tbl.has_set {α : Type} (t : Tbl α) (k i : Nat) (v : α) : Tbl.has (t.set k v) i = (k == i || Tbl.has t i) := by
  induction t with
  | nil => simp [Tbl.set, Tbl.has]
  | cons q t ih =>
    rw [Tbl.set]
    split
    · next h => simp [Tbl.has, h]
    · have ih' := ih
      simp only [Tbl.has] at ih' ⊢
      simp [ih', Bool.or_left_comm]

/-- Rows changed in turn. -/
theorem Tbl.foldl_set_row {α : Type} (d : α) (g : Nat → α → α) (t : Tbl α) (n m : Nat) :
    let u := (List.range n).foldl (fun (tb : Tbl α) i => tb.set i (g i (tb.get d i))) t
    (m < n → Tbl.has u m = true ∧ Tbl.get d u m = g m (Tbl.get d t m)) ∧ (n ≤ m → Tbl.get d u m = Tbl.get d t m) := by
  induction n with
  | zero => exact ⟨fun h => absurd h (Nat.not_lt_zero _), fun _ => rfl⟩
  | succ n ih =>
    rw [List.range_succ, List.foldl_append, List.foldl_cons, List.foldl_nil]
    obtain ⟨hlt, hge⟩ := ih
    simp only [Tbl.get_set_eq, Tbl.has_set]
    refine ⟨fun hm => ?_, fun hm => ?_⟩
    · by_cases he : m = n
      · subst he
        simp [hge (Nat.le_refl _)]
      · obtain ⟨h1, h2⟩ := hlt (by omega)
        simp [h1, he, h2]
    · rw [if_neg (by omega)]
      exact hge (by omega)

/-- The sum and the mark of a column. -/
theorem colSum_eq (p : PassDesc) (xs : List (Nat × Bool)) (b : Bank) (c : Nat) :
    let x (k : Nat) := xs.getD k (0, false)
    let w (k : Nat) := (b.codes.getD k []).getD c (0, false)
    colSum p xs 0 b c = (((List.range 16).map fun k => codeVal p.opX p.sliceX (x k).1 * codeVal p.opW p.sliceW (w k).1).sum,
      (List.range 16).any fun k => (x k).2 || (w k).2) := by
  have fold (l : List Nat) (f : Nat → Int) (g h : Nat → Bool) (a : Int) (m : Bool) :
      l.foldl (fun (acc : Int × Bool) k => (acc.1 + f k, acc.2 || g k || h k)) (a, m) = (a + (l.map f).sum, m || l.any fun k => g k || h k) := by
    induction l generalizing a m with
    | nil => simp
    | cons k l ih =>
      rw [List.foldl_cons, ih]
      simp [Int.add_assoc, Bool.or_assoc]
  simp only [colSum, Nat.zero_add]
  rw [fold]
  simp

/-- A sum clamped to ±(2^31 − 1). -/
theorem clampAdd_fst (a b : Int) : (clampAdd a b).1 = max (-(2 ^ 31 - 1)) (min (2 ^ 31 - 1) (a + b)) := by
  unfold clampAdd
  split
  · simp only []; omega
  · split
    · simp only []; omega
    · simp only []; omega

/-- An entry of a row that an INT pass streamed, after its BLOCK_END. -/
theorem takeUp_accRow {p : PassDesc} (hm : p.mode = 0) (xs : List (Nat × Bool)) (ux : Int) (b : Bank) (r : TileRow) {c : Nat} (hc : c < 16) :
    let e := r.entry c
    let e' := ((takeUp p.mode (accRow p xs ux b none r)).1).entry c
    let o := colSum p xs 0 b c
    e'.s = max (-(2 ^ 31 - 1)) (min (2 ^ 31 - 1) (e.s + (e.br + BitVec.ofInt 128 (o.1 * 2 ^ pairShift p)).toInt)) ∧ e'.br = 0 ∧
      e'.p = (e.p || o.2) := by
  simp only [takeUp, hm, accRow, TileRow.entry]
  simp [List.getD_eq_getElem?_getD, hc, clampAdd_fst]

/-- Sampling a pass touches the basins only. -/
theorem State.samplePass_basins (s : State) (j : Fin 160) (n : Nat) (r : PassRun) (banks : List Bank) :
    s.exceptBasins (s.samplePass j n r banks) := by
  unfold State.samplePass
  simp only []
  rw [State.sampleDue_basins s]
  rfl

/-- A jet changed in a state with other basins. -/
theorem State.exceptBasins_putJet {s s' : State} (h : s.exceptBasins s') (j : Fin 160) (x : Jet) :
    s'.putJet j x = { s with jets := vset s.jets j x, basins := s'.basins } := by
  rw [h]
  rfl

/-- The rows of a tile after a pass is accumulated into it. -/
def passRows (r : PassRun) (b : Bank) (run : Tbl TileRow) : Tbl TileRow :=
  (List.range r.desc.rows).foldl (fun (tb : Tbl TileRow) m =>
    tb.set m (accRow r.desc (r.x.getD m []) (r.ex.getD m 0) b none (tb.get {} m))) run

/-- A pass of one array and of INT mode is accumulated into its tile. -/
theorem Jet.accumulate_one (x : Jet) (n : Fin 8) {r : PassRun} (hm : r.desc.mode = 0) (hquad : r.desc.quad = false) :
    x.accumulate n.val r = x.modArr n.val fun a => a.putTile r.desc.tile
      { (x.arrays.get n).tile r.desc.tile with
        run := passRows r (x.arrays.get n).bank ((x.arrays.get n).tile r.desc.tile).run } := by
  have ht : dataTile r.desc.mode r.desc.tile = r.desc.tile := by rw [hm]; rfl
  rw [Jet.accumulate]
  refine (if_neg (by rw [hm]; decide)).trans ?_
  simp only [ht, hquad, tileArrays, Bool.false_eq_true, if_false, List.foldl_cons, List.foldl_nil, Jet.arr_val]
  rfl

/-- The end of a block that is not the end of a segment. -/
theorem Tile.endPass_block (t : Tile) {p : PassDesc} (hm : p.mode = 0) (hb : p.blockEnd = true) (hs : p.segEnd = false) (hl : p.last = false) :
    ∃ sat kpos, t.endPass p = ({ t with run := t.run.map fun q => (q.1, (takeUp p.mode q.2).1), kpos := kpos }, sat, false) := by
  refine ⟨(t.endPass p).2.1, t.kpos + 32, Prod.ext ?_ (Prod.ext rfl ?_)⟩ <;>
    simp [Tile.endPass, PassDesc.endsBlock, PassDesc.endsSeg, hm, hb, hs, hl]

/-- Counting saturations leaves the tiles, the queue and the run. -/
theorem Arr.countSat_spec (a : Arr) (mode : Nat) (t : TileId) (n : Nat) : (a.countSat mode t n).tileA = a.tileA ∧
    (a.countSat mode t n).tileB = a.tileB ∧ (a.countSat mode t n).queue = a.queue := by
  unfold Arr.countSat
  split
  · exact ⟨rfl, rfl, rfl⟩
  · split <;> exact ⟨rfl, rfl, rfl⟩

/-- The flags of a pass of one array that ends a block and no segment. -/
theorem Jet.passFlags_one (x : Jet) (n : Fin 8) {p : PassDesc} (hm : p.mode = 0) (hquad : p.quad = false) (hb : p.blockEnd = true)
    (hs : p.segEnd = false) (hl : p.last = false) : ∃ sat kpos, x.passFlags n.val p = (x.modArr n.val fun a => (a.putTile p.tile
      { (x.arrays.get n).tile p.tile with
        run := ((x.arrays.get n).tile p.tile).run.map fun q => (q.1, (takeUp p.mode q.2).1)
        kpos := kpos }).countSat p.mode p.tile sat, false) := by
  obtain ⟨sat, kpos, hend⟩ := ((x.arrays.get n).tile p.tile).endPass_block hm hb hs hl
  refine ⟨sat, kpos, ?_⟩
  have ht : dataTile p.mode p.tile = p.tile := by rw [hm]; rfl
  simp only [Jet.passFlags, ht, hquad, hl, tileArrays, Bool.false_eq_true, if_false, List.foldl_cons, List.foldl_nil, Jet.arr_val, hend]
  rfl

/-- The array after an INT pass of one array with BLOCK_END. -/
def Arr.passed (a : Arr) (r : PassRun) (kpos sat : Nat) : Arr :=
  { ((a.putTile r.desc.tile { a.tile r.desc.tile with
      run := (passRows r a.bank (a.tile r.desc.tile).run).map fun q => (q.1, (takeUp r.desc.mode q.2).1)
      kpos := kpos }).countSat r.desc.mode r.desc.tile sat) with running := none }

theorem Arr.passed_tile (a : Arr) (r : PassRun) (kpos sat : Nat) (u : TileId) : (a.passed r kpos sat).tile u =
    (a.putTile r.desc.tile { a.tile r.desc.tile with
      run := (passRows r a.bank (a.tile r.desc.tile).run).map fun q => (q.1, (takeUp r.desc.mode q.2).1)
      kpos := kpos }).tile u := by
  obtain ⟨ha, hb, -⟩ := Arr.countSat_spec (a.putTile r.desc.tile { a.tile r.desc.tile with
      run := (passRows r a.bank (a.tile r.desc.tile).run).map fun q => (q.1, (takeUp r.desc.mode q.2).1)
      kpos := kpos }) r.desc.mode r.desc.tile sat
  exact Arr.tile_ext ha hb u

/-- A row that the pass streamed, after it. -/
theorem passRows_takeUp (r : PassRun) (b : Bank) (run : Tbl TileRow) {m : Nat} (hm : m < r.desc.rows) :
    Tbl.get {} ((passRows r b run).map fun q => (q.1, (takeUp r.desc.mode q.2).1)) m =
      (takeUp r.desc.mode (accRow r.desc (r.x.getD m []) (r.ex.getD m 0) b none (Tbl.get {} run m))).1 := by
  obtain ⟨hhas, hget⟩ := (Tbl.foldl_set_row ({} : TileRow)
    (fun m row => accRow r.desc (r.x.getD m []) (r.ex.getD m 0) b none row) run r.desc.rows m).1 hm
  refine (Tbl.get_map_of_has {} (fun q => (takeUp r.desc.mode q).1) hhas).trans ?_
  rw [hget]

/-- The end of an INT pass of one array with BLOCK_END: the rows of its tile take up their block sums. -/
theorem exec_passComplete {j : Fin 160} {n : Fin 8} {r : PassRun} {s : State} (hrun : (s.arr j n).running = some r)
    (hm : r.desc.mode = 0) (hquad : r.desc.quad = false) (hstat : r.desc.stat = 0) (hb : r.desc.blockEnd = true)
    (hs : r.desc.segEnd = false) (hl : r.desc.last = false) (hf : r.fault = false) :
    ∃ basins kpos sat, exec (.passComplete j n) s = .next { s.modArr j n fun a => a.passed r kpos sat with basins := basins } := by
  let y : Jet := (s.jet j).modArr n.val fun a => a.putTile r.desc.tile
      { (s.arr j n).tile r.desc.tile with run := passRows r (s.arr j n).bank ((s.arr j n).tile r.desc.tile).run }
  have hacc : (s.jet j).accumulate n.val r = y := (s.jet j).accumulate_one n hm hquad
  obtain ⟨sat, kpos, hflags⟩ := y.passFlags_one n hm hquad hb hs hl
  refine ⟨(s.samplePass j n.val r [(s.arr j n).bank]).basins, kpos, sat, ?_⟩
  change execPassComplete j n s = _
  simp only [execPassComplete, Jet.arr_val, show (s.jet j).arrays.get n = s.arr j n from rfl, hrun]
  refine congrArg _ ((if_neg ?_).trans ?_)
  · simp [PassRun.toSwap, PassDesc.swaps, hstat]
  · rw [State.exceptBasins_putJet (State.samplePass_basins _ _ _ _ _), hacc, hflags, hf, hquad]
    simp only [passArrays, Bool.or_self, Bool.false_eq_true, if_false, List.map_cons, List.map_nil, Jet.arr_val, Jet.modArr_val, y,
      vset_get_self, vset_vset, Arr.tile_putTile, Arr.putTile_putTile]
    rfl

/-- What a change of one array, and of the basins, leaves. -/
theorem State.modArr_frame {s t : State} {j : Fin 160} {n : Fin 8} {f : Arr → Arr} {b : Vector Basin 4}
    (h : t = { s.modArr j n f with basins := b }) : t = { s with jets := t.jets, basins := t.basins } ∧ (∀ i, i ≠ j → t.jet i = s.jet i) ∧
      (∀ m, m ≠ n → t.arr j m = s.arr j m) ∧ (t.jet j).core = (s.jet j).core ∧ t.arr j n = f (s.arr j n) := by
  have hj : t.jet j = { s.jet j with arrays := vset (s.jet j).arrays n (f (s.arr j n)) } := by
    rw [h]
    exact State.jet_putJet _ _ _
  refine ⟨by rw [h]; rfl, fun i hi => ?_, fun m hmn => ?_, by rw [hj], ?_⟩
  · rw [h]
    exact State.jet_putJet_ne _ _ _ _ hi
  · rw [State.arr, hj]
    exact vset_get_ne _ _ _ _ hmn
  · rw [State.arr, hj]
    exact vset_get_self _ _ _

/-- R97, R100, R121: an INT pass adds its block sums. -/
theorem intPassAddsItsProducts : Claims.IntPassAddsItsProducts := by
  intro j n r s a p tile bank x w hrun hm hquad hstat hb hs hl hf
  obtain ⟨basins, kpos, sat, hexec⟩ := exec_passComplete hrun hm hquad hstat hb hs hl hf
  obtain ⟨t, ht⟩ : ∃ t, t = { s.modArr j n fun a => a.passed r kpos sat with basins := basins } := ⟨_, rfl⟩
  rw [← ht] at hexec
  obtain ⟨hs', hjet, hother, hcore, harr⟩ := State.modArr_frame ht
  refine ⟨t, hexec, hs', hjet, hother, hcore, ?_, ?_, ?_, ?_⟩
  · rw [harr]
    rfl
  · rw [harr]
    exact (Arr.countSat_spec _ _ _ _).2.2.trans (Arr.putTile_queue _ _ _)
  · rw [harr, Arr.passed_tile]
    exact Arr.tile_putTile_ne _ _ (by show (if r.desc.tile = .a then TileId.b else TileId.a) ≠ r.desc.tile; cases r.desc.tile <;> decide)
  · intro m hmr c hc e e' v
    have he' : e' = ((takeUp p.mode (accRow p (r.x.getD m []) (r.ex.getD m 0) bank none (tile.run.get {} m))).1).entry c := by
      refine congrArg (fun row : TileRow => row.entry c) ?_
      rw [harr, Arr.passed_tile, Arr.tile_putTile]
      exact passRows_takeUp r bank _ hmr
    have hacc := takeUp_accRow hm (r.x.getD m []) (r.ex.getD m 0) bank (tile.run.get {} m) hc
    rw [colSum_eq] at hacc
    rw [he']
    exact hacc

/-! ### Drains and clears (R103, R113, R132, R172) -/

/-- R103, R172: TILE_RETURN_IDLE and DRAIN_LAST_WRITE on a tile of one array. -/
theorem drainedTileClearsAndReleases : Claims.DrainedTileClearsAndReleases := by
  intro j n t s tile
  refine ⟨fun hst hquad hm => ?_, fun hst => ?_⟩
  · change execTileReturnIdle j n t s = _
    simp only [execTileReturnIdle, Jet.arr_val, show ((s.jet j).arrays.get n).tile t = tile from rfl]
    refine congrArg _ ((if_neg ?_).trans ?_)
    · simp [hst]
    · simp only [hquad, Bool.false_and, chainTiles, tileArrays, Bool.false_eq_true, if_false, List.flatMap_cons, List.flatMap_nil,
        if_neg hm, List.append_nil, Jet.clearTiles, Jet.modTiles_one, Jet.modArr_val]
      rfl
  · change execDrainLastWrite j n t s = _
    simp only [execDrainLastWrite, Jet.arr_val, show ((s.jet j).arrays.get n).tile t = tile from rfl]
    refine congrArg _ ((if_neg ?_).trans ?_)
    · simpa using hst
    · rw [Jet.modArr_val]
      rfl

/-- Taking a drained tile's part of a sample touches the basins only. -/
theorem State.sampleDrain_basins (s : State) (j : Fin 160) (n : Nat) (t : TileId) (chain : Nat) (e : SpoutEnv) (vals : List (List Src))
    (poison : Bool) : s.exceptBasins (s.sampleDrain j n t chain e vals poison) := rfl

/-- The bytes of a RAW drain of one tile (R132). -/
def Tile.rawBytes (y : Tile) : List Byte := (List.range y.rows).flatMap fun r => packRow y.mode (y.run.get {} r)

/-- The drain of one tile to a RAW destination that may be written. -/
theorem State.drain_raw {s : State} {j : Fin 160} {n : Fin 8} {t : TileId} {d : SpoutDesc}
    (hquad : ((s.arr j n).tile t).quad = false) (hm : ((s.arr j n).tile t).mode ≤ 2) (hdest : d.dest = 0xFF)
    (hfit : d.outElem.toNat + ((s.arr j n).tile t).rows * recBytes ((s.arr j n).tile t).mode ≤ 0x1400000)
    (hcode : (s.jet j).core.code = (0, 0)) :
    let tile := (s.arr j n).tile t
    ∃ b, s.drain j [n.val] t d = { s.putJet j ((s.jet j).withArr n ((s.arr j n).putTile t { tile with
        state := .draining, drainTo := [(d.outElem.toNat, tile.rows * recBytes tile.mode)], drainChain := tile.chain })
      (storeBytes (s.jet j).core.store d.outElem.toNat tile.rawBytes)) with basins := b } := by
  intro tile
  have hout (mode rows : Nat) : outRanges mode false rows d = [(d.outElem.toNat, rows * recBytes mode)] := by
    simp [outRanges, hdest]
  have hraw (r : Nat) : resultRecord tile.mode (tile.run.get {} r) = packRow tile.mode (tile.run.get {} r) := by
    rw [resultRecord, if_neg (by have : tile.mode ≤ 2 := hm; omega)]
  have hok : ¬(outRanges tile.mode false tile.rows d).any (badOutput (s.jet j).core) = true := by
    rw [hout]
    simp only [List.any_cons, List.any_nil, badOutput, hcode]
    simpa using fun _ _ => hfit
  refine ⟨(s.drain j [n.val] t d).basins, ?_⟩
  change State.exceptBasins _ _
  generalize hT : s.putJet j _ = T
  simp only [State.drain, List.map_cons, List.map_nil, Jet.arr_val, show ((s.jet j).arrays.get n).tile t = tile from rfl, List.headD_cons,
    List.foldl_cons, List.foldl_nil, show tile.quad = false from hquad, Nat.zero_max]
  rw [if_neg hok]
  simp only [if_pos hdest, hout, Bool.false_eq_true, if_false, List.flatMap_cons, List.flatMap_nil, List.append_nil, hraw,
    Tile.parts, if_neg (show tile.mode ≠ 3 from by have : tile.mode ≤ 2 := hm; omega), Jet.modTiles_one, Jet.modArr_val, vset_vset, vset_get_self,
    Arr.tile_putTile, Arr.putTile_putTile, show ((s.jet j).arrays.get n).tile t = tile from rfl]
  rw [← hT]
  exact State.sampleDrain_basins _ _ _ _ _ _ _ _

/-- The bytes of a RAW drain, row by row. -/
theorem Tile.length_rawBytes (y : Tile) : y.rawBytes.length = y.rows * recBytes y.mode := by
  simp [Tile.rawBytes, List.length_flatMap, length_packRow]

theorem Tile.rawBytes_getD (y : Tile) {r i : Nat} (hr : r < y.rows) (hi : i < recBytes y.mode) :
    r * recBytes y.mode + i < y.rows * recBytes y.mode ∧
      y.rawBytes.getD (r * recBytes y.mode + i) 0 = (packRow y.mode (y.run.get {} r)).getD i 0 := by
  have hlt : r * recBytes y.mode + i < y.rows * recBytes y.mode := by
    calc r * recBytes y.mode + i < (r + 1) * recBytes y.mode := by rw [Nat.succ_mul]; omega
      _ ≤ y.rows * recBytes y.mode := Nat.mul_le_mul_right _ hr
  refine ⟨hlt, ?_⟩
  rw [Tile.rawBytes, getD_flatMap_range (recBytes_pos _) (fun i => length_packRow _ _) _ _ hlt, Nat.mul_comm r,
    Nat.mul_add_div (recBytes_pos _), Nat.div_eq_of_lt hi, Nat.mul_add_mod, Nat.mod_eq_of_lt hi, Nat.add_zero]

/-- R103, R113, R132: a tile drains to its RAW destination. -/
theorem rawDrainStoresTheRowRecords : Claims.RawDrainStoresTheRowRecords := by
  intro j n t d s x a tile size base hst hquad hm hclk hdesc hdest hA hB hfit hcode hwf hspout
  obtain ⟨b, hdrain⟩ := State.drain_raw (s := s) (j := j) (n := n) (t := t) hquad hm hdest hfit hcode
  obtain ⟨u, hu⟩ : ∃ u, u = s.drain j [n.val] t d := ⟨_, rfl⟩
  have hexec : exec (.spoutDrainStart j n t) s = .next u := by
    change execSpoutDrainStart j n t s = _
    have hplan : x.drainPlan s.logicalArrays n.val t (some d) = .go [n.val] := by
      have hl : SpoutDesc.lockstep d = false := by rw [SpoutDesc.lockstep, hdest]; rfl
      simp only [Jet.drainPlan, Jet.arr_val]
      rw [if_neg (by rw [show (x.arrays.get n).tile t = tile from rfl, hquad]; decide)]
      simp [hl]
    rw [hu]
    simp only [execSpoutDrainStart, Jet.arr_val, show ((s.jet j).arrays.get n).tile t = tile from rfl]
    refine congrArg _ ((if_neg ?_).trans ?_)
    · have h3 : (tile.mode == 3) = false := by simpa using (show tile.mode ≠ 3 by omega)
      simp [hst, hclk, hquad, h3]
    · rw [show (s.jet j).spoutDesc tile.spout = some d from hdesc, hplan]
      refine if_neg ?_
      have hq : (a.inQuad && decide (2 ≤ n.val % 4)) = false := by
        rcases hspout with h | h
        · rw [h]; rfl
        · rw [decide_eq_false (by omega), Bool.and_false]
      have hA' : (a.tileA.state == .draining) = false := by simpa using hA
      have hB' : (a.tileB.state == .draining) = false := by simpa using hB
      simp only [List.any_cons, List.any_nil, Jet.arr_val, show (s.jet j).arrays.get n = a from rfl, hA', hB', hq]
      decide
  rw [hdrain] at hu
  have hj : u.jet j = x.withArr n (a.putTile t { tile with
      state := .draining, drainTo := [(base, size)], drainChain := tile.chain }) (storeBytes x.core.store base tile.rawBytes) := by
    rw [hu]
    exact State.jet_putJet _ _ _
  refine ⟨u, hexec, by rw [hu]; rfl, fun i hi => ?_, fun m hmn => ?_, ?_, by rw [hj]; rfl, fun q hq => ?_, fun r hr i hi hsome => ?_⟩
  · rw [hu]
    exact State.jet_putJet_ne _ _ _ _ hi
  · rw [State.arr, hj]
    exact vset_get_ne _ _ _ _ hmn
  · rw [State.arr, hj]
    exact (congrArg (fun a : Arr => a.tile t) (vset_get_self _ _ _)).trans (Arr.tile_putTile _ _ _)
  · rw [hj]
    exact byteAt_storeBytes_frame _ _ _ hwf q (by rw [Tile.length_rawBytes]; exact hq)
  · obtain ⟨hlt, hget⟩ := tile.rawBytes_getD hr hi
    rw [hj, Nat.add_assoc, ← hget]
    exact byteAt_storeBytes _ _ _ hwf _ (by rw [Tile.length_rawBytes]; exact hlt) (by rw [← Nat.add_assoc]; exact hsome)

/-- Settles O17: the end of an INT pass, the RAW drain, and the clearing of a tile. -/
theorem passesAddAndTilesDrain : Obligations.PassesAddAndTilesDrain :=
  ⟨intPassAddsItsProducts, rawDrainStoresTheRowRecords, drainedTileClearsAndReleases⟩

end Sys2Proof.Machine
end

section
/-! The tile sentinel: samples, recompute, comparison and release (R145 to R155). -/

namespace Sys2Proof.Machine

/-! ### The sentinel of a die -/

/-- A basin die changed twice. -/
theorem State.modBasin_modBasin (s : State) (d : Fin 4) (f g : Basin → Basin) :
    (s.modBasin d f).modBasin d g = s.modBasin d fun b => g (f b) := by
  simp [State.modBasin]

/-- Two changes of a basin die that agree on it. -/
theorem State.modBasin_congr {s : State} {d : Fin 4} {f g : Basin → Basin} (h : f (s.basins.get d) = g (s.basins.get d)) :
    s.modBasin d f = s.modBasin d g := congrArg (fun b => ({ s with basins := vset s.basins d b } : State)) h

/-- A basin die changed before or after an array. -/
theorem State.modArr_modBasin (s : State) (d : Fin 4) (j : Fin 160) (n : Fin 8) (f : Basin → Basin) (g : Arr → Arr) :
    (s.modArr j n g).modBasin d f = (s.modBasin d f).modArr j n g := rfl

/-- The generator's step and the gap of R145 as the registers hold them. -/
theorem Sentinel.newGap_eq (x : Sentinel) : x.newGap =
    { x with gen := sntStep x.gen, gap := 1 + (sntStep x.gen).toNat % (2 * 2 ^ x.log2n.toNat - 1) } := rfl

/-- What taking the chain that is due does. -/
theorem Sentinel.takeDue_eq (x : Sentinel) (cls mode : Nat) (quad : Bool) (step : W64) {j n : Nat} {t : TileId} {ch : Nat}
    (hdue : x.due = some (j, n, t, ch)) : x.takeDue cls mode quad step =
      let y := ({ x with due := none } : Sentinel).newGap
      if x.sample.isSome then { y with skip := satInc x.skip }
      else { y with sample := some ⟨j, n, t, ch, cls, mode, quad, step, [], [], [], [], 0, 0, false⟩ } := by
  simp only [Sentinel.takeDue, hdue]
  rfl

/-- R145, R146: the chain that is due is sampled, or skipped while a sample is held. -/
theorem exec_sentinelSample (d : Fin 4) (s : State) {j n : Nat} {t : TileId} {ch : Nat}
    (hdue : (s.basins.get d).snt.due = some (j, n, t, ch)) : ∃ cls mode quad, exec (.sentinelSample d) s =
      .next (s.modBasin d fun b => { b with snt := b.snt.takeDue cls mode quad s.record.globalStep }) := by
  change ∃ cls mode quad, execSentinelSample d s = _
  simp only [execSentinelSample, State.sampleDue, hdue]
  exact ⟨_, _, _, rfl⟩

/-- A change of both tiles of an array. -/
theorem Jet.modTiles_both (x : Jet) (n : Fin 8) (f : Tile → Tile) : x.modTiles [(n.val, .a), (n.val, .b)] f =
    { x with arrays := vset x.arrays n { x.arrays.get n with tileA := f (x.arrays.get n).tileA, tileB := f (x.arrays.get n).tileB } } := by
  simp only [Jet.modTiles, List.foldl_cons, List.foldl_nil, Jet.modArr_val, vset_vset, vset_get_self]
  rfl

/-- R147: the sentinel takes an idle array of its die. -/
theorem exec_sentinelRecomputeStart {d : Fin 4} {j : Fin 40} {n : Fin 8} {v : Sample} {s : State} :
    let jn : Fin 160 := ⟨40 * d.val + j.val, by omega⟩
    let a := s.arr jn n
    let x := (s.basins.get d).snt
    x.sample = some v → v.drained = true → x.runsOn = none → s.keeper.aclkOn = true → (s.jet jn).enabled n.val = true →
    a.queue = [] → a.running = none → a.inQuad = false → a.shadow = 0 → a.tileA.state = .idle → a.tileB.state = .idle →
    let took (t : Tile) : Tile :=
      { state := .filling, chain := sentinelChain, mode := 3, drainTo := t.drainTo, drainChain := t.drainChain }
    exec (.sentinelRecomputeStart d j n) s = .next ((s.modBasin d fun b => { b with snt := { x with
      runsOn := some (jn.val, n.val, if a.active then a.bank1 else a.bank0, if a.active then a.bank0 else a.bank1) } }).modArr jn n
        fun a => { a with tileA := took a.tileA, tileB := took a.tileB }) := by
  intro jn a x hsample hdr hon hclk hen hq hrun hquad hsh hA hB took
  change execSentinelRecomputeStart d j n s = _
  simp only [execSentinelRecomputeStart, Jet.arr_val, show (s.jet ⟨40 * d.val + j.val, _⟩).arrays.get n = a from rfl,
    show (s.basins.get d).snt = x from rfl]
  refine congrArg _ ((if_pos ?_).trans ?_)
  · simp [hsample, hdr, hon, hclk, show (s.jet ⟨40 * d.val + j.val, _⟩).enabled n.val = true from hen, hq, hrun, hquad, hsh, hA, hB]
  · simp only [Jet.modTiles_both]
    exact congrArg (fun t : State => t.modJet jn _) (State.modBasin_congr rfl)

/-- The array that the sentinel ran on, given back (R147). -/
def Arr.givenBack (a : Arr) (act sh : Bank) : Arr :=
  let idle (t : Tile) : Tile := { drainTo := t.drainTo, drainChain := t.drainChain }
  { a with bank0 := if a.active then sh else act, bank1 := if a.active then act else sh, tileA := idle a.tileA, tileB := idle a.tileB }

/-- R147: the release of the sentinel's array. -/
theorem State.sentinelRelease_eq {s : State} {d : Fin 4} {j : Fin 160} {n : Fin 8} {act sh : Bank}
    (hon : (s.basins.get d).snt.runsOn = some (j.val, n.val, act, sh)) : s.sentinelRelease d =
      (s.modBasin d fun b => { b with snt := { b.snt with
        runsOn := none, preempt := if s.sentinelWanted d then satInc b.snt.preempt else b.snt.preempt } }).modArr j n
          fun a => a.givenBack act sh := by
  have hb (a : Arr) : (if a.active then { a with bank1 := act, bank0 := sh } else { a with bank0 := act, bank1 := sh }) =
      { a with bank0 := if a.active then sh else act, bank1 := if a.active then act else sh } := by split <;> rfl
  simp only [State.sentinelRelease, hon, dif_pos j.isLt, Jet.clearTiles, Jet.modTiles_both, Jet.modArr_val, vset_vset, vset_get_self, hb]
  rfl

/-- The sentinel of a die after its array is given back. -/
def Sentinel.released (x : Sentinel) (wanted : Bool) : Sentinel :=
  { x with runsOn := none, preempt := if wanted then satInc x.preempt else x.preempt }

section
variable {s : State} {d : Fin 4} {j : Fin 160} {n : Fin 8} {act sh : Bank}
  (hon : (s.basins.get d).snt.runsOn = some (j.val, n.val, act, sh))

include hon

/-- A change of the sentinel after the release of its array. -/
theorem State.sentinelRelease_modBasin (f : Sentinel → Sentinel) :
    (s.sentinelRelease d).modBasin d (fun b => { b with snt := f b.snt }) =
      (s.modBasin d fun b => { b with snt := f ((s.basins.get d).snt.released (s.sentinelWanted d)) }).modArr j n fun a => a.givenBack act sh := by
  rw [State.sentinelRelease_eq hon, State.modArr_modBasin, State.modBasin_modBasin]
  exact congrArg (fun t : State => t.modArr j n _) (State.modBasin_congr rfl)

/-- A program's descriptor in the queue of the sentinel's array wants it back. -/
theorem State.sentinelWanted_of_queue (hq : (s.arr j n).queue ≠ []) : s.sentinelWanted d = true := by
  have hq' : (((s.jet j).arr n.val).queue.isEmpty) = false := by
    rw [Jet.arr_val]
    exact List.isEmpty_eq_false_iff.mpr hq
  simp only [State.sentinelWanted, hon, dif_pos j.isLt, hq']
  rfl

/-- R148, R149: the comparison of a sample whose recompute has ended. -/
theorem exec_sentinelCompare {v : Sample} (hsample : (s.basins.get d).snt.sample = some v) : exec (.sentinelCompare d) s = .next
    (let x := (s.basins.get d).snt
     let y := { x.released (s.sentinelWanted d) with sample := none, sampled := satInc x.sampled }
     let back (z : Sentinel) : State := (s.modBasin d fun b => { b with snt := z }).modArr j n fun a => a.givenBack act sh
     if v.diff.1.all fun df => decide (1 / (2 : Rat) ^ x.threshold v.cls < df) then
       let z := y.disagreed v s.record.globalStep (dExp v.diff.1) v.diff.2.1 v.diff.2.2
       if z.eventLimit != 0 && z.inStep.2 == z.eventLimit.toNat then (back z).event 0x0020 2 srcBasin [d.val, z.inStep.2] else back z
     else back y) := by
  change execSentinelCompare d s = _
  simp only [execSentinelCompare, hsample]
  refine congrArg _ ((if_neg ?_).trans ?_)
  · simp [hon]
  · rw [State.sentinelRelease_modBasin hon fun x => { x with sample := none, sampled := satInc x.sampled }]
    by_cases hbad : (v.diff.1.all fun df => decide (1 / (2 : Rat) ^ (s.basins.get d).snt.threshold v.cls < df)) = true
    · simp only [hbad, if_true, Bool.not_true, Bool.false_eq_true, if_false]
      generalize hy : ({ ((s.basins.get d).snt.released (s.sentinelWanted d)) with
        sample := none, sampled := satInc ((s.basins.get d).snt.released (s.sentinelWanted d)).sampled } : Sentinel) = y
      have hy' : ({ ((s.basins.get d).snt.released (s.sentinelWanted d)) with
        sample := none, sampled := satInc (s.basins.get d).snt.sampled } : Sentinel) = y := hy
      have hlog (z : Sentinel → Sentinel) : ((s.modBasin d fun b => { b with snt := y }).modArr j n fun a => a.givenBack act sh).modBasin d
          (fun b => { b with snt := z b.snt }) = (s.modBasin d fun b => { b with snt := z y }).modArr j n fun a => a.givenBack act sh := by
        rw [State.modArr_modBasin, State.modBasin_modBasin]
      have hsnt (z : Sentinel) : (((s.modBasin d fun b => { b with snt := z }).modArr j n fun a => a.givenBack act sh).basins.get d).snt = z :=
        congrArg Basin.snt (vset_get_self _ _ _)
      have hlog' := hlog fun x => x.disagreed v s.record.globalStep (dExp v.diff.1) v.diff.2.1 v.diff.2.2
      simp only [State.modArr_record, State.modBasin_record, hlog', hy', hsnt]
    · simp only [hbad, if_true, Bool.not_false, Bool.false_eq_true, if_false]
      rfl

end

/-- R145 to R148, R150, R152, R153: sampling, the run, and the release. -/
theorem tileSentinelSamplesRunsAndReleases : Claims.TileSentinelSamplesRunsAndReleases := by
  intro d s x put step gapOf
  refine ⟨?_, ?_, ?_, fun hon => ?_, fun v => rfl⟩
  · intro j n t ch hdue y
    obtain ⟨cls, mode, quad, hexec⟩ := exec_sentinelSample d s hdue
    refine ⟨fun hs => hexec.trans (congrArg _ (State.modBasin_congr ?_)), fun hs =>
      ⟨⟨j, n, t, ch, cls, mode, quad, s.record.globalStep, [], [], [], [], 0, 0, false⟩,
        hexec.trans (congrArg _ (State.modBasin_congr ?_)), rfl, rfl, rfl, rfl, rfl, rfl, rfl⟩⟩
    · rw [Sentinel.takeDue_eq _ _ _ _ _ hdue, if_pos hs]
      rfl
    · rw [Sentinel.takeDue_eq _ _ _ _ _ hdue, if_neg (by rw [hs]; decide)]
      rfl
  · intro j n v jn a hsample hdr hon hclk hen hq hrun hquad hsh hA hB took
    exact exec_sentinelRecomputeStart hsample hdr hon hclk hen hq hrun hquad hsh hA hB
  · intro j n act sh hon a idle back
    refine ⟨State.sentinelWanted_of_queue hon, fun hw => ?_, fun v df hsample hdf hle => ?_, ?_⟩
    · change execSentinelPreempt d s = _
      rw [execSentinelPreempt, if_pos hw]
      exact congrArg _ ((State.sentinelRelease_eq hon).trans
        (congrArg (fun t : State => t.modArr j n fun a => a.givenBack act sh) (State.modBasin_congr rfl)))
    · rw [exec_sentinelCompare hon hsample, hdf]
      refine congrArg _ ((if_neg ?_).trans rfl)
      simpa using hle
    · exact congrArg _ (State.sentinelRelease_modBasin hon fun x => { x with en := false, sample := none, due := none })
  · change execSentinelDisable d s = _
    simp only [execSentinelDisable, State.sentinelOff, State.sentinelRelease, show (s.basins.get d).snt.runsOn = none from hon]
    exact congrArg _ (State.modBasin_congr rfl)

/-- The valid bit of a log entry (R155). -/
theorem Sample.where'_valid (x : Sample) (dexp m c : Nat) : (x.where' dexp m c).getLsbD 0 = true := by
  rw [Sample.where', BitVec.getLsbD_ofNat, Nat.testBit_zero]
  simp only [Nat.zero_lt_succ, decide_true, Bool.true_and, decide_eq_true_eq]
  split <;> omega

/-- R149, R154, R155: a disagreement is counted and logged. -/
theorem sentinelDisagreementIsLogged : Claims.SentinelDisagreementIsLogged := by
  intro d j n act sh v s x hon hsample hbad cnt
  have hexec := exec_sentinelCompare hon hsample
  have hall : (v.diff.1.all fun df => decide (1 / (2 : Rat) ^ x.threshold v.cls < df)) = true := by
    cases h : v.diff.1 with
    | none => rfl
    | some df => exact decide_eq_true (hbad df h)
  simp only [show (s.basins.get d).snt = x from rfl, hall, if_true] at hexec
  generalize hz : Sentinel.disagreed _ v s.record.globalStep (dExp v.diff.1) v.diff.2.1 v.diff.2.2 = z at hexec
  obtain ⟨back, hback⟩ : ∃ t : State, t = (s.modBasin d fun b => { b with snt := z }).modArr j n fun a => a.givenBack act sh := ⟨_, rfl⟩
  rw [← hback] at hexec
  have hsnt : (back.basins.get d).snt = z := by
    rw [hback]
    exact congrArg Basin.snt (vset_get_self _ _ _)
  have hcnt : z.inStep = (s.record.globalStep, cnt) := by rw [← hz]; rfl
  have hlimit : z.eventLimit = x.eventLimit := by rw [← hz]; rfl
  rw [hcnt, hlimit] at hexec
  refine ⟨_, v.where' (dExp v.diff.1) v.diff.2.1 v.diff.2.2, hexec, ?_, ?_, fun h => ?_, fun h0 he => ⟨back, by rw [hback]; rfl, ?_⟩⟩
  · split
    · rw [State.event_basins, hsnt, ← hz]
      rfl
    · rw [hsnt, ← hz]
      rfl
  · exact Sample.where'_valid _ _ _ _
  · rw [if_neg ?_, hback]
    · rfl
    · rcases h with h | h
      · simp [h]
      · simp [h]
  · exact if_pos (Bool.and_eq_true_iff.mpr ⟨bne_iff_ne.mpr h0, beq_iff_eq.mpr he⟩)

/-- Settles O18: sampling, running, comparing and releasing, and the log of a disagreement. -/
theorem tileSentinelRecomputesSamples : Obligations.TileSentinelRecomputesSamples :=
  ⟨tileSentinelSamplesRunsAndReleases, sentinelDisagreementIsLogged⟩

end Sys2Proof.Machine
end

section
/-! The memory tiers: the code corrects one wrong byte, and the scrub read writes it back (R249, R251, R260, R275). -/

namespace Sys2Proof.Machine

/-! ### One wrong byte is corrected (R249) -/

/-- The powers of two in the field differ up to the 36th. -/
theorem gfShift_one_inj : ∀ k < 36, ∀ p < 36, gfShift k 1 = gfShift p 1 → k = p := by decide +kernel

/-- A symbol's products with different places differ. -/
theorem gfShift_inj {x k p : Nat} (hx : x < 256) (h0 : x ≠ 0) (hk : k < 36) (hp : p < 36) (h : gfShift k x = gfShift p x) : k = p := by
  have hone (n : Nat) : gfMul x (gfShift n 1) = gfShift n x := by
    rw [gfMul_shift_right n x 1 hx (by decide), show gfMul x 1 = x from gfMul_root 0 (by decide) x hx]
  refine gfShift_one_inj k hk p hp (gfMul_cancel x _ _ hx h0 (gfShift_lt k 1 (by decide)) (gfShift_lt p 1 (by decide)) ?_)
  rw [hone, hone, h]

/-- The place of an error is found as the first power that fits. -/
theorem gfLog_shift (x : Nat) : ∀ n q k, k < n → (∀ i < k, gfShift (q + i) x ≠ gfShift (q + k) x) →
    gfLog n q (gfShift q x) (gfShift (q + k) x) = some (q + k) := by
  intro n
  induction n with
  | zero => exact fun _ k hk => absurd hk (Nat.not_lt_zero k)
  | succ n ih =>
    intro q k hk hne
    rw [gfLog]
    cases k with
    | zero => exact if_pos rfl
    | succ k =>
      rw [if_neg (show gfShift q x ≠ _ from hne 0 (Nat.succ_pos k)), show gfDouble (gfShift q x) = gfShift (q + 1) x from rfl]
      have h := ih (q + 1) k (by omega) fun i hi => by
        have := hne (i + 1) (by omega)
        rwa [show q + (i + 1) = q + 1 + i by omega, show q + (k + 1) = q + 1 + k by omega] at this
      rw [show q + (k + 1) = q + 1 + k by omega]
      exact h

/-- A code word with one byte changed is corrected to it. -/
theorem checkWord_one_error {w : List Byte} (hlen : w.length = 36) (hclean : ∀ e < 4, syndrome (2 ^ e) w = 0) {i : Nat} (hi : i < 36)
    {x : Byte} (hx : x ≠ 0) : checkWord (setAt w i (w.getD i 0 ^^^ x)) = .corrected (w.take 32) w := by
  have hx0 : x.toNat ≠ 0 := fun h => hx (BitVec.eq_of_toNat_eq h)
  obtain ⟨p, hp⟩ : ∃ p, p = 35 - i := ⟨_, rfl⟩
  generalize hw : setAt w i (w.getD i 0 ^^^ x) = v
  have hsyn (e : Nat) (he : e < 4) : syndrome (2 ^ e) v = gfShift (e * p) x.toNat := by
    have := horner_set e he x w i (by omega) 0 (by decide)
    rw [hw, hlen] at this
    refine this.trans ?_
    rw [show w.foldl (fun acc b => gfMul acc (2 ^ e) ^^^ b.toNat) 0 = 0 from hclean e he, Nat.zero_xor, hp]
  have h0 : syndrome 1 v = x.toNat := (hsyn 0 (by decide)).trans (by rw [Nat.zero_mul]; rfl)
  have h1 : syndrome 2 v = gfShift p x.toNat := (hsyn 1 (by decide)).trans (by rw [Nat.one_mul])
  have h2 : syndrome 4 v = gfShift (2 * p) x.toNat := hsyn 2 (by decide)
  have h3 : syndrome 8 v = gfShift (3 * p) x.toNat := hsyn 3 (by decide)
  have hnz (n : Nat) : gfShift n x.toNat ≠ 0 := gfShift_ne_zero n _ x.isLt hx0
  have hlt (n : Nat) : gfShift n x.toNat < 256 := gfShift_lt n _ x.isLt
  have hmul (a b : Nat) : gfMul (gfShift a x.toNat) (gfShift b x.toNat) = gfShift (a + b) (gfMul x.toNat x.toNat) := by
    rw [gfMul_shift_left a _ _ x.isLt (hlt b), gfMul_shift_right b _ _ x.isLt x.isLt, gfShift_add]
  have hlost : v ≠ lostWord := by
    intro h
    rw [h] at h0
    exact hx0 (h0.symm.trans (by decide +kernel))
  have hlog : gfLog 36 0 x.toNat (gfShift p x.toNat) = some p := by
    have := gfLog_shift x.toNat 36 0 p (by omega) fun k hk h => by
      rw [Nat.zero_add, Nat.zero_add] at h
      have := gfShift_inj x.isLt hx0 (by omega) (by omega) h
      omega
    rwa [Nat.zero_add] at this
  have hback : setAt v i (v.getD i 0 ^^^ x) = w := by
    rw [← hw]
    refine List.ext_getElem (by simp [setAt]) fun k h1 h2 => ?_
    simp only [setAt, List.getElem_set, List.getD_eq_getElem?_getD, List.getElem?_set]
    split
    · next h =>
      subst h
      simp [hlen, hi, BitVec.xor_assoc, h2]
    · rfl
  have hq2 : gfMul (gfShift p x.toNat) (gfShift p x.toNat) = gfMul x.toNat (gfShift (2 * p) x.toNat) := by
    rw [hmul, show gfMul x.toNat (gfShift (2 * p) x.toNat) = gfShift (0 + 2 * p) (gfMul x.toNat x.toNat) from hmul 0 (2 * p),
      Nat.zero_add, Nat.two_mul]
  have hq3 : gfMul (gfShift (2 * p) x.toNat) (gfShift (2 * p) x.toNat) = gfMul (gfShift p x.toNat) (gfShift (3 * p) x.toNat) :=
    (hmul _ _).trans ((congrArg (gfShift · _) (by omega)).trans (hmul _ _).symm)
  unfold checkWord
  simp only [h0, h1, h2, h3]
  rw [if_neg (fun h => hx0 h.1), if_neg hlost, if_pos ⟨hx0, hnz p, hnz _, hnz _, hq2, hq3⟩, hlog]
  simp only [show 35 - p = i by omega, BitVec.ofNat_toNat, BitVec.setWidth_eq, hback]

/-- An encoded word has no syndrome. -/
theorem syndrome_encodeWord (d : List Byte) : ∀ e < 4, syndrome (2 ^ e) (encodeWord d) = 0 := by
  intro e he
  refine syndrome_encode _ ?_ d
  have : e = 0 ∨ e = 1 ∨ e = 2 ∨ e = 3 := by omega
  rcases this with rfl | rfl | rfl | rfl <;> decide

/-- An error pattern of zeros changes nothing. -/
theorem xorBytes_zeros (w : List Byte) {e : List Byte} (h : ∀ b ∈ e, b = 0) : xorBytes w e = w := by
  refine List.ext_getElem (by simp [xorBytes]) fun k h1 h2 => ?_
  have h0 : e.getD k 0 = 0 := by
    by_cases hk : k < e.length
    · rw [List.getD_eq_getElem e 0 hk]
      exact h _ (List.getElem_mem hk)
    · rw [List.getD_eq_default _ _ (by omega)]
  simp [xorBytes, List.getElem?_eq_getElem h2, List.getD_eq_getElem?_getD] at h0 ⊢
  simp [h0]

/-- An error pattern of one byte changes that byte. -/
theorem xorBytes_one {w e : List Byte} {i : Nat} (hi : i < w.length) (h : ∀ k < w.length, k ≠ i → e.getD k 0 = 0) :
    xorBytes w e = setAt w i (w.getD i 0 ^^^ e.getD i 0) := by
  refine List.ext_getElem (by simp [xorBytes, setAt]) fun k h1 h2 => ?_
  have hk : k < w.length := by simpa [setAt] using h2
  simp only [xorBytes, setAt, List.getElem_map, List.getElem_range, List.getElem_set]
  split
  · next he => rw [he]
  · next he => rw [h k hk (fun hc => he hc.symm), List.getD_eq_getElem w 0 hk, show w[k] ^^^ (0 : Byte) = w[k] from BitVec.xor_zero]

/-! ### Counts of a unit -/

/-- A unit changed, read back. -/
theorem State.unitSt_modUnit (s : State) (u : MemUnit) (f : UnitSt → UnitSt) : (s.modUnit u f).unitSt u = f (s.unitSt u) := by
  cases u <;> simp [State.modUnit, State.unitSt, State.modBasin, State.modRunnel]

/-- A change of a unit leaves every region's map. -/
theorem State.region_modUnit (s : State) (u : MemUnit) (f : UnitSt → UnitSt) (g : MemRegion) : (s.modUnit u f).region g = s.region g := by
  cases u with
  | channel d c =>
    cases g with
    | domain d' =>
      simp only [State.modUnit, State.region, State.modBasin, vset_get]
      split
      · next h => rw [h]
      · rfl
    | half r => rfl
  | package r p =>
    cases g with
    | domain d => rfl
    | half r' =>
      simp only [State.modUnit, State.region, State.modRunnel, vset_get]
      split
      · next h => rw [h]
      · rfl

/-- A change of a unit leaves where words lie. -/
theorem State.placeAt_modUnit (s : State) (u : MemUnit) (f : UnitSt → UnitSt) (a : Nat) : (s.modUnit u f).placeAt a = s.placeAt a := by
  simp only [State.placeAt, State.region_modUnit]

/-- A change of a unit that keeps its STATE leaves it as alive as it was. -/
theorem State.unitDead_modUnit (s : State) (u : MemUnit) {f : UnitSt → UnitSt} (h : (f (s.unitSt u)).state = (s.unitSt u).state) :
    (s.modUnit u f).unitDead u = s.unitDead u := by
  rw [State.unitDead, State.unitDead, State.unitSt_modUnit, State.region_modUnit, h]

/-- Settles O20: the code corrects the one byte, and the word goes back as it was stored. -/
theorem scrubReadCorrectsAndCounts : Obligations.ScrubReadCorrectsAndCounts := by
  intro d ch addr c data e1 e2 s u haddr hon hcanon hunit hdead _ hwf hlen hraw he1 he2 hz2
  have hdom : ∃ d', regionAt c = .domain d' := by
    cases h : regionAt c with
    | domain d' => exact ⟨d', rfl⟩
    | half r => simp [State.unitAt, State.placeAt, h, unitOf, u] at hunit
  obtain ⟨d', hdom⟩ := hdom
  have hcheck (t : State) (w : List Byte) : t.tierCheck c w = checkWord w := by rw [State.tierCheck, hdom]
  have hexec : exec (.scrubRead u addr e1 e2) s = .next (match checkWord (xorBytes (encodeWord data) e1) with
      | .clean _ => s
      | .corrected _ w => s.writeBack u c w e2
      | .lost => s.countBad u true
      | .bad => (s.tierPut c (xorBytes (encodeWord data) e1)).countBad u false) := by
    change execScrubRead u addr e1 e2 s = _
    have hch : ¬ regionUnits (unitRegion u) ≤ unitNo u := by
      exact Nat.not_le.mpr ch.isLt
    simp only [execScrubRead, if_neg hch, haddr]
    refine congrArg _ ((if_neg ?_).trans ?_)
    · rw [hon, Option.isNone_eq_false_iff.mpr hcanon]
      decide
    · simp only [State.tierRaw, hdead, Bool.false_eq_true, if_false, hraw, hcheck, State.errUnit, hdom, hunit] <;> rfl
  have hclean := checkWord_encodeWord data hlen
  refine ⟨fun hz1 => ?_, fun ⟨i, hi, hne, hrest⟩ => ?_⟩
  · rw [hexec, xorBytes_zeros _ hz1, hclean]
  · have hdead' : (s.modUnit u fun x => { x with ce := satInc x.ce, passCe := x.passCe + 1 }).deadGranule c = false := by
      rw [State.deadGranule, State.unitAt, State.placeAt_modUnit]
      rw [State.deadGranule, hunit] at hdead
      exact (congrArg _ hunit).trans ((s.unitDead_modUnit u rfl).trans hdead)
    have hl36 : (encodeWord data).length = 36 := by rw [length_encodeWord, hlen]
    rw [xorBytes_one (by rw [hl36]; exact hi) (by rw [hl36]; exact hrest), checkWord_one_error hl36 (syndrome_encodeWord data) hi hne] at hexec
    simp only [State.writeBack, hcheck, xorBytes_zeros _ hz2, hclean, State.tierPut, hdead', Bool.false_eq_true, if_false] at hexec
    refine ⟨_, hexec, rfl, ?_, State.unitSt_modUnit s u fun x => { x with ce := satInc x.ce, passCe := x.passCe + 1 }⟩
    exact (rawWord_putWord _ _ _ hwf hl36 _).trans (if_pos rfl)

end Sys2Proof.Machine
end

section
/-! The memory tiers: limits, map-out, relocation, row repair and temperature (R261 to R270, R531, R598). -/

namespace Sys2Proof.Machine

/-! ### A region's map -/

/-- A region's map changed, read back. -/
@[simp] theorem State.region_modRegion (s : State) (g : MemRegion) (f : RegionSt → RegionSt) : (s.modRegion g f).region g = f (s.region g) := by
  cases g <;> simp [State.modRegion, State.region, State.modBasin, State.modRunnel]

/-- A region's map changed twice. -/
theorem State.modRegion_modRegion (s : State) (g : MemRegion) (f f' : RegionSt → RegionSt) :
    (s.modRegion g f).modRegion g f' = s.modRegion g fun m => f' (f m) := by
  cases g <;> simp [State.modRegion, State.modBasin, State.modRunnel]

/-- A change of a region's map leaves every unit. -/
@[simp] theorem State.unitSt_modRegion (s : State) (g : MemRegion) (f : RegionSt → RegionSt) (u : MemUnit) :
    (s.modRegion g f).unitSt u = s.unitSt u := by
  cases g with
  | domain d =>
    cases u with
    | channel d' c =>
      simp only [State.modRegion, State.unitSt, State.modBasin, vset_get]
      split
      · next h => rw [h]
      · rfl
    | package r p => rfl
  | half r =>
    cases u with
    | channel d c => rfl
    | package r' p =>
      simp only [State.modRegion, State.unitSt, State.modRunnel, vset_get]
      split
      · next h => rw [h]
      · rfl

/-- A unit of a region by its number. -/
theorem unitOf_channel (d : Fin 4) (ch : Fin 256) : unitOf (.domain d) ch.val = .channel d ch := by
  simp [unitOf, Nat.mod_eq_of_lt ch.isLt]

/-- Whether a map-out may proceed rests on the capacity, the image and the mailboxes. -/
theorem State.mayMapOut_congr {s t : State} {g : MemRegion} (hjob : t.job = s.job) (hcoll : t.coll = s.coll) (hcaps : t.caps = s.caps)
    (hboxes : t.boxes = s.boxes) (hw : (t.region g).withdrawn = (s.region g).withdrawn) : t.mayMapOut g = s.mayMapOut g := by
  have hcap : t.capOf g = s.capOf g := by cases g <;> simp only [State.capOf, hw]
  simp only [State.mayMapOut, State.fits, State.loading, hjob, hcoll, hcaps, hboxes, hcap]

/-- Nothing waits where a map-out may proceed. -/
theorem State.waitCheck_ready {s : State} {g : MemRegion} (h : s.mayMapOut g = true) : s.waitCheck g = s := by
  simp [State.waitCheck, h]

/-- A change of a domain's map. -/
theorem State.modRegion_basins (s : State) (d : Fin 4) (f : RegionSt → RegionSt) :
    s.modRegion (.domain d) f = { s with basins := (s.modRegion (.domain d) f).basins } := rfl
theorem State.modUnit_basins (s : State) (d : Fin 4) (ch : Fin 256) (f : UnitSt → UnitSt) :
    s.modUnit (.channel d ch) f = { s with basins := (s.modUnit (.channel d ch) f).basins } := rfl

/-! ### Limits (R263) -/

/-- A readable channel is queued for map-out where it may proceed. -/
theorem State.mapOutRequest_readable {s : State} {d : Fin 4} {ch : Fin 256} {reason : Nat} (h0 : (s.unitSt (.channel d ch)).state = 0)
    (hmay : s.mayMapOut (.domain d) = true) : s.mapOutRequest (.channel d ch) reason false =
      (s.modUnit (.channel d ch) fun x => { x with state := 1, reason := BitVec.ofNat 8 reason }).modRegion (.domain d) fun m =>
        { m with queue := m.queue ++ [(ch.val, reason)] } := by
  rw [State.mapOutRequest]
  simp only [unitRegion, unitNo, h0]
  rw [if_neg (show ¬regionUnits (.domain d) ≤ ch.val from Nat.not_le.mpr ch.isLt), if_neg (by simp), if_neg Bool.false_ne_true]
  generalize ht : State.modRegion _ _ _ = t
  have hw : (t.region (.domain d)).withdrawn = (s.region (.domain d)).withdrawn := by
    rw [← ht, State.region_modRegion, State.region_modUnit]
  refine State.waitCheck_ready (Eq.trans (State.mayMapOut_congr ?_ ?_ ?_ ?_ hw) hmay) <;> rw [← ht] <;> rfl

/-- R263: the end of a scrub pass by the check of its counts. -/
theorem exec_scrubPassEnd (u : MemUnit) (s : State) :
    exec (.scrubPassEnd u) s = .next ((s.mapOutCheck u).modUnit u fun x => { x with passCe := 0, passUe := 0 }) := rfl

/-- The map of a region when a map-out begins (R265, R268). -/
def RegionSt.begun (m : RegionSt) (g : MemRegion) (unit : Nat) (dead : Bool) : RegionSt :=
  { m with
    state := 1, unit := unit, progress := 0, dead := dead, moved := [], withdrawn := m.withdrawn + 1, outs := m.outs ++ [unit]
    waits := m.waits.filter (· != unit)
    slots := if dead then (List.range 16).foldl (fun (t : Tbl W16) r => t.set (unit + regionUnits g * r) 0x8000) m.slots else m.slots }

/-- A map-out that begins with no step to abort: the map, the unit, the capability table, the event and the cause. -/
theorem State.mapOutBegin_eq {s : State} {g : MemRegion} {unit reason : Nat} {dead : Bool} (hw : (s.region g).withdrawn < mapLimit g)
    (hdead : dead = true → s.job.image = none ∧ s.job.running = false) : s.mapOutBegin g unit reason dead =
      ((((s.modRegion g fun m => m.begun g unit dead).modUnit (unitOf g unit) fun x =>
        { x with state := 2, reason := BitVec.ofNat 8 reason }).capChange.event 0x0031 2 (regionSrc g)
          [regionDie g, unit, reason]).raise icMemory) := by
  rw [State.mapOutBegin, if_neg (Nat.not_le.mpr hw)]
  cases dead with
  | false => rfl
  | true =>
    obtain ⟨himg, hrun⟩ := hdead rfl
    generalize ht : State.raise _ _ = t
    have hjob : t.job = s.job := by
      rw [← ht, State.raise_job, State.event_job]
      cases g <;> rfl
    have habort : t.abortStep = t := by simp [State.abortStep, State.inStep, hjob, hrun]
    have hfits : t.fits g 0 = true := by simp [State.fits, hjob, himg]
    exact (if_neg (by decide)).trans ((if_pos ((congrArg (State.fits · g 0) ht).trans hfits)).trans ((congrArg State.abortStep ht).trans habort))

/-- Recording an event and raising a cause leave all but the log, the host link's registers and what is sent. -/
theorem State.event_raise_frame (s : State) (code sev src n : Nat) (args : List Nat) :
    ∃ log cxl outbox, (s.event code sev src args).raise n = { s with log := log, cxl := cxl, outbox := outbox } := by
  obtain ⟨l, c, o, he⟩ : ∃ l c o, s.event code sev src args = { s with log := l, cxl := c, outbox := o } :=
    ⟨_, _, _, State.event_frame s code sev src args⟩
  rw [he]
  exact ⟨l, _, _, (State.raise_frame _ n).1⟩

/-- What the beginning of a channel's map-out leaves of the domain's map, the channel and the capability table. -/
theorem State.mapOutBegin_spec {s : State} {d : Fin 4} {ch : Fin 256} {reason : Nat} {dead : Bool}
    (hw : (s.region (.domain d)).withdrawn < 32) (hdead : dead = true → s.job.image = none ∧ s.job.running = false) :
    let t := s.mapOutBegin (.domain d) ch.val reason dead
    t = { s with basins := t.basins, caps := { s.caps with gen := s.caps.gen + 1 }, log := t.log, cxl := t.cxl, outbox := t.outbox } ∧
      t.region (.domain d) = (s.region (.domain d)).begun (.domain d) ch.val dead ∧
      t.unitSt (.channel d ch) = { s.unitSt (.channel d ch) with state := 2, reason := BitVec.ofNat 8 reason } := by
  intro t
  have ht : t = _ := State.mapOutBegin_eq (g := .domain d) (unit := ch.val) (reason := reason) hw hdead
  rw [unitOf_channel] at ht
  generalize hu : State.capChange _ = u at ht
  obtain ⟨l, c, o, hframe⟩ := State.event_raise_frame u 0x0031 2 (regionSrc (.domain d)) icMemory [regionDie (.domain d), ch.val, reason]
  rw [hframe, ← hu] at ht
  refine ⟨by rw [ht]; rfl, ?_, ?_⟩
  · rw [ht]
    exact (State.region_modUnit (s.modRegion (.domain d) fun m => m.begun (.domain d) ch.val dead) (.channel d ch) (fun x =>
      { x with state := 2, reason := BitVec.ofNat 8 reason }) (.domain d)).trans
      (State.region_modRegion _ _ _)
  · rw [ht]
    exact (State.unitSt_modUnit (s.modRegion (.domain d) fun m => m.begun (.domain d) ch.val dead) (.channel d ch) fun x =>
      { x with state := 2, reason := BitVec.ofNat 8 reason }).trans (by rw [State.unitSt_modRegion])

/-- A map-out of a dead channel begins at once (R268) where no step is in progress. -/
theorem State.mapOutRequest_dead {s : State} {d : Fin 4} {ch : Fin 256} {reason : Nat} (h0 : (s.unitSt (.channel d ch)).state = 0)
    (hstate : (s.region (.domain d)).state = 0) (hw : (s.region (.domain d)).withdrawn < 32) (hrun : s.job.running = false)
    (himg : s.job.image = none) :
    let t := s.mapOutRequest (.channel d ch) reason true
    (t.unitSt (.channel d ch)).state = 2 ∧ (t.unitSt (.channel d ch)).reason = BitVec.ofNat 8 reason ∧
      (t.region (.domain d)).withdrawn = (s.region (.domain d)).withdrawn + 1 ∧ (t.region (.domain d)).dead = true ∧
      t.caps.gen = s.caps.gen + 1 := by
  intro t
  have ht : t = (s.modRegion (.domain d) fun m => { m with queue := m.queue.filter fun q => q.1 != ch.val }).mapOutBegin
      (.domain d) ch.val reason true := by
    show s.mapOutRequest (.channel d ch) reason true = _
    rw [State.mapOutRequest]
    simp only [unitRegion, unitNo, h0]
    rw [if_neg (show ¬regionUnits (.domain d) ≤ ch.val from Nat.not_le.mpr ch.isLt), if_neg (by simp), if_pos trivial]
    exact if_neg (by rw [State.region_modRegion]; simp [hstate])
  obtain ⟨u, hu⟩ : ∃ u, u = s.modRegion (.domain d) fun m => { m with queue := m.queue.filter fun q => q.1 != ch.val } := ⟨_, rfl⟩
  rw [← hu] at ht
  have hreg : u.region (.domain d) = { s.region (.domain d) with queue := (s.region (.domain d)).queue.filter fun q => q.1 != ch.val } := by
    rw [hu, State.region_modRegion]
  obtain ⟨hframe, hregion, hunit⟩ := State.mapOutBegin_spec (s := u) (d := d) (ch := ch) (reason := reason) (dead := true)
    (by rw [hreg]; exact hw) (fun _ => by rw [hu]; exact ⟨himg, hrun⟩)
  rw [← ht] at hframe hregion hunit
  rw [hunit, hregion, hreg, hframe, hu]
  exact ⟨rfl, rfl, rfl, rfl, rfl⟩

/-- R263: where no count passes its limit, nothing is asked for. -/
theorem State.mapOutCheck_within {s : State} {u : MemUnit} (hue : (s.unitSt u).passUe ≤ (s.limitsOf u).2.2)
    (hce : (s.unitSt u).passCe ≤ (s.limitsOf u).1) (hhard : (s.unitSt u).hardAt.length ≤ (s.limitsOf u).2.1) : s.mapOutCheck u = s :=
  (if_neg (Nat.not_lt.mpr hue)).trans ((if_neg (Nat.not_lt.mpr hce)).trans (if_neg (Nat.not_lt.mpr hhard)))

/-- R263: a channel past its soft limit is asked to be mapped out. -/
theorem State.mapOutCheck_soft {s : State} {u : MemUnit} (hue : (s.unitSt u).passUe ≤ (s.limitsOf u).2.2)
    (hce : (s.limitsOf u).1 < (s.unitSt u).passCe) : s.mapOutCheck u = s.mapOutRequest u 1 false :=
  (if_neg (Nat.not_lt.mpr hue)).trans (if_pos hce)

/-- R263 to R268, R531: the limits. -/
theorem scrubLimitsAskForMapOut : Claims.ScrubLimitsAskForMapOut := by
  intro d ch s u x l
  refine ⟨fun hue hce hhard => ?_, fun h0 hue hce hmay => ?_, fun h0 hstate hw hrun himg => ⟨⟨_, rfl, ?_⟩, fun hph => ?_⟩, ?_⟩
  · refine ⟨_, exec_scrubPassEnd u s, ?_⟩
    rw [State.mapOutCheck_within hue hce hhard]
    exact ⟨rfl, State.unitSt_modUnit s u fun x => { x with passCe := 0, passUe := 0 }⟩
  · refine ⟨_, exec_scrubPassEnd u s, ?_⟩
    rw [State.mapOutCheck_soft hue hce, State.mapOutRequest_readable h0 hmay]
    refine ⟨rfl, ?_, ?_⟩
    · rw [State.unitSt_modUnit, State.unitSt_modRegion]
      exact congrArg (fun x : UnitSt => { x with passCe := 0, passUe := 0 })
        (State.unitSt_modUnit s u fun x => { x with state := 1, reason := BitVec.ofNat 8 1 })
    · rw [State.region_modUnit, State.region_modRegion, State.region_modUnit]
  · exact State.mapOutRequest_dead h0 hstate hw hrun himg
  · have hexec : exec (.memoryRetrain u false) s = .next (s.mapOutRequest u 5 true) :=
      congrArg _ (if_neg (by rw [hph]; decide))
    obtain ⟨hst, hr, -, hdead, -⟩ := State.mapOutRequest_dead (reason := 5) h0 hstate hw hrun himg
    exact ⟨_, hexec, hst, hr, hdead⟩
  · exact congrArg _ (if_pos (Bool.or_true _))

/-- R265: a readable channel's queued map-out begins. -/
theorem exec_mapOutStart {s : State} {d : Fin 4} {ch : Fin 256} {reason : Nat} {rest : List (Nat × Nat)}
    (hq : (s.region (.domain d)).queue = (ch.val, reason) :: rest) (hst : (s.region (.domain d)).state = 0)
    (hx : (s.unitSt (.channel d ch)).state = 1) (hmay : s.mayMapOut (.domain d) = true) : exec (.mapOutStart (.domain d)) s =
      .next ((s.modRegion (.domain d) fun m => { m with queue := rest, state := 0 }).mapOutBegin (.domain d) ch.val reason false) := by
  have hdead : s.isDead (.domain d) ch.val = false := by
    rw [State.isDead, unitOf_channel, hx]
    rfl
  change execMapOutStart (.domain d) s = _
  simp only [execMapOutStart, hq, hdead]
  refine congrArg _ ((if_neg ?_).trans (if_pos ?_))
  · rw [hst]
    decide
  · rw [hmay]
    rfl

/-- R266: a granule of a relocation that is not its last is copied. -/
theorem exec_relocationGranuleDone {s : State} {d : Fin 4} {slot group : Nat} (hrails : s.keeper.rails = true)
    (hps : s.keeper.powerState ≤ 1) (hst : (s.region (.domain d)).state = 1) (hslot : slot % 256 ∈ (s.region (.domain d)).outs)
    (hs : slot < 4096) (hg : group < s.groupsOf (.domain d)) (hnot : (slot, group) ∉ (s.region (.domain d)).moved)
    (hlen : (s.region (.domain d)).moved.length + 1 < 16 * (s.region (.domain d)).outs.length * s.groupsOf (.domain d))
    (hdead : s.deadGranule (granuleAddr (.domain d) slot group) = false) :
    ∃ slots, exec (.relocationGranuleDone (.domain d) slot group) s = .next (s.modRegion (.domain d) fun m =>
      { m with moved := (slot, group) :: m.moved, progress := m.progress + 256, slots := slots }) := by
  have hgroups (f : RegionSt → RegionSt) (hw : (f (s.region (.domain d))).withdrawn = (s.region (.domain d)).withdrawn) :
      (s.modRegion (.domain d) f).groupsOf (.domain d) = s.groupsOf (.domain d) := by
    simp only [State.groupsOf, State.capOf, State.region_modRegion, hw]
  have hcopy (slots : Tbl W16) (t : State) (ht : t = s.modRegion (.domain d) fun m =>
      { m with moved := (slot, group) :: m.moved, progress := m.progress + 256, slots := slots }) :
      (if (t.region (.domain d)).moved.length = 16 * (s.region (.domain d)).outs.length * t.groupsOf (.domain d) then t.mapOutDone (.domain d)
        else t) = s.modRegion (.domain d) fun m =>
          { m with moved := (slot, group) :: m.moved, progress := m.progress + 256, slots := slots } := by
    rw [if_neg, ht]
    rw [ht, hgroups _ rfl, State.region_modRegion]
    exact Nat.ne_of_lt hlen
  change ∃ slots, execRelocationGranuleDone (.domain d) slot group s = _
  simp only [execRelocationGranuleDone, hdead, Bool.false_eq_true, if_false]
  rw [if_neg ?_]
  · split
    · exact ⟨(s.region (.domain d)).slots.set slot 0x8000, congrArg _ (hcopy _ _ (State.modRegion_modRegion _ _ _ _))⟩
    · exact ⟨(s.region (.domain d)).slots, congrArg _ (hcopy _ _ rfl)⟩
  · have hps' : ¬2 ≤ s.keeper.powerState := by omega
    simp [hrails, hps', hst, regionUnits, slotCount, slotBits, hslot, hg, hnot]
    exact decide_eq_false (by omega)

/-- R210, R262, R265 to R267: map-out, relocation and row repair. -/
theorem mapOutWithdrawsAndRelocates : Claims.MapOutWithdrawsAndRelocates := by
  intro d ch reason rest addr slot group s g u m x
  refine ⟨fun hq hst hw hx hmay => ⟨_, exec_mapOutStart hq hst hx hmay, ?_⟩, fun hrails hps hst hslot hs hg hnot hlen hdead => ?_, ?_⟩
  · obtain ⟨hframe, hregion, hunit⟩ := State.mapOutBegin_spec (s := s.modRegion g fun m => { m with queue := rest, state := 0 })
      (d := d) (ch := ch) (reason := reason) (dead := false) (by rw [State.region_modRegion]; exact hw) (fun h => nomatch h)
    rw [State.region_modRegion] at hregion
    rw [State.unitSt_modRegion] at hunit
    refine ⟨hframe, hregion, ?_, hunit⟩
    rw [State.capOf, State.capOf, hregion]
    have hw' : (s.region g).withdrawn < 32 := hw
    show 2 ^ 39 - ((s.region g).withdrawn + 1) * 2 ^ 31 + 2 ^ 31 = 2 ^ 39 - (s.region g).withdrawn * 2 ^ 31
    omega
  · obtain ⟨slots, hexec⟩ := exec_relocationGranuleDone hrails hps hst hslot hs hg hnot hlen hdead
    refine ⟨_, hexec, rfl, ?_, ?_, ?_⟩ <;> rw [State.region_modRegion]
    exact hst
  · intro here left hph hany hleft
    have hph' : (s.record.phase == 0 || s.record.phase == 0x0A) = true := by
      rcases hph with h | h <;> rw [h] <;> decide
    have hexec : exec (.rowRepair u addr) s = .next (s.modUnit u fun x =>
        { x with spares := x.spares.set (Config.bankOf addr) (left - 1), repair := satInc x.repair,
                 hardAt := x.hardAt.filter fun b => !here b }) := by
      refine congrArg Host.Outcome.next (if_pos ?_)
      rw [hph', Bool.true_and, Bool.and_eq_true, List.any_eq_true]
      exact ⟨hany, decide_eq_true hleft⟩
    exact ⟨_, hexec, rfl, State.unitSt_modUnit s u _⟩

/-- R261, R273, R598, R605: a stack's temperature. -/
theorem stackTemperatureSetsRefresh : Claims.StackTemperatureSetsRefresh := by
  intro i temp s
  let k : SensorSt := s.keeper.sensors.get {} (7 + i.val)
  have hget (y : SensorSt) : (s.keeper.sensors.set (7 + i.val) y).get {} (7 + i.val) = y := Tbl.get_set_self _ _ _ _
  by_cases hok : -640 ≤ temp ∧ temp ≤ 2400
  · refine ⟨_, if_pos (by simp [hok]), fun _ _ => ⟨rfl, vset_get_self _ _ _, ?_, ?_⟩, fun h => by omega⟩
    · exact congrArg SensorSt.good (hget { k with good := temp, rejects := 0 })
    · exact congrArg SensorSt.rejects (hget { k with good := temp, rejects := 0 })
  · refine ⟨_, if_neg (by simpa using hok), fun h1 h2 => absurd ⟨h1, h2⟩ hok, fun _ => ⟨rfl, ?_, ?_⟩⟩
    · exact (congrArg SensorSt.good (hget { k with rejects := k.rejects + 1 })).trans rfl
    · exact (congrArg SensorSt.rejects (hget { k with rejects := k.rejects + 1 })).trans rfl

/-- Settles O21: limits, map-out and temperature, by the checks and operations they make. -/
theorem unitsAreMappedOutAndRefreshed : Obligations.UnitsAreMappedOutAndRefreshed :=
  ⟨scrubLimitsAskForMapOut, mapOutWithdrawsAndRelocates, stackTemperatureSetsRefresh⟩

end Sys2Proof.Machine
end

section
/-! The operation graph and the jet mover: nodes that start, words that move, descriptors that end (R216, R220, R249, R257 to R259). -/

namespace Sys2Proof.Machine

/-! ### Nodes (R27, R216, R220, R224) -/

/-- Nothing has finished since. -/
theorem Job.finish_nil (j : Job) : j.finish [] = j := by simp [Job.finish]

/-- What a node's start does, by whether it may start or run again. -/
theorem exec_graphNodeStart {s : State} {i : Image} {nd : GraphNode} (himg : s.job.image = some i)
    (hfind : i.nodes.find? (·.id == nd.id) = some nd) : exec (.graphNodeStart nd.id []) s = .next
      (if s.nodeReady i nd then ({ s with job := { s.job with started := s.job.started ++ [nd.id] } } : State).runNode i nd
       else if s.rerunReady i nd then ({ s with job := { s.job with rerun := s.job.rerun ++ [nd.id] } } : State).runNode i nd
       else s) := by
  change execGraphNodeStart nd.id [] s = _
  simp only [execGraphNodeStart, Job.finish_nil, himg, hfind]

/-- When a node may start. -/
theorem State.nodeReady_iff {s : State} {i : Image} {nd : GraphNode} (hrun : s.job.running = true) (hph : s.record.phase.toNat = nd.phase) :
    s.nodeReady i nd = true ↔ nd.id ∉ s.job.started ∧
      ∀ p ∈ nd.preds, p ∈ s.job.finished ∨ ∃ q, i.nodes.find? (·.id == p) = some q ∧ q.phase < nd.phase := by
  simp [State.nodeReady, hrun, hph, Option.any_eq_true]

/-- A node runs again in BACKWARD only, and only one of FORWARD. -/
theorem State.rerunReady_phase {s : State} {i : Image} {nd : GraphNode} (h : s.rerunReady i nd = true) :
    s.record.phase.toNat = 5 ∧ nd.phase = 1 := by
  simp only [State.rerunReady, Bool.and_eq_true, beq_iff_eq] at h
  exact ⟨h.1.1.1.2, h.1.1.2⟩

/-- A jet changed, and every other. -/
theorem State.jet_modJet_eq (s : State) (i j : Fin 160) (f : Jet → Jet) : (s.modJet i f).jet j = if j = i then f (s.jet i) else s.jet j :=
  vset_get _ _ _ _

/-- Jets of a list without repetition, each changed where it is named. -/
theorem State.jet_foldl_modJet {l : List (Fin 160)} (hl : l.Nodup) (p : Fin 160 → Bool) (f : Jet → Jet) (j : Fin 160) (s : State) :
    (l.foldl (fun s i => if p i then s.modJet i f else s) s).jet j = if j ∈ l ∧ p j = true then f (s.jet j) else s.jet j := by
  induction l generalizing s with
  | nil => simp
  | cons i l ih =>
    obtain ⟨hi, hl⟩ := List.nodup_cons.mp hl
    rw [List.foldl_cons, ih hl]
    by_cases hj : j = i
    · subst hj
      cases hp : p j with
      | true => simp [hi, State.jet_modJet_eq]
      | false => simp
    · cases hp : p i with
      | true => simp [State.jet_modJet_eq, hj]
      | false => simp [hj]

/-- A kernel's start leaves every core that it does not name, and starts each that it names once. -/
theorem State.startKernel_core (s : State) (i : Image) (k : Nat) (jets : List Nat) (j : Fin 160) :
    (s.startKernel i k jets).core (.jet j) = if j.val ∈ jets then
      { s.core (.jet j) with pc := BitVec.ofNat 64 ((s.core (.jet j)).code.1 + ((i.kernels[k]?).map Prod.fst).getD 0), halted := false, held := none }
    else s.core (.jet j) := by
  have h := State.jet_foldl_modJet (List.nodup_finRange 160) (fun i => jets.contains i.val)
    (fun x => { x with core := { x.core with
      pc := BitVec.ofNat 64 (x.core.code.1 + ((i.kernels[k]?).map Prod.fst).getD 0), halted := false, held := none } }) j s
  rw [State.core, show (s.startKernel i k jets).jet j = _ from h]
  simp only [List.mem_finRange, true_and, List.contains_iff_mem]
  split <;> rfl

/-- R27, R216, R220, R224: nodes start after their predecessors. -/
theorem graphNodeStartsAfterItsPredecessors : Claims.GraphNodeStartsAfterItsPredecessors := by
  intro i nd s himg hfind hrun began
  have hexec := exec_graphNodeStart himg hfind
  refine ⟨fun hph hnew hpred => ?_, fun hph hor => ?_, fun hph hre => ?_, ?_, ?_⟩
  · rw [hexec, if_pos ((State.nodeReady_iff hrun hph).mpr ⟨hnew, hpred⟩)]
  · have hno : s.nodeReady i nd ≠ true := by
      intro h
      obtain ⟨hnew, hpred⟩ := (State.nodeReady_iff hrun hph).mp h
      rcases hor with hst | ⟨p, hp, hfin, hall⟩
      · exact hnew hst
      · rcases hpred p hp with hf | ⟨q, hq, hlt⟩
        · exact hfin hf
        · exact absurd (hall q hq) (by omega)
    have hre : s.rerunReady i nd ≠ true := fun h => by
      obtain ⟨h5, h1⟩ := State.rerunReady_phase h
      omega
    rw [hexec, if_neg hno, if_neg hre]
  · have h1 := (State.rerunReady_phase hre).2
    have hno : s.nodeReady i nd ≠ true := fun h => by
      simp only [State.nodeReady, Bool.and_eq_true, beq_iff_eq] at h
      have := h.1.1.2
      omega
    rw [hexec, if_neg hno, if_pos hre]
  · intro k args tiles jets ia uq hk j x
    rw [State.runNode, hk]
    exact State.startKernel_core began i k jets j
  · rintro (⟨op, t, hk⟩ | ⟨g, hk⟩ | ⟨w, t, hk⟩ | ⟨w, t, hk⟩) <;> rw [State.runNode, hk]

/-! ### The jet mover (R249, R257 to R259) -/

/-- A word written whole reads back (R249). -/
theorem wordData_putWord_encode {m : Mem} (hwf : m.wf = true) (w : Nat) {bs : List Byte} (hlen : bs.length = 32) (x : Nat) :
    wordData (putWord m w (encodeWord bs)) x = if x = w then some bs else wordData m x := by
  have h36 : (encodeWord bs).length = 36 := by rw [length_encodeWord, hlen]
  by_cases hx : x = w
  · rw [if_pos hx]
    simp only [wordData, readWord, rawWord_putWord m w _ hwf h36, if_pos hx, checkWord_encodeWord bs hlen]
  · rw [if_neg hx, wordData_putWord_ne m w x _ hwf h36 hx]

/-- A demand read of a word that is clean changes nothing. -/
theorem State.demandRead_clean {s : State} {a : Nat} {bs : List Byte} (hfast : a < 2 ^ 41) (hdead : s.deadGranule a = false)
    (hw : checkWord (rawWord s.tiers (a / 32)) = .clean bs) : s.demandRead a = (some bs, s) := by
  have hc : s.tierCheck a (s.tierRaw a) = .clean bs := by
    rw [State.tierCheck, regionAt, if_pos hfast, State.tierRaw, hdead]
    exact hw
  simp only [State.demandRead, State.tierRead, hc]

/-- A valid descriptor has one end in the jet store, and both ends at whole words (R257). -/
theorem State.mvValid_ends {s : State} {j : Fin 160} {d : MvDesc} (h : s.mvValid j d = true) :
    d.srcJs ≠ d.dstJs ∧ d.src % 32 = 0 ∧ d.dst % 32 = 0 := by
  simp only [State.mvValid, Bool.and_eq_true, bne_iff_ne, beq_iff_eq] at h
  tauto

/-- A plain descriptor of one word that can be read, to the jet store. -/
theorem State.mvRun_word {s : State} {j : Fin 160} {d : MvDesc} {bs : List Byte} (hv : s.mvValid j d = true) (htr : d.transpose = 0)
    (hconv : d.conv = false) (hrows : d.rows = 1) (hbytes : d.rowBytes = 32) (hjs : d.dstJs = true) (hhost : d.host = false)
    (hcanon : s.canon d.src = some d.src) (hread : s.demandRead d.src = (some bs, s)) : s.mvRun j d [] =
      (s.modJet j fun x => { x with core := { x.core with store := putWord x.core.store (d.dst / 32) (encodeWord bs) } }, none) := by
  have hsrc : d.srcJs = false := by
    have := (State.mvValid_ends hv).1
    rw [hjs] at this
    exact Bool.eq_false_iff.mpr this
  have hreads : s.hostReads d = s := by simp [State.hostReads, hhost]
  have ht : d.transposeOk = true := by simp [MvDesc.transposeOk, htr]
  rw [State.mvRun, hv, ht, hconv, Bool.false_and, if_neg (by decide), if_neg (by decide), if_neg (by decide), if_neg (by decide), if_pos htr, hreads,
    hrows, hbytes]
  simp only [State.mvCopy, State.mvRead, State.mvWrite, hsrc, hhost, hjs, hcanon, hread, hbytes, Bool.false_eq_true, if_false, if_true,
    Nat.zero_div, Nat.zero_mod, Nat.zero_mul, Nat.add_zero]

/-- The mover's descriptor once it has left the queue. -/
def Jet.mvPopped (x : Jet) (d : MvDesc) (rest : List MvDesc) : Jet :=
  { x with mvQueue := rest, mvSnooped := false, mvHeld := x.mvHeld.filter (· != d.tag) }

/-- A descriptor for the device's own memory that overlaps none and meets no line of the host's is carried out. -/
theorem exec_moverDescriptorStart {s : State} {j : Fin 160} {d : MvDesc} {rest : List MvDesc} (hq : (s.jet j).mvQueue = d :: rest)
    (hrails : s.keeper.rails = true) (hstep : s.keeper.step = 11) (hps : s.keeper.powerState = 0) (hhost : d.host = false)
    (hover : ∀ e ∈ (s.jet j).mvActive, mvOverlap d e = false) (hfilter : s.cxl.filter = []) (hsnoops : s.cxl.snoops = []) :
    exec (.moverDescriptorStart j []) s = .next (match (s.putJet j ((s.jet j).mvPopped d rest)).mvRun j d [] with
      | (s, none) => s.modJet j fun x => { x with mvActive := x.mvActive ++ [d] }
      | (s, some (reason, a)) => s.mvFault j d.tag reason a) := by
  change execMoverDescriptorStart j [] s = _
  have hany : (s.jet j).mvActive.any (mvOverlap d) = false := List.any_eq_false.mpr fun e he => by rw [hover e he]; decide
  have hlines : s.trackedLines d = [] := by simp [State.trackedLines, hfilter]
  simp only [execMoverDescriptorStart, hq]
  refine congrArg _ ((if_neg ?_).trans ((if_neg ?_).trans ((if_neg ?_).trans ((if_neg ?_).trans ((if_neg ?_).trans ((if_neg ?_).trans rfl))))))
  · simp [hrails, hstep, hps]
  · rw [hany]
    decide
  · simp [hhost]
  · simp [hhost]
  · simp [hlines]
  · simp [hsnoops]

/-- R238, R242, R249, R257 to R259: a word moves, or the descriptor faults. -/
theorem moverMovesAWordOrFaults : Claims.MoverMovesAWordOrFaults := by
  intro j d rest s x hq hrails hstep hps hhost hover hfilter hsnoops hwf popped
  have hexec := exec_moverDescriptorStart hq hrails hstep hps hhost hover hfilter hsnoops
  obtain ⟨u, hu⟩ : ∃ u, u = s.putJet j popped := ⟨_, rfl⟩
  have huj : u.jet j = popped := by rw [hu]; exact State.jet_putJet _ _ _
  have hcore : (u.jet j).core = x.core := by rw [huj]
  have hvalid : u.mvValid j d = s.mvValid j d := by
    simp only [State.mvValid, hcore]
    rw [hu]
    rfl
  rw [show s.putJet j ((s.jet j).mvPopped d rest) = u from hu.symm] at hexec
  refine ⟨fun hv htr hconv hrows hbytes hjs hsrc hcanon hdead bs hw hlen => ?_, fun hv => ?_⟩
  · have hread : u.demandRead d.src = (some bs, u) := by
      rw [hu]
      exact State.demandRead_clean hsrc hdead hw
    rw [State.mvRun_word (hvalid.trans hv) htr hconv hrows hbytes hjs hhost (by rw [hu]; exact hcanon) hread] at hexec
    obtain ⟨hends, -, hdst⟩ := State.mvValid_ends hv
    have hword := wordData_putWord_encode hwf (d.dst / 32) hlen
    have hrun : exec (.moverDescriptorStart j []) s = .next (s.putJet j { popped with
        mvActive := x.mvActive ++ [d], core := { x.core with store := putWord x.core.store (d.dst / 32) (encodeWord bs) } }) := by
      rw [hexec, hu]
      simp [State.modJet, State.putJet, State.jet, popped]
    have hstore : ((s.putJet j { popped with mvActive := x.mvActive ++ [d], core := { x.core with
        store := putWord x.core.store (d.dst / 32) (encodeWord bs) } }).jet j).core.store =
          putWord x.core.store (d.dst / 32) (encodeWord bs) := by
      rw [State.jet_putJet]
    refine ⟨_, hrun, by rw [hstore], fun i hi => ?_, fun q hq => ?_⟩
    · rw [hstore, byteAt, hword, if_pos (by omega), show (d.dst + i) % 32 = i by omega]
      rfl
    · rw [hstore, byteAt, hword, if_neg (by omega)]
      rfl
  · rw [hexec, State.mvRun, hvalid, hv, if_pos (show (!false) = true from rfl), hu]
    simp only [State.mvFault, State.modJet, State.putJet, State.jet, vset_get_self, vset_vset]
    rfl

/-! ### Descriptors that end (R258, R441, R445, R464) -/

/-- A fault of a descriptor, on its jet. -/
theorem State.mvFault_eq (s : State) (j : Fin 160) (f : Jet → Jet) (tag reason a : Nat) : (s.modJet j f).mvFault j tag reason a =
    s.putJet j { f (s.jet j) with
      mvInfo := BitVec.ofNat 32 (tag % 65536 * 65536 + reason), mvAddr := BitVec.ofNat 64 (a % 2 ^ 48)
      core := { (f (s.jet j)).core with pendMover := (f (s.jet j)).core.pendMover ++ [tag] } } := by
  simp [State.mvFault, State.modJet, State.putJet, State.jet]

/-- The first descriptor at work leaves it. -/
theorem Jet.dropDesc_active {x : Jet} {d : MvDesc} {rest : List MvDesc} (h : x.mvActive = d :: rest) :
    x.dropDesc d = { x with mvActive := rest } := by
  simp [Jet.dropDesc, h]

/-- R172, R258, R259, R282, R441, R445, R464: descriptors complete or time out. -/
theorem moverDescriptorsCompleteOrTimeOut : Claims.MoverDescriptorsCompleteOrTimeOut := by
  intro j d rest tag s x fault htag
  have hmod : tag.toNat % 65536 = tag.toNat := Nat.mod_eq_of_lt tag.isLt
  have htagb : (d.tag == tag.toNat) = true := beq_iff_eq.mpr htag
  refine ⟨fun ha hh => ?_, fun ha hh hrate => ?_, fun ha hh hrate => ?_, fun hq hheld hact hrate => ?_⟩
  · change execMoverDescriptorComplete j tag s = _
    have ha' : (s.jet j).mvActive = d :: rest := ha
    simp only [execMoverDescriptorComplete, ha', List.find?_cons, htagb]
    refine congrArg _ ((if_neg ?_).trans ?_)
    · rcases hh with hh | hh <;> simp [hh]
    · simp only [State.modJet, ha', dropTag, if_pos htag]
      rfl
  · change ∃ a, execCxlCacheTimeout j tag s = _
    have hdesc : s.hostDesc j tag.toNat = some d := by
      simp [State.hostDesc, show (s.jet j).mvActive = d :: rest from ha, htag, hh]
    simp only [execCxlCacheTimeout, if_neg hrate, hdesc, State.mvFault_eq, hmod,
      show (s.fresh.2.jet j).dropDesc d = { x with mvActive := rest } from Jet.dropDesc_active ha]
    exact ⟨_, rfl⟩
  · change execLinkHoldExpiry j tag s = _
    have ha' : (s.jet j).mvActive = d :: rest := ha
    simp only [execLinkHoldExpiry, ha', List.filter_cons, hh, if_true, List.cons_append, List.find?_cons, htagb]
    refine congrArg _ ((if_neg (by simp [hrate])).trans ?_)
    rw [State.mvFault_eq, Jet.dropDesc_active ha, hmod]
  · change execLinkHoldExpiry j tag s = _
    have hq' : (s.jet j).mvQueue = d :: rest := hq
    have hnone : ((s.jet j).mvActive.filter (·.host)).find? (fun e => e.tag == tag.toNat) = none := by
      rw [List.find?_eq_none]
      intro e he
      have := hact e (List.mem_filter.mp he).1
      simpa [htag] using this
    have hin : (s.jet j).mvHeld.contains d.tag = true := by
      rw [htag]
      exact List.contains_iff_mem.mpr hheld
    have hnot : (s.jet j).mvActive.contains d = false := by
      rw [Bool.eq_false_iff]
      exact fun h => hact d (List.contains_iff_mem.mp h) rfl
    simp only [execLinkHoldExpiry, hq', List.find?_append, hnone, List.filter_cons, hin, if_true, Option.none_or, List.find?_cons, htagb]
    refine congrArg _ ((if_neg (by simp [hrate])).trans ?_)
    rw [State.mvFault_eq, hmod]
    simp only [Jet.dropDesc, hnot, hq', Bool.false_eq_true, if_false, List.erase_cons_head, htag]
    rfl

/-- Settles O19: nodes, the mover's words, and the ends of its descriptors. -/
theorem graphNodesAndMoverDescriptorsRun : Obligations.GraphNodesAndMoverDescriptorsRun :=
  ⟨graphNodeStartsAfterItsPredecessors, moverMovesAWordOrFaults, moverDescriptorsCompleteOrTimeOut⟩

end Sys2Proof.Machine
end

section
/-! SUPPORT. Runs of words: what a read of the tiers leaves, the bytes it gives, and what a run written reads as (R249 to R253, R275). -/

namespace Sys2Proof.Machine

/-! ### What reads and writes of the tiers leave -/

/-- Two states that differ in the tiers, in the counts of their units and in the free values used at most. -/
def State.counted (s t : State) : Prop :=
  t = { s with freeCount := t.freeCount, tiers := t.tiers, basins := t.basins, runnels := t.runnels } ∧
    (∀ d, t.basins.get d = { s.basins.get d with units := (t.basins.get d).units }) ∧
    (∀ r, t.runnels.get r = { s.runnels.get r with units := (t.runnels.get r).units })

theorem State.counted_refl (s : State) : s.counted s := ⟨rfl, fun _ => rfl, fun _ => rfl⟩

theorem State.counted_trans {s t u : State} (h : s.counted t) (h' : t.counted u) : s.counted u := by
  obtain ⟨hs, hb, hr⟩ := h
  obtain ⟨hs', hb', hr'⟩ := h'
  refine ⟨?_, fun d => by rw [hb' d, hb d], fun r => by rw [hr' r, hr r]⟩
  rw [hs', hs]

theorem State.modUnit_counted (s : State) (u : MemUnit) (f : UnitSt → UnitSt) : s.counted (s.modUnit u f) := by
  cases u with
  | channel d c =>
    refine ⟨rfl, fun d' => ?_, fun _ => rfl⟩
    simp only [State.modUnit, State.modBasin, vset_get]
    split
    · next h => rw [h]
    · rfl
  | package r p =>
    refine ⟨rfl, fun _ => rfl, fun r' => ?_⟩
    simp only [State.modUnit, State.modRunnel, vset_get]
    split
    · next h => rw [h]
    · rfl

theorem State.tierPut_counted (s : State) (a : Nat) (w : List Byte) : s.counted (s.tierPut a w) := by
  unfold State.tierPut
  split
  · exact s.counted_refl
  · exact ⟨rfl, fun _ => rfl, fun _ => rfl⟩

theorem State.countBad_counted (s : State) (u : MemUnit) (lost : Bool) : s.counted (s.countBad u lost) := by
  unfold State.countBad
  split <;> exact s.modUnit_counted _ _

theorem State.writeBack_counted (s : State) (u : MemUnit) (a : Nat) (w e : List Byte) : s.counted (s.writeBack u a w e) := by
  have h := State.counted_trans (s.modUnit_counted u fun x => { x with ce := satInc x.ce, passCe := x.passCe + 1 })
    (State.tierPut_counted _ a w)
  unfold State.writeBack
  simp only []
  split
  · exact h
  · exact State.counted_trans h (State.modUnit_counted _ _ _)

/-- A read of a word of the tiers. -/
theorem State.tierRead_counted (s : State) (a : Nat) : s.counted (s.tierRead a).2.2 := by
  unfold State.tierRead
  simp only []
  split
  · exact s.counted_refl
  · refine State.counted_trans ?_ (State.writeBack_counted _ _ _ _ _)
    exact ⟨rfl, fun _ => rfl, fun _ => rfl⟩
  · exact s.countBad_counted (s.unitAt a) true
  · exact s.countBad_counted (s.unitAt a) false

/-- A read of a run of words. -/
theorem State.readWords_counted : ∀ (n : Nat) (s : State) (a : Nat), s.counted (s.readWords n a).2
  | 0, s, _ => s.counted_refl
  | n + 1, s, a => by
    rw [State.readWords]
    cases s.canon a with
    | none => exact State.readWords_counted n s (a + 32)
    | some c => exact State.counted_trans (s.tierRead_counted c) (State.readWords_counted n _ (a + 32))

/-- A write of a run of words. -/
theorem State.writeWords_counted : ∀ (ws : List (Option (List Byte))) (s : State) (a : Nat), s.counted (State.writeWords ws s a)
  | [], s, _ => s.counted_refl
  | w :: ws, s, a => by
    unfold State.writeWords
    cases s.canon a with
    | none => exact State.writeWords_counted ws s (a + 32)
    | some c => exact State.counted_trans (s.tierPut_counted c _) (State.writeWords_counted ws _ (a + 32))

/-! ### The bytes that a read gives -/

/-- A run of words of 32 bytes each, those that can be used. -/
def wholeWords (ws : List (Option (List Byte))) : Prop := ∀ w ∈ ws, ∀ b, w = some b → b.length = 32

/-- The data that a check of a word gives, where it gives any. -/
def WordCheck.data : WordCheck → Option (List Byte)
  | .clean d => some d
  | .corrected d _ => some d
  | _ => none

theorem checkWord_length {w b : List Byte} (hw : w.length = 36) (h : (checkWord w).data = some b) : b.length = 32 := by
  revert h
  unfold checkWord
  simp only []
  split
  · rintro ⟨⟩
    simp [hw]
  · split
    · rintro ⟨⟩
    · split
      · split
        · rintro ⟨⟩
          simp [setAt, hw]
        · rintro ⟨⟩
      · rintro ⟨⟩

theorem checkErased_length {w b : List Byte} {p : Nat} (hw : w.length = 36) (h : (checkErased w p).data = some b) : b.length = 32 := by
  revert h
  unfold checkErased
  simp only []
  split
  · rintro ⟨⟩
  · split
    · rintro ⟨⟩
      simp [hw]
    · split
      · rintro ⟨⟩
      · split
        · rintro ⟨⟩
          simp [setAt, hw]
        · rintro ⟨⟩

theorem State.length_tierRaw (s : State) (a : Nat) : (s.tierRaw a).length = 36 := by
  unfold State.tierRaw
  split
  · rfl
  · exact length_rawWord _ _

theorem State.tierCheck_length (s : State) (a : Nat) {w b : List Byte} (hw : w.length = 36) (h : (s.tierCheck a w).data = some b) :
    b.length = 32 := by
  revert h
  unfold State.tierCheck
  split
  · exact checkWord_length hw
  · split
    · exact checkErased_length hw
    · exact checkWord_length hw

/-- The data of a word that is read. -/
theorem State.tierRead_fst (s : State) (a : Nat) : (s.tierRead a).1 = (s.tierCheck a (s.tierRaw a)).data := by
  unfold State.tierRead
  simp only []
  split <;> next h => rw [h]; rfl

theorem State.tierRead_length (s : State) (a : Nat) {b : List Byte} (h : (s.tierRead a).1 = some b) : b.length = 32 :=
  s.tierCheck_length a (s.length_tierRaw a) (s.tierRead_fst a ▸ h)

/-- A read of `n` words gives `n` words. -/
theorem State.length_readWords : ∀ (n : Nat) (s : State) (a : Nat), (s.readWords n a).1.length = n
  | 0, _, _ => rfl
  | n + 1, s, a => congrArg (· + 1) (State.length_readWords n _ (a + 32))

theorem State.readWords_whole : ∀ (n : Nat) (s : State) (a : Nat), wholeWords (s.readWords n a).1
  | 0, _, _ => fun _ h => nomatch h
  | n + 1, s, a => by
    intro w hw b hb
    rw [State.readWords] at hw
    rcases List.mem_cons.mp hw with rfl | hw
    · cases hc : s.canon a with
      | none => simp [hc] at hb
      | some c =>
        simp only [hc] at hb
        exact s.tierRead_length c hb
    · exact State.readWords_whole n _ (a + 32) w hw b hb

theorem length_fitBytes (n : Nat) (l : List Byte) : (fitBytes n l).length = n := by
  simp [fitBytes, zeroBytes]
  omega

/-- Bytes cut into words. -/
theorem length_toWords : ∀ (n : Nat) (bs : List Byte), (toWords n bs).length = n
  | 0, _ => rfl
  | n + 1, bs => congrArg (· + 1) (length_toWords n (bs.drop 32))

theorem toWords_good : ∀ (n : Nat) (bs : List Byte), ∀ w ∈ toWords n bs, ∃ b, w = some b ∧ b.length = 32
  | 0, _ => fun _ h => nomatch h
  | n + 1, bs => by
    intro w hw
    rcases List.mem_cons.mp hw with rfl | hw
    · exact ⟨_, rfl, length_fitBytes _ _⟩
    · exact toWords_good n _ w hw

/-- The bytes of `32 n` bytes cut into words are those bytes. -/
theorem plainBytes_toWords : ∀ (n : Nat) (bs : List Byte), bs.length = 32 * n → plainBytes (toWords n bs) = bs
  | 0, bs, h => (List.length_eq_zero_iff.mp h).symm
  | n + 1, bs, h => by
    have hfit : fitBytes 32 (bs.take 32) = bs.take 32 := by
      have hl : (bs.take 32).length = 32 := by rw [List.length_take]; omega
      rw [fitBytes, zeroBytes, hl, List.take_of_length_le (by omega), Nat.sub_self]
      exact List.append_nil _
    have ih := plainBytes_toWords n (bs.drop 32) (by simp; omega)
    rw [plainBytes] at ih
    rw [toWords, plainBytes, List.flatMap_cons, ih, Option.getD_some, hfit, List.take_append_drop]

/-- Words that can be used, each of 32 bytes. -/
theorem wholeWords.good {ws : List (Option (List Byte))} (h : wholeWords ws) (hg : wordsGood ws = true) :
    ∀ w ∈ ws, ∃ b, w = some b ∧ b.length = 32 := by
  intro w hw
  obtain ⟨b, rfl⟩ := Option.isSome_iff_exists.mp (List.all_eq_true.mp hg w hw)
  exact ⟨b, rfl, h _ hw b rfl⟩

/-! ### Words put into a store -/

/-- A run of words put into a store reads back, and leaves every other word. -/
theorem wordData_storeWords : ∀ (ws : List (Option (List Byte))) (m : Mem) (w x : Nat), m.wf = true →
    (∀ o ∈ ws, ∃ b, o = some b ∧ b.length = 32) →
    wordData (storeWords m w ws) x = if w ≤ x ∧ x < w + ws.length then ws.getD (x - w) none else wordData m x
  | [], m, w, x, _, _ => by rw [if_neg (by simp)]; rfl
  | o :: ws, m, w, x, hwf, hgood => by
    obtain ⟨b, rfl, hb⟩ := hgood _ List.mem_cons_self
    have h36 : (encodeWord b).length = 36 := by rw [length_encodeWord, hb]
    rw [storeWords, wordData_storeWords ws _ (w + 1) x (putWord_wf _ _ _ hwf) fun o ho => hgood o (List.mem_cons_of_mem _ ho),
      wordData_putWord_encode hwf w hb]
    simp only [List.length_cons]
    by_cases hx : x = w
    · subst hx
      rw [if_neg (by omega), if_pos rfl, if_pos (by omega), Nat.sub_self]
      rfl
    · by_cases hin : w + 1 ≤ x ∧ x < w + 1 + ws.length
      · rw [if_pos hin, if_pos (by omega), show x - w = x - (w + 1) + 1 by omega, List.getD_cons_succ]
      · rw [if_neg hin, if_neg hx, if_neg (by omega)]

/-- A byte of the bytes of words that can be used. -/
theorem plainBytes_getD {ws : List (Option (List Byte))} (hgood : ∀ o ∈ ws, ∃ b, o = some b ∧ b.length = 32) {p : Nat}
    (hp : p < 32 * ws.length) : (ws.getD (p / 32) none).map (fun b => b.getD (p % 32) 0) = some ((plainBytes ws).getD p 0) := by
  induction ws generalizing p with
  | nil => simp at hp
  | cons o ws ih =>
    obtain ⟨b, rfl, hb⟩ := hgood _ List.mem_cons_self
    rw [plainBytes, List.flatMap_cons, Option.getD_some]
    by_cases hlt : p < 32
    · rw [Nat.div_eq_of_lt hlt, List.getD_append _ _ _ _ (by omega), Nat.mod_eq_of_lt hlt]
      rfl
    · have ih' := ih (fun o ho => hgood o (List.mem_cons_of_mem _ ho)) (p := p - 32) (by simp at hp; omega)
      rw [List.getD_append_right _ _ _ _ (by omega), hb, show p / 32 = (p - 32) / 32 + 1 by omega,
        show p % 32 = (p - 32) % 32 by omega, List.getD_cons_succ]
      exact ih'

/-- The bytes of a run of words put into a store at a whole word, and every other byte. -/
theorem byteAt_storeWords {ws : List (Option (List Byte))} {m : Mem} (hwf : m.wf = true)
    (hgood : ∀ o ∈ ws, ∃ b, o = some b ∧ b.length = 32) (w p : Nat) : byteAt (storeWords m w ws) p =
      if 32 * w ≤ p ∧ p < 32 * w + 32 * ws.length then some ((plainBytes ws).getD (p - 32 * w) 0) else byteAt m p := by
  rw [byteAt, wordData_storeWords ws m w _ hwf hgood]
  by_cases h : 32 * w ≤ p ∧ p < 32 * w + 32 * ws.length
  · rw [if_pos h, if_pos (by omega), ← plainBytes_getD hgood (p := p - 32 * w) (by omega),
      show (p - 32 * w) / 32 = p / 32 - w by omega, show (p - 32 * w) % 32 = p % 32 by omega]
  · rw [if_neg h, if_neg (by omega)]
    rfl

end Sys2Proof.Machine
end

section
/-! The parameter update: the dispatcher's staging and write-back, and the end of the pass (R284, R294 to R300, R307 to R309, R328). -/

namespace Sys2Proof.Machine

/-! ### A staging set (R296) -/

/-- The bytes of a staging set: the record, its gradient record and the group block, and every byte outside the set. -/
def stagedBytes (k : Core) (base : Nat) (record grad block : List Byte) (m : Mem) : Prop :=
  (∀ p < 6208, byteAt m (base + p) = some (record.getD p 0)) ∧ (∀ p < 2080, byteAt m (base + 0x2000 + p) = some (grad.getD p 0)) ∧
    (∀ p < 64, byteAt m (base + 0x3000 + p) = some (block.getD p 0)) ∧
    (∀ p, p < base ∨ base + 0x3040 ≤ p → byteAt m p = byteAt k.store p)

theorem length_groupBlock (g : ParamGroup) (t : Nat) (step : W64) (group : Nat) : (groupBlock g t step group).length = 64 := by
  simp [groupBlock, length_leBytes, zeroBytes]

/-- Staging a record, its gradient record and a group block whose words can be used. -/
theorem Core.stageSet_bytes (k : Core) (set : Bool) {record grad : List (Option (List Byte))} {block : List Byte}
    (hwf : Mem.wf k.store = true) (hr : record.length = 194) (hrg : ∀ o ∈ record, ∃ b, o = some b ∧ b.length = 32)
    (hg : grad.length = 65) (hgg : ∀ o ∈ grad, ∃ b, o = some b ∧ b.length = 32) (hb : block.length = 64) :
    stagedBytes k (stageBase set) (plainBytes record) (plainBytes grad) block (k.stageSet set record grad block).store := by
  have hbase : 32 * (stageBase set / 32) = stageBase set := by cases set <;> rfl
  generalize hw : stageBase set / 32 = w at hbase
  have hwf1 := storeWords_wf record k.store w hwf
  have hwf2 := storeWords_wf grad _ (w + 0x2000 / 32) hwf1
  have hblock := toWords_good 2 block
  have hat (p : Nat) : byteAt (k.stageSet set record grad block).store p =
      if 32 * (w + 384) ≤ p ∧ p < 32 * (w + 384) + 64 then some (block.getD (p - 32 * (w + 384)) 0)
      else if 32 * (w + 256) ≤ p ∧ p < 32 * (w + 256) + 2080 then some ((plainBytes grad).getD (p - 32 * (w + 256)) 0)
      else if 32 * w ≤ p ∧ p < 32 * w + 6208 then some ((plainBytes record).getD (p - 32 * w) 0)
      else byteAt k.store p := by
    have h3 := byteAt_storeWords hwf2 hblock (w + 0x3000 / 32) p
    rw [byteAt_storeWords hwf1 hgg, byteAt_storeWords hwf hrg, length_toWords, hr, hg, plainBytes_toWords 2 block hb] at h3
    rw [Core.stageSet, hw]
    exact h3
  refine ⟨fun p hp => ?_, fun p hp => ?_, fun p hp => ?_, fun p hp => ?_⟩ <;> rw [hat]
  · rw [if_neg (by omega), if_neg (by omega), if_pos (by omega), show stageBase set + p - 32 * w = p by omega]
  · rw [if_neg (by omega), if_pos (by omega), show stageBase set + 0x2000 + p - 32 * (w + 256) = p by omega]
  · rw [if_pos (by omega), show stageBase set + 0x3000 + p - 32 * (w + 384) = p by omega]
  · rw [if_neg (by omega), if_neg (by omega), if_neg (by omega)]

/-! ### The dispatcher (R295, R296, R309) -/

/-- A dispatcher at work on a core that it may stage for. -/
theorem exec_recordStage {r : Fin 2} {n : Fin 16} {b : StageFrom} {i : Image} {idx : Nat} {s : State} (himg : s.job.image = some i)
    (hph : s.inPhase 8 = true) (hst : (s.runnels.get r).state = 1) (hahead : (s.runnels.get r).ahead.has n.val = false)
    (hbank : (i.bank (if b.isHeld then s.predecessor else s.coll.rank) r.val)[(s.runnels.get r).nextNo b.isHeld n.val]? = some idx)
    (hgo : (s.runnels.get r).staged.has n.val = false ∨ ((s.runnels.get r).cores.get n).halted = false) :
    exec (.recordStage r n b) s = .next (if i.frozen (i.recordGroup idx) then s.skipRecord i r n.val b.isHeld idx
        (i.bank (if b.isHeld then s.predecessor else s.coll.rank) r.val).length
      else s.stageRecord i r n b.isHeld ((s.runnels.get r).nextNo b.isHeld n.val) idx b.bad) := by
  change execRecordStage r n b s = _
  simp only [execRecordStage, himg]
  refine congrArg _ ((if_neg ?_).trans ?_)
  · rcases hgo with h | h <;> simp [hph, hst, hahead, h]
  · rw [hbank]

/-- A Runnel die with its dispatcher's next number taken. -/
theorem Runnel.nextNo_takeNo (x : Runnel) (held : Bool) (n : Nat) : (x.takeNo held n).nextNo held n = x.nextNo held n + 16 := by
  cases held <;> exact Tbl.get_set_self _ _ _ _

/-- A Runnel die, after a change of it. -/
theorem State.runnel_modRunnel (s : State) (r : Fin 2) (f : Runnel → Runnel) : (s.modRunnel r f).runnels.get r = f (s.runnels.get r) :=
  vset_get_self _ _ _

/-- Cores that a change of one Runnel die leaves, where it changes one of its cores at most. -/
theorem State.core_modRunnel_ne {s : State} {r : Fin 2} {n : Fin 16} {f : Runnel → Runnel} {k : Core}
    (hf : (f (s.runnels.get r)).cores = vset (s.runnels.get r).cores n k) {c : CoreId} (hc : c ≠ .upd r n) :
    (s.modRunnel r f).core c = s.core c := by
  cases c with
  | jet j => rfl
  | upd r' n' =>
    by_cases hr : r' = r
    · subst hr
      have hn : n' ≠ n := fun h => hc (by rw [h])
      show ((s.modRunnel r' f).runnels.get r').cores.get n' = _
      rw [State.runnel_modRunnel, hf]
      exact vset_get_ne _ _ _ _ hn
    · exact congrArg (fun x : Runnel => x.cores.get n') (vset_get_ne _ _ _ _ hr)

/-- A record that is skipped, by the read of it. -/
theorem State.skipRecord_eq {s s1 : State} {i : Image} {r : Fin 2} {n idx total : Nat} {held : Bool} {ws : List (Option (List Byte))}
    (hread : s.readRecord i held s.record.slot idx = (ws, s1)) : s.skipRecord i r n held idx total = s1.modRunnel r fun x =>
      let x := ((x.takeNo held n).countRecord held total).addDigest held (recordTerm s1.job.key (plainBytes ws))
      { x with cnt := bump x.cnt 0 } := by
  generalize hf : @State.skipRecord = f
  delta State.skipRecord at hf
  obtain ⟨read, hread'⟩ : ∃ f, f = @State.readRecord := ⟨_, rfl⟩
  rw [← hread'] at hf hread
  subst hf
  simp only [hread]

/-- The record skipped is counted and digested (R309, R328). -/
theorem State.skipRecord_spec {s s1 : State} {i : Image} {r : Fin 2} {n idx total : Nat} {held : Bool} {ws : List (Option (List Byte))}
    (hread : s.readRecord i held s.record.slot idx = (ws, s1)) :
    let u := s.skipRecord i r n held idx total
    let x := s.runnels.get r
    let term := recordTerm s.job.key (plainBytes ws)
    u = { s1 with runnels := u.runnels } ∧ (u.runnels.get r).cores = x.cores ∧ (u.runnels.get r).cnt.get 0 0 = satInc (x.cnt.get 0 0) ∧
      (u.runnels.get r).nextNo held n = x.nextNo held n + 16 ∧
      (if held then (u.runnels.get r).digHeld = x.digHeld + term else (u.runnels.get r).digOwn = x.digOwn + term) := by
  intro u x term
  obtain ⟨hs1, -, hr1⟩ : s.counted s1 := by
    have := State.readWords_counted recordWords s (s.recordAddr i held s.record.slot idx)
    rwa [show s.readWords recordWords (s.recordAddr i held s.record.slot idx) = (ws, s1) from hread] at this
  have hjob : s1.job = s.job := by rw [hs1]
  have hu : u = s1.modRunnel r fun x =>
      let x := ((x.takeNo held n).countRecord held total).addDigest held (recordTerm s.job.key (plainBytes ws))
      { x with cnt := bump x.cnt 0 } := by
    rw [← hjob]
    exact State.skipRecord_eq hread
  refine ⟨by rw [hu]; rfl, ?_⟩
  rw [hu, State.runnel_modRunnel, hr1 r]
  have hcnt : (bump x.cnt 0).get 0 0 = satInc (x.cnt.get 0 0) := Tbl.get_set_self _ _ _ _
  have hno := x.nextNo_takeNo held n
  cases held with
  | false => exact ⟨rfl, hcnt, hno, rfl⟩
  | true => exact ⟨rfl, hcnt, hno, rfl⟩

/-- The kernel's entry of a group (R226). -/
theorem Image.entryOf_eq (i : Image) (g : Nat) :
    Image.entryOf i g = (i.kernels.getD (i.groups.getD g ⟨0, 0, 0, 0, 0, 0, false, 0, 0⟩).kernel (0, 0)).1 := by
  rw [Image.entryOf, List.getD_eq_getElem?_getD (l := i.groups)]
  cases i.groups[g]? <;> rfl

/-- The registers of a kernel that is entered (R297). -/
theorem Core.enterKernel_spec (k : Core) (set held : Bool) (entry : Nat) :
    let k' := k.enterKernel set held entry
    k' = { k with s := k'.s, v := Vector.replicate 32 0, ctrl := 0, flags := 0, halted := false, held := none,
                  resume := 0, resumed := false, staged := some set, heldBank := held, pc := BitVec.ofNat 64 (k.code.1 + entry) } ∧
      k'.rs 1 = BitVec.ofNat 64 (stageBase set) ∧ k'.rs 2 = BitVec.ofNat 64 (stageBase set + 0x2000) ∧
      k'.rs 3 = BitVec.ofNat 64 (stageBase set + 0x3000) ∧ ∀ q : BitVec 5, 4 ≤ q.toNat → k'.rs q = 0 := by
  intro k'
  obtain ⟨k0, hk0⟩ : ∃ k0 : Core, k0 = { k with
    s := Vector.replicate 32 0, v := Vector.replicate 32 0, ctrl := 0, flags := 0, halted := false, held := none,
    resume := 0, resumed := false, staged := some set, heldBank := held, pc := BitVec.ofNat 64 (k.code.1 + entry) } := ⟨_, rfl⟩
  have hk : k' = ((k0.ws 1 (BitVec.ofNat 64 (stageBase set))).ws 2 (BitVec.ofNat 64 (stageBase set + 0x2000))).ws 3
      (BitVec.ofNat 64 (stageBase set + 0x3000)) := by rw [hk0]; rfl
  refine ⟨?_, ?_, ?_, ?_, fun q hq => ?_⟩
  · rw [hk, Core.ws_frame _ 3, Core.ws_frame _ 2, Core.ws_frame _ 1, hk0]
  · rw [hk, Core.rs_ws_ne _ _ _ _ (by decide), Core.rs_ws_ne _ _ _ _ (by decide), Core.rs_ws_self _ _ _ (by decide)]
  · rw [hk, Core.rs_ws_ne _ _ _ _ (by decide), Core.rs_ws_self _ _ _ (by decide)]
  · rw [hk, Core.rs_ws_self _ _ _ (by decide)]
  · have hne (m : BitVec 5) (hm : m.toNat < 4) : q ≠ m := fun h => by rw [h] at hq; omega
    rw [hk, Core.rs_ws_ne _ _ _ _ (hne 3 (by decide)), Core.rs_ws_ne _ _ _ _ (hne 2 (by decide)),
      Core.rs_ws_ne _ _ _ _ (hne 1 (by decide)), hk0, Core.rs, if_neg (hne 0 (by decide))]
    simp

/-- A Runnel die on which a record is staged for core `n`: the kernel is entered on it, or runs on it next (R296). -/
def Runnel.staging (x : Runnel) (n : Fin 16) (held : Bool) (no idx g entry : Nat) (ws gs : List (Option (List Byte))) (block : List Byte) :
    Runnel :=
  let x := x.takeNo held n.val
  let running := Tbl.has x.staged n.val
  let set := running && !(x.staged.get ⟨true, false, 0, 0, 0, false⟩ n.val).set
  let st : Staged := ⟨set, held, no, idx, g, false⟩
  let k := (x.cores.get n).stageSet set ws gs block
  if running then { x with ahead := x.ahead.set n.val st, cores := vset x.cores n k }
  else { x with staged := x.staged.set n.val st, cores := vset x.cores n (k.enterKernel set held entry) }

/-- A kernel entered with another store: what it leaves of the core. -/
theorem Core.enterKernel_withStore (k : Core) (m : Mem) (set held : Bool) (entry : Nat) :
    let k' := ({ k with store := m } : Core).enterKernel set held entry
    k' = { k with store := k'.store, s := k'.s, v := Vector.replicate 32 0, ctrl := 0, flags := 0, halted := false, held := none,
                  resume := 0, resumed := false, staged := some set, heldBank := held, pc := k'.pc } ∧
      k'.pc = BitVec.ofNat 64 (k.code.1 + entry) ∧ k'.store = m := by
  intro k'
  have h := (({ k with store := m } : Core).enterKernel_spec set held entry).1
  obtain ⟨regs, hk⟩ : ∃ regs, k' = { k with
      store := m, s := regs, v := Vector.replicate 32 0, ctrl := 0, flags := 0, halted := false, held := none, resume := 0,
      resumed := false, staged := some set, heldBank := held, pc := BitVec.ofNat 64 (k.code.1 + entry) } := ⟨_, h⟩
  rw [hk]
  exact ⟨rfl, rfl, rfl⟩

theorem Core.stageSet_frame (k : Core) (set : Bool) (ws gs : List (Option (List Byte))) (block : List Byte) :
    k.stageSet set ws gs block = { k with store := (k.stageSet set ws gs block).store } := rfl

/-- The kernel entered over a staged set. -/
theorem Core.enterKernel_stageSet (k : Core) (set held : Bool) (entry : Nat) (ws gs : List (Option (List Byte))) (block : List Byte) :
    let k' := (k.stageSet set ws gs block).enterKernel set held entry
    k' = { k with store := k'.store, s := k'.s, v := Vector.replicate 32 0, ctrl := 0, flags := 0, halted := false, held := none,
                  resume := 0, resumed := false, staged := some set, heldBank := held, pc := k'.pc } ∧
      k'.pc = BitVec.ofNat 64 (k.code.1 + entry) ∧ k'.store = (k.stageSet set ws gs block).store := by
  have h := k.stageSet_frame set ws gs block
  generalize k.stageSet set ws gs block = m at h
  obtain ⟨store, hstore⟩ : ∃ store, store = m.store := ⟨_, rfl⟩
  rw [← hstore] at h ⊢
  rw [h]
  exact k.enterKernel_withStore store set held entry

/-- A record that is staged: which words are read, and how its die is left (R284, R296, R297). -/
theorem State.stageRecord_eq {s s1 s2 : State} {i : Image} {r : Fin 2} {n : Fin 16} {no idx : Nat} {held : Bool} {bad : List Nat}
    {ws gs : List (Option (List Byte))} (hread : s.readRecord i held s.record.slot idx = (ws, s1)) (hgood : wordsGood ws = true)
    (hgrad : s1.gradOf i held idx bad = (gs, s2)) :
    let g := i.recordGroup idx
    let t := satInc (((s.descOf held).map (·.tAgreed)).getD [] |>.getD g 0)
    let block := groupBlock (i.groups.getD g ⟨0, 0, 0, 0, 0, 0, false, 0, 0⟩) t.toNat s2.record.globalStep g
    s.stageRecord i r n held no idx bad = s2.modRunnel r fun x => x.staging n held no idx g (Image.entryOf i g) ws gs block := by
  have htake : s.takeRecord i held idx = (ws, s1) := by
    generalize hf : @State.takeRecord = f
    delta State.takeRecord at hf
    obtain ⟨read, hread'⟩ : ∃ f, f = @State.readRecord := ⟨_, rfl⟩
    rw [← hread'] at hf hread
    subst hf
    simp only [hread, hgood, if_true]
  generalize hf : @State.stageRecord = f
  delta State.stageRecord at hf
  obtain ⟨take, htake'⟩ : ∃ f, f = @State.takeRecord := ⟨_, rfl⟩
  rw [← htake'] at hf htake
  obtain ⟨grad, hgrad'⟩ : ∃ f, f = @State.gradOf := ⟨_, rfl⟩
  rw [← hgrad'] at hf hgrad
  subst hf
  simp only [htake, hgrad]
  rfl

/-- The gradient record of the held bank (R294). -/
theorem State.gradOf_held (s : State) (i : Image) (idx : Nat) (bad : List Nat) :
    s.gradOf i true idx bad = s.readWords 65 (s.gradAddr i s.ringSlot idx) := if_pos rfl

section
variable (x : Runnel) (n : Fin 16) (held : Bool) (no idx g entry : Nat) (ws gs : List (Option (List Byte))) (block : List Byte)

/-- What taking the dispatcher's next number leaves. -/
theorem Runnel.takeNo_frame (m : Nat) : (x.takeNo held m).staged = x.staged ∧ (x.takeNo held m).ahead = x.ahead ∧
    (x.takeNo held m).cores = x.cores := by
  cases held <;> exact ⟨rfl, rfl, rfl⟩

/-- A record staged for an idle core. -/
theorem Runnel.staging_idle (h : x.staged.has n.val = false) : (x.staging n held no idx g entry ws gs block).cores =
      vset x.cores n (((x.cores.get n).stageSet false ws gs block).enterKernel false held entry) ∧
    (x.staging n held no idx g entry ws gs block).nextNo held n.val = x.nextNo held n.val + 16 := by
  obtain ⟨hst, -, hc⟩ := x.takeNo_frame held n.val
  have hno := x.nextNo_takeNo held n.val
  simp only [Runnel.staging, hst, h, hc, Bool.false_and, Bool.false_eq_true, if_false]
  exact ⟨trivial, hno⟩

/-- A record staged for a core that runs a kernel. -/
theorem Runnel.staging_running (h : x.staged.has n.val = true) {st : Staged} (hs : x.staged.get ⟨true, false, 0, 0, 0, false⟩ n.val = st) :
    (x.staging n held no idx g entry ws gs block).cores = vset x.cores n ((x.cores.get n).stageSet (!st.set) ws gs block) ∧
    (x.staging n held no idx g entry ws gs block).ahead.get ⟨false, false, 0, 0, 0, false⟩ n.val = ⟨!st.set, held, no, idx, g, false⟩ := by
  obtain ⟨hst, ha, hc⟩ := x.takeNo_frame held n.val
  simp only [Runnel.staging, hst, h, hc, ha, hs, Bool.true_and, if_true]
  exact ⟨trivial, Tbl.get_set_self _ _ _ _⟩

end

/-- Cores that reads and writes of the tiers leave. -/
theorem State.counted_core {s t : State} (h : s.counted t) (c : CoreId) : t.core c = s.core c := by
  obtain ⟨hs, -, hr⟩ := h
  cases c with
  | jet j => rw [hs]; rfl
  | upd r n => exact (congrArg (fun x : Runnel => x.cores.get n) (hr r)).trans rfl

/-- The words of a gradient record (R284, R288). -/
theorem State.gradOf_words (s : State) (i : Image) (held : Bool) (idx : Nat) (bad : List Nat) :
    (s.gradOf i held idx bad).1.length = 65 ∧ wholeWords (s.gradOf i held idx bad).1 := by
  cases held with
  | true =>
    rw [State.gradOf_held]
    exact ⟨State.length_readWords _ _ _, State.readWords_whole _ _ _⟩
  | false =>
    refine ⟨?_, ?_⟩
    · show List.length (List.map _ _) = 65
      rw [List.length_map, List.length_zipIdx, length_toWords]
    · intro w hw b hb
      obtain ⟨q, hq, rfl⟩ := List.mem_map.mp (show w ∈ List.map _ _ from hw)
      obtain ⟨b', hb', hlen⟩ := toWords_good 65 _ q.1 (List.fst_mem_of_mem_zipIdx hq)
      have : (if bad.contains q.2 then none else q.1) = some b := hb
      split at this
      · cases this
      · rw [hb'] at this
        cases this
        exact hlen

/-- The record and the gradient record that a dispatcher stages leave the state but for the counts of the words read. -/
theorem State.gradOf_counted (s : State) (i : Image) (held : Bool) (idx : Nat) (bad : List Nat) : s.counted (s.gradOf i held idx bad).2 := by
  cases held with
  | true =>
    rw [State.gradOf_held]
    exact State.readWords_counted _ _ _
  | false => exact s.counted_refl

theorem State.readRecord_words (s : State) (i : Image) (held slot : Bool) (idx : Nat) :
    (s.readRecord i held slot idx).1.length = 194 ∧ wholeWords (s.readRecord i held slot idx).1 ∧
      s.counted (s.readRecord i held slot idx).2 :=
  ⟨State.length_readWords recordWords s _, State.readWords_whole recordWords s _, State.readWords_counted recordWords s _⟩

/-- Settles O22: a frozen record by what its skip counts, any other by its staging set and how its core goes on. -/
theorem dispatcherStagesOrSkipsRecords : Obligations.DispatcherStagesOrSkipsRecords := by
  intro r n b i idx ws gs s s1 s2 x k held bank no g t grp block himg hph hst hahead hbank hread
  refine ⟨fun hfr hnot => ?_, fun hfr hws hgrad hgs hwf => ?_⟩
  · have hexec := exec_recordStage himg hph hst hahead hbank (.inl hnot)
    rw [if_pos hfr] at hexec
    exact ⟨_, hexec, State.skipRecord_spec hread⟩
  · intro staged
    have hexec (hgo : x.staged.has n.val = false ∨ k.halted = false) := exec_recordStage himg hph hst hahead hbank hgo
    rw [if_neg (by rw [hfr]; decide), State.stageRecord_eq hread hws hgrad] at hexec
    obtain ⟨hwl, hww, hcnt1⟩ := s.readRecord_words i held s.record.slot idx
    rw [hread] at hwl hww hcnt1
    obtain ⟨hgl, hgw⟩ := s1.gradOf_words i held idx b.bad
    have hcnt2 := s1.gradOf_counted i held idx b.bad
    rw [hgrad] at hgl hgw hcnt2
    have hcnt := State.counted_trans hcnt1 hcnt2
    have hrec : s2.record = s.record := (congrArg State.record hcnt.1).trans rfl
    have hr2 := hcnt.2.2 r
    rw [hrec] at hexec
    have hbytes (set : Bool) := k.stageSet_bytes set hwf hwl (hww.good hws) hgl (hgw.good hgs) (length_groupBlock grp t.toNat s.record.globalStep g)
    have hc2 : (s2.runnels.get r).cores = x.cores := by rw [hr2]
    have hst2 : (s2.runnels.get r).staged = x.staged := by rw [hr2]
    refine ⟨fun hidle => ⟨_, hexec (.inl hidle), rfl, ?_⟩, fun st hrun hst hhalt => ⟨_, hexec (.inr hhalt), rfl, ?_⟩⟩
    · obtain ⟨hcores, hno⟩ := (s2.runnels.get r).staging_idle n held no idx g (Image.entryOf i g) ws gs block (by rw [hst2]; exact hidle)
      have hk' : (s2.modRunnel r fun x => x.staging n held no idx g (Image.entryOf i g) ws gs block).core (.upd r n) =
          (k.stageSet false ws gs block).enterKernel false held (Image.entryOf i g) := by
        show ((s2.modRunnel r _).runnels.get r).cores.get n = _
        rw [State.runnel_modRunnel, hcores, vset_get_self, hc2]
      obtain ⟨-, h1, h2, h3, h4⟩ := (k.stageSet false ws gs block).enterKernel_spec false held (Image.entryOf i g)
      refine ⟨fun c hc => (State.core_modRunnel_ne hcores hc).trans (State.counted_core hcnt c), ?_, ?_⟩
      · rw [State.runnel_modRunnel, hno, hr2]
        rfl
      · rw [hk']
        obtain ⟨hframe, hpc, hstore⟩ := k.enterKernel_stageSet false held (Image.entryOf i g) ws gs block
        have hentry : k.code.1 + Image.entryOf i g = k.code.1 + (i.kernels.getD grp.kernel (0, 0)).1 := by rw [Image.entryOf_eq]
        rw [hentry] at hpc
        have hfinal := hbytes false
        rw [← hstore] at hfinal
        exact ⟨hframe, hpc, h1, h2, h3, h4, hfinal⟩
    · obtain ⟨hcores, hahead'⟩ := (s2.runnels.get r).staging_running n held no idx g (Image.entryOf i g) ws gs block
        (by rw [hst2]; exact hrun) (st := st) (by rw [hst2]; exact hst)
      have hk' : (s2.modRunnel r fun x => x.staging n held no idx g (Image.entryOf i g) ws gs block).core (.upd r n) =
          k.stageSet (!st.set) ws gs block := by
        show ((s2.modRunnel r _).runnels.get r).cores.get n = _
        rw [State.runnel_modRunnel, hcores, vset_get_self, hc2]
      refine ⟨?_, ?_, ?_⟩
      · rw [State.runnel_modRunnel]
        exact hahead'
      · rw [hk']
        exact k.stageSet_frame (!st.set) ws gs block
      · rw [hk', show (if st.set then 0x60000 else 0x70000) = stageBase (!st.set) by cases st.set <;> rfl]
        exact hbytes (!st.set)

end Sys2Proof.Machine
end

section
/-! The write-back of finished records, the end of the update pass, and the words of the tiers (R249, R252, R290, R296, R299, R300,
R307, R327, R328, R337). -/

namespace Sys2Proof.Machine

/-! ### Words of the tiers -/

theorem gfMul_zero (a : Nat) : gfMul a 0 = 0 := by
  have (n : Nat) : gfMulBits n a 0 0 = 0 := by
    induction n with
    | zero => rfl
    | succ n ih => simpa [gfMulBits, gfDouble] using ih
  exact this 8

theorem encodeWord_ne_lostWord (d : List Byte) : encodeWord d ≠ lostWord := by
  intro h
  have h0 := syndrome_encodeWord d 1 (by decide)
  rw [h] at h0
  exact absurd h0 (by decide +kernel)

/-- A code word is clean with a dead check position too (R252). -/
theorem checkErased_encodeWord {d : List Byte} (hd : d.length = 32) (p : Nat) : checkErased (encodeWord d) p = .clean d := by
  have hs (k : Nat) (hk : k < 4) : syndrome ((List.range k).foldl (fun a _ => gfDouble a) 1) (encodeWord d) = 0 := by
    have : (List.range k).foldl (fun a _ => gfDouble a) 1 = 2 ^ k := by
      have : k = 0 ∨ k = 1 ∨ k = 2 ∨ k = 3 := by omega
      rcases this with rfl | rfl | rfl | rfl <;> rfl
    rw [this]
    exact syndrome_encodeWord d k hk
  simp only [checkErased, if_neg (encodeWord_ne_lostWord d), hs 0 (by decide), hs 1 (by decide), hs 2 (by decide), hs 3 (by decide),
    Nat.zero_add, Nat.reduceAdd, gfMul_zero, Nat.xor_self, and_self, if_true]
  rw [encodeWord, List.take_left' hd]

theorem State.tierCheck_encodeWord (s : State) (a : Nat) {d : List Byte} (hd : d.length = 32) :
    s.tierCheck a (encodeWord d) = .clean d := by
  unfold State.tierCheck
  split
  · exact checkWord_encodeWord d hd
  · split
    · exact checkErased_encodeWord hd _
    · exact checkWord_encodeWord d hd

/-- Reading one word: the data that its address's code word gives, if it is mapped. -/
theorem State.readWords_one_fst (s : State) (a : Nat) :
    (s.readWords 1 a).1 = [(s.canon a).bind fun c => (s.tierCheck c (s.tierRaw c)).data] := by
  cases h : s.canon a with
  | none => simp only [State.readWords, h, Option.bind_none]
  | some c => simp only [State.readWords, h, Option.bind_some, State.tierRead_fst]

theorem State.readWords_one_clean {s : State} {a c : Nat} {d : List Byte} (hc : s.canon a = some c)
    (hd : s.tierCheck c (s.tierRaw c) = .clean d) : s.readWords 1 a = ([some d], s) := by
  simp only [State.readWords, hc, State.tierRead, hd]

/-- The tiers with a code word at `c`. -/
theorem State.writeWords_one {s : State} {a c : Nat} {d : List Byte} (hc : s.canon a = some c) (hdead : s.deadGranule c = false) :
    State.writeWords [some d] s a = { s with tiers := putWord s.tiers (c / 32) (encodeWord d) } := by
  simp [State.writeWords, hc, State.tierPut, hdead]

theorem State.tierRaw_putWord {s : State} (hwf : Mem.wf s.tiers = true) (w : Nat) {d : List Byte} (hd : d.length = 32) (c : Nat) :
    ({ s with tiers := putWord s.tiers w (encodeWord d) } : State).tierRaw c =
      if s.deadGranule c = true then lostWord else if c / 32 = w then encodeWord d else rawWord s.tiers (c / 32) := by
  rw [← rawWord_putWord s.tiers w _ hwf (by rw [length_encodeWord, hd])]
  rfl

/-- A word written reads back (R249). -/
theorem State.readWords_written {s : State} (hwf : Mem.wf s.tiers = true) {a c : Nat} {d : List Byte} (hd : d.length = 32)
    (hc : s.canon a = some c) (hdead : s.deadGranule c = false) :
    (State.writeWords [some d] s a).readWords 1 a = ([some d], State.writeWords [some d] s a) := by
  rw [State.writeWords_one hc hdead]
  refine State.readWords_one_clean hc ?_
  rw [State.tierRaw_putWord hwf _ hd, if_neg (by rw [hdead]; decide), if_pos rfl]
  exact State.tierCheck_encodeWord _ _ hd

/-- A word written leaves every other. -/
theorem State.readWords_other {s : State} (hwf : Mem.wf s.tiers = true) {a b c e : Nat} {d : List Byte} (hd : d.length = 32)
    (hc : s.canon a = some c) (hdead : s.deadGranule c = false) (hb : s.canon b = some e) (hne : e / 32 ≠ c / 32) :
    ((State.writeWords [some d] s a).readWords 1 b).1 = (s.readWords 1 b).1 := by
  rw [State.writeWords_one hc hdead, State.readWords_one_fst, State.readWords_one_fst, hb,
    show ({ s with tiers := putWord s.tiers (c / 32) (encodeWord d) } : State).canon b = some e from hb, Option.bind_some,
    Option.bind_some, State.tierRaw_putWord hwf _ hd, if_neg hne]
  rfl

/-- A word folded into the share is read, combined and written (R337). -/
theorem State.foldShare_one {s s1 : State} {i : Image} {o : Nat} {x y : List Byte}
    (h : s.readWords 1 (s.parityAddr i (4096 + o)) = ([some x], s1)) :
    s.foldShare i o [some y] = State.writeWords [some (xorBytes x y)] s1 (s.parityAddr i (4096 + o)) := by
  generalize hf : @State.foldShare = f
  delta State.foldShare State.foldShare._f at hf
  obtain ⟨addr, haddr⟩ : ∃ f, f = @State.parityAddr := ⟨_, rfl⟩
  rw [← haddr] at h hf ⊢
  subst hf
  simp only [h, List.headD_cons]

theorem tierWordsReadBack : Claims.TierWordsReadBack := by
  intro s a c x y i o hwf hx hy
  refine ⟨fun hc _ hdead => ?_, fun hc _ hdead hread => ?_⟩
  · refine ⟨?_, State.readWords_written hwf hx hc hdead, fun b e hb hne => State.readWords_other hwf hx hc hdead hb hne⟩
    rw [State.writeWords_one hc hdead]
  · have hlen : (xorBytes x y).length = 32 := by simp [xorBytes, hx]
    rw [State.foldShare_one hread, State.readWords_written hwf hlen hc hdead]


/-! ### Write-back and the end of the pass (R290, R296, R299, R300, R327, R328) -/

/-- Words of which none is lost, as the dispatcher marks them. -/
theorem markWords_whole {out ws : List (Option (List Byte))} (hlen : ws.length = out.length) (hws : ∀ w ∈ ws, w.isSome = true) :
    ((out.zip ws).zipIdx.map fun p => if p.2 = 0 ∨ p.1.2.isSome then p.1.1 else none) = out := by
  refine List.ext_getElem (by simp [hlen]) fun n h1 h2 => ?_
  simp [hws]

/-- A record finished on a core with nothing staged ahead (R296, R299, R328). -/
def Runnel.finished (x : Runnel) (n : Fin 16) (k : Core) (total : Nat) (term : W128) : Runnel :=
  let x := (x.countRecord false total).addDigest false term
  { x with staged := Tbl.del x.staged n.val, cores := vset x.cores n { k with staged := none, heldBank := false } }

theorem Runnel.finished_spec (x : Runnel) (n : Fin 16) (k : Core) (total : Nat) (term : W128) :
    let y := x.finished n k total term
    y.digOwn = x.digOwn + term ∧ y.digHeld = x.digHeld ∧ y.ownCount = x.ownCount + 1 ∧ y.staged = Tbl.del x.staged n.val ∧
      y.cores = vset x.cores n { k with staged := none, heldBank := false } := ⟨rfl, rfl, rfl, rfl, rfl⟩

theorem Runnel.finish_alone {x : Runnel} {n : Fin 16} {k : Core} {total : Nat} {term : W128} (other : Runnel)
    (h : x.ahead.has n.val = false) :
    (if Tbl.has ((x.countRecord false total).addDigest false term).ahead n.val = true then other
      else { (x.countRecord false total).addDigest false term with
        staged := Tbl.del ((x.countRecord false total).addDigest false term).staged n.val
        cores := vset ((x.countRecord false total).addDigest false term).cores n { k with staged := none, heldBank := false } }) =
      x.finished n k total term :=
  if_neg (ne_true_of_eq_false h)

theorem State.modRunnel_congr {s : State} {r : Fin 2} {f g : Runnel → Runnel} (h : f (s.runnels.get r) = g (s.runnels.get r)) :
    s.modRunnel r f = s.modRunnel r g := by
  simp only [State.modRunnel, h]

/-- The words that a finished record's core leaves in its staging set. -/
def Core.stagedWords (k : Core) (st : Staged) : List (Option (List Byte)) :=
  (List.range recordWords).map fun w => wordData k.store (stageBase st.set / 32 + w)

theorem Core.stagedWords_whole {k : Core} {st : Staged} (h : ∀ w < 194, (wordData k.store (stageBase st.set / 32 + w)).isSome) :
    (k.stagedWords st).length = 194 ∧ (∀ w ∈ k.stagedWords st, w.isSome = true) ∧
      plainBytes (k.stagedWords st) = (List.range 194).flatMap fun w => (wordData k.store (stageBase st.set / 32 + w)).getD [] := by
  have hlen : recordWords = 194 := rfl
  refine ⟨by rw [Core.stagedWords, List.length_map, List.length_range, hlen], fun w hw => ?_, ?_⟩
  · obtain ⟨q, hq, rfl⟩ := List.mem_map.mp hw
    exact h q (by rw [← hlen]; exact List.mem_range.mp hq)
  · rw [plainBytes, Core.stagedWords, List.flatMap_map, hlen]
    refine List.flatMap_congr fun q hq => ?_
    obtain ⟨b, hb⟩ := Option.isSome_iff_exists.mp (h q (List.mem_range.mp hq))
    rw [hb]
    rfl

/-- The two copies written of a record that closes (R299, R307). -/
def State.putRecord (s : State) (i : Image) (index : Nat) (new : List (Option (List Byte))) : State :=
  (State.writeWords new s (s.recordAddr i false (!s.record.slot) index)).writeThrough i index new

theorem State.counted_job {s t : State} (h : s.counted t) : t.job = s.job := by rw [h.1]

theorem State.counted_record {s t : State} (h : s.counted t) : t.record = s.record := by rw [h.1]

theorem State.writeThrough_counted (s : State) (i : Image) (idx : Nat) (ws : List (Option (List Byte))) :
    s.counted (s.writeThrough i idx ws) := State.writeWords_counted _ _ _

theorem exec_recordWriteback {r : Fin 2} {n : Fin 16} {i : Image} {st : Staged} {old : List (Option (List Byte))} {s s1 : State}
    (hph : s.inPhase 8 = true) (himg : s.job.image = some i) (hhas : (s.runnels.get r).staged.has n.val = true)
    (hst : (s.runnels.get r).staged.get ⟨false, false, 0, 0, 0, false⟩ n.val = st) (hhalt : st.halted = true) (hheld : st.held = false)
    (hws : ∀ w ∈ ((s.runnels.get r).cores.get n).stagedWords st, w.isSome = true)
    (hread : s.readWords 1 (s.recordAddr i false s.record.slot st.index) = (old, s1)) (hcnt : s.counted s1)
    {staged : List Byte} (hplain : plainBytes (((s.runnels.get r).cores.get n).stagedWords st) = staged) :
    let k := (s.runnels.get r).cores.get n
    let new := toWords 194 (closeRecord i st.index s.record.globalStep (plainBytes old) staged)
    let u := (State.writeWords new s1 (s1.recordAddr i false (!s.record.slot) st.index)).writeThrough i st.index new
    (u.runnels.get r).ahead.has n.val = false → ∃ total, exec (.recordWriteback r n) s =
      .next (u.modRunnel r fun x => x.finished n k total (recordTerm s.job.key (plainBytes new))) := by
  intro k new u hahead
  have hcu : s.counted u := State.counted_trans hcnt
    (State.counted_trans (State.writeWords_counted new _ _) (State.writeThrough_counted _ i st.index new))
  have hu : u = (State.writeWords new s1 (s1.recordAddr i false (!s.record.slot) st.index)).writeThrough i st.index new := rfl
  clear_value u
  rw [← State.counted_job hcu]
  obtain ⟨ws, hwsdef⟩ : ∃ ws, ws = k.stagedWords st := ⟨_, rfl⟩
  have hmap : List.map (fun w => wordData ((s.runnels.get r).cores.get n).store (stageBase st.set / 32 + w)) (List.range recordWords) =
      ws := hwsdef.symm
  obtain ⟨tw, htw⟩ : ∃ f, f = toWords := ⟨_, rfl⟩
  have hlen : ws.length = (tw recordWords (closeRecord i st.index s1.record.globalStep (plainBytes old) (plainBytes ws))).length := by
    rw [htw, length_toWords, hwsdef, Core.stagedWords, List.length_map, List.length_range]
  rw [← hwsdef] at hws
  have hout := markWords_whole hlen hws
  have hnew : new = tw recordWords (closeRecord i st.index s1.record.globalStep (plainBytes old) (plainBytes ws)) := by
    rw [hwsdef, htw, State.counted_record hcnt, hplain, show recordWords = 194 from rfl]
  rw [← hnew] at hout
  refine ⟨(i.bank u.coll.rank r.val).length, ?_⟩
  change execRecordWriteback r n s = _
  generalize hf : @execRecordWriteback = f
  delta execRecordWriteback at hf
  obtain ⟨read, hread'⟩ : ∃ f, f = @State.readWords := ⟨_, rfl⟩
  rw [← hread'] at hf hread
  rw [← htw] at hf
  subst hf
  simp only [himg, hst, hheld, hread, hmap, hout, ← hnew, Bool.false_eq_true, if_false]
  refine congrArg _ ((if_neg (by simp [hph, hhas, hhalt])).trans ?_)
  clear_value new
  rw [← hu]
  refine State.modRunnel_congr ?_
  exact Runnel.finish_alone _ hahead

theorem Tbl.has_del {α : Type} (t : Tbl α) (i : Nat) : (Tbl.del t i).has i = false := by
  simp [Tbl.del, Tbl.has]

/-- A finished record: what its write-back leaves of its Runnel die. -/
theorem State.finished_spec {s u : State} {r : Fin 2} {n : Fin 16} (h : s.counted u) (k : Core) (total : Nat) (term : W128) :
    let x := s.runnels.get r
    let w := u.modRunnel r fun x => x.finished n k total term
    (w.runnels.get r).digOwn = x.digOwn + term ∧ (w.runnels.get r).digHeld = x.digHeld ∧ (w.runnels.get r).ownCount = x.ownCount + 1 ∧
      (w.runnels.get r).staged.has n.val = false ∧ w.core (.upd r n) = { k with staged := none, heldBank := false } := by
  intro x w
  obtain ⟨hown, hheld, hcount, hstaged, hcores⟩ := (u.runnels.get r).finished_spec n k total term
  have hw : w.runnels.get r = (u.runnels.get r).finished n k total term := State.runnel_modRunnel _ _ _
  have hr := h.2.2 r
  refine ⟨by rw [hw, hown, hr], by rw [hw, hheld, hr], by rw [hw, hcount, hr], ?_, ?_⟩
  · rw [hw, hstaged]
    exact Tbl.has_del _ _
  · show (w.runnels.get r).cores.get n = _
    rw [hw, hcores, vset_get_self]

/-- The end of the pass (R300, R328). -/
theorem exec_updatePassComplete {s : State} (hph : s.inPhase 8 = true)
    (hall : ∀ q : Fin 2, (s.runnels.get q).state = 1 ∧ (s.runnels.get q).ownDone = true ∧ (s.runnels.get q).heldDone = true) :
    exec .updatePassComplete s = .next { s with
      runnels := vset (vset s.runnels 0 { s.runnels.get 0 with state := 2 }) 1 { s.runnels.get 1 with state := 2 }
      job := { s.job with heldDigest := (s.runnels.get 0).digHeld + (s.runnels.get 1).digHeld }
      record := { s.record with
        digest := (s.runnels.get 0).digOwn + (s.runnels.get 1).digOwn
        doneStep := s.record.globalStep, doneMask := s.record.doneMask ||| 0x100 } } := by
  have hends : ((List.finRange 2).all fun r => (s.runnels.get r).state == 1 && (s.runnels.get r).ownDone && (s.runnels.get r).heldDone) =
      true := by
    rw [List.all_eq_true]
    intro q _
    obtain ⟨hstate, hown, hheld⟩ := hall q
    simp [hstate, hown, hheld]
  change execUpdatePassComplete s = _
  rw [execUpdatePassComplete]
  refine congrArg Host.Outcome.next ((if_pos ?_).trans ?_)
  · rw [hph, hends]
    rfl
  · have h1 : (vset s.runnels 0 { s.runnels.get 0 with state := 2 }).get 1 = s.runnels.get 1 := vset_get_ne _ _ _ _ (by decide)
    rw [show List.finRange 2 = [0, 1] from rfl, List.foldl_cons, List.foldl_cons, List.foldl_nil, State.setDone, setBit_true_eq_or,
      show (1#16 <<< 8) = 0x100#16 from rfl, State.modRunnel, State.modRunnel, h1]
    rfl

theorem writeBackAndPassEndPublishDigest : Claims.WriteBackAndPassEndPublishTheDigest := by
  intro r n i st old s s1 x k v hph
  refine ⟨fun himg hhas hst hhalt hheld hahead hws hread => ?_, fun hall => ⟨_, exec_updatePassComplete hph hall, rfl, rfl, rfl, ?_⟩⟩
  · intro staged new
    obtain ⟨-, hwhole, hplain⟩ := Core.stagedWords_whole hws
    have hcnt1 : s.counted s1 := by
      have := State.readWords_counted 1 s (s.recordAddr i false v st.index)
      rwa [hread] at this
    have hcnt := State.counted_trans hcnt1 (State.counted_trans
      (State.writeWords_counted new s1 (s1.recordAddr i false (!v) st.index)) (State.writeThrough_counted _ i st.index new))
    have hexec := exec_recordWriteback hph himg hhas hst hhalt hheld hwhole hread hcnt1 hplain
    obtain ⟨total, hexec⟩ := hexec (by rw [(hcnt.2.2 r)]; exact hahead)
    exact ⟨_, hexec, rfl, State.finished_spec hcnt k total _⟩
  · intro q
    have : q = 0 ∨ q = 1 := by omega
    rcases this with rfl | rfl
    · rw [vset_get_ne _ _ _ _ (by decide), vset_get_self]
    · rw [vset_get_self]

/-- Settles O23: words by what a read gives after a write, a write-back by what it leaves of its Runnel die. -/
theorem writeBackAndPassEndPublishTheDigest : Obligations.WriteBackAndPassEndPublishTheDigest :=
  ⟨tierWordsReadBack, writeBackAndPassEndPublishDigest⟩

end Sys2Proof.Machine
end

section
/-! The securing pause (R335 to R339). -/

namespace Sys2Proof.Machine

/-! ### What the operations of a pause leave of the job and its record -/

theorem State.putShare_counted (i : Image) : ∀ (ws : List (Option (List Byte))) (s : State) (o : Nat), s.counted (s.putShare i o ws)
  | [], s, _ => s.counted_refl
  | w :: ws, s, o => State.counted_trans (State.writeWords_counted [w] s _) (State.putShare_counted i ws _ (o + 32))

theorem State.foldShare_counted (i : Image) : ∀ (ws : List (Option (List Byte))) (s : State) (o : Nat), s.counted (s.foldShare i o ws) := by
  intro ws
  generalize hf : @State.foldShare = f
  delta State.foldShare State.foldShare._f at hf
  obtain ⟨addr, haddr⟩ : ∃ f, f = @State.parityAddr := ⟨_, rfl⟩
  rw [← haddr] at hf
  subst hf
  induction ws with
  | nil => exact fun s _ => s.counted_refl
  | cons w ws ih =>
    exact fun s o => State.counted_trans (State.counted_trans (State.readWords_counted 1 s _) (State.writeWords_counted _ _ _)) (ih _ _)

theorem State.readEach_counted : ∀ (l : List Nat) (s : State), s.counted (State.readEach l s).2
  | [], s => s.counted_refl
  | a :: l, s => State.counted_trans (State.readWords_counted 1 s a) (State.readEach_counted l _)

theorem State.writeEach_counted : ∀ (l : List (Nat × Option (List Byte))) (s : State), s.counted (State.writeEach l s)
  | [], s => s.counted_refl
  | (_, w) :: l, s => State.counted_trans (State.writeWords_counted [w] s _) (State.writeEach_counted l _)

/-- The same step record, and the same job but for the records to be copied and the secured copy's t_g table. -/
def State.imaged (s t : State) : Prop :=
  t.record = s.record ∧ t.job = { s.job with repair := t.job.repair, securedT := t.job.securedT }

theorem State.imaged_refl (s : State) : s.imaged s := ⟨rfl, rfl⟩

theorem State.imaged_trans {s t u : State} (h : s.imaged t) (h' : t.imaged u) : s.imaged u := by
  obtain ⟨hr, hj⟩ := h
  obtain ⟨hr', hj'⟩ := h'
  refine ⟨hr'.trans hr, ?_⟩
  rw [hj', hj]

theorem State.imaged_of_eq {s t : State} (hr : t.record = s.record) (hj : t.job = s.job) : s.imaged t := ⟨hr, by rw [hj]⟩

theorem State.counted.imaged {s t : State} (h : s.counted t) : s.imaged t :=
  State.imaged_of_eq (State.counted_record h) (State.counted_job h)

theorem State.imaged_foldl {α : Type} {f : State → α → State} (hf : ∀ (s : State) (x : α), s.imaged (f s x)) : ∀ (l : List α) (s : State),
    s.imaged (l.foldl f s)
  | [], s => s.imaged_refl
  | x :: l, s => State.imaged_trans (hf s x) (State.imaged_foldl hf l _)

theorem State.noteBad_imaged (s : State) (held : Bool) (idx : Nat) : s.imaged (s.noteBad held idx) := by
  unfold State.noteBad
  split
  · exact s.imaged_refl
  · exact ⟨rfl, rfl⟩

theorem State.takeRecord_imaged (s : State) (i : Image) (held : Bool) (idx : Nat) : s.imaged (s.takeRecord i held idx).2 := by
  have hread : s.counted (s.readRecord i held s.record.slot idx).2 := State.readWords_counted recordWords s _
  generalize hf : @State.takeRecord = f
  delta State.takeRecord at hf
  obtain ⟨read, hread'⟩ : ∃ f, f = @State.readRecord := ⟨_, rfl⟩
  rw [← hread'] at hf hread
  subst hf
  simp only []
  split
  · exact hread.imaged
  · exact State.imaged_trans hread.imaged (State.noteBad_imaged _ _ _)

theorem State.imageOf_imaged {take : State → Image → Bool → Nat → List (Option (List Byte)) × State} {i : Image} {held : Bool}
    (htake : ∀ (s : State) (x : Nat), s.imaged (take s i held x).2) (s : State) (t : List W32) :
    s.imaged (s.imageOf i (fun s x => take s i held x) t).2 := by
  have (l : List Nat) : ∀ a : List (Option (List Byte)) × State, a.2.imaged
      (l.foldl (fun (a : List (Option (List Byte)) × State) x => 
        (a.1 ++ (take a.2 i held x).1, (take a.2 i held x).2)) a).2 := by
    induction l with
    | nil => exact fun a => a.2.imaged_refl
    | cons x l ih => exact fun a => State.imaged_trans (htake a.2 x) (ih _)
  exact this _ ([], s)

theorem State.liveImage_eq (s : State) (i : Image) :
    s.liveImage i = s.imageOf i (fun s x => s.takeRecord i false x) (s.job.own.t s.record.slot) := rfl

theorem State.liveImage_imaged (s : State) (i : Image) : s.imaged (s.liveImage i).2 := by
  rw [State.liveImage_eq]
  exact State.imageOf_imaged (fun s x => s.takeRecord_imaged i false x) s _

theorem State.sendStripes_imaged (s : State) (img : List (Option (List Byte))) (digest : W128) : s.imaged (s.sendStripes img digest) := by
  unfold State.sendStripes
  refine State.imaged_foldl ?_ _ _
  intro s p
  exact State.imaged_of_eq rfl rfl

theorem State.imaged_securedT (s : State) (l : List W32) : s.imaged { s with job := { s.job with securedT := l } } := ⟨rfl, rfl⟩

theorem State.putSecured_imaged (i : Image) : ∀ (ws : List (Option (List Byte))) (s : State) (w : Nat), s.imaged (s.putSecured i w ws) := by
  intro ws
  induction ws with
  | nil => exact fun s _ => s.imaged_refl
  | cons x ws ih =>
    intro s w
    rw [State.putSecured]
    refine State.imaged_trans ?_ (ih _ (w + 1))
    split
    · exact State.counted.imaged (State.writeWords_counted [x] s _)
    · exact s.imaged_securedT _

/-! ### The stages -/

/-- A securing pause as it is entered, before its share and its copy are written (R336). -/
def State.pauseSet (s : State) : State := { s with
  record := { s.record with phase := 0x0A, doneStep := s.record.globalStep, doneMask := 0, result := 0 }
  job := { s.job with
    pause := 1, pauseStart := s.keeper.uptime, statedUs := BitVec.ofNat 32 s.statedLength, secureNow := false,
    completeFrom := [], copyWritten := false, cover := false,
    parity := { s.job.parity with complete := false, digests := [], lastFrom := [] } } }

theorem State.beginPause_imaged {s : State} {i : Image} (himg : s.job.image = some i) (hkg : s.job.nextKG = none) (hter : s.hasTerrace = true) :
    ∃ u, s.pauseSet.imaged u ∧ s.beginPause = { u with job := { u.job with copyWritten := true } } := by
  obtain ⟨s0, hs0⟩ : ∃ s0 : State, s0 = s.pauseSet := ⟨_, rfl⟩
  obtain ⟨s1, hs1⟩ : ∃ s1, s1 = ((s0.clearShare i).putHeader i).liveImage i := ⟨_, rfl⟩
  have h1 : s0.imaged s1.2 := by
    rw [hs1]
    exact State.imaged_trans ((State.counted_trans (State.putShare_counted _ _ _ _) (State.putShare_counted _ _ _ _)).imaged)
      (State.liveImage_imaged _ _)
  refine ⟨(s1.2.sendStripes s1.1 s1.2.job.digestV).putSecured i 0 s1.1, ?_, ?_⟩
  · rw [← hs0]
    exact State.imaged_trans h1 (State.imaged_trans (State.sendStripes_imaged _ _ _) (State.putSecured_imaged _ _ _ _))
  · rw [hs1, hs0]
    unfold State.pauseSet
    simp only [State.beginPause, State.applyKG, hkg, himg, hter]
    rfl

/-- The start of a pause, in stage 1 (R337). -/
theorem State.beginPause_spec {s : State} {i : Image} (himg : s.job.image = some i) (hkg : s.job.nextKG = none) (hter : s.hasTerrace = true) :
    let t := s.beginPause
    t.record.phase = 0x0A ∧ t.record.globalStep = s.record.globalStep ∧ t.job.pause = 1 ∧ t.job.parity.complete = false ∧
      t.job.parity.lastFrom = [] ∧ t.job.copyWritten = true ∧ t.job.secureNow = false := by
  obtain ⟨u, ⟨hr, hj⟩, ht⟩ := State.beginPause_imaged himg hkg hter
  intro t
  have htr : t.record = s.pauseSet.record := by rw [show t = _ from ht, ← hr]
  have htj : t.job = { u.job with copyWritten := true } := by rw [show t = _ from ht]
  rw [htr, htj, hj]
  exact ⟨rfl, rfl, rfl, rfl, rfl, rfl, rfl⟩

/-- The same step record, the same job and the same Keeper. -/
def State.sameJob (s t : State) : Prop := t.record = s.record ∧ t.job = s.job ∧ t.keeper = s.keeper

theorem State.sameJob_trans {s t u : State} (h : s.sameJob t) (h' : t.sameJob u) : s.sameJob u :=
  ⟨h'.1.trans h.1, h'.2.1.trans h.2.1, h'.2.2.trans h.2.2⟩

theorem State.event_sameJob (s : State) (code sev src : Nat) (args : List Nat) : s.sameJob (s.event code sev src args) :=
  ⟨State.event_record _ _ _ _ _, State.event_job _ _ _ _ _, State.event_keeper _ _ _ _ _⟩

theorem State.complete_sameJob (s : State) (n : Fin 8) (status detail : Nat) (out : List Byte) :
    s.sameJob (s.complete n status detail out) :=
  ⟨State.complete_record _ _ _ _ _, State.complete_job _ _ _ _ _, State.complete_keeper _ _ _ _ _⟩

theorem State.sameJob_foldl {α : Type} {f : State → α → State} (hf : ∀ (s : State) (x : α), s.sameJob (f s x)) :
    ∀ (l : List α) (s : State), s.sameJob (l.foldl f s)
  | [], _ => ⟨rfl, rfl, rfl⟩
  | x :: l, s => State.sameJob_trans (hf s x) (State.sameJob_foldl hf l (f s x))

theorem State.completeBoxes_sameJob (l : List Nat) (status detail : Nat) (out : List Byte) (s : State) :
    s.sameJob (l.foldl (fun s n => if h : n < 8 then s.complete ⟨n, h⟩ status detail out else s) s) := by
  refine State.sameJob_foldl (fun s n => ?_) l s
  split
  · exact State.complete_sameJob _ _ _ _ _
  · exact ⟨rfl, rfl, rfl⟩

theorem State.completeAt_sameJob (s : State) (n status detail : Nat) (out : List Byte) : s.sameJob (s.completeAt n status detail out) := by
  unfold State.completeAt
  split
  · exact State.complete_sameJob _ _ _ _ _
  · exact ⟨rfl, rfl, rfl⟩

/-- A piece folded at its holder, in stage 1 (R337). -/
theorem State.foldPiece_spec (s : State) (i : Image) (member offset : Nat) (data : List Byte) (digest : W128) (last : Bool) :
    let p := s.job.parity
    let q : Parity := { p with digests := p.digests.set member digest, lastFrom := if last then member :: p.lastFrom else p.lastFrom }
    let t := s.foldPiece i member offset data digest last
    (q.lastFrom.length ≠ s.job.policy.g →
      t = { s.foldShare i offset (allWords data) with job := { s.job with parity := q } }) ∧
    (q.lastFrom.length = s.job.policy.g → t.record = s.record ∧ t.job = { s.job with parity := { q with
      complete := true, gen := nextGen s.job.gen, group := s.heldGroup s.coll.rank,
      stripe := s.memberOf s.coll.rank, securedStep := s.record.globalStep - 1,
      len := s.groupLen (s.heldGroup s.coll.rank) } }) := by
  have hcnt := State.foldShare_counted i (allWords data) s offset
  generalize hs1 : s.foldShare i offset (allWords data) = s1 at hcnt
  have hj := State.counted_job hcnt
  have hr := State.counted_record hcnt
  have hcoll : s1.coll = s.coll := by rw [hcnt.1]
  intro p q t
  refine ⟨fun hne => ?_, fun heq => ?_⟩
  · show s.foldPiece i member offset data digest last = _
    simp only [State.foldPiece, hs1, hj]
    exact if_neg hne
  · have hgroup : s1.heldGroup s1.coll.rank = s.heldGroup s.coll.rank := by
      simp only [State.heldGroup, State.groupOf, State.groupsN, State.ranks, hj, hcoll]
    have hmember : s1.memberOf s1.coll.rank = s.memberOf s.coll.rank := by
      simp only [State.memberOf, State.groupsN, State.ranks, hj, hcoll]
    have hlen (j : Nat) : s1.groupLen j = s.groupLen j := by
      simp only [State.groupLen, State.rankAt, State.groupsN, State.ranks, hj]
    obtain ⟨p', hp'⟩ : ∃ p' : Parity, p' = { q with
      complete := true, gen := nextGen s.job.gen, group := s.heldGroup s.coll.rank,
      stripe := s.memberOf s.coll.rank, securedStep := s.record.globalStep - 1,
      len := s.groupLen (s.heldGroup s.coll.rank) } := ⟨_, rfl⟩
    obtain ⟨s2, hs2⟩ : ∃ s2 : State, s2 = { s1 with job := { s1.job with parity := p' } } := ⟨_, rfl⟩
    have hput := State.putShare_counted i (toWords 128 s2.job.parity.header) s2 0
    have ht : t = (List.range s.job.policy.g).foldl
        (fun s' k => s'.send (.packet (s'.rankAt (s.heldGroup s.coll.rank) k) "COMPLETE" [p'.gen.toNat, p'.stripe]))
        (s2.putHeader i) := by
      show s.foldPiece i member offset data digest last = _
      rw [hs2, hp']
      simp only [State.foldPiece, hs1, hj, hr, hgroup, hmember, hlen]
      exact if_pos heq
    obtain ⟨htr, htj, -⟩ := State.sameJob_foldl (f := fun s' k =>
      s'.send (.packet (s'.rankAt (s.heldGroup s.coll.rank) k) "COMPLETE" [p'.gen.toNat, p'.stripe])) (fun _ _ => ⟨rfl, rfl, rfl⟩)
      (List.range s.job.policy.g) (s2.putHeader i)
    rw [← ht] at htr htj
    refine ⟨?_, ?_⟩
    · rw [htr, show (s2.putHeader i).record = s2.record from State.counted_record hput, hs2, ← hr]
    · rw [htj, show (s2.putHeader i).job = s2.job from State.counted_job hput, ← hp', hs2, hj]

/-- A pause starts after its commit (R336, R337). -/
theorem exec_securePauseStart {s : State} (hrun : s.job.running = true) (hfw : s.fwServes = true) (hcom : s.committed = true)
    (hdue : s.pauseDue = true) (hdec : s.job.decided = none) (hhalt : s.job.haltAt ≠ some s.record.globalStep) :
    exec .securePauseStart s = .next (let s := s.boundary
      ({ s with record := { s.record with globalStep := s.record.globalStep + 1 } } : State).beginPause) := by
  change execSecurePauseStart s = _
  rw [execSecurePauseStart]
  exact congrArg Host.Outcome.next (if_pos (by simp [hrun, hfw, hcom, hdue, hdec, hhalt]))

theorem State.openRegions_sameJob (s : State) : s.sameJob s.openRegions := by
  unfold State.openRegions
  split
  · exact ⟨rfl, rfl, rfl⟩
  · exact ⟨rfl, rfl, rfl⟩

/-- What a change of D changes of the step record and the job (R319, R493). -/
theorem State.relay_spec (s : State) (i : Image) (p : Policy) : (s.relay i p).record = s.record ∧ ∃ ring,
    (s.relay i p).job = { s.job with policy := p, ring := ring } := by
  unfold State.relay
  simp only []
  generalize ((s.job.ring.map (·.2)).filter _) = kept
  have hread := State.readEach_counted (s.movedWords i kept) s
  generalize State.readEach (s.movedWords i kept) s = r at hread
  obtain ⟨s1, hs1⟩ : ∃ s1 : State, s1 = { r.2 with
    job := { r.2.job with policy := p, ring := kept.map fun e => (e.globalStep.toNat % (p.d + 1), e) } } := ⟨_, rfl⟩
  have hwrite := State.writeEach_counted ((s1.movedWords i kept).zip r.1) s1
  rw [← hs1]
  obtain ⟨hor, hoj, -⟩ := State.openRegions_sameJob (State.writeEach ((s1.movedWords i kept).zip r.1) s1)
  rw [hor, hoj, State.counted_job hwrite, State.counted_record hwrite, hs1, ← State.counted_job hread, ← State.counted_record hread]
  exact ⟨rfl, _, rfl⟩

/-- What applying the policy changes of the step record and the job (R493). -/
theorem State.applyPolicy_spec (s : State) : (s.applyPolicy).record = s.record ∧ ∃ policy ring,
    s.applyPolicy.job = { s.job with policy := policy, nextPolicy := none, ring := ring } := by
  cases hq : s.job.nextPolicy with
  | none =>
    simp only [State.applyPolicy, hq]
    exact ⟨trivial, s.job.policy, s.job.ring, by rw [← hq]⟩
  | some q =>
    cases himg : s.job.image with
    | none =>
      simp only [State.applyPolicy, hq, himg]
      exact ⟨trivial, _, _, rfl⟩
    | some i =>
      simp only [State.applyPolicy, hq, himg]
      split
      · exact ⟨rfl, _, _, rfl⟩
      · obtain ⟨s1, hs1⟩ : ∃ s1 : State, s1 = { s with job := { s.job with nextPolicy := none } } := ⟨_, rfl⟩
        simp only [himg] at hs1
        rw [← hs1]
        generalize ({ s.job.policy with
          d := q.d, windowPermille := q.windowPermille, windowMinMs := q.windowMinMs, drop := q.drop } : Policy) = p
        obtain ⟨hr, ring, hj⟩ := State.relay_spec s1 i p
        rw [hr, hj, hs1]
        exact ⟨rfl, _, _, rfl⟩

theorem State.passEmpty_spec (s : State) : s.passEmpty.record = { s.record with
    doneStep := s.passEmpty.record.doneStep, doneMask := s.passEmpty.record.doneMask } ∧ s.passEmpty.job = s.job := by
  obtain ⟨b, hb⟩ : ∃ b : Bool, s.passEmpty = if b then s.setDone s.record.phase.toNat else s := ⟨_, rfl⟩
  rw [hb]
  cases b
  · exact ⟨rfl, rfl⟩
  · exact ⟨rfl, rfl⟩

/-- The next step's start (R27, R191). -/
theorem State.startStep_spec (s : State) :
    let t := s.startStep
    t.record.phase = 1 ∧ t.record.globalStep = s.record.globalStep ∧ t.job.pause = s.job.pause ∧ t.job.cover = s.job.cover ∧
      t.job.sincePause = s.job.sincePause ∧ t.job.gen = s.job.gen ∧ t.job.cnt = s.job.cnt := by
  intro t
  obtain ⟨hr, policy, ring, hj⟩ := s.applyPolicy_spec
  obtain ⟨s0, hs0⟩ : ∃ s0 : State, s0 = { s.applyPolicy.captureLanes.clearStep with
    record := { s.applyPolicy.captureLanes.clearStep.record with phase := 1 } } := ⟨_, rfl⟩
  have ht : t = s0.passEmpty := by rw [hs0]; rfl
  obtain ⟨htr, htj⟩ := s0.passEmpty_spec
  rw [← ht] at htr htj
  rw [htr, htj, hs0]
  exact ⟨rfl, (congrArg StepRecord.globalStep hr).trans rfl, (congrArg Job.pause hj).trans rfl, (congrArg Job.cover hj).trans rfl,
    (congrArg Job.sincePause hj).trans rfl, (congrArg Job.gen hj).trans rfl, (congrArg Job.cnt hj).trans rfl⟩

theorem exec_parityPieceReceive {s : State} {i : Image} {member offset : Nat} {data : List Byte} {digest : W128} {last : Bool}
    (himg : s.job.image = some i) (hreb : s.job.rebuild = none) (hin : s.inPause = true) (hpause : s.job.pause = 1)
    (hwhole : s.job.parity.complete = false) (hlt : member < s.job.policy.g) (hnew : member ∉ s.job.parity.lastFrom) :
    exec (.parityPieceReceive member offset data digest last) s = .next (s.foldPiece i member offset data digest last) := by
  change execParityPieceReceive member offset data digest last s = _
  simp only [execParityPieceReceive, himg, hreb]
  exact congrArg Host.Outcome.next (if_neg (by simp [hin, hpause, hwhole, hlt, hnew]))

theorem exec_securePauseEnd {s : State} {takenUs : Nat} (hin : s.inPause = true) (hpause : s.job.pause = 2) (hfw : s.fwServes = true)
    (hrep : s.job.repair = []) : ∃ s1 : State, exec (.securePauseEnd takenUs) s = .next s1.startStep ∧
      s1.record.globalStep = s.record.globalStep ∧ s1.job = { s.job with
        gen := nextGen s.job.gen, pause := 0, cover := true, uncovered := [], sincePause := 0,
        securedStep := s.record.globalStep - 1, nextSecure := s.record.globalStep - 1 + BitVec.ofNat 64 s.job.policy.k
        cnt := if s.job.statedUs.toNat < takenUs then bump s.job.cnt 4 else s.job.cnt, secureBoxes := [], runBox := none } := by
  obtain ⟨s1, hs1⟩ : ∃ s1 : State, s1 = { s.setDone 10 with job := { s.job with
      gen := nextGen s.job.gen, pause := 0, cover := true, uncovered := [], sincePause := 0,
      securedStep := s.record.globalStep - 1, nextSecure := s.record.globalStep - 1 + BitVec.ofNat 64 s.job.policy.k
      cnt := if s.job.statedUs.toNat < takenUs then bump s.job.cnt 4 else s.job.cnt } } := ⟨_, rfl⟩
  obtain ⟨s2, hs2⟩ : ∃ s2, s2 = if s.job.statedUs.toNat < takenUs then
      s1.event 0x0045 1 srcFw [s1.job.statedUs.toNat, takenUs] else s1 := ⟨_, rfl⟩
  have h2 : s1.sameJob s2 := by
    rw [hs2]
    split
    · exact s1.event_sameJob _ _ _ _
    · exact ⟨rfl, rfl, rfl⟩
  obtain ⟨s3, hs3⟩ : ∃ s3, s3 = s2.job.secureBoxes.foldl (fun s' n =>
    if h : n < 8 then s'.complete ⟨n, h⟩ 0 0 (s'.secureOutput (s.record.globalStep - 1)) else s') s2 := ⟨_, rfl⟩
  have h3 : s2.sameJob s3 := by
    rw [hs3]
    refine State.sameJob_foldl (fun s' n => ?_) _ _
    split
    · exact s'.complete_sameJob _ _ _ _
    · exact ⟨rfl, rfl, rfl⟩
  obtain ⟨s4, hs4⟩ : ∃ s4, s4 = match s3.job.runBox with
    | some n => s3.completeAt n 0 0 acceptRecord
    | none => s3 := ⟨_, rfl⟩
  have h4 : s3.sameJob s4 := by
    rw [hs4]
    split
    · exact s3.completeAt_sameJob _ _ _ _
    · exact ⟨rfl, rfl, rfl⟩
  obtain ⟨hr, hj, hk⟩ := State.sameJob_trans h2 (State.sameJob_trans h3 h4)
  obtain ⟨s5, hs5⟩ : ∃ s5 : State, s5 = { s4 with job := { s4.job with secureBoxes := [], runBox := none } } := ⟨_, rfl⟩
  have hfw5 : s5.fwServes = true := by
    rw [hs5, ← hfw]
    show (_ && _ && _) = _
    rw [hk, hs1]
    rfl
  have hrep5 : s5.job.repair = [] := by
    rw [hs5, ← hrep]
    exact (congrArg Job.repair hj).trans (by rw [hs1])
  refine ⟨s5, ?_, ?_, ?_⟩
  · change execSecurePauseEnd takenUs s = _
    rw [execSecurePauseEnd]
    refine congrArg Host.Outcome.next ((if_neg (by simp [hin, hpause])).trans ?_)
    have hafter : s5.afterPause = s5.startStep := if_pos (by rw [hrep5]; rfl)
    rw [← hafter, ← show (if s5.fwServes = true then s5.afterPause else s5) = s5.afterPause from if_pos hfw5, hs5, hs4, hs3, hs2, hs1]
    simp only [decide_eq_true_eq] <;> rfl
  · rw [hs5, hr, hs1]
    rfl
  · rw [hs5, hj, hs1]

/-- Settles O26: each stage of the pause by its command. -/
theorem securingPauseRunsItsStages : Obligations.SecuringPauseRunsItsStages := by
  intro member offset takenUs data digest last i s hrun himg p j
  have hin (h : s.record.phase = 0x0A) : s.inPause = true := by simp [State.inPause, hrun, h]
  refine ⟨fun hfw hcom hdue hdec hkg hhalt => ?_, fun hph hpause hreb hwhole hlt hnew => ?_, fun hph hpause hlt hnew => ?_,
    fun hph hpause hlen hcopy => ?_, fun hph hpause hfw hrep => ?_⟩
  · obtain ⟨s0, hs0⟩ : ∃ s0 : State, s0 = { s.boundary with
      record := { s.boundary.record with globalStep := s.boundary.record.globalStep + 1 } } := ⟨_, rfl⟩
    have hter : s0.hasTerrace = true := by
      rw [hs0]
      exact (Bool.and_eq_true_iff.mp hdue).1
    have hs0img : s0.job.image = some i := by rw [hs0]; exact himg
    have hs0kg : s0.job.nextKG = none := by rw [hs0]; exact hkg
    have hstep : s0.record.globalStep = s.record.globalStep + 1 := by rw [hs0]; rfl
    obtain ⟨h1, h2, h3⟩ := State.beginPause_spec hs0img hs0kg hter
    refine ⟨s0.beginPause, ?_, h1, h2.trans hstep, h3⟩
    rw [exec_securePauseStart hrun hfw hcom hdue hdec hhalt, hs0]
  · obtain ⟨hmore, hall⟩ := s.foldPiece_spec i member offset data digest last
    have hexec : exec (.parityPieceReceive member offset data digest last) s = _ :=
      exec_parityPieceReceive himg hreb (hin hph) hpause hwhole hlt hnew
    refine ⟨fun hne => hexec.trans (congrArg _ (hmore hne)), fun heq => ⟨_, hexec, ?_⟩⟩
    obtain ⟨hr, hj⟩ := hall heq
    exact ⟨hj, hr⟩
  · change execHolderCompleteReceive member s = _
    rw [execHolderCompleteReceive]
    have hp : s.job.pause = 1 := hpause
    have hnew' : member ∉ s.job.completeFrom := hnew
    have hlt' : member < s.job.policy.g := hlt
    exact congrArg Host.Outcome.next (if_pos (by simp [hin hph, hp, hnew', hlt']))
  · change execSecureStage2Enter s = _
    rw [execSecureStage2Enter]
    have hp : s.job.pause = 1 := hpause
    have hlen' : s.job.completeFrom.length = s.job.policy.g := hlen
    have hcopy' : s.job.copyWritten = true := hcopy
    exact congrArg Host.Outcome.next (if_pos (by simp [hin hph, hp, hlen', hcopy']))
  · obtain ⟨s1, hexec, hstep, hj⟩ := exec_securePauseEnd (takenUs := takenUs) (hin hph) hpause hfw hrep
    obtain ⟨hphase, hgs, hpz, hcov, hsince, hgen, hcnt⟩ := s1.startStep_spec
    refine ⟨_, hexec, hphase, hgs.trans hstep, ?_⟩
    rw [hpz, hcov, hsince, hgen, hcnt, hj]
    refine ⟨rfl, rfl, rfl, rfl, ?_⟩
    by_cases hlate : j.statedUs.toNat < takenUs
    · rw [if_pos hlate, if_pos hlate]
      exact Tbl.get_set_self _ _ _ _
    · rw [if_neg hlate, if_neg hlate]

end Sys2Proof.Machine
end

section
/-! The commit, the vote's result and STEP_ABORT (R328 to R332, R340). -/

namespace Sys2Proof.Machine

/-! ### What the collective engine changes (R409, R416, R417) -/

/-- Two states that differ in the open collectives, the chunks kept and waiting, and the messages at most. -/
def State.engaged (s t : State) : Prop :=
  t = { s with coll := { s.coll with opened := t.coll.opened, sent := t.coll.sent, early := t.coll.early }, outbox := t.outbox }

theorem State.engaged_refl (s : State) : s.engaged s := rfl

theorem State.engaged_trans {s t u : State} (h : s.engaged t) (h' : t.engaged u) : s.engaged u := by
  unfold State.engaged at *
  rw [h', h]

theorem State.engaged_foldl {α : Type} {f : State → α → State} (hf : ∀ (s : State) (x : α), s.engaged (f s x)) :
    ∀ (l : List α) (s : State), s.engaged (l.foldl f s)
  | [], s => s.engaged_refl
  | x :: l, s => State.engaged_trans (hf s x) (State.engaged_foldl hf l (f s x))

theorem State.engaged.job {s t : State} (h : s.engaged t) : t.job = s.job := by rw [h]
theorem State.engaged.record {s t : State} (h : s.engaged t) : t.record = s.record := by rw [h]

theorem State.modColl_engaged (s : State) (coll occ : Nat) (f : OpenColl → OpenColl) : s.engaged (s.modColl coll occ f) := rfl

theorem State.sendChunk_engaged (s : State) (dest : Nat) (id : ChunkId) (d : ChunkData) : s.engaged (s.sendChunk dest id d) := rfl

theorem State.feed_engaged (s : State) (coll occ a m c : Nat) (d : ChunkData) : s.engaged (s.feed coll occ a m c d) := by
  unfold State.feed
  split
  · exact s.engaged_refl
  split
  · exact s.engaged_refl
  split
  · exact s.engaged_refl
  split
  · exact s.modColl_engaged _ _ _
  · exact s.sendChunk_engaged _ _ _

theorem State.takeResult_engaged (s : State) (coll occ c : Nat) (d : ChunkData) : s.engaged (s.takeResult coll occ c d) := by
  unfold State.takeResult
  split
  · exact s.engaged_refl
  · refine State.engaged_trans (s.modColl_engaged coll occ fun x => { x with results := x.results.set c d }) ?_
    simp only []
    split
    · exact State.engaged_refl _
    · exact State.engaged_refl _
    · exact State.engaged_foldl (fun t r => t.sendChunk_engaged _ _ _) _ _

theorem State.takeEarly_engaged (s : State) (e : ChunkId × ChunkData) : s.engaged (s.takeEarly e) := by
  unfold State.takeEarly
  split
  · exact s.takeResult_engaged _ _ _ _
  · exact s.modColl_engaged _ _ _

theorem State.openColl_engaged (s : State) (coll occ : Nat) (op : CollOp) (fmt : CollFmt) (chunks : Nat) (own : Tbl ChunkData)
    (absent : List Nat) : s.engaged (s.openColl coll occ op fmt chunks own absent) := by
  unfold State.openColl
  simp only []
  refine State.engaged_trans ?_ (State.engaged_foldl State.takeEarly_engaged _ _)
  generalize s.coll.opened ++ [_] = opened
  generalize List.filter _ s.coll.early = early
  refine State.engaged_trans (t := { s with coll := { s.coll with opened := opened, early := early } }) rfl ?_
  split
  · split
    · exact State.engaged_foldl (fun t p => t.takeResult_engaged _ _ _ _) _ _
    · exact State.engaged_refl _
  · exact State.engaged_foldl (fun t p => t.takeResult_engaged _ _ _ _) _ _
  · split
    · exact State.engaged_refl _
    · exact State.engaged_foldl (fun t p => t.feed_engaged _ _ _ _ _ _) _ _

/-! ### The vote (R328 to R330) -/

/-- A throttle reason that becomes active or inactive: all that it changes (R526). -/
theorem State.setThr_frame (s : State) (c : Nat) (on : Bool) : ∃ sluice cxl outbox,
    s.setThr c on = { s with sluice := sluice, cxl := cxl, outbox := outbox } := by
  unfold State.setThr
  simp only []
  split
  · rw [(State.raise_frame _ icPower).1]
    exact ⟨_, _, _, rfl⟩
  · split
    · exact ⟨_, _, _, rfl⟩
    · exact ⟨_, _, _, rfl⟩

theorem State.formVote_spec (s : State) : s.formVote.record = s.record ∧ s.formVote.job.fromPartner = s.job.fromPartner ∧
    (∀ v, s.ownVote = some v → s.job.vote = none → s.record.held = true → s.formVote.job.vote = some v) := by
  unfold State.formVote
  split
  · next v hown hvote =>
    split
    · next hheld =>
      refine ⟨rfl, rfl, fun _ _ _ h => ?_⟩
      rw [h] at hheld
      cases hheld
    · obtain ⟨sluice, cxl, outbox, hthr⟩ := State.setThr_frame { s with job := { s.job with
          vote := some v, cnt := if v = 2 then bump s.job.cnt 1 else s.job.cnt } } 9 true
      have hopen := State.openColl_engaged (State.setThr { s with job := { s.job with
          vote := some v, cnt := if v = 2 then bump s.job.cnt 1 else s.job.cnt } } 9 true)
        collVote 0 .max .binary64 1 [(0, .winners [(voteCode v, 0)])] []
      rw [hopen.record, hopen.job, hthr]
      refine ⟨rfl, rfl, fun w hw _ _ => ?_⟩
      rw [hown] at hw
      exact hw
  · next hno =>
    refine ⟨rfl, rfl, fun v hown hvote _ => ?_⟩
    exact absurd hvote (hno v hown)

theorem exec_heldDigestReceive {s : State} {digest : W128} (hrun : s.job.running = true) (hph : s.record.phase = 9) :
    exec (.heldDigestReceive s.partnerRank s.record.globalStep digest) s =
      .next (State.formVote { s with job := { s.job with fromPartner := some digest } }) := by
  change execHeldDigestReceive _ _ _ s = _
  rw [execHeldDigestReceive]
  refine congrArg Host.Outcome.next ((if_pos (by simp [hrun])).trans ?_)
  exact if_pos (by simp [hph])

/-- The result of a vote that arrives, recorded (R329). -/
def State.voted (s : State) (v : Byte) (key winner : Nat) : State :=
  { s with record := { s.record with result := v, doneStep := s.record.globalStep, doneMask := s.record.doneMask ||| 0x200 }
           job := { s.job with decided := some (key, winner) } }

theorem exec_voteResult {s : State} {key winner : Nat} (hrun : s.job.running = true) (hph : s.record.phase = 9)
    (hdone : s.record.done 9 = false) (hvote : s.voteHeld = some (key, winner)) :
    exec (.voteResult key winner) s = .next (
      let t := s.voted (if key = 1 then 1 else if key = 2 then 3 else 2) key winner
      if s.fwServes then t.actVote else t) := by
  change execVoteResult key winner s = _
  rw [execVoteResult]
  refine congrArg Host.Outcome.next ((if_neg (by simp [hrun, hph, hdone, hvote])).trans ?_)
  have hset (v : Byte) : State.setDone
      { s with record := { s.record with result := v }, job := { s.job with decided := some (key, winner) } } 9 = s.voted v key winner := by
    rw [State.setDone, setBit_true_eq_or]
    rfl
  exact (congrArg (fun t : State => if s.fwServes = true then t.actVote else t) (hset _)).trans rfl

/-- The commit (R325, R328, R330): what it leaves, and the step record. -/
theorem State.commitStep_spec (s : State) :
    let t := s.commitStep
    t.record = { s.record with slot := !s.record.slot } ∧ t.job.digestV = s.record.digest ∧ t.job.heldDigestV = s.job.heldDigest ∧
      t.job.sincePause = s.job.sincePause + 1 ∧ t.job.last = 1 ∧ t.jets = s.jets ∧ t.runnels = s.runnels ∧ t.tiers = s.tiers := by
  intro t
  obtain ⟨s0, hs0, hr, h1, h2, h3, h4, h5, h6, h7⟩ : ∃ s0 : State, s.commitStep = (s0.keepExchange.setThr 9 false).raise icStep ∧
      s0.record = { s.record with slot := !s.record.slot } ∧ s0.job.digestV = s.record.digest ∧ s0.job.heldDigestV = s.job.heldDigest ∧
      s0.job.sincePause = s.job.sincePause + 1 ∧ s0.job.last = 1 ∧ s0.jets = s.jets ∧ s0.runnels = s.runnels ∧ s0.tiers = s.tiers :=
    ⟨_, rfl, rfl, rfl, rfl, rfl, rfl, rfl, rfl, rfl⟩
  obtain ⟨sluice, cxl, outbox, hthr⟩ := s0.keepExchange.setThr_frame 9 false
  have ht : t = _ := hs0.trans (by rw [(State.raise_frame _ icStep).1, hthr])
  rw [ht]
  exact ⟨hr, h1, h2, h3, h4, h5, h6, h7⟩

/-! ### The halt of a job and the revert of a step -/

theorem State.completeAll_sameJob (s : State) (l : List Nat) (status detail : Nat) : s.sameJob (s.completeAll l status detail) :=
  State.completeBoxes_sameJob l status detail [] s

/-- A job's halt (R342): the state of the job and the step record. -/
theorem State.jobHalt_spec (s : State) (cause : Nat) :
    let t := s.jobHalt cause
    t.record.phase = 0 ∧ t.record.slot = s.record.slot ∧ t.record.globalStep = s.record.globalStep ∧ t.job.running = false ∧
      t.job.last = 3 := by
  obtain ⟨s0, hs0⟩ : ∃ s0, s0 = if s.record.phase = 0x0A then s else s.boundary := ⟨_, rfl⟩
  have h0 : s0.record.slot = s.record.slot ∧ s0.record.globalStep = s.record.globalStep := by
    rw [hs0]
    split
    · exact ⟨rfl, rfl⟩
    · exact ⟨rfl, rfl⟩
  obtain ⟨s1, hs1⟩ : ∃ s1 : State, s1 = { s0 with
    record := { s0.record with phase := 0 }
    job := { s0.job with running := false, last := 3, haltAt := none, haltBoxes := [], secureBoxes := [], policyBoxes := [],
                         runBox := none, abortDue := none, decided := none, repair := [] } } := ⟨_, rfl⟩
  obtain ⟨s2, hs2⟩ : ∃ s2, s2 = (s1.event 0x0046 3 srcFw [cause]).raise icStep := ⟨_, rfl⟩
  have h2 : s1.sameJob s2 := by rw [hs2]; exact ⟨by simp, by simp, by simp⟩
  obtain ⟨s3, hs3⟩ : ∃ s3, s3 = if s0.job.haltBoxes.isEmpty then s2 else s2.unload := ⟨_, rfl⟩
  have h3 : s3.record = s2.record ∧ s3.job.running = s2.job.running ∧ s3.job.last = s2.job.last := by
    rw [hs3]
    split
    · exact ⟨rfl, rfl, rfl⟩
    · exact ⟨rfl, rfl, rfl⟩
  intro t
  obtain ⟨s4, hs4⟩ : ∃ s4, s4 = s0.job.haltBoxes.foldl (fun s' n => s'.completeAt n 0 0 (leBytes 8 s.lastCommitted.toNat)) s3 := ⟨_, rfl⟩
  have h4 : s3.sameJob s4 := by
    rw [hs4]
    exact State.sameJob_foldl (fun s' n => s'.completeAt_sameJob _ _ _ _) _ _
  obtain ⟨s5, hs5⟩ : ∃ s5, s5 = s4.completeAll (s0.job.secureBoxes ++ s0.job.policyBoxes) 7 s4.wrongDetail := ⟨_, rfl⟩
  have h5 : s4.sameJob s5 := by
    rw [hs5]
    exact s4.completeAll_sameJob _ _ _
  have ht : s3.sameJob t := by
    refine State.sameJob_trans (State.sameJob_trans h4 h5) ?_
    rw [show t = match s0.job.runBox with
      | some n => s5.completeAt n 0xD s5.coll.rank []
      | none => s5 by rw [hs5, hs4, hs3, hs2, hs1, hs0]; rfl]
    split
    · exact s5.completeAt_sameJob _ _ _ _
    · exact ⟨rfl, rfl, rfl⟩
  obtain ⟨hr, hj, -⟩ := ht
  rw [hr, hj, h3.1, h3.2.1, h3.2.2, h2.1, h2.2.1, hs1]
  exact ⟨rfl, h0.1, h0.2, rfl, rfl⟩

/-- Two states that differ in the tiers, in the counts of their units and in the records noted for a copy at most. -/
def State.noted (s t : State) : Prop :=
  t = { s with freeCount := t.freeCount, tiers := t.tiers, basins := t.basins, runnels := t.runnels,
               job := { s.job with repair := t.job.repair } } ∧
    ∀ r, t.runnels.get r = { s.runnels.get r with units := (t.runnels.get r).units }

theorem State.noted_refl (s : State) : s.noted s := ⟨rfl, fun _ => rfl⟩

theorem State.noted_trans {s t u : State} (h : s.noted t) (h' : t.noted u) : s.noted u := by
  obtain ⟨hs, hr⟩ := h
  obtain ⟨hs', hr'⟩ := h'
  refine ⟨?_, fun r => by rw [hr' r, hr r]⟩
  rw [hs', hs]

theorem State.counted.noted {s t : State} (h : s.counted t) : s.noted t := by
  obtain ⟨hs, -, hr⟩ := h
  refine ⟨?_, hr⟩
  rw [hs]

theorem State.noted_foldl {α : Type} {f : State → α → State} (hf : ∀ (s : State) (x : α), s.noted (f s x)) :
    ∀ (l : List α) (s : State), s.noted (l.foldl f s)
  | [], s => s.noted_refl
  | x :: l, s => State.noted_trans (hf s x) (State.noted_foldl hf l (f s x))

theorem State.noteBad_noted (s : State) (held : Bool) (idx : Nat) : s.noted (s.noteBad held idx) := by
  unfold State.noteBad
  split
  · exact s.noted_refl
  · exact ⟨rfl, fun _ => rfl⟩

theorem State.takeRecord_noted (s : State) (i : Image) (held : Bool) (idx : Nat) : s.noted (s.takeRecord i held idx).2 := by
  have hread : s.counted (s.readRecord i held s.record.slot idx).2 := State.readWords_counted recordWords s _
  generalize hf : @State.takeRecord = f
  delta State.takeRecord at hf
  obtain ⟨read, hread'⟩ : ∃ f, f = @State.readRecord := ⟨_, rfl⟩
  rw [← hread'] at hf hread
  subst hf
  simp only []
  split
  · exact hread.noted
  · exact State.noted_trans hread.noted (State.noteBad_noted _ _ _)

theorem State.rewriteWeights_noted (s : State) : s.noted s.rewriteWeights := by
  have htake (s : State) (i : Image) (idx : Nat) := s.takeRecord_noted i false idx
  generalize hf : @State.rewriteWeights = f
  delta State.rewriteWeights at hf
  obtain ⟨take, htake'⟩ : ∃ f, f = @State.takeRecord := ⟨_, rfl⟩
  rw [← htake'] at hf
  simp only [← htake'] at htake
  subst hf
  simp only []
  split
  · exact State.noted_foldl (fun s idx => State.noted_trans (htake s _ idx) (State.writeThrough_counted _ _ _ _).noted) _ _
  · exact s.noted_refl

theorem State.findBad_noted (s : State) : s.noted s.findBad := by
  unfold State.findBad
  split
  · exact State.noted_trans (State.noted_foldl (fun s idx => s.noteBad_noted _ idx) _ s)
      (State.noted_foldl (fun s idx => s.noteBad_noted _ idx) _ _)
  · exact s.noted_refl

theorem State.passEmpty_frame (s : State) : s.passEmpty = { s with record := s.passEmpty.record } := by
  obtain ⟨b, hb⟩ : ∃ b : Bool, s.passEmpty = if b then s.setDone s.record.phase.toNat else s := ⟨_, rfl⟩
  rw [hb]
  cases b
  · rfl
  · rfl

theorem Vector.get_map_fin {α β : Type} {n : Nat} (f : α → β) (v : Vector α n) (i : Fin n) : (v.map f).get i = f (v.get i) := by
  simp [Vector.get]

/-- A core's lanes kept at the start of a step (R191). -/
theorem State.core_captureLanes (s : State) (c : CoreId) : s.captureLanes.core c = { s.core c with saved := (s.core c).lanes } := by
  cases c with
  | jet j => exact congrArg Jet.core (Vector.get_map_fin _ _ j)
  | upd r n =>
    show ((s.captureLanes.runnels.get r).cores.get n) = _
    rw [State.captureLanes, Vector.get_map_fin, Vector.get_map_fin]
    rfl

theorem State.core_clearStep (s : State) (c : CoreId) : s.clearStep.core c = s.core c := by
  cases c with
  | jet j => rfl
  | upd r n =>
    show ((s.clearStep.runnels.get r).cores.get n) = _
    rw [State.clearStep, Vector.get_map_fin]
    rfl

/-- A core's lanes restored, and the core freed, by a revert (R331). -/
theorem State.core_restored (s : State) (c : CoreId) : let k := s.restoreLanes.freeCores.core c
    k.lanes = (s.core c).saved ∧ k.saved = (s.core c).saved ∧ k.store = (s.core c).store := by
  cases c with
  | jet j =>
    show ((s.restoreLanes.freeCores.jets.get j).core.lanes = _ ∧ (s.restoreLanes.freeCores.jets.get j).core.saved = _ ∧
      (s.restoreLanes.freeCores.jets.get j).core.store = _)
    rw [State.freeCores, State.restoreLanes, Vector.get_map_fin, Vector.get_map_fin]
    exact ⟨rfl, rfl, rfl⟩
  | upd r n =>
    show (((s.restoreLanes.freeCores.runnels.get r).cores.get n).lanes = _ ∧ ((s.restoreLanes.freeCores.runnels.get r).cores.get n).saved = _ ∧
      ((s.restoreLanes.freeCores.runnels.get r).cores.get n).store = _)
    rw [State.freeCores, State.restoreLanes, Vector.get_map_fin, Vector.get_map_fin]
    simp only [Vector.get_map_fin]
    exact ⟨rfl, rfl, rfl⟩

/-- What a step that starts keeps (R27, R191). -/
theorem State.enterForward_spec (s : State) :
    let t := s.enterForward
    t.record.phase = 1 ∧ t.record.slot = s.record.slot ∧ t.record.globalStep = s.record.globalStep ∧ t.coll.opened = s.coll.opened ∧
      (t.job.last = s.job.last ∧ t.job.cnt = s.job.cnt ∧ t.job.own = s.job.own ∧ t.job.held = s.job.held ∧
        t.job.mismatch = s.job.mismatch) ∧
      ∀ c, t.core c = { s.core c with saved := (s.core c).lanes } := by
  obtain ⟨s0, hs0⟩ : ∃ s0 : State, s0 = { s.captureLanes.clearStep with
    record := { s.captureLanes.clearStep.record with phase := 1 } } := ⟨_, rfl⟩
  intro t
  have ht : t = s0.passEmpty := by rw [hs0]; rfl
  obtain ⟨hr, -⟩ := s0.passEmpty_spec
  have hcore (c : CoreId) : t.core c = s0.core c := by rw [ht, s0.passEmpty_frame]; exact State.core_congr rfl rfl _
  refine ⟨?_, ?_, ?_, ?_, ?_, fun c => ?_⟩
  · rw [ht, hr, hs0]
  · rw [ht, hr, hs0]; rfl
  · rw [ht, hr, hs0]; rfl
  · rw [ht, s0.passEmpty_frame, hs0]; rfl
  · rw [ht, s0.passEmpty_frame, hs0]
    exact ⟨rfl, rfl, rfl, rfl, rfl⟩
  · rw [hcore, hs0]
    exact (s.captureLanes.core_clearStep c).trans (s.core_captureLanes c)

/-- Messages sent in turn change nothing else. -/
theorem State.foldl_outbox_frame {α : Type} {f : State → α → State} (hf : ∀ (s : State) (x : α), ∃ o, f s x = { s with outbox := o }) :
    ∀ (l : List α) (s : State), ∃ o, l.foldl f s = { s with outbox := o }
  | [], s => ⟨s.outbox, rfl⟩
  | x :: l, s => by
    obtain ⟨o, ho⟩ := hf s x
    rw [List.foldl_cons, ho]
    exact State.foldl_outbox_frame hf l { s with outbox := o }

theorem State.askRepair_frame (s : State) : ∃ o, s.askRepair = { s with outbox := o } :=
  State.foldl_outbox_frame (fun _ _ => ⟨_, rfl⟩) s.job.repair s

/-- A step that runs again after its revert, or waits for copies (R331, R340). -/
theorem State.rerunStep_spec {s : State} (hhalt : s.job.haltAt ≠ some s.record.globalStep) (hph : s.record.phase = 0) :
    let t := s.rerunStep
    (t.record.phase = 1 ∨ (t.record.phase = 0 ∧ t.job.repair ≠ [])) ∧ t.record.slot = s.record.slot ∧
      t.record.globalStep = s.record.globalStep ∧ t.coll.opened = s.coll.opened ∧
      (t.job.last = s.job.last ∧ t.job.cnt = s.job.cnt ∧ t.job.own = s.job.own ∧ t.job.held = s.job.held ∧
        t.job.mismatch = s.job.mismatch) ∧
      ∀ c, (t.core c).lanes = (s.core c).lanes ∧ (t.core c).store = (s.core c).store ∧
        ((t.core c).saved = (s.core c).lanes ∨ (t.core c).saved = (s.core c).saved) := by
  intro t
  have ht : t = if s.job.repair.isEmpty = true then s.enterForward else s.askRepair := if_neg (by simpa using hhalt)
  by_cases hempty : s.job.repair.isEmpty = true
  · rw [if_pos hempty] at ht
    obtain ⟨hphase, hslot, hstep, hopen, hjob, hcore⟩ := s.enterForward_spec
    rw [ht]
    exact ⟨.inl hphase, hslot, hstep, hopen, hjob, fun c => by rw [hcore c]; exact ⟨rfl, rfl, .inl rfl⟩⟩
  · rw [if_neg hempty] at ht
    obtain ⟨o, ho⟩ := s.askRepair_frame
    rw [ht, ho]
    exact ⟨.inr ⟨hph, by simpa using hempty⟩, rfl, rfl, rfl, ⟨rfl, rfl, rfl, rfl, rfl⟩, fun c => by
      rw [State.core_congr (s := s) rfl rfl c]; exact ⟨rfl, rfl, .inr rfl⟩⟩

/-- A revert of a step at whose end the job does not halt (R331, R340). -/
theorem State.revert_spec {s : State} {cause : Nat} (hhalt : s.job.haltAt ≠ some s.record.globalStep) :
    let t := s.revert cause
    (t.record.phase = 1 ∨ (t.record.phase = 0 ∧ t.job.repair ≠ [])) ∧ t.record.slot = s.record.slot ∧
      t.record.globalStep = s.record.globalStep ∧ t.coll.opened = [] ∧
      (t.job.last = 2 ∧ t.job.cnt = bump s.job.cnt 0 ∧ t.job.own = s.job.own ∧ t.job.held = s.job.held ∧
        t.job.mismatch = s.job.mismatch) ∧
      ∀ c, (t.core c).lanes = (s.core c).saved ∧ (t.core c).saved = (s.core c).saved ∧ (t.core c).store = (s.core c).store := by
  obtain ⟨s1, hs1⟩ : ∃ s1 : State, s1 = { s with
    record := { s.record with phase := 0 }
    job := { s.job with cnt := bump s.job.cnt 0, last := 2, abortDue := none, decided := none }
    coll := s.coll.dropStep } := ⟨_, rfl⟩
  obtain ⟨sluice, cxl, outbox, hthr⟩ := s1.setThr_frame 9 false
  obtain ⟨s2, hs2⟩ : ∃ s2, s2 = s1.setThr 9 false := ⟨_, rfl⟩
  obtain ⟨s4, hs4⟩ : ∃ s4, s4 = s2.rewriteWeights.findBad := ⟨_, rfl⟩
  obtain ⟨h4, hr4⟩ : s2.noted s4 := by
    rw [hs4]
    exact State.noted_trans s2.rewriteWeights_noted (State.findBad_noted _)
  obtain ⟨s6, hs6⟩ : ∃ s6, s6 = (s4.restoreLanes.freeCores.event 0x0040 2 srcFw [cause]).raise icStep := ⟨_, rfl⟩
  obtain ⟨log, cxl', outbox', hev⟩ := s4.restoreLanes.freeCores.event_raise_frame 0x0040 2 srcFw icStep [cause]
  have hcore (c : CoreId) : s4.core c = s.core c := by
    cases c with
    | jet j => rw [h4, hs2, hthr, hs1]; rfl
    | upd r n => exact (congrArg (fun x : Runnel => x.cores.get n) (hr4 r)).trans (by rw [hs2, hthr, hs1]; rfl)
  have hcore6 (c : CoreId) : s6.core c = s4.restoreLanes.freeCores.core c := by
    rw [hs6, hev]
    exact State.core_congr rfl rfl c
  have hrec : s6.record = { s.record with phase := 0 } := by
    rw [hs6, hev]
    show s4.record = _
    rw [h4, hs2, hthr, hs1]
  have hjob : s6.job = { s.job with
      cnt := bump s.job.cnt 0, last := 2, abortDue := none, decided := none, repair := s4.job.repair } := by
    rw [hs6, hev]
    show s4.job = _
    rw [h4, hs2, hthr, hs1]
  have hcoll : s6.coll.opened = [] := by
    rw [hs6, hev]
    show s4.coll.opened = _
    rw [h4, hs2, hthr, hs1]
    rfl
  obtain ⟨h1, h2, h3, h5, ⟨j1, j2, j3, j4, j5⟩, h7⟩ := State.rerunStep_spec (s := s6) (by rw [hrec, hjob]; exact hhalt) (by rw [hrec])
  intro t
  have ht : t = s6.rerunStep := by rw [hs6, hs4, hs2, hs1]; rfl
  rw [ht]
  refine ⟨h1, h2.trans (by rw [hrec]), h3.trans (by rw [hrec]), h5.trans hcoll,
    ⟨j1.trans (by rw [hjob]), j2.trans (by rw [hjob]), j3.trans (by rw [hjob]), j4.trans (by rw [hjob]), j5.trans (by rw [hjob])⟩,
    fun c => ?_⟩
  obtain ⟨k1, k2, k3⟩ := s4.core_restored c
  obtain ⟨hl, hst, hsv⟩ := h7 c
  rw [hcore6] at hl hst hsv
  rw [hcore] at k1 k2 k3
  refine ⟨hl.trans k1, ?_, hst.trans k3⟩
  rcases hsv with h | h
  · exact h.trans k1
  · exact h.trans k2

/-! ### The claims -/

theorem State.recordMismatch_frame (s : State) (winner : Nat) : s.sameJob (s.recordMismatch winner) := by
  unfold State.recordMismatch
  split
  · exact ⟨rfl, rfl, rfl⟩
  · exact s.event_sameJob _ _ _ _

theorem votesCommitWaitOrRevert : Claims.VotesCommitWaitOrRevert := by
  intro winner digest s hrun hph
  refine ⟨?_, fun hdone => ?_⟩
  · obtain ⟨hr, hfrom, hvote⟩ := State.formVote_spec { s with job := { s.job with fromPartner := some digest } }
    exact ⟨_, exec_heldDigestReceive hrun hph, hfrom, fun hnone hheld => hvote _ rfl hnone hheld, hr⟩
  · intro bits r
    have hexec (key : Nat) (hv : s.voteHeld = some (key, winner)) := exec_voteResult hrun hph hdone hv
    refine ⟨fun hfw => ⟨fun hv => ?_, fun hv => ?_, fun hv hmis hhalt => ?_, fun hv hmis => ?_⟩, fun hfw key v hv hkey => ?_⟩
    · obtain ⟨hrec, hdig, hheld, hsince, hlast, hj, hr, ht⟩ :=
        State.commitStep_spec { s.voted 1 1 winner with job := { (s.voted 1 1 winner).job with decided := none } }
      refine ⟨_, (hexec 1 hv).trans (congrArg Host.Outcome.next (if_pos hfw)), hrec, hdig, hheld, hsince, hlast, hj, hr, ht⟩
    · exact (hexec 2 hv).trans (congrArg Host.Outcome.next (if_pos hfw))
    · obtain ⟨s0, hs0⟩ : ∃ s0 : State, s0 = { s.voted 2 3 winner with
          job := { (s.voted 2 3 winner).job with decided := none, mismatch := some winner } } := ⟨_, rfl⟩
      obtain ⟨h1, h2, h3, -, ⟨h5, h6, -, -, h9⟩, -⟩ := State.revert_spec (s := s0) (cause := 1) (by rw [hs0]; exact hhalt)
      refine ⟨s0.revert 1, ?_, h1, h2.trans (by rw [hs0]; rfl), h3.trans (by rw [hs0]; rfl), h9.trans (by rw [hs0]), h5, ?_⟩
      · refine (hexec 3 hv).trans (congrArg Host.Outcome.next ((if_pos hfw).trans ?_))
        rw [hs0]
        exact if_neg hmis
      · rw [h6, hs0]
        exact Tbl.get_set_self _ _ _ _
    · obtain ⟨s0, hs0⟩ : ∃ s0 : State, s0 = { s.voted 2 3 winner with
          job := { (s.voted 2 3 winner).job with decided := none } } := ⟨_, rfl⟩
      obtain ⟨h1, h2, -, h4, h5⟩ := (s0.recordMismatch winner).jobHalt_spec 2
      refine ⟨(s0.recordMismatch winner).jobHalt 2, ?_, h1, h4, h5, h2.trans ?_⟩
      · refine (hexec 3 hv).trans (congrArg Host.Outcome.next ((if_pos hfw).trans ?_))
        rw [hs0]
        exact if_pos hmis
      · rw [(s0.recordMismatch_frame winner).1, hs0]
        rfl
    · refine (hexec key hv).trans (congrArg Host.Outcome.next ((if_neg (ne_true_of_eq_false hfw)).trans ?_))
      rcases List.mem_cons.mp hkey with h | hkey
      · cases h
        rfl
      rcases List.mem_cons.mp hkey with h | hkey
      · cases h
        rfl
      cases List.mem_singleton.mp hkey
      rfl

theorem stepAbortRevertsToVersionV : Claims.StepAbortRevertsToVersionV := by
  intro src s hin
  have hexec (hstep : src.step = s.record.globalStep) (hnot : src.rank ∉ s.job.joined) :
      exec (.stepAbort src) s = .next (if s.fwServes then s.takeAbort 2 else { s with job := { s.job with abortDue := some 2 } }) := by
    change execStepAbort src s = _
    simp [execStepAbort, hin, hstep, hnot]
  refine ⟨fun hstep hfw hnot hhalt => ?_, fun hstep hfw hnot => ?_, fun hstep => ?_⟩
  · obtain ⟨h1, h2, h3, h4, ⟨h5, h6, h7, h8, -⟩, h10⟩ := State.revert_spec (cause := 2) hhalt
    refine ⟨s.revert 2, ?_, h1, h2, h3, h4, h5, ?_, h7, h8, h10⟩
    · rw [hexec hstep hnot, if_pos hfw]
      rfl
    · rw [h6]
      exact Tbl.get_set_self _ _ _ _
  · rw [hexec hstep hnot, if_neg (ne_true_of_eq_false hfw)]
  · change execStepAbort src s = _
    simp [execStepAbort, hstep]

/-- Settles O25: the vote by its result, the abort by the revert it makes. -/
theorem votesAndAbortsEndTheStep : Obligations.VotesAndAbortsEndTheStep :=
  ⟨votesCommitWaitOrRevert, stepAbortRevertsToVersionV⟩

end Sys2Proof.Machine
end

section
/-! Hot spares (R343 to R348). -/

namespace Sys2Proof.Machine

/-- An argument of the command latched last. -/
theorem Mailbox.arg_get (b : Mailbox) (k : Fin 8) : b.arg k.val = (b.lArgs.get k).toNat := by
  simp [Mailbox.arg, Vector.get, List.getD]

theorem exec_spareJoin {n : Fin 8} {i : Image} {rank : Nat} {s : State} (himg : s.job.image = some i) (hserve : s.serving n 0x0017)
    (hnone : s.job.spareRank = none) (hspare : s.job.spare = 0) (hrank : (s.boxes.get n).arg 0 = rank) (hlt : rank < i.shards.length)
    (hcheck : s.spareCheck i rank = none) :
    exec (.spareJoin n) s = .next (State.sendJoin { s with
      record := { s.record with epoch := BitVec.ofNat 32 ((s.boxes.get n).arg 1) }
      job := { s.job with
        spare := 1, spareRank := some (rank, n.val), seed := fitBytes 32 ((s.boxes.get n).buf.take 32)
        key := digestKey (fitBytes 32 ((s.boxes.get n).buf.take 32)) } } rank) := by
  change execSpareJoin n s = _
  rw [execSpareJoin, State.serve_serving hserve]
  simp only [hnone, hspare, himg, hrank, hcheck, if_neg (Nat.not_le.mpr hlt)]
  rfl

theorem State.stepFrom_frame (s : State) (bs : List Byte) :
    s.stepFrom bs = { s with record := { s.record with globalStep := (s.stepFrom bs).record.globalStep } } := by
  unfold State.stepFrom
  simp only []
  split
  · rfl
  · rfl

/-! ### The end of a fill (R348) -/

theorem State.shardDigest_counted (s : State) (i : Image) (held slot : Bool) : s.counted (s.shardDigest i held slot).2 := by
  have hread (s : State) (x : Nat) : s.counted (s.readRecord i held slot x).2 := State.readWords_counted recordWords s _
  generalize hf : @State.shardDigest = f
  delta State.shardDigest at hf
  obtain ⟨read, hread'⟩ : ∃ f, f = @State.readRecord := ⟨_, rfl⟩
  rw [← hread'] at hf
  simp only [← hread'] at hread
  subst hf
  simp only []
  generalize i.shardRecords _ = l
  generalize (recordTerm _ _) = t
  have (l : List Nat) : ∀ a : W128 × State, a.2.counted
      (l.foldl (fun (a : W128 × State) x => 
        (a.1 + recordTerm (read a.2 i held slot x).2.job.key (plainBytes (read a.2 i held slot x).1), (read a.2 i held slot x).2)) a).2 := by
    induction l with
    | nil => exact fun a => a.2.counted_refl
    | cons x l ih => exact fun a => State.counted_trans (hread a.2 x) (ih _)
  exact this l (t, s)

/-- A record of the secured copy, as `imageOf` takes it. -/
def State.takeSecured (s : State) (i : Image) (_ : Bool) (x : Nat) : List (Option (List Byte)) × State :=
  s.readWords recordWords (s.securedAddr i x)

theorem State.takeSecured_imaged (s : State) (i : Image) (x : Nat) : s.imaged (s.takeSecured i false x).2 :=
  State.counted.imaged (State.readWords_counted recordWords s _)

theorem State.copyImage_eq (s : State) (i : Image) : s.copyImage i = if s.record.phase = 0x0A then s.liveImage i
    else s.imageOf i (fun s x => s.takeSecured i false x) s.job.securedT := rfl

theorem State.copyImage_imaged (s : State) (i : Image) : s.imaged (s.copyImage i).2 := by
  rw [State.copyImage_eq]
  split
  · exact s.liveImage_imaged i
  · exact State.imageOf_imaged (fun s x => s.takeSecured_imaged i x) s _

/-- A fill that is accepted (R348). -/
theorem State.fillAccepted_spec (s : State) (i : Image) (rank : Nat) (own held : W128) :
    let t := s.fillAccepted i rank own held
    t.job.spare = 3 ∧ t.job.digestV = own ∧ t.job.heldDigestV = held ∧ t.job.cnt = bump s.job.cnt 2 := by
  obtain ⟨s1, hs1⟩ : ∃ s1 : W64 × State, s1 = if s.record.globalStep = 0 then s.fresh else (s.record.globalStep, s) := ⟨_, rfl⟩
  have hjob : s1.2.job = s.job := by
    rw [hs1]
    split
    · rfl
    · rfl
  obtain ⟨s2, hs2⟩ : ∃ s2 : State, s2 = { s1.2 with
    record := { s1.2.record with globalStep := s1.1 }
    job := { s1.2.job with
      spare := 3, cnt := bump s1.2.job.cnt 2, digestV := own, heldDigestV := held
      parity := { s1.2.job.parity with
        complete := s1.2.hasTerrace, group := s1.2.heldGroup rank, stripe := s1.2.memberOf rank } } } := ⟨_, rfl⟩
  intro t
  have ht : t = (if s2.hasTerrace = true then s2.putHeader i else s2).sendJoin rank := by rw [hs2, hs1]; rfl
  have hput : (s2.putHeader i).job = s2.job := State.counted_job (State.putShare_counted i _ s2 0)
  have hj : t.job = s2.job := by
    rw [ht]
    show (if s2.hasTerrace = true then s2.putHeader i else s2).job = _
    split
    · exact hput
    · rfl
  rw [hj, hs2, hjob]
  exact ⟨rfl, rfl, rfl, rfl⟩

/-- A fill that fails (R348). -/
theorem State.fillFails_spec (s : State) (i : Image) (rank box content : Nat) :
    let t := s.fillFails i rank box content
    (s.job.fillFailed = false → t.job.fillFailed = true ∧ t.job.spare = s.job.spare) ∧
      (s.job.fillFailed = true → t.job.spare = 5 ∧ t.job.spareRank = none) := by
  intro t
  refine ⟨fun h => ?_, fun h => ?_⟩
  · have ht : t = State.clearShare { s with job := { s.job with fillFailed := true, parity := {} } } i :=
      if_neg (ne_true_of_eq_false h)
    obtain ⟨s1, hs1⟩ : ∃ s1 : State, s1 = { s with job := { s.job with fillFailed := true, parity := {} } } := ⟨_, rfl⟩
    rw [← hs1] at ht
    have hj : (s1.clearShare i).job = s1.job := State.counted_job (State.putShare_counted i _ s1 4096)
    rw [ht, hj, hs1]
    exact ⟨rfl, rfl⟩
  · obtain ⟨s1, hs1⟩ : ∃ s1 : State, s1 = { s with job := { s.job with spare := 5, spareRank := none } } := ⟨_, rfl⟩
    have ht : t = (s1.event 0x0048 3 srcFw [rank, content]).completeAt box 0xC 0 (spareOutput 5 acceptRecord) := by
      rw [hs1]
      exact if_pos h
    obtain ⟨-, hj, -⟩ := State.sameJob_trans (s1.event_sameJob 0x0048 3 srcFw [rank, content])
      (State.completeAt_sameJob _ box 0xC 0 (spareOutput 5 acceptRecord))
    rw [ht, hj, hs1]
    exact ⟨rfl, rfl⟩

/-- What the reads at the end of a fill leave of the spare. -/
theorem State.imaged_spare {s t : State} (h : s.imaged t) : t.hasTerrace = s.hasTerrace ∧ t.job.key = s.job.key ∧
    t.job.spare = s.job.spare ∧ t.job.fillFailed = s.job.fillFailed ∧ t.job.cnt = s.job.cnt := by
  obtain ⟨-, hj⟩ := h
  refine ⟨?_, ?_⟩
  · have hg : t.job.policy = s.job.policy := by rw [hj]
    have hi : t.job.image = s.job.image := by rw [hj]
    have hranks : t.ranks = s.ranks := by rw [State.ranks, State.ranks, hi]
    simp only [State.hasTerrace, hranks, hg]
  · rw [hj]
    exact ⟨rfl, rfl, rfl, rfl⟩

/-- How a spare goes on from the digests that it computed over its fill (R348). -/
def State.fillEnd (t : State) (i : Image) (rank box : Nat) (own held secured d e : W128) (img : List (Option (List Byte))) : State :=
  if d ≠ own then t.fillFails i rank box 0
  else if e ≠ held then t.fillFails i rank box 1
  else if t.hasTerrace && imageDigest t.job.key img != secured then t.fillFails i rank box 2
  else t.fillAccepted i rank own held

theorem State.fillEnd_spec {s t : State} (h : s.imaged t) (hspare : s.job.spare = 2) (i : Image) (rank box : Nat)
    (own held secured d e : W128) (img : List (Option (List Byte))) :
    let u := t.fillEnd i rank box own held secured d e img
    let agrees := d = own ∧ e = held ∧ (s.hasTerrace = true → imageDigest s.job.key img = secured)
    (agrees → u.job.spare = 3 ∧ u.job.digestV = own ∧ u.job.heldDigestV = held ∧ u.job.cnt = bump s.job.cnt 2) ∧
      (¬agrees → (s.job.fillFailed = false → u.job.fillFailed = true ∧ u.job.spare = 2) ∧
        (s.job.fillFailed = true → u.job.spare = 5 ∧ u.job.spareRank = none)) := by
  obtain ⟨hter, hkey, hsp, hfail, hcounts⟩ := State.imaged_spare h
  intro u agrees
  have hlast : (t.hasTerrace && imageDigest t.job.key img != secured) = false ↔
      (s.hasTerrace = true → imageDigest s.job.key img = secured) := by
    rw [hter, hkey]
    cases s.hasTerrace <;> simp
  have hfails (content : Nat) : let u := t.fillFails i rank box content
      (s.job.fillFailed = false → u.job.fillFailed = true ∧ u.job.spare = 2) ∧
        (s.job.fillFailed = true → u.job.spare = 5 ∧ u.job.spareRank = none) := by
    rw [← hfail, ← hspare, ← hsp]
    exact t.fillFails_spec i rank box content
  refine ⟨fun hag => ?_, fun hno => ?_⟩
  · obtain ⟨hd, he, hs⟩ := hag
    have hu : u = t.fillAccepted i rank own held := (if_neg (not_not.mpr hd)).trans ((if_neg (not_not.mpr he)).trans
      (if_neg (ne_true_of_eq_false (hlast.mpr hs))))
    rw [hu, ← hcounts]
    exact t.fillAccepted_spec i rank own held
  · by_cases hd : d = own
    · by_cases he : e = held
      · have hs : ¬(s.hasTerrace = true → imageDigest s.job.key img = secured) := fun hs => hno ⟨hd, he, hs⟩
        have hu : u = t.fillFails i rank box 2 := (if_neg (not_not.mpr hd)).trans ((if_neg (not_not.mpr he)).trans
          (if_pos (eq_true_of_ne_false (mt hlast.mp hs))))
        rw [hu]
        exact hfails 2
      · have hu : u = t.fillFails i rank box 1 := (if_neg (not_not.mpr hd)).trans (if_pos he)
        rw [hu]
        exact hfails 1
    · have hu : u = t.fillFails i rank box 0 := if_pos hd
      rw [hu]
      exact hfails 0

/-- The end of a fill whose pair is there: it is accepted, or fails with the content that differs first (R348). -/
theorem exec_fillVerify {own held secured : W128} {i : Image} {rank box : Nat} {s : State} (himg : s.job.image = some i)
    (hrank : s.job.spareRank = some (rank, box)) (hspare : s.job.spare = 2) (hpartner : s.actives.contains s.partnerRank = true) :
    exec (.fillVerify own held secured) s = .next (
      let o := s.shardDigest i false s.record.slot
      let h := o.2.shardDigest i true o.2.record.slot
      let img := h.2.copyImage i
      img.2.fillEnd i rank box own held secured o.1 h.1 img.1) := by
  change execFillVerify own held secured s = _
  generalize hf : @execFillVerify = f
  delta execFillVerify at hf
  obtain ⟨digest, hdigest⟩ : ∃ f, f = @State.shardDigest := ⟨_, rfl⟩
  obtain ⟨copy, hcopy⟩ : ∃ f, f = @State.copyImage := ⟨_, rfl⟩
  rw [← hdigest, ← hcopy] at hf
  rw [← hdigest, ← hcopy]
  subst hf
  simp only [hrank, himg]
  refine congrArg Host.Outcome.next ((if_neg (by rw [hspare]; simp)).trans ?_)
  simp only [hpartner, if_true, State.fillEnd]

/-- Settles O27: the join, the pieces of a fill and its end, each by its command. -/
theorem sparesJoinFillAndVerify : Obligations.SparesJoinFillAndVerify := by
  intro n i rank box idx bs own held secured s j v himg
  refine ⟨fun hserve hnone hspare hrank hlt hcheck => ?_, fun hspare => ⟨?_, ?_⟩, fun hrank hspare hpartner => ?_⟩
  · have harg0 : (s.boxes.get n).arg 0 = rank := (Mailbox.arg_get _ 0).trans hrank
    refine ⟨_, exec_spareJoin himg hserve hnone hspare harg0 hlt hcheck, rfl, rfl, ?_, rfl, rfl⟩
    show BitVec.ofNat 32 ((s.boxes.get n).arg 1) = _
    rw [show (s.boxes.get n).arg 1 = _ from Mailbox.arg_get _ 1]
    exact BitVec.ofNat_toNat _ _
  · have hsp : s.job.spare = 2 := hspare
    have himg' : s.job.image = some i := himg
    change execFillStreamReceive _ s = _
    simp only [execFillStreamReceive, himg', hsp, if_true, State.takeFill, fillHash, Option.any_none, Bool.false_eq_true, if_false, show s.record.slot = v from rfl]
  · have hsp : s.job.spare = 2 := hspare
    have himg' : s.job.image = some i := himg
    have hrec : (s.writeRecord i false v idx bs).record = s.record := State.counted_record (State.writeWords_counted _ _ _)
    refine ⟨(s.writeRecord i false v idx bs).stepFrom bs, ?_, ?_⟩
    · change execFillStreamReceive _ s = _
      simp only [execFillStreamReceive, himg', hsp, if_true, State.takeFill, fillHash, Option.any_none, Bool.false_eq_true, if_false, show s.record.slot = v from rfl]
    · rw [← hrec]
      exact State.stepFrom_frame _ bs
  · have hexec := exec_fillVerify (own := own) (held := held) (secured := secured) himg hrank hspare hpartner
    have hcnt := s.shardDigest_counted i false v
    have hslot : (s.shardDigest i false v).2.record.slot = v := congrArg StepRecord.slot (State.counted_record hcnt)
    simp only [show (s.shardDigest i false s.record.slot).2.record.slot = s.record.slot from hslot] at hexec
    intro o h img agrees
    have himaged : s.imaged img.2 := State.imaged_trans (State.counted_trans hcnt (o.2.shardDigest_counted i true v)).imaged
      (h.2.copyImage_imaged i)
    obtain ⟨hag, hno⟩ := State.fillEnd_spec himaged hspare i rank box own held secured o.1 h.1 img.1
    refine ⟨fun ha => ?_, fun hn => ⟨fun hf => ⟨_, hexec, (hno hn).1 hf⟩, fun hf => ⟨_, hexec, (hno hn).2 hf⟩⟩⟩
    obtain ⟨h1, h2, h3, h4⟩ := hag ha
    refine ⟨_, hexec, h1, h2, h3, ?_⟩
    rw [show (State.fillEnd _ _ _ _ _ _ _ _ _ _).job.cnt = _ from h4]
    exact Tbl.get_set_self _ _ _ _

end Sys2Proof.Machine
end

section
/-! The optical ports: frames and retry (R359 to R364). -/

namespace Sys2Proof.Machine

/-! ### One port -/

theorem State.modPort_eq (s : State) (p : Fin 6) (f : Port → Port) : s.modPort p f = Claims.port s p (f (s.weir.ports.get p)) := rfl

theorem Claims.port_get (s : State) (p : Fin 6) (y : Port) : (Claims.port s p y).weir.ports.get p = y := vset_get_self _ _ _

theorem Claims.port_port (s : State) (p : Fin 6) (y z : Port) : Claims.port (Claims.port s p y) p z = Claims.port s p z := by
  simp only [Claims.port, State.modPort, vset_vset]

theorem Claims.port_modPort (s : State) (p : Fin 6) (y : Port) (f : Port → Port) :
    (Claims.port s p y).modPort p f = Claims.port s p (f y) := by
  rw [State.modPort_eq, Claims.port_get, Claims.port_port]

theorem Claims.port_self (s : State) (p : Fin 6) : Claims.port s p (s.weir.ports.get p) = s := by
  simp only [Claims.port, State.modPort, vset_get_same]

theorem State.countPort_eq (s : State) (p : Fin 6) (k n : Nat) :
    s.countPort p k n = Claims.port s p { s.weir.ports.get p with cnt := bumpBy (s.weir.ports.get p).cnt k n } := rfl

theorem Claims.port_countPort (s : State) (p : Fin 6) (y : Port) (k n : Nat) :
    (Claims.port s p y).countPort p k n = Claims.port s p { y with cnt := bumpBy y.cnt k n } := Claims.port_modPort s p y _

/-! ### Frames that go out (R359 to R361) -/

/-- A frame sent by a port. -/
def State.frameOut (s : State) (p : Fin 6) (y : Port) (hdr body : List Byte) : State :=
  (Claims.port s p { y with unit := (y.unit + 8) % 16 }).send
    (.frame p.val ((List.range 8).map fun i => y.laneOf (y.unit + i)) hdr body)

theorem Claims.port_sendFrame (s : State) (p : Fin 6) (y : Port) (hdr body : List Byte) :
    (Claims.port s p y).sendFrame p hdr body = State.frameOut s p y hdr body := by
  rw [State.sendFrame, Claims.port_get, Claims.port_modPort]
  rfl

/-- The port as a transmission in the UP state leaves it: a NAK is sent once (R362). -/
def Port.nakSending (x : Port) : Port := { x with nak := false, cnt := if x.nak then bumpBy x.cnt 1 1 else x.cnt }

/-- The header of a frame that a port sends (R360). -/
def Port.header (x : Port) (type seq : Nat) : List Byte := frameHeader type seq x.rxSeq.toNat x.nak (~~~x.off).toNat

/-- What port `x` of `s` sends in the UP state: a frame again, a new one, or IDLE (R361, R363). -/
def State.portFrame (s : State) (p : Fin 6) (x : Port) : State :=
  match (if 0 < x.resend then x.retry[x.retry.length - x.resend]? else none) with
  | some (seq, body) => State.frameOut s p { x.nakSending with resend := x.resend - 1 } (x.header 0 seq.toNat) body
  | none =>
    if !x.unlocked && decide (x.retry.length < 2048) && decide (120 ≤ x.txStream.length) then
      State.frameOut s p { x.nakSending with
        txSeq := x.txSeq + 1, txStream := x.txStream.drop 120, retry := x.retry ++ [(x.txSeq + 1, x.txStream.take 120)] }
        (x.header 0 (x.txSeq + 1).toNat) (x.txStream.take 120)
    else State.frameOut s p x.nakSending (x.header 1 0) (zeroBytes 120)

section
variable {s : State} {p : Fin 6} {x : Port}

theorem State.portFrame_resend {seq : BitVec 12} {body : List Byte} (hre : 0 < x.resend)
    (hget : x.retry[x.retry.length - x.resend]? = some (seq, body)) : State.portFrame s p x =
      State.frameOut s p { x.nakSending with resend := x.resend - 1 } (x.header 0 seq.toNat) body := by
  rw [State.portFrame, if_pos hre, hget]

theorem State.portFrame_data (hre : x.resend = 0) (hlock : x.unlocked = false) (hroom : x.retry.length < 2048)
    (hready : 120 ≤ x.txStream.length) : State.portFrame s p x = State.frameOut s p { x.nakSending with
      txSeq := x.txSeq + 1, txStream := x.txStream.drop 120, retry := x.retry ++ [(x.txSeq + 1, x.txStream.take 120)] }
      (x.header 0 (x.txSeq + 1).toNat) (x.txStream.take 120) := by
  rw [State.portFrame, if_neg (by rw [hre]; decide)]
  exact if_pos (by simp [hlock, hroom, hready])

theorem State.portFrame_idle (hre : x.resend = 0) (hno : x.unlocked = true ∨ 2048 ≤ x.retry.length ∨ x.txStream.length < 120) :
    State.portFrame s p x = State.frameOut s p x.nakSending (x.header 1 0) (zeroBytes 120) := by
  rw [State.portFrame, if_neg (by rw [hre]; decide)]
  refine if_neg ?_
  rcases hno with h | h | h
  · simp [h]
  · simp [Nat.not_lt.mpr h]
  · simp [Nat.not_le.mpr h]

end

theorem exec_frameTransmit {p : Fin 6} {s : State} (hst : (s.weir.ports.get p).state = 2) :
    exec (.frameTransmit p) s = .next (State.portFrame s p (s.weir.ports.get p)) := by
  change execFrameTransmit p s = _
  obtain ⟨x, hx⟩ : ∃ x, x = s.weir.ports.get p := ⟨_, rfl⟩
  have hnak : (if x.nak then s.countPort p 1 1 else s).modPort p (fun y => { y with nak := false }) = Claims.port s p x.nakSending := by
    cases hn : x.nak with
    | false =>
      simp only [Bool.false_eq_true, if_false, State.modPort_eq, Port.nakSending, hn, ← hx]
    | true =>
      simp only [if_true, State.countPort_eq, Claims.port_modPort, Port.nakSending, hn, ← hx]
  rw [execFrameTransmit]
  refine congrArg Host.Outcome.next ((if_neg (by rw [hst]; decide)).trans ((if_neg (by rw [hst]; decide)).trans ?_))
  simp only [← hx, hnak, Claims.port_modPort, Claims.port_sendFrame]
  rfl

theorem framesGoOutInOrder : Claims.FramesGoOutInOrder := by
  intro p s x head x' lane out
  refine ⟨fun hst => ?_, fun hst => ⟨fun seq body hre hget => ?_, fun hre hlock hroom hready => ?_, fun hre hno => ?_⟩⟩
  · change execFrameTransmit p s = _
    rw [execFrameTransmit]
    exact congrArg Host.Outcome.next ((if_pos hst).trans rfl)
  · exact (exec_frameTransmit hst).trans (congrArg Host.Outcome.next (State.portFrame_resend hre hget))
  · exact (exec_frameTransmit hst).trans (congrArg Host.Outcome.next (State.portFrame_data hre hlock hroom hready))
  · exact (exec_frameTransmit hst).trans (congrArg Host.Outcome.next (State.portFrame_idle hre hno))

/-! ### Frames that arrive (R360 to R363) -/

theorem leNat_leBytes : ∀ n v : Nat, leNat (leBytes n v) = v % 256 ^ n
  | 0, v => by rw [pow_zero, Nat.mod_one]; rfl
  | n + 1, v => by
    rw [leBytes, leNat, leNat_leBytes n (v / 256), BitVec.toNat_ofNat, pow_succ' 256 n, Nat.mod_mul]

theorem crcBits_lt : ∀ n c : Nat, c < 65536 → crcBits n c < 65536
  | 0, _, h => h
  | n + 1, c, h => by
    refine crcBits_lt n _ ?_
    simp only []
    split
    · exact Nat.mod_lt _ (by decide)
    · omega

theorem hcrc_lt (bs : List Byte) : hcrc bs < 65536 := by
  have (bs : List Byte) : ∀ c < 65536, bs.foldl (fun c b => crcBits 8 (c ^^^ (b.toNat * 256))) c < 65536 := by
    induction bs with
    | nil => exact fun _ h => h
    | cons b bs ih =>
      intro c h
      rw [List.foldl_cons]
      refine ih _ (crcBits_lt 8 _ ?_)
      have hb : b.toNat * 256 < 2 ^ 16 := by have := b.isLt; omega
      have hx := Nat.xor_lt_two_pow (n := 16) (by omega : c < 2 ^ 16) hb
      omega
  rw [hcrc]
  exact this bs 0xFFFF (by omega)

theorem length_linkHeader (type seq ack : Nat) (nak : Bool) (xon : Nat) : (linkHeader type seq ack nak xon).length = 6 := length_leBytes 6 _

theorem frameHeader_take (type seq ack : Nat) (nak : Bool) (xon : Nat) :
    (frameHeader type seq ack nak xon).take 6 = linkHeader type seq ack nak xon := by
  show (linkHeader type seq ack nak xon ++ _).take 6 = _
  rw [List.take_left' (length_linkHeader ..)]

/-- The HCRC of a header as it is sent (R360). -/
theorem frameHeader_crc (type seq ack : Nat) (nak : Bool) (xon : Nat) :
    let h := frameHeader type seq ack nak xon
    hcrc (h.take 6) = leNat ((h.drop 6).take 2) := by
  intro h
  have htake : h.take 6 = linkHeader type seq ack nak xon := frameHeader_take ..
  have hdrop : h.drop 6 = leBytes 2 (hcrc (linkHeader type seq ack nak xon)) := by
    show (linkHeader type seq ack nak xon ++ _).drop 6 = _
    rw [List.drop_left' (length_linkHeader ..)]
  rw [htake, hdrop, List.take_of_length_le (by rw [length_leBytes]), leNat_leBytes]
  exact (Nat.mod_eq_of_lt (hcrc_lt _)).symm

/-- The fields of a header as it is sent, without a NAK (R360). -/
theorem frameHeader_fields {type : Nat} (htype : type < 4) (seq ack : BitVec 12) (xon : Byte) {link : Nat}
    (hlink : link = leNat ((frameHeader type seq.toNat ack.toNat false xon.toNat).take 6)) :
    link / 2 ^ 46 % 4 = type ∧ BitVec.ofNat 12 (link / 2 ^ 34) = seq ∧ BitVec.ofNat 12 (link / 2 ^ 22) = ack ∧
      link / 2 ^ 21 % 2 = 0 ∧ BitVec.ofNat 8 (link / 2 ^ 13) = xon := by
  have hs := seq.isLt
  have ha := ack.isLt
  have hx := xon.isLt
  have hsum : link = type * 2 ^ 46 + seq.toNat * 2 ^ 34 + ack.toNat * 2 ^ 22 + xon.toNat * 2 ^ 13 := by
    rw [hlink, frameHeader_take, linkHeader, leNat_leBytes, if_neg Bool.false_ne_true]
    omega
  clear hlink
  refine ⟨by omega, ?_, ?_, by omega, ?_⟩
  · apply BitVec.eq_of_toNat_eq
    rw [BitVec.toNat_ofNat]
    omega
  · apply BitVec.eq_of_toNat_eq
    rw [BitVec.toNat_ofNat]
    omega
  · apply BitVec.eq_of_toNat_eq
    rw [BitVec.toNat_ofNat]
    omega

/-- What a DATA frame makes of its port (R362). -/
def Port.takeData (x : Port) (ok : Bool) (seq : BitVec 12) (body : List Byte) : Port :=
  if x.state ≠ 2 then x
  else if ok && seq == x.rxSeq + 1 then { x with rxSeq := seq, rxStream := x.rxStream ++ fitBytes 120 body, nakSent := false }.reflow
  else if x.nakSent then x
  else { x with nak := true, nakSent := true }

/-- A port as it counts the bits that its decoder corrected and the frames that it could not, and hears the peer (R364, R374). -/
def Port.heard (x : Port) (corr uncorr : Nat) (xon : Byte) : Port :=
  { x with cnt := bumpBy (bumpBy x.cnt 2 corr) 3 uncorr, silent := false, xonRx := xon }

/-- A frame that the peer sent without a NAK, at a port in the UP state. -/
theorem exec_frameReceive {p : Fin 6} {type : Nat} (htype : type < 4) {seq ack : BitVec 12} {xon : Byte} {body : List Byte} {ok : Bool}
    {corr uncorr : Nat} {s : State} (hst : (s.weir.ports.get p).state = 2) :
    exec (.frameReceive p (frameHeader type seq.toNat ack.toNat false xon.toNat) body ok corr uncorr) s = .next (
      let t := (Claims.port s p ((s.weir.ports.get p).heard corr uncorr xon)).takeAck p ack
      if type ≠ 0 then t else t.modPort p fun x => x.takeData ok seq body) := by
  obtain ⟨h1, h2, h3, h4, h5⟩ := frameHeader_fields htype seq ack xon rfl
  have hcrc' := frameHeader_crc type seq.toNat ack.toNat false xon.toNat
  change execFrameReceive _ _ _ _ _ _ s = _
  rw [execFrameReceive]
  refine congrArg Host.Outcome.next ((if_neg (not_not.mpr hst)).trans ?_)
  refine (if_neg (not_not.mpr hcrc')).trans ?_
  simp only [h1, h2, h3, h4, h5, State.countPort_eq, Claims.port_get, Claims.port_port, Claims.port_modPort]
  rw [if_neg (by decide : ¬(0 : Nat) = 1)]
  rfl

/-- Two ports that differ in what waits at them and in their counters at most. -/
def Port.waiting (x y : Port) : Prop :=
  y = { x with outQ := y.outQ, rxWords := y.rxWords, off := y.off, cnt := y.cnt }

theorem Port.waiting_trans {x y z : Port} (h : x.waiting y) (h' : y.waiting z) : x.waiting z := by
  unfold Port.waiting at *
  rw [h', h]

/-- Two states that differ in the weir alone, there in what waits at the ports and in what is counted. -/
def State.queued (s t : State) : Prop :=
  t = { s with weir := { s.weir with ports := t.weir.ports, cnt := t.weir.cnt, epIn := t.weir.epIn, epOut := t.weir.epOut } } ∧
    ∀ q, (s.weir.ports.get q).waiting (t.weir.ports.get q)

theorem State.queued_refl (s : State) : s.queued s := ⟨rfl, fun _ => rfl⟩

theorem State.queued_trans {s t u : State} (h : s.queued t) (h' : t.queued u) : s.queued u := by
  obtain ⟨hs, hp⟩ := h
  obtain ⟨hs', hp'⟩ := h'
  refine ⟨?_, fun q => Port.waiting_trans (hp q) (hp' q)⟩
  rw [hs', hs]

theorem State.queued_foldl {α : Type} {f : State → α → State} (hf : ∀ (s : State) (x : α), s.queued (f s x)) :
    ∀ (l : List α) (s : State), s.queued (l.foldl f s)
  | [], s => s.queued_refl
  | x :: l, s => State.queued_trans (hf s x) (State.queued_foldl hf l (f s x))

theorem State.modPort_queued (s : State) (p : Fin 6) {f : Port → Port} (hf : ∀ x : Port, x.waiting (f x)) : s.queued (s.modPort p f) := by
  refine ⟨rfl, fun q => ?_⟩
  rw [State.modPort, vset_get]
  split
  · next h => rw [h]; exact hf _
  · rfl

theorem State.leave_queued (s : State) (x : Queued) : s.queued (s.leave x) := by
  unfold State.leave
  split
  · exact State.queued_trans (t := s.leaveChannel x.pkt.epoch x.v) ⟨rfl, fun _ => rfl⟩ (State.modPort_queued _ _ fun _ => rfl)
  · exact ⟨rfl, fun _ => rfl⟩

theorem State.discard_queued (s : State) (x : Queued) (k : Nat) : s.queued (s.discard x k) :=
  State.queued_trans (s.leave_queued x) ⟨rfl, fun _ => rfl⟩

theorem State.join_queued (s : State) (q : Fin 6) (x : Queued) : s.queued (s.join q x) := by
  unfold State.join
  refine State.queued_trans ?_ (State.modPort_queued _ _ fun _ => rfl)
  split
  · exact State.modPort_queued _ _ fun _ => rfl
  · exact s.queued_refl

theorem State.reinject_queued (s : State) (p : Fin 6) (x : Queued) : s.queued (s.reinject p x) := by
  unfold State.reinject
  simp only []
  split
  · exact s.discard_queued x 1
  · exact State.queued_trans (State.queued_trans (s.leave_queued x) ⟨rfl, fun _ => rfl⟩)
      (State.queued_trans ⟨rfl, fun _ => rfl⟩ (State.join_queued _ _ _))

/-- An ACK that covers no frame (R363). -/
theorem State.takeAck_none {s : State} {p : Fin 6} (ack : BitVec 12) (h : (s.weir.ports.get p).retry = []) : s.takeAck p ack = s := by
  unfold State.takeAck
  simp only [h, List.filter_nil, List.length_nil]
  rfl

/-- An ACK that covers the oldest frames of the retry buffer (R363, R385). -/
theorem State.takeAck_covering {s : State} {p : Fin 6} {ack : BitVec 12} {old new : List (BitVec 12 × List Byte)}
    (h : (s.weir.ports.get p).retry = old ++ new) (hne : old ≠ []) (hold : ∀ f ∈ old, (ack - f.1).toNat < 2048)
    (hnew : ∀ f ∈ new, 2048 ≤ (ack - f.1).toNat) :
    let t := s.takeAck p ack
    let x := s.weir.ports.get p
    let y := t.weir.ports.get p
    t = { s with weir := t.weir } ∧ y.retry = new ∧ y.retries = 0 ∧ y.rxSeq = x.rxSeq := by
  have hleft : (s.weir.ports.get p).retry.filter (fun f => !decide ((ack - f.1).toNat < 2048)) = new := by
    rw [h, List.filter_append, List.filter_eq_nil_iff.mpr (fun f hf => by simp only [hold f hf, decide_true]; decide),
      List.filter_eq_self.mpr (fun f hf => by simpa using hnew f hf), List.nil_append]
  have hn : (s.weir.ports.get p).retry.length - new.length = old.length := by rw [h, List.length_append, Nat.add_sub_cancel]
  have hpos : old.length ≠ 0 := by simpa using hne
  obtain ⟨gone, rest, hack⟩ : ∃ gone rest, ackBytes (120 * old.length) (s.weir.ports.get p).inFlight = (gone, rest) := ⟨_, _, rfl⟩
  obtain ⟨s1, hs1⟩ : ∃ s1, s1 = s.modPort p fun y =>
    { y with retry := new, resend := min y.resend new.length, retries := 0, inFlight := rest } := ⟨_, rfl⟩
  have ht : s.takeAck p ack = gone.foldl State.leave s1 := by
    unfold State.takeAck
    simp only [hleft, hn, hack, if_neg hpos, hs1]
  obtain ⟨hst, hport⟩ := State.queued_foldl State.leave_queued gone s1
  intro t x y
  have hy : y = { s1.weir.ports.get p with outQ := y.outQ, rxWords := y.rxWords, off := y.off, cnt := y.cnt } := by
    have := hport p
    rw [← ht] at this
    exact this
  have hx1 : s1.weir.ports.get p = { x with retry := new, resend := min x.resend new.length, retries := 0, inFlight := rest } := by
    rw [hs1]
    exact vset_get_self _ _ _
  refine ⟨?_, ?_, ?_, ?_⟩
  · rw [show t = _ from ht, hst, hs1]
    rfl
  · rw [hy, hx1]
  · rw [hy, hx1]
  · rw [hy, hx1]

theorem framesAreTakenInSequence : Claims.FramesAreTakenInSequence := by
  intro p hdr body seq ack xon fecOk a b s x cnt good hst
  refine ⟨fun hlen hbad => ?_, fun hret => ?_⟩
  · change execFrameReceive _ _ _ _ _ _ s = _
    have htwo : (hdr.drop 6).take 2 = hdr.drop 6 := List.take_of_length_le (by rw [List.length_drop, hlen])
    rw [execFrameReceive, htwo]
    refine congrArg Host.Outcome.next ((if_neg (not_not.mpr hst)).trans ((if_pos hbad).trans ?_))
    simp only [State.countPort_eq, Claims.port_get, Claims.port_port]
    rfl
  · have hack : (Claims.port s p (x.heard a b xon)).takeAck p ack = Claims.port s p (x.heard a b xon) :=
      State.takeAck_none ack (by rw [Claims.port_get]; exact hret)
    have hexec : exec (.frameReceive p good body fecOk a b) s = .next (Claims.port s p ((x.heard a b xon).takeData fecOk seq body)) := by
      refine (exec_frameReceive (by decide) hst).trans (congrArg Host.Outcome.next ((if_neg (by decide)).trans ?_))
      rw [hack, Claims.port_modPort]
    have hup : (x.heard a b xon).state = 2 := hst
    refine ⟨fun hok hseq hbody => ?_, fun hbad => ?_⟩
    · have htake : (x.heard a b xon).takeData fecOk seq body =
          { x.heard a b xon with rxSeq := seq, rxStream := x.rxStream ++ body, nakSent := false }.reflow := by
        have hfit : fitBytes 120 body = body := by simp [fitBytes, hbody, zeroBytes, List.take_of_length_le]
        rw [Port.takeData, if_neg (not_not.mpr hup), hfit]
        refine if_pos ?_
        rw [hok, hseq]
        exact beq_self_eq_true _
      rw [htake] at hexec
      refine ⟨_, hexec, ?_, ?_⟩
      · rw [Claims.port_get]
      · rw [Claims.port_get]
        rfl
    · have htake : (x.heard a b xon).takeData fecOk seq body =
          { x with cnt := cnt, silent := false, xonRx := xon, nak := x.nak || !x.nakSent, nakSent := true } := by
        have hno : ¬(fecOk && seq == (x.heard a b xon).rxSeq + 1) = true := by
          show ¬(fecOk && seq == x.rxSeq + 1) = true
          rcases hbad with h | h
          · simp [h]
          · rw [beq_eq_false_iff_ne.mpr h, Bool.and_false]
            decide
        rw [Port.takeData, if_neg (not_not.mpr hup), if_neg hno]
        cases hn : x.nakSent with
        | true =>
          refine (if_pos hn).trans ?_
          simp only [Port.heard, hn, Bool.not_true, Bool.or_false]
          rfl
        | false =>
          refine (if_neg (ne_true_of_eq_false hn)).trans ?_
          simp only [Port.heard, hn, Bool.not_false, Bool.or_true]
          rfl
      rw [hexec, htake]

/-! ### A link that goes down (R364, R388, R389) -/

theorem State.addBreak_frame (s : State) (p : Fin 6) (d coord : Nat) : ∃ breaks tooMany opened log cxl outbox,
    (s.addBreak p d coord).1 = { s with
      weir := { s.weir with breaks := breaks, tooMany := tooMany }, coll := { s.coll with opened := opened }
      log := log, cxl := cxl, outbox := outbox } := by
  unfold State.addBreak
  simp only []
  split
  · exact ⟨_, _, _, _, _, _, rfl⟩
  split
  · split
    · exact ⟨_, _, _, _, _, _, rfl⟩
    · exact ⟨_, _, _, _, _, _, rfl⟩
  · rw [State.event_frame]
    exact ⟨_, _, _, _, _, _, rfl⟩

theorem State.sendNotice_frame (s : State) (q : Fin 6) (d coord span : Nat) (clear : Bool) :
    ∃ outbox, s.sendNotice q d coord span clear = { s with outbox := outbox } := by
  unfold State.sendNotice
  split
  · exact ⟨_, rfl⟩
  · exact ⟨_, rfl⟩

/-- A link that goes down: what it leaves, and its port (R364). -/
theorem State.linkDown_spec {s : State} {p : Fin 6} (hst : (s.weir.ports.get p).state = 2) :
    let t := s.linkDown p
    let y := t.weir.ports.get p
    y.state = 0 ∧ y.retry = [] ∧ y.lostLanes = 0 ∧
      t.caps = { s.caps with ports := setBit s.caps.ports p.val false, gen := s.caps.gen + 1 } ∧ t.jets = s.jets ∧ t.tiers = s.tiers ∧
      t.job = s.job := by
  obtain ⟨d, c, k, hlink⟩ : ∃ d c k, s.weir.linkOf p = (d, c, k) := ⟨_, _, _, rfl⟩
  obtain ⟨x, hx⟩ : ∃ x, x = s.weir.ports.get p := ⟨_, rfl⟩
  obtain ⟨s1, hs1⟩ : ∃ s1 : State, s1 = (s.modPort p fun y =>
      { y with state := 0, lostLanes := 0, silent := false, nak := false, nakSent := false, retry := [], resend := 0, retries := 0,
               txStream := [], inFlight := [], outQ := [], rxStream := wholePackets y.rxStream.length y.rxStream }.reflow).countPort
        p 9 1 := ⟨_, rfl⟩
  obtain ⟨s2, hs2⟩ : ∃ s2 : State, s2 = ((State.capChange { s1 with
      caps := { s1.caps with ports := setBit s1.caps.ports p.val false }
      weir := { s1.weir with histUp := setBit s1.weir.histUp p.val false } }).event 0x0051 2 srcWeir [p.val, x.peer.toNat]).raise icFabric :=
    ⟨_, rfl⟩
  obtain ⟨s3, hs3⟩ : ∃ s3 : State, s3 = ((s2.addBreak p d c).1).sendNotice (otherPort p) d c 1 false := ⟨_, rfl⟩
  have ht : s.linkDown p = (x.inFlight.map (·.1) ++ x.outQ).foldl (fun s q => s.reinject p q) s3 := by
    unfold State.linkDown
    rw [hs3, hs2, hs1, hx]
    simp only [hlink]
    exact if_neg (not_not.mpr hst)
  obtain ⟨hq, hports⟩ := State.queued_foldl (fun s q => s.reinject_queued p q) (x.inFlight.map (·.1) ++ x.outQ) s3
  rw [← ht] at hq hports
  obtain ⟨breaks, tooMany, opened, log, cxl, outbox, hbreak⟩ := s2.addBreak_frame p d c
  obtain ⟨outbox', hnote⟩ := (s2.addBreak p d c).1.sendNotice_frame (otherPort p) d c 1 false
  obtain ⟨log', cxl', outbox'', hev⟩ := (State.capChange { s1 with
      caps := { s1.caps with ports := setBit s1.caps.ports p.val false }
      weir := { s1.weir with histUp := setBit s1.weir.histUp p.val false } }).event_raise_frame 0x0051 2 srcWeir icFabric [p.val, x.peer.toNat]
  have hport3 : s3.weir.ports.get p = s1.weir.ports.get p := by
    rw [hs3, hnote, hbreak, hs2, hev]
    rfl
  have hport1 : (s1.weir.ports.get p).state = 0 ∧ (s1.weir.ports.get p).retry = [] ∧ (s1.weir.ports.get p).lostLanes = 0 := by
    rw [hs1, State.modPort_eq, Claims.port_countPort, Claims.port_get]
    exact ⟨rfl, rfl, rfl⟩
  intro t y
  have hy : y = { s1.weir.ports.get p with outQ := y.outQ, rxWords := y.rxWords, off := y.off, cnt := y.cnt } := by
    rw [← hport3]
    exact hports p
  obtain ⟨h1, h2, h3⟩ := hport1
  refine ⟨by rw [hy]; exact h1, by rw [hy]; exact h2, by rw [hy]; exact h3, ?_, ?_, ?_, ?_⟩
  · rw [show t = _ from hq, hs3, hnote, hbreak, hs2, hev, hs1]
    rfl
  · rw [show t = _ from hq, hs3, hnote, hbreak, hs2, hev, hs1]
    rfl
  · rw [show t = _ from hq, hs3, hnote, hbreak, hs2, hev, hs1]
    rfl
  · rw [show t = _ from hq, hs3, hnote, hbreak, hs2, hev, hs1]
    rfl

/-- A port that retries: its whole retry buffer is to be sent again (R363). -/
def Port.retrying (x : Port) : Port := { x with resend := x.retry.length, retries := x.retries + 1, cnt := bumpBy x.cnt 0 1 }

theorem exec_retryTimeout {s : State} {p : Fin 6} (hst : (s.weir.ports.get p).state = 2) (hne : (s.weir.ports.get p).retry ≠ []) :
    exec (.retryTimeout p) s = .next (
      let t := Claims.port s p (s.weir.ports.get p).retrying
      if 8 ≤ (s.weir.ports.get p).retries + 1 then t.linkDown p else t) := by
  change execRetryTimeout p s = _
  refine congrArg Host.Outcome.next ((if_pos hst).trans ((if_neg (by simpa using hne)).trans ?_))
  simp only [State.countPort_eq, Claims.port_modPort]
  rfl

theorem retriesResendThenTakeTheLinkDown : Claims.RetriesResendThenTakeTheLinkDown := by
  intro p ack xon s x hst
  refine ⟨fun old new hret hne hold hnew => ?_, fun hret hlt => ?_, fun hret hle => ?_, fun hret => ?_⟩
  · obtain ⟨u, hu⟩ : ∃ u, u = Claims.port s p (x.heard 0 0 xon) := ⟨_, rfl⟩
    have hexec : exec (.frameReceive p (frameHeader 1 0 ack.toNat false xon.toNat) (zeroBytes 120) true 0 0) s = .next (u.takeAck p ack) := by
      rw [hu]
      exact (exec_frameReceive (type := 1) (seq := 0) (by decide) hst).trans (congrArg Host.Outcome.next (if_pos (by decide)))
    have hport : u.weir.ports.get p = x.heard 0 0 xon := by rw [hu, Claims.port_get]
    obtain ⟨h1, h2, h3, h4⟩ := State.takeAck_covering (s := u) (p := p) (by rw [hport]; exact hret) hne hold hnew
    refine ⟨_, hexec, ?_, h2, h3, h4.trans (by rw [hport]; rfl)⟩
    rw [h1, hu]
    rfl
  · exact (exec_retryTimeout hst hret).trans (congrArg Host.Outcome.next (if_neg (show ¬8 ≤ x.retries + 1 by omega)))
  · obtain ⟨h1, h2, -, h4, h5, h6, h7⟩ := State.linkDown_spec (s := Claims.port s p x.retrying) (p := p)
      (by rw [Claims.port_get]; exact hst)
    exact ⟨_, (exec_retryTimeout hst hret).trans (congrArg Host.Outcome.next (if_pos (show 8 ≤ x.retries + 1 by omega))), h1, h2, h4, h5, h6, h7⟩
  · change execRetryTimeout p s = _
    have hempty : (s.weir.ports.get p).retry.isEmpty = true := by rw [show (s.weir.ports.get p).retry = [] from hret]; rfl
    exact congrArg Host.Outcome.next ((if_pos hst).trans (if_pos hempty))

/-- Settles O28: what a port sends, what it takes, and how it retries. -/
theorem linksExchangeAndRetryFrames : Obligations.LinksExchangeAndRetryFrames :=
  ⟨framesGoOutInOrder, framesAreTakenInSequence, retriesResendThenTakeTheLinkDown⟩

end Sys2Proof.Machine
end

section
/-! Training, loss of lock and the bypass (R359, R364 to R366, R388, R398, R399, R406, R408). -/

namespace Sys2Proof.Machine

/-! ### Loss of lock (R364) -/

theorem setBit_false_eq_and {w : Nat} (x : BitVec w) (n : Nat) : setBit x n false = x &&& ~~~(1#w <<< n) := by
  apply BitVec.eq_of_getLsbD_eq
  intro i hi
  rw [getLsbD_setBit_false, BitVec.getLsbD_and, BitVec.getLsbD_not, BitVec.getLsbD_shiftLeft]
  by_cases h : i = n
  · subst h
    have hw : 0 < w := by omega
    simp [hi, hw]
  · by_cases h' : i < n
    · simp [hi, h, h']
    · have h1 : i - n ≠ 0 := by omega
      simp [hi, h, h', h1]

theorem lockLossTakesTheLinkDown : Claims.LockLossTakesTheLinkDown := by
  intro p lane s x
  refine ⟨fun hst => ?_, fun hst huse => ?_, fun hst huse => ?_, ?_, fun hst hlock => ?_, fun hlock => ?_⟩
  · change execHeartbeatTimeout p s = _
    exact congrArg Host.Outcome.next (if_pos hst)
  · change execLaneLockLoss p lane s = _
    refine congrArg Host.Outcome.next ((if_pos (by rw [Bool.and_eq_true]; exact ⟨by simpa using hst, huse⟩)).trans ?_)
    rw [State.modPort_eq, setBit_true_eq_or]
  · change execLaneLockLoss p lane s = _
    exact congrArg Host.Outcome.next (if_neg (by rw [Bool.and_eq_true]; exact fun h => absurd h.2 (ne_true_of_eq_false huse)))
  · change execLaneLockRegain p lane s = _
    rw [execLaneLockRegain, State.modPort_eq, setBit_false_eq_and]
  · change ∃ t, execLockLossTimeout p s = _ ∧ _
    obtain ⟨h1, -, h3, h4, h5, h6, h7⟩ := State.linkDown_spec hst
    exact ⟨_, congrArg Host.Outcome.next (if_pos hlock), h1, h3, by rw [h4], h5, h6, h7⟩
  · change execLockLossTimeout p s = _
    exact congrArg Host.Outcome.next (if_neg (ne_true_of_eq_false hlock))

/-! ### The bypass (R398, R399, R408) -/

/-- The two ports of a dimension changed. -/
theorem State.dimPorts_spec (s : State) (d : Fin 3) (f : Port → Port) :
    s.dimPorts d f = { s with weir := { s.weir with ports := (s.dimPorts d f).weir.ports } } ∧
      ∀ q : Fin 6, (s.dimPorts d f).weir.ports.get q = if q.val / 2 = d.val then f (s.weir.ports.get q) else s.weir.ports.get q := by
  refine ⟨rfl, fun q => ?_⟩
  simp only [State.dimPorts, State.modPort, vset_get, Fin.ext_iff]
  by_cases h1 : q.val = 2 * d.val + 1
  · have hq : q = ⟨2 * d.val + 1, by omega⟩ := Fin.ext h1
    rw [if_pos h1, if_pos (show q.val / 2 = d.val by omega), if_neg (show ¬2 * d.val + 1 = 2 * d.val by omega), hq]
  · rw [if_neg h1]
    by_cases h0 : q.val = 2 * d.val
    · have hq : q = ⟨2 * d.val, by omega⟩ := Fin.ext h0
      rw [if_pos h0, if_pos (show q.val / 2 = d.val by omega), hq]
    · rw [if_neg h0, if_neg (show ¬q.val / 2 = d.val by omega)]

theorem bypassSwitchesSetPortStates : Claims.BypassSwitchesSetPortStates := by
  intro d q s k mine
  refine ⟨fun hstep hrails hturn hmay => ?_, fun hno => ?_, fun hon => ?_⟩
  · obtain ⟨s1, hs1⟩ : ∃ s1 : State, s1 = { s with keeper := { k with
        energised := setBit k.energised d.val true, closed := setBit k.closed d.val false, openNs := k.uptime } } := ⟨_, rfl⟩
    have hall : ((List.range 3).all fun e => decide (e < d.val) || !k.energised.getLsbD e) = true := by
      rw [List.all_eq_true]
      intro e he
      by_cases h : e < d.val
      · simp [h]
      · rw [hturn e (by omega) (List.mem_range.mp he)]
        simp
    have hexec : exec (.bypassOpen d) s = .next (s1.dimPorts d fun p => if p.state = 3 then { p with state := 0 } else p) := by
      change execBypassOpen d s = _
      rw [hs1]
      refine congrArg Host.Outcome.next (if_pos ?_)
      have hstep' : s.keeper.step = 7 := hstep
      have hrails' : s.keeper.rails = true := hrails
      rw [hstep', hrails', hall, hmay]
      rfl
    obtain ⟨hframe, hport⟩ := s1.dimPorts_spec d fun p => if p.state = 3 then { p with state := 0 } else p
    refine ⟨_, hexec, ?_, ?_⟩
    · rw [hframe, hs1, setBit_true_eq_or, setBit_false_eq_and]
    · rw [hport q, hs1]
      by_cases h : q.val / 2 = d.val
      · rw [if_pos h]
        by_cases h3 : (s.weir.ports.get q).state = 3
        · rw [if_pos h3, if_pos ⟨h, h3⟩]
        · rw [if_neg h3, if_neg fun hc => h3 hc.2]
      · rw [if_neg h, if_neg fun hc => h hc.1]
  · obtain ⟨s1, hs1⟩ : ∃ s1 : State, s1 = { s with keeper := { k with closed := setBit k.closed d.val true } } := ⟨_, rfl⟩
    have hexec : exec (.bypassSwitchClosed d) s = .next (s1.dimPorts d fun p => { p with state := 3 }) := by
      change execBypassSwitchClosed d s = _
      rw [hs1]
      exact congrArg Host.Outcome.next (if_neg (ne_true_of_eq_false hno))
    obtain ⟨hframe, hport⟩ := s1.dimPorts_spec d fun p => { p with state := 3 }
    refine ⟨_, hexec, ?_, ?_⟩
    · rw [hframe, hs1, setBit_true_eq_or]
    · rw [hport q, hs1]
  · change execBypassSwitchClosed d s = _
    exact congrArg Host.Outcome.next (if_pos hon)

/-! ### Training (R359, R366) -/

theorem laneSetOf_eq (lanes : W16) : (laneSetOf lanes).map (BitVec.ofNat 2) = (if lanes = 0xFFFF then some 0
    else if lanes.extractLsb' 0 8 = 0xFF then some 1 else if lanes.extractLsb' 8 8 = 0xFF then some 2 else none) := by
  unfold laneSetOf
  split
  · rfl
  have h0 : (bits lanes 7 0 = 0xFF) ↔ (lanes.extractLsb' 0 8 = 0xFF) := by
    rw [← BitVec.toNat_inj]
    rfl
  have h1 : (bits lanes 15 8 = 0xFF) ↔ (lanes.extractLsb' 8 8 = 0xFF) := by
    rw [← BitVec.toNat_inj]
    rfl
  simp only [h0, h1]
  split
  · rfl
  split
  · rfl
  · rfl

theorem State.clearBreaks_frame (s : State) (p : Fin 6) (d coord span : Nat) : ∃ breaks tooMany log cxl outbox,
    (s.clearBreaks p d coord span).1 = { s with
      weir := { s.weir with breaks := breaks, tooMany := tooMany }, log := log, cxl := cxl, outbox := outbox } := by
  unfold State.clearBreaks
  simp only []
  split
  · exact ⟨_, _, _, _, _, rfl⟩
  split
  · rw [State.event_frame]
    exact ⟨_, _, _, _, _, rfl⟩
  · exact ⟨_, _, _, _, _, rfl⟩

/-- Two states that differ in the weir alone, and there not in what a port knows of its peer. -/
def State.emptied (s t : State) : Prop :=
  t = { s with weir := t.weir } ∧
    ∀ q, (t.weir.ports.get q).peer = (s.weir.ports.get q).peer ∧ (t.weir.ports.get q).rtt = (s.weir.ports.get q).rtt

theorem State.emptied_trans {s t u : State} (h : s.emptied t) (h' : t.emptied u) : s.emptied u := by
  obtain ⟨hs, hp⟩ := h
  obtain ⟨hs', hp'⟩ := h'
  refine ⟨?_, fun q => ⟨(hp' q).1.trans (hp q).1, (hp' q).2.trans (hp q).2⟩⟩
  rw [hs', hs]

theorem State.emptied_foldl {α : Type} {f : State → α → State} (hf : ∀ (s : State) (x : α), s.emptied (f s x)) :
    ∀ (l : List α) (s : State), s.emptied (l.foldl f s)
  | [], _ => ⟨rfl, fun _ => ⟨rfl, rfl⟩⟩
  | x :: l, s => State.emptied_trans (hf s x) (State.emptied_foldl hf l (f s x))

theorem State.modPort_emptied (s : State) (p : Fin 6) {f : Port → Port} (hf : ∀ x : Port, (f x).peer = x.peer ∧ (f x).rtt = x.rtt) :
    s.emptied (s.modPort p f) := by
  refine ⟨rfl, fun q => ?_⟩
  rw [State.modPort, vset_get]
  split
  · next h => rw [h]; exact hf _
  · exact ⟨rfl, rfl⟩

theorem State.leaveChannel_emptied (s : State) (e : BitVec 2) (v : Nat) : s.emptied (s.leaveChannel e v) :=
  ⟨rfl, fun _ => ⟨rfl, rfl⟩⟩

theorem State.emptyBuffers_frame (s : State) (p : Fin 6) :
    (s.emptyBuffers p) = { s with weir := (s.emptyBuffers p).weir } ∧
      ((s.emptyBuffers p).weir.ports.get p).peer = (s.weir.ports.get p).peer ∧
      ((s.emptyBuffers p).weir.ports.get p).rtt = (s.weir.ports.get p).rtt ∧
      ((s.emptyBuffers p).weir.ports.get p).rxStream = [] := by
  obtain ⟨s1, hs1⟩ : ∃ s1, s.emptyBuffers p = s1.modPort p (fun x => { x with rxStream := [], rxWords := [], off := 0 }) ∧
      s.emptied s1 := by
    refine ⟨_, rfl, State.emptied_foldl (fun s o => ?_) _ s⟩
    simp only []
    refine State.emptied_trans (s.modPort_emptied o ?_) (State.emptied_foldl (fun s q => s.leaveChannel_emptied _ _) _ _)
    exact fun x => ⟨rfl, rfl⟩
  obtain ⟨hs1, hframe, hports⟩ := hs1
  rw [hs1, State.modPort_eq, Claims.port_get]
  refine ⟨?_, (hports p).1, (hports p).2, rfl⟩
  rw [hframe]
  rfl

/-- The breaks of a port's link cleared, and the notice of it sent on (R388). -/
def State.closeRing (s : State) (p : Fin 6) : State :=
  let (d, c, k) := s.weir.linkOf p
  ((s.clearBreaks p d c k).1).sendNotice (otherPort p) d c k true

theorem State.closeRing_frame (s : State) (p : Fin 6) :
    (s.closeRing p).caps = s.caps ∧ (s.closeRing p).weir.ports = s.weir.ports := by
  unfold State.closeRing
  generalize s.weir.linkOf p = e
  obtain ⟨d, c, k⟩ := e
  simp only []
  obtain ⟨breaks, tooMany, log, cxl, outbox, hclear⟩ := s.clearBreaks_frame p d c k
  obtain ⟨outbox', hnote⟩ := (s.clearBreaks p d c k).1.sendNotice_frame (otherPort p) d c k true
  rw [hnote, hclear]
  exact ⟨rfl, rfl⟩

/-- The events that a link records as it comes up (R366, R378). -/
def State.recordUp (s : State) (p : Fin 6) (lanes : Nat) : State :=
  let peer := (s.weir.ports.get p).peer.toNat
  let s := (s.event 0x0050 1 srcWeir [p.val, peer]).raise icFabric
  if lanes = 0 then s else s.event 0x0052 2 srcWeir [p.val, peer]

theorem State.recordUp_frame (s : State) (p : Fin 6) (lanes : Nat) :
    (s.recordUp p lanes).caps = s.caps ∧ (s.recordUp p lanes).weir = s.weir := by
  unfold State.recordUp
  simp only []
  split
  · exact ⟨by simp, by simp⟩
  · exact ⟨by simp, by simp⟩

/-- A port as it comes up with its lanes (R366, R377). -/
def Port.up (x : Port) (lanes : Nat) : Port :=
  { x with state := 2, laneSet := BitVec.ofNat 2 lanes, txSeq := 0, rxSeq := 0, nak := false, nakSent := false, retry := [],
           resend := 0, retries := 0, unit := 0, txStream := [], inFlight := [], lostLanes := 0, silent := false, xonRx := 0xFF,
           sentWin := [], paced := decide (57344 < x.rtBytes) }

theorem State.linkUp_eq (s : State) (p : Fin 6) (lanes : Nat) : s.linkUp p lanes =
    let t := Claims.port (s.emptyBuffers p) p (((s.emptyBuffers p).weir.ports.get p).up lanes)
    ((State.capChange { t with caps := { t.caps with ports := setBit t.caps.ports p.val true } }).recordUp p lanes).closeRing p := by
  generalize hf : @State.linkUp = f
  delta State.linkUp at hf
  generalize hg : @State.closeRing = g
  delta State.closeRing at hg
  generalize hh : @State.recordUp = h
  delta State.recordUp at hh
  obtain ⟨link, hlink⟩ : ∃ f, f = @Weir.linkOf := ⟨_, rfl⟩
  obtain ⟨empty, hempty⟩ : ∃ f, f = @State.emptyBuffers := ⟨_, rfl⟩
  obtain ⟨event, hevent⟩ : ∃ f, f = @State.event := ⟨_, rfl⟩
  obtain ⟨clear, hclear⟩ : ∃ f, f = @State.clearBreaks := ⟨_, rfl⟩
  rw [← hlink, ← hempty, ← hevent, ← hclear] at hf
  rw [← hlink, ← hclear] at hg
  rw [← hevent] at hh
  rw [← hempty]
  subst hf hg hh
  rfl

/-- A link that comes up (R366, R377, R388). -/
theorem State.linkUp_spec (s : State) (p : Fin 6) (lanes : Nat) :
    let t := s.linkUp p lanes
    let y := t.weir.ports.get p
    t.caps.ports = setBit s.caps.ports p.val true ∧ t.caps.gen = s.caps.gen + 1 ∧ y.state = 2 ∧ y.laneSet = BitVec.ofNat 2 lanes ∧
      y.txSeq = 0 ∧ y.rxSeq = 0 ∧ y.retry = [] ∧ y.rxStream = [] ∧ y.txStream = [] ∧ y.peer = (s.weir.ports.get p).peer ∧
      y.rtt = (s.weir.ports.get p).rtt := by
  obtain ⟨hempty, hpeer, hrtt, hrx⟩ := s.emptyBuffers_frame p
  have hlink := s.linkUp_eq p lanes
  generalize s.emptyBuffers p = s0 at hempty hpeer hrtt hrx hlink
  obtain ⟨s1, hs1⟩ : ∃ s1 : State, s1 = Claims.port s0 p ((s0.weir.ports.get p).up lanes) := ⟨_, rfl⟩
  simp only [← hs1] at hlink
  obtain ⟨s2, hs2⟩ : ∃ s2 : State, s2 = State.capChange { s1 with caps := { s1.caps with ports := setBit s1.caps.ports p.val true } } :=
    ⟨_, rfl⟩
  rw [← hs2] at hlink
  obtain ⟨hc1, hw1⟩ := (s2.recordUp p lanes).closeRing_frame p
  obtain ⟨hc2, hw2⟩ := s2.recordUp_frame p lanes
  have hcaps : (s.linkUp p lanes).caps = { s.caps with ports := setBit s.caps.ports p.val true, gen := s.caps.gen + 1 } := by
    rw [hlink, hc1, hc2, hs2, hs1, hempty]
    rfl
  have hport : (s.linkUp p lanes).weir.ports.get p = (s0.weir.ports.get p).up lanes := by
    rw [hlink, hw1, hw2, hs2]
    show s1.weir.ports.get p = _
    rw [hs1, Claims.port_get]
  intro t y
  rw [show t.caps = _ from hcaps, show y = _ from hport]
  exact ⟨rfl, rfl, rfl, rfl, rfl, rfl, rfl, hrx, rfl, hpeer, hrtt⟩

theorem State.trainRefused_eq (s : State) (p : Fin 6) (why : Nat) : s.trainRefused p why =
    (Claims.port s p { s.weir.ports.get p with state := 4, refuse := BitVec.ofNat 8 why }).raise icFabric := rfl

/-- The end of a training whose lanes lock, by what the peer answered (R359, R366). -/
theorem exec_trainingDone {s : State} {p : Fin 6} {rep : TrainReport} {lanes : Nat} (hst : (s.weir.ports.get p).state = 1)
    (hlanes : laneSetOf rep.lanes = some lanes) : exec (.trainingDone p rep) s = .next (
      let u := Claims.port s p { s.weir.ports.get p with peer := rep.peerAddr, rtt := BitVec.ofNat 16 rep.rttNs }
      if !rep.completed then (Claims.port s p { s.weir.ports.get p with state := 0 }).raise icFabric
      else if rep.peerPort ≠ (otherPort p).val then u.trainRefused p 1
      else if 600 < rep.rttNs then u.trainRefused p 2
      else u.linkUp p lanes) := by
  change execTrainingDone p rep s = _
  refine congrArg Host.Outcome.next ((if_neg (not_not.mpr hst)).trans ?_)
  rw [hlanes]
  rfl

theorem trainingBringsPortsUpOrRefuses : Claims.TrainingBringsPortsUpOrRefuses := by
  intro p rep s x lanes refused seen
  have hset : (laneSetOf rep.lanes).map (BitVec.ofNat 2) = lanes := laneSetOf_eq rep.lanes
  have hsome (h : lanes.isSome = true) : ∃ l, laneSetOf rep.lanes = some l := by
    rw [← hset, Option.isSome_map] at h
    exact Option.isSome_iff_exists.mp h
  refine ⟨fun hst hopen => ?_, fun hclosed => ?_, fun hst => ⟨fun hnone => ?_, fun hl hdone => ?_, fun hl hdone hport => ?_,
    fun hl hdone hport hrtt => ?_, fun l hl hdone hport hrtt => ?_⟩⟩
  · change execTrainingAttempt p s = _
    have hcond : ((x.state == 0 || x.state == 4) && !s.bypassed (p.val / 2)) = true := by
      rw [show s.bypassed (p.val / 2) = false from hopen]
      rcases hst with h | h
      · simp [h]
      · simp [h]
    exact congrArg Host.Outcome.next (if_pos hcond)
  · change execTrainingAttempt p s = _
    have hcond : ¬((x.state == 0 || x.state == 4) && !s.bypassed (p.val / 2)) = true := by
      rw [show s.bypassed (p.val / 2) = true from hclosed]
      simp
    exact congrArg Host.Outcome.next (if_neg hcond)
  · change execTrainingDone p rep s = _
    have hno : laneSetOf rep.lanes = none := by
      rw [← hset] at hnone
      exact Option.map_eq_none_iff.mp hnone
    refine congrArg Host.Outcome.next ((if_neg (not_not.mpr hst)).trans ?_)
    rw [hno]
    rfl
  · obtain ⟨l, hl⟩ := hsome hl
    refine (exec_trainingDone hst hl).trans (congrArg Host.Outcome.next (if_pos ?_))
    rw [hdone]
    rfl
  · obtain ⟨l, hl⟩ := hsome hl
    refine (exec_trainingDone hst hl).trans (congrArg Host.Outcome.next ((if_neg (by rw [hdone]; decide)).trans ((if_pos hport).trans ?_)))
    rw [State.trainRefused_eq, Claims.port_get, Claims.port_port]
    rfl
  · obtain ⟨l, hl⟩ := hsome hl
    refine (exec_trainingDone hst hl).trans (congrArg Host.Outcome.next ((if_neg (by rw [hdone]; decide)).trans
      ((if_neg (not_not.mpr hport)).trans ((if_pos hrtt).trans ?_))))
    rw [State.trainRefused_eq, Claims.port_get, Claims.port_port]
    rfl
  · obtain ⟨n, hn⟩ := hsome (by rw [hl]; rfl)
    have hnl : BitVec.ofNat 2 n = l := by
      rw [hn, hl] at hset
      exact Option.some.inj hset
    obtain ⟨u, hu⟩ : ∃ u, u = Claims.port s p seen := ⟨_, rfl⟩
    have hexec : exec (.trainingDone p rep) s = .next (u.linkUp p n) := by
      rw [hu]
      exact (exec_trainingDone hst hn).trans (congrArg Host.Outcome.next ((if_neg (by rw [hdone]; decide)).trans
        ((if_neg (not_not.mpr hport)).trans (if_neg (Nat.not_lt.mpr hrtt)))))
    have hport : u.weir.ports.get p = seen := by rw [hu, Claims.port_get]
    obtain ⟨h1, h2, h3, h4, h5, h6, h7, h8, h9, h10, h11⟩ := u.linkUp_spec p n
    refine ⟨_, hexec, h1.trans (by rw [hu]; rfl), h2.trans (by rw [hu]; rfl), h3, h4.trans hnl, h5, h6, h7, h8, h9,
      h10.trans (by rw [hport]), h11.trans (by rw [hport])⟩

/-- Settles O29: lock, training and the bypass switches. -/
theorem linksTrainAndGoDown : Obligations.LinksTrainAndGoDown :=
  ⟨lockLossTakesTheLinkDown, trainingBringsPortsUpOrRefuses, bypassSwitchesSetPortStates⟩

end Sys2Proof.Machine
end

section
/-! WRITE, ECHO, ripple maps and ring notices (R370, R387, R388, R391, R395 to R397). -/

namespace Sys2Proof.Machine

/-! ### WRITE (R370, R372) -/

theorem checkWord_lostWord : checkWord lostWord = .lost := by decide +kernel

/-- A code word written to a mapped address, whose unit is in service. -/
def State.withWord (s : State) (c : Nat) (w : List Byte) : State := { s with tiers := putWord s.tiers (c / 32) w }

theorem State.withWord_spec {s : State} (hwf : Mem.wf s.tiers = true) (c : Nat) {w : List Byte} (hw : w.length = 36) :
    let t := s.withWord c w
    t = { s with tiers := t.tiers } ∧ rawWord t.tiers (c / 32) = w ∧ ∀ q, q ≠ c / 32 → rawWord t.tiers q = rawWord s.tiers q := by
  intro t
  refine ⟨rfl, ?_, fun q hq => ?_⟩
  · exact (rawWord_putWord s.tiers (c / 32) w hwf hw _).trans (if_pos rfl)
  · exact (rawWord_putWord s.tiers (c / 32) w hwf hw q).trans (if_neg hq)

theorem State.putPayload_word {s : State} {a c : Nat} {d : List Byte} (hd : d.length = 32) (ha : a % 32 = 0) (hc : s.canon a = some c)
    (hc32 : c % 32 = 0) (hdead : s.deadGranule c = false) : s.putPayload a (encodeWord d) = s.withWord c (encodeWord d) := by
  have hput : s.tierWriteIn c d = s.withWord c (encodeWord d) := by
    have hbase : c / 32 * 32 = c := by omega
    unfold State.tierWriteIn
    simp only [hd, if_true, hbase, State.tierPut, hdead, Bool.false_eq_true, if_false]
    rfl
  have hne : d.isEmpty = false := by cases d <;> simp_all
  have hk : min d.length (32 - a % 32) = 32 := by omega
  simp only [State.putPayload, checkWord_encodeWord d hd]
  rw [State.deviceWrite]
  simp only [hne, Bool.false_eq_true, if_false, hk, hc, List.take_of_length_le hd.le, List.drop_of_length_le hd.le, hput]
  rfl

theorem State.putPayload_lost {s : State} {a c : Nat} (ha : a % 32 = 0) (hc : s.canon a = some c) (hdead : s.deadGranule c = false) :
    s.putPayload a lostWord = s.withWord c lostWord := by
  unfold State.putPayload
  simp only [checkWord_lostWord, hc, ha, if_true, State.tierPut, hdead, Bool.false_eq_true, if_false]
  rfl

theorem exec_write_one {k : Packet} {s : State} {a : Nat} {w : List Byte} (hop : k.opcode = 1) (hok : k.opOk = true)
    (hopen : s.writeOpen k = true) (ha : k.addr.toNat % 2 ^ 48 = a) (hp : k.payload = [w]) :
    exec (.write k) s = .next (State.putPayload { s with weir := { s.weir with delivered := s.weir.delivered.erase k } } a w) := by
  change execWrite k s = _
  have hshut : ¬(!s.writeOpen k) = true := by simp [hopen]
  refine congrArg Host.Outcome.next ((if_neg (by simp [hop, hok])).trans ((if_neg hshut).trans ?_))
  · rw [hp, ha]
    rfl

theorem writesReachOpenRanges : Claims.WritesReachOpenRanges := by
  intro k d a c s u hop hok
  refine ⟨fun hshut => ?_, fun hopen ha ha32 hc hc32 hdead hwf => ⟨fun hd hp => ?_, fun hp => ?_⟩⟩
  · change execWrite k s = _
    have hshut' : (!s.writeOpen k) = true := by simp [hshut]
    exact congrArg Host.Outcome.next ((if_neg (by simp [hop, hok])).trans ((if_pos hshut').trans rfl))
  · obtain ⟨h1, h2, h3⟩ := State.withWord_spec (s := u) hwf c (w := encodeWord d) (by rw [length_encodeWord, hd])
    refine ⟨u.withWord c (encodeWord d), ?_, h1, h2, h3⟩
    rw [exec_write_one hop hok hopen ha hp]
    exact congrArg Host.Outcome.next (State.putPayload_word (s := u) hd ha32 hc hc32 hdead)
  · obtain ⟨h1, h2, h3⟩ := State.withWord_spec (s := u) hwf c (w := lostWord) (by decide)
    refine ⟨u.withWord c lostWord, ?_, h1, h2, h3⟩
    rw [exec_write_one hop hok hopen ha hp]
    exact congrArg Host.Outcome.next (State.putPayload_lost (s := u) ha32 hc hdead)

/-! ### ECHO (R395) -/

theorem since_iff (now : Nat) (t : Option W64) (n : Nat) : since now t n = true ↔ ∀ x, t = some x → x.toNat + n ≤ now := by
  cases t <;> simp [since]

/-- The flows of a table after a change of one of them. -/
theorem State.modFlow_spec (s : State) (dest : BitVec 15) (cls : BitVec 2) (f : Flow → Flow) {x : Flow} (hx : x ∈ s.weir.flows) :
    (¬(x.dest = dest ∧ x.cls = cls) → x ∈ (s.modFlow dest cls f).weir.flows) ∧
      (x.dest = dest ∧ x.cls = cls → f x ∈ (s.modFlow dest cls f).weir.flows) := by
  have h : (if x.dest = dest ∧ x.cls = cls then f x else x) ∈ (s.modFlow dest cls f).weir.flows := List.mem_map.mpr ⟨x, hx, rfl⟩
  refine ⟨fun hn => ?_, fun hm => ?_⟩
  · rwa [if_neg hn] at h
  · rwa [if_pos hm] at h

theorem halfRate_eq (r : Rat) : (if r / 2 < 1 then 1 else r / 2) = max 1 (r / 2) := by
  split
  case isTrue h => exact (max_eq_left h.le).symm
  case isFalse h => exact (max_eq_right (not_lt.mp h)).symm

theorem raisedRate_eq (r : Rat) : (if 400 < r + 2 then 400 else r + 2) = min 400 (r + 2) := by
  split
  case isTrue h => exact (min_eq_left h.le).symm
  case isFalse h => exact (min_eq_right (not_lt.mp h)).symm

/-- The change of a flow's rate with time (R395). -/
def Flow.raised (s : State) (f : Flow) : Flow :=
  if since s.uptime f.echoed 8000 then
    { f with rate := if 400 < f.rate + 2 then 400 else f.rate + 2, echoed := some s.keeper.uptime }
  else f

theorem echoesHalveAndTimeRaisesRates : Claims.EchoesHalveAndTimeRaisesRates := by
  intro dest cls f s hf mine ago
  refine ⟨⟨_, rfl, rfl, (s.modFlow_spec dest cls _ hf).1, fun hm => ⟨_, (s.modFlow_spec dest cls _ hf).2 hm, ?_⟩⟩,
    ⟨s.modFlow dest cls (Flow.raised s), rfl, rfl, (s.modFlow_spec dest cls _ hf).1, fun hm hago => ?_, fun hm hago => ?_⟩⟩
  · simp only []
    by_cases hago : ago f.halved 4000
    · rw [if_pos (show since s.uptime f.halved 4000 = true from (since_iff _ _ _).mpr hago)]
      exact ⟨hm.1, hm.2, rfl, fun _ => ⟨halfRate_eq f.rate, rfl⟩, fun hn => absurd hago hn⟩
    · rw [if_neg (show ¬since s.uptime f.halved 4000 = true from fun h => hago ((since_iff _ _ _).mp h))]
      exact ⟨hm.1, hm.2, rfl, fun h => absurd h hago, fun _ => ⟨rfl, rfl⟩⟩
  · have h := (s.modFlow_spec dest cls (Flow.raised s) hf).2 hm
    rw [Flow.raised, if_pos (show since s.uptime f.echoed 8000 = true from (since_iff _ _ _).mpr hago)] at h
    rwa [raisedRate_eq] at h
  · have h := (s.modFlow_spec dest cls (Flow.raised s) hf).2 hm
    rwa [Flow.raised, if_neg (show ¬since s.uptime f.echoed 8000 = true from fun h => hago ((since_iff _ _ _).mp h))] at h

/-! ### Ripple maps (R396, R397) -/

/-- A sample that adds one at each element's index: an index that only `x0` can have gains its one. -/
theorem Tbl.get_foldl_count {α : Type} [DecidableEq α] (f : α → Nat) (i : Nat) (x0 : α) : ∀ (l : List α) (t : Tbl Nat), l.Nodup →
    (∀ x ∈ l, f x = i → x = x0) →
    (l.foldl (fun (t : Tbl Nat) x => t.set (f x) (t.get 0 (f x) + 1)) t).get 0 i =
      t.get 0 i + if x0 ∈ l ∧ f x0 = i then 1 else 0
  | [], t, _, _ => by simp
  | x :: l, t, hl, hu => by
    obtain ⟨hx, hl⟩ := List.nodup_cons.mp hl
    rw [List.foldl_cons, Tbl.get_foldl_count f i x0 l _ hl fun y hy => hu y (List.mem_cons_of_mem _ hy), Tbl.get_set_eq]
    by_cases hxi : f x = i
    · obtain rfl := hu x List.mem_cons_self hxi
      simp [hxi, hx]
    · have hne : f x0 = i → x0 ≠ x := fun h0 h => hxi (h ▸ h0)
      have hmem : (x0 ∈ x :: l ∧ f x0 = i) ↔ (x0 ∈ l ∧ f x0 = i) := by
        refine and_congr_left fun h0 => ?_
        simp [hne h0]
      simp only [hmem, hxi, Ne.symm hxi, if_false]

/-- Every receive buffer, a port and one of its channels. -/
def rxBuffers : List (Fin 6 × Nat) := (List.finRange 6).flatMap fun p => (List.range 8).map fun v => (p, v)

theorem nodup_rxBuffers : rxBuffers.Nodup := by decide

theorem mem_rxBuffers (p : Fin 6) (v : Nat) : (p, v) ∈ rxBuffers ↔ v < 8 := by
  simp [rxBuffers]

/-- The place of a buffer's band in the histograms. -/
def State.rippleIndex (s : State) (b : Fin 6 × Nat) : Nat :=
  128 * b.1.val + 16 * b.2 + min 15 ((s.weir.ports.get b.1).occupied b.2 / 4096)

theorem exec_rippleSample {s : State} (hr : s.keeper.rails = true) :
    exec .rippleSample s = .next { s with weir := { s.weir with hist := (
      rxBuffers.foldl (fun (t : Tbl Nat) b => t.set (s.rippleIndex b) (t.get 0 (s.rippleIndex b) + 1)) s.weir.hist) } } := by
  change execRippleSample s = _
  simp only [rxBuffers, List.foldl_flatMap, List.foldl_map]
  exact congrArg Host.Outcome.next (if_neg (by simp [hr]))

theorem getLsbD_setBit_true {w : Nat} (x : BitVec w) {n i : Nat} (hi : i < w) :
    (setBit x n true).getLsbD i = (x.getLsbD i || i == n) := by
  rw [setBit_true_eq_or, ← BitVec.twoPow_eq, BitVec.getLsbD_or, BitVec.getLsbD_twoPow]
  by_cases h : n = i
  · subst h
    simp [hi]
  · simp [h, Ne.symm h]

theorem Weir.getLsbD_upPorts (w : Weir) (p : Fin 6) : w.upPorts.getLsbD p.val = decide ((w.ports.get p).state = 2) := by
  have hfold : ∀ (l : List (Fin 6)) (b : BitVec 6),
      (l.foldl (fun (b : BitVec 6) q => if (w.ports.get q).state = 2 then setBit b q.val true else b) b).getLsbD p.val =
        (b.getLsbD p.val || (decide (p ∈ l) && decide ((w.ports.get p).state = 2))) := by
    intro l
    induction l with
    | nil => simp
    | cons q l ih =>
      intro b
      rw [List.foldl_cons, ih]
      have hstep : (if (w.ports.get q).state = 2 then setBit b q.val true else b).getLsbD p.val =
          (b.getLsbD p.val || (decide (p = q) && decide ((w.ports.get p).state = 2))) := by
        by_cases hq : p = q
        · subst hq
          split
          case isTrue hup => rw [getLsbD_setBit_true b p.isLt]; simp [hup]
          case isFalse hdown => rw [decide_eq_false hdown]; simp
        · split
          · have hv : (p.val == q.val) = false := beq_false_of_ne fun h => hq (Fin.ext h)
            rw [getLsbD_setBit_true b p.isLt, hv, decide_eq_false hq, Bool.false_and]
          · rw [decide_eq_false hq, Bool.false_and, Bool.or_false]
      have hmem : decide (p ∈ q :: l) = (decide (p = q) || decide (p ∈ l)) := by simp
      rw [hstep, hmem, Bool.or_assoc, Bool.and_or_distrib_right]
  rw [Weir.upPorts, hfold, decide_eq_true (List.mem_finRange p)]
  simp

theorem foldl_send_map {α : Type} (g : α → Msg) : ∀ (l : List α) (s : State),
    l.foldl (fun s r => s.send (g r)) s = { s with outbox := s.outbox ++ l.map g }
  | [], s => by simp
  | r :: l, s => by
    rw [List.foldl_cons, foldl_send_map g l]
    simp [State.send]

theorem exec_rippleRecordClose {s : State} (hr : s.keeper.rails = true) :
    let k := s.uptime / 100000 - 1
    exec .rippleRecordClose s = .next { s with weir := { s.weir with
      records := (s.weir.records ++ [(BitVec.ofNat 64 (100000 * k), BitVec.ofNat 64 k, s.weir.histUp, s.weir.hist)]).drop
        (s.weir.records.length + 1 - 64),
      hist := [], histUp := s.weir.upPorts } } :=
  congrArg Host.Outcome.next (if_neg (by simp [hr]))

theorem rippleSample_counts {s : State} (p : Fin 6) (v : Fin 8) (k : Fin 16) (t : Tbl Nat) :
    (rxBuffers.foldl (fun (t : Tbl Nat) b => t.set (s.rippleIndex b) (t.get 0 (s.rippleIndex b) + 1)) t).get 0
        (128 * p.val + 16 * v.val + k.val) =
      t.get 0 (128 * p.val + 16 * v.val + k.val) + (if min 15 ((s.weir.ports.get p).occupied v.val / 4096) = k.val then 1 else 0) := by
  have hi : ∀ b ∈ rxBuffers, s.rippleIndex b = 128 * p.val + 16 * v.val + k.val → b = (p, v.val) := by
    rintro ⟨q, x⟩ hb hidx
    have hx := (mem_rxBuffers q x).mp hb
    simp only [State.rippleIndex] at hidx
    have hq : q = p := Fin.ext (by omega)
    have hv : x = v.val := by omega
    rw [hq, hv]
  refine (Tbl.get_foldl_count s.rippleIndex _ (p, v.val) rxBuffers t nodup_rxBuffers hi).trans ?_
  have hiff : ((p, v.val) ∈ rxBuffers ∧ s.rippleIndex (p, v.val) = 128 * p.val + 16 * v.val + k.val) ↔
      min 15 ((s.weir.ports.get p).occupied v.val / 4096) = k.val := by
    rw [mem_rxBuffers]
    simp only [State.rippleIndex]
    exact ⟨fun h => by omega, fun h => ⟨v.isLt, by omega⟩⟩
  simp only [hiff]

theorem rippleMapsCountBuffers : Claims.RippleMapsCountBuffers := by
  intro src first count s hr w
  refine ⟨?_, fun hlen => ⟨_, exec_rippleRecordClose hr, rfl, ?_, ?_, Weir.getLsbD_upPorts w⟩,
    congrArg Host.Outcome.next (foldl_send_map (fun r : W64 × W64 × BitVec 6 × Tbl Nat => Msg.ripple src.toNat r.2.1) _ s)⟩
  · obtain ⟨hist, hhist⟩ : ∃ h, h = rxBuffers.foldl
      (fun (t : Tbl Nat) b => t.set (s.rippleIndex b) (t.get 0 (s.rippleIndex b) + 1)) s.weir.hist := ⟨_, rfl⟩
    refine ⟨{ s with weir := { w with hist := hist } }, ?_, rfl, fun p v k => ?_⟩
    · rw [hhist]
      exact exec_rippleSample hr
    · change hist.get 0 _ = _
      rw [hhist]
      exact rippleSample_counts p v k s.weir.hist
  · change (List.drop _ (_ ++ [_])).length = min 64 (s.weir.records.length + 1)
    have hlen' : s.weir.records.length ≤ 64 := hlen
    simp only [List.length_drop, List.length_append, List.length_singleton]
    omega
  · have hlen' : s.weir.records.length ≤ 64 := hlen
    change List.getLast? (List.drop _ (_ ++ [_])) = _
    rw [List.getLast?_drop, if_neg (by simp only [List.length_append, List.length_singleton]; omega), List.getLast?_append]
    rfl

/-! ### Ring notices (R387, R388) -/

theorem exec_ringNotice {p : Fin 6} {dim : Fin 3} (coord span : Nat) (clear : Bool) (s : State) (hdim : p.val / 2 = dim.val)
    {t : State} {new : Bool} (hports : t.weir.ports = s.weir.ports)
    (ht : (if clear then s.clearBreaks p dim.val coord span else s.addBreak p dim.val coord) = (t, new)) :
    exec (.ringNotice p dim coord span clear) s =
      .next (if new then (if (s.weir.ports.get (otherPort p)).state = 2 then
        t.send (.notice (otherPort p).val dim.val coord span clear) else t) else t) := by
  change execRingNotice p dim coord span clear s = _
  unfold execRingNotice
  simp only [ht, hdim, beq_self_eq_true, Bool.and_true, State.sendNotice, hports]

theorem State.addBreak_new {s : State} (p : Fin 6) (d coord : Nat) (hnew : coord ∉ s.weir.breaks.get [] d)
    (hlen : (s.weir.breaks.get [] d).length < 4) :
    s.addBreak p d coord = (({ s with
      weir := { s.weir with breaks := s.weir.breaks.set d (s.weir.breaks.get [] d ++ [coord]) }
      coll := { s.coll with opened := s.coll.opened.map fun c => { c with line := setBit c.line d true } } } : State).event
        0x0053 2 srcWeir [p.val, coord, d], true) :=
  (if_neg (by simpa using hnew)).trans (if_neg (by omega))

theorem State.addBreak_known {s : State} (p : Fin 6) (d coord : Nat) (h : coord ∈ s.weir.breaks.get [] d) :
    s.addBreak p d coord = (s, false) := if_pos (by simpa using h)

theorem State.clearBreaks_last {s : State} (p : Fin 6) (d coord span : Nat) (hbs : s.weir.breaks.get [] d = [coord])
    (hspan : 1 ≤ span) (hcoord : coord < (s.weir.bank s.weir.inj).size d) :
    s.clearBreaks p d coord span = (({ s with weir := { s.weir with
      breaks := s.weir.breaks.set d [], tooMany := setBit s.weir.tooMany d false } } : State).event
        0x0054 1 srcWeir [p.val, coord, d], true) := by
  have hdist : ringDist (max 1 ((s.weir.bank s.weir.inj).size d)) coord coord true = 0 := by
    rw [Nat.max_eq_right (by omega)]
    simp [ringDist, Nat.mod_eq_of_lt hcoord]
  have hin : 0 < span := hspan
  unfold State.clearBreaks
  simp only [hbs, hdist, hin, decide_true, Bool.not_true, List.filter_cons, List.filter_nil, Bool.false_eq_true, if_false]
  rfl

theorem State.clearBreaks_none {s : State} (p : Fin 6) (d coord span : Nat) (hbs : s.weir.breaks.get [] d = []) :
    s.clearBreaks p d coord span = (s, false) := by
  unfold State.clearBreaks
  simp [hbs]

theorem ringNoticesSpreadOnce : Claims.RingNoticesSpreadOnce := by
  intro p dim coord span s hdim bs pass
  refine ⟨fun hnew hlen => ?_, fun hknown => ?_, fun hbs hspan hcoord => ?_, fun hbs => ?_⟩
  · exact exec_ringNotice coord span false s hdim (by simp) (State.addBreak_new p dim.val coord hnew hlen)
  · exact exec_ringNotice coord span false s hdim rfl (State.addBreak_known p dim.val coord hknown)
  · exact exec_ringNotice coord span true s hdim (by simp) (State.clearBreaks_last p dim.val coord span hbs hspan hcoord)
  · exact exec_ringNotice coord span true s hdim rfl (State.clearBreaks_none p dim.val coord span hbs)

/-- Settles O31: one word to an open range, one flow, one buffer's band and one ring at a time. -/
theorem fabricServicesActOnTheirPackets : Obligations.FabricServicesActOnTheirPackets :=
  ⟨writesReachOpenRanges, echoesHalveAndTimeRaisesRates, rippleMapsCountBuffers, ringNoticesSpreadOnce⟩

end Sys2Proof.Machine
end

section
/-! Packets injected, sent, routed and delivered, and the route commands (R367 to R390, R397, R489). -/

namespace Sys2Proof.Machine

/-! ### Injection and an output's next packet (R374 to R376, R378) -/

/-- What carrying a packet may change: the weirs' queues, counts and flows, what is delivered, and what is sent. -/
def State.carried (s t : State) : Prop :=
  t = { s with
    outbox := t.outbox
    weir := { s.weir with
      ports := t.weir.ports, cnt := t.weir.cnt, epIn := t.weir.epIn, epOut := t.weir.epOut, echoAt := t.weir.echoAt,
      mgmtSeen := t.weir.mgmtSeen, delivered := t.weir.delivered, flows := t.weir.flows } }

theorem State.carried_trans {s t u : State} (h : s.carried t) (h' : t.carried u) : s.carried u := by
  unfold State.carried at *
  rw [h', h]

theorem State.queued.carried {s t : State} (h : s.queued t) : s.carried t := by
  unfold State.carried
  rw [h.1]

theorem State.carried.keeper {s t : State} (h : s.carried t) : t.keeper = s.keeper := by rw [h]

theorem State.carried.injQ {s t : State} (h : s.carried t) : t.weir.injQ = s.weir.injQ := by rw [h]

theorem State.deliver_carried (s : State) (p : Packet) : s.carried (s.deliver p) := by
  have hecho : s.carried (s.echoFor p) := by
    unfold State.echoFor
    simp only []
    split <;> rfl
  unfold State.deliver
  simp only []
  split
  · exact hecho
  · exact State.carried_trans hecho rfl

theorem State.routePacket_carried (s : State) (x : Queued) (arr : Option (Fin 6)) : s.carried (s.routePacket x arr) := by
  unfold State.routePacket
  split
  · exact State.carried_trans (s.leave_queued x).carried (State.deliver_carried _ _)
  · exact (s.discard_queued x 1).carried
  · split
    · exact (s.join_queued _ _).carried
    · split
      · exact (s.discard_queued x 1).carried
      · exact (s.reinject_queued _ x).carried

theorem State.injectOne_carried (s : State) (p : Packet) : s.carried (s.injectOne p) := by
  have hstart : ∀ q : Packet, s.carried (s.startFlow q) := by
    intro q
    unfold State.startFlow
    split <;> rfl
  exact State.carried_trans (hstart _) (State.carried_trans (State.queued.carried ⟨rfl, fun _ => rfl⟩) (State.routePacket_carried _ _ _))

theorem injectFrom_carried : ∀ (l : List Packet) (s : State), s.carried (injectFrom l s).1
  | [], _ => rfl
  | p :: l, s => by
    rw [injectFrom]
    split
    · exact State.carried_trans (s.injectOne_carried p) (injectFrom_carried l _)
    · exact injectFrom_carried l s

theorem State.inject_keeper (s : State) : s.inject.keeper = s.keeper :=
  (injectFrom_carried _ _).keeper

theorem State.inject_none {s : State} (htaken : s.weir.taken = s.outbox.length) (hq : s.weir.injQ = []) : s.inject = s := by
  unfold State.inject
  simp only [htaken, hq, List.drop_length, List.zipIdx_nil, List.flatMap_nil, List.append_nil, injectFrom]
  rw [← htaken, ← hq]

theorem State.inject_one {s : State} {k : Packet} {m : Msg} (htaken : s.weir.taken + 1 = s.outbox.length) (hm : s.outbox.getLast? = some m)
    (hk : s.toPackets s.weir.taken m = [k]) (hq : s.weir.injQ = []) (hmay : s.mayInject k = true) :
    s.inject = ({ s with weir := { s.weir with taken := s.weir.taken + 1 } } : State).injectOne k := by
  have hdrop : s.outbox.drop s.weir.taken = [m] := by
    obtain ⟨l, hl⟩ := List.getLast?_eq_some_iff.mp hm
    have hlen : s.weir.taken = l.length := by rw [hl, List.length_append] at htaken; simpa using htaken
    rw [hl, hlen, List.drop_left]
  obtain ⟨u, hu⟩ : ∃ u : State, u = { s with weir := { s.weir with taken := s.weir.taken + 1 } } := ⟨_, rfl⟩
  have hu' : ({ s with weir := { s.weir with taken := s.outbox.length, injQ := [] } } : State) = u := by rw [hu, ← htaken, ← hq]
  have hnew : ([m].zipIdx).flatMap (fun q => s.toPackets (s.weir.taken + q.2) q.1) = [k] := by
    simpa using hk
  have hinj : injectFrom [k] u = (u.injectOne k, []) := by
    have hmay' : u.mayInject k = true := by rw [hu]; exact hmay
    rw [injectFrom, if_pos hmay']
    rfl
  have hempty : (u.injectOne k).weir.injQ = [] := by rw [(u.injectOne_carried k).injQ, hu]; exact hq
  have hgoal : s.inject = { u.injectOne k with weir := { (u.injectOne k).weir with injQ := [] } } := by
    unfold State.inject
    simp only [hdrop, hnew, hq, List.nil_append, hu', hinj]
  rw [hgoal, ← hempty, ← hu]

/-- A port starts nothing where none of its heads may go. -/
theorem drrPick_none {heads : Nat → Option Queued} (h : ∀ c, heads c = none) : ∀ (n : Nat) (t : Tbl Nat) (turn : Nat),
    drrPick heads n t turn = none
  | 0, _, _ => rfl
  | n + 1, t, turn => by
    rw [drrPick]
    simp only [h turn]
    exact drrPick_none h n _ _

theorem Port.head_off {x : Port} (hoff : x.xonRx = 0) (now c : Nat) : x.head now c = none := by
  have hstart : ∀ q : Queued, x.mayStart now q = false := by
    intro q
    simp [Port.mayStart, hoff]
  have hpick : ∀ o : Option Queued, o.filter (x.mayStart now) = none := by
    intro o
    cases o <;> simp [Option.filter, hstart]
  simp [Port.head, hpick]

theorem exec_packetSendStart {s : State} (hr : s.keeper.rails = true) (p : Fin 6) :
    exec (.packetSendStart p) s = .next (s.inject.startNext p) :=
  congrArg Host.Outcome.next (if_pos hr)

theorem State.startNext_none {t : State} {p : Fin 6} (h : (t.weir.ports.get p).state ≠ 2 ∨ (t.weir.ports.get p).next t.uptime = none) :
    t.startNext p = t := by
  unfold State.startNext
  rcases h with h | h
  · exact if_pos h
  · simp only [h]
    split <;> rfl

theorem State.startNext_some {t : State} {p : Fin 6} {q : Queued} {deficit : Tbl Nat} {turn : Nat}
    (hup : (t.weir.ports.get p).state = 2) (h : (t.weir.ports.get p).next t.uptime = some (q, deficit, turn)) :
    let x := t.weir.ports.get p
    let bs := ({ q.pkt with hops := q.pkt.hops + 1 } : Packet).bytes
    t.startNext p = Claims.port t p { x with
      outQ := x.outQ.erase q, deficit := deficit, turn := turn, txStream := x.txStream ++ bs, inFlight := x.inFlight ++ [(q, bs.length)]
      sentWin := (t.uptime, q.pkt.channel, q.pkt.words) :: x.sentWin.filter fun e => decide (t.uptime < e.1 + x.rtt.toNat) } := by
  intro x bs
  unfold State.startNext
  simp only [h]
  exact if_neg (not_not.mpr hup)

theorem outputsSendByClass : Claims.OutputsSendByClass := by
  intro p q s hr t x now bs started
  have hnow : t.uptime = now := congrArg (fun k : Keeper => k.uptime.toNat) s.inject_keeper
  rw [exec_packetSendStart hr]
  refine ⟨fun hup h3 => ?_, fun hup h3 hq hdef => ?_, fun h => ?_, State.inject_none, fun k m => State.inject_one⟩
  · have hnext : x.next t.uptime = some (q, x.deficit, x.turn) := by
      rw [hnow, Port.next, h3]
    rw [State.startNext_some hup hnext, hnow]
  · have hnext : x.next t.uptime = some (q, x.deficit.set x.turn (x.deficit.get 0 x.turn - q.pkt.words), x.turn) := by
      rw [hnow, Port.next, h3, drrPick, hq]
      exact if_pos hdef
    rw [State.startNext_some hup hnext, hnow]
  · refine congrArg Host.Outcome.next (State.startNext_none (h.imp id fun hoff => ?_))
    change x.next t.uptime = none
    rw [Port.next, Port.head_off hoff]
    exact drrPick_none (Port.head_off hoff _) _ _ _

/-! ### Packets received (R367 to R372, R383, R390) -/

/-- A number of 35 bits in the pieces that a header's reserved bits make of it (R367). -/
theorem rsvd_pieces {r : Nat} (h : r < 2 ^ 35) :
    r % 2 + 2 * (r / 2 % 2) + 4 * (r / 4 % 16) + 64 * (r / 64 % 256) + 16384 * (r / 16384 % 32) + 524288 * (r / 524288 % 65536) = r := by
  omega

/-- A header's data bytes from its fields, in their order (R367). -/
def headerOf (dest src : Nat) (opcode : Byte) (cls len res addr tag oparg hops flags top : Nat) : List Byte :=
  leBytes 2 dest ++ leBytes 2 src ++ [opcode] ++ leBytes 1 cls ++ leBytes 1 len ++ leBytes 1 res ++ leBytes 8 addr ++ leBytes 4 tag ++
    leBytes 8 oparg ++ leBytes 1 hops ++ leBytes 1 flags ++ leBytes 2 top

theorem fields_headerOf (dest src : Nat) (opcode : Byte) (cls len res addr tag oparg hops flags top : Nat) :
    let h := headerOf dest src opcode cls len res addr tag oparg hops flags top
    let n (o k : Nat) : Nat := leNat ((h.drop o).take k)
    n 0 2 = dest % 256 ^ 2 ∧ n 2 2 = src % 256 ^ 2 ∧ h.getD 4 0 = opcode ∧ n 5 1 = cls % 256 ^ 1 ∧ n 7 1 = res % 256 ^ 1 ∧
      n 8 8 = addr % 256 ^ 8 ∧ n 0x10 4 = tag % 256 ^ 4 ∧ n 0x14 8 = oparg % 256 ^ 8 ∧ n 0x1C 1 = hops % 256 ^ 1 ∧
      n 0x1D 1 = flags % 256 ^ 1 ∧ n 0x1E 2 = top % 256 ^ 2 :=
  ⟨leNat_leBytes 2 dest, leNat_leBytes 2 src, rfl, leNat_leBytes 1 cls, leNat_leBytes 1 res, leNat_leBytes 8 addr, leNat_leBytes 4 tag,
    leNat_leBytes 8 oparg, leNat_leBytes 1 hops, leNat_leBytes 1 flags, leNat_leBytes 2 top⟩

theorem parseHeader_headerOf (dest src : Nat) (opcode : Byte) (cls len res addr tag oparg hops flags top : Nat) (ws : List (List Byte)) :
    parseHeader (headerOf dest src opcode cls len res addr tag oparg hops flags top) ws =
      { dest := BitVec.ofNat 15 (dest % 65536), src := BitVec.ofNat 15 (src % 65536), opcode := opcode, cls := BitVec.ofNat 2 (cls % 256)
        epoch := BitVec.ofNat 2 (cls % 256 / 4), addr := BitVec.ofNat 64 (addr % 256 ^ 8), tag := BitVec.ofNat 32 (tag % 256 ^ 4)
        oparg := BitVec.ofNat 64 (oparg % 256 ^ 8), hops := hops % 256, vc := flags % 256 % 2 == 1, esc := flags % 256 / 2 % 2 == 1
        mark := flags % 256 / 4 % 2 == 1
        rsvd := dest % 65536 / 2 ^ 15 + 2 * (src % 65536 / 2 ^ 15) + 4 * (cls % 256 / 16) + 2 ^ 6 * (res % 256) +
          2 ^ 14 * (flags % 256 / 8) + 2 ^ 19 * (top % 65536)
        payload := ws } := by
  obtain ⟨h0, h2, h4, h5, h7, h8, h16, h20, h28, h29, h30⟩ := fields_headerOf dest src opcode cls len res addr tag oparg hops flags top
  simp only [parseHeader, h0, h2, h4, h5, h7, h8, h16, h20, h28, h29, h30]
  rfl

theorem ofNat_eq_of_mod {w n : Nat} {x : BitVec w} (h : n % 2 ^ w = x.toNat) : BitVec.ofNat w n = x :=
  BitVec.eq_of_toNat_eq ((BitVec.toNat_ofNat n w).trans h)

/-- The three flags of HOPFLAGS as a number (R367). -/
def hopFlags (vc esc mark : Bool) : Nat := (if vc then 1 else 0) + 2 * (if esc then 1 else 0) + 4 * (if mark then 1 else 0)

theorem hopFlags_spec (vc esc mark : Bool) (r : Nat) (hr : r < 32) :
    let f := (hopFlags vc esc mark + 8 * r) % 256
    (f % 2 == 1) = vc ∧ (f / 2 % 2 == 1) = esc ∧ (f / 4 % 2 == 1) = mark ∧ f / 8 = r := by
  intro f
  have hf : f = hopFlags vc esc mark + 8 * r := by
    have : hopFlags vc esc mark < 8 := by cases vc <;> cases esc <;> cases mark <;> decide
    omega
  rw [hf]
  refine ⟨?_, ?_, ?_, ?_⟩
  · cases vc <;> cases esc <;> cases mark <;> simp [hopFlags] <;> omega
  · cases vc <;> cases esc <;> cases mark <;> simp [hopFlags] <;> omega
  · cases vc <;> cases esc <;> cases mark <;> simp [hopFlags] <;> omega
  · cases vc <;> cases esc <;> cases mark <;> simp [hopFlags] <;> omega

theorem header_eq (k : Packet) : k.header = headerOf (k.dest.toNat + 2 ^ 15 * (k.rsvd % 2)) (k.src.toNat + 2 ^ 15 * (k.rsvd / 2 % 2)) k.opcode
    (k.cls.toNat + 4 * k.epoch.toNat + 16 * (k.rsvd / 4 % 16)) k.payload.length (k.rsvd / 64 % 256) k.addr.toNat k.tag.toNat k.oparg.toNat
    k.hops (hopFlags k.vc k.esc k.mark + 8 * (k.rsvd / 16384 % 32)) (k.rsvd / 524288 % 65536) := by
  unfold Packet.header headerOf hopFlags
  simp only [Nat.reducePow, Nat.reduceAdd, Nat.reduceSub, Nat.div_one]

theorem parseHeader_header {k : Packet} (ws : List (List Byte)) (hr : k.rsvd < 2 ^ 35) (hh : k.hops < 256) :
    parseHeader k.header ws = { k with payload := ws } := by
  obtain ⟨hvc, hesc, hmark, hres⟩ := hopFlags_spec k.vc k.esc k.mark (k.rsvd / 16384 % 32) (Nat.mod_lt _ (by decide))
  have hp := rsvd_pieces hr
  have hd := k.dest.isLt
  have hs := k.src.isLt
  have hc := k.cls.isLt
  have he := k.epoch.isLt
  rw [header_eq, parseHeader_headerOf, hvc, hesc, hmark, hres, Nat.mod_eq_of_lt hh]
  have hdest : BitVec.ofNat 15 ((k.dest.toNat + 2 ^ 15 * (k.rsvd % 2)) % 65536) = k.dest := ofNat_eq_of_mod (by omega)
  have hsrc : BitVec.ofNat 15 ((k.src.toNat + 2 ^ 15 * (k.rsvd / 2 % 2)) % 65536) = k.src := ofNat_eq_of_mod (by omega)
  have hcls : BitVec.ofNat 2 ((k.cls.toNat + 4 * k.epoch.toNat + 16 * (k.rsvd / 4 % 16)) % 256) = k.cls := ofNat_eq_of_mod (by omega)
  have hep : BitVec.ofNat 2 ((k.cls.toNat + 4 * k.epoch.toNat + 16 * (k.rsvd / 4 % 16)) % 256 / 4) = k.epoch := ofNat_eq_of_mod (by omega)
  have haddr : BitVec.ofNat 64 (k.addr.toNat % 256 ^ 8) = k.addr := ofNat_eq_of_mod (by have := k.addr.isLt; omega)
  have htag : BitVec.ofNat 32 (k.tag.toNat % 256 ^ 4) = k.tag := ofNat_eq_of_mod (by have := k.tag.isLt; omega)
  have hoparg : BitVec.ofNat 64 (k.oparg.toNat % 256 ^ 8) = k.oparg := ofNat_eq_of_mod (by have := k.oparg.isLt; omega)
  have hrsvd : (k.dest.toNat + 2 ^ 15 * (k.rsvd % 2)) % 65536 / 2 ^ 15 + 2 * ((k.src.toNat + 2 ^ 15 * (k.rsvd / 2 % 2)) % 65536 / 2 ^ 15) +
      4 * ((k.cls.toNat + 4 * k.epoch.toNat + 16 * (k.rsvd / 4 % 16)) % 256 / 16) + 2 ^ 6 * (k.rsvd / 64 % 256 % 256) +
      2 ^ 14 * (k.rsvd / 16384 % 32) + 2 ^ 19 * (k.rsvd / 524288 % 65536 % 65536) = k.rsvd := by
    have h1 : (k.dest.toNat + 2 ^ 15 * (k.rsvd % 2)) % 65536 / 2 ^ 15 = k.rsvd % 2 := by omega
    have h2 : (k.src.toNat + 2 ^ 15 * (k.rsvd / 2 % 2)) % 65536 / 2 ^ 15 = k.rsvd / 2 % 2 := by omega
    have h3 : (k.cls.toNat + 4 * k.epoch.toNat + 16 * (k.rsvd / 4 % 16)) % 256 / 16 = k.rsvd / 4 % 16 := by omega
    rw [h1, h2, h3, Nat.mod_mod, Nat.mod_mod]
    exact hp
  rw [hdest, hsrc, hcls, hep, haddr, htag, hoparg, hrsvd]

theorem length_headerOf (dest src : Nat) (opcode : Byte) (cls len res addr tag oparg hops flags top : Nat) :
    (headerOf dest src opcode cls len res addr tag oparg hops flags top).length = 32 := by
  simp [headerOf, length_leBytes]

theorem length_header (k : Packet) : k.header.length = 32 := by rw [header_eq, length_headerOf]

theorem headerOf_length_byte (dest src : Nat) (opcode : Byte) (cls len res addr tag oparg hops flags top : Nat) (t : List Byte) :
    ((headerOf dest src opcode cls len res addr tag oparg hops flags top ++ t).drop 6).headD 0 = BitVec.ofNat 8 len := rfl

theorem header_length_byte (k : Packet) (t : List Byte) :
    ((encodeWord k.header ++ t).drop 6).headD 0 = BitVec.ofNat 8 k.payload.length := by
  obtain ⟨c, hc⟩ : ∃ c, encodeWord k.header = k.header ++ c := by
    unfold encodeWord
    split
    exact ⟨_, rfl⟩
  rw [hc, List.append_assoc, header_eq]
  exact headerOf_length_byte _ _ _ _ _ _ _ _ _ _ _ _ _

theorem fitBytes_self {n : Nat} {l : List Byte} (h : l.length = n) : fitBytes n l = l := by
  unfold fitBytes
  rw [List.take_of_length_le h.le, h, Nat.sub_self]
  exact List.append_nil l

/-- Words that are all code words. -/
def allCodeWords (ws : List (List Byte)) : Prop := ∀ w ∈ ws, ∃ d : List Byte, d.length = 32 ∧ w = encodeWord d

theorem length_of_allCodeWords {ws : List (List Byte)} (h : allCodeWords ws) {w : List Byte} (hw : w ∈ ws) : w.length = 36 := by
  obtain ⟨d, hd, rfl⟩ := h w hw
  rw [length_encodeWord, hd]

theorem splitWords_payload (rest : List Byte) : ∀ ws : List (List Byte), (∀ w ∈ ws, w.length = 36) →
    splitWords ws.length (ws.flatMap (fitBytes wordBytes) ++ rest) = ws ∧
      (ws.flatMap (fitBytes wordBytes) ++ rest).drop (36 * ws.length) = rest ∧ (ws.flatMap (fitBytes wordBytes)).length = 36 * ws.length
  | [], _ => ⟨rfl, rfl, rfl⟩
  | w :: ws, h => by
    have hw : w.length = 36 := h w List.mem_cons_self
    obtain ⟨hsplit, hdrop, hlen⟩ := splitWords_payload rest ws fun x hx => h x (List.mem_cons_of_mem _ hx)
    have hfit : fitBytes wordBytes w = w := fitBytes_self hw
    rw [List.flatMap_cons, hfit, List.length_cons, List.append_assoc]
    refine ⟨?_, ?_, ?_⟩
    · rw [splitWords, show wordBytes = w.length from hw.symm, List.take_left, List.drop_left, hw]
      exact congrArg _ hsplit
    · rw [show 36 * (ws.length + 1) = w.length + 36 * ws.length by omega, ← List.drop_drop, List.drop_left]
      exact hdrop
    · rw [List.length_append, hlen]
      omega

/-- What taking words off a port changes: that port's counts and buffers. -/
def State.atPort (s t : State) (p : Fin 6) : Prop :=
  t = { s with weir := { s.weir with ports := t.weir.ports } } ∧ (t.weir.ports.get p).rxStream = (s.weir.ports.get p).rxStream

theorem State.atPort_trans {s t u : State} {p : Fin 6} (h : s.atPort t p) (h' : t.atPort u p) : s.atPort u p := by
  obtain ⟨hs, hp⟩ := h
  obtain ⟨hs', hp'⟩ := h'
  refine ⟨?_, hp'.trans hp⟩
  rw [hs', hs]

theorem State.modPort_atPort (s : State) (p : Fin 6) {f : Port → Port} (hf : ∀ x : Port, (f x).rxStream = x.rxStream) :
    s.atPort (s.modPort p f) p := by
  refine ⟨rfl, ?_⟩
  rw [State.modPort, vset_get_self]
  exact hf _

theorem State.countPort_atPort (s : State) (p : Fin 6) (k n : Nat) : s.atPort (s.countPort p k n) p :=
  State.modPort_atPort s p (f := fun x => { x with cnt := bumpBy x.cnt k n }) fun _ => rfl

theorem checkPayload_allCodeWords : ∀ {ws : List (List Byte)}, allCodeWords ws → (ws.map checkPayload).map (·.1) = ws
  | [], _ => rfl
  | w :: ws, h => by
    obtain ⟨d, hd, hw⟩ := h w List.mem_cons_self
    have hfirst : (checkPayload w).1 = w := by
      simp only [checkPayload, hw, checkWord_encodeWord d hd]
    have hrest := checkPayload_allCodeWords fun x hx => h x (List.mem_cons_of_mem _ hx)
    simp only [List.map_cons, hfirst, hrest]

/-- A port's stream starts with a whole packet: its header word, its length, its payload words and what follows. -/
theorem packetBytes_parts {k : Packet} (rest : List Byte) (hlen : k.payload.length < 256) (hw : allCodeWords k.payload) :
    let st := k.bytes ++ rest
    st.take wordBytes = encodeWord k.header ∧ ((st.drop 6).headD 0).toNat = k.payload.length ∧
      splitWords k.payload.length (st.drop wordBytes) = k.payload ∧ st.drop (wordBytes * (1 + k.payload.length)) = rest ∧
      st.length = wordBytes * (1 + k.payload.length) + rest.length := by
  intro st
  obtain ⟨hsplit, hdrop, hlen'⟩ := splitWords_payload rest k.payload fun w h => length_of_allCodeWords hw h
  have hhead : (encodeWord k.header).length = 36 := by rw [length_encodeWord, length_header]
  have hst : st = encodeWord k.header ++ (k.payload.flatMap (fitBytes wordBytes) ++ rest) := List.append_assoc _ _ _
  have hdrop36 : st.drop wordBytes = k.payload.flatMap (fitBytes wordBytes) ++ rest := by
    rw [hst, show wordBytes = (encodeWord k.header).length from hhead.symm, List.drop_left]
  refine ⟨?_, ?_, ?_, ?_, ?_⟩
  · rw [hst, show wordBytes = (encodeWord k.header).length from hhead.symm, List.take_left]
  · rw [hst, header_length_byte, BitVec.toNat_ofNat, Nat.mod_eq_of_lt hlen]
  · rw [hdrop36]
    exact hsplit
  · rw [show wordBytes * (1 + k.payload.length) = wordBytes + 36 * k.payload.length from Nat.mul_add 36 1 _, ← List.drop_drop, hdrop36]
    exact hdrop
  · rw [hst, List.length_append, List.length_append, hhead, hlen', show wordBytes = 36 from rfl]
    omega

/-- The place of a packet's epoch and channel in the epoch counters (R404). -/
def packetPlace (k : Packet) : Nat := 8 * k.epoch.toNat + k.channel

/-- A packet that a port's stream began with has entered its channel. -/
def State.received (s t : State) (p : Fin 6) (k : Packet) (rest : List Byte) : Prop :=
  t = { s with weir := { s.weir with
    ports := t.weir.ports, epIn := s.weir.epIn.set (packetPlace k) (s.weir.epIn.get 0 (packetPlace k) + 1) } } ∧
    (t.weir.ports.get p).rxStream = rest

/-- A packet in the receive buffer of a port. -/
def heldAt (k : Packet) (p : Fin 6) : Queued := ⟨k, some (p, k.channel), k.channel⟩

theorem exec_packetReceive_whole {p : Fin 6} {k : Packet} {rest : List Byte} {s : State}
    (hst : (s.weir.ports.get p).rxStream = k.bytes ++ rest) (hlen : k.payload.length < 256) (hr : k.rsvd < 2 ^ 35) (hh : k.hops < 256)
    (hw : allCodeWords k.payload) :
    ∃ u, s.received u p k rest ∧ exec (.packetReceive p) s = .next (
      if !k.opOk then u.discard (heldAt k p) 5
      else if !u.weir.epochLive k.epoch then u.discard (heldAt k p) 0
      else if 128 ≤ k.hops then u.discard (heldAt k p) 2
      else u.routePacket (heldAt k p) (some p)) := by
  obtain ⟨htake, hbyte, hsplit, hdrop, hlength⟩ := packetBytes_parts rest hlen hw
  have hcheck : checkWord (encodeWord k.header) = .clean k.header := checkWord_encodeWord _ (length_header k)
  have hword := checkPayload_allCodeWords hw
  obtain ⟨ws, hws⟩ : ∃ ws, ws = k.payload.map checkPayload := ⟨_, rfl⟩
  rw [← hws] at hword
  have hhead := parseHeader_header (k := k) k.payload hr hh
  obtain ⟨s1, hs1⟩ : ∃ s1 : State, s1 = s.modPort p fun x => { x with rxStream := x.rxStream.drop (wordBytes * (1 + k.payload.length)) } :=
    ⟨_, rfl⟩
  obtain ⟨s2, hs2⟩ : ∃ s2 : State, s2 = ((s1.countPort p 5 (ws.filter fun w => w.2 == 1).length).countPort p 6
    (ws.filter fun w => w.2 == 2).length).countPort p 7 (ws.filter fun w => w.2 == 3).length := ⟨_, rfl⟩
  refine ⟨(s2.enterChannel k.epoch k.channel).holdWords p k.channel k.words, ?_, ?_⟩
  · have h1 : (s1.weir.ports.get p).rxStream = rest := by
      rw [hs1, State.modPort, vset_get_self, hst]
      exact hdrop
    have h2 : s1.atPort s2 p := by
      rw [hs2]
      exact State.atPort_trans (State.atPort_trans (State.countPort_atPort _ _ _ _) (State.countPort_atPort _ _ _ _))
        (State.countPort_atPort _ _ _ _)
    obtain ⟨hs2', hp2⟩ := h2
    have h3 := State.modPort_atPort (s2.enterChannel k.epoch k.channel) p
      (f := fun x => Port.reflow { x with rxWords := x.rxWords.set k.channel (x.rxWords.get 0 k.channel + k.words) }) fun _ => rfl
    refine ⟨?_, (h3.2.trans hp2).trans h1⟩
    refine h3.1.trans ?_
    rw [hs2', hs1]
    rfl
  · change execPacketReceive p s = _
    unfold execPacketReceive
    simp only [hst, hbyte, htake, hsplit, hcheck, hword, hhead, ← hws, ← hs1, ← hs2]
    refine congrArg Host.Outcome.next ((if_neg ?_).trans rfl)
    rw [hlength]
    have htotal : wordBytes * (1 + k.payload.length) = wordBytes + wordBytes * k.payload.length := by rw [Nat.mul_add, Nat.mul_one]
    omega

theorem State.leave_heldAt {s : State} (k : Packet) (p : Fin 6) :
    let t := s.leave (heldAt k p)
    t = { s with weir := { s.weir with ports := t.weir.ports, epOut := s.weir.epOut.set (packetPlace k) (s.weir.epOut.get 0 (packetPlace k) + 1) } } ∧
      (t.weir.ports.get p).rxStream = (s.weir.ports.get p).rxStream :=
  State.modPort_atPort (s.leaveChannel k.epoch k.channel) p
    (f := fun y => Port.reflow { y with rxWords := y.rxWords.set k.channel (y.rxWords.get 0 k.channel - k.words) }) fun _ => rfl

theorem State.discard_heldAt {s u : State} {k : Packet} {p : Fin 6} {rest : List Byte} (hu : s.received u p k rest) (c : Nat) :
    let t := u.discard (heldAt k p) c
    t = { s with weir := t.weir } ∧ (t.weir.ports.get p).rxStream = rest ∧ t.weir.cnt.get 0 c = satInc (s.weir.cnt.get 0 c) ∧
      t.weir.delivered = s.weir.delivered ∧ t.weir.epIn.get 0 (packetPlace k) = s.weir.epIn.get 0 (packetPlace k) + 1 ∧
      t.weir.epOut.get 0 (packetPlace k) = s.weir.epOut.get 0 (packetPlace k) + 1 := by
  obtain ⟨hu, hp⟩ := hu
  obtain ⟨hl, hlp⟩ := u.leave_heldAt k p
  intro t
  obtain ⟨v, hv⟩ : ∃ v, v = u.leave (heldAt k p) := ⟨_, rfl⟩
  rw [← hv] at hl hlp
  have ht : t = { v with weir := { v.weir with cnt := bump v.weir.cnt c } } := by rw [hv]; rfl
  refine ⟨?_, ?_, ?_, ?_, ?_, ?_⟩
  · rw [ht, hl, hu]
  · rw [ht]; exact hlp.trans hp
  · rw [ht, hl, hu]; exact Tbl.get_set_self _ _ _ _
  · rw [ht, hl, hu]
  · rw [ht, hl, hu]; exact Tbl.get_set_self _ _ _ _
  · rw [ht, hl, hu]; exact Tbl.get_set_self _ _ _ _

theorem State.deliver_heldAt {s u : State} {k : Packet} {p : Fin 6} {rest : List Byte} (hu : s.received u p k rest)
    (hmark : k.mark = false) (hop : k.opcode ≠ 3) :
    let t := (u.leave (heldAt k p)).deliver k
    t = { s with weir := t.weir } ∧ t.weir.delivered = s.weir.delivered ++ [k] ∧ (t.weir.ports.get p).rxStream = rest ∧
      t.weir.cnt = s.weir.cnt ∧ t.weir.epIn.get 0 (packetPlace k) = s.weir.epIn.get 0 (packetPlace k) + 1 ∧
      t.weir.epOut.get 0 (packetPlace k) = s.weir.epOut.get 0 (packetPlace k) + 1 := by
  obtain ⟨hu, hp⟩ := hu
  obtain ⟨hl, hlp⟩ := u.leave_heldAt k p
  intro t
  obtain ⟨v, hv⟩ : ∃ v, v = u.leave (heldAt k p) := ⟨_, rfl⟩
  rw [← hv] at hl hlp
  have ht : t = { v with weir := { v.weir with delivered := v.weir.delivered ++ [k] } } := by
    change State.deliver (u.leave (heldAt k p)) k = _
    rw [← hv]
    have hecho : v.echoFor k = v := if_pos (by simp [hmark])
    unfold State.deliver
    simp only [hecho, hop, false_and, if_false]
  refine ⟨?_, ?_, ?_, ?_, ?_, ?_⟩
  · rw [ht, hl, hu]
  · rw [ht, hl, hu]
  · rw [ht]; exact hlp.trans hp
  · rw [ht, hl, hu]
  · rw [ht, hl, hu]; exact Tbl.get_set_self _ _ _ _
  · rw [ht, hl, hu]; exact Tbl.get_set_self _ _ _ _

theorem Weir.route_own {w : Weir} {k : Packet} (arr : Option (Fin 6)) (hdest : k.dest.toNat = (w.bank k.epoch).addr)
    (hover : ((w.bank k.epoch).overrides.get 0 (w.bank k.epoch).addr).getLsbD 15 = false) : w.route k arr = .deliver := by
  unfold Weir.route
  simp only [hdest, hover, Bool.false_eq_true, if_false, if_true]

theorem packetsAreDeliveredOrDiscarded : Claims.PacketsAreDeliveredOrDiscarded := by
  intro p k rest s x w b e counted hst hlen hr hh hw
  obtain ⟨u, hu, hexec⟩ := exec_packetReceive_whole hst hlen hr hh hw
  have hlive : u.weir.epochLive k.epoch = w.epochLive k.epoch := by rw [hu.1]; rfl
  refine ⟨fun hop hl hhops hdest hover hmark hop3 => ?_, fun hop => ?_, fun hop hl => ?_, fun hop hl hhops => ?_⟩
  · obtain hd := State.deliver_heldAt hu hmark hop3
    refine ⟨_, ?_, hd⟩
    have hroute : u.weir.route k (some p) = .deliver := Weir.route_own _ (by rw [hu.1]; exact hdest) (by rw [hu.1]; exact hover)
    rw [hexec, if_neg (by simp [hop]), if_neg (by simp [hlive, hl]), if_neg (by omega), State.routePacket]
    simp only [heldAt, hroute]
  · exact ⟨_, hexec.trans (congrArg Host.Outcome.next (if_pos (by simp [hop]))), State.discard_heldAt hu 5⟩
  · refine ⟨_, hexec.trans (congrArg Host.Outcome.next ?_), State.discard_heldAt hu 0⟩
    rw [if_neg (by simp [hop]), if_pos (by simp [hlive, hl])]
  · refine ⟨_, hexec.trans (congrArg Host.Outcome.next ?_), State.discard_heldAt hu 2⟩
    rw [if_neg (by simp [hop]), if_neg (by simp [hlive, hl]), if_pos hhops]

/-! ### Routes (R379, R380) -/

theorem linksOk_nil (n own k : Nat) (plus : Bool) : linksOk [] n own k plus = true := by
  simp [linksOk]

theorem chooseDir_nil {n own dest : Nat} (hown : own < n) :
    let ahead := (dest + n - own) % n
    chooseDir [] n own dest = some (decide (ahead < n - ahead ∨ (ahead = n - ahead ∧ own % 2 = 0))) := by
  intro ahead
  have hdist : ringDist n own dest true = ahead := by simp [ringDist, Nat.mod_eq_of_lt hown, ahead]
  unfold chooseDir
  simp only [hdist, linksOk_nil, Bool.and_self, if_true]
  rcases lt_trichotomy ahead (n - ahead) with h | h | h
  · simp [h]
  · simp [← h, beq_eq_decide]
  · have hne : ¬ahead = n - ahead := by omega
    simp [h, not_lt.mpr h.le, hne]

theorem portOf_eq (d : Fin 3) (P : Prop) [Decidable P] (h : 2 * d.val + (if P then 1 else 0) < 6) :
    portOf d.val (decide P) = ⟨2 * d.val + (if P then 1 else 0), h⟩ := by
  refine Fin.ext ?_
  simp only [portOf, decide_eq_true_eq]
  exact Nat.mod_eq_of_lt h

theorem find_first_dim {own dest : Nat → Nat} {d : Fin 3} (hbelow : ∀ e < d.val, dest e = own e) (hd : dest d.val ≠ own d.val) :
    (List.range 3).find? (fun e => dest e != own e) = some d.val := by
  rw [List.find?_range_eq_some]
  exact ⟨by simpa using hd, by simp, fun j hj => by simp [hbelow j hj]⟩

theorem routesGoTheShorterWay : Claims.RoutesGoTheShorterWay := by
  intro k arr d w b dest n ahead plus hesc hover hdest hbelow hd hown hcoord hbreaks hgap
  have hfind := find_first_dim (own := b.own) (dest := coordOf dest) hbelow hd
  have hmax : max 1 (b.size d.val) = n := Nat.max_eq_right (by omega)
  have hdir : chooseDir [] n (b.own d.val) (coordOf dest d.val) = some (decide plus) := chooseDir_nil hown
  refine ⟨false || w.nextVc b k arr (portOf d.val (decide plus)), ?_⟩
  unfold Weir.route
  simp only [show (w.bank k.epoch) = b from rfl, show k.dest.toNat = dest from rfl, hover, hdest, hfind, hesc, hmax, hbreaks, hdir,
    Bool.false_eq_true, if_false, Option.orElse, hgap]
  exact congrArg (fun q => Hop.out q _) (portOf_eq d plus _)

/-! ### Route commands (R384, R386, R397, R489) -/

theorem entryOk_of {own dest : Nat} {e : W16} (hlow : e.extractLsb' 0 11 = 0) (hown : e.extractLsb' 12 4 = 0xE → dest = own) :
    entryOk own dest e = true := by
  have hlow' : bits e 10 0 = 0 := by
    have h := congrArg BitVec.toNat hlow
    rwa [BitVec.extractLsb'_toNat] at h
  have hport : e.getLsbD 15 = true → bits e 14 12 = 6 → e.extractLsb' 12 4 = 0xE := by
    intro h15 h6
    refine BitVec.eq_of_toNat_eq ?_
    rw [BitVec.extractLsb'_toNat]
    have h15' : e.toNat / 2 ^ 15 % 2 = 1 := by
      rw [BitVec.getLsbD, Nat.testBit_eq_decide_div_mod_eq] at h15
      exact of_decide_eq_true h15
    simp only [bits, Nat.shiftRight_eq_div_pow] at h6 ⊢
    have := e.isLt
    change _ = 14
    omega
  unfold entryOk
  simp only [hlow', beq_self_eq_true, Bool.true_and, Bool.or_eq_true, Bool.not_eq_true', Bool.and_eq_false_iff, beq_iff_eq]
  by_cases h15 : e.getLsbD 15 = true
  · by_cases h6 : bits e 14 12 = 6
    · exact .inr (hown (hport h15 h6))
    · exact .inl (.inr (beq_false_of_ne h6))
  · exact .inl (.inl (by simpa using h15))

theorem firstBad_none {n : Nat} {ok : Nat → Bool} (h : ∀ i < n, ok i = true) : firstBad n ok = none := by
  unfold firstBad
  rw [List.find?_eq_none]
  intro i hi
  simp [h i (List.mem_range.mp hi)]

theorem get_foldl_entries (first : Nat) (f : Nat → W16) (t : Tbl W16) (dest : Nat) : ∀ count : Nat,
    ((List.range count).foldl (fun (t : Tbl W16) i => t.set (first + i) (f i)) t).get 0 dest =
      if first ≤ dest ∧ dest < first + count then f (dest - first) else t.get 0 dest
  | 0 => by rw [List.range_zero, List.foldl_nil, if_neg (by omega)]
  | count + 1 => by
    rw [List.range_succ, List.foldl_append, List.foldl_cons, List.foldl_nil, Tbl.get_set_eq, get_foldl_entries first f t dest count]
    by_cases hd : dest = first + count
    · rw [if_pos hd, if_pos (by omega), hd, Nat.add_sub_cancel_left]
    · rw [if_neg hd]
      exact if_congr (by omega) rfl rfl

theorem Weir.bank_putBank (w : Weir) (e : BitVec 2) (b : RouteBank) :
    (w.putBank (e + 1) b).bank (e + 1) = b ∧ (w.putBank (e + 1) b).bank e = w.bank e := by
  have hbit : (e + 1).getLsbD 0 = !e.getLsbD 0 := by
    revert e
    decide
  unfold Weir.putBank Weir.bank
  rw [hbit]
  cases e.getLsbD 0 <;> simp

theorem routeCommandsSwitchBanks : Claims.RouteCommandsSwitchBanks := by
  intro n entries s b w next done
  refine ⟨fun hserv hlen hok => ?_, fun hserv h0 => ?_, fun hserv h1 => ?_, fun hserv => ?_⟩
  · obtain ⟨ov, hov⟩ : ∃ ov, ov = (List.range (b.arg 2)).foldl (fun (t : Tbl W16) i => t.set (b.arg 1 + i) (entries.getD i 0))
        (stageGeometry w.idle (b.arg 0)).overrides := ⟨_, rfl⟩
    obtain ⟨v, hv⟩ : ∃ v, v = w.putBank next { stageGeometry w.idle (b.arg 0) with overrides := ov } := ⟨_, rfl⟩
    obtain ⟨hnext, hinj⟩ := w.bank_putBank w.inj { stageGeometry w.idle (b.arg 0) with overrides := ov }
    have hput : v = { w with bank0 := v.bank0, bank1 := v.bank1 } := by
      rw [hv]
      unfold Weir.putBank
      split <;> rfl
    rw [show w.putBank (w.inj + 1) _ = v from hv.symm] at hnext hinj
    have hbad : firstBad (b.arg 2) (fun i => entryOk (stageGeometry w.idle (b.arg 0)).addr (b.arg 1 + i) (entries.getD i 0)) = none :=
      firstBad_none fun i hi => entryOk_of (hok i hi).1 (hok i hi).2
    refine ⟨{ s with weir := { v with staged := b.arg 4 == 1 } }, ?_, ?_, ?_, ?_, ?_⟩
    · refine congrArg Host.Outcome.next ((State.serve_serving hserv _).trans ((if_neg (not_lt.mpr hlen)).trans ?_))
      simp only [show s.weir = w from rfl, show s.boxes.get n = b from rfl, hbad, ← hov, show w.inj + 1 = next from rfl, ← hv]
      rfl
    · rw [hput]
    · exact hinj
    · have hkeep : v.bank (w.inj + 1) = { stageGeometry w.idle (b.arg 0) with overrides := (v.bank (w.inj + 1)).overrides } := by
        rw [hnext]
      exact hkeep
    · intro dest
      change (v.bank (w.inj + 1)).overrides.get 0 dest = _
      rw [hnext]
      change ov.get 0 dest = _
      rw [hov]
      exact get_foldl_entries (b.arg 1) (fun i => entries.getD i 0) _ dest (b.arg 2)
  · intro u
    refine congrArg Host.Outcome.next ((State.serve_serving hserv _).trans ((if_neg (not_not.mpr h0)).trans ?_))
    simp only [setBit_true_eq_or]
    rfl
  · intro u
    refine congrArg Host.Outcome.next ((State.serve_serving hserv _).trans ((if_neg (not_not.mpr h1)).trans ?_))
    simp only [setBit_false_eq_and]
    rfl
  · exact congrArg Host.Outcome.next (State.serve_serving hserv _)

/-- Settles O30: injection and an output's turn, a whole packet received, the route without a break, and the route commands. -/
theorem packetsAreSentRoutedAndDelivered : Obligations.PacketsAreSentRoutedAndDelivered :=
  ⟨outputsSendByClass, packetsAreDeliveredOrDiscarded, routesGoTheShorterWay, routeCommandsSwitchBanks⟩

end Sys2Proof.Machine
end

section
/-! Collectives: opening, node additions, completion, chunks and their acknowledgement (R409 to R421, R426, R432). -/

namespace Sys2Proof.Machine

/-! ### What an open collective keeps (R409) -/

/-- Two states of one open collective: its nodes' values and its results alone differ. -/
def OpenColl.sameRun (x y : OpenColl) : Prop := y = { x with nodes := y.nodes, results := y.results }

theorem OpenColl.sameRun_trans {x y z : OpenColl} (h : x.sameRun y) (h' : y.sameRun z) : x.sameRun z := by
  unfold OpenColl.sameRun at *
  rw [h', h]

/-- Every open collective is still open. -/
def State.keepsOpen (s t : State) : Prop := ∀ x ∈ s.coll.opened, ∃ y ∈ t.coll.opened, x.sameRun y

theorem State.keepsOpen_of_eq {s t : State} (h : t.coll.opened = s.coll.opened) : s.keepsOpen t := fun x hx => ⟨x, h ▸ hx, rfl⟩

theorem State.keepsOpen_trans {s t u : State} (h : s.keepsOpen t) (h' : t.keepsOpen u) : s.keepsOpen u := by
  intro x hx
  obtain ⟨y, hy, hxy⟩ := h x hx
  obtain ⟨z, hz, hyz⟩ := h' y hy
  exact ⟨z, hz, OpenColl.sameRun_trans hxy hyz⟩

theorem State.keepsOpen_foldl {α : Type} {f : State → α → State} (hf : ∀ (s : State) (x : α), s.keepsOpen (f s x)) :
    ∀ (l : List α) (s : State), s.keepsOpen (l.foldl f s)
  | [], _ => State.keepsOpen_of_eq rfl
  | x :: l, s => State.keepsOpen_trans (hf s x) (State.keepsOpen_foldl hf l (f s x))

theorem State.modColl_keepsOpen (s : State) (coll occ : Nat) {f : OpenColl → OpenColl} (hf : ∀ x : OpenColl, x.sameRun (f x)) :
    s.keepsOpen (s.modColl coll occ f) := by
  intro x hx
  refine ⟨_, List.mem_map.mpr ⟨x, hx, rfl⟩, ?_⟩
  split
  · exact hf x
  · rfl

theorem State.sendChunk_keepsOpen (s : State) (dest : Nat) (id : ChunkId) (d : ChunkData) : s.keepsOpen (s.sendChunk dest id d) :=
  State.keepsOpen_of_eq rfl

theorem State.feed_keepsOpen (s : State) (coll occ a m c : Nat) (d : ChunkData) : s.keepsOpen (s.feed coll occ a m c d) := by
  unfold State.feed
  split
  · exact State.keepsOpen_of_eq rfl
  split
  · exact State.keepsOpen_of_eq rfl
  split
  · exact State.keepsOpen_of_eq rfl
  split
  · exact s.modColl_keepsOpen coll occ fun _ => rfl
  · exact s.sendChunk_keepsOpen _ _ _

theorem State.takeResult_keepsOpen (s : State) (coll occ c : Nat) (d : ChunkData) : s.keepsOpen (s.takeResult coll occ c d) := by
  unfold State.takeResult
  split
  · exact State.keepsOpen_of_eq rfl
  · refine State.keepsOpen_trans (s.modColl_keepsOpen coll occ (f := fun x => { x with results := x.results.set c d }) fun _ => rfl) ?_
    simp only []
    split
    · exact State.keepsOpen_of_eq rfl
    · exact State.keepsOpen_of_eq rfl
    · exact State.keepsOpen_foldl (fun t r => t.sendChunk_keepsOpen _ _ _) _ _

theorem State.takeEarly_keepsOpen (s : State) (e : ChunkId × ChunkData) : s.keepsOpen (s.takeEarly e) := by
  unfold State.takeEarly
  split
  · exact s.takeResult_keepsOpen _ _ _ _
  · exact s.modColl_keepsOpen _ _ fun _ => rfl

/-- The collective that has opened is there, as it was declared. -/
theorem State.openColl_opened (s : State) (coll occ : Nat) (op : CollOp) (fmt : CollFmt) (chunks : Nat) (own : Tbl ChunkData)
    (absent : List Nat) :
    ∃ x ∈ (s.openColl coll occ op fmt chunks own absent).coll.opened, x.coll = coll ∧ x.occ = occ ∧ x.op = op ∧ x.fmt = fmt ∧
      x.chunks = chunks ∧ x.own = own ∧ x.step = s.record.globalStep ∧ x.epoch = s.record.epoch ∧ x.absent = absent := by
  unfold State.openColl
  simp only []
  generalize List.filter _ s.coll.early = later
  obtain ⟨x, hx⟩ : ∃ x : OpenColl, x = ⟨coll, occ, op, fmt, chunks, s.record.globalStep, s.record.epoch, own, [], [], absent,
    s.weir.tooMany ||| (List.range 3).foldl (fun (b : BitVec 3) d => setBit b d (!(Tbl.get [] s.weir.breaks d).isEmpty)) 0, []⟩ := ⟨_, rfl⟩
  rw [← hx]
  generalize List.filter _ s.coll.early = early
  obtain ⟨u, hu⟩ : ∃ u : State, u = { s with coll := { s.coll with opened := s.coll.opened ++ [x], early := later } } := ⟨_, rfl⟩
  have hmem : x ∈ u.coll.opened := by
    rw [hu]
    exact List.mem_append_right _ (List.mem_singleton.mpr rfl)
  suffices h : ∀ t : State, u.keepsOpen t → ∃ y ∈ (early.foldl State.takeEarly t).coll.opened, y.coll = coll ∧ y.occ = occ ∧ y.op = op ∧
      y.fmt = fmt ∧ y.chunks = chunks ∧ y.own = own ∧ y.step = s.record.globalStep ∧ y.epoch = s.record.epoch ∧ y.absent = absent by
    refine h _ ?_
    rw [hu]
    split
    · split
      · exact State.keepsOpen_foldl (fun t p => t.takeResult_keepsOpen _ _ _ _) _ _
      · exact State.keepsOpen_of_eq rfl
    · exact State.keepsOpen_foldl (fun t p => t.takeResult_keepsOpen _ _ _ _) _ _
    · split
      · exact State.keepsOpen_of_eq rfl
      · exact State.keepsOpen_foldl (fun t p => t.feed_keepsOpen _ _ _ _ _ _) _ _
  intro t ht
  obtain ⟨y, hy, hxy⟩ := State.keepsOpen_trans ht (State.keepsOpen_foldl State.takeEarly_keepsOpen early t) x hmem
  refine ⟨y, hy, ?_⟩
  rw [hxy, hx]
  exact ⟨rfl, rfl, rfl, rfl, rfl, rfl, rfl, rfl, rfl⟩

/-! ### Opening (R409, R423, R432) -/

/-- The end of STALL_REMOTE touches the throttle reasons alone (R424). -/
theorem State.setThr_off (s : State) (c : Nat) : ∃ sluice, s.setThr c false = { s with sluice := sluice } := by
  unfold State.setThr
  simp only [Bool.false_and, Bool.false_eq_true, if_false]
  split
  · exact ⟨_, rfl⟩
  · exact ⟨_, rfl⟩

theorem State.stallCheck_frame (s : State) : ∃ sluice, s.stallCheck = { s with sluice := sluice } := by
  unfold State.stallCheck
  simp only []
  split
  · exact ⟨_, rfl⟩
  · exact s.setThr_off 9

/-- The conditions under which a member opens a collective (R27, R409, R432). -/
def State.mayOpenColl (s : State) (coll occ : Nat) (op : CollOp) (fmt : CollFmt) (chunks : Nat) : Prop :=
  s.job.running = true ∧ s.record.held = true ∧ s.coll.state = 1 ∧ coll < 0xFFE ∧ s.collDue coll occ op fmt chunks = true ∧
    (∀ x ∈ s.coll.opened, x.coll ≠ coll ∨ x.occ ≠ occ) ∧ 16 * coll + occ ∉ s.coll.finished

theorem State.findColl_none {s : State} {coll occ : Nat} (h : ∀ x ∈ s.coll.opened, x.coll ≠ coll ∨ x.occ ≠ occ) :
    s.findColl coll occ = none := by
  unfold State.findColl
  rw [List.find?_eq_none]
  intro x hx hno
  simp only [OpenColl.isNo, Bool.and_eq_true, beq_iff_eq] at hno
  exact (h x hx).elim (fun h => h hno.1) (fun h => h hno.2)

theorem exec_collectiveOpen {coll occ : Nat} {op : CollOp} {fmt : CollFmt} {chunks : Nat} {s : State} (own : Tbl ChunkData)
    (h : s.mayOpenColl coll occ op fmt chunks) :
    exec (.collectiveOpen coll occ op fmt chunks own) s = .next (
      if s.isExchange coll then
        match s.coll.started with
        | none => s
        | some (absent, _) =>
          if s.record.phase ≠ 6 then s
          else
            let (mine, ev) := s.contribution fmt own
            let late := absent.contains s.coll.rank
            let s := (s.countColl 6 ev)
            let s := { s with job := { s.job with leftOut := if late && s.job.policy.drop != 1 then some mine else none } }
            (s.openColl coll occ op fmt chunks mine absent).stallCheck
      else ((s.setThr 9 true).openColl coll occ op fmt chunks own []).stallCheck) := by
  obtain ⟨hrun, hheld, hstate, hcoll, hdue, hopen, hfin⟩ := h
  have hlt : ¬0xFFE ≤ coll := by omega
  refine congrArg Host.Outcome.next (if_neg ?_)
  simp [hrun, hheld, hstate, hlt, hdue, State.findColl_none hopen, hfin]

/-- A collective opened from a state that differs in the throttle reasons and the job's left-out part. -/
theorem State.openColl_opens {s u : State} (coll occ : Nat) (op : CollOp) (fmt : CollFmt) (chunks : Nat) (own : Tbl ChunkData)
    (absent : List Nat) {leftOut : Option (Tbl ChunkData)} {sluice : Sluice} {cxl : Cxl} {outbox : List Msg} {cnt : Tbl W32}
    (hu : u = { s with sluice := sluice, cxl := cxl, outbox := outbox, coll := { s.coll with cnt := cnt }
                       job := { s.job with leftOut := leftOut } }) :
    let t := (u.openColl coll occ op fmt chunks own absent).stallCheck
    t = { s with coll := t.coll, sluice := t.sluice, cxl := t.cxl, outbox := t.outbox, job := t.job } ∧
      t.job = { s.job with leftOut := t.job.leftOut } ∧
      ∃ x ∈ t.coll.opened, x.coll = coll ∧ x.occ = occ ∧ x.op = op ∧ x.fmt = fmt ∧ x.chunks = chunks ∧ x.own = own ∧
        x.step = s.record.globalStep ∧ x.epoch = s.record.epoch ∧ x.absent = absent := by
  intro t
  have hopened := u.openColl_opened coll occ op fmt chunks own absent
  have heng := u.openColl_engaged coll occ op fmt chunks own absent
  obtain ⟨v, hv⟩ : ∃ v, v = u.openColl coll occ op fmt chunks own absent := ⟨_, rfl⟩
  rw [← hv] at hopened heng
  obtain ⟨sl, hsl⟩ := v.stallCheck_frame
  have ht : t = { v with sluice := sl } := by rw [← hsl, hv]
  rw [ht]
  refine ⟨?_, ?_, ?_⟩
  · rw [heng, hu]
  · rw [heng, hu]
  · rw [hu] at hopened
    exact hopened

theorem collectivesOpenWhileHeld : Claims.CollectivesOpenWhileHeld := by
  intro coll occ chunks op fmt own s c opens
  refine ⟨fun hrun hheld hstate hcoll hdue hopen hfin => ?_, fun h => ?_⟩
  · have hexec := exec_collectiveOpen own (show s.mayOpenColl coll occ op fmt chunks from ⟨hrun, hheld, hstate, hcoll, hdue, hopen, hfin⟩)
    refine ⟨fun hex => ?_, fun hex hst => ?_, fun absent carried hex hst hph hcarried => ?_⟩
    · obtain ⟨sluice, cxl, outbox, hthr⟩ := s.setThr_frame 9 true
      refine ⟨_, hexec.trans (congrArg Host.Outcome.next (if_neg (by simp [hex]))), ?_⟩
      exact State.openColl_opens coll occ op fmt chunks own [] (cnt := s.coll.cnt) (leftOut := s.job.leftOut) hthr
    · rw [hexec, if_pos hex]
      simp only [show s.coll.started = none from hst]
    · rw [hexec, if_pos hex]
      have hcontr : s.contribution fmt own = (own, 0) := by
        unfold State.contribution
        rw [hcarried]
      simp only [show s.coll.started = some (absent, carried) from hst, hcontr]
      refine ⟨_, congrArg Host.Outcome.next (if_neg (not_not.mpr hph)), ?_⟩
      exact State.openColl_opens coll occ op fmt chunks own absent (s := s) (sluice := s.sluice) (cxl := s.cxl) (outbox := s.outbox)
        (cnt := bumpBy s.coll.cnt 6 0) rfl
  · refine congrArg Host.Outcome.next (if_pos ?_)
    rcases h with h | h <;> simp [h]

/-! ### Nodes (R130, R411, R416) -/

theorem find?_map_same {α : Type} {p : α → Bool} {f : α → α} (hf : ∀ y, p (f y) = p y) : ∀ l : List α, (l.map f).find? p = (l.find? p).map f
  | [] => rfl
  | y :: l => by
    rw [List.map_cons, List.find?_cons, List.find?_cons, hf, find?_map_same hf l]
    cases p y <;> rfl

theorem State.findColl_modColl {s : State} {x : OpenColl} (h : s.findColl x.coll x.occ = some x) {f : OpenColl → OpenColl}
    (hf : ∀ y : OpenColl, (f y).coll = y.coll ∧ (f y).occ = y.occ) :
    (s.modColl x.coll x.occ f).findColl x.coll x.occ = some (f x) := by
  have hsame : ∀ y : OpenColl, OpenColl.isNo x.coll x.occ (if OpenColl.isNo x.coll x.occ y then f y else y) = OpenColl.isNo x.coll x.occ y := by
    intro y
    split
    · unfold OpenColl.isNo
      rw [(hf y).1, (hf y).2]
    · rfl
  change List.find? _ (s.coll.opened.map _) = _
  rw [find?_map_same hsame, show s.coll.opened.find? (OpenColl.isNo x.coll x.occ) = some x from h]
  exact congrArg some (if_pos (by simp [OpenColl.isNo]))

/-- A child's value is what is present for it (R416). -/
theorem State.childVal_present {s : State} {x : OpenColl} {a m c : Nat} {n : Nat × Nat × Nat × ChunkData}
    (h : (x.nodes.find? fun n => n.1 == a && n.2.1 == m && n.2.2.1 == c) = some n) : s.childVal x a m c = some n.2.2.2 := by
  unfold State.childVal
  rw [h]

/-- A node's value that its parent's rank waits for goes there (R416). -/
theorem State.feed_away {s : State} {x : OpenColl} {a m c r : Nat} {pr : Nat × Nat} (d : ChunkData)
    (hfind : s.findColl x.coll x.occ = some x) (hm : m ≠ 1) (hpar : treeParent 64 0 s.tableRanks (a, m) = some pr)
    (hrank : s.evalRank x pr.1 pr.2 c = some r) (hr : r ≠ s.coll.rank) :
    s.feed x.coll x.occ a m c d = s.sendChunk r (x.chunk .partialNode a m c) d := by
  unfold State.feed
  simp only [hfind, hpar, hrank, if_neg hr, if_neg hm]

theorem nodesAddTheirChildren : Claims.NodesAddTheirChildren := by
  intro x c a m r pr l q s p v child hfind hm hmn hc hnode hev hrank hpar hparRank hr hroom hl hq
  obtain ⟨f, hf⟩ : ∃ f : OpenColl → OpenColl, f = fun y => { y with nodes := y.nodes.filter (!child ·), evald := (a, m, c) :: y.evald } :=
    ⟨_, rfl⟩
  obtain ⟨u, hu⟩ : ∃ u : State, u = (s.countColl 6 (Ev.engine v.2)).modColl x.coll x.occ f := ⟨_, rfl⟩
  have hufind : u.findColl x.coll x.occ = some (f x) := by
    rw [hu]
    exact State.findColl_modColl (s := s.countColl 6 (Ev.engine v.2)) hfind fun y => by rw [hf]; exact ⟨rfl, rfl⟩
  have hid : ∀ y : OpenColl, (f y).coll = y.coll ∧ (f y).occ = y.occ ∧ (f y).chunk .partialNode a m c = y.chunk .partialNode a m c := by
    intro y
    rw [hf]
    exact ⟨rfl, rfl, rfl⟩
  have hfeed : u.feed x.coll x.occ a m c v.1 = u.sendChunk r (x.chunk .partialNode a m c) v.1 := by
    have h := State.feed_away (s := u) (x := f x) (a := a) (m := m) (c := c) (r := r) (pr := pr) v.1
      (by rw [(hid x).1, (hid x).2.1]; exact hufind) (by omega) (by rw [hu]; exact hpar) (by rw [hu, hf]; exact hparRank)
      (by rw [hu]; exact hr)
    rwa [(hid x).1, (hid x).2.1, (hid x).2.2] at h
  have hleft : s.childVal x a (2 ^ Nat.log2 (m - 1)) c = some l := State.childVal_present hl
  have hright : s.childVal x (a + 2 ^ Nat.log2 (m - 1)) (m - 2 ^ Nat.log2 (m - 1)) c = some q := State.childVal_present hq
  refine ⟨u.sendChunk r (x.chunk .partialNode a m c) v.1, ?_, ?_, ?_, ?_⟩
  · rw [← hfeed]
    change execNodeEvaluate x.coll x.occ c a m s = _
    unfold execNodeEvaluate
    simp only [hfind, hpar, hparRank, hrank, hroom, hnode, hleft, hright]
    refine congrArg Host.Outcome.next ((if_neg ?_).trans ?_)
    · simp [hev, hc]
      omega
    · simp only [show ¬m = s.tableRanks by omega, decide_false, Bool.false_eq_true, if_false]
      rw [hu, hf]
  · rw [hu]
    rfl
  · rw [hu, hf]
    refine List.map_congr_left fun y _ => if_congr ?_ rfl rfl
    simp [OpenColl.isNo]
  · rw [hu]
    change (bumpBy s.coll.cnt 6 (Ev.engine v.2)).get 0 6 = _
    rw [get_bumpBy]
    by_cases h0 : Ev.engine v.2 = 0 <;> simp [h0]

/-! ### Completion (R409, R419, R421) -/

theorem State.delivered_allGather {s : State} {x : OpenColl} (hex : s.isExchange x.coll = false) (hx : x.coll ≠ 0xFFE)
    (hop : x.op = .allGather) : s.delivered x = s := by
  unfold State.delivered
  simp only [if_neg (show ¬x.coll = collTAgreed from hx), hex, Bool.false_eq_true, if_false]
  split
  · split
    · split
      · next _ i _ _ n _ _ cop t _ =>
        cases i.tensors.find? fun d => d.id == t with
        | none => rfl
        | some d =>
          change s.storeResults i d x = s
          unfold State.storeResults
          simp only [hop, if_true]
      · rfl
    · rfl
  · rfl

/-- A complete collective is closed, its results kept (R419). -/
def State.closeColl (s : State) (x : OpenColl) : State :=
  { s with coll := { s.coll with
    opened := s.coll.opened.filter (!OpenColl.isNo x.coll x.occ ·), finished := (16 * x.coll + x.occ) :: s.coll.finished
    outputs := s.coll.outputs.set (16 * x.coll + x.occ) x.results } }

theorem State.event_parts (s : State) (code sev src : Nat) (args : List Nat) : ∃ log cxl outbox,
    s.event code sev src args = { s with log := log, cxl := cxl, outbox := outbox } := ⟨_, _, _, s.event_frame code sev src args⟩

/-- One that met a line is counted and recorded (R421). -/
def State.noteLine (s : State) (x : OpenColl) : State :=
  if x.line = 0 then s else (s.countColl 5 1).event 0x0058 1 srcColl [x.coll, x.line.toNat]

theorem State.noteLine_frame (s : State) (x : OpenColl) :
    let t := s.noteLine x
    t = { s with coll := { s.coll with cnt := t.coll.cnt }, log := t.log, cxl := t.cxl, outbox := t.outbox } ∧
      t.coll.cnt.get 0 5 = if x.line = 0 then s.coll.cnt.get 0 5 else satAdd (s.coll.cnt.get 0 5) 1 := by
  unfold State.noteLine
  split
  · exact ⟨rfl, rfl⟩
  · obtain ⟨log, cxl, outbox, he⟩ := (s.countColl 5 1).event_parts 0x0058 1 srcColl [x.coll, x.line.toNat]
    rw [he]
    exact ⟨rfl, (get_bumpBy _ 5 1 5).trans (if_pos ⟨by decide, rfl⟩)⟩

theorem exec_collectiveComplete {s : State} {x : OpenColl} (hfind : s.findColl x.coll x.occ = some x) (hout : s.holdsOutputs x = true)
    (hdone : s.nodesDone x = true) (hsent : ¬∃ y ∈ s.coll.sent, y.id.coll = x.coll ∧ y.id.occ = x.occ) :
    let u := ((s.delivered x).closeColl x).noteLine x
    ∃ both : Bool, exec (.collectiveComplete x.coll x.occ) s = .next (if both then u.setDone 6 else u).stallCheck := by
  intro u
  refine ⟨u.record.phase == 6 && (u.coll.finished.contains (16 * collTAgreed) &&
          (u.job.image.bind exchangeColl).any fun e => u.coll.finished.contains (16 * e)), ?_⟩
  change execCollectiveComplete x.coll x.occ s = _
  unfold execCollectiveComplete
  simp only [hfind]
  refine congrArg Host.Outcome.next ((if_neg ?_).trans rfl)
  simp only [hout, hdone, Bool.not_true, Bool.false_or, List.any_eq_true, Bool.and_eq_true, beq_iff_eq]
  exact hsent

theorem collectivesCloseWhenComplete : Claims.CollectivesCloseWhenComplete := by
  intro x s hfind sending
  refine ⟨fun h => ?_, fun hout hdone hsent hex hx => ?_⟩
  · change execCollectiveComplete x.coll x.occ s = _
    unfold execCollectiveComplete
    simp only [hfind]
    refine congrArg Host.Outcome.next (if_pos ?_)
    rcases h with h | h | ⟨y, hy, hcoll, hocc⟩
    · simp [h]
    · simp [h]
    · have hany : s.coll.sent.any (fun y => y.id.coll == x.coll && y.id.occ == x.occ) = true :=
        List.any_eq_true.mpr ⟨y, hy, by simp [hcoll, hocc]⟩
      simp only [hany, Bool.or_true]
  · intro d
    refine ⟨State.delivered_allGather hex hx, ?_⟩
    obtain ⟨both, hexec⟩ := exec_collectiveComplete hfind hout hdone hsent
    obtain ⟨hu, hcnt⟩ := (d.closeColl x).noteLine_frame x
    obtain ⟨u, hudef⟩ : ∃ u, u = (d.closeColl x).noteLine x := ⟨_, rfl⟩
    rw [← hudef] at hu hcnt
    rw [show ((s.delivered x).closeColl x).noteLine x = u from hudef.symm] at hexec
    obtain ⟨w, hw⟩ : ∃ w, w = if both then u.setDone 6 else u := ⟨_, rfl⟩
    have hwu : w = { u with record := { u.record with doneStep := w.record.doneStep, doneMask := w.record.doneMask } } := by
      rw [hw]
      cases both <;> rfl
    obtain ⟨sluice, hsl⟩ := w.stallCheck_frame
    rw [← hw, hsl] at hexec
    refine ⟨_, hexec, ?_, ?_, ?_, ?_, ?_⟩
    · rw [hwu, hu]
      rfl
    · rw [hwu, hu]
      rfl
    · rw [hwu, hu]
      rfl
    · rw [hwu, hu]
      exact Tbl.get_set_self _ _ _ _
    · rw [hwu]
      exact hcnt

/-- Settles O32: each command of the engine by its one case, over what an open collective keeps. -/
theorem collectivesOpenAddAndClose : Obligations.CollectivesOpenAddAndClose :=
  ⟨collectivesOpenWhileHeld, nodesAddTheirChildren, collectivesCloseWhenComplete⟩

end Sys2Proof.Machine
end

section
/-! Chunks accepted once, and kept by their sender until they are acknowledged (R416 to R420, R426). -/

namespace Sys2Proof.Machine

/-! ### Chunks that arrive (R416 to R418, R420, R426) -/

theorem exec_chunkArrives (src : Nat) (id : ChunkId) (data : ChunkData) (lost : Bool) (s : State) :
    exec (if id.kind = .result then .resultReceive src id data lost else .chunkReceive src id data lost) s =
      .next (match s.screened src id lost with | some s => s | none => s.accept src id data) := by
  by_cases h : id.kind = .result
  · rw [if_pos h]
    exact congrArg Host.Outcome.next (if_neg (not_not.mpr h))
  · rw [if_neg h]
    exact congrArg Host.Outcome.next (if_neg h)

theorem sameStream_self (id : ChunkId) : sameStream id id = true := by simp [sameStream]

theorem satAdd_bumpBy (t : Tbl W32) (k : Nat) : (bumpBy t k 1).get 0 k = satAdd (t.get 0 k) 1 :=
  (get_bumpBy t k 1 k).trans (if_pos ⟨by decide, rfl⟩)

/-- What an acknowledgement sends where a chunk of the stream is still due (R418). -/
theorem State.sendAck_due {s : State} {src : Nat} {id : ChunkId} {e : Nat × ChunkId × Bool} (he : e ∈ s.coll.accepted) (hsrc : e.1 = src)
    (hid : sameStream e.2.1 id = true) (hdue : e.2.2 = false) :
    ∃ c bitmap accepted, s.sendAck src id =
      { s with coll := { s.coll with accepted := accepted }, outbox := s.outbox ++ [.ack src { id with c := c } bitmap] } := by
  unfold State.sendAck
  simp only []
  split
  case h_1 hnil =>
    rw [List.map_eq_nil_iff, List.filter_eq_nil_iff] at hnil
    exact absurd (by simp [hdue]) (hnil e (List.mem_filter.mpr ⟨he, by simp [hsrc, hid]⟩))
  case h_2 => exact ⟨_, _, _, rfl⟩

/-- A chunk whose collective is not open is accepted and waits for it, with no acknowledgement below 1,024 that are due (R418). -/
theorem State.accept_early {s : State} {src : Nat} {id : ChunkId} (data : ChunkData)
    (hno : ∀ x ∈ s.coll.opened, x.coll ≠ id.coll ∨ x.occ ≠ id.occ)
    (hdue : (s.coll.accepted.filter fun e => e.1 == src && sameStream e.2.1 id && !e.2.2).length < 1023) :
    ∃ sluice, s.accept src id data = { s with sluice := sluice, coll := { s.coll with
      accepted := s.coll.accepted ++ [(src, id, false)], early := s.coll.early ++ [(id, data)] } } := by
  obtain ⟨u, hu⟩ : ∃ u : State, u = { s with coll := { s.coll with
    accepted := s.coll.accepted ++ [(src, id, false)], early := s.coll.early ++ [(id, data)] } } := ⟨_, rfl⟩
  have hfind : ({ s with coll := { s.coll with accepted := s.coll.accepted ++ [(src, id, false)] } } : State).findColl id.coll id.occ = none :=
    State.findColl_none hno
  have hless : ¬1024 ≤ (u.coll.accepted.filter fun e => e.1 == src && sameStream e.2.1 id && !e.2.2).length := by
    rw [hu]
    simp only [List.filter_append, List.length_append, List.filter_cons, List.filter_nil, beq_self_eq_true, sameStream_self, Bool.not_false,
      Bool.and_self, if_true, List.length_singleton]
    omega
  obtain ⟨sluice, hsl⟩ := u.stallCheck_frame
  refine ⟨sluice, ?_⟩
  have haccept : s.accept src id data = u.stallCheck := by
    unfold State.accept
    simp only [hfind, Option.any_none, Bool.false_eq_true, if_false]
    rw [hu] at hless ⊢
    exact congrArg State.stallCheck (if_neg hless)
  rw [haccept, hsl, hu]

theorem chunksAreAcceptedOnce : Claims.ChunksAreAcceptedOnce := by
  intro src id data lost s hrun hmem i known counted
  have hexec : exec i s = _ := exec_chunkArrives src id data lost s
  have hknown : (s.coll.accepted.any fun e => e.1 == src && e.2.1 == id) = true ↔ known := by
    simp only [List.any_eq_true, Bool.and_eq_true, beq_iff_eq]
    exact ⟨fun ⟨e, he, h1, h2⟩ => ⟨e.2.2, by rw [← h1, ← h2]; exact he⟩, fun ⟨b, hb⟩ => ⟨_, hb, rfl, rfl⟩⟩
  refine ⟨fun hep => ?_, fun hep hold => ⟨fun hk => ?_, fun hk hlost => ?_, fun hk hlost hno hdue => ?_⟩⟩
  · have hscr : s.screened src id lost = some (s.countColl 2 1) := by
      simp [State.screened, hrun, hmem, hep]
    rw [hscr] at hexec
    exact ⟨_, hexec, ⟨satAdd_bumpBy _ _, rfl, rfl, rfl, rfl⟩, rfl, rfl⟩
  · obtain ⟨u, hu⟩ : ∃ u : State, u = (({ s with coll := { s.coll with accepted := s.coll.accepted.map fun e =>
        if e.1 == src && e.2.1 == id then (e.1, e.2.1, false) else e } } : State).countColl 1 1) := ⟨_, rfl⟩
    have hscr : s.screened src id lost = some (u.sendAck src id) := by
      rw [hu]
      simp [State.screened, hrun, hmem, hep, hold, hknown.mpr hk]
    obtain ⟨b, hb⟩ := hk
    have hin : (src, id, false) ∈ u.coll.accepted := by
      rw [hu]
      exact List.mem_map.mpr ⟨_, hb, by simp⟩
    obtain ⟨c, bits, accepted, hack⟩ := State.sendAck_due hin rfl (sameStream_self id) rfl
    rw [hscr] at hexec
    refine ⟨_, hexec, ?_⟩
    simp only []
    rw [hack, hu]
    exact ⟨⟨satAdd_bumpBy _ _, rfl, rfl, rfl, rfl⟩, c, bits, rfl⟩
  · have hscr : s.screened src id lost = some (s.countColl 3 1) := by
      have hk' := (Bool.not_eq_true _).mp (mt hknown.mp hk)
      simp [State.screened, hrun, hmem, hep, hold, hk', hlost]
    rw [hscr] at hexec
    exact ⟨_, hexec, ⟨satAdd_bumpBy _ _, rfl, rfl, rfl, rfl⟩, rfl, rfl⟩
  · have hscr : s.screened src id lost = none := by
      have hk' := (Bool.not_eq_true _).mp (mt hknown.mp hk)
      simp [State.screened, hrun, hmem, hep, hold, hk', hlost]
    obtain ⟨sluice, hacc⟩ := State.accept_early data hno hdue
    rw [hscr] at hexec
    refine ⟨_, hexec, ?_⟩
    simp only []
    rw [hacc]
    exact ⟨rfl, rfl⟩

/-! ### Acknowledgement and retransmission (R418 to R420) -/

/-- A chunk sent again (R419). -/
def State.resent (s : State) (x : Sent) : State :=
  { s with coll := { s.coll with sent := s.coll.sent.map fun (y : Sent) =>
      if y.dest == x.dest && y.id == x.id then { y with resends := y.resends + 1 } else y } }

theorem exec_chunkRetransmit {s : State} {x : Sent} (hfind : (s.coll.sent.find? fun y => y.dest == x.dest && y.id == x.id) = some x)
    (readable : Bool) :
    exec (.chunkRetransmit x.dest x.id readable) s = .next (
      if x.id.kind ≠ .partialNode && !readable then
        ((s.fresh.2.event 0x0059 3 srcColl [x.id.coll, s.fresh.1.toNat]).abortStep)
      else
        ((if x.resends = 4 then (s.resent x).reportSuspect (BitVec.ofNat 15 x.dest) 1 else s.resent x).countColl 0 1).send
          (.chunk x.dest x.id x.data)) := by
  change execChunkRetransmit x.dest x.id readable s = _
  unfold execChunkRetransmit
  simp only [hfind]
  rfl

theorem State.resent_mem {s : State} {x : Sent} (hx : x ∈ s.coll.sent) : { x with resends := x.resends + 1 } ∈ (s.resent x).coll.sent :=
  List.mem_map.mpr ⟨x, hx, if_pos (by simp)⟩

/-- The acknowledgement of a stream of one chunk (R418). -/
theorem State.sendAck_one {s : State} {src : Nat} {id : ChunkId} {c : Nat}
    (hmine : (s.coll.accepted.filter fun e => e.1 == src && sameStream e.2.1 id) = [(src, { id with c := c }, false)]) :
    s.sendAck src id = (({ s with coll := { s.coll with accepted := (s.coll.accepted.map fun e =>
      if e.1 == src && sameStream e.2.1 id && decide (c ≤ e.2.1.c) && decide (e.2.1.c < c + 1) then (e.1, e.2.1, true) else e) } } : State).send
        (.ack src { id with c := c } [true])) := by
  have hone : min 16384 (max 0 (c + 1) - c) = 1 := by omega
  have hbits : ((List.range 1).map fun k => c == c + k) = [true] := by simp [List.range_one]
  unfold State.sendAck
  simp only [hmine, List.filter_cons, List.filter_nil, Bool.not_false, if_true, List.map_cons, List.map_nil, List.foldl_nil, List.foldl_cons,
    hone, List.any_cons, List.any_nil, Bool.or_false, hbits]
  rfl

theorem chunksAreKeptUntilAcknowledged : Claims.ChunksAreKeptUntilAcknowledged := by
  intro src id bitmap x s
  refine ⟨⟨_, rfl, rfl, ?_⟩, fun hfind => ⟨fun hre => ?_, fun hre => ?_, fun hk => ?_⟩, fun c hmine => ?_⟩
  · simp only [List.mem_filter]
    refine and_congr_right fun _ => ?_
    rw [Bool.not_eq_true', ← Bool.not_eq_true]
    refine not_congr ?_
    simp only [Bool.and_eq_true, beq_iff_eq, decide_eq_true_eq, and_assoc]
  · refine ⟨_, (exec_chunkRetransmit hfind true).trans (congrArg Host.Outcome.next ((if_neg (by simp)).trans rfl)), ?_⟩
    rw [if_neg hre]
    exact ⟨rfl, rfl, State.resent_mem (List.mem_of_find?_eq_some hfind)⟩
  · refine ⟨_, (exec_chunkRetransmit hfind true).trans (congrArg Host.Outcome.next ((if_neg (by simp)).trans rfl)), ?_⟩
    rw [if_pos hre]
    rfl
  · refine ⟨s.fresh.1.toNat, (exec_chunkRetransmit hfind false).trans (congrArg Host.Outcome.next ((if_pos ?_).trans rfl))⟩
    simp [hk]
  · refine ⟨_, congrArg Host.Outcome.next (State.sendAck_one hmine), rfl, ?_⟩
    intro e he hsrc hstream
    obtain ⟨e', he', hee⟩ := List.mem_map.mp he
    have hmem : e' ∈ s.coll.accepted.filter fun e => e.1 == src && sameStream e.2.1 id := by
      refine List.mem_filter.mpr ⟨he', ?_⟩
      have hsame : e'.1 = e.1 ∧ e'.2.1 = e.2.1 := by
        rw [← hee]
        split <;> exact ⟨rfl, rfl⟩
      rw [hsame.1, hsame.2, hsrc, hstream, beq_self_eq_true, Bool.and_self]
    rw [hmine, List.mem_singleton] at hmem
    rw [← hee, hmem, if_pos]
    simp [sameStream]

/-- Settles O33: a chunk's arrival by what the screen answers, and the sender's copy by the chunk's identity. -/
theorem chunksAreAcceptedAndAcknowledged : Obligations.ChunksAreAcceptedAndAcknowledged :=
  ⟨chunksAreAcceptedOnce, chunksAreKeptUntilAcknowledged⟩

end Sys2Proof.Machine
end

section
/-! The exchange window and the commands that go to a whole job (R228, R310 to R313, R336, R422, R423, R493). -/

namespace Sys2Proof.Machine

/-! ### START (R311, R312, R423) -/

/-- The exchange has started from `s` with the absent and the carried ranks named. -/
def State.startedFrom (s t : State) (ab ca : List Nat) : Prop :=
  t.coll.started = some (ab, ca) ∧ t.coll.window = false ∧ t.coll.startNs = s.keeper.uptime ∧
    t.record.globalStep = s.record.globalStep ∧ t.record.phase = s.record.phase ∧
    t.coll.carrying = (if s.job.policy.drop = 1 then [] else s.actives.filter ab.contains) ∧
    ∀ p, s.actives.find? (!ab.contains ·) = some p → ∃ x ∈ t.coll.opened, x.coll = 0xFFE ∧ x.op = .broadcast p

/-- What START reads of the state is the same in both (R423). -/
def State.sameMembers (s t : State) : Prop :=
  t.keeper = s.keeper ∧ t.record.globalStep = s.record.globalStep ∧ t.record.phase = s.record.phase ∧ t.job = s.job ∧
    t.coll.table = s.coll.table

theorem State.sameMembers_trans {s t u : State} (h : s.sameMembers t) (h' : t.sameMembers u) : s.sameMembers u :=
  ⟨h'.1.trans h.1, h'.2.1.trans h.2.1, h'.2.2.1.trans h.2.2.1, h'.2.2.2.1.trans h.2.2.2.1, h'.2.2.2.2.trans h.2.2.2.2⟩

theorem State.sameMembers_foldl {α : Type} {f : State → α → State} (hf : ∀ (s : State) (x : α), s.sameMembers (f s x)) :
    ∀ (l : List α) (s : State), s.sameMembers (l.foldl f s)
  | [], _ => ⟨rfl, rfl, rfl, rfl, rfl⟩
  | x :: l, s => State.sameMembers_trans (hf s x) (State.sameMembers_foldl hf l (f s x))

theorem State.sameMembers.startedFrom {s u t : State} {ab ca : List Nat} (h : s.sameMembers u) (ht : u.startedFrom t ab ca) :
    s.startedFrom t ab ca := by
  obtain ⟨hk, hg, hp, hj, htab⟩ := h
  obtain ⟨h1, h2, h3, h4, h5, h6, h7⟩ := ht
  have hact : u.actives = s.actives := by unfold State.actives; rw [htab]
  refine ⟨h1, h2, h3.trans (by rw [hk]), h4.trans hg, h5.trans hp, ?_, ?_⟩
  · rw [h6, hj, hact]
  · rwa [hact] at h7

theorem State.takeStart_startedFrom (s : State) (ab ca : List Nat) : s.startedFrom (s.takeStart ab ca) ab ca := by
  obtain ⟨u, hu⟩ : ∃ u : State, u = ({ s with coll := { s.coll with
      started := some (ab, ca), window := false, startNs := s.keeper.uptime
      carrying := if s.job.policy.drop == 1 then [] else s.actives.filter ab.contains } } : State).modRunnel 0 fun r =>
        { r with cnt := if s.job.policy.drop == 1 then bumpBy (bumpBy r.cnt 3 (s.actives.filter ab.contains).length) 4
                   (s.actives.filter ab.contains).length
                 else bumpBy r.cnt 3 (s.actives.filter ab.contains).length } := ⟨_, rfl⟩
  have hact : u.actives = s.actives := by rw [hu]; rfl
  have ht : s.takeStart ab ca = match s.actives.find? (!ab.contains ·) with
      | some p => u.openColl collTAgreed 0 (.broadcast p) .binary32 8
          (if p = u.coll.rank then countChunks (u.job.own.t u.record.slot) else []) []
      | none => u := by
    rw [← hact, hu]
    rfl
  have hcarry : u.coll.carrying = if s.job.policy.drop = 1 then [] else s.actives.filter ab.contains := by
    rw [hu]
    exact if_congr (beq_iff_eq) rfl rfl
  have hrest : u.coll.started = some (ab, ca) ∧ u.coll.window = false ∧ u.coll.startNs = s.keeper.uptime ∧ u.record = s.record := by
    rw [hu]
    exact ⟨rfl, rfl, rfl, rfl⟩
  obtain ⟨hst, hwin, hns, hrec⟩ := hrest
  rw [ht]
  split
  · next p hp =>
    have heng := u.openColl_engaged collTAgreed 0 (.broadcast p) .binary32 8
      (if p = u.coll.rank then countChunks (u.job.own.t u.record.slot) else []) []
    obtain ⟨x, hx, hcoll, -, hop, -⟩ := u.openColl_opened collTAgreed 0 (.broadcast p) .binary32 8
      (if p = u.coll.rank then countChunks (u.job.own.t u.record.slot) else []) []
    obtain ⟨v, hv⟩ : ∃ v, v = u.openColl collTAgreed 0 (.broadcast p) .binary32 8
      (if p = u.coll.rank then countChunks (u.job.own.t u.record.slot) else []) [] := ⟨_, rfl⟩
    rw [← hv] at heng hx ⊢
    refine ⟨?_, ?_, ?_, ?_, ?_, ?_, fun q hq => ?_⟩
    · rw [heng]; exact hst
    · rw [heng]; exact hwin
    · rw [heng]; exact hns
    · rw [heng]; exact congrArg (·.globalStep) hrec
    · rw [heng]; exact congrArg (·.phase) hrec
    · rw [heng]; exact hcarry
    · refine ⟨x, hx, hcoll, ?_⟩
      rw [hop]
      exact congrArg CollOp.broadcast (Option.some.inj (hp.symm.trans hq))
  · next hnone =>
    refine ⟨hst, hwin, hns, congrArg (·.globalStep) hrec, congrArg (·.phase) hrec, hcarry, fun q hq => ?_⟩
    rw [hnone] at hq
    cases hq

theorem State.sendStart_startedFrom (s : State) :
    let here := s.actives.filter s.coll.readyFrom.contains
    s.startedFrom s.sendStart ((List.range s.tableRanks).filter (!here.contains ·)) (here.filter s.coll.readyCarried.contains) := by
  intro here
  have hsend : ∀ (f : Nat → Msg) (s : State) (r : Nat), s.sameMembers (s.send (f r)) := fun _ _ _ => ⟨rfl, rfl, rfl, rfl, rfl⟩
  have hsuspect : ∀ (s : State) (p : Nat × Nat), s.sameMembers (s.reportSuspect (BitVec.ofNat 15 p.1) 2) := by
    intro s p
    unfold State.reportSuspect
    simp only []
    split <;> exact ⟨rfl, rfl, rfl, rfl, rfl⟩
  unfold State.sendStart
  simp only []
  refine State.sameMembers.startedFrom ?_ (State.takeStart_startedFrom _ _ _)
  refine State.sameMembers_trans ?_ (State.sameMembers_foldl hsuspect _ _)
  exact State.sameMembers_trans (t := { s with coll := { s.coll with misses := _ } }) ⟨rfl, rfl, rfl, rfl, rfl⟩
    (State.sameMembers_foldl (hsend _) _ _)

/-! ### READY and the window (R310, R422) -/

theorem exec_ready {s : State} {rank : Nat} (carried : Bool) (hrun : s.job.running = true) (hmem : s.isMember = true)
    (hlead : s.leader = s.coll.rank) (hact : rank ∈ s.actives) (hnew : rank ∉ s.coll.readyFrom) (hst : s.coll.started = none) :
    let u : State := { s with coll := { s.coll with
      readyFrom := rank :: s.coll.readyFrom, readyCarried := if carried then rank :: s.coll.readyCarried else s.coll.readyCarried } }
    let k := (s.actives.filter (rank :: s.coll.readyFrom).contains).length
    exec (.ready rank carried) s = .next (if k = s.actives.length then u.sendStart
      else if s.actives.length ≤ 2 * k && !s.coll.window then { u with coll := { u.coll with window := true, openNs := s.keeper.uptime } }
      else u) := by
  intro u k
  refine congrArg Host.Outcome.next ((if_pos ?_).trans ((if_neg ?_).trans rfl))
  · simp [hrun, hmem, hlead, hact]
  · simp [hnew, hst]

theorem readyAndStartOpenTheExchange : Claims.ReadyAndStartOpenTheExchange := by
  intro rank carried absent cs s hrun hmem c held starts
  refine ⟨fun hlead hact hnew hst => ⟨fun hlen => ?_, fun hall => ?_⟩, fun hlead hwin => ⟨fun hsteps htime => ?_, fun hearly => ?_⟩,
    fun hlead hst => ?_⟩
  · rw [exec_ready carried hrun hmem hlead hact hnew hst]
    refine congrArg Host.Outcome.next ((if_neg (show ¬held.length = s.actives.length by omega)).trans ?_)
    change (if (decide (s.actives.length ≤ 2 * held.length) && !c.window) = true then _ else _) = _
    by_cases hhalf : s.actives.length ≤ 2 * held.length
    · cases hw : c.window with
      | false => simp [hhalf, hw, c]
      | true => simp [hhalf, hw, c]
    · simp [hhalf, c]
  · have hheld : held = s.actives := List.filter_eq_self.mpr (List.length_filter_eq_length_iff.mp hall)
    refine ⟨_, (exec_ready carried hrun hmem hlead hact hnew hst).trans (congrArg Host.Outcome.next (if_pos hall)), ?_⟩
    have h := State.sendStart_startedFrom { s with coll := { s.coll with
      readyFrom := rank :: s.coll.readyFrom, readyCarried := if carried then rank :: s.coll.readyCarried else s.coll.readyCarried } }
    change State.startedFrom _ _ ((List.range s.tableRanks).filter (!held.contains ·)) (held.filter _) at h
    rw [hheld] at h
    exact h
  · refine ⟨s.sendStart, congrArg Host.Outcome.next (if_pos ?_), ?_⟩
    · simp [hrun, show s.leader = s.coll.rank from hlead, show s.coll.window = true from hwin, hsteps, show s.coll.openNs.toNat + s.windowNs ≤ s.uptime from htime]
    · have hab : ∀ r, (s.actives.filter c.readyFrom.contains).contains r = (s.actives.contains r && c.readyFrom.contains r) := by
        intro r
        rw [Bool.eq_iff_iff]
        simp [List.mem_filter]
      have h := s.sendStart_startedFrom
      simp only [show s.coll = c from rfl, hab] at h
      exact h
  · refine congrArg Host.Outcome.next (if_neg ?_)
    simp only [Bool.and_eq_true, decide_eq_true_eq]
    rintro ⟨⟨-, h8⟩, htime⟩
    rcases hearly with h | h
    · omega
    · exact absurd htime (not_le.mpr h)
  · refine ⟨s.takeStart absent cs, congrArg Host.Outcome.next (if_pos ?_), s.takeStart_startedFrom absent cs⟩
    simp [hrun, hmem, show s.coll.started = none from hst, show s.leader ≠ s.coll.rank from hlead]

/-! ### Commands of the job (R228, R336, R493) -/

theorem State.leadJob_eq (s : State) (cmd : JobCmd) :
    s.leadJob cmd = ({ s with outbox := s.outbox ++
      (s.actives.filter (· != s.coll.rank)).map fun r => .job r cmd (s.jobCmdStep cmd) } : State).applyJob cmd (s.jobCmdStep cmd) := by
  unfold State.leadJob
  simp only []
  rw [foldl_send_map (fun r => Msg.job r cmd (s.jobCmdStep cmd))]

theorem jobCommandsApplyAtTheirBoundary : Claims.JobCommandsApplyAtTheirBoundary := by
  intro src cmd step sel p s hrun g kg
  have hrun' : ¬(!s.job.running) = true := by simp [hrun]
  refine ⟨fun hph => ?_, ?_, fun hboxes => ?_, fun hmem hlead hact => ?_⟩
  · exact congrArg Host.Outcome.next ((if_neg hrun').trans (if_neg hph))
  · exact congrArg Host.Outcome.next (if_neg hrun')
  · refine congrArg Host.Outcome.next ((if_neg hrun').trans ?_)
    have hans : s.policyAnswered sel p = [] := by unfold State.policyAnswered; rw [hboxes]; rfl
    change s.policyChange sel p step = _
    unfold State.policyChange
    simp only [hans, hboxes, List.filter_nil, List.foldl_nil]
    rfl
  · intro at' told
    have hat : s.jobCmdStep cmd = at' := by cases cmd <;> rfl
    refine ⟨told.applyJob cmd at', congrArg Host.Outcome.next ((if_pos ?_).trans ?_), rfl⟩
    · simp [hrun, hmem, hlead, hact]
    · rw [State.leadJob_eq, hat]

/-- Settles O34: START by what it reads of the state, READY by the count held, and each command by what its boundary is. -/
theorem theExchangeStartsWhenReady : Obligations.TheExchangeStartsWhenReady :=
  ⟨readyAndStartOpenTheExchange, jobCommandsApplyAtTheirBoundary⟩

end Sys2Proof.Machine
end

section
/-! The suspect queue, liveness and the ranks that a member suspects (R29, R426, R428, R429). -/

namespace Sys2Proof.Machine

/-! ### The suspect queue (R29) -/

theorem suspectWord_eq (rank : BitVec 15) (cause : BitVec 4) :
    BitVec.ofNat 32 (rank.toNat + 2 ^ 16 * cause.toNat) = (cause ++ (0 : BitVec 1) ++ rank).setWidth 32 := by
  refine BitVec.eq_of_toNat_eq ?_
  have hr := rank.isLt
  have hc := cause.isLt
  simp only [BitVec.toNat_ofNat, BitVec.toNat_setWidth, BitVec.toNat_append]
  rw [← Nat.shiftLeft_add_eq_or_of_lt hr, ← Nat.shiftLeft_add_eq_or_of_lt (show BitVec.toNat (0 : BitVec 1) < 2 ^ 1 by decide)]
  have h0 : BitVec.toNat (0 : BitVec 1) = 0 := rfl
  simp only [Nat.shiftLeft_eq, h0]
  omega

/-- A report that finds room (R29). -/
theorem State.reportSuspect_room {s : State} (rank : BitVec 15) (cause : Nat) (h : (s.record.put - s.record.take).toNat < 16) :
    s.reportSuspect rank cause = { s with record := s.record.putSuspect (BitVec.ofNat 32 (rank.toNat + 2 ^ 16 * cause)) } :=
  congrArg (fun r => ({ s with record := r } : State)) (if_pos h)

theorem State.reportSuspect_full {s : State} (rank : BitVec 15) (cause : Nat) (h : 16 ≤ (s.record.put - s.record.take).toNat) :
    s.reportSuspect rank cause =
      { s with record := { s.record with kept := s.record.kept ++ [BitVec.ofNat 32 (rank.toNat + 2 ^ 16 * cause)] } } :=
  congrArg (fun r => ({ s with record := r } : State)) (if_neg (by unfold StepRecord.unread; omega))

theorem putSuspect_get (r : StepRecord) (w : W32) (i : Fin 16) :
    (r.putSuspect w).suspects.get i = if i.val = r.put.toNat % 16 then w else r.suspects.get i := by
  have h := vset_get r.suspects ⟨r.put.toNat % 16, Nat.mod_lt _ (by decide)⟩ i w
  exact h.trans (if_congr Fin.ext_iff rfl rfl)

/-! ### Suspecting (R428, R429) -/

/-- Messages sent in turn, each read off the state but for what has been sent. -/
theorem foldl_send_of {α : Type} {f : State → α → Msg} {g : α → Msg} : ∀ (l : List α) (s : State),
    (∀ o x, f { s with outbox := o } x = g x) →
    l.foldl (fun s x => s.send (f s x)) s = { s with outbox := s.outbox ++ l.map g }
  | [], s, _ => by simp
  | x :: l, s, h => by
    rw [List.foldl_cons, foldl_send_of l (s.send (f s x)) fun o y => h o y]
    simp only [State.send, List.map_cons, List.append_assoc, List.singleton_append]
    rw [show f s x = g x from h s.outbox x]

/-- A member proposes: its state, its round, and PROPOSE to every active rank outside the suspects (R430). -/
theorem State.propose_eq (s : State) (entry : Option (Nat × BitVec 15 × Nat)) :
    s.propose entry = { s with
      coll := { s.coll with state := 3, cnt := bumpBy s.coll.cnt 7 1, round := some ⟨s.coll.rank, s.coll.suspects, [], entry⟩ }
      record := { s.record with held := false }
      outbox := s.outbox ++ (s.actives.filter fun r => !s.coll.suspects.contains r && r != s.coll.rank).map fun r =>
        .proposal r "PROPOSE" s.record.epoch s.coll.suspects } := by
  unfold State.propose
  simp only []
  rw [foldl_send_of (g := fun r => Msg.proposal r "PROPOSE" s.record.epoch s.coll.suspects) _ _ fun _ _ => rfl]
  rfl

/-- A rank that becomes suspected: what the member does by its state (R429). -/
theorem State.suspectRanks_one {s : State} {who : Nat} (hmem : s.isMember = true) (hact : who ∈ s.actives) (hself : who ≠ s.coll.rank)
    (hnew : who ∉ s.coll.suspects) :
    let u : State := { s with coll := { s.coll with suspects := s.coll.suspects ++ [who] } }
    s.suspectRanks [who] = if u.coll.state == 3 || u.coll.state == 4 then u
      else match s.actives.find? fun r => !(s.coll.suspects ++ [who]).contains r with
        | some r => if r = s.coll.rank then u.propose none else (u.memb 2).send (.proposal r "SUSPECT" s.record.epoch (s.coll.suspects ++ [who]))
        | none => u := by
  intro u
  have hfilter : ([who].filter fun r => s.actives.contains r && r != s.coll.rank && !s.coll.suspects.contains r) = [who] :=
    List.filter_eq_self.mpr fun r hr => by
      rw [List.mem_singleton] at hr
      simp [hr, hact, hself, hnew]
  have hdup : [who].eraseDups = [who] := rfl
  unfold State.suspectRanks
  simp only [hfilter, hdup]
  refine (if_neg (by simp [hmem])).trans ?_
  rfl

theorem State.suspectRanks_coll {s : State} {who : Nat} (hmem : s.isMember = true) (hact : who ∈ s.actives) (hself : who ≠ s.coll.rank)
    (hnew : who ∉ s.coll.suspects) :
    (s.suspectRanks [who]).coll.suspects = s.coll.suspects ++ [who] ∧ (s.suspectRanks [who]).record.take = s.record.take := by
  rw [State.suspectRanks_one hmem hact hself hnew]
  split
  · exact ⟨rfl, rfl⟩
  · split
    · split
      · rw [State.propose_eq]
        exact ⟨rfl, rfl⟩
      · exact ⟨rfl, rfl⟩
    · exact ⟨rfl, rfl⟩

theorem flushKept_none {r : StepRecord} (h : r.kept = []) (n : Nat) : StepRecord.flushKept n r = r := by
  cases n with
  | zero => rfl
  | succ n => rw [StepRecord.flushKept, h]

theorem suspectRanks_notMember {s : State} (h : s.isMember = false) (rs : List Nat) : s.suspectRanks rs = s :=
  if_pos (by simp [h])

theorem foldl_suspect_notMember {s : State} (h : s.isMember = false) : ∀ l : List Nat, l.foldl (fun s x => s.suspectRanks [x]) s = s
  | [] => rfl
  | x :: l => by rw [List.foldl_cons, suspectRanks_notMember h, foldl_suspect_notMember h l]

/-- Every entry of the suspect queue is read (R29). -/
def State.allRead (s : State) : State := { s with record := { s.record with take := s.record.put } }

theorem exec_suspectEntryRead {s : State} (hfw : s.fwServes = true) (hkept : s.record.kept = []) :
    exec .suspectEntryRead s = .next (((List.range (min 16 s.record.unread)).map fun i =>
      (s.record.suspects.get ⟨(s.record.take.toNat + i) % 16, Nat.mod_lt _ (by decide)⟩).toNat % 2 ^ 15).foldl
        (fun s x => s.suspectRanks [x]) s.allRead) := by
  change execSuspectEntryRead s = _
  unfold execSuspectEntryRead
  simp only [flushKept_none (r := { s.record with take := s.record.put }) hkept]
  exact congrArg Host.Outcome.next (if_neg (by simp [hfw]))

theorem suspectQueueHoldsSixteen : Claims.SuspectQueueHoldsSixteen := by
  intro rank cause s r unread w
  refine ⟨fun hcause => ⟨fun hroom => ?_, fun hfull => ?_⟩, fun hfw hmem hkept => ?_, fun hfw hmem hkept hone hst => ?_⟩
  · refine ⟨_, congrArg Host.Outcome.next ((if_pos hcause).trans (State.reportSuspect_room rank cause.toNat hroom)), rfl, rfl, fun i => ?_⟩
    rw [suspectWord_eq]
    exact putSuspect_get r w i
  · refine congrArg Host.Outcome.next ((if_pos hcause).trans ((State.reportSuspect_full rank cause.toNat hfull).trans ?_))
    rw [suspectWord_eq]
  · rw [exec_suspectEntryRead hfw hkept]
    exact congrArg Host.Outcome.next (foldl_suspect_notMember (s := s.allRead) hmem _)
  · intro who hact hself hnew
    have hread := exec_suspectEntryRead hfw hkept
    rw [show s.record.unread = 1 from hone] at hread
    obtain ⟨h1, h2⟩ := State.suspectRanks_coll (s := s.allRead) hmem hact hself hnew
    exact ⟨_, hread, h2, h1⟩

/-! ### Liveness (R426, R428, R429) -/

theorem epochNewer_self (e : W32) : epochNewer e e = false := by simp [epochNewer]

/-- What a member that proposes has sent and keeps (R430). -/
theorem State.propose_proposing (s : State) {S : List Nat} (hS : s.coll.suspects = S) :
    let t := s.propose none
    t.coll.state = 3 ∧ t.coll.suspects = S ∧
      (∃ r, t.coll.round = some r ∧ r.proposer = s.coll.rank ∧ r.suspects = S ∧ r.answers = []) ∧
      t.outbox = s.outbox ++ (s.actives.filter fun r => !S.contains r && r != s.coll.rank).map fun r =>
        .proposal r "PROPOSE" s.record.epoch S := by
  subst hS
  rw [State.propose_eq]
  exact ⟨rfl, rfl, ⟨_, rfl, rfl, rfl, rfl⟩, rfl⟩

theorem exec_liveTimeout {rank : Nat} {s : State} (hmem : s.isMember = true)
    (hnear : rank = nextRank s.tableRanks s.coll.rank ∨ rank = prevRank s.tableRanks s.coll.rank)
    (hlost : (!s.coll.lives.has rank || decide ((s.coll.lives.get 0 rank).toNat + 750000 ≤ s.keeper.uptime.toNat)) = true) :
    exec (.liveTimeout rank) s = .next (s.suspectRanks [rank]) := by
  refine congrArg Host.Outcome.next (if_pos ?_)
  rw [hmem, show (!s.coll.lives.has rank || decide ((s.coll.lives.get 0 rank).toNat + 750000 ≤ s.uptime)) = true from hlost]
  rcases hnear with h | h <;> simp [← h]

theorem eraseDups_of_nodup : ∀ {l : List Nat}, l.Nodup → l.eraseDups = l
  | [], _ => rfl
  | x :: l, h => by
    obtain ⟨hx, hl⟩ := List.nodup_cons.mp h
    rw [List.eraseDups_cons, List.filter_eq_self.mpr, eraseDups_of_nodup hl]
    intro y hy
    have : y ≠ x := fun h => hx (h ▸ hy)
    simpa using this

/-- A member with the suspects named. -/
def State.suspecting (s : State) (l : List Nat) : State := { s with coll := { s.coll with suspects := l } }

/-- The first rank that a member suspects (R429). -/
theorem State.suspectRanks_first {s : State} {who low : Nat} (hmem : s.isMember = true) (hact : who ∈ s.actives) (hself : who ≠ s.coll.rank)
    (hsus : s.coll.suspects = []) (hst : s.coll.state = 1) (hlow : s.actives.find? (· != who) = some low) :
    s.suspectRanks [who] = if low = s.coll.rank then (s.suspecting [who]).propose none
      else ((s.suspecting [who]).memb 2).send (.proposal low "SUSPECT" s.record.epoch [who]) := by
  have hfind : (s.actives.find? fun r => !([] ++ [who]).contains r) = some low := by
    rw [← hlow]
    refine congrArg (fun p => List.find? p s.actives) (funext fun r => ?_)
    simp [bne, beq_eq_decide]
  refine (State.suspectRanks_one hmem hact hself (by rw [hsus]; simp)).trans ?_
  simp only [hsus, hst, hfind]
  rfl

theorem silentNeighboursAreSuspected : Claims.SilentNeighboursAreSuspected := by
  intro rank epoch suspects s hmem c n lost proposing
  refine ⟨?_, fun hep => ?_, fun hnew => ?_, fun hnear hlost hact hself hsus hst low hlow => ⟨fun hme => ?_, fun hother => ?_⟩,
    fun hlost => ?_, fun hep hsus hst hne hdup hall => ?_, fun hst => ?_⟩
  · refine congrArg Host.Outcome.next ((if_pos hmem).trans ?_)
    simp only [List.foldl_cons, List.foldl_nil, State.send, List.append_assoc]
    rfl
  · refine congrArg Host.Outcome.next (if_pos ?_)
    rw [hmem, hep, epochNewer_self]
    rfl
  · refine congrArg Host.Outcome.next (if_neg ?_)
    rw [hnew]
    simp
  · refine ⟨_, (exec_liveTimeout hmem hnear hlost).trans (congrArg Host.Outcome.next (State.suspectRanks_first hmem hact hself hsus hst hlow)), ?_⟩
    rw [if_pos hme]
    exact State.propose_proposing (s.suspecting [rank]) rfl
  · refine ⟨_, (exec_liveTimeout hmem hnear hlost).trans (congrArg Host.Outcome.next (State.suspectRanks_first hmem hact hself hsus hst hlow)), ?_⟩
    rw [if_neg hother]
    exact ⟨rfl, rfl, rfl⟩
  · refine congrArg Host.Outcome.next (if_neg ?_)
    rw [show (!s.coll.lives.has rank || decide ((s.coll.lives.get 0 rank).toNat + 750000 ≤ s.uptime)) = false from hlost]
    simp
  · have hfilter : (suspects.filter fun r => s.actives.contains r && r != s.coll.rank && !([] : List Nat).contains r) = suspects :=
      List.filter_eq_self.mpr fun r hr => by
        obtain ⟨ha, hr'⟩ := hall r hr
        have hr'' : r ≠ s.coll.rank := hr'
        simp [ha, hr'']
    have hgo : exec (.suspect rank epoch suspects) s = .next ((s.suspecting suspects).propose none) := by
      refine congrArg Host.Outcome.next ((if_neg (by rw [hmem, hep, epochNewer_self]; decide)).trans ?_)
      simp only [show s.coll.suspects = [] from hsus, hfilter, eraseDups_of_nodup hdup, List.nil_append]
      refine (if_neg ?_).trans rfl
      rw [show s.coll.state = 1 from hst]
      simpa using hne
    exact ⟨_, hgo, State.propose_proposing (s.suspecting suspects) rfl⟩
  · exact ⟨_, congrArg Host.Outcome.next (if_pos (by simp [hmem, show s.coll.state = 2 from hst])), s.propose_proposing rfl⟩

/-- Settles O35: one report, one entry read, one neighbour and one proposal at a time. -/
theorem suspicionsAreQueuedAndTold : Obligations.SuspicionsAreQueuedAndTold :=
  ⟨suspectQueueHoldsSixteen, silentNeighboursAreSuspected⟩

end Sys2Proof.Machine
end

section
/-! Membership: rounds, commits, fencing, joins and MEMBERSHIP_SET (R425 to R435). -/

namespace Sys2Proof.Machine

/-! ### What events, causes and completions touch (R461, R476, R494) -/

/-- Two states that differ in what the module tells its host: mailboxes, causes, event log and messages. -/
def State.told (s t : State) : Prop := t = { s with boxes := t.boxes, cxl := t.cxl, log := t.log, outbox := t.outbox }

theorem State.told_refl (s : State) : s.told s := rfl

theorem State.told_trans {s t u : State} (h : s.told t) (h' : t.told u) : s.told u := by
  unfold State.told at *
  rw [h', h]

theorem State.told_foldl {α : Type} {f : State → α → State} (hf : ∀ (s : State) (x : α), s.told (f s x)) :
    ∀ (l : List α) (s : State), s.told (l.foldl f s)
  | [], s => s.told_refl
  | x :: l, s => State.told_trans (hf s x) (State.told_foldl hf l (f s x))

theorem State.told_of_eq {s t : State} {boxes : Vector Mailbox 8} {cxl : Cxl} {log : Log} {outbox : List Msg}
    (h : t = { s with boxes := boxes, cxl := cxl, log := log, outbox := outbox }) : s.told t := by
  rw [h]
  rfl

theorem State.event_told (s : State) (code sev src : Nat) (args : List Nat) : s.told (s.event code sev src args) := by
  obtain ⟨log, cxl, outbox, h⟩ := s.event_parts code sev src args
  rw [h]
  rfl

theorem State.raise_told (s : State) (n : Nat) : s.told (s.raise n) := by
  rw [(s.raise_frame n).1]
  rfl

theorem State.complete_told (s : State) (n : Fin 8) (status detail : Nat) (out : List Byte) : s.told (s.complete n status detail out) := by
  exact State.told_of_eq (s.complete_frame n status detail out).1

theorem State.completeAt_told (s : State) (n status detail : Nat) (out : List Byte) : s.told (s.completeAt n status detail out) := by
  unfold State.completeAt
  split
  · exact State.complete_told _ _ _ _ _
  · exact s.told_refl

theorem State.completeAll_told (s : State) (ns : List Nat) (status detail : Nat) : s.told (s.completeAll ns status detail) := by
  refine State.told_foldl (fun s n => ?_) ns s
  split
  · exact State.complete_told _ _ _ _ _
  · exact s.told_refl

theorem State.send_told (s : State) (m : Msg) : s.told (s.send m) := rfl

theorem State.told.record {s t : State} (h : s.told t) : t.record = s.record := by rw [h]
theorem State.told.job {s t : State} (h : s.told t) : t.job = s.job := by rw [h]
theorem State.told.coll {s t : State} (h : s.told t) : t.coll = s.coll := by rw [h]
theorem State.told.tiers {s t : State} (h : s.told t) : t.tiers = s.tiers := by rw [h]
theorem State.told.jets {s t : State} (h : s.told t) : t.jets = s.jets := by rw [h]

/-! ### Abandoning and fencing (R433, R434) -/

/-- What an abandoned or adopted table leaves of the engine: counters and the contributions carried alone change. -/
def State.settled (s t : State) : Prop :=
  t.record = s.record ∧ t.tiers = s.tiers ∧ t.jets = s.jets ∧ t.job.running = s.job.running ∧
    t.coll = { s.coll with cnt := t.coll.cnt, carrying := t.coll.carrying }

theorem State.settled_trans {s t u : State} (h : s.settled t) (h' : t.settled u) : s.settled u := by
  obtain ⟨hr, ht, hj, hrun, hc⟩ := h
  obtain ⟨hr', ht', hj', hrun', hc'⟩ := h'
  refine ⟨hr'.trans hr, ht'.trans ht, hj'.trans hj, hrun'.trans hrun, ?_⟩
  rw [hc', hc]

theorem State.settled_refl (s : State) : s.settled s := ⟨rfl, rfl, rfl, rfl, rfl⟩

theorem State.settled_foldl {α : Type} {f : State → α → State} (hf : ∀ (s : State) (x : α), s.settled (f s x)) :
    ∀ (l : List α) (s : State), s.settled (l.foldl f s)
  | [], s => s.settled_refl
  | x :: l, s => State.settled_trans (hf s x) (State.settled_foldl hf l (f s x))

theorem State.told.settled {s t : State} (h : s.told t) : s.settled t :=
  ⟨h.record, h.tiers, h.jets, congrArg (·.running) h.job, by rw [h.coll]⟩

theorem State.countEvent_settled (s : State) (k n code sev src : Nat) (args : List Nat) :
    s.settled ((s.countColl k n).event code sev src args) :=
  State.settled_trans (t := s.countColl k n) ⟨rfl, rfl, rfl, rfl, rfl⟩ (State.event_told _ _ _ _ _).settled

theorem State.abandonColls_spec (s : State) :
    ({ s with coll := s.coll.dropStep } : State).settled s.abandonColls ∧ s.abandonColls.job = s.job ∧
      s.abandonColls.coll.cnt.get 0 9 = s.coll.cnt.get 0 9 := by
  have hfold : ∀ (l : List OpenColl) (u : State),
      let t := l.foldl (fun s c => (s.countColl 4 1).event 0x005A 2 srcColl [c.coll, c.epoch.toNat]) u
      u.settled t ∧ t.job = u.job ∧ t.coll.cnt.get 0 9 = u.coll.cnt.get 0 9 := by
    intro l
    induction l with
    | nil => exact fun u => ⟨u.settled_refl, rfl, rfl⟩
    | cons c l ih =>
      intro u
      obtain ⟨h1, h2, h3⟩ := ih ((u.countColl 4 1).event 0x005A 2 srcColl [c.coll, c.epoch.toNat])
      refine ⟨State.settled_trans (u.countEvent_settled 4 1 _ _ _ _) h1, h2.trans (State.event_told _ _ _ _ _).job, h3.trans ?_⟩
      rw [(State.event_told _ _ _ _ _).coll]
      exact (get_bumpBy u.coll.cnt 4 1 9).trans (if_neg (by decide))
  exact hfold s.coll.opened { s with coll := s.coll.dropStep }

theorem State.dropCarried_spec (s : State) : s.settled s.dropCarried ∧ s.dropCarried.coll = s.coll := by
  unfold State.dropCarried
  split
  · exact ⟨s.settled_refl, rfl⟩
  · exact ⟨⟨rfl, rfl, rfl, rfl, rfl⟩, rfl⟩

theorem State.dropWaiters_spec (s : State) : s.settled s.dropWaiters ∧ s.dropWaiters.coll = s.coll := by
  unfold State.dropWaiters
  simp only []
  have h := State.completeAll_told { s with job := { s.job with secureBoxes := [], policyBoxes := [], runBox := none } }
    (s.job.secureBoxes ++ s.job.policyBoxes) 7
    (State.wrongDetail { s with job := { s.job with secureBoxes := [], policyBoxes := [], runBox := none } })
  have hs : s.settled { s with job := { s.job with secureBoxes := [], policyBoxes := [], runBox := none } } := ⟨rfl, rfl, rfl, rfl, rfl⟩
  split
  · exact ⟨State.settled_trans hs (State.settled_trans h.settled (State.completeAt_told _ _ _ _ _).settled),
      (State.completeAt_told _ _ _ _ _).coll.trans h.coll⟩
  · exact ⟨State.settled_trans hs h.settled, h.coll⟩

/-- A member that fences (R434): the step and the collectives are gone, what is stored stays. -/
theorem State.fence_spec (s : State) :
    let t := s.fence
    t.coll.state = 5 ∧ t.record.phase = 0x0B ∧ t.record.held = false ∧ t.job.running = false ∧ t.record.slot = s.record.slot ∧
      t.record.epoch = s.record.epoch ∧ t.coll.opened = [] ∧ t.coll.cnt.get 0 9 = satAdd (s.coll.cnt.get 0 9) 1 ∧
      t.tiers = s.tiers ∧ t.jets = s.jets := by
  intro t
  obtain ⟨hset, -, hcnt⟩ := s.abandonColls_spec
  obtain ⟨a, ha⟩ : ∃ a, a = s.abandonColls := ⟨_, rfl⟩
  rw [← ha] at hset hcnt
  obtain ⟨hr, ht, hj, -, hc⟩ := hset
  obtain ⟨u, hu⟩ : ∃ u : State, u = { a.memb 5 with
    coll := { (a.memb 5).coll with round := none, suspects := [], joins := [] }
    record := { (a.memb 5).record with phase := 0x0B }
    job := { (a.memb 5).job with running := false, abortDue := none, decided := none } } := ⟨_, rfl⟩
  have htdef : t = (((u.dropCarried.countColl 9 1).event 0x005D 3 srcFw [u.record.epoch.toNat]).raise icFabric).dropWaiters := by
    change s.fence = _
    unfold State.fence
    simp only [← ha]
    rw [hu]
  obtain ⟨hd, hdc⟩ := u.dropCarried_spec
  have hev : (u.dropCarried.countColl 9 1).told
      (((u.dropCarried.countColl 9 1).event 0x005D 3 srcFw [u.record.epoch.toNat]).raise icFabric) :=
    State.told_trans (State.event_told _ _ _ _ _) (State.raise_told _ _)
  obtain ⟨v, hv⟩ : ∃ v, v = ((u.dropCarried.countColl 9 1).event 0x005D 3 srcFw [u.record.epoch.toNat]).raise icFabric := ⟨_, rfl⟩
  rw [← hv] at hev htdef
  obtain ⟨hw, hwc⟩ := v.dropWaiters_spec
  rw [← htdef] at hw hwc
  obtain ⟨hr2, ht2, hj2, hrun2, -⟩ := hd
  obtain ⟨hr3, ht3, hj3, hrun3, -⟩ := hw
  have hrec : t.record = u.record := (hr3.trans hev.record).trans hr2
  have hcoll : t.coll = { u.coll with cnt := bumpBy u.coll.cnt 9 1 } := by
    rw [hwc, hev.coll]
    change { u.dropCarried.coll with cnt := bumpBy u.dropCarried.coll.cnt 9 1 } = _
    rw [hdc]
  have hrun : t.job.running = false := by
    rw [hrun3, hev.job]
    exact hrun2.trans (by rw [hu])
  refine ⟨?_, ?_, ?_, hrun, ?_, ?_, ?_, ?_, ?_, ?_⟩
  · rw [hcoll, hu]; rfl
  · rw [hrec, hu]
  · rw [hrec, hu]; rfl
  · rw [hrec, hu]
    exact congrArg (·.slot) hr
  · rw [hrec, hu]
    exact congrArg (·.epoch) hr
  · rw [hcoll, hu]
    change a.coll.opened = []
    rw [hc]
    rfl
  · rw [hcoll]
    refine (satAdd_bumpBy _ _).trans ?_
    rw [hu]
    exact congrArg (satAdd · 1) hcnt
  · rw [ht3, hev.tiers]
    refine ht2.trans ?_
    rw [hu]
    exact ht
  · rw [hj3, hev.jets]
    refine hj2.trans ?_
    rw [hu]
    exact hj

/-! ### Adopting a table (R430, R433) -/

theorem State.leaderLost_settled (s : State) : s.settled s.leaderLost := by
  unfold State.leaderLost
  exact State.settled_trans (t := { s with job := { s.job with
    haltBoxes := _, secureBoxes := _, policyBoxes := [] } }) ⟨rfl, rfl, rfl, rfl, rfl⟩ (State.completeAll_told _ _ _ _).settled

theorem State.uncoverGroups_settled (s : State) : s.settled s.uncoverGroups := by
  unfold State.uncoverGroups
  simp only []
  refine State.settled_foldl (fun s g => ?_) _ s
  exact State.settled_trans (t := { s with job := { s.job with uncovered := g :: s.job.uncovered } }) ⟨rfl, rfl, rfl, rfl, rfl⟩
    (State.event_told _ _ _ _ _).settled

theorem State.countFills_settled (s : State) (t : MembTable) : s.settled (s.countFills t) := by
  unfold State.countFills
  simp only []
  refine State.settled_foldl (fun s r => ?_) _ s
  exact ⟨rfl, rfl, rfl, rfl, rfl⟩

theorem State.coverUpdate_settled (s : State) : s.settled s.coverUpdate := ⟨rfl, rfl, rfl, rfl, rfl⟩

theorem State.failureOutcome_idle {s : State} (newly : List Nat) (complete : Bool) (hrun : s.job.running = false) :
    s.failureOutcome newly complete = s := if_pos (by simp [hrun])

theorem State.reopenVote_idle {s : State} (hrun : s.job.running = false) : s.reopenVote = s := if_pos (by simp [hrun])

/-- The ranks that a table makes FAILED (R433). -/
def State.newlyFailed (s : State) (t : MembTable) : List Nat :=
  (List.range t.entries.length).filter fun r => MembTable.st t r == 1 && (s.coll.table.map fun o => MembTable.st o r) != some 1

/-- The table is held, with its epoch (R433). -/
def State.holdTable (s : State) (t : MembTable) (newly : List Nat) : State :=
  { s with
    coll := { s.coll with table := some t, suspects := [], round := none }
    record := { s.record with epoch := t.epoch }
    weir := { s.weir with opened := s.weir.opened.map fun (o : BitVec 15 × Nat × Nat × W32) => (o.1, o.2.1, o.2.2.1, t.epoch) }
    job := { s.job with
      failed := if (s.job.failed ++ newly).all fun r => MembTable.st t r == 0 then [] else (s.job.failed ++ newly).eraseDups
      fromPartner := if newly.contains s.partnerRank then none else s.job.fromPartner } }

/-- What adopting a table counts and tells (R433). -/
def State.noteTable (s : State) (t : MembTable) (newly : List Nat) (lead : Nat) : State :=
  let lost := s.coll.carrying.filter newly.contains
  let s := ({ s with coll := { s.coll with carrying := s.coll.carrying.filter (!newly.contains ·) } } : State).modRunnel 0 fun r =>
    { r with cnt := bumpBy r.cnt 4 lost.length }
  let s := (s.event 0x005B 1 srcFw [t.epoch.toNat, (MembTable.actives t).length]).raise icFabric
  let s := newly.foldl (fun s r => (s.countColl 8 1).event 0x005C 2 srcFw [r]) s
  if newly.contains lead then s.leaderLost else s

theorem State.noteTable_settled (s : State) (t : MembTable) (newly : List Nat) (lead : Nat) : s.settled (s.noteTable t newly lead) := by
  obtain ⟨u, hu⟩ : ∃ u : State, u = ({ s with coll := { s.coll with carrying := s.coll.carrying.filter (!newly.contains ·) } } : State).modRunnel 0
    fun r => { r with cnt := bumpBy r.cnt 4 (s.coll.carrying.filter newly.contains).length } := ⟨_, rfl⟩
  have h1 : s.settled u := by rw [hu]; exact ⟨rfl, rfl, rfl, rfl, rfl⟩
  have h2 : u.settled ((u.event 0x005B 1 srcFw [t.epoch.toNat, (MembTable.actives t).length]).raise icFabric) :=
    (State.told_trans (State.event_told _ _ _ _ _) (State.raise_told _ _)).settled
  have h3 := State.settled_trans h1 (State.settled_trans h2 (State.settled_foldl
    (fun s r => s.countEvent_settled 8 1 0x005C 2 srcFw [r]) newly _))
  unfold State.noteTable
  simp only [← hu]
  split
  · exact State.settled_trans h3 (State.leaderLost_settled _)
  · exact h3

theorem State.adoptTable_settled {s : State} (t : MembTable) (complete : Bool) (hrun : s.job.running = false) :
    ((((s.countFills t).abandonColls).memb 1).holdTable t (s.newlyFailed t)).settled (s.adoptTable t complete) := by
  obtain ⟨c, hc⟩ : ∃ c, c = s.countFills t := ⟨_, rfl⟩
  have hcrun : c.job.running = false := by rw [hc, (s.countFills_settled t).2.2.2.1, hrun]
  obtain ⟨a, ha⟩ : ∃ a, a = c.abandonColls := ⟨_, rfl⟩
  have harun : a.job.running = false := by rw [ha, c.abandonColls_spec.2.1, hcrun]
  obtain ⟨u, hu⟩ : ∃ u, u = (a.memb 1).holdTable t (s.newlyFailed t) := ⟨_, rfl⟩
  have hurun : u.job.running = false := by rw [hu]; exact harun
  obtain ⟨v, hv⟩ : ∃ v, v = u.noteTable t (s.newlyFailed t) s.leader := ⟨_, rfl⟩
  have hset := u.noteTable_settled t (s.newlyFailed t) s.leader
  rw [← hv] at hset
  have hvrun : v.job.running = false := hset.2.2.2.1.trans hurun
  have hcover : v.settled (v.uncoverGroups.coverUpdate) := State.settled_trans v.uncoverGroups_settled (State.coverUpdate_settled _)
  have hdef : s.adoptTable t complete = v.uncoverGroups.coverUpdate := by
    have hrest : s.adoptTable t complete = if (((v.failureOutcome (s.newlyFailed t) complete).uncoverGroups).coverUpdate).reopenVote.job.running
        then ((((v.failureOutcome (s.newlyFailed t) complete).uncoverGroups).coverUpdate).reopenVote).donateAll s.coll.table t (s.newlyFailed t)
        else (((v.failureOutcome (s.newlyFailed t) complete).uncoverGroups).coverUpdate).reopenVote := by
      unfold State.adoptTable
      simp only [← hc, ← ha]
      rw [hv, hu]
      rfl
    have hwrun : (v.uncoverGroups.coverUpdate).job.running = false := hcover.2.2.2.1.trans hvrun
    rw [hrest, State.failureOutcome_idle _ _ hvrun, State.reopenVote_idle hwrun, if_neg (by simp [hwrun])]
  rw [hdef, ← hc, ← ha, ← hu]
  exact State.settled_trans hset hcover

/-- A member that runs no job adopts a table (R433). -/
theorem State.adoptTable_spec {s : State} (t : MembTable) (complete : Bool) (hrun : s.job.running = false) :
    let u := s.adoptTable t complete
    u.coll.table = some t ∧ u.record.epoch = t.epoch ∧ u.coll.state = 1 ∧ u.record.held = true ∧ u.coll.opened = [] ∧ u.coll.sent = [] ∧
      u.coll.suspects = [] ∧ u.coll.round = none ∧ u.coll.joins = s.coll.joins ∧ u.record.slot = s.record.slot ∧ u.tiers = s.tiers := by
  intro u
  obtain ⟨hr, ht, -, -, hc⟩ := State.adoptTable_settled (s := s) t complete hrun
  obtain ⟨hr1, ht1, -, -, hc1⟩ := s.countFills_settled t
  obtain ⟨⟨hr2, ht2, -, -, hc2⟩, -, -⟩ := (s.countFills t).abandonColls_spec
  obtain ⟨c, hcdef⟩ : ∃ c, c = s.countFills t := ⟨_, rfl⟩
  rw [← hcdef] at hr ht hc hr1 ht1 hc1 hr2 ht2 hc2
  obtain ⟨a, ha⟩ : ∃ a, a = c.abandonColls := ⟨_, rfl⟩
  rw [← ha] at hr ht hc hr2 ht2 hc2
  have hu : u = s.adoptTable t complete := rfl
  rw [← hu] at hr ht hc
  clear_value u
  have hrec : u.record = { s.record with epoch := t.epoch, held := true } := by
    refine hr.trans ?_
    change { a.record with epoch := t.epoch, held := true } = _
    rw [show a.record = s.record from hr2.trans hr1]
  have hdrop : a.coll.opened = [] ∧ a.coll.sent = [] ∧ a.coll.joins = s.coll.joins := by
    rw [hc2]
    refine ⟨rfl, rfl, ?_⟩
    change c.coll.joins = _
    rw [hc1]
  rw [hrec, hc]
  refine ⟨rfl, rfl, rfl, rfl, hdrop.1, hdrop.2.1, rfl, rfl, hdrop.2.2, rfl, ht.trans (ht2.trans ht1)⟩

theorem commitsAdoptOrFence : Claims.CommitsAdoptOrFence := by
  intro src table complete s hmem hspare c fenced
  have hcommit : ∀ t : State, (if (!s.isMember || !epochNewer table.epoch s.record.epoch) = true then s
      else if MembTable.st table s.coll.rank = 1 then s.fence else s.adoptTable table complete) = t →
      exec (.commit table complete) s = .next t := by
    intro t ht
    change execCommit table complete s = _
    unfold execCommit
    rw [hspare]
    exact congrArg Host.Outcome.next ht
  refine ⟨fun hold => ?_, fun hnew hst => ?_, fun hnew hst hrun => ?_, ?_, fun hst => ?_⟩
  · exact hcommit _ (if_pos (by simp [hold]))
  · exact ⟨s.fence, hcommit _ ((if_neg (by simp [hmem, hnew])).trans (if_pos hst)), s.fence_spec⟩
  · obtain ⟨h1, h2, h3, h4, h5, h6, -, -, -, h7, h8⟩ := State.adoptTable_spec (s := s) table complete hrun
    exact ⟨s.adoptTable table complete, hcommit _ ((if_neg (by simp [hmem, hnew])).trans (if_neg hst)), h1, h2, h3, h4, h5, h6, h7, h8⟩
  · exact ⟨s.fence, congrArg Host.Outcome.next (if_pos (by simp [hmem, epochNewer_self])), s.fence_spec⟩
  · exact ⟨s.fence, congrArg Host.Outcome.next (if_pos hst), s.fence_spec⟩

/-! ### Rounds (R427, R430) -/

theorem put_epoch (t : MembTable) (r : Nat) (f : BitVec 15 × Nat → BitVec 15 × Nat) : (MembTable.put t r f).epoch = t.epoch := by
  unfold MembTable.put
  split <;> rfl

theorem nextTable_epoch (t : MembTable) (S : List Nat) : (nextTable t S none).epoch = t.epoch + 1 := by
  have hfold : ∀ (l : List Nat) (u : MembTable), (l.foldl (fun t r => MembTable.put t r fun e => (e.1, 1)) u).epoch = u.epoch := by
    intro l
    induction l with
    | nil => exact fun _ => rfl
    | cons r l ih => exact fun u => (ih _).trans (put_epoch _ _ _)
  exact hfold S { t with epoch := t.epoch + 1 }

/-- A proposer is answered (R430): the member waits for the outcome, its collectives held. -/
theorem State.answer_spec {s : State} (src : Nat) (suspects : List Nat) :
    let t := s.answer src suspects
    t.coll.state = 4 ∧ t.record.held = false ∧ t.coll.round = some ⟨src, suspects, [], none⟩ ∧
      ∃ args, t.outbox = s.outbox ++ [.packet src "ACCEPT" ([s.record.epoch.toNat, args] ++ s.coll.suspects)] := by
  unfold State.answer
  simp only []
  split <;> exact ⟨rfl, rfl, rfl, _, rfl⟩

theorem State.nextJoin_none {s : State} (h : s.coll.joins = []) : s.nextJoin = s := by
  unfold State.nextJoin
  rw [h]

/-- The proposer that has quorum commits the next table (R430). -/
theorem State.endRound_quorum {s : State} {r : Round} {t0 : MembTable} (hround : s.coll.round = some r) (htab : s.coll.table = some t0)
    (hentry : r.entry = none)
    (hq : MembTable.quorum t0 (s.coll.rank :: r.answers.map (·.1)) = true) :
    let answered := s.coll.rank :: r.answers.map (·.1)
    let S := (MembTable.actives t0).filter fun x => r.suspects.contains x || !answered.contains x
    ∃ outbox complete, s.endRound = ((({ s with outbox := outbox } : State).adoptTable (nextTable t0 S none) complete).nextJoin) := by
  intro answered S
  unfold State.endRound
  simp only [hround, htab, hentry, hq, if_true]
  rw [foldl_send_map]
  exact ⟨_, _, rfl⟩

/-- The proposer without quorum fences (R430, R434). -/
theorem State.endRound_noQuorum {s : State} {r : Round} {t0 : MembTable} (hround : s.coll.round = some r) (htab : s.coll.table = some t0)
    (hq : MembTable.quorum t0 (s.coll.rank :: r.answers.map (·.1)) = false) :
    ∃ outbox, s.endRound = ({ s with outbox := outbox } : State).fence := by
  refine ⟨s.outbox ++ ((MembTable.actives t0).filter (· != s.coll.rank)).map fun x => Msg.proposal x "ABANDON" s.record.epoch [], ?_⟩
  unfold State.endRound
  simp only [hround, htab, hq, Bool.false_eq_true, if_false]
  rw [foldl_send_of (g := fun x => Msg.proposal x "ABANDON" s.record.epoch []) _ _ fun _ _ => rfl]

theorem roundsCommitWithQuorum : Claims.RoundsCommitWithQuorum := by
  intro src suspects complete t0 r s hmem c
  refine ⟨fun hact hself hround => ?_, fun hself => ?_, fun hround hst hact hsus hnew hwait => ?_,
    fun hround hst htab hentry hjoins hrun => ?_⟩
  · refine ⟨s.answer src suspects, ?_, State.answer_spec src suspects⟩
    refine congrArg Host.Outcome.next ((if_neg ?_).trans ?_)
    · simp [hmem, epochNewer_self, show s.coll.rank ∉ suspects from hself]
    · simp only [show s.coll.round = none from hround]
  · exact congrArg Host.Outcome.next (if_pos (by simp [show s.coll.rank ∈ suspects from hself]))
  · obtain ⟨u, hu⟩ : ∃ u : State, u = { s with coll := { c with
      round := some { r with answers := r.answers ++ [(src, suspects, complete)] } } } := ⟨_, rfl⟩
    have hcheck : u.roundCheck = u := by
      obtain ⟨x, hx, hx1, hx2, hx3, hx4⟩ := hwait
      unfold State.roundCheck
      rw [hu]
      refine if_neg fun hall => ?_
      have h := List.all_eq_true.mp hall x hx
      simp only [Bool.or_eq_true, beq_iff_eq, List.contains_iff_mem, List.any_eq_true, List.mem_append, List.mem_singleton] at h
      rcases h with (h | h) | ⟨a, ha | ha, h⟩
      · exact hx1 h
      · exact hx3 h
      · exact hx4 a ha h
      · rw [ha] at h
        exact hx2 h.symm
    change execAccept src s.record.epoch suspects complete s = _
    unfold execAccept
    simp only [show s.coll.round = some r from hround]
    refine congrArg Host.Outcome.next ((if_pos ?_).trans ?_)
    · have hany : r.answers.any (fun a => a.1 == src) = false := by
        rw [List.any_eq_false]
        intro a ha
        simpa using hnew a ha
      simp [show s.coll.state = 3 from hst, hact, hsus, hany]
    · rw [← hu]
      exact hcheck
  · intro answered S
    have hexec : exec .roundTimeout s = .next s.endRound := congrArg Host.Outcome.next (if_pos hst)
    refine ⟨fun hq => ?_, fun hq => ?_⟩
    · obtain ⟨outbox, done, hend⟩ := State.endRound_quorum (s := s) hround htab hentry hq
      obtain ⟨h1, h2, h3, h4, h5, -, h6, h7, h8, -, -⟩ := State.adoptTable_spec (s := { s with outbox := outbox }) (nextTable t0 S none) done hrun
      rw [State.nextJoin_none (h8.trans hjoins)] at hend
      refine ⟨s.endRound, hexec, ?_⟩
      rw [hend]
      exact ⟨h2.trans (nextTable_epoch t0 S), h1, h3, h4, h7, h6, h5⟩
    · obtain ⟨outbox, hend⟩ := State.endRound_noQuorum (s := s) hround htab hq
      obtain ⟨h1, h2, -, h4, h5, -⟩ := State.fence_spec { s with outbox := outbox }
      refine ⟨s.endRound, hexec, ?_⟩
      rw [hend]
      exact ⟨h1, h2, h4, h5⟩

/-! ### Joins (R431) -/

theorem joinsAreProposedByTheLeader : Claims.JoinsAreProposedByTheLeader := by
  intro rank addr t0 s hmem htab hlead
  have hcond : (s.isMember && s.leader == s.coll.rank) = true := by simp [hmem, hlead]
  refine ⟨fun hst hlt h1 => ⟨s.propose (some (rank, addr, 2)), ?_, ?_, ?_⟩, fun hst => ?_⟩
  · refine congrArg Host.Outcome.next ((if_pos hcond).trans ((if_pos hst).trans ?_))
    unfold State.admitRank
    simp only [htab, h1]
    exact if_pos hlt
  · rw [State.propose_eq]
  · rw [State.propose_eq]
  · exact congrArg Host.Outcome.next ((if_pos hcond).trans (if_neg hst))

/-! ### MEMBERSHIP_SET (R425, R432, R435) -/

/-- A table is installed or removed, with no HALT waiting (R435). -/
theorem State.installTable_eq {s : State} (t : Option MembTable) (rank st : Nat) (epoch : W32) (hboxes : s.job.haltBoxes = []) :
    s.installTable t rank st epoch = { s with
      coll := { s.coll with table := t, rank := rank, suspects := [], round := none, lives := [], joins := [], state := BitVec.ofNat 3 st }
      record := { s.record with epoch := epoch, phase := if s.record.phase = 0x0B then 0 else s.record.phase, held := st == 1 }
      job := { s.job with failed := [], haltBoxes := [] } } := by
  unfold State.installTable
  simp only [State.memb, hboxes, List.foldl_nil]

theorem State.serving_outstanding {s : State} {n : Fin 8} {op : Nat} (h : s.serving n op) : (s.boxes.get n).outstanding = true := by
  have h' := h.1
  simp only [State.inHand, Bool.and_eq_true, Bool.or_eq_true, beq_iff_eq] at h'
  unfold Mailbox.outstanding
  rcases h'.1.1 with h2 | h3
  · rw [h2]; decide
  · rw [h3]; decide

theorem tableCheck_none {t : MembTable} (h2 : 2 ≤ t.entries.length) (hmax : t.entries.length ≤ 32768)
    (htie : t.tieBreak < t.entries.length) (hst : ∀ e ∈ t.entries, e.2 = 0) : tableCheck t = none := by
  have hrank : ∀ k < t.entries.length, MembTable.st t k = 0 := by
    intro k hk
    unfold MembTable.st
    rw [List.getElem?_eq_getElem hk]
    exact hst _ (List.getElem_mem hk)
  unfold tableCheck firstOf
  simp only [Option.map_eq_none_iff, List.find?_eq_none]
  intro x hx
  rw [List.mem_append] at hx
  rcases hx with hx | hx
  · simp only [List.mem_cons, List.not_mem_nil, or_false] at hx
    rcases hx with rfl | rfl
    · simp [outside]
      omega
    · simp
      omega
  · obtain ⟨k, hk, rfl⟩ := List.mem_map.mp hx
    simp [hrank k (List.mem_range.mp hk)]

theorem phase_leaves_fenced {p : Byte} (h : p = 0 ∨ p = 0x0B) : (if p = 0x0B then 0 else p) = 0 := by
  rcases h with rfl | rfl <;> rfl

theorem membershipSetInstallsTheTable : Claims.MembershipSetInstallsTheTable := by
  intro n t0 idle r s hserv hlen
  have hout := State.serving_outstanding hserv
  have harg : ¬(s.boxes.get n).arg 1 ≠ 0x20 + 4 * t0.entries.length := by
    rw [show (s.boxes.get n).arg 1 = _ from Mailbox.arg_get (s.boxes.get n) 1]
    exact not_not.mpr hlen
  have hexec : ∀ t : State, (if (s.job.running || !(s.record.phase == 0 || s.record.phase == 0x0B)) = true then s.complete n 7 s.wrongDetail []
      else if t0.entries.length = 0 then (s.installTable none 0 0 t0.epoch).complete n 0 0 (leBytes 4 t0.epoch.toNat)
      else match tableCheck t0 with
        | some (st, d) => s.complete n st d []
        | none =>
          if (s.coll.state == 5 && !idle) = true then s.complete n 7 s.wrongDetail []
          else (match s.rankIn t0 with
            | some r => s.installTable (some t0) r 1 t0.epoch
            | none => s.installTable (some t0) 0 0 t0.epoch).complete n 0 0 (leBytes 4 t0.epoch.toNat)) = t →
      exec (.membershipSet n t0 idle) s = .next t := fun t ht =>
    congrArg Host.Outcome.next ((State.serve_serving hserv _).trans ((if_neg harg).trans ht))
  refine ⟨fun hrun hph hboxes => ⟨fun hnil => ?_, fun h2 hmax htie hst hidle hr => ?_⟩, fun hrun => ?_⟩
  · have hidle : ¬(s.job.running || !(s.record.phase == 0 || s.record.phase == 0x0B)) = true := by rcases hph with h | h <;> simp [hrun, h]
    have hlen0 : t0.entries.length = 0 := by rw [hnil]; rfl
    refine ⟨_, hexec _ ((if_neg hidle).trans (if_pos hlen0)), ?_⟩
    have hold := State.installTable_eq (s := s) none 0 0 t0.epoch hboxes
    obtain ⟨u, hu⟩ : ∃ u, u = s.installTable none 0 0 t0.epoch := ⟨_, rfl⟩
    rw [← hu] at hold ⊢
    have htold := u.complete_told n 0 0 (leBytes 4 t0.epoch.toNat)
    obtain ⟨-, h2, -⟩ := u.complete_outstanding n 0 0 (leBytes 4 t0.epoch.toNat) (by rw [hold]; exact hout)
    have hp : u.record.phase = 0 := by rw [hold]; exact phase_leaves_fenced hph
    rw [htold.coll, htold.record, h2, hp, hold]
    exact ⟨rfl, rfl, rfl, rfl, rfl, rfl⟩
  · have hgo : ¬(s.job.running || !(s.record.phase == 0 || s.record.phase == 0x0B)) = true := by rcases hph with h | h <;> simp [hrun, h]
    have hfence : ¬(s.coll.state == 5 && !idle) = true := by
      by_cases h5 : s.coll.state = 5
      · simp [hidle h5]
      · rw [beq_false_of_ne h5]
        simp
    have hmatch := hexec _ ((if_neg hgo).trans (if_neg (by omega)))
    rw [tableCheck_none h2 hmax htie hst] at hmatch
    simp only [hr] at hmatch
    rw [if_neg hfence] at hmatch
    refine ⟨_, hmatch, ?_⟩
    have hold := State.installTable_eq (s := s) (some t0) r 1 t0.epoch hboxes
    obtain ⟨u, hu⟩ : ∃ u, u = s.installTable (some t0) r 1 t0.epoch := ⟨_, rfl⟩
    rw [← hu] at hold ⊢
    have htold := u.complete_told n 0 0 (leBytes 4 t0.epoch.toNat)
    obtain ⟨h1, h2, -⟩ := u.complete_outstanding n 0 0 (leBytes 4 t0.epoch.toNat) (by rw [hold]; exact hout)
    have hp : u.record.phase = 0 := by rw [hold]; exact phase_leaves_fenced hph
    rw [htold.coll, htold.record, h1, h2, hp, hold]
    exact ⟨rfl, rfl, rfl, rfl, rfl, rfl, rfl, rfl⟩
  · refine ⟨_, hexec _ (if_pos (by simp [hrun])), (State.complete_told _ _ _ _ _).coll, (State.complete_told _ _ _ _ _).record, ?_⟩
    obtain ⟨h1, h2, -⟩ := State.complete_outstanding s n 7 s.wrongDetail [] hout
    exact ⟨h1, h2⟩

/-- Settles O36: rounds by the answers held, a table by what adopting it leaves, a fence by what it ends, and MEMBERSHIP_SET by its
checks. -/
theorem membershipTablesAreAdopted : Obligations.MembershipTablesAreAdopted :=
  ⟨roundsCommitWithQuorum, commitsAdoptOrFence, joinsAreProposedByTheLeader, membershipSetInstallsTheTable⟩

end Sys2Proof.Machine
end

section
/-! The CXL port: link training, host-side resets, the window, and what the host's accesses do (R36, R441 to R465, R547, R549). -/

namespace Sys2Proof.Machine

/-! ### Link training (R441, R442) -/

theorem State.raise_hasCause (s : State) (n : Nat) (hn : n < 15) : (s.raise n).cxl.cause.getLsbD n = true := by
  rw [State.raise_cause, ← setBit_true_eq_or]
  exact getLsbD_setBit_self _ hn

/-- Events and causes of the port: what they change of it is its causes and what is pending (R461, R462). -/
def State.noticed (s t : State) : Prop :=
  t = { s with cxl := { s.cxl with cause := t.cxl.cause, pba := t.cxl.pba }, log := t.log, outbox := t.outbox }

theorem State.noticed_refl (s : State) : s.noticed s := rfl

theorem State.noticed_trans {s t u : State} (h : s.noticed t) (h' : t.noticed u) : s.noticed u := by
  unfold State.noticed at *
  rw [h', h]

theorem State.event_noticed (s : State) (code sev src : Nat) (args : List Nat) : s.noticed (s.event code sev src args) :=
  s.event_frame code sev src args

theorem State.raise_noticed (s : State) (n : Nat) : s.noticed (s.raise n) := by
  unfold State.noticed
  obtain ⟨c, p, o, h⟩ : ∃ c p o, s.raise n = { s with cxl := { s.cxl with cause := c, pba := p }, outbox := o } := ⟨_, _, _, (s.raise_frame n).1⟩
  rw [h]

theorem exec_cxlLinkUp {rate width : Nat} (flit : Bool) {s : State} (hr : s.keeper.rails = true) (h1 : 1 ≤ rate) (h4 : rate ≤ 4)
    (hw : width = 4 ∨ width = 8 ∨ width = 16) :
    let degraded := !(rate == 4 && width == 16)
    let u : State := { s with cxl := { s.cxl with
      rate := BitVec.ofNat 3 rate, width := BitVec.ofNat 5 width, degraded := degraded, enabled := flit } }
    let v := if flit then u else u.event 0x0060 3 srcFront [rate, width]
    exec (.cxlLinkUp rate width flit) s = .next ((if degraded then v.event 0x0061 2 srcFront [rate, width] else v).raise icHostLink) := by
  intro degraded u v
  refine congrArg Host.Outcome.next (if_neg ?_)
  have hout : outside rate 1 4 = false := by simp [outside]; omega
  rcases hw with h | h | h <;> simp [hr, hout, h]

theorem hostLinkTrains : Claims.HostLinkTrains := by
  intro rate width flit s hr h1 h4
  refine ⟨fun hw => ?_, fun hn4 hn8 hn16 => ?_⟩
  · have hexec := exec_cxlLinkUp flit hr h1 h4 hw
    obtain ⟨u, hu⟩ : ∃ u : State, u = { s with cxl := { s.cxl with
      rate := BitVec.ofNat 3 rate, width := BitVec.ofNat 5 width, degraded := !(rate == 4 && width == 16), enabled := flit } } := ⟨_, rfl⟩
    obtain ⟨v, hv⟩ : ∃ v, v = if flit then u else u.event 0x0060 3 srcFront [rate, width] := ⟨_, rfl⟩
    obtain ⟨x, hx⟩ : ∃ x, x = if (!(rate == 4 && width == 16)) = true then v.event 0x0061 2 srcFront [rate, width] else v := ⟨_, rfl⟩
    have h1 : u.noticed v := by
      rw [hv]
      split
      · exact u.noticed_refl
      · exact u.event_noticed _ _ _ _
    have h2 : v.noticed x := by
      rw [hx]
      split
      · exact v.event_noticed _ _ _ _
      · exact v.noticed_refl
    have h3 : u.noticed (x.raise icHostLink) := State.noticed_trans (State.noticed_trans h1 h2) (x.raise_noticed icHostLink)
    have hexec' : exec (.cxlLinkUp rate width flit) s = .next (x.raise icHostLink) := by
      rw [hexec, hx, hv, hu]
    obtain ⟨t, ht⟩ : ∃ t, t = x.raise icHostLink := ⟨_, rfl⟩
    have hcause : t.cxl.cause.getLsbD 14 = true := by
      rw [ht]
      exact x.raise_hasCause 14 (by decide)
    have hlog : rate = 4 → width = 16 → flit = true → t.log = s.log := by
      intro hr4 hw16 hfl
      rw [ht, hx, hv, hr4, hw16, hfl, hu]
      have hlog : ∀ w : State, (w.raise icHostLink).log = w.log := fun w => (congrArg State.log (w.raise_frame icHostLink).1 :)
      exact hlog _
    rw [← ht] at h3 hexec'
    have ht' : t = { s with
        cxl := { u.cxl with cause := t.cxl.cause, pba := t.cxl.pba }, log := t.log, outbox := t.outbox } := h3.trans (by rw [hu])
    have hcxl : t.cxl = { u.cxl with cause := t.cxl.cause, pba := t.cxl.pba } := (congrArg State.cxl ht' :)
    rw [hu] at hcxl
    refine ⟨t, hexec', ?_, hcxl, hcause, hlog⟩
    rw [hu] at ht'
    rw [← hcxl] at ht'
    exact ht'
  · refine congrArg Host.Outcome.next (if_pos ?_)
    simp [hn4, hn8, hn16]

/-! ### Host-side resets (R36, R465, R547, R549) -/

/-- A state told of events and causes, the messages sent being interrupts (R462). -/
def State.rang (s t : State) : Prop := s.noticed t ∧ ∃ l, t.outbox = s.outbox ++ l ∧ ∀ m ∈ l, ∃ v, m = .msix v

theorem State.rang_refl (s : State) : s.rang s := ⟨s.noticed_refl, [], (List.append_nil _).symm, fun _ h => nomatch h⟩

theorem State.rang_trans {s t u : State} (h : s.rang t) (h' : t.rang u) : s.rang u := by
  obtain ⟨hn, l, hl, hm⟩ := h
  obtain ⟨hn', l', hl', hm'⟩ := h'
  refine ⟨State.noticed_trans hn hn', l ++ l', by rw [hl', hl, List.append_assoc], fun m hmem => ?_⟩
  rcases List.mem_append.mp hmem with h | h
  · exact hm m h
  · exact hm' m h

theorem State.raise_rang (s : State) (n : Nat) : s.rang (s.raise n) := by
  refine ⟨s.raise_noticed n, ?_⟩
  rcases (s.raise_frame n).2.1 with h | h
  · exact ⟨[], by rw [h, List.append_nil], fun _ h => nomatch h⟩
  · exact ⟨[.msix n], h, fun m hm => ⟨n, List.mem_singleton.mp hm⟩⟩

theorem State.rang_log (s : State) (l : Log) : s.rang { s with log := l } :=
  ⟨rfl, [], (List.append_nil _).symm, fun _ h => nomatch h⟩

theorem State.store_rang (s : State) (code sev src : Nat) (args : List Nat) : s.rang (s.store code sev src args) := by
  unfold State.store
  simp only []
  split
  · exact State.rang_trans (s.rang_log _) (State.raise_rang _ icEvent)
  · exact s.rang_log _

theorem State.event_rang (s : State) (code sev src : Nat) (args : List Nat) : s.rang (s.event code sev src args) := by
  unfold State.event
  simp only []
  generalize (if s.log.msNo = s.uptime / 1000000 then s.log else { s.log with msNo := s.uptime / 1000000, inMs := 0 }) = l
  by_cases h : 256 ≤ l.inMs ∧ sev ≤ 1
  · rw [if_pos h]
    exact s.rang_log _
  · rw [if_neg h]
    exact State.rang_trans (s.rang_log _) (State.store_rang _ code sev src args)

/-- What a reset of the host's side clears whatever the port's causes were (R465). -/
def clearsCauses (f : Cxl → Cxl) : Prop :=
  (∀ (x : Cxl) (c : BitVec 15) (p : W16), f { x with cause := c, pba := p } = f x) ∧ ∀ x, (f x).cause = 0 ∧ (f x).msixEn = false

theorem clearsCauses_flr : clearsCauses Cxl.flr := ⟨fun _ _ _ => rfl, fun _ => ⟨rfl, rfl⟩⟩

theorem clearsCauses_down : clearsCauses Cxl.down := ⟨fun _ _ _ => rfl, fun _ => ⟨rfl, rfl⟩⟩

/-- READY falls (R36). -/
theorem State.dropReady_rang (s : State) : State.rang { s with keeper := { s.keeper with ready := false } } s.dropReady := by
  unfold State.dropReady
  split
  · exact State.raise_rang _ _
  · next h =>
    have hr : s.keeper.ready = false := by simpa using h
    rw [← hr]
    exact State.rang_refl s

theorem State.hostReset_spec {s : State} (hstep : s.keeper.step = 11) (cls : Nat) {f : Cxl → Cxl} (hf : clearsCauses f) :
    let t := s.hostReset cls f
    t = { s with cxl := t.cxl, log := t.log, keeper := t.keeper, freeCount := t.freeCount, outbox := t.outbox } ∧
      t.keeper = { s.keeper with cls := cls, trigger := t.keeper.trigger, ready := s.readyCond } ∧
      t.cxl = { f s.cxl with cause := if s.readyCond then 0x0200 else 0 } ∧
      ∃ l, t.outbox = s.outbox ++ l ∧ ∀ m ∈ l, ∃ v, m = .msix v := by
  obtain ⟨hfx, hf0⟩ := hf
  obtain ⟨trig, htrig⟩ : ∃ n, n = s.fresh.1.toNat % 8 := ⟨_, rfl⟩
  obtain ⟨u, hu⟩ : ∃ u : State, u = { s with freeCount := s.freeCount + 1, keeper := { s.keeper with cls := cls, trigger := trig } } := ⟨_, rfl⟩
  have htaken : s.fresh.2.classTaken cls trig = u.event 0x0110 1 srcKeeper [cls, trig, s.uptime] := by
    have hstart : s.fresh.2.keeper.starting = false := by
      change (decide (s.keeper.step < 11) && _) = false
      rw [hstep]
      rfl
    unfold State.classTaken
    rw [hstart, hu]
    rfl
  obtain ⟨v, hv⟩ : ∃ v, v = (s.fresh.2.classTaken cls trig).dropReady := ⟨_, rfl⟩
  have hring : State.rang { u with keeper := { u.keeper with ready := false } } v := by
    rw [hv, htaken]
    obtain ⟨hn, hl⟩ := u.event_rang 0x0110 1 srcKeeper [cls, trig, s.uptime]
    refine State.rang_trans ⟨?_, ?_⟩ (State.dropReady_rang _)
    · unfold State.noticed at hn ⊢
      rw [hn]
    · exact hl
  obtain ⟨hn, l, hl, hm⟩ := hring
  unfold State.noticed at hn
  have hcxl : f v.cxl = f s.cxl := by
    rw [hn, hu]
    exact hfx s.cxl _ _
  have hready : ({ v with cxl := f v.cxl } : State).readyCond = s.readyCond := by rw [hn, hu]; rfl
  have hkeep : v.keeper.ready = false := by rw [hn]
  have hmay : (Cxl.mayRaise { f s.cxl with cause := setBit (f s.cxl).cause icReady true } icReady) = false := by
    unfold Cxl.mayRaise
    rw [show ({ f s.cxl with cause := setBit (f s.cxl).cause icReady true } : Cxl).msixEn = false from (hf0 s.cxl).2]
    simp
  have ht : s.hostReset cls f = if s.readyCond then
      { v with cxl := { f s.cxl with cause := 0x0200 }, keeper := { v.keeper with ready := true } } else { v with cxl := f s.cxl } := by
    have hdef : s.hostReset cls f = ({ v with cxl := f v.cxl } : State).readyUpdate := by
      rw [hv, htrig]
      rfl
    rw [hdef]
    unfold State.readyUpdate
    rw [hready, hcxl]
    change (if v.keeper.ready = s.readyCond then _ else _) = _
    rw [hkeep]
    cases hrc : s.readyCond with
    | false => rfl
    | true =>
      rw [if_neg (by decide), if_pos rfl]
      unfold State.raise
      simp only [(hf0 s.cxl).1]
      rw [if_neg (by decide)]
      have hmay' := hmay
      rw [(hf0 s.cxl).1] at hmay'
      simp only [hmay', Bool.not_false, if_true]
      rfl
  intro t
  have ht' : t = s.hostReset cls f := rfl
  rw [ht] at ht'
  clear_value t
  rw [ht']
  cases s.readyCond with
  | false =>
    refine ⟨?_, ?_, ?_, l, ?_, hm⟩
    · rw [if_neg (by decide), hn, hu]
    · rw [if_neg (by decide), hn, hu]
    · rw [if_neg (by decide), if_neg (by decide)]
      rw [← (hf0 s.cxl).1]
    · rw [if_neg (by decide), hl, hu]
  | true =>
    refine ⟨?_, ?_, ?_, l, ?_, hm⟩
    · rw [if_pos rfl, hn, hu]
    · rw [if_pos rfl, hn, hu]
    · rw [if_pos rfl, if_pos rfl]
    · rw [if_pos rfl, hl, hu]

theorem hostResetsClearTheHostSide : Claims.HostResetsClearTheHostSide := by
  intro s hstep hrate clean down
  have hflr : ∀ c : BitVec 15, ({ Cxl.flr s.cxl with cause := c } : Cxl) = { s.cxl with
    cause := c, mask := 0x7FFF, vecMask := 0xFFFF, msixTable := [], pba := 0, msixEn := false, funcMask := false } := fun _ => rfl
  have hdown : ∀ c : BitVec 15, ({ Cxl.down s.cxl with cause := c } : Cxl) = { down with
    cause := c, mask := 0x7FFF, vecMask := 0xFFFF, msixTable := [], pba := 0, msixEn := false, funcMask := false } := fun _ => rfl
  have h5 := State.hostReset_spec hstep 5 clearsCauses_down
  have h4 := State.hostReset_spec hstep 4 clearsCauses_flr
  rw [hdown] at h5
  rw [hflr] at h4
  exact ⟨⟨_, congrArg Host.Outcome.next (if_neg hrate), h5⟩, ⟨_, rfl, h5⟩, ⟨_, rfl, h4⟩⟩

theorem decoderCommitsTheWindow : Claims.DecoderCommitsTheWindow := by
  intro size ways skip s hrate hen good
  have hup : ¬(s.cxl.rate = 0 || !s.cxl.enabled) = true := by simpa [hen] using hrate
  exact ⟨fun h => congrArg Host.Outcome.next ((if_neg hup).trans (if_pos h)), fun h => congrArg Host.Outcome.next ((if_neg hup).trans (if_neg h))⟩

/-! ### Reads of the window (R252, R448, R449) -/

/-- A word that reads clean, where it lies. -/
theorem State.demandRead_of_clean {s : State} {a : Nat} {d : List Byte} (h : s.tierCheck a (s.tierRaw a) = .clean d) :
    s.demandRead a = (some d, s) := by
  simp only [State.demandRead, State.tierRead, h]

theorem filter_room {line : Nat} {s : State} (hroom : line ∈ s.cxl.filter ∨ ¬filterSize ≤ s.cxl.filter.length) :
    ¬(!s.cxl.filter.contains line && decide (filterSize ≤ s.cxl.filter.length)) = true := by
  rcases hroom with h | h <;> simp [h]

theorem line_taken {line : Nat} {s : State} (hopen : s.lineOpen line = true) (hsn : line ∉ s.cxl.snoops) :
    ¬(!s.lineOpen line || s.cxl.snoops.contains line) = true := by simp [hopen, hsn]

/-- A line joins the ownership filter where it is not there (R448). -/
theorem State.track_eq {s : State} {l : List Nat} (h : s.cxl.filter = l) (line : Nat) :
    (if l.contains line then s else { s with cxl := { s.cxl with filter := l ++ [line] } }) =
      { s with cxl := { s.cxl with filter := if line ∈ l then l else l ++ [line] } } := by
  by_cases hin : line ∈ l
  · rw [if_pos (List.contains_iff_mem.mpr hin), if_pos hin, ← h]
  · rw [if_neg (fun hc => hin (List.contains_iff_mem.mp hc)), if_neg hin]

theorem exec_cxlMemRead {line : Nat} {s : State} {d0 d1 : Option (List Byte)} {s1 s2 : State} {a : Nat}
    (htake : ¬(!s.lineOpen line || s.cxl.snoops.contains line) = true)
    (hfull : ¬(!s.cxl.filter.contains line && decide (filterSize ≤ s.cxl.filter.length)) = true)
    (ha : windowAddr (64 * line) = a) (h0 : s.demandRead a = (d0, s1)) (h1 : s1.demandRead (a + 32) = (d1, s2))
    (hfil : s2.cxl.filter = s.cxl.filter) :
    exec (.cxlMemRead line) s = .next (State.send (if s.cxl.filter.contains line then s2 else { s2 with cxl := { s2.cxl with filter := s.cxl.filter ++ [line] } })
      (.cxlMem line (d0.getD ((s.tierRaw a).take 32) ++
        d1.getD ((s.tierRaw (a + 32)).take 32)) (d0.isNone || d1.isNone))) := by
  change execCxlMemRead line s = _
  unfold execCxlMemRead
  refine congrArg Host.Outcome.next ((if_neg htake).trans ((if_neg hfull).trans ?_))
  rw [ha]
  simp only [h0, h1, hfil]

theorem hostReadsReturnTheLine : Claims.HostReadsReturnTheLine := by
  intro line old rest d0 d1 s s1 s2 hopen hsn
  obtain ⟨w, hw⟩ : ∃ w, windowAddr (64 * line) = w := ⟨_, rfl⟩
  rw [hw]
  intro a full tracked
  refine ⟨fun hroom h0 h1 => ?_, fun hroom h0 h1 hfil => ?_, fun hfil hfull hnot hold => ?_, fun hfil hfull hold => ?_, ?_⟩
  · rw [exec_cxlMemRead (line_taken hopen hsn) (filter_room hroom) hw (State.demandRead_of_clean h0) (State.demandRead_of_clean h1) rfl,
      State.track_eq rfl]
    rfl
  · rw [exec_cxlMemRead (line_taken hopen hsn) (filter_room hroom) hw h0 h1 hfil, State.track_eq hfil]
    rfl
  · change execCxlMemRead line s = _
    unfold execCxlMemRead
    have hfull' : filterSize ≤ s.cxl.filter.length := hfull
    refine congrArg Host.Outcome.next ((if_neg (by simp [hopen, hsn])).trans ((if_pos (by simp [hnot, hfull'])).trans ?_))
    simp only [hfil]
    exact if_neg (by simpa using hold)
  · have hfull' : filterSize ≤ s.cxl.filter.length := hfull
    refine congrArg Host.Outcome.next ((if_pos (by simpa using hold)).trans ?_)
    have hev : (decide (filterSize ≤ s.cxl.filter.length) && s.cxl.filter.head? == some old) = true := by
      rw [decide_eq_true hfull', hfil]
      simp
    simp only [hev, if_true]
    rw [hfil]
    rfl
  · exact congrArg Host.Outcome.next (if_neg (by simpa using hsn))

/-! ### Writes of the window (R449) -/

theorem exec_cxlMemWrite_closed {line : Nat} (data : List Byte) (enables : W64) {s : State} (h : s.lineOpen line = false) :
    exec (.cxlMemWrite line data enables) s = .next s ∧ exec (.cxlMemRead line) s = .next s :=
  ⟨congrArg Host.Outcome.next (if_pos (by simp [h])), congrArg Host.Outcome.next (if_pos (by simp [h]))⟩

/-- Two words stored side by side. -/
theorem State.tierPut_pair {s : State} {a : Nat} {x y : List Byte} (hx : x.length = 36) (hy : y.length = 36)
    (hdead0 : s.deadGranule a = false) (hdead1 : s.deadGranule (a + 32) = false) (hwf : Mem.wf s.tiers = true) :
    let t := (s.tierPut a x).tierPut (a + 32) y
    t = { s with tiers := t.tiers } ∧ rawWord t.tiers (a / 32) = x ∧ rawWord t.tiers (a / 32 + 1) = y ∧
      ∀ q, q ≠ a / 32 → q ≠ a / 32 + 1 → rawWord t.tiers q = rawWord s.tiers q := by
  intro t
  have hnext : (a + 32) / 32 = a / 32 + 1 := by omega
  have h0 : s.tierPut a x = { s with tiers := putWord s.tiers (a / 32) x } := by
    unfold State.tierPut
    rw [hdead0]
    rfl
  have ht : t = { s with tiers := putWord (putWord s.tiers (a / 32) x) (a / 32 + 1) y } := by
    change (s.tierPut a x).tierPut (a + 32) y = _
    rw [h0]
    unfold State.tierPut
    rw [show ({ s with tiers := putWord s.tiers (a / 32) x } : State).deadGranule (a + 32) = false from hdead1, hnext]
    rfl
  have hwf1 : Mem.wf (putWord s.tiers (a / 32) x) = true := putWord_wf _ _ _ hwf
  have hraw : ∀ q, rawWord t.tiers q = if q = a / 32 + 1 then y else if q = a / 32 then x else rawWord s.tiers q := by
    intro q
    rw [ht]
    rw [rawWord_putWord _ _ _ hwf1 hy q, rawWord_putWord s.tiers _ _ hwf hx q]
  refine ⟨?_, ?_, ?_, fun q h1 h2 => ?_⟩
  · rw [ht]
  · rw [hraw, if_neg (by omega), if_pos rfl]
  · rw [hraw, if_pos rfl]
  · rw [hraw, if_neg h2, if_neg h1]

theorem exec_cxlMemWrite_whole {line : Nat} {data : List Byte} {s : State} {a : Nat} (hlen : data.length = 64)
    (htake : ¬(!s.lineOpen line || s.cxl.snoops.contains line) = true) (ha : windowAddr (64 * line) = a) :
    exec (.cxlMemWrite line data (BitVec.allOnes 64)) s =
      .next (((s.tierPut a (encodeWord (data.take 32))).tierPut (a + 32) (encodeWord (data.drop 32))).send (.cxlDone line)) := by
  have h0 : fitBytes 32 data = data.take 32 := by
    unfold fitBytes
    rw [hlen]
    exact List.append_nil _
  have h1 : fitBytes 32 (data.drop 32) = data.drop 32 := fitBytes_self (by rw [List.length_drop, hlen])
  change execCxlMemWrite line data (BitVec.allOnes 64) s = _
  unfold execCxlMemWrite
  refine congrArg Host.Outcome.next ((if_neg htake).trans ?_)
  rw [ha, h0, h1]
  simp only [if_true]

theorem exec_cxlMemWrite_part {line : Nat} {data : List Byte} {enables : W64} {s s1 s2 : State} {a : Nat} {d0 d1 : List Byte}
    (htake : ¬(!s.lineOpen line || s.cxl.snoops.contains line) = true) (hen : enables ≠ BitVec.allOnes 64)
    (ha : windowAddr (64 * line) = a) (h0 : s.demandRead a = (some d0, s1)) (h1 : s1.demandRead (a + 32) = (some d1, s2)) :
    exec (.cxlMemWrite line data enables) s =
      .next (((s2.tierPut a (encodeWord (mergeBytes d0 data enables.getLsbD 0))).tierPut (a + 32)
        (encodeWord (mergeBytes d1 data enables.getLsbD 32))).send (.cxlDone line)) := by
  change execCxlMemWrite line data enables s = _
  unfold execCxlMemWrite
  refine congrArg Host.Outcome.next ((if_neg htake).trans ?_)
  rw [ha]
  simp only [if_neg hen, h0, h1]

theorem exec_cxlMemWrite_lost {line : Nat} {data : List Byte} {enables : W64} {s s1 s2 : State} {a : Nat} {d1 : Option (List Byte)}
    (htake : ¬(!s.lineOpen line || s.cxl.snoops.contains line) = true) (hen : enables ≠ BitVec.allOnes 64)
    (ha : windowAddr (64 * line) = a) (h0 : s.demandRead a = (none, s1)) (h1 : s1.demandRead (a + 32) = (d1, s2)) :
    exec (.cxlMemWrite line data enables) s =
      .next (((s2.tierPut a lostWord).tierPut (a + 32) lostWord).send (.cxlDone line)) := by
  change execCxlMemWrite line data enables s = _
  unfold execCxlMemWrite
  refine congrArg Host.Outcome.next ((if_neg htake).trans ?_)
  rw [ha]
  simp only [if_neg hen, h0, h1]

theorem length_mergeBytes (old new : List Byte) (en : Nat → Bool) (o : Nat) : (mergeBytes old new en o).length = 32 := by
  simp [mergeBytes]

theorem length_lostWord : lostWord.length = 36 := by decide +kernel

/-- A host's write of a line: its two words stored, and the write answered (R449). -/
theorem State.lineStored {s : State} {a line : Nat} {x y : List Byte} (hx : x.length = 36) (hy : y.length = 36)
    (hdead0 : s.deadGranule a = false) (hdead1 : s.deadGranule (a + 32) = false) (hwf : Mem.wf s.tiers = true) :
    let t := ((s.tierPut a x).tierPut (a + 32) y).send (.cxlDone line)
    t = { s with tiers := t.tiers, outbox := s.outbox ++ [.cxlDone line] } ∧ rawWord t.tiers (a / 32) = x ∧
      rawWord t.tiers (a / 32 + 1) = y ∧ ∀ q, q ≠ a / 32 → q ≠ a / 32 + 1 → rawWord t.tiers q = rawWord s.tiers q := by
  obtain ⟨hframe, h0, h1, hrest⟩ := State.tierPut_pair hx hy hdead0 hdead1 hwf
  generalize (s.tierPut a x).tierPut (a + 32) y = u at hframe h0 h1 hrest ⊢
  refine ⟨?_, h0, h1, hrest⟩
  rw [hframe]
  rfl

theorem hostWritesStoreTheLine : Claims.HostWritesStoreTheLine := by
  intro line data d0 d1 enables s s1 s2 hlen hsn hwf
  obtain ⟨w, hw⟩ : ∃ w, windowAddr (64 * line) = w := ⟨_, rfl⟩
  rw [hw]
  intro a stored merged
  have hlenWord : ∀ d : List Byte, d.length = 32 → (encodeWord d).length = 36 := fun d h => by rw [length_encodeWord, h]
  refine ⟨fun hopen hdead0 hdead1 => ⟨fun hall => ?_, fun hen hc0 hc1 => ?_, fun hen h0 h1 hd0 hd1 hwf2 => ?_⟩,
    exec_cxlMemWrite_closed data enables⟩
  · rw [hall]
    exact ⟨_, exec_cxlMemWrite_whole hlen (line_taken hopen hsn) hw,
      State.lineStored (hlenWord _ (by rw [List.length_take, hlen]; rfl)) (hlenWord _ (by rw [List.length_drop, hlen])) hdead0 hdead1 hwf⟩
  · exact ⟨_, exec_cxlMemWrite_part (line_taken hopen hsn) hen hw (State.demandRead_of_clean hc0) (State.demandRead_of_clean hc1),
      State.lineStored (hlenWord _ (length_mergeBytes _ _ _ _)) (hlenWord _ (length_mergeBytes _ _ _ _)) hdead0 hdead1 hwf⟩
  · exact ⟨_, exec_cxlMemWrite_lost (line_taken hopen hsn) hen hw h0 h1,
      State.lineStored length_lostWord length_lostWord hd0 hd1 hwf2⟩

/-! ### Snoops, DOE, vectors and the mirror (R445, R454, R462, R463) -/

theorem exec_msixVectorUnmask (v : Fin 16) (s : State) : exec (.msixVectorUnmask v) s = .next (s.unmask v.val) := rfl

theorem State.unmask_pending {s : State} {v : Nat} (hp : s.cxl.pba.getLsbD v = true) (hen : s.cxl.msixEn = true)
    (hf : s.cxl.funcMask = false) :
    s.unmask v = { s with
      cxl := { s.cxl with vecMask := s.cxl.vecMask &&& ~~~(1#16 <<< v), pba := s.cxl.pba &&& ~~~(1#16 <<< v) }
      outbox := s.outbox ++ [.msix v] } := by
  unfold State.unmask
  simp only [setBit_false_eq_and]
  exact if_pos (by simp [hp, hen, hf])

theorem State.unmask_clear {s : State} {v : Nat} (hp : s.cxl.pba.getLsbD v = false) :
    s.unmask v = { s with cxl := { s.cxl with vecMask := s.cxl.vecMask &&& ~~~(1#16 <<< v) } } := by
  unfold State.unmask
  rw [setBit_false_eq_and]
  exact if_neg (by simp [hp])

theorem State.mirrorBytes_head (s : State) : s.mirrorBytes.take 12 = leBytes 8 s.keeper.uptime.toNat ++ leBytes 4 s.keeper.boot.toNat := by
  unfold State.mirrorBytes
  simp only [List.append_assoc]
  rw [← List.append_assoc (leBytes 8 _)]
  exact List.take_left' (by simp [length_leBytes])

theorem hostServicesAnswer : Claims.HostServicesAnswer := by
  intro addr discovery v s
  refine ⟨fun hr he => ?_, fun hr => ?_, ?_, ?_⟩
  · exact congrArg Host.Outcome.next (if_pos (by simpa [he] using hr))
  · exact congrArg Host.Outcome.next (if_neg hr)
  · intro x
    refine ⟨fun hp hen hf => ?_, fun hp => ?_⟩
    · rw [exec_msixVectorUnmask, State.unmask_pending hp hen hf]
    · rw [exec_msixVectorUnmask, State.unmask_clear hp]
  · refine ⟨_, rfl, ?_, fun hr => ?_, fun hr => ?_⟩
    · split <;> rfl
    · rw [if_neg (by simp [hr])]
    · rw [if_pos hr]
      exact ⟨rfl, s.mirrorBytes_head⟩

/-- Settles O37: training fixes rate and width, each reset clears the host's side and READY comes back by its conditions, and the decoder
commits the whole window alone. -/
theorem hostLinkTrainsAndResets : Obligations.HostLinkTrainsAndResets :=
  ⟨hostLinkTrains, hostResetsClearTheHostSide, decoderCommitsTheWindow⟩

/-- Settles O38: each access of the host's is one branch of its command over the two words of its line. -/
theorem hostAccessesReachTheWindow : Obligations.HostAccessesReachTheWindow :=
  ⟨hostReadsReturnTheLine, hostWritesStoreTheLine, hostServicesAnswer⟩

end Sys2Proof.Machine
end

section
/-! The commands that read status (R483 to R485, R494, R526, R532, R578): each completes with its output, and each field of an output
stands where its list of lengths puts it. -/

namespace Sys2Proof.Machine

/-! ### Fields of an output -/

theorem field_skip {a : List Byte} (l : List Byte) {off : Nat} (n : Nat) (h : a.length ≤ off) :
    Claims.field (a ++ l) off n = Claims.field l (off - a.length) n := by
  unfold Claims.field
  rw [List.drop_append, List.drop_of_length_le h, List.nil_append]

theorem field_here {a : List Byte} (l : List Byte) {n : Nat} (h : a.length = n) : Claims.field (a ++ l) 0 n = leNat a := by
  unfold Claims.field
  rw [List.drop_zero, List.take_left' h]

theorem field_leBytes_skip {m : Nat} (v : Nat) (l : List Byte) {off : Nat} (n : Nat) (h : m ≤ off) :
    Claims.field (leBytes m v ++ l) off n = Claims.field l (off - m) n := by
  rw [field_skip l n (by rwa [length_leBytes]), length_leBytes]

theorem field_zeroBytes_skip {m : Nat} (l : List Byte) {off : Nat} (n : Nat) (h : m ≤ off) :
    Claims.field (zeroBytes m ++ l) off n = Claims.field l (off - m) n := by
  have hlen : (zeroBytes m).length = m := List.length_replicate
  rw [field_skip l n (by rwa [hlen]), hlen]

theorem field_fitBytes_skip {m : Nat} (a l : List Byte) {off : Nat} (n : Nat) (h : m ≤ off) :
    Claims.field (fitBytes m a ++ l) off n = Claims.field l (off - m) n := by
  rw [field_skip l n (by rwa [length_fitBytes]), length_fitBytes]

theorem field_byte_skip (x : Byte) (l : List Byte) {off : Nat} (n : Nat) (h : 1 ≤ off) :
    Claims.field (x :: l) off n = Claims.field l (off - 1) n := field_skip (a := [x]) l n h

theorem field_leBytes_here (n v : Nat) (l : List Byte) : Claims.field (leBytes n v ++ l) 0 n = v % 2 ^ (8 * n) := by
  rw [field_here l (length_leBytes n v), leNat_leBytes, pow_mul]
  rfl

theorem field_byte_here (x : Byte) (l : List Byte) : Claims.field (x :: l) 0 1 = x.toNat := by
  rw [show x :: l = [x] ++ l from rfl, field_here (a := [x]) (n := 1) l rfl]
  simp [leNat]

/-- A word fits in a field at least as wide. -/
theorem toNat_mod_field {w : Nat} (x : BitVec w) {n : Nat} (h : w ≤ 8 * n) : x.toNat % 2 ^ (8 * n) = x.toNat :=
  Nat.mod_eq_of_lt (x.isLt.trans_le (Nat.pow_le_pow_right (by decide) h))

/-- A field within entry `k` of a list of entries of one length. -/
theorem field_flatMap_range {m : Nat} {g : Nat → List Byte} (hlen : ∀ i, (g i).length = m) {o n : Nat} (l : List Byte) (ho : o + n ≤ m) :
    ∀ {c k : Nat}, k < c → Claims.field ((List.range c).flatMap g ++ l) (m * k + o) n = Claims.field (g k) o n := by
  intro c k hk
  have hsplit : List.range c = List.range k ++ k :: (List.range' (k + 1) (c - k - 1)) := by
    rw [List.range_eq_range', List.range_eq_range', ← List.range'_succ, show c - k - 1 + 1 = c - k by omega]
    have h := List.range'_append_1 (s := 0) (m := k) (n := c - k)
    rw [Nat.zero_add, show k + (c - k) = c by omega] at h
    exact h.symm
  have hpre : ∀ j : Nat, ((List.range j).flatMap g).length = m * j := fun j => by
    simp [List.length_flatMap, hlen, Nat.mul_comm]
  rw [hsplit, List.flatMap_append, List.flatMap_cons, List.append_assoc, List.append_assoc,
    field_skip _ n (by rw [hpre]; omega), hpre, Nat.add_sub_cancel_left]
  unfold Claims.field
  rw [List.drop_append_of_le_length (by rw [hlen]; omega), List.take_append_of_le_length (by rw [List.length_drop, hlen]; omega)]

theorem toNat_slotNo (b : Bool) : slotNo b % 2 ^ 8 = if b then 1 else 0 := by cases b <;> rfl

/-! ### Identity, log and step (R484, R485, R494) -/

theorem State.identity_length (s : State) : s.identity.length = 128 := by
  simp [State.identity, length_fitBytes, length_leBytes, zeroBytes]

theorem Part.number_head (p : Part) (l : List Byte) : (fitBytes 16 p.number ++ l).take 7 = [0x4F, 0x4D, 0x58, 0x2D, 0x4A, 0x32, 0x2D] := by
  unfold fitBytes Part.number
  rw [List.append_assoc, List.take_append_of_le_length (by simp)]
  rfl

theorem State.identity_fields (s : State) : let f := Claims.field
    f s.identity 0x20 2 = s.part.grade % 2 ^ 16 ∧ f s.identity 0x22 1 = s.part.stepping.toNat ∧
    f s.identity 0x23 1 = (if s.fw.active then 1 else 0) ∧ f s.identity 0x24 4 = s.fw.versions.1.toNat ∧
    f s.identity 0x28 4 = s.fw.versions.2.1.toNat ∧ f s.identity 0x2C 4 = s.fw.versions.2.2.toNat ∧
    f s.identity 0x30 4 = 0x00010000 ∧ f s.identity 0x34 4 = s.keeper.boot.toNat ∧ f s.identity 0x38 2 = s.weir.addr.toNat := by
  intro f
  unfold State.identity
  simp only [List.append_assoc, List.singleton_append, f]
  refine ⟨?_, ?_, ?_, ?_, ?_, ?_, ?_, ?_, ?_⟩
  case refine_7 => simp [field_fitBytes_skip, field_leBytes_skip, field_byte_skip, field_leBytes_here]
  all_goals
    simp [field_fitBytes_skip, field_leBytes_skip, field_byte_skip, -Nat.reducePow, -Nat.reduceMul, field_leBytes_here, field_byte_here, toNat_slotNo]

theorem Log.read_fields (l : Log) (fromSeq max sev : Nat) :
    let o := l.read fromSeq max false sev
    let es := (l.ring.filter fun e => decide (fromSeq ≤ e.seq.toNat) && decide (sev ≤ e.severity)).take max
    Claims.field o 8 8 = l.nextSeq.toNat ∧ Claims.field o 16 4 = es.length % 2 ^ 32 ∧ o.drop 64 = es.flatMap Event.bytes := by
  intro o es
  obtain ⟨a, b, ho⟩ : ∃ a b, o = leBytes 8 a ++ leBytes 8 l.nextSeq.toNat ++ leBytes 4 es.length ++ leBytes 4 b ++ zeroBytes 40 ++
      es.flatMap Event.bytes := ⟨_, _, rfl⟩
  simp only [List.append_assoc] at ho
  rw [ho]
  refine ⟨?_, ?_, ?_⟩
  · simp [field_leBytes_skip, field_leBytes_here, -Nat.reducePow, -Nat.reduceMul]
  · simp [field_leBytes_skip, field_leBytes_here]
  · simp only [← List.append_assoc]
    exact List.drop_left' (by simp [length_leBytes, zeroBytes])

theorem StepRecord.bytes_length (r : StepRecord) : r.bytes.length = 48 := by
  simp [StepRecord.bytes, length_leBytes, zeroBytes]

theorem StepRecord.bytes_fields (r : StepRecord) (l : List Byte) : let o := r.bytes ++ l
    Claims.field o 0 8 = r.globalStep.toNat ∧ Claims.field o 8 1 = r.phase.toNat ∧ Claims.field o 9 1 = (if r.slot then 1 else 0) ∧
    Claims.field o 0x0C 4 = r.epoch.toNat ∧ Claims.field o 0x10 8 = r.doneStep.toNat ∧ Claims.field o 0x18 2 = r.doneMask.toNat ∧
    Claims.field o 0x1A 1 = r.result.toNat ∧ Claims.field o 0x20 16 = r.digest.toNat := by
  intro o
  simp only [o]
  unfold StepRecord.bytes
  simp only [List.append_assoc, List.singleton_append]
  refine ⟨?_, ?_, ?_, ?_, ?_, ?_, ?_, ?_⟩ <;>
    simp [field_zeroBytes_skip, field_leBytes_skip, field_byte_skip, -Nat.reducePow, -Nat.reduceMul, field_leBytes_here, field_byte_here, toNat_slotNo]

theorem State.stepStatus_length (s : State) (h : Nat) : (s.stepStatus h).length = 728 := by
  unfold State.stepStatus
  have htotals : ∀ g : Nat → Nat, ((List.range 59).flatMap fun i => leBytes 8 (g i)).length = 472 := fun g => by
    simp [List.length_flatMap, length_leBytes]
  simp only [List.length_append, StepRecord.bytes_length, length_leBytes, zeroBytes, List.length_replicate, htotals]

theorem State.stepStatus_head (s : State) (h : Nat) : s.record.bytes <+: s.stepStatus h := by
  unfold State.stepStatus
  simp only [List.append_assoc]
  exact List.prefix_append _ _

/-! ### The throttle log, the margin ledger and the evidence (R526, R532, R578) -/

/-- An entry of GET_THROTTLE_LOG (R526). -/
def Throttle.entry (t : Throttle) : List Byte :=
  leBytes 8 t.count.toNat ++ leBytes 8 (min (t.ns / 1000) (2 ^ 64 - 1)) ++ leBytes 8 t.onset.toNat

theorem Throttle.entry_length (t : Throttle) : t.entry.length = 24 := by simp [Throttle.entry, length_leBytes]

theorem Throttle.entry_fields (t : Throttle) :
    Claims.field t.entry 0 8 = t.count.toNat ∧ Claims.field t.entry 16 8 = t.onset.toNat := by
  unfold Throttle.entry
  refine ⟨?_, ?_⟩
  · rw [List.append_assoc, field_leBytes_here, toNat_mod_field _ (by decide)]
  · rw [← List.append_nil (leBytes 8 t.onset.toNat), List.append_assoc, field_leBytes_skip _ _ _ (by decide),
      field_leBytes_skip _ _ _ (by decide), field_leBytes_here, toNat_mod_field _ (by decide)]

theorem Point.bytes_length (p : Point) : p.bytes.length = 8 := by simp [Point.bytes, length_leBytes, zeroBytes]

theorem Point.bytes_fields (p : Point) : Claims.field p.bytes 0 2 = p.vmin % 2 ^ 16 ∧ Claims.field p.bytes 2 2 = p.vneed % 2 ^ 16 := by
  unfold Point.bytes
  simp only [List.append_assoc]
  refine ⟨field_leBytes_here _ _ _, ?_⟩
  rw [field_leBytes_skip _ _ _ (by decide)]
  exact field_leBytes_here _ _ _

theorem State.ledger_fields (s : State) :
    Claims.field s.ledger 0 8 = s.sluice.lastPlan.toNat ∧ Claims.field s.ledger 8 4 = s.sluice.planCount.toNat ∧
      ∀ k < 30, Claims.field s.ledger (64 + 8 * k) 2 = (s.sluice.points.get (.made 0) k).vmin % 2 ^ 16 ∧
        Claims.field s.ledger (66 + 8 * k) 2 = (s.sluice.points.get (.made 0) k).vneed % 2 ^ 16 := by
  obtain ⟨pre, hp⟩ : ∃ pre, pre = leBytes 8 s.sluice.lastPlan.toNat ++ leBytes 4 s.sluice.planCount.toNat ++ leBytes 2 s.aclkTop ++
    leBytes 2 (ofSigned 16 s.leastMargin) ++ leBytes 2 850 ++ leBytes 2 (ofSigned 16 s.sluice.hubMargin) ++ zeroBytes 44 := ⟨_, rfl⟩
  have hlen : pre.length = 64 := by
    rw [hp]
    simp [length_leBytes, zeroBytes]
  obtain ⟨r0, r1, r2, r3, hl⟩ : ∃ r0 r1 r2 r3, s.ledger =
      pre ++ ((List.range 30).flatMap fun k => (s.sluice.points.get (.made 0) k).bytes) ++ r0 ++ r1 ++ r2 ++ r3 := by
    rw [hp]
    exact ⟨_, _, _, _, rfl⟩
  simp only [List.append_assoc] at hl hp
  have hpoint : ∀ k < 30, ∀ o, o + 2 ≤ 8 → Claims.field s.ledger (64 + (8 * k + o)) 2 =
      Claims.field (s.sluice.points.get (.made 0) k).bytes o 2 := fun k hk o ho => by
    rw [hl, field_skip _ _ (by rw [hlen]; omega), hlen, Nat.add_sub_cancel_left]
    exact field_flatMap_range (fun i => Point.bytes_length _) _ ho hk
  refine ⟨?_, ?_, fun k hk => ⟨?_, ?_⟩⟩
  · rw [hl, hp, List.append_assoc, field_leBytes_here, toNat_mod_field _ (by decide)]
  · rw [hl, hp, List.append_assoc, List.append_assoc, field_leBytes_skip _ _ _ (by decide), field_leBytes_here, toNat_mod_field _ (by decide)]
  · exact (hpoint k hk 0 (by decide)).trans (Point.bytes_fields _).1
  · rw [show 66 + 8 * k = 64 + (8 * k + 2) by omega]
    exact (hpoint k hk 2 (by decide)).trans (Point.bytes_fields _).2

/-- A record, its signature and a certificate after it (R578). -/
theorem signed_parts {snap sig cert : List Byte} {m k : Nat} (h : snap.length = m) (hk : sig.length = k) :
    ∀ o, o = snap ++ sig ++ leBytes 4 cert.length ++ cert → o.take m = snap ∧ (o.drop m).take k = sig ∧ Claims.field o (m + k) 4 = cert.length % 2 ^ 32 := by
  intro o ho
  simp only [List.append_assoc] at ho
  refine ⟨by rw [ho]; exact List.take_left' h, ?_, ?_⟩
  · rw [ho, List.drop_left' h]
    exact List.take_left' hk
  · rw [ho, field_skip _ 4 (h ▸ Nat.le_add_right m k), h, Nat.add_sub_cancel_left, field_skip _ 4 hk.le, hk, Nat.sub_self, field_leBytes_here]

theorem exec_getThrottleLog {n : Fin 8} {s : State} (h : s.serving n 0x0031) : exec (.getThrottleLog n) s =
    .next (s.complete n 0 0 ((List.range 64).flatMap fun c => (s.sluice.thr.get {} c).entry)) := by
  refine (congrArg Host.Outcome.next (State.serve_serving h _)).trans ?_
  simp only [Throttle.entry]

/-- Settles O40: each command of status is served, and its output is a list of fields of fixed lengths. -/
theorem queriesReturnTheirOutput : Obligations.QueriesReturnTheirOutput := by
  unfold Obligations.QueriesReturnTheirOutput
  intro n s b out f
  refine ⟨fun h => ?_, fun h => ?_, fun h hring => ?_, fun h => ?_, fun h => ?_, fun h => ?_, fun h hsnap => ?_⟩
  · exact ⟨_, congrArg Host.Outcome.next (State.serve_serving h _), s.identity_length,
      by unfold State.identity; simp only [List.append_assoc]; exact Part.number_head _ _, s.identity_fields⟩
  · exact ⟨_, congrArg Host.Outcome.next (State.serve_serving h _), rfl⟩
  · refine ⟨_, congrArg Host.Outcome.next (State.serve_serving h _), ?_⟩
    rw [hring]
    exact Log.read_fields _ _ _ _
  · obtain ⟨l, hl⟩ := s.stepStatus_head (b.arg 0)
    refine ⟨_, congrArg Host.Outcome.next (State.serve_serving h _), s.stepStatus_length _, ?_⟩
    rw [← hl]
    exact s.record.bytes_fields l
  · refine ⟨_, exec_getThrottleLog h, ?_, fun c hc => ?_⟩
    · simp [List.length_flatMap, Throttle.entry_length]
    · have hat : ∀ o, o + 8 ≤ 24 → f ((List.range 64).flatMap fun c => (s.sluice.thr.get {} c).entry) (24 * c + o) 8 =
          f (s.sluice.thr.get {} c).entry o 8 := fun o ho => by
        have h := field_flatMap_range (g := fun c => (s.sluice.thr.get {} c).entry) (fun i => Throttle.entry_length _) [] ho hc
        rwa [List.append_nil] at h
      exact ⟨(hat 0 (by decide)).trans (Throttle.entry_fields _).1, (hat 16 (by decide)).trans (Throttle.entry_fields _).2⟩
  · exact ⟨_, congrArg Host.Outcome.next (State.serve_serving h _), s.ledger_fields⟩
  · exact ⟨_, congrArg Host.Outcome.next (State.serve_serving h _), signed_parts hsnap (length_fitBytes _ _) _ rfl⟩

end Sys2Proof.Machine
end

section
/-! The event log (R494 to R496): events take SEQ in order, join the ring, wait for the flash log and tell the host. -/

namespace Sys2Proof.Machine

theorem pushRing_room {cap : Nat} {l : List Event} (h : l.length < cap) (e : Event) : pushRing cap l e = l ++ [e] := if_neg (by omega)

theorem length_pushRing {cap : Nat} {l : List Event} (hcap : 0 < cap) (h : l.length ≤ cap) (e : Event) :
    (pushRing cap l e).length = min cap (l.length + 1) := by
  unfold pushRing
  split <;> simp <;> omega

theorem getLast?_pushRing (cap : Nat) (l : List Event) (e : Event) : (pushRing cap l e).getLast? = some e := by
  unfold pushRing
  split <;> exact List.getLast?_concat

/-- The entry an event makes (R494, R495). -/
def State.entry (s : State) (code sev src : Nat) (args : List Nat) : Event :=
  { seq := s.log.nextSeq, uptime := s.keeper.uptime, boot := s.keeper.boot, code := code, severity := sev,
    source := src, step := if s.job.running then s.record.globalStep else BitVec.allOnes 64, args := args }

/-- The log with an entry added (R494). -/
def Log.add (l : Log) (e : Event) : Log :=
  { l with ring := pushRing 4096 l.ring e, nextSeq := l.nextSeq + 1, toFlash := if 3 ≤ e.severity then l.toFlash ++ [e] else l.toFlash }

theorem State.store_eq (s : State) (code sev src : Nat) (args : List Nat) : s.store code sev src args =
    if s.log.level.toNat ≤ sev then ({ s with log := s.log.add (s.entry code sev src args) } : State).raise icEvent
    else { s with log := s.log.add (s.entry code sev src args) } := rfl

theorem State.store_log (s : State) (code sev src : Nat) (args : List Nat) :
    (s.store code sev src args).log = s.log.add (s.entry code sev src args) := by
  rw [State.store_eq]
  split
  · exact (congrArg State.log (State.raise_frame _ icEvent).1 :)
  · rfl

theorem State.store_cause {s : State} {sev : Nat} (h : s.log.level.toNat ≤ sev) (code src : Nat) (args : List Nat) :
    (s.store code sev src args).cxl.cause.getLsbD 8 = true := by
  rw [State.store_eq, if_pos h]
  exact State.raise_hasCause _ 8 (by decide)

/-- The log's count of the millisecond, in the millisecond it is (R496). -/
def Log.inMsAt (l : Log) (ms : Nat) : Nat := if l.msNo = ms then l.inMs else 0

/-- The log with the event counted in its millisecond (R496). -/
def Log.counted (l : Log) (ms : Nat) : Log := { l with msNo := ms, inMs := l.inMsAt ms + 1 }

theorem State.event_stored {s : State} {sev : Nat} (h : s.log.inMsAt (s.uptime / 1000000) < 256 ∨ 2 ≤ sev) (code src : Nat) (args : List Nat) :
    s.event code sev src args = ({ s with log := s.log.counted (s.uptime / 1000000) } : State).store code sev src args := by
  unfold State.event Log.counted
  unfold Log.inMsAt at h ⊢
  by_cases hms : s.log.msNo = s.uptime / 1000000
  · simp only [if_pos hms] at h ⊢
    rw [if_neg (by omega), ← hms]
  · simp only [if_neg hms] at h ⊢
    rw [if_neg (by omega)]

theorem State.event_left_out {s : State} {sev : Nat} (h : 256 ≤ s.log.inMsAt (s.uptime / 1000000)) (hsev : sev ≤ 1) (code src : Nat)
    (args : List Nat) : s.event code sev src args = { s with log := { s.log with inMs := s.log.inMs + 1, dropped := s.log.dropped + 1 } } := by
  unfold Log.inMsAt at h
  unfold State.event
  by_cases hms : s.log.msNo = s.uptime / 1000000
  · simp only [if_pos hms] at h ⊢
    rw [if_pos ⟨h, hsev⟩]
  · simp only [if_neg hms] at h
    omega

theorem exec_flashLogCopy {s : State} {e : Event} {rest : List Event} (h : s.log.toFlash = e :: rest) (hroom : s.log.flash.length < 16384) :
    exec .flashLogCopy s = .next { s with log := { s.log with toFlash := rest, flash := s.log.flash ++ [e] } } := by
  change execFlashLogCopy s = _
  unfold execFlashLogCopy
  simp only [h, if_neg (Nat.not_le.mpr hroom), pushRing_room hroom, List.append_nil]

/-- Settles O43: an event is stored by one function, whose log is the log with the entry added, or left out and counted. -/
theorem eventsAreLoggedInOrder : Obligations.EventsAreLoggedInOrder := by
  unfold Obligations.EventsAreLoggedInOrder
  intro code sev src args e rest s l t ms inMs
  refine ⟨fun h => ?_, fun h hsev => State.event_left_out h hsev code src args, exec_flashLogCopy, fun h => ?_, fun hin hd => ?_⟩
  · obtain ⟨u, hu⟩ : ∃ u : State, u = { s with log := s.log.counted (s.uptime / 1000000) } := ⟨_, rfl⟩
    have ht : t = u.store code sev src args := by
      rw [hu]
      exact State.event_stored h code src args
    have hlog : t.log = (s.log.counted (s.uptime / 1000000)).add (u.entry code sev src args) := by
      rw [ht, State.store_log, hu]
    have hframe := u.store_frame code sev src args
    refine ⟨?_, ?_, fun hring => ?_, ⟨u.entry code sev src args, ?_, ?_, ?_, rfl, rfl, rfl, rfl, ?_⟩, fun hlev => ?_⟩
    · clear_value t
      rw [ht, hframe, hu]
    · rw [hlog]
      rfl
    · rw [hlog]
      exact length_pushRing (by decide) hring _
    · rw [hlog]
      exact getLast?_pushRing _ _ _
    · rw [hu]
      rfl
    · rw [hu]
      rfl
    · rw [hlog]
      rfl
    · rw [ht]
      exact State.store_cause (by rw [hu]; exact hlev) code src args
  · exact congrArg Host.Outcome.next (if_neg fun hno => h.ne' hno.2)
  · exact congrArg Host.Outcome.next (if_pos ⟨hin, hd⟩)

end Sys2Proof.Machine
end

section
/-! Loading, starting and commanding a program (R206, R220, R229 to R236, R336, R447, R454, R486 to R488, R493). -/

namespace Sys2Proof.Machine

/-! ### The host window (R447, R454, R487) -/

theorem hostWindowChangesTheTable : Claims.HostWindowChangesTheTable := by
  intro n s hserv h
  exact ⟨fun hsame => congrArg Host.Outcome.next ((State.serve_serving hserv _).trans
      (congrArg (fun t : State => t.complete n 0 0 (leBytes 8 h)) (if_pos hsame))),
    fun hne => congrArg Host.Outcome.next ((State.serve_serving hserv _).trans
      (congrArg (fun t : State => t.complete n 0 0 (leBytes 8 h)) (if_neg hne)))⟩

/-! ### Images (R206, R220, R229, R230, R233) -/

theorem Jet.place_core (x : Jet) {i : Image} {j : Nat} (h : runsOn i j = true) : (x.place i j).core.tvec = BitVec.ofNat 64 (handlerAddr i) ∧
    (x.place i j).core.code.1 = 0 ∧ (x.place i j).core.s = x.core.s := by
  unfold Jet.place
  simp only [if_pos h]
  split <;> exact ⟨rfl, rfl, rfl⟩

theorem State.jet_placeImage (s : State) (i : Image) (j : Fin 160) : (s.placeImage i).jet j = (s.jet j).place i j.val :=
  (Vector.get_eq_getElem _ _).trans (Vector.getElem_ofFn j.isLt)

theorem State.placeImage_eq (s : State) (i : Image) : ∃ jets runnels, s.placeImage i = { s with
    jets := jets, runnels := runnels
    job := { s.job with image := some i, policy := imagePolicy i, spread := i.spread, started := [], finished := [], rerun := [],
                        rerunDone := [], toPlace := [] } } := ⟨_, _, rfl⟩

theorem State.loadEnds_placeImage (s : State) (i : Image) : ∃ jets runnels, (s.placeImage i).loadEnds = { s with
    jets := jets, runnels := runnels, caps := { s.caps with loadGen := none }
    job := { s.job with image := some i, policy := imagePolicy i, spread := i.spread, started := [], finished := [], rerun := [],
                        rerunDone := [], toPlace := [] } } := by
  obtain ⟨jets, runnels, h⟩ := s.placeImage_eq i
  exact ⟨jets, runnels, by rw [h]; rfl⟩

theorem State.finishLoad_refused {s : State} {f : ImageFile} {b : Mailbox} {fault : LoadFault} (h : s.loadCheck f.parse (b.arg 2) = some fault)
    (n : Fin 8) (keep : Bool) :
    s.finishLoad n b (some f) keep = s.loadEnds.complete n 0xC fault.code (refusalRecord (some f.parse) (some fault)) := by
  unfold State.finishLoad
  simp only [h]

theorem State.finishLoad_accepted {s : State} {f : ImageFile} {b : Mailbox} (h : s.loadCheck f.parse (b.arg 2) = none) (n : Fin 8) (keep : Bool) :
    s.finishLoad n b (some f) keep =
      (if keep then s.placeImage f.parse else s).loadEnds.complete n 0 0 (refusalRecord (some f.parse) none) := by
  unfold State.finishLoad
  simp only [h]

theorem imagesLoadWhenAccepted : Claims.ImagesLoadWhenAccepted := by
  intro n file fault s b i s' op
  refine ⟨fun v hserv hbad => ?_, fun hserv hok => ?_, fun hserv hok => ?_⟩
  · cases v with
    | false => exact congrArg Host.Outcome.next ((State.serve_serving hserv _).trans (State.finishLoad_refused hbad n true))
    | true => exact congrArg Host.Outcome.next ((State.serve_serving hserv _).trans (State.finishLoad_refused hbad n false))
  · exact congrArg Host.Outcome.next ((State.serve_serving hserv _).trans (State.finishLoad_accepted hok n false))
  · obtain ⟨u, hu⟩ : ∃ u, u = (s.placeImage i).loadEnds := ⟨_, rfl⟩
    obtain ⟨jets, runnels, hu'⟩ := s.loadEnds_placeImage i
    rw [← hu] at hu'
    have hout : (u.boxes.get n).outstanding = true := by
      rw [show u.boxes = s.boxes by rw [hu']]
      exact State.serving_outstanding hserv
    obtain ⟨hstate, hstatus, -⟩ := State.complete_outstanding u n 0 0 (refusalRecord (some i) none) hout
    have hjet : ∀ j, (u.complete n 0 0 (refusalRecord (some i) none)).jet j = (s.jet j).place i j.val := fun j => by
      unfold State.jet
      rw [State.complete_jets, hu]
      exact s.jet_placeImage i j
    refine ⟨u.complete n 0 0 (refusalRecord (some i) none),
      congrArg Host.Outcome.next ((State.serve_serving hserv _).trans ((State.finishLoad_accepted hok n true).trans (by rw [hu]; rfl))),
      ?_, ?_, ?_, hstate, hstatus, ?_, ?_, fun j hj => ?_⟩
    · rw [State.complete_job, hu']
    · rw [State.complete_job, hu']
    · rw [State.complete_job, hu']
    · rw [State.complete_tiers, hu']
    · rw [State.complete_record, hu']
    · rw [hjet j]
      exact Jet.place_core (s.jet j) hj

/-! ### RUN (R236, R320, R336, R486) -/

/-- Two states that differ, of what RUN goes by, in the shards, their digests and the records noted for a copy at most. -/
def State.seeded (s t : State) : Prop :=
  t.record = s.record ∧ t.boxes = s.boxes ∧ t.job = { s.job with
    own := t.job.own, held := t.job.held, digestV := t.job.digestV, heldDigestV := t.job.heldDigestV, repair := t.job.repair }

theorem State.seeded_trans {s t u : State} (h : s.seeded t) (h' : t.seeded u) : s.seeded u := by
  obtain ⟨hr, hb, hj⟩ := h
  obtain ⟨hr', hb', hj'⟩ := h'
  refine ⟨hr'.trans hr, hb'.trans hb, ?_⟩
  rw [hj', hj]

theorem State.seeded_of_eq {s t : State} (hr : t.record = s.record) (hb : t.boxes = s.boxes) (hj : t.job = s.job) : s.seeded t :=
  ⟨hr, hb, by rw [hj]⟩

theorem State.noted.seeded {s t : State} (h : s.noted t) : s.seeded t := by
  obtain ⟨h, -⟩ := h
  exact ⟨(congrArg State.record h :), (congrArg State.boxes h :), by rw [(congrArg State.job h :)]⟩

theorem State.importShard_seeded (s : State) (i : Image) (held weights : Bool) (recs : List (List Byte)) :
    s.seeded (s.importShard i held weights recs).1 := by
  have hwrite (s : State) (slot : Bool) (idx : Nat) (bs : List Byte) : s.counted (s.writeRecord i held slot idx bs) :=
    State.writeWords_counted _ s _
  generalize hf : @State.importShard = f
  delta State.importShard at hf
  obtain ⟨write, hwrite'⟩ : ∃ f, f = @State.writeRecord := ⟨_, rfl⟩
  rw [← hwrite'] at hf
  simp only [← hwrite'] at hwrite
  subst hf
  simp only []
  generalize (i.shardRecords _).zip recs = l
  generalize ({} : Ev) = e0
  have hfold : ∀ (l : List (Nat × List Byte)) (a : State × Ev), a.1.counted (l.foldl (fun (a : State × Ev) p =>
      (write (write a.1 i held false p.1 (importRecord i p.1 weights p.2).1) i held true p.1 (importRecord i p.1 weights p.2).1,
        a.2.add (importRecord i p.1 weights p.2).2)) a).1 := by
    intro l
    induction l with
    | nil => exact fun a => a.1.counted_refl
    | cons p l ih => exact fun a => State.counted_trans (State.counted_trans (hwrite _ _ _ _) (hwrite _ _ _ _)) (ih _)
  refine State.seeded_trans (hfold l (s, e0)).noted.seeded ?_
  cases held
  · exact ⟨rfl, rfl, rfl⟩
  · exact ⟨rfl, rfl, rfl⟩

theorem State.setJetLanes_eq (s : State) (l : Tbl W64) : ∃ jets, s.setJetLanes l = { s with jets := jets } := ⟨_, rfl⟩

theorem State.setCoreLanes_eq (s : State) (l : Tbl W64) : ∃ runnels, s.setCoreLanes l = { s with runnels := runnels } := ⟨_, rfl⟩

theorem State.seedLanes_seeded (s : State) : s.seeded ((s.seedJets []).seedCores []) := by
  have hjets : s.seeded (s.seedJets []) := by
    obtain ⟨jets, h⟩ := s.setJetLanes_eq ((List.range 160).flatMap fun j => (List.range 192).map fun k =>
      (192 * j + k, laneSeed s.job.seed s.coll.rank j k []))
    unfold State.seedJets
    rw [h]
    exact State.seeded_of_eq rfl rfl rfl
  generalize s.seedJets [] = t at hjets
  obtain ⟨runnels, h⟩ := t.setCoreLanes_eq ((List.range 32).flatMap fun n => (List.range 64).map fun k =>
    (64 * n + k, laneSeed t.job.seed t.coll.rank (0x100 + n) k []))
  unfold State.seedCores
  rw [h]
  exact State.seeded_trans hjets (State.seeded_of_eq rfl rfl rfl)

theorem State.openRegions_seeded (s : State) : s.seeded s.openRegions := by
  obtain ⟨hr, hj, -⟩ := s.openRegions_sameJob
  refine State.seeded_of_eq hr ?_ hj
  unfold State.openRegions
  split <;> rfl

theorem State.seedEnd_seeded (s : State) : s.seeded (((s.seedJets []).seedCores []).rewriteWeights).openRegions := by
  have h := s.seedLanes_seeded
  generalize (s.seedJets []).seedCores [] = t at h
  exact State.seeded_trans (State.seeded_trans h t.rewriteWeights_noted.seeded) (State.openRegions_seeded _)

/-- The job as RUN starts it, before its records are read (R486). -/
def State.jobSet (s : State) (n : Fin 8) (b : Mailbox) : State := { s with
  record := { s.record with globalStep := BitVec.ofNat 64 (b.arg 0), doneStep := BitVec.ofNat 64 (b.arg 0), doneMask := 0, result := 0 }
  coll := { s.coll.dropStep with misses := [], times := [], median := 0 }
  job := { s.job with
    running := true, startStep := BitVec.ofNat 64 (b.arg 0), runBox := some n.val, seed := fitBytes 32 (b.buf.take 32),
    key := digestKey (fitBytes 32 (b.buf.take 32)),
    ring := [], outgoing := none, keptLanes := none, carried := none, leftOut := none, mismatch := none, faulted := false,
    joined := [], abortDue := none, decided := none, repair := [], rebuild := none, vote := none, fromPartner := none,
    haltAt := none, haltBoxes := [], secureBoxes := [], policyBoxes := [], sincePause := 0, stepsRun := 0, secureNow := false,
    nextKG := none, nextPolicy := none, failed := [], uncovered := [], gen := 0, cover := false, pause := 0, last := 0,
    securedT := [], securedStep := 0, parity := {}, ownGrad := [], totals := [] } }

/-- What RUN then reads and derives: the shards, their digests, the lanes, the weights and the regions (R486). -/
def State.jobRead (s : State) (i : Image) (weights : Bool) (cp : Checkpoint) : State :=
  let (s, own) := s.importShard i false weights cp.own
  let (s, held) := s.importShard i true weights cp.held
  let s := s.modJet ⟨0, by omega⟩ fun x => { x with core := x.core.count (own.add held) }
  let (d, s) := s.shardDigest i false s.record.slot
  let (h, s) := s.shardDigest i true s.record.slot
  let s := { s with job := { s.job with digestV := d, heldDigestV := h } }
  (((s.seedJets []).seedCores []).rewriteWeights).openRegions

theorem State.jobRead_seeded (s : State) (i : Image) (weights : Bool) (cp : Checkpoint) : s.seeded (s.jobRead i weights cp) := by
  have himport := State.importShard_seeded
  have hdigest (s : State) (i : Image) (held slot : Bool) : s.seeded (s.shardDigest i held slot).2 :=
    (s.shardDigest_counted i held slot).noted.seeded
  have hend := State.seedEnd_seeded
  generalize hf : @State.jobRead = f
  delta State.jobRead at hf
  obtain ⟨imp, himp⟩ : ∃ f, f = @State.importShard := ⟨_, rfl⟩
  obtain ⟨dig, hdig⟩ : ∃ f, f = @State.shardDigest := ⟨_, rfl⟩
  obtain ⟨sj, hsj⟩ : ∃ f, f = @State.seedJets := ⟨_, rfl⟩
  obtain ⟨sc, hsc⟩ : ∃ f, f = @State.seedCores := ⟨_, rfl⟩
  obtain ⟨reweigh, hrw⟩ : ∃ f, f = @State.rewriteWeights := ⟨_, rfl⟩
  rw [← himp, ← hdig, ← hsj, ← hsc, ← hrw] at hf
  simp only [← himp] at himport
  simp only [← hdig] at hdigest
  simp only [← hsj, ← hsc, ← hrw] at hend
  subst hf
  simp only []
  have hjet (s : State) (g : Jet → Jet) : s.seeded (s.modJet ⟨0, by omega⟩ g) := State.seeded_of_eq rfl rfl rfl
  have hset (s : State) (d h : W128) : s.seeded { s with job := { s.job with digestV := d, heldDigestV := h } } := ⟨rfl, rfl, rfl⟩
  exact State.seeded_trans (himport s i false weights cp.own) (State.seeded_trans (himport _ i true weights cp.held)
    (State.seeded_trans (hjet _ _) (State.seeded_trans (hdigest _ i false _) (State.seeded_trans (hdigest _ i true _)
      (State.seeded_trans (hset _ _ _) (hend _))))))

theorem State.jobStart_eq (s : State) (i : Image) (n : Fin 8) (b : Mailbox) (cp : Checkpoint) :
    s.jobStart i n b cp = (s.jobSet n b).jobRead i ((b.arg 1).testBit 0) cp := by
  generalize hf : @State.jobRead = f
  delta State.jobRead at hf
  generalize hg : @State.jobStart = g
  delta State.jobStart at hg
  obtain ⟨imp, himp⟩ : ∃ f, f = @State.importShard := ⟨_, rfl⟩
  obtain ⟨dig, hdig⟩ : ∃ f, f = @State.shardDigest := ⟨_, rfl⟩
  obtain ⟨sj, hsj⟩ : ∃ f, f = @State.seedJets := ⟨_, rfl⟩
  obtain ⟨sc, hsc⟩ : ∃ f, f = @State.seedCores := ⟨_, rfl⟩
  obtain ⟨reweigh, hrw⟩ : ∃ f, f = @State.rewriteWeights := ⟨_, rfl⟩
  rw [← himp, ← hdig, ← hsj, ← hsc, ← hrw] at hf hg
  subst hf hg
  rfl

/-- What RUN leaves of the module: the step record and the mailboxes as set, the image and the job as started (R486). -/
theorem State.jobStart_spec (s : State) (i : Image) (n : Fin 8) (b : Mailbox) (cp : Checkpoint) : let t := s.jobStart i n b cp
    t.record.globalStep = BitVec.ofNat 64 (b.arg 0) ∧ t.boxes = s.boxes ∧ t.job.running = true ∧ t.job.runBox = some n.val ∧
      t.job.startStep = BitVec.ofNat 64 (b.arg 0) ∧ t.job.seed = fitBytes 32 (b.buf.take 32) ∧
      t.job.key = digestKey (fitBytes 32 (b.buf.take 32)) ∧ t.job.image = s.job.image ∧ t.job.policy = s.job.policy ∧
      t.job.nextKG = none ∧ t.job.nextPolicy = none := by
  obtain ⟨hr, hb, hj⟩ := (s.jobSet n b).jobRead_seeded i ((b.arg 1).testBit 0) cp
  rw [← State.jobStart_eq] at hr hb hj
  generalize s.jobStart i n b cp = t at hr hb hj
  intro t'
  rw [show t'.record = _ from hr, show t'.boxes = _ from hb, show t'.job = _ from hj]
  exact ⟨rfl, rfl, rfl, rfl, rfl, rfl, rfl, rfl, rfl, rfl, rfl⟩

theorem State.hasTerrace_congr {s t : State} (himg : t.job.image = s.job.image) (hpol : t.job.policy = s.job.policy) :
    t.hasTerrace = s.hasTerrace := by
  unfold State.hasTerrace State.ranks
  rw [himg, hpol]

/-- A step's start with no policy that waits (R27, R191). -/
theorem State.startStep_kept {s : State} (h : s.job.nextPolicy = none) : let t := s.startStep
    t.boxes = s.boxes ∧ t.record.phase = 1 ∧ t.record.globalStep = s.record.globalStep ∧ t.job.running = s.job.running ∧
      t.job.startStep = s.job.startStep ∧ t.job.seed = s.job.seed ∧ t.job.key = s.job.key := by
  have happly : s.applyPolicy = s := by
    unfold State.applyPolicy
    rw [h]
  obtain ⟨u, hu⟩ : ∃ u : State, u = { s.captureLanes.clearStep with record := { s.captureLanes.clearStep.record with phase := 1 } } :=
    ⟨_, rfl⟩
  have ht : s.startStep = u.passEmpty := by
    unfold State.startStep
    rw [happly, hu]
    rfl
  intro t
  have htf : t = { u with record := u.passEmpty.record } := ht.trans u.passEmpty_frame
  obtain ⟨hrec, -⟩ := u.passEmpty_spec
  rw [htf, hrec, hu]
  exact ⟨rfl, rfl, rfl, rfl, rfl, rfl, rfl⟩

theorem State.jobBegin_flat {s : State} {n : Fin 8} (h : s.hasTerrace = false) (hout : (s.boxes.get n).outstanding = true)
    (hpol : s.job.nextPolicy = none) : let t := s.jobBegin n
    (t.boxes.get n).status = 0 ∧ (t.boxes.get n).state = 4 ∧ t.record.phase = 1 ∧ t.record.globalStep = s.record.globalStep ∧
      t.job.running = s.job.running ∧ t.job.startStep = s.job.startStep ∧ t.job.seed = s.job.seed ∧ t.job.key = s.job.key := by
  obtain ⟨c, hc⟩ : ∃ c : State, c = s.noTerraceCheck := ⟨_, rfl⟩
  have hcj : c.job = { s.job with noTerrace := true, cover := false, nextSecure := BitVec.allOnes 64 } ∧ c.boxes = s.boxes ∧ c.record = s.record := by
    rw [hc]
    unfold State.noTerraceCheck
    rw [h]
    exact ⟨State.event_job _ _ _ _ _, State.event_boxes _ _ _ _ _, State.event_record _ _ _ _ _⟩
  obtain ⟨hcj, hcb, hcr⟩ := hcj
  have hter : c.hasTerrace = false := (State.hasTerrace_congr (by rw [hcj]) (by rw [hcj])).trans h
  obtain ⟨d, hd⟩ : ∃ d : State, d = { c with job := { c.job with runBox := none } } := ⟨_, rfl⟩
  have hdout : (d.boxes.get n).outstanding = true := by
    rw [hd]
    show (c.boxes.get n).outstanding = true
    rw [hcb]
    exact hout
  obtain ⟨hstate, hstatus, -⟩ := State.complete_outstanding d n 0 0 (refusalRecord none none) hdout
  obtain ⟨u, hu⟩ : ∃ u, u = d.complete n 0 0 (refusalRecord none none) := ⟨_, rfl⟩
  have huj : u.job = d.job := by rw [hu, State.complete_job]
  have hur : u.record = s.record := by rw [hu, State.complete_record, hd, ← hcr]
  rw [← hu] at hstate hstatus
  have ht : s.jobBegin n = u.startStep := by
    unfold State.jobBegin
    rw [← hc]
    simp only [hter]
    rw [hu, hd]
    rfl
  obtain ⟨h1, h2, h3, h4, h5, h6, h7⟩ := State.startStep_kept (s := u) (by rw [huj, hd]; show c.job.nextPolicy = none; rw [hcj]; exact hpol)
  intro t
  have ht' : t = u.startStep := ht
  rw [ht', h1, h2, h3, h4, h5, h6, h7, huj, hur, hd]
  show _ ∧ _ ∧ _ ∧ _ ∧ c.job.running = _ ∧ c.job.startStep = _ ∧ c.job.seed = _ ∧ c.job.key = _
  rw [hcj]
  exact ⟨hstatus, hstate, rfl, rfl, rfl, rfl, rfl, rfl⟩

theorem State.jobBegin_terrace {s : State} {i : Image} (himg : s.job.image = some i) (h : s.hasTerrace = true) (hkg : s.job.nextKG = none)
    (n : Fin 8) : let t := s.jobBegin n
    t.record.phase = 0x0A ∧ t.record.globalStep = s.record.globalStep ∧ t.job.pause = 1 ∧ t.job.running = s.job.running ∧
      t.job.runBox = s.job.runBox := by
  obtain ⟨c, hc⟩ : ∃ c : State, c = { s with job := { s.job with noTerrace := false } } := ⟨_, rfl⟩
  have hter : c.hasTerrace = true := (State.hasTerrace_congr (by rw [hc]) (by rw [hc])).trans h
  have ht : s.jobBegin n = c.beginPause := by
    have hcheck : s.noTerraceCheck = c := by
      unfold State.noTerraceCheck
      rw [if_pos h, hc]
    unfold State.jobBegin
    rw [hcheck]
    exact if_pos hter
  obtain ⟨u, ⟨hr, hj⟩, hb⟩ := State.beginPause_imaged (s := c) (by rw [hc]; exact himg) (by rw [hc]; exact hkg) hter
  intro t
  have ht' : t = { u with job := { u.job with copyWritten := true } } := ht.trans hb
  rw [ht']
  show u.record.phase = _ ∧ u.record.globalStep = _ ∧ u.job.pause = _ ∧ u.job.running = _ ∧ u.job.runBox = _
  rw [hr, hj, hc]
  exact ⟨rfl, rfl, rfl, rfl, rfl⟩

/-- RUN once its own checks pass: what the other members have reported decides (R486). -/
theorem exec_run {n : Fin 8} {s : State} {i : Image} {cp : Checkpoint} (others : List (List Byte)) (hserv : s.serving n 0x0013)
    (himg : s.job.image = some i) (hshards : 2 ≤ i.shards.length) (hcp : cp.ok = true) (hsurv : s.survivalCheck i s.coll.rank = none)
    (hps : s.keeper.powerState = 0) : exec (.run n cp others) s = .next (
      match (s.reported others).find? fun e => !e.2.isEmpty && e.2 != i.hash with
      | some e => s.complete n 0xD e.1 []
      | none => match (s.reported others).find? fun e => e.2.isEmpty with
        | some e => { s with job := { s.job with runBox := some n.val, runWaits := e.1 } }
        | none => (s.jobStart i n (s.boxes.get n) cp).jobBegin n) := by
  have hflow : s.toFlowing = s := if_neg (by rw [hps]; decide)
  refine congrArg Host.Outcome.next ((State.serve_serving hserv _).trans ?_)
  simp only [hflow, himg, if_neg (Nat.not_lt.mpr hshards), hcp, Bool.not_true, Bool.false_eq_true, if_false, hsurv] <;> rfl

theorem reported_none {s : State} {others : List (List Byte)} {p : Nat × List Byte → Bool}
    (h : ∀ k < (s.actives.filter (· != s.coll.rank)).length, p ((s.actives.filter (· != s.coll.rank)).getD k 0, others.getD k []) = false) :
    (s.reported others).find? p = none := by
  unfold State.reported
  simp only [List.find?_eq_none, List.mem_map, List.mem_range]
  rintro x ⟨k, hk, rfl⟩
  rw [h k hk]
  decide

theorem reported_first {s : State} {others : List (List Byte)} {p : Nat × List Byte → Bool} {k : Nat}
    (hk : k < (s.actives.filter (· != s.coll.rank)).length)
    (hp : p ((s.actives.filter (· != s.coll.rank)).getD k 0, others.getD k []) = true)
    (h : ∀ m < k, p ((s.actives.filter (· != s.coll.rank)).getD m 0, others.getD m []) = false) :
    (s.reported others).find? p = some ((s.actives.filter (· != s.coll.rank)).getD k 0, others.getD k []) := by
  unfold State.reported
  simp only [List.find?_map]
  rw [List.find?_range_eq_some.mpr ⟨hp, List.mem_range.mpr hk, fun m hm => by simpa using h m hm⟩]
  rfl

theorem runStartsTheJobOrWaits : Claims.RunStartsTheJobOrWaits := by
  intro n cp others i s b rs
  refine ⟨fun hserv himg hshards hcp hsurv hps => ?_, fun hserv himg hps hfew => ?_, fun hin hbox hrun => ?_⟩
  · have hexec := exec_run others hserv himg hshards hcp hsurv hps
    obtain ⟨hstep, hboxes, hrun, hbox, hstart, hseed, hkey, hi, hpol, hkg, hnp⟩ := s.jobStart_spec i n b cp
    have hter := State.hasTerrace_congr hi hpol
    have hagree : (∀ k < rs.length, others.getD k [] = i.hash) → i.hash ≠ [] →
        exec (.run n cp others) s = .next ((s.jobStart i n b cp).jobBegin n) := fun hall hne => by
      rw [hexec, reported_none fun k hk => by rw [hall k hk]; simp, reported_none fun k hk => by
        rw [hall k hk]; simpa using hne]
    refine ⟨fun hall hne hflat => ?_, fun hall hne ht => ?_, fun k hk hmiss hall hfirst => ?_⟩
    · obtain ⟨h1, h2, h3, h4, h5, h6, h7, h8⟩ := State.jobBegin_flat (n := n) (hter.trans hflat)
        (by rw [hboxes]; exact State.serving_outstanding hserv) hnp
      refine ⟨_, hagree hall hne, h5.trans hrun, h6.trans hstart, h4.trans hstep, h3, h7.trans hseed, ?_, h1, h2⟩
      rw [h8, h7, hkey, hseed]
    · obtain ⟨h1, h2, h3, h4, h5⟩ := State.jobBegin_terrace (hi.trans himg) (hter.trans ht) hkg n
      exact ⟨_, hagree hall hne, h4.trans hrun, h1, h3, h2.trans hstep, h5.trans hbox⟩
    · rw [hexec, reported_none fun m hm => ?_, reported_first hk (by rw [hmiss]; rfl) fun m hm => by simpa using hfirst m hm]
      rcases hall m hm with h | h <;> rw [h] <;> simp
  · have hflow : s.toFlowing = s := if_neg (by rw [hps]; decide)
    refine congrArg Host.Outcome.next ((State.serve_serving hserv _).trans ?_)
    simp only [hflow, himg, if_pos hfew]
  · exact congrArg Host.Outcome.next (if_pos (by simp [hin, hbox, hrun]))

/-! ### Commands of a running job (R488, R493) -/

theorem State.forwardJob_sent {s : State} (h : s.leader ≠ s.coll.rank) (cmd : JobCmd) :
    s.forwardJob cmd = s.send (.packet s.leader "JOB_COMMAND" (jobCmdWords cmd)) := if_neg h

theorem jobCommandsGoToTheLeader : Claims.JobCommandsGoToTheLeader := by
  intro n s b j sent
  refine ⟨fun hlead => ⟨fun hserv hrun hbox => ?_, fun hserv hbox => ?_, fun hserv hbox => ?_⟩, fun hserv hrun hph hbox => ?_⟩
  · refine congrArg Host.Outcome.next ((State.serve_serving hserv _).trans ((if_neg (by simpa using hbox)).trans ((if_pos hrun).trans ?_)))
    exact State.forwardJob_sent (s := { s with job := { j with haltBoxes := j.haltBoxes ++ [n.val] } }) hlead .halt
  · refine congrArg Host.Outcome.next ((State.serve_serving hserv _).trans ((if_neg (by simpa using hbox)).trans ?_))
    refine (State.forwardJob_sent (s := { s with job := { j with policyBoxes := j.policyBoxes ++ [n.val] } }) hlead _).trans ?_
    unfold jobCmdWords
    simp only [BitVec.toNat_ofNat]
    rfl
  · refine congrArg Host.Outcome.next ((State.serve_serving hserv _).trans ((if_neg (by simpa using hbox)).trans ?_))
    exact State.forwardJob_sent (s := { s with job := { j with secureBoxes := j.secureBoxes ++ [n.val] } }) hlead .secureNow
  · have hexec : exec (.haltCommand n) s = .next (s.unload.complete n 0 0 (leBytes 8 s.lastCommitted.toNat)) :=
      congrArg Host.Outcome.next ((State.serve_serving hserv _).trans ((if_neg (by simpa using hbox)).trans
        ((if_neg (Bool.eq_false_iff.mp hrun)).trans (if_neg hph))))
    have hserved := State.serving_outstanding hserv
    have hout : (s.unload.boxes.get n).outstanding = true := hserved
    obtain ⟨hstate, hstatus, -⟩ := State.complete_outstanding s.unload n 0 0 (leBytes 8 s.lastCommitted.toNat) hout
    refine ⟨_, hexec, ?_, hstate, hstatus, ?_, ?_⟩
    · rw [State.complete_job]
      rfl
    · rw [State.complete_tiers]
      rfl
    · obtain ⟨hdone, -⟩ := completionIsReported n 0 0 (leBytes 8 s.lastCommitted.toNat) s.unload
      obtain ⟨-, -, -, hbuf⟩ := hdone hout
      rw [hbuf]
      exact List.take_left' (length_leBytes 8 _)

/-- Settles O41: the window, the image, RUN and the commands of a running job, each by what its checks leave. -/
theorem programsLoadRunAndTakeCommands : Obligations.ProgramsLoadRunAndTakeCommands :=
  ⟨hostWindowChangesTheTable, imagesLoadWhenAccepted, runStartsTheJobOrWaits, jobCommandsGoToTheLeader⟩

end Sys2Proof.Machine
end

section
/-! The Keeper's commands and the updating of firmware (R490 to R492, R514, R529, R554, R565, R567, R571, R572). -/

namespace Sys2Proof.Machine

/-! ### Limits, re-plans and anchors (R490, R491, R514, R529) -/

/-- Two states that differ in the Sluice's reasons and bindings, in the port's causes and in what is sent at most. -/
def State.throttled (s t : State) : Prop :=
  t = { s with
    cxl := { s.cxl with cause := t.cxl.cause, pba := t.cxl.pba }, outbox := t.outbox
    sluice := { s.sluice with thr := t.sluice.thr, doms := t.sluice.doms } } ∧
    ∀ d, t.sluice.doms.get d = { s.sluice.doms.get d with bind := (t.sluice.doms.get d).bind }

theorem State.throttled_refl (s : State) : s.throttled s := ⟨rfl, fun _ => rfl⟩

theorem State.throttled_trans {s t u : State} (h : s.throttled t) (h' : t.throttled u) : s.throttled u := by
  obtain ⟨hs, hd⟩ := h
  obtain ⟨hs', hd'⟩ := h'
  refine ⟨?_, fun d => by rw [hd' d, hd d]⟩
  rw [hs', hs]

theorem State.throttled_foldl {α : Type} {f : State → α → State} (hf : ∀ (s : State) (x : α), s.throttled (f s x)) :
    ∀ (l : List α) (s : State), s.throttled (l.foldl f s)
  | [], s => s.throttled_refl
  | x :: l, s => State.throttled_trans (hf s x) (State.throttled_foldl hf l (f s x))

theorem State.setThr_throttled (s : State) (c : Nat) (on : Bool) : s.throttled (s.setThr c on) := by
  unfold State.setThr
  simp only []
  split
  · obtain ⟨u, hu⟩ : ∃ u : State, u = { s with sluice := { s.sluice with thr := s.sluice.thr.set c { s.sluice.thr.get {} c with
      count := satInc (s.sluice.thr.get {} c).count, onset := s.keeper.uptime, active := true } } } := ⟨_, rfl⟩
    have h := (u.raise_frame icPower).1
    rw [← hu]
    refine ⟨?_, fun d => ?_⟩
    · rw [h, hu]
    · rw [h, hu]
  · split
    · exact ⟨rfl, fun _ => rfl⟩
    · exact s.throttled_refl

/-- A domain's binding changes nothing else (R526). -/
theorem State.modDom_bind_throttled (s : State) (d : Fin 10) (b : Byte) : s.throttled (s.modDom d fun x => { x with bind := b }) := by
  refine ⟨rfl, fun e => ?_⟩
  by_cases h : e = d
  · rw [h]
    exact (vset_get_self _ _ _).trans (by unfold State.modDom; rw [vset_get_self])
  · have hne : (s.modDom d fun x => { x with bind := b }).sluice.doms.get e = s.sluice.doms.get e := vset_get_ne _ _ _ _ h
    rw [hne]

theorem State.throttles_throttled (s : State) : s.throttled s.throttles := by
  unfold State.throttles
  exact State.throttled_trans (State.throttled_foldl (fun s c => s.setThr_throttled c _) _ s)
    (State.throttled_foldl (fun s d => s.modDom_bind_throttled d (s.bindOf d)) _ _)

/-- What setting the five limits changes before the command completes (R490, R514). -/
theorem State.limitsSet_spec (s : State) (b : Mailbox) (a c d e f : Nat) (changed : Bool) :
    let u : State := { s with sluice := { s.sluice with sustainedW := a, peakW := c, throttleC := d, warnMv := e, resetMv := f } }
    let v := if changed then (u.event 0x0106 1 srcKeeper (0 :: b.arg 7 :: u.sluice.packed)).throttles else u
    v.boxes = s.boxes ∧ [v.sluice.sustainedW, v.sluice.peakW, v.sluice.throttleC, v.sluice.warnMv, v.sluice.resetMv] = [a, c, d, e, f] ∧
      v.keeper = s.keeper ∧ v.job = s.job := by
  intro u v
  cases changed with
  | false => exact ⟨rfl, rfl, rfl, rfl⟩
  | true =>
    obtain ⟨w, hw⟩ : ∃ w, w = u.event 0x0106 1 srcKeeper (0 :: b.arg 7 :: u.sluice.packed) := ⟨_, rfl⟩
    have hev : w = { u with log := w.log, cxl := { u.cxl with cause := w.cxl.cause, pba := w.cxl.pba }, outbox := w.outbox } := by
      rw [hw]
      exact u.event_frame _ _ _ _
    have hv : w.throttled v := by
      rw [hw]
      exact State.throttles_throttled _
    obtain ⟨hv, -⟩ := hv
    rw [hv, hev]
    exact ⟨rfl, rfl, rfl, rfl⟩

theorem keeperCommandsSetLimitsAndAnchors : Claims.KeeperCommandsSetLimitsAndAnchors := by
  intro n s b x
  refine ⟨fun hserv => ?_, fun hserv hbox => ?_, fun hserv => congrArg Host.Outcome.next (State.serve_serving hserv _)⟩
  · intro pick l
    obtain ⟨hboxes, hlim, hk, hj⟩ := s.limitsSet_spec b (l.getD 0 0) (l.getD 1 0) (l.getD 2 0) (l.getD 3 0) (l.getD 4 0)
      (l != s.sluice.limits)
    refine ⟨_, _, congrArg Host.Outcome.next (State.serve_serving hserv _), rfl, hboxes, ?_, ?_, ?_⟩
    · rw [State.complete_sluice]
      exact hlim
    · rw [State.complete_keeper]
      exact hk
    · rw [State.complete_job]
      exact hj
  · exact congrArg Host.Outcome.next ((State.serve_serving hserv _).trans (if_neg (by simpa using hbox)))

/-! ### Power states (R492, R545, R554) -/

theorem powerStateCommandsAreKept : Claims.PowerStateCommandsAreKept := by
  intro n s a k asks
  refine ⟨fun hserv => ⟨fun h3 => ?_, fun h3 heq => ?_, fun h3 hne => ?_⟩, fun hserv => congrArg Host.Outcome.next (State.serve_serving hserv _)⟩
  · exact congrArg Host.Outcome.next ((State.serve_serving hserv _).trans (if_pos h3))
  · exact congrArg Host.Outcome.next ((State.serve_serving hserv _).trans ((if_neg h3).trans (if_pos heq)))
  · exact congrArg Host.Outcome.next ((State.serve_serving hserv _).trans ((if_neg h3).trans (if_neg hne)))

/-! ### Firmware updates (R565, R567, R571, R572) -/

@[simp] theorem Firmware.slot_putSlot_same (f : Firmware) (b : Bool) (x : Option SlotImage) : (f.putSlot b x).slot b = x := by
  cases b <;> rfl

@[simp] theorem Firmware.slot_putSlot_other (f : Firmware) (b : Bool) (x : Option SlotImage) : (f.putSlot b x).slot (!b) = f.slot (!b) := by
  cases b <;> rfl

/-- Two firmware states with the same active slot and the same fuses. -/
def Firmware.sameFuses (f g : Firmware) : Prop :=
  g.active = f.active ∧ g.rollback = f.rollback ∧ g.revoked = f.revoked ∧ g.keys = f.keys

theorem Firmware.putSlot_sameFuses (f : Firmware) (b : Bool) (x : Option SlotImage) : f.sameFuses (f.putSlot b x) := by
  cases b <;> exact ⟨rfl, rfl, rfl, rfl⟩

/-- The firmware state as a session that is to write a slot finds it (R571). -/
def Firmware.opened (f : Firmware) (slot : Bool) (len : Nat) : Firmware :=
  if len = 0 then f
  else if (f.putSlot slot none).pend = some slot then { (f.putSlot slot none).record with pend := none } else f.putSlot slot none

theorem Firmware.opened_spec (f : Firmware) (slot : Bool) (len : Nat) : f.sameFuses (f.opened slot len) ∧
    (f.opened slot len).slot (!slot) = f.slot (!slot) ∧ (f.opened slot len).slot slot = if len = 0 then f.slot slot else none := by
  unfold Firmware.opened
  split
  · exact ⟨⟨rfl, rfl, rfl, rfl⟩, rfl, rfl⟩
  · split
    · exact ⟨f.putSlot_sameFuses slot none, f.slot_putSlot_other slot none, f.slot_putSlot_same slot none⟩
    · exact ⟨f.putSlot_sameFuses slot none, f.slot_putSlot_other slot none, f.slot_putSlot_same slot none⟩

theorem exec_fwUpdateBegin {n : Fin 8} {s : State} (h : s.serving n 0x0040) : let b := s.boxes.get n
    let f := s.fw.opened (b.arg 1 == 1) (b.arg 0)
    ∃ out, exec (.fwUpdateBegin n) s = .next (({ s with freeCount := s.freeCount + 1, fw := { f with
      session := some (b.arg 1 == 1, b.arg 0, []),
      image := if b.arg 0 = 0 then ((f.slot (b.arg 1 == 1)).map (·.content)).getD [] else [] } } : State).complete n 0 0 out) :=
  ⟨_, congrArg Host.Outcome.next (State.serve_serving h _)⟩

theorem exec_fwUpdateChunk {n : Fin 8} {s : State} {slot : Bool} {len : Nat} {gs : List Nat} (h : s.serving n 0x0041)
    (hses : s.fw.session = some (slot, len, gs)) : let b := s.boxes.get n
    let f := s.fw
    let m := memPut f.image (b.arg 0) (fitBytes b.lLen b.buf)
    exec (.fwUpdateChunk n) s = .next (({ s with fw := {
      (if len = 0 then f.putSlot slot (some (slotWritten m f.sessionBytes)) else f) with
        session := some (slot, len, gs ++ chunkGranules (b.arg 0) b.lLen), image := m } } : State).complete n 0 0 []) := by
  refine congrArg Host.Outcome.next ((State.serve_serving h _).trans ?_)
  simp only [hses]

/-- The firmware state as a session ends (R571). -/
def Firmware.ended (f : Firmware) : Firmware := { f with session := none, image := [] }

@[simp] theorem Firmware.slot_ended (f : Firmware) (b : Bool) : f.ended.slot b = f.slot b := rfl

@[simp] theorem Firmware.slotCheck_ended (f : Firmware) (x : Option SlotImage) (full : Bool) : f.ended.slotCheck x full = f.slotCheck x full := rfl

/-- What a session's slot holds as it is committed (R571). -/
def Firmware.content (f : Firmware) (slot : Bool) (len : Nat) : Option SlotImage :=
  if len = 0 then f.slot slot else some (slotWritten f.image len)

theorem exec_fwUpdateCommit {n : Fin 8} {s : State} {slot : Bool} {len : Nat} {gs : List Nat} (h : s.serving n 0x0042)
    (hses : s.fw.session = some (slot, len, gs)) : let f := s.fw.ended
    let content := s.fw.content slot len
    exec (.fwUpdateCommit n false) s = .next (if len ≠ 0 ∧ !(List.range (len / 64)).all gs.contains then ({ s with fw := f } : State).complete n 0xE 7 []
      else match content, s.fw.slotCheck content true with
        | some i, none => (({ s with fw := { (f.putSlot slot content).record with pend := some slot, tries := true } } : State).event
            0x0200 1 srcFw [slotNo slot, i.svn]).complete n 0 0 (leBytes 1 (slotNo slot) ++ leBytes 1 i.svn ++ leBytes 1 i.keyIndex.val ++
              zeroBytes 1 ++ leBytes 4 i.versions.1.toNat ++ leBytes 4 i.versions.2.1.toNat ++ leBytes 4 i.versions.2.2.toNat)
        | _, d => ({ s with fw := f } : State).complete n 0xE (d.getD 1) []) := by
  refine congrArg Host.Outcome.next ((if_neg (by decide)).trans ((State.serve_serving h _).trans ?_))
  simp only [hses]
  rfl

/-- Has a session written every granule of its slot (R571)? -/
theorem granules_written {len : Nat} {gs : List Nat} (h : len = 0 ∨ ∀ g < len / 64, g ∈ gs) :
    ¬(len ≠ 0 ∧ (!(List.range (len / 64)).all gs.contains) = true) := by
  rintro ⟨hne, hall⟩
  rcases h with h | h
  · exact hne h
  · simp at hall
    obtain ⟨g, hg, hno⟩ := hall
    exact hno (h g hg)

theorem exec_fwUpdateCommit_short {n : Fin 8} {s : State} {slot : Bool} {len : Nat} {gs : List Nat} (h : s.serving n 0x0042)
    (hses : s.fw.session = some (slot, len, gs)) (hlen : 0 < len) (hmiss : ∃ g < len / 64, g ∉ gs) :
    exec (.fwUpdateCommit n false) s = .next (({ s with fw := s.fw.ended } : State).complete n 0xE 7 []) := by
  rw [exec_fwUpdateCommit h hses, if_pos]
  obtain ⟨g, hg, hno⟩ := hmiss
  exact ⟨hlen.ne', by simpa using ⟨g, hg, hno⟩⟩

theorem exec_fwUpdateCommit_refused {n : Fin 8} {s : State} {slot : Bool} {len d : Nat} {gs : List Nat} (h : s.serving n 0x0042)
    (hses : s.fw.session = some (slot, len, gs)) (hall : len = 0 ∨ ∀ g < len / 64, g ∈ gs)
    (hbad : s.fw.slotCheck (s.fw.content slot len) true = some d) :
    exec (.fwUpdateCommit n false) s = .next (({ s with fw := s.fw.ended } : State).complete n 0xE d []) := by
  rw [exec_fwUpdateCommit h hses, if_neg (granules_written hall), hbad]
  cases s.fw.content slot len <;> rfl

theorem exec_fwUpdateCommit_staged {n : Fin 8} {s : State} {slot : Bool} {len : Nat} {gs : List Nat} {img : SlotImage} (h : s.serving n 0x0042)
    (hses : s.fw.session = some (slot, len, gs)) (hall : len = 0 ∨ ∀ g < len / 64, g ∈ gs) (himg : s.fw.content slot len = some img)
    (hok : s.fw.slotCheck (s.fw.content slot len) true = none) :
    ∃ out, exec (.fwUpdateCommit n false) s = .next ((({ s with fw := { (s.fw.ended.putSlot slot (some img)).record with
      pend := some slot, tries := true } } : State).event 0x0200 1 srcFw [slotNo slot, img.svn]).complete n 0 0 out) := by
  rw [exec_fwUpdateCommit h hses, if_neg (granules_written hall), hok]
  simp only [himg]
  exact ⟨_, rfl⟩

theorem firmwareUpdatesAreCheckedAndStaged : Claims.FirmwareUpdatesAreCheckedAndStaged := by
  intro n img slot len gs s b f
  refine ⟨fun hserv => ?_, fun hserv hses => ?_, fun hserv hses => ?_⟩
  · have hout := State.serving_outstanding hserv
    obtain ⟨⟨ha, hr, hv, hk⟩, hother, hslot⟩ := s.fw.opened_spec (b.arg 1 == 1) (b.arg 0)
    obtain ⟨out, hexec⟩ := exec_fwUpdateBegin hserv
    obtain ⟨u, hu⟩ : ∃ u : State, u = { s with freeCount := s.freeCount + 1, fw := { s.fw.opened (b.arg 1 == 1) (b.arg 0) with
      session := some (b.arg 1 == 1, b.arg 0, []),
      image := if b.arg 0 = 0 then (((s.fw.opened (b.arg 1 == 1) (b.arg 0)).slot (b.arg 1 == 1)).map (·.content)).getD [] else [] } } :=
      ⟨_, rfl⟩
    have hexec' : exec (.fwUpdateBegin n) s = .next (u.complete n 0 0 out) := by rw [hexec, hu]
    obtain ⟨-, hstatus, -⟩ := State.complete_outstanding u n 0 0 out (by rw [hu]; exact hout)
    have hfw : (u.complete n 0 0 out).fw = u.fw := State.complete_fw _ _ _ _ _
    refine ⟨_, hexec', ?_⟩
    rw [hstatus, hfw, hu]
    refine ⟨rfl, ?_, ha, hr, hv, hk, hother, hslot, rfl⟩
    by_cases h0 : b.arg 0 = 0
    · show (if b.arg 0 = 0 then _ else _) = _
      rw [if_pos h0, if_pos h0, hslot, if_pos h0]
    · show (if b.arg 0 = 0 then _ else _) = _
      rw [if_neg h0, if_neg h0]
  · intro m now f'
    rw [exec_fwUpdateChunk hserv hses]
    rfl
  · intro content ended
    refine ⟨congrArg Host.Outcome.next (if_pos rfl), exec_fwUpdateCommit_short hserv hses, fun hall => ⟨fun himg hok => ?_, fun d hbad =>
      exec_fwUpdateCommit_refused hserv hses hall hbad⟩⟩
    obtain ⟨out, hexec⟩ := exec_fwUpdateCommit_staged hserv hses hall himg hok
    obtain ⟨u, hu⟩ : ∃ u : State, u = { s with fw := { (s.fw.ended.putSlot slot (some img)).record with pend := some slot, tries := true } } :=
      ⟨_, rfl⟩
    obtain ⟨v, hv⟩ : ∃ v, v = u.event 0x0200 1 srcFw [slotNo slot, img.svn] := ⟨_, rfl⟩
    have hvb : v.boxes = s.boxes := by rw [hv, State.event_boxes, hu]
    obtain ⟨-, hstatus, -⟩ := State.complete_outstanding v n 0 0 out (by rw [hvb]; exact State.serving_outstanding hserv)
    have hfw : (v.complete n 0 0 out).fw = u.fw := by rw [State.complete_fw, hv, State.event_fw]
    rw [← hu, ← hv] at hexec
    refine ⟨_, hexec, ?_⟩
    rw [hstatus, hfw, hu]
    cases slot
    · exact ⟨rfl, rfl, rfl, rfl, rfl, rfl, rfl, rfl, rfl⟩
    · exact ⟨rfl, rfl, rfl, rfl, rfl, rfl, rfl, rfl, rfl⟩

/-- Settles O42: a command of the Keeper's by what it sets, and an update by its session, its content and its check. -/
theorem keeperAndFirmwareCommandsAct : Obligations.KeeperAndFirmwareCommandsAct :=
  ⟨keeperCommandsSetLimitsAndAnchors, powerStateCommandsAreKept, firmwareUpdatesAreCheckedAndStaged⟩

end Sys2Proof.Machine
end

section
/-! Trips, emergency stops and the MAIN_POR they make (R500, R522 to R524, R541, R547, R589, R592). -/

namespace Sys2Proof.Machine

/-- The Keeper after a MAIN_POR (R547). -/
def Keeper.mainReset (k : Keeper) (trigger : Nat) : Keeper :=
  { k.atReset 2 trigger 2 with
    heldRecords := k.heldRecords ++ [(0x0110, 1, [2, trigger, k.uptime.toNat])]
    rails := false, aclkOn := false, chainFails := 0, preq := false, powerState := 3
    sensors := k.sensors.map fun p => (p.1, { p.2 with rejects := 0, failed := false }) }

theorem State.throttles_frame (s : State) : ∃ cxl outbox thr doms,
    s.throttles = { s with cxl := cxl, outbox := outbox, sluice := { s.sluice with thr := thr, doms := doms } } :=
  ⟨_, _, _, _, s.throttles_throttled.1⟩

/-- A MAIN_POR resets the dies and the Keeper, and brings the throttle reasons up to date (R547). -/
theorem State.mainReset_frame (s : State) (trigger : Nat) : ∃ cxl outbox thr doms, s.mainReset trigger =
    { s.diesReset false with
      keeper := s.keeper.mainReset trigger, cxl := cxl, outbox := outbox
      sluice := { (s.diesReset false).sluice with thr := thr, doms := doms } } := by
  obtain ⟨cxl, outbox, thr, doms, h⟩ := ((s.resetTaken 2 trigger).diesReset false).throttles_frame
  refine ⟨cxl, outbox, thr, doms, ?_⟩
  unfold State.mainReset
  simp only []
  rw [h]
  rfl

theorem State.mainReset_keeper (s : State) (trigger : Nat) : (s.mainReset trigger).keeper = s.keeper.mainReset trigger := by
  obtain ⟨cxl, outbox, thr, doms, h⟩ := s.mainReset_frame trigger
  rw [h]

theorem State.mainReset_kept (s : State) (trigger : Nat) :
    (s.mainReset trigger).fw = { s.fw with session := none, image := [], measures := [], keyPair := none } ∧
      (s.mainReset trigger).log = { flash := s.log.flash, flashGone := s.log.flashGone, nextSeq := s.log.nextSeq } := by
  obtain ⟨cxl, outbox, thr, doms, h⟩ := s.mainReset_frame trigger
  rw [h]
  exact ⟨rfl, rfl⟩

/-- What a stop leaves of the Keeper, of the firmware and of the log (R522, R524). -/
theorem State.stop_spec (s : State) (code : Nat) (args : List Nat) : let t := s.stop code args
    t.keeper = { ({ s.keeper with heldRecords := s.keeper.heldRecords ++ [(code, 4, args)] } : Keeper).mainReset 4 with tripLatch := 1 } ∧
      t.fw.revoked = s.fw.revoked ∧ t.log.flash = s.log.flash := by
  obtain ⟨u, hu⟩ : ∃ u : State, u = { s with keeper := { s.keeper with heldRecords := s.keeper.heldRecords ++ [(code, 4, args)] } } := ⟨_, rfl⟩
  have hk := u.mainReset_keeper 4
  obtain ⟨hfw, hlog⟩ := u.mainReset_kept 4
  have ht : s.stop code args = { u.mainReset 4 with keeper := { (u.mainReset 4).keeper with tripLatch := 1 } } := by
    rw [hu]
    unfold State.stop
    simp only []
  rw [ht]
  generalize u.mainReset 4 = v at hk hfw hlog
  intro t
  show { v.keeper with tripLatch := 1 } = _ ∧ v.fw.revoked = _ ∧ v.log.flash = _
  rw [hk, hfw, hlog, hu]
  exact ⟨rfl, rfl, rfl⟩

theorem State.emergencyStop_on {s : State} (h : s.keeper.rails = true) (cause : Nat) :
    s.emergencyStop cause = s.stop 0x0104 [0, cause, s.keeper.uptime.toNat] := if_pos h

/-- The trip of a junction, by the sensor's threshold and unit (R522). -/
theorem exec_thermalTrip {x : Sensor} {temp lim : Int} {u : Nat} {s : State} (hrails : s.keeper.rails = true) (hlim : lim ≤ temp)
    (hx : (match x with
      | .basin d => some (1840, d.val)
      | .hub => some (1840, 4)
      | .runnel r => some (1840, 5 + r.val)
      | .stack i => some (1680, i.val)
      | _ => none : Option (Int × Nat)) = some (lim, u)) :
    exec (.thermalTrip x temp) s = .next (({ s with keeper := { s.keeper with thermtrip := true } } : State).stop 0x0103
      [u, argInt temp, s.keeper.uptime.toNat]) := by
  change execThermalTrip x temp s = _
  unfold execThermalTrip
  cases x <;> simp only [reduceCtorEq, Option.some.injEq, Prod.mk.injEq] at hx
  all_goals
    obtain ⟨rfl, rfl⟩ := hx
    exact congrArg Host.Outcome.next (if_pos (by simp [hrails, hlim]))

theorem exec_thermalTrip_below {x : Sensor} {temp lim : Int} {s : State} (hlim : temp < lim)
    (hx : lim = match x with | .stack _ => 1680 | _ => 1840) : exec (.thermalTrip x temp) s = .next s := by
  change execThermalTrip x temp s = _
  unfold execThermalTrip
  subst hx
  cases x with
  | basin d => exact congrArg Host.Outcome.next (if_neg (by simp at hlim ⊢; omega))
  | hub => exact congrArg Host.Outcome.next (if_neg (by simp at hlim ⊢; omega))
  | runnel r => exact congrArg Host.Outcome.next (if_neg (by simp at hlim ⊢; omega))
  | stack i => exact congrArg Host.Outcome.next (if_neg (by simp at hlim ⊢; omega))
  | _ => rfl

/-- The unit of a sensor of a junction, as a trip names it (R522). -/
def tripUnit : Sensor → Option Nat
  | .basin d => some d.val
  | .hub => some 4
  | .runnel r => some (5 + r.val)
  | .stack i => some i.val
  | _ => none

theorem exec_thermalTrip_none {x : Sensor} {temp : Int} {s : State} (h : tripUnit x = none) : exec (.thermalTrip x temp) s = .next s := by
  cases x with
  | basin | hub | runnel | stack => cases h
  | _ => rfl

/-- Settles O46: each stop is one MAIN_POR with its record held and the trip latched. -/
theorem tripsAndLeaksStopTheModule : Obligations.TripsAndLeaksStopTheModule := by
  unfold Obligations.TripsAndLeaksStopTheModule
  intro x temp level s hrails stops lim unit
  have hstop : ∀ (u : State) (code : Nat) (args : List Nat), u.keeper.heldRecords = s.keeper.heldRecords → u.keeper.uptime = s.keeper.uptime →
      u.fw = s.fw → u.log = s.log → ∀ i, exec i s = .next (u.stop code args) → stops i code args := by
    intro u code args hheld hup hfw hlog i hexec
    obtain ⟨hk, hr, hl⟩ := u.stop_spec code args
    refine ⟨_, hexec, ?_⟩
    rw [hk, hr, hl, hfw, hlog]
    refine ⟨rfl, rfl, rfl, rfl, rfl, rfl, rfl, rfl, ?_, rfl, rfl⟩
    show (u.keeper.heldRecords ++ _) ++ [(0x0110, 1, [2, 4, u.keeper.uptime.toNat])] = _
    rw [hheld, hup, List.append_assoc]
    rfl
  have hemergency : ∀ i cause, exec i s = .next (s.emergencyStop cause) → stops i 0x0104 [0, cause, s.keeper.uptime.toNat] :=
    fun i cause hexec => hstop s _ _ rfl rfl rfl rfl i (hexec.trans (by rw [State.emergencyStop_on hrails]))
  refine ⟨fun u hu hlim => ?_, fun h => ?_, fun h => hemergency _ _ (congrArg Host.Outcome.next (if_pos h)),
    fun h => congrArg Host.Outcome.next (if_neg (by rw [h]; decide)), ?_, fun h => hemergency _ _ (congrArg Host.Outcome.next (if_pos h)),
    fun h => congrArg Host.Outcome.next (if_neg (by omega)), rfl, ⟨_, rfl, rfl, fun h => ?_⟩, ?_⟩
  · have hexec : exec (.thermalTrip x temp) s = _ := exec_thermalTrip (lim := lim) (u := u) hrails hlim (by
      cases x <;> simp_all [unit, lim])
    refine ⟨hstop _ _ _ ?_ ?_ ?_ ?_ _ hexec, _, hexec, ?_⟩
    · rfl
    · rfl
    · rfl
    · rfl
    · rw [(State.stop_spec _ _ _).1]
      rfl
  · rcases h with h | h
    · exact exec_thermalTrip_none h
    · exact exec_thermalTrip_below h rfl
  · obtain ⟨u, hu⟩ : ∃ u : State, u = { s with keeper := { s.keeper with leak := true } } := ⟨_, rfl⟩
    have hexec : exec .leakAssert s = .next (u.stop 0x0104 [0, 1, s.keeper.uptime.toNat]) := by
      rw [hu]
      exact congrArg Host.Outcome.next (if_pos hrails)
    refine ⟨hstop u _ _ (by rw [hu]) (by rw [hu]) (by rw [hu]) (by rw [hu]) _ hexec, _, hexec, ?_⟩
    rw [(u.stop_spec _ _).1, hu]
    rfl
  · rw [h]
    rfl
  · obtain ⟨u, hu⟩ : ∃ u : State, u = { s with keeper := { s.keeper with
      heldRecords := s.keeper.heldRecords ++ [(0x0107, 4, [0, s.keeper.uptime.toNat])] } } := ⟨_, rfl⟩
    have hexec : exec .pllUnlock s = .next (u.mainReset 2) := by
      rw [hu]
      exact congrArg Host.Outcome.next (if_pos hrails)
    refine ⟨_, hexec, ?_⟩
    rw [u.mainReset_keeper 2, hu]
    exact ⟨rfl, rfl, rfl, rfl, by simp [Keeper.mainReset]⟩

end Sys2Proof.Machine
end

section
/-! The domains of the Sluice (R32, R33, R500 to R518): what asking, settling, lowering and adopting do to a domain, and the budgets, sags
and controllers that use them. -/

namespace Sys2Proof.Machine

/-! ### One domain changed -/

@[simp] theorem State.modDom_get_same (s : State) (d : Fin 10) (f : Dom → Dom) :
    (s.modDom d f).sluice.doms.get d = f (s.sluice.doms.get d) := vset_get_self _ _ _

theorem State.modDom_get_ne (s : State) {d e : Fin 10} (f : Dom → Dom) (h : e ≠ d) :
    (s.modDom d f).sluice.doms.get e = s.sluice.doms.get e := vset_get_ne _ _ _ _ h

theorem isAclk_iff (d : Fin 10) : isAclk d = true ↔ d.val < 4 ∨ 8 ≤ d.val := by simp [isAclk]

theorem isAclk_false_iff (d : Fin 10) : isAclk d = false ↔ 4 ≤ d.val ∧ d.val < 8 := by simp [isAclk]

/-- Two states that differ in the domain `d` at most. -/
def State.onlyDom (s : State) (d : Fin 10) (t : State) : Prop :=
  t = { s with sluice := { s.sluice with doms := t.sluice.doms } } ∧ ∀ e, e ≠ d → t.sluice.doms.get e = s.sluice.doms.get e

theorem State.modDom_onlyDom (s : State) (d : Fin 10) (f : Dom → Dom) : s.onlyDom d (s.modDom d f) :=
  ⟨rfl, fun _ h => s.modDom_get_ne f h⟩

theorem State.onlyDom_refl (s : State) (d : Fin 10) : s.onlyDom d s := ⟨rfl, fun _ _ => rfl⟩

theorem State.onlyDom_trans {s t u : State} {d : Fin 10} (h : s.onlyDom d t) (h' : t.onlyDom d u) : s.onlyDom d u := by
  obtain ⟨hs, he⟩ := h
  obtain ⟨hs', he'⟩ := h'
  refine ⟨?_, fun e hne => (he' e hne).trans (he e hne)⟩
  rw [hs', hs]

/-- Domains changed one after another: each is changed as it was found, and no other field of the state is. -/
theorem State.foldl_doms {f : State → Fin 10 → State} {P : Fin 10 → Dom → Dom → Prop} (hf : ∀ (s : State) (d : Fin 10), s.onlyDom d (f s d) ∧
    P d (s.sluice.doms.get d) ((f s d).sluice.doms.get d)) : ∀ (l : List (Fin 10)) (s : State), l.Nodup →
    let t := l.foldl f s
    t = { s with sluice := { s.sluice with doms := t.sluice.doms } } ∧ (∀ d ∈ l, P d (s.sluice.doms.get d) (t.sluice.doms.get d)) ∧
      ∀ d ∉ l, t.sluice.doms.get d = s.sluice.doms.get d
  | [], s, _ => ⟨rfl, fun _ h => (nomatch h), fun _ _ => rfl⟩
  | d :: l, s, hnd => by
    obtain ⟨hd, hl⟩ := List.nodup_cons.mp hnd
    obtain ⟨⟨hs, he⟩, hP⟩ := hf s d
    obtain ⟨ht, hin, hout⟩ := State.foldl_doms hf l (f s d) hl
    rw [List.foldl_cons]
    generalize f s d = u at hs he hP ht hin hout
    refine ⟨?_, fun e hmem => ?_, fun e hno => ?_⟩
    · exact ht.trans (by rw [hs])
    · rcases List.mem_cons.mp hmem with rfl | hmem
      · rw [hout e hd]
        exact hP
      · have hne : e ≠ d := fun h => hd (h ▸ hmem)
        have h := hin e hmem
        rwa [he e hne] at h
    · rw [hout e fun h => hno (List.mem_cons_of_mem d h)]
      exact he e fun h => hno (h ▸ List.mem_cons_self)

/-! ### Asking for a divider point, and settling (R502, R503, R508) -/

/-- What a request for divider point `k` may change of a domain, and what it makes of the point it waits for (R502, R508). -/
theorem State.askDivider_spec (s : State) (d : Fin 10) (k : Nat) : let x := s.sluice.doms.get d
    let y := (s.askDivider d k).sluice.doms.get d
    s.onlyDom d (s.askDivider d k) ∧
      y = { x with pending := y.pending, hold := y.hold, railTo := y.railTo, railReady := y.railReady } ∧
      y.pending = if k = x.div ∨ (k < x.div ∧ s.sluice.sag = true) then none else some k := by
  intro x y
  refine ⟨by unfold State.askDivider; exact s.modDom_onlyDom d _, ?_, ?_⟩
  · have hy : y = _ := s.modDom_get_same d _
    rw [hy]
    split
    · rfl
    · split <;> rfl
  · have hy : y = _ := s.modDom_get_same d _
    rw [hy]
    split
    · rfl
    · next h =>
      split
      · next h' => exact h'
      · rfl

/-- What settling makes of a domain: an ACLK domain is bound for its slowest setting or a slower point, an HBM domain's pace falls to its
lowest (R503, R504). -/
def Dom.settled (aclk : Bool) (x y : Dom) : Prop :=
  y = { x with pending := y.pending, hold := y.hold, railTo := y.railTo, railReady := y.railReady, pace := y.pace } ∧
    (aclk = true → y.pace = x.pace ∧ x.slowest ≤ y.bound ∧ x.bound ≤ y.bound ∧ ∀ k, y.pending = some k → x.pending = some k ∨ x.div < k) ∧
    (aclk = false → y.pending = x.pending ∧ y.pace = min x.pace x.lowestPace)

theorem Dom.div_le_bound (x : Dom) : x.div ≤ x.bound := le_max_left _ _

theorem State.settle_spec (s : State) (d : Fin 10) : s.onlyDom d (s.settle d) ∧
    Dom.settled (isAclk d) (s.sluice.doms.get d) ((s.settle d).sluice.doms.get d) := by
  unfold State.settle
  cases hd : isAclk d with
  | false =>
    simp only [Bool.false_eq_true, if_false]
    refine ⟨s.modDom_onlyDom d _, ?_⟩
    rw [State.modDom_get_same]
    exact ⟨rfl, fun h => (nomatch h), fun _ => ⟨rfl, rfl⟩⟩
  | true =>
    simp only [if_true]
    by_cases hlt : (s.sluice.doms.get d).bound < (s.sluice.doms.get d).slowest
    · rw [if_pos hlt]
      obtain ⟨honly, hy, hp⟩ := s.askDivider_spec d (s.sluice.doms.get d).slowest
      generalize (s.askDivider d (s.sluice.doms.get d).slowest).sluice.doms.get d = y at hy hp ⊢
      generalize s.sluice.doms.get d = x at honly hlt hy hp ⊢
      have hdiv := x.div_le_bound
      rw [if_neg (by omega)] at hp
      have hydiv : y.div = x.div := by rw [hy]
      have hbound : y.bound = max x.div x.slowest := by
        unfold Dom.bound
        rw [hydiv, hp]
        rfl
      refine ⟨honly, ?_, fun _ => ⟨by rw [hy], by omega, by omega, fun k hk => ?_⟩, fun h => nomatch h⟩
      · rw [hy]
      · rw [hp] at hk
        obtain rfl := Option.some.inj hk
        exact Or.inr (by omega)
    · rw [if_neg hlt]
      exact ⟨s.onlyDom_refl d, rfl, fun _ => ⟨rfl, by omega, le_refl _, fun _ h => Or.inl h⟩, fun h => nomatch h⟩

/-! ### URGENT entries (R33, R510, R518) -/

/-- What an URGENT entry makes of a domain (R33, R510, R518). -/
def Dom.lowered (n : Nat) (d : Fin 10) (x y : Dom) : Prop :=
  y.urgent = true ∧ y.div = x.div ∧ (isAclk d = true → min 4 (x.bound + 1) ≤ y.bound) ∧
    (isAclk d = false → y.pending = x.pending ∧ (8 < x.pace → y.pace ≤ max 8 (x.pace - n))) ∧
    ∀ k, y.pending = some k → x.pending = some k ∨ x.div < k

theorem Dom.slowest_ge (x : Dom) : x.lowDiv ≤ x.slowest := by
  unfold Dom.slowest
  omega

theorem State.urgentEntry_spec (s : State) (n why : Nat) : let t := s.urgentEntry n why
    t = { s with sluice := { s.sluice with doms := t.sluice.doms, urgent := satInc s.sluice.urgent } } ∧
      ∀ d, Dom.lowered n d (s.sluice.doms.get d) (t.sluice.doms.get d) := by
  have hlower : ∀ (s : State) (d : Fin 10), let t := (s.modDom d fun x =>
      if isAclk d then { x with lowDiv := max x.lowDiv (min 4 (x.bound + 1)), capped := why, urgent := true }
      else { x with lowPace := min x.lowPace (paceDown x.pace n), capped := why, urgent := true }).settle d
      s.onlyDom d t ∧ Dom.lowered n d (s.sluice.doms.get d) (t.sluice.doms.get d) := by
    intro s d
    cases hd : isAclk d with
    | true =>
      simp only [if_true]
      obtain ⟨honly, hset⟩ := (s.modDom d fun x =>
        { x with lowDiv := max x.lowDiv (min 4 (x.bound + 1)), capped := why, urgent := true }).settle_spec d
      refine ⟨State.onlyDom_trans (s.modDom_onlyDom d _) honly, ?_⟩
      rw [State.modDom_get_same, hd] at hset
      generalize (State.settle _ d).sluice.doms.get d = y at hset
      generalize s.sluice.doms.get d = x at hset
      obtain ⟨hy, haclk, -⟩ := hset
      obtain ⟨-, hslow, -, hpend⟩ := haclk rfl
      have hge := Dom.slowest_ge { x with lowDiv := max x.lowDiv (min 4 (x.bound + 1)), capped := why, urgent := true }
      refine ⟨by rw [hy], by rw [hy], fun _ => ?_, fun h => (by rw [hd] at h; cases h), hpend⟩
      have hlow : max x.lowDiv (min 4 (x.bound + 1)) ≤ y.bound := le_trans hge hslow
      omega
    | false =>
      simp only [Bool.false_eq_true, if_false]
      obtain ⟨honly, hset⟩ := (s.modDom d fun x =>
        { x with lowPace := min x.lowPace (paceDown x.pace n), capped := why, urgent := true }).settle_spec d
      refine ⟨State.onlyDom_trans (s.modDom_onlyDom d _) honly, ?_⟩
      rw [State.modDom_get_same, hd] at hset
      generalize (State.settle _ d).sluice.doms.get d = y at hset
      generalize s.sluice.doms.get d = x at hset
      obtain ⟨hy, -, hhbm⟩ := hset
      obtain ⟨hpend, hpace⟩ := hhbm rfl
      refine ⟨by rw [hy], by rw [hy], fun h => (by rw [hd] at h; cases h), fun _ => ⟨hpend, fun h8 => ?_⟩, fun k hk => Or.inl (hpend ▸ hk)⟩
      rw [hpace]
      show min x.pace (min (min x.budgetPace (min x.lowPace (paceDown x.pace n))) x.ceilPace) ≤ _
      have hdown : paceDown x.pace n = max 8 (x.pace - n) := if_neg (by omega)
      omega
  obtain ⟨ht, hin, -⟩ := State.foldl_doms hlower (List.finRange 10) s (List.nodup_finRange 10)
  unfold State.urgentEntry
  simp only []
  generalize List.foldl _ s (List.finRange 10) = u at ht hin
  refine ⟨?_, fun d => hin d (List.mem_finRange d)⟩
  rw [ht]

/-! ### Bringing the reasons up to date -/

theorem Claims.onlySluice_refl (s : State) : Claims.onlySluice s s := rfl

theorem Claims.onlySluice_trans {s t u : State} (h : Claims.onlySluice s t) (h' : Claims.onlySluice t u) : Claims.onlySluice s u := by
  unfold Claims.onlySluice at *
  rw [h', h]

theorem State.throttled.onlySluice {s t : State} (h : s.throttled t) : Claims.onlySluice s t := by
  unfold Claims.onlySluice
  rw [h.1]

theorem Claims.onlySluice_of {s t : State} (h : t = { s with sluice := t.sluice }) : Claims.onlySluice s t := by
  unfold Claims.onlySluice
  rw [h]

/-- The Sluice apart from the reasons, and each domain apart from its binding, are kept as the reasons are brought up to date. -/
theorem State.throttles_spec (s : State) : Claims.onlySluice s s.throttles ∧
    s.throttles.sluice = { s.sluice with thr := s.throttles.sluice.thr, doms := s.throttles.sluice.doms } ∧
    ∀ d, s.throttles.sluice.doms.get d = { s.sluice.doms.get d with bind := (s.throttles.sluice.doms.get d).bind } := by
  have h := s.throttles_throttled
  exact ⟨h.onlySluice, (congrArg State.sluice h.1 :), h.2⟩

end Sys2Proof.Machine
end

section
/-! Budgets, sags and the power controllers (R32, R33, R503, R508 to R518). -/

namespace Sys2Proof.Machine

/-! ### Budgets (R32, R33, R503, R517) -/

theorem State.learn_frame (s : State) (d : Fin 10) (us : Nat) (power : Rat) : ∃ learned pw,
    s.learn d us power = { s with sluice := { s.sluice with learned := learned, power := pw } } := by
  unfold State.learn
  simp only []
  split
  · exact ⟨s.sluice.learned, s.sluice.power, rfl⟩
  · exact ⟨_, _, rfl⟩

theorem State.allocate_frame (s : State) (tag : Option W16) : ∃ al, s.allocate tag = { s with sluice := { s.sluice with
    copy := some (tag, al), doms := s.sluice.doms.map fun (x : Dom) => { x with taken := false } } } := by
  unfold State.allocate
  exact ⟨_, rfl⟩

/-- What a domain makes of the budget it adopted (R503). -/
theorem State.adoptSettings_spec (s : State) (d : Fin 10) : let x := s.sluice.doms.get d
    let y := (s.adoptSettings d).sluice.doms.get d
    s.onlyDom d (s.adoptSettings d) ∧
      y = { x with pending := y.pending, hold := y.hold, railTo := y.railTo, railReady := y.railReady, pace := y.pace } ∧
      (isAclk d = true → y.pending = if x.slowest = x.div ∨ (x.slowest < x.div ∧ s.sluice.sag = true) then none else some x.slowest) ∧
      (isAclk d = false → y.pace = x.lowestPace) := by
  unfold State.adoptSettings
  cases hd : isAclk d with
  | true =>
    simp only [if_true]
    obtain ⟨honly, hy, hp⟩ := s.askDivider_spec d (s.sluice.doms.get d).slowest
    generalize (s.askDivider d (s.sluice.doms.get d).slowest).sluice.doms.get d = y at hy hp
    refine ⟨honly, ?_, fun _ => hp, fun h => (nomatch h)⟩
    rw [hy]
  | false =>
    simp only [Bool.false_eq_true, if_false, State.modDom_get_same]
    exact ⟨s.modDom_onlyDom d _, trivial, fun h => (nomatch h), fun _ => trivial⟩

/-- The budget `a` as a domain adopts it (R503, R517). -/
def Dom.budgeted (x : Dom) (a : Nat × Nat × Nat) : Dom :=
  { x with budgetDiv := a.1, budgetPace := a.2.1, fit := a.2.2, lowDiv := 0, lowPace := 64, capped := 0, urgent := false, taken := true }

theorem State.adopt_none {s : State} {d : Fin 10} (tag : W16) (h : s.sluice.copy = none ∨ (s.sluice.doms.get d).taken = true) :
    s.adopt d tag = (s, false) := by
  unfold State.adopt
  split
  · rfl
  · next hcopy =>
    rcases h with h | h
    · rw [h] at hcopy
      cases hcopy
    · rw [if_pos h]

theorem State.adopt_some {s : State} {d : Fin 10} {t : Option W16} {al : List (Nat × Nat × Nat)} (tag : W16)
    (hcopy : s.sluice.copy = some (t, al)) (htaken : (s.sluice.doms.get d).taken = false) :
    let u := (s.modDom d fun x => x.budgeted (al.getD d.val (0, 64, 0))).adoptSettings d
    let miss := t.isSome && t != some tag
    s.adopt d tag = ({ u with sluice := { u.sluice with mispredict := if miss then satInc u.sluice.mispredict else u.sluice.mispredict } }, miss) := by
  intro u miss
  unfold State.adopt
  simp only [hcopy, htaken, Bool.false_eq_true, if_false]
  cases t with
  | none => rfl
  | some u => rfl

/-- A domain changed outside the budget it takes: the occurrence that ended is summed up, and the pending copy is written anew. -/
theorem exec_phaseTagChange (d : Fin 10) (tag : W16) (us : Nat) (power : Rat) (s : State) {s1 : State} {miss : Bool}
    (h : (s.learn d us power).adopt d tag = (s1, miss)) : ∃ t, exec (.phaseTagChange d tag us power) s = .next t ∧ Claims.onlySluice s1 t ∧
      t.sluice.copy.isSome ∧ t.sluice.follow = s1.sluice.follow.set (s.sluice.doms.get d).tag.toNat tag.toNat ∧
      t.sluice.mispredict = s1.sluice.mispredict ∧ t.sluice.doms.get d = { s1.sluice.doms.get d with
        tag := tag, occCycles := 0, occBytes := 0, occCount := 0, taken := false, bind := (t.sluice.doms.get d).bind } := by
  obtain ⟨u, hu⟩ : ∃ u : State, u = s1.modDom d fun x => { x with tag := tag, occCycles := 0, occBytes := 0, occCount := 0 } := ⟨_, rfl⟩
  obtain ⟨v, hv⟩ : ∃ v : State, v = { u with sluice := { u.sluice with
    follow := u.sluice.follow.set (s.sluice.doms.get d).tag.toNat tag.toNat } } := ⟨_, rfl⟩
  obtain ⟨next, hnext⟩ : ∃ next : Option W16, next = if miss then some tag
    else if v.sluice.follow.has tag.toNat then some (BitVec.ofNat 16 (v.sluice.follow.get 0 tag.toNat)) else none := ⟨_, rfl⟩
  have hexec : exec (.phaseTagChange d tag us power) s = .next (v.allocate next).throttles := by
    change execPhaseTagChange d tag us power s = _
    unfold execPhaseTagChange
    simp only [h]
    rw [hnext, hv, hu]
  obtain ⟨al, hal⟩ := v.allocate_frame next
  obtain ⟨w, hw⟩ : ∃ w, w = v.allocate next := ⟨_, rfl⟩
  rw [← hw] at hexec hal
  obtain ⟨honly, hsl, hdoms⟩ := w.throttles_spec
  have huf : u.sluice.follow = s1.sluice.follow ∧ u.sluice.mispredict = s1.sluice.mispredict := by
    rw [hu]
    exact ⟨rfl, rfl⟩
  have hud : u.sluice.doms.get d = { s1.sluice.doms.get d with tag := tag, occCycles := 0, occBytes := 0, occCount := 0 } := by
    rw [hu, State.modDom_get_same]
  have hwd : w.sluice.doms.get d = { u.sluice.doms.get d with taken := false } := by
    rw [hal, hv]
    exact Vector.get_map_fin _ _ _
  refine ⟨_, hexec, Claims.onlySluice_trans (Claims.onlySluice_of ?_) honly, ?_, ?_, ?_, ?_⟩
  · rw [hal, hv, hu]
    rfl
  · rw [hsl, hal]
    rfl
  · rw [hsl, hal, hv]
    show u.sluice.follow.set _ _ = _
    rw [huf.1]
  · rw [hsl, hal, hv]
    exact huf.2
  · rw [hdoms d, hwd, hud]

theorem domainsAdoptPendingBudgets : Claims.DomainsAdoptPendingBudgets := by
  intro d tag us power cycles bytes s x
  refine ⟨rfl, ?_⟩
  obtain ⟨learned, pw, hl⟩ := s.learn_frame d us power
  obtain ⟨l, hl'⟩ : ∃ l, l = s.learn d us power := ⟨_, rfl⟩
  rw [← hl'] at hl
  have hlx : l.sluice.doms.get d = x := by rw [hl]
  have hlc : l.sluice.copy = s.sluice.copy := by rw [hl]
  have hsl : Claims.onlySluice s l := Claims.onlySluice_of (by rw [hl])
  by_cases hno : s.sluice.copy = none ∨ x.taken = true
  · have had := State.adopt_none (s := l) (d := d) tag (by rw [hlc, hlx]; exact hno)
    rw [hl'] at had
    obtain ⟨t, hexec, honly, hcopy, hfollow, hmis, hy⟩ := exec_phaseTagChange d tag us power s had
    rw [← hl'] at honly hfollow hmis hy
    rw [hlx] at hy
    refine ⟨t, hexec, Claims.onlySluice_trans hsl honly, ?_⟩
    intro y
    have hy' : y = _ := hy
    have hmis' : t.sluice.mispredict = s.sluice.mispredict := by rw [hmis, hl]
    refine ⟨by rw [hy'], by rw [hy'], by rw [hy'], by rw [hy'], by rw [hfollow]; exact Tbl.get_set_self _ _ _ _, hcopy, by rw [hy'],
      by rw [hy'], fun t' al hc hnt => ?_, fun _ => ⟨by rw [hy'], by rw [hy'], by rw [hy'], by rw [hy'], by rw [hy'], hmis'⟩⟩
    rcases hno with h | h
    · rw [hc] at h
      cases h
    · rw [hnt] at h
      cases h
  · obtain ⟨hcopy, htaken⟩ := not_or.mp hno
    obtain ⟨⟨t0, al0⟩, hcopy⟩ := Option.ne_none_iff_exists'.mp hcopy
    have htaken : x.taken = false := by simpa using htaken
    have had := State.adopt_some (s := l) (d := d) tag (hlc.trans hcopy) (by rw [hlx]; exact htaken)
    obtain ⟨b, hb⟩ : ∃ b : State, b = l.modDom d fun x => x.budgeted (al0.getD d.val (0, 64, 0)) := ⟨_, rfl⟩
    obtain ⟨⟨hu, -⟩, hux, hup, hupace⟩ := b.adoptSettings_spec d
    rw [← hb] at had
    have hbx : b.sluice.doms.get d = x.budgeted (al0.getD d.val (0, 64, 0)) := by rw [hb, State.modDom_get_same, hlx]
    generalize b.adoptSettings d = u at hu hux hup hupace had
    rw [hl'] at had
    obtain ⟨t, hexec, honly, hcopy', hfollow, hmis, hy⟩ := exec_phaseTagChange d tag us power s had
    have hbs : b = { s with sluice := b.sluice } := by rw [hb, hl]; rfl
    have hbm : b.sluice.mispredict = s.sluice.mispredict ∧ b.sluice.follow = s.sluice.follow ∧ b.sluice.sag = s.sluice.sag := by
      rw [hb, hl]
      exact ⟨rfl, rfl, rfl⟩
    have hum : u.sluice.mispredict = s.sluice.mispredict := by rw [hu]; exact hbm.1
    refine ⟨t, hexec, Claims.onlySluice_trans (Claims.onlySluice_of ?_) honly, ?_⟩
    · rw [hu, hbs]
    · intro y
      have hy' : y = _ := hy
      have hyu : y = { u.sluice.doms.get d with
        tag := tag, occCycles := 0, occBytes := 0, occCount := 0, taken := false, bind := y.bind } := hy
      rw [hbx] at hux hup hupace
      generalize u.sluice.doms.get d = z at hyu hux hup hupace
      refine ⟨by rw [hyu], by rw [hyu], by rw [hyu], by rw [hyu], by rw [hfollow]; exact Tbl.get_set_self _ _ _ _, hcopy', by rw [hyu],
        by rw [hyu, hux]; rfl, fun t' al hc _ => ?_, fun h => absurd h hno⟩
      rw [hcopy] at hc
      obtain ⟨rfl, rfl⟩ := Prod.mk.inj (Option.some.inj hc)
      intro a
      have hpend : y.pending = z.pending := by rw [hyu]
      refine ⟨by rw [hyu, hux]; rfl, by rw [hyu, hux]; rfl, by rw [hyu, hux]; rfl, by rw [hyu, hux]; rfl, by rw [hyu, hux]; rfl, ?_,
        fun hhbm => ?_, fun haclk => ?_⟩
      · rw [hmis]
        show (if _ then satInc u.sluice.mispredict else u.sluice.mispredict) = _
        rw [hum]
      · rw [show y.pace = z.pace by rw [hyu], hupace ((isAclk_false_iff d).mpr hhbm)]
        rfl
      · intro k
        have hslow : (x.budgeted (al0.getD d.val (0, 64, 0))).slowest = k := by
          show max (max a.1 0) (max x.ceilDiv x.top) = max a.1 (max x.ceilDiv x.top)
          rw [Nat.max_zero]
        have hup' := hup ((isAclk_iff d).mpr haclk)
        rw [hslow, hbm.2.2] at hup'
        rw [hpend, hup']
        refine ⟨fun h => if_pos h, fun h => if_neg ?_⟩
        show ¬(k = x.div ∨ (k < x.div ∧ s.sluice.sag = true))
        rcases h with h | ⟨h, hs⟩
        · omega
        · rw [hs]
          rintro (h' | ⟨-, h'⟩)
          · omega
          · cases h'

/-! ### Supply sags (R508 to R512) -/

/-- Two states that differ in the Sluice, in the port, in the log and in what is sent at most. -/
def State.slowed (s t : State) : Prop := t = { s with sluice := t.sluice, cxl := t.cxl, outbox := t.outbox, log := t.log }

theorem State.slowed_trans {s t u : State} (h : s.slowed t) (h' : t.slowed u) : s.slowed u := by
  unfold State.slowed at *
  rw [h', h]

theorem State.slowed_of {s t : State} (h : t = { s with sluice := t.sluice }) : s.slowed t := by
  unfold State.slowed
  rw [h]

theorem State.event_slowed (s : State) (code sev src : Nat) (args : List Nat) : s.slowed (s.event code sev src args) := by
  have h := s.event_frame code sev src args
  unfold State.slowed
  rw [h]

theorem State.raise_slowed (s : State) (n : Nat) : s.slowed (s.raise n) := by
  have h := (s.raise_frame n).1
  unfold State.slowed
  rw [h]

theorem Claims.onlySluice.slowed {s t : State} (h : Claims.onlySluice s t) : s.slowed t := by
  unfold Claims.onlySluice at h
  unfold State.slowed
  rw [h]

/-- What is logged does not depend on the Sluice. -/
theorem State.event_log_sluice (s : State) (x : Sluice) (code sev src : Nat) (args : List Nat) :
    (({ s with sluice := x } : State).event code sev src args).log = (s.event code sev src args).log := by
  by_cases h : s.log.inMsAt (s.uptime / 1000000) < 256 ∨ 2 ≤ sev
  · rw [State.event_stored h, State.event_stored (s := { s with sluice := x }) h, State.store_log, State.store_log]
    rfl
  · obtain ⟨hin, hsev⟩ := not_or.mp h
    rw [State.event_left_out (Nat.le_of_not_lt hin) (by omega), State.event_left_out (s := { s with sluice := x }) (Nat.le_of_not_lt hin) (by omega)]

/-- A domain with its pending up-shift cancelled (R508). -/
def Dom.noUpshift (x : Dom) : Dom :=
  match x.pending with
  | some k => if k < x.div then { x with pending := none, hold := false, railTo := x.div } else x
  | none => x

theorem Dom.noUpshift_spec (x : Dom) : x.noUpshift.div = x.div ∧ x.noUpshift.pace = x.pace ∧
    ∀ k, x.noUpshift.pending = some k → x.div ≤ k := by
  unfold Dom.noUpshift
  split
  · next k hk =>
    split
    · exact ⟨rfl, rfl, fun _ h => (nomatch h)⟩
    · next hlt =>
      refine ⟨rfl, rfl, fun k' h => ?_⟩
      rw [hk] at h
      obtain rfl := Option.some.inj h
      omega
  · next hk => exact ⟨rfl, rfl, fun k' h => by rw [hk] at h; cases h⟩

theorem State.cancelUpshifts_get (s : State) (d : Fin 10) : s.cancelUpshifts.sluice.doms.get d = (s.sluice.doms.get d).noUpshift :=
  Vector.get_map_fin Dom.noUpshift _ _

theorem Sluice.sagOf_setSag (x : Sluice) (i : Supply) (b : Bool) : (x.setSag i b).sagOf i = b := by cases i <;> rfl

theorem Sluice.doms_setSag (x : Sluice) (i : Supply) (b : Bool) : (x.setSag i b).doms = x.doms := by cases i <;> rfl

theorem Sluice.urgent_setSag (x : Sluice) (i : Supply) (b : Bool) : (x.setSag i b).urgent = x.urgent := by cases i <;> rfl

/-- The sag warnings of two Sluices agree. -/
def Sluice.sameSags (x y : Sluice) : Prop := y.sagMain = x.sagMain ∧ y.sagAux = x.sagAux

theorem Sluice.sagOf_same {x y : Sluice} (h : x.sameSags y) (i : Supply) : y.sagOf i = x.sagOf i := by
  cases i
  · exact h.1
  · exact h.2

/-- A sag's warning up to its URGENT entry: recorded, with the up-shifts cancelled (R508, R510). -/
theorem sagWarned_spec (i : Supply) (mv : Nat) (s : State) :
    let e := ((({ s with sluice := s.sluice.setSag i true } : State).raise icPower).event 0x0100 2 srcKeeper [supplyNo i, mv]).cancelUpshifts
    s.slowed e ∧ e.sluice.sagOf i = true ∧ e.sluice.urgent = s.sluice.urgent ∧
      ∀ d, e.sluice.doms.get d = (s.sluice.doms.get d).noUpshift := by
  obtain ⟨a, ha⟩ : ∃ a : State, a = { s with sluice := s.sluice.setSag i true } := ⟨_, rfl⟩
  obtain ⟨c, hc⟩ : ∃ c, c = (a.raise icPower).event 0x0100 2 srcKeeper [supplyNo i, mv] := ⟨_, rfl⟩
  have hsl : c.sluice = s.sluice.setSag i true := by rw [hc, State.event_sluice, State.raise_sluice, ha]
  have hslow : s.slowed c := by
    rw [hc]
    exact State.slowed_trans (State.slowed_trans (State.slowed_of (by rw [ha])) (a.raise_slowed _)) (State.event_slowed _ _ _ _ _)
  rw [← ha, ← hc]
  refine ⟨State.slowed_trans hslow (State.slowed_of rfl), ?_, ?_, fun d => ?_⟩
  · rw [Sluice.sagOf_same (x := c.sluice) (y := c.cancelUpshifts.sluice) ⟨rfl, rfl⟩, hsl, Sluice.sagOf_setSag]
  · show c.sluice.urgent = _
    rw [hsl, Sluice.urgent_setSag]
  · rw [State.cancelUpshifts_get, hsl, Sluice.doms_setSag]

theorem exec_sagWarn {i : Supply} {mv : Nat} {s : State} (h : s.sluice.sagOf i = false) (hmv : mv < s.warnMv i) :
    exec (.sagWarn i mv) s = .next (
      let e := ((({ s with sluice := s.sluice.setSag i true } : State).raise icPower).event 0x0100 2 srcKeeper [supplyNo i, mv]).cancelUpshifts
      (if s.sluice.sag = false then e.urgentEntry 16 3 else e).throttles) := by
  refine congrArg Host.Outcome.next ((if_neg (by simp [h, hmv])).trans ?_)
  cases hs : s.sluice.sag <;> rfl

/-- What the reasons leave of a domain and of the rest of the Sluice. -/
theorem State.throttles_keeps (s : State) (d : Fin 10) : let x := s.sluice.doms.get d
    let y := s.throttles.sluice.doms.get d
    y.div = x.div ∧ y.pending = x.pending ∧ y.pace = x.pace ∧ y.urgent = x.urgent ∧ y.bound = x.bound := by
  intro x y
  have h : y = { x with bind := y.bind } := s.throttles_spec.2.2 d
  clear_value x y
  rw [h]
  exact ⟨rfl, rfl, rfl, rfl, rfl⟩

theorem sagWarningsSlowEveryDomain : Claims.SagWarningsSlowEveryDomain := by
  intro i mv us s active lim
  have hlim : s.warnMv i = lim := by cases i <;> rfl
  refine ⟨fun hoff hmv => ?_, fun h => congrArg Host.Outcome.next (if_pos ?_), fun hon => ?_, fun hoff => ?_, fun hr => ?_, ?_⟩
  · have hexec := exec_sagWarn (i := i) hoff (hlim ▸ hmv)
    obtain ⟨hslow, hsag, hurg, hdoms⟩ := sagWarned_spec i mv s
    obtain ⟨e, he⟩ : ∃ e, e = ((({ s with sluice := s.sluice.setSag i true } : State).raise icPower).event 0x0100 2 srcKeeper
      [supplyNo i, mv]).cancelUpshifts := ⟨_, rfl⟩
    rw [← he] at hexec hslow hsag hurg hdoms
    obtain ⟨f, hf⟩ : ∃ f, f = if s.sluice.sag = false then e.urgentEntry 16 3 else e := ⟨_, rfl⟩
    have hexec' : exec (.sagWarn i mv) s = .next f.throttles := by rw [hexec, hf]
    obtain ⟨honly, hsl, -⟩ := f.throttles_spec
    obtain ⟨huf, hud⟩ := e.urgentEntry_spec 16 3
    have hef : e.slowed f ∧ e.sluice.sameSags f.sluice ∧ ∀ d, (f.sluice.doms.get d).div = (e.sluice.doms.get d).div ∧
        ∀ k, (f.sluice.doms.get d).pending = some k → (e.sluice.doms.get d).pending = some k ∨ (e.sluice.doms.get d).div < k := by
      rw [hf]
      split
      · refine ⟨State.slowed_of (by rw [huf]), by rw [huf]; exact ⟨rfl, rfl⟩, fun d => ?_⟩
        obtain ⟨-, hdiv, -, -, hp⟩ := hud d
        exact ⟨hdiv, hp⟩
      · exact ⟨rfl, ⟨rfl, rfl⟩, fun _ => ⟨rfl, fun _ h => Or.inl h⟩⟩
    obtain ⟨hefs, hsags, hpend⟩ := hef
    have hts : f.sluice.sameSags f.throttles.sluice := by
      rw [hsl]
      exact ⟨rfl, rfl⟩
    refine ⟨_, hexec', State.slowed_trans (State.slowed_trans hslow hefs) (Claims.onlySluice.slowed honly), ?_, fun d => ?_, fun hsag0 => ?_, fun hsag1 => ?_⟩
    · rw [Sluice.sagOf_same hts, Sluice.sagOf_same hsags, hsag]
    · obtain ⟨hdiv, hp, -⟩ := f.throttles_keeps d
      obtain ⟨hdiv', hp'⟩ := hpend d
      obtain ⟨hn, -, hnp⟩ := (s.sluice.doms.get d).noUpshift_spec
      rw [hdoms d] at hdiv' hp'
      rw [hdiv, hp, hdiv', hn]
      refine ⟨rfl, fun k hk => ?_⟩
      rcases hp' k hk with h | h
      · exact hnp k h
      · omega
    · rw [if_pos hsag0] at hf
      refine ⟨?_, fun d => ?_⟩
      · rw [hsl, hf, huf]
        exact congrArg satInc hurg
      · intro x y
        obtain ⟨-, -, hpace, hurgent, hbound⟩ := f.throttles_keeps d
        obtain ⟨hn, hnpace, -⟩ := x.noUpshift_spec
        have hlow := hud d
        rw [← hf, hdoms d] at hlow
        obtain ⟨h1, -, h3, h4, -⟩ := hlow
        have hdb := x.noUpshift.div_le_bound
        refine ⟨hurgent.trans h1, fun ha => ?_, fun hh h8 => ?_⟩
        · have h := h3 ((isAclk_iff d).mpr ha)
          rw [show y.bound = _ from hbound]
          show min 4 (x.div + 1) ≤ _
          rw [hn] at hdb
          refine le_trans ?_ h
          show min 4 (x.div + 1) ≤ min 4 (x.noUpshift.bound + 1)
          omega
        · have h := (h4 ((isAclk_false_iff d).mpr hh)).2 (by rw [show (s.sluice.doms.get d).noUpshift.pace = x.pace from hnpace]; exact h8)
          rw [show y.pace = _ from hpace]
          exact le_trans h (by rw [show (s.sluice.doms.get d).noUpshift.pace = x.pace from hnpace])
    · rw [if_neg (by rw [hsag1]; decide)] at hf
      rw [hsl, hf]
      exact hurg
  · rcases h with h | h
    · simp [show s.sluice.sagOf i = true from h]
    · have : ¬ mv < s.warnMv i := by rw [hlim]; exact Nat.not_lt.mpr h
      simp [this]
  · obtain ⟨u, hu⟩ : ∃ u, u = ({ s with sluice := s.sluice.setSag i false } : State).event 0x0101 1 srcKeeper [supplyNo i, us] := ⟨_, rfl⟩
    have hexec : exec (.sagClear i us) s = .next u.throttles := by
      rw [hu]
      exact congrArg Host.Outcome.next (if_pos hon)
    obtain ⟨honly, hsl, -⟩ := u.throttles_spec
    have hslow : s.slowed u := by
      rw [hu]
      exact State.slowed_trans (State.slowed_of rfl) (State.event_slowed _ _ _ _ _)
    refine ⟨_, hexec, ?_, State.slowed_trans hslow (Claims.onlySluice.slowed honly), ?_⟩
    · rw [Sluice.sagOf_same (x := u.sluice) (by rw [hsl]; exact ⟨rfl, rfl⟩), hu, State.event_sluice]
      exact Sluice.sagOf_setSag _ _ _
    · have hlog : u.throttles.log = u.log := by
        unfold Claims.onlySluice at honly
        rw [honly]
      rw [hlog, hu, State.event_log_sluice]
  · exact congrArg Host.Outcome.next (if_neg (by rw [show s.sluice.sagOf i = false from hoff]; decide))
  · refine ⟨_, congrArg Host.Outcome.next (if_pos (by simp [hr])), ?_⟩
    rw [s.mainReset_keeper 3]
    exact ⟨rfl, rfl, rfl, rfl⟩
  · exact ⟨_, rfl, rfl, rfl, rfl, rfl, rfl⟩

/-! ### The power controllers (R513, R517, R518) -/

/-- One step of a controller that has set its own flag: an URGENT entry where it is on and a domain can still slow (R517, R518). -/
theorem controller_slows {s u : State} {why : Nat} (hu : u = { s with sluice := { s.sluice with peakOn := u.sluice.peakOn, sustainedOn := u.sluice.sustainedOn } })
    : let t := (u.urgentEntry 8 why).throttles
    Claims.onlySluice s t ∧ t.sluice.urgent = satInc s.sluice.urgent ∧ ∀ d : Fin 10,
      let x := s.sluice.doms.get d
      let y := t.sluice.doms.get d
      y.urgent = true ∧ (d.val < 4 ∨ 8 ≤ d.val → min 4 (x.bound + 1) ≤ y.bound) ∧ (4 ≤ d.val ∧ d.val < 8 → 8 < x.pace → y.pace ≤ max 8 (x.pace - 8)) := by
  obtain ⟨huf, hud⟩ := u.urgentEntry_spec 8 why
  obtain ⟨f, hf⟩ : ∃ f, f = u.urgentEntry 8 why := ⟨_, rfl⟩
  rw [← hf] at huf hud
  rw [← hf]
  obtain ⟨honly, hsl, -⟩ := f.throttles_spec
  have hux : ∀ d, u.sluice.doms.get d = s.sluice.doms.get d := fun d => by rw [hu]
  refine ⟨Claims.onlySluice_trans (Claims.onlySluice_of ?_) honly, ?_, fun d => ?_⟩
  · rw [huf, hu]
  · rw [hsl, huf, hu]
  · intro x y
    obtain ⟨-, -, hpace, hurgent, hbound⟩ := f.throttles_keeps d
    obtain ⟨h1, -, h3, h4, -⟩ := hud d
    rw [hux d] at h3 h4
    refine ⟨hurgent.trans h1, fun ha => ?_, fun hh h8 => ?_⟩
    · rw [show y.bound = _ from hbound]
      exact h3 ((isAclk_iff d).mpr ha)
    · rw [show y.pace = _ from hpace]
      exact (h4 ((isAclk_false_iff d).mpr hh)).2 h8

theorem controller_rests {s u : State} (hu : u = { s with sluice := { s.sluice with peakOn := u.sluice.peakOn, sustainedOn := u.sluice.sustainedOn } })
    : let t := u.throttles
    Claims.onlySluice s t ∧ t.sluice.urgent = s.sluice.urgent ∧ ∀ d, t.sluice.doms.get d = { s.sluice.doms.get d with
      bind := (t.sluice.doms.get d).bind } := by
  obtain ⟨honly, hsl, hd⟩ := u.throttles_spec
  have hux : ∀ d, u.sluice.doms.get d = s.sluice.doms.get d := fun d => by rw [hu]
  refine ⟨Claims.onlySluice_trans (Claims.onlySluice_of (by rw [hu])) honly, ?_, fun d => ?_⟩
  · rw [hsl, hu]
  · rw [hd d, hux d]

/-- Whether a controller steps on: above its limit, or above 0.98 of it while it is stepping (R517, R518). -/
theorem controller_on {on : Bool} {m l : Rat} (h : l < m ∨ (on = true ∧ l * 98 / 100 < m)) (h0 : 0 ≤ l) :
    (if on then decide (l * 98 / 100 < m) else decide (l < m)) = true := by
  cases on with
  | false =>
    rcases h with h | h
    · simpa using h
    · cases h.1
  | true =>
    rcases h with h | h
    · have : l * 98 / 100 < m := by linarith
      simpa using this
    · simpa using h.2

theorem controller_off {on : Bool} {m l : Rat} (h : (m ≤ l ∧ on = false) ∨ (on = true ∧ m ≤ l * 98 / 100)) :
    (if on then decide (l * 98 / 100 < m) else decide (l < m)) = false := by
  rcases h with ⟨h, rfl⟩ | ⟨rfl, h⟩
  · simpa using h
  · simpa using h

theorem powerControllersSlowAboveTheirLimits : Claims.PowerControllersSlowAboveTheirLimits := by
  intro s slows rests rule
  have hrule : ∀ (i : Instr) (on : Bool) (m l : Rat) (why : Nat) (u : Bool → State),
      (∀ b, u b = { s with sluice := { s.sluice with peakOn := (u b).sluice.peakOn, sustainedOn := (u b).sluice.sustainedOn } }) →
      (let on' := if on then decide (l * 98 / 100 < m) else decide (l < m)
       exec i s = .next (if on' && !(u on').atFloor then (u on').urgentEntry 8 why else u on').throttles) → rule i on m l := by
    intro i on m l why u hu hexec
    have hfloor : ∀ b, (u b).atFloor = s.atFloor := fun b => by rw [hu b]; rfl
    refine ⟨fun hf habove h0 => ?_, fun hoff => ?_⟩
    · have hon := controller_on habove h0
      rw [hon] at hexec
      have hexec : exec i s = .next (if true && !(u true).atFloor then (u true).urgentEntry 8 why else u true).throttles := hexec
      rw [if_pos (by simp [hfloor, hf])] at hexec
      exact ⟨_, hexec, controller_slows (hu true)⟩
    · obtain ⟨on', hon'⟩ : ∃ b, b = if on then decide (l * 98 / 100 < m) else decide (l < m) := ⟨_, rfl⟩
      rw [← hon'] at hexec
      have hexec : exec i s = .next (if on' && !(u on').atFloor then (u on').urgentEntry 8 why else u on').throttles := hexec
      have hno : ¬(on' && !(u on').atFloor) = true := by
        rw [hfloor]
        rcases or_assoc.mpr hoff with h | h
        · simp [hon', controller_off h]
        · simp [h]
      rw [if_neg hno] at hexec
      exact ⟨_, hexec, controller_rests (hu on')⟩
  refine ⟨hrule _ _ _ _ 1 (fun b => { s with sluice := { s.sluice with peakOn := b } }) (fun _ => rfl) rfl,
    hrule _ _ _ _ 2 (fun b => { s with sluice := { s.sluice with sustainedOn := b } }) (fun _ => rfl) rfl, fun hep hfloor hlim => ?_, fun hep hlim => ?_⟩
  · have hend : s.floorEnd = s := if_neg (by simp [hep])
    refine (show exec .capFloor s = .next _ from congrArg Host.Outcome.next (if_pos ?_)).trans ?_
    · rw [hend]
      simp [hep, hfloor, hlim]
    · rw [hend]
      rfl
  · have hend : s.floorEnd = s := if_neg (by simp [hlim])
    refine (show exec .capFloor s = .next _ from congrArg Host.Outcome.next (if_neg ?_)).trans ?_
    · rw [hend]
      simp [hep]
    · rw [hend]

/-- Settles O44: a domain adopts, settles or is lowered by one function each, and every other field of the Sluice is followed through. -/
theorem domainsFollowBudgetsAndSupply : Obligations.DomainsFollowBudgetsAndSupply :=
  ⟨domainsAdoptPendingBudgets, sagWarningsSlowEveryDomain, powerControllersSlowAboveTheirLimits⟩

end Sys2Proof.Machine
end

section
/-! Samples and the thermal ceilings (R503, R513, R520, R521, R598, R600, R605). -/

namespace Sys2Proof.Machine

/-! ### Samples (R513, R520, R598, R605) -/

theorem State.takeSample_kept {s : State} {x : Sensor} {v : Int} (h : (sensorRange x).1 ≤ v) (h' : v ≤ (sensorRange x).2) :
    s.takeSample x v = { s with keeper := { s.keeper with
      sensors := s.keeper.sensors.set (sensorNo x) { s.sensor x with good := v, rejects := 0 } } } := if_pos ⟨h, h'⟩

theorem State.takeSample_discarded {s : State} {x : Sensor} {v : Int} (h : v < (sensorRange x).1 ∨ (sensorRange x).2 < v) :
    s.takeSample x v = { s with keeper := { s.keeper with
      sensors := s.keeper.sensors.set (sensorNo x) { s.sensor x with rejects := (s.sensor x).rejects + 1 }
      rejectCnt := satInc s.keeper.rejectCnt } } := if_neg (by omega)

/-- Two states that differ, besides what slowing a domain changes, in the note of a loss of flow at most (R523). -/
def State.watched (s t : State) : Prop := ∃ b, ({ s with keeper := { s.keeper with flowLost := b } } : State).slowed t

theorem State.slowed.watched {s t : State} (h : s.slowed t) : s.watched t := ⟨s.keeper.flowLost, h⟩

/-- The coolant's limit and range set, with the onset recorded and the reasons brought up to date (R523). -/
theorem State.coolantSet_watched (s : State) (coolant : Option Rat) (on onset : Bool) (args : List Nat) :
    let v : State := { s with
      sluice := { s.sluice with coolant := coolant, coolantRange := on }, keeper := { s.keeper with flowLost := s.noFlow } }
    s.watched (if onset then v.event 0x0105 2 srcKeeper args else v).throttles := by
  intro v
  refine ⟨s.noFlow, ?_⟩
  obtain ⟨u, hu⟩ : ∃ u : State, u = { s with keeper := { s.keeper with flowLost := s.noFlow } } := ⟨_, rfl⟩
  have hset : u.slowed v := State.slowed_of (by rw [hu])
  rw [← hu]
  split
  · exact State.slowed_trans (State.slowed_trans hset (State.event_slowed _ _ _ _ _)) (Claims.onlySluice.slowed (State.throttles_spec _).1)
  · exact State.slowed_trans hset (Claims.onlySluice.slowed (State.throttles_spec _).1)

theorem State.coolantUpdate_watched (s : State) : s.watched s.coolantUpdate := by
  unfold State.coolantUpdate
  exact s.coolantSet_watched _ _ _ _

theorem State.floorEnd_frame (s : State) : ∃ b, s.floorEnd = { s with sluice := { s.sluice with floorEpisode := b } } := by
  unfold State.floorEnd
  split
  · exact ⟨_, rfl⟩
  · exact ⟨s.sluice.floorEpisode, rfl⟩

/-- What the sample of a sensor does once it has been checked against its range (R513, R523). -/
theorem exec_sensorSample (x : Sensor) (v : Int) (s : State) : ∃ t, exec (.sensorSample x v) s = .next t ∧ (s.takeSample x v).watched t := by
  have hother : (s.takeSample x v).watched (s.takeSample x v) := State.slowed.watched rfl
  change ∃ t, execSensorSample x v s = .next t ∧ _
  unfold execSensorSample
  generalize s.takeSample x v = u at hother
  cases x with
  | inlet | flow => exact ⟨_, rfl, u.coolantUpdate_watched⟩
  | mainMa =>
    obtain ⟨b, hb⟩ := ({ u with sluice := { u.sluice with samples := (u.inputPower :: u.sluice.samples).take 100000 } } : State).floorEnd_frame
    refine ⟨_, rfl, State.slowed.watched (State.slowed_of ?_)⟩
    simp only [hb]
  | _ => exact ⟨u, rfl, hother⟩

theorem State.watched.keeper {s t : State} (h : s.watched t) : ∃ b, t.keeper = { s.keeper with flowLost := b } := by
  obtain ⟨b, h⟩ := h
  exact ⟨b, (congrArg State.keeper h :)⟩

theorem State.watched.frame {s t : State} (h : s.watched t) :
    t = { s with keeper := t.keeper, sluice := t.sluice, cxl := t.cxl, log := t.log, outbox := t.outbox } := by
  obtain ⟨b, h⟩ := h
  unfold State.slowed at h
  rw [h]

theorem State.watched.sensor {s t : State} (h : s.watched t) (y : Sensor) : t.sensor y = s.sensor y := by
  obtain ⟨b, hk⟩ := h.keeper
  unfold State.sensor
  rw [hk]

/-- A sample in its range, and whatever follows it. -/
theorem sample_kept {s t : State} {x : Sensor} {v : Int} (h : (sensorRange x).1 ≤ v) (h' : v ≤ (sensorRange x).2)
    (ht : (s.takeSample x v).watched t) : t.sensor x = { s.sensor x with good := v, rejects := 0 } ∧
      (∀ y, sensorNo y ≠ sensorNo x → t.sensor y = s.sensor y) ∧ t.keeper.rejectCnt = s.keeper.rejectCnt ∧
      t = { s with keeper := t.keeper, sluice := t.sluice, cxl := t.cxl, log := t.log, outbox := t.outbox } := by
  rw [State.takeSample_kept h h'] at ht
  refine ⟨?_, fun y hy => ?_, ?_, ht.frame⟩
  · rw [ht.sensor]
    exact Tbl.get_set_self _ _ _ _
  · rw [ht.sensor]
    exact Tbl.get_set_ne _ _ _ _ _ hy
  · obtain ⟨b, hk⟩ := ht.keeper
    rw [hk]

theorem sample_discarded {s t : State} {x : Sensor} {v : Int} (h : v < (sensorRange x).1 ∨ (sensorRange x).2 < v)
    (ht : (s.takeSample x v).watched t) : t.sensor x = { s.sensor x with rejects := (s.sensor x).rejects + 1 } ∧
      t.keeper.rejectCnt = satInc s.keeper.rejectCnt := by
  rw [State.takeSample_discarded h] at ht
  refine ⟨?_, ?_⟩
  · rw [ht.sensor]
    exact Tbl.get_set_self _ _ _ _
  · obtain ⟨b, hk⟩ := ht.keeper
    rw [hk]

/-- With no failed input, the power is that of both inputs (R513). -/
theorem State.inputPower_eq {s : State} (h : ∀ y ∈ [Sensor.mainMv, .mainMa, .auxMv, .auxMa], (s.sensor y).failed = false) :
    s.inputPower = ((s.sensor .mainMv).good * (s.sensor .mainMa).good / 1000 + (s.sensor .auxMv).good * (s.sensor .auxMa).good / 1000).toNat := by
  have h1 := h .mainMv (by simp)
  have h2 := h .mainMa (by simp)
  have h3 := h .auxMv (by simp)
  have h4 := h .auxMa (by simp)
  unfold State.inputPower
  simp only [h1, h2, h3, h4, Bool.or_self, Bool.false_eq_true, if_false]

theorem exec_sensorSample_mainMa (v : Int) (s : State) : let u := s.takeSample .mainMa v
    ∃ t, exec (.sensorSample .mainMa v) s = .next t ∧ t.sluice.samples = (u.inputPower :: u.sluice.samples).take 100000 := by
  intro u
  obtain ⟨w, hw⟩ : ∃ w : State, w = { u with sluice := { u.sluice with samples := (u.inputPower :: u.sluice.samples).take 100000 } } := ⟨_, rfl⟩
  obtain ⟨b, hb⟩ := w.floorEnd_frame
  refine ⟨w.floorEnd, by rw [hw]; rfl, ?_⟩
  rw [hb, hw]

theorem samplesAreRangeChecked : Claims.SamplesAreRangeChecked := by
  intro x die v s kept discarded
  obtain ⟨t, hexec, ht⟩ := exec_sensorSample x v s
  have hdie : (s.takeSample (dieSensor die) v).watched (s.takeSample (dieSensor die) v) := State.slowed.watched rfl
  refine ⟨fun h h' => ⟨t, hexec, sample_kept h h' ht⟩, fun h => ⟨t, hexec, sample_discarded h ht⟩,
    fun h h' => ⟨_, rfl, sample_kept h h' hdie⟩, fun h => ⟨_, rfl, sample_discarded h hdie⟩, fun h h' => ?_⟩
  obtain ⟨t, hexec, hs⟩ := exec_sensorSample_mainMa v s
  obtain ⟨hma, hy, -, -⟩ := sample_kept (s := s) h h' (State.slowed.watched rfl : (s.takeSample .mainMa v).watched (s.takeSample .mainMa v))
  have hsl : (s.takeSample .mainMa v).sluice = s.sluice := by rw [State.takeSample_kept h h']
  generalize s.takeSample .mainMa v = u at hs hma hy hsl
  have h1 := hy .mainMv (by decide)
  have h2 := hy .auxMv (by decide)
  have h3 := hy .auxMa (by decide)
  refine ⟨t, hexec, fun hok => ?_⟩
  have hpow := State.inputPower_eq (s := u) fun y hmem => by
    have hf := hok y hmem
    by_cases hma' : y = .mainMa
    · rw [hma', hma]
      rw [hma'] at hf
      exact hf
    · rw [hy y (by
        simp only [List.mem_cons, List.not_mem_nil, or_false] at hmem
        rcases hmem with rfl | rfl | rfl | rfl
        · decide
        · exact absurd rfl hma'
        · decide
        · decide)]
      exact hf
  rw [hs, hpow, hsl, h1, h2, h3, hma]

/-! ### Ceilings (R503, R521, R600) -/

theorem State.hotSensor_some {s : State} {d : Fin 10} (h : ∃ q ∈ domSensors d, if d.val < 4 ∨ 8 ≤ d.val
    then ((16 * s.sluice.throttleC : Nat) : Int) < (s.sensor q).good else 1520 ≤ (s.sensor q).good) : ∃ q, s.hotSensor d = some q := by
  obtain ⟨q, hq, hhot⟩ := h
  refine Option.isSome_iff_exists.mp (List.find?_isSome.mpr ⟨q, hq, ?_⟩)
  by_cases ha : d.val < 4 ∨ 8 ≤ d.val
  · rw [if_pos ha] at hhot
    rw [if_pos ((isAclk_iff d).mpr ha)]
    exact decide_eq_true hhot
  · rw [if_neg ha] at hhot
    rw [if_neg (fun h => ha ((isAclk_iff d).mp h))]
    exact decide_eq_true hhot

/-- The ceiling of a domain one step lower (R521). -/
def Dom.ceilingLower (aclk : Bool) (y : Dom) : Dom :=
  if aclk then { y with ceilDiv := min 4 (y.ceilDiv + 1), episode := true, urgent := true }
  else { y with ceilPace := paceDown y.ceilPace 8, episode := true, urgent := true }

theorem exec_thermalCeilingLower {d : Fin 10} {s : State} {q : Sensor} (h : s.hotSensor d = some q) :
    let u := (s.modDom d (Dom.ceilingLower (isAclk d))).settle d
    exec (.thermalCeilingLower d) s = .next (if (s.sluice.doms.get d).episode = false then
      u.event 0x0102 2 srcKeeper [sensorUnit q, argInt (u.sensor q).good] else u).throttles := by
  change execThermalCeilingLower d s = _
  unfold execThermalCeilingLower
  simp only [h]
  cases (s.sluice.doms.get d).episode <;> rfl

theorem Dom.ceil_le_slowest (x : Dom) : x.ceilDiv ≤ x.slowest := by
  unfold Dom.slowest
  omega

theorem Dom.lowestPace_le (x : Dom) : x.lowestPace ≤ x.ceilPace := min_le_right _ _

/-- A state's reasons brought up to date keep its log and every domain but for its binding. -/
theorem State.throttles_log (s : State) : s.throttles.log = s.log := by
  have h := s.throttles_spec.1
  unfold Claims.onlySluice at h
  exact (congrArg State.log h :)

theorem ceilingLowers {d : Fin 10} {s : State} {q : Sensor} (h : s.hotSensor d = some q) :
    let y := s.sluice.doms.get d
    ∃ t, exec (.thermalCeilingLower d) s = .next t ∧ s.slowed t ∧ (t.sluice.doms.get d).episode = true ∧ (t.sluice.doms.get d).urgent = true ∧
      (isAclk d = true → (t.sluice.doms.get d).ceilDiv = min 4 (y.ceilDiv + 1) ∧ (t.sluice.doms.get d).ceilDiv ≤ (t.sluice.doms.get d).bound) ∧
      (isAclk d = false → (t.sluice.doms.get d).ceilPace = paceDown y.ceilPace 8 ∧ (t.sluice.doms.get d).pace ≤ paceDown y.ceilPace 8) ∧
      (y.episode = true → t.log = s.log) := by
  intro y
  have hexec := exec_thermalCeilingLower h
  obtain ⟨a, ha⟩ : ∃ a, a = s.modDom d (Dom.ceilingLower (isAclk d)) := ⟨_, rfl⟩
  obtain ⟨⟨honly, -⟩, hset⟩ := a.settle_spec d
  rw [← ha] at hexec
  have had : a.sluice.doms.get d = y.ceilingLower (isAclk d) := by rw [ha, State.modDom_get_same]
  have has : a = { s with sluice := a.sluice } := by rw [ha]; rfl
  rw [had] at hset
  generalize a.settle d = u at honly hset hexec
  obtain ⟨c, hc⟩ : ∃ c, c = if y.episode = false then u.event 0x0102 2 srcKeeper [sensorUnit q, argInt (u.sensor q).good] else u := ⟨_, rfl⟩
  have hexec' : exec (.thermalCeilingLower d) s = .next c.throttles := hexec.trans (by rw [hc])
  have hus : s.slowed u := State.slowed_of (by rw [honly, has])
  have hcs : s.slowed c ∧ c.sluice = u.sluice ∧ (y.episode = true → c.log = s.log) := by
    rw [hc]
    split
    · next he => exact ⟨State.slowed_trans hus (State.event_slowed _ _ _ _ _), State.event_sluice _ _ _ _ _, fun h => by rw [h] at he; cases he⟩
    · refine ⟨hus, rfl, fun _ => ?_⟩
      rw [honly, has]
  obtain ⟨hslow, hsl, hlog⟩ := hcs
  obtain ⟨hto, -, htd⟩ := c.throttles_spec
  have hz := htd d
  rw [hsl] at hz
  refine ⟨_, hexec', State.slowed_trans hslow (Claims.onlySluice.slowed hto), ?_⟩
  rw [State.throttles_log]
  generalize c.throttles.sluice.doms.get d = z at hz
  generalize u.sluice.doms.get d = w at hset hz
  obtain ⟨hw, haclk, hhbm⟩ := hset
  have hzb : z.bound = w.bound := by rw [hz]; rfl
  cases hd : isAclk d with
  | true =>
    rw [hd] at hw haclk
    obtain ⟨-, hslow, -⟩ := haclk rfl
    have hge : min 4 (y.ceilDiv + 1) ≤ w.bound := le_trans (Dom.ceil_le_slowest (y.ceilingLower true)) hslow
    have hceil : z.ceilDiv = min 4 (y.ceilDiv + 1) := by rw [hz, hw]; rfl
    exact ⟨by rw [hz, hw]; rfl, by rw [hz, hw]; rfl, fun _ => ⟨hceil, by rw [hceil, hzb]; exact hge⟩, fun h => (nomatch h), hlog⟩
  | false =>
    rw [hd] at hw hhbm
    obtain ⟨-, hpace⟩ := hhbm rfl
    have hle : w.pace ≤ paceDown y.ceilPace 8 := by
      rw [hpace]
      exact le_trans (min_le_right _ _) (Dom.lowestPace_le (y.ceilingLower false))
    exact ⟨by rw [hz, hw]; rfl, by rw [hz, hw]; rfl, fun h => (nomatch h), fun _ => ⟨by rw [hz, hw]; rfl, by rw [hz]; exact hle⟩, hlog⟩

theorem nodup_sensorDoms (x : Sensor) : (sensorDoms x).Nodup := by
  cases x with
  | basin d | runnel d | stack d => exact List.nodup_singleton _
  | hub => decide
  | _ => exact List.nodup_nil

/-- A domain at its lowest ceiling (R600). -/
def Dom.atFloorCeiling (d : Fin 10) (y : Dom) : Prop :=
  (isAclk d = true → y.ceilDiv = 4 ∧ 4 ≤ y.bound) ∧ (isAclk d = false → y.pace ≤ 8)

/-- A domain's ceiling put at its lowest (R600). -/
def Dom.ceilingFloor (aclk : Bool) (y : Dom) : Dom := if aclk then { y with ceilDiv := 4 } else { y with ceilPace := min 8 y.ceilPace }

/-- The ceilings of a list of domains put at their lowest, one after another (R600). -/
def State.ceilingsFloor (s : State) (l : List (Fin 10)) : State :=
  l.foldl (fun s d => (s.modDom d (Dom.ceilingFloor (isAclk d))).settle d) s

/-- The domains of a sensor that fails, one after another, at the lowest ceiling (R600). -/
theorem sensorFail_doms (l : List (Fin 10)) (hl : l.Nodup) (s : State) :
    let t := s.ceilingsFloor l
    t = { s with sluice := { s.sluice with doms := t.sluice.doms } } ∧ ∀ d ∈ l, (t.sluice.doms.get d).atFloorCeiling d := by
  have hstep : ∀ (s : State) (d : Fin 10), let t := (s.modDom d (Dom.ceilingFloor (isAclk d))).settle d
      s.onlyDom d t ∧ (t.sluice.doms.get d).atFloorCeiling d := by
    intro s d
    obtain ⟨a, ha⟩ : ∃ a, a = s.modDom d (Dom.ceilingFloor (isAclk d)) := ⟨_, rfl⟩
    have honly' : s.onlyDom d a := by rw [ha]; exact s.modDom_onlyDom d _
    have had : a.sluice.doms.get d = (s.sluice.doms.get d).ceilingFloor (isAclk d) := by rw [ha, State.modDom_get_same]
    obtain ⟨honly, hw, haclk, hhbm⟩ := a.settle_spec d
    rw [← ha]
    refine ⟨State.onlyDom_trans honly' honly, fun h => ?_, fun h => ?_⟩
    · rw [h] at had
      obtain ⟨-, hslow, -⟩ := haclk h
      have hceil := Dom.ceil_le_slowest (a.sluice.doms.get d)
      rw [had] at hw hslow hceil
      exact ⟨by rw [hw]; rfl, le_trans hceil hslow⟩
    · rw [h] at had
      obtain ⟨-, hpace⟩ := hhbm h
      have hle := Dom.lowestPace_le (a.sluice.doms.get d)
      rw [had] at hpace hle
      rw [hpace]
      exact le_trans (min_le_right _ _) (le_trans hle (min_le_left _ _))
  obtain ⟨ht, hin, -⟩ := State.foldl_doms (P := fun d _ y => y.atFloorCeiling d) hstep l s hl
  exact ⟨ht, hin⟩

theorem Dom.atFloorCeiling_bind {d : Fin 10} {x : Dom} (h : x.atFloorCeiling d) (b : Byte) : ({ x with bind := b } : Dom).atFloorCeiling d := h

/-- What is brought up to date when a sensor has failed (R523, R600). -/
def State.afterFail (s : State) : Sensor → State
  | .inlet | .flow => s.coolantUpdate
  | _ => s.throttles

theorem sensorFails {x : Sensor} {s : State} (h : (s.sensor x).failed = false) : ∃ t, exec (.sensorFail x) s = .next t ∧
    t.sensor x = { s.sensor x with failed := true } ∧ ∀ e ∈ sensorDoms x, (t.sluice.doms.get e).atFloorCeiling e := by
  obtain ⟨a, ha⟩ : ∃ a : State, a = { s with keeper := { s.keeper with
    sensors := s.keeper.sensors.set (sensorNo x) { s.sensor x with failed := true } } } := ⟨_, rfl⟩
  obtain ⟨c, hc⟩ : ∃ c, c = a.event 0x0120 3 srcKeeper [sensorId x, argInt (s.sensor x).good] := ⟨_, rfl⟩
  obtain ⟨hframe, hdoms⟩ := sensorFail_doms (sensorDoms x) (nodup_sensorDoms x) c
  generalize hu : c.ceilingsFloor (sensorDoms x) = u at hframe hdoms
  have hexec : exec (.sensorFail x) s = .next (u.afterFail x) := by
    rw [← hu, hc, ha]
    refine congrArg Host.Outcome.next ((if_neg (by rw [h]; decide)).trans ?_)
    cases x <;> rfl
  have hux : u.sensor x = { s.sensor x with failed := true } := by
    have huk : u.keeper = a.keeper := by rw [hframe, hc]; exact State.event_keeper _ _ _ _ _
    unfold State.sensor
    rw [huk, ha]
    exact Tbl.get_set_self _ _ _ _
  have hthr : u.throttles.sensor x = { s.sensor x with failed := true } ∧ ∀ e ∈ sensorDoms x, (u.throttles.sluice.doms.get e).atFloorCeiling e := by
    refine ⟨?_, fun e he => ?_⟩
    · rw [(State.slowed.watched (Claims.onlySluice.slowed u.throttles_spec.1)).sensor, hux]
    · have hz := u.throttles_spec.2.2 e
      generalize u.throttles.sluice.doms.get e = z at hz ⊢
      rw [hz]
      exact hdoms e he
  have hcool : u.coolantUpdate.sensor x = { s.sensor x with failed := true } := by rw [u.coolantUpdate_watched.sensor, hux]
  cases x with
  | inlet | flow => exact ⟨_, hexec, hcool, fun _ h => (nomatch h)⟩
  | _ => exact ⟨_, hexec, hthr⟩

/-- A domain's ceiling one step higher (R521). -/
def Dom.ceilingRaise (aclk : Bool) (y : Dom) : Dom :=
  let cd := if aclk then y.ceilDiv - 1 else y.ceilDiv
  let cp := if aclk then y.ceilPace else min 64 (y.ceilPace + 8)
  { y with ceilDiv := cd, ceilPace := cp, episode := y.episode && (cd != 0 || cp != 64) }

theorem ceilingsFollowTemperature : Claims.CeilingsFollowTemperature := by
  intro d x s y aclk
  refine ⟨fun h => ?_, fun h => ?_, fun h => ?_, fun h => ?_, fun h => congrArg Host.Outcome.next (if_pos h)⟩
  · obtain ⟨q, hq⟩ := State.hotSensor_some h
    obtain ⟨t, hexec, hslow, hep, hur, ha, hh, hlog⟩ := ceilingLowers hq
    refine ⟨t, hexec, hslow, hep, hur, fun h => ha ((isAclk_iff d).mpr h), fun h h8 => ?_, hlog⟩
    obtain ⟨h1, h2⟩ := hh (Bool.eq_false_iff.mpr fun h' => h ((isAclk_iff d).mp h'))
    have hdown : paceDown y.ceilPace 8 = max 8 (y.ceilPace - 8) := if_neg (by omega)
    exact ⟨h1.trans hdown, hdown ▸ h2⟩
  · have hexec : exec (.thermalCeilingRaise d) s = .next (s.modDom d (Dom.ceilingRaise (isAclk d))).throttles :=
      congrArg Host.Outcome.next (if_pos h)
    obtain ⟨u, hu⟩ : ∃ u, u = s.modDom d (Dom.ceilingRaise (isAclk d)) := ⟨_, rfl⟩
    rw [← hu] at hexec
    refine ⟨_, hexec, ?_⟩
    obtain ⟨honly, -, hd⟩ := u.throttles_spec
    have hud : u.sluice.doms.get d = y.ceilingRaise (isAclk d) := by rw [hu, State.modDom_get_same]
    refine ⟨Claims.onlySluice_trans (Claims.onlySluice_of (by rw [hu]; rfl)) honly, ?_⟩
    intro z
    have hz : z = { u.sluice.doms.get d with bind := z.bind } := hd d
    rw [hud] at hz
    refine ⟨?_, fun h => ?_, fun h => ?_⟩
    · clear_value z
      rw [hz]
      rfl
    · clear_value z
      rw [hz]
      exact if_pos ((isAclk_iff d).mpr h)
    · clear_value z
      rw [hz]
      exact if_neg fun h' => h ((isAclk_iff d).mp h')
  · change execThermalCeilingLower d s = _
    unfold execThermalCeilingLower
    rw [h]
  · obtain ⟨t, hexec, hf, hdoms⟩ := sensorFails h
    exact ⟨t, hexec, hf, fun e he => ⟨fun ha => (hdoms e he).1 ((isAclk_iff e).mpr ha), fun hh => (hdoms e he).2 ((isAclk_false_iff e).mpr hh)⟩⟩

/-- Settles O45: a sample by its range alone, and a ceiling by settling the domain it is of. -/
theorem temperaturesAndSensorsAreWatched : Obligations.TemperaturesAndSensorsAreWatched :=
  ⟨samplesAreRangeChecked, ceilingsFollowTemperature⟩

end Sys2Proof.Machine
end

section
/-! Divider switches, droop and the margin ledger (R501, R502, R505 to R507, R528 to R530, R532). -/

namespace Sys2Proof.Machine

/-! ### Dividers and droop (R501, R502, R506, R507) -/

/-- A domain changed, with the reasons brought up to date. -/
theorem State.modDom_throttles (s : State) (d : Fin 10) (f : Dom → Dom) : let t := (s.modDom d f).throttles
    Claims.onlySluice s t ∧ t.sluice.doms.get d = { f (s.sluice.doms.get d) with bind := (t.sluice.doms.get d).bind } ∧
      ∀ e, e ≠ d → t.sluice.doms.get e = { s.sluice.doms.get e with bind := (t.sluice.doms.get e).bind } := by
  obtain ⟨honly, -, hd⟩ := (s.modDom d f).throttles_spec
  refine ⟨Claims.onlySluice_trans (Claims.onlySluice_of rfl) honly, ?_, fun e he => ?_⟩
  · have h := hd d
    rwa [State.modDom_get_same] at h
  · have h := hd e
    rwa [State.modDom_get_ne _ _ he] at h

theorem exec_dividerSwitch {d : Fin 10} {k : Nat} {s : State} (h : (s.sluice.doms.get d).pending = some k) :
    let x := s.sluice.doms.get d
    exec (.dividerSwitch d) s = if !isAclk d || (x.stretch || (x.hold && decide (s.keeper.uptime.toNat < x.releaseNs.toNat + 1000))) ||
      !(decide (x.div < k) || x.railReady) then .next s
    else .next (s.modDom d fun x =>
      { x with div := k, pending := none, hold := false, railTo := k, railReady := decide (k ≤ x.div), rootPhase := 0 }).throttles := by
  change execDividerSwitch d s = _
  unfold execDividerSwitch
  simp only [h]
  rfl

theorem dividersSwitchAtBoundaries : Claims.DividersSwitchAtBoundaries := by
  intro d k edges s x aclk changes waits
  have hchange : ∀ (i : Instr) (f : Dom → Dom), exec i s = .next (s.modDom d f).throttles → changes i (f x) :=
    fun i f h => ⟨_, h, s.modDom_throttles d f⟩
  have hheld : (x.stretch || (x.hold && decide (s.keeper.uptime.toNat < x.releaseNs.toNat + 1000))) = true ↔ waits := by
    simp [waits]
  refine ⟨fun ha hp hw hr => hchange _ (fun x =>
      { x with div := k, pending := none, hold := false, railTo := k, railReady := decide (k ≤ x.div), rootPhase := 0 }) ?_,
    fun h => ?_, fun ha => congrArg Host.Outcome.next (if_pos ((isAclk_iff d).mpr ha)),
    fun ha hon => hchange _ (fun x => { x with stretch := true, hold := x.pending.isSome }) ?_,
    fun h => hchange _ (fun x => { x with stretch := false, stretchCnt := satAdd x.stretchCnt edges, releaseNs := s.keeper.uptime }) ?_,
    fun h => congrArg Host.Outcome.next (if_neg (by rw [show (s.sluice.doms.get d).stretch = false from h]; decide))⟩
  · rw [exec_dividerSwitch hp]
    refine if_neg ?_
    have hno : (x.stretch || (x.hold && decide (s.keeper.uptime.toNat < x.releaseNs.toNat + 1000))) = false :=
      Bool.eq_false_iff.mpr fun h => hw (hheld.mp h)
    have hgo : (decide (x.div < k) || x.railReady) = true := by simpa using hr
    show ¬(!isAclk d || (x.stretch || (x.hold && decide (s.keeper.uptime.toNat < x.releaseNs.toNat + 1000))) ||
      !(decide (x.div < k) || x.railReady)) = true
    rw [hno, hgo, (isAclk_iff d).mpr ha]
    decide
  · cases hp : x.pending with
    | none =>
      change execDividerSwitch d s = _
      unfold execDividerSwitch
      simp only [show (s.sluice.doms.get d).pending = none from hp]
    | some k' =>
      rw [exec_dividerSwitch hp]
      refine if_pos ?_
      show (!isAclk d || (x.stretch || (x.hold && decide (s.keeper.uptime.toNat < x.releaseNs.toNat + 1000))) ||
        !(decide (x.div < k') || x.railReady)) = true
      rcases h with h | h | ⟨h, hk, hr⟩
      · rw [hp] at h
        cases h
      · rw [hheld.mpr h]
        simp
      · obtain rfl := Option.some.inj (hp.symm.trans h)
        simp [hr, hk]
  · exact congrArg Host.Outcome.next (if_pos (by rw [(isAclk_iff d).mpr ha, hon]; rfl))
  · exact congrArg Host.Outcome.next (if_pos h)

/-! ### The margin ledger (R505, R528 to R530, R532) -/

/-- A table written at several numbers, each with a value of its own. -/
theorem Tbl.get_foldl_set {α : Type} (d : α) {key : Nat → Nat} (hkey : ∀ a b, key a = key b → a = b) (g : Nat → α) {k : Nat} :
    ∀ (l : List Nat) (t : Tbl α), k ∈ l ∨ t.get d (key k) = g k → (l.foldl (fun t a => t.set (key a) (g a)) t).get d (key k) = g k
  | [], t, h => by
    rcases h with h | h
    · cases h
    · exact h
  | a :: l, t, h => by
    refine Tbl.get_foldl_set d hkey g l (t.set (key a) (g a)) ?_
    by_cases hka : k = a
    · rw [hka]
      exact Or.inr (Tbl.get_set_self _ _ _ _)
    · rcases h with h | h
      · rcases List.mem_cons.mp h with h | h
        · exact absurd h hka
        · exact Or.inl h
      · refine Or.inr ?_
        rw [Tbl.get_set_ne _ _ _ _ _ fun he => hka (hkey _ _ he)]
        exact h

/-- Two states whose Sluices agree but for the domains, and whose Keepers agree but for a margin exhausted. -/
def State.marginsKept (s t : State) : Prop :=
  t.sluice = { s.sluice with doms := t.sluice.doms } ∧ t.keeper = { s.keeper with exhausted := t.keeper.exhausted }

theorem State.marginsKept_of {s t : State} (hs : t.sluice = s.sluice) (hk : t.keeper = s.keeper) : s.marginsKept t := by
  unfold State.marginsKept
  rw [hs, hk]
  exact ⟨rfl, rfl⟩

theorem State.marginsKept_trans {s t u : State} (h : s.marginsKept t) (h' : t.marginsKept u) : s.marginsKept u := by
  obtain ⟨hs, hk⟩ := h
  obtain ⟨hs', hk'⟩ := h'
  refine ⟨?_, ?_⟩
  · rw [hs', hs]
  · rw [hk', hk]

theorem State.onlyDom.marginsKept {s t : State} {d : Fin 10} (h : s.onlyDom d t) : s.marginsKept t := by
  obtain ⟨h, -⟩ := h
  exact ⟨(congrArg State.sluice h :), by rw [(congrArg State.keeper h :)]⟩

theorem State.event_marginsKept (s : State) (code sev src : Nat) (args : List Nat) : s.marginsKept (s.event code sev src args) :=
  State.marginsKept_of (State.event_sluice _ _ _ _ _) (State.event_keeper _ _ _ _ _)

theorem State.foldl_marginsKept {α : Type} {f : State → α → State} (hf : ∀ (s : State) (x : α), s.marginsKept (f s x)) :
    ∀ (l : List α) (s : State), s.marginsKept (l.foldl f s)
  | [], _ => State.marginsKept_of rfl rfl
  | x :: l, s => State.marginsKept_trans (hf s x) (State.foldl_marginsKept hf l (f s x))

theorem State.reportFailed_marginsKept (s : State) : s.marginsKept s.reportFailed := by
  unfold State.reportFailed
  split
  · exact State.marginsKept_of rfl rfl
  · exact State.marginsKept_of rfl rfl

/-- The points of ledger domain `l` as a plan with these voltages leaves them (R528). -/
def State.plannedPoint (s : State) (l : Nat) (vmins : List Nat) (k : Nat) : Point :=
  let o := s.sluice.points.get (.made 0) (5 * l + k)
  planPoint o (vmins.getD k o.vmin)

/-- The points a plan of ledger domain `l` makes, as the model lists them (R528). -/
def State.planList (s : State) (l : Nat) (vmins : List Nat) : List Point :=
  (List.range 5).map fun k =>
    let o := ((List.range 5).map fun k => s.sluice.points.get (.made 0) (5 * l + k)).getD k (.made 0)
    planPoint o (vmins.getD k o.vmin)

theorem State.planList_getD {s : State} {l : Nat} {vmins : List Nat} {k : Nat} (hk : k < 5) :
    (s.planList l vmins).getD k (.made 0) = s.plannedPoint l vmins k := by
  simp [State.planList, State.plannedPoint, hk]

/-- The ledger with a domain's new points (R528). -/
def State.putPoints (s : State) (l : Nat) (new : List Point) : State := { s with sluice := { s.sluice with
  points := (List.range 5).foldl (fun (t : Tbl Point) k => t.set (5 * l + k) (new.getD k (.made 0))) s.sluice.points } }

/-- Withdrawn points lower a domain's top (R530). -/
def State.lowerTop (s : State) (d : Fin 10) (top : Nat) : State := (s.modDom d fun x => { x with top := max x.top top }).settle d

/-- The points withdrawn are recorded (R530). -/
def State.recordLost (s : State) (d : Fin 10) (new : List Point) (lost : List Nat) : State :=
  lost.foldl (fun s k => s.event 0x010A 3 srcKeeper [d.val, k, argInt (850 - (new.getD k (.made 0)).vmin)]) s

/-- A new ACLK top changes the capability table (R530). -/
def State.topChanged (s : State) (top0 : Nat) : State := if s.aclkTop = top0 then s else s.capChange

/-- A domain without a point left exhausts the margin (R530). -/
def State.exhaust (s : State) (d : Fin 10) (gone : Bool) : State :=
  if gone && !s.keeper.exhausted then
    (({ s with keeper := { s.keeper with exhausted := true } } : State).event 0x010B 4 srcKeeper [d.val]).reportFailed
  else s

theorem State.planDom_eq (s : State) (l : Nat) (vmins : List Nat) : ∃ top lost gone, s.planDom l vmins =
    ((((s.putPoints l (s.planList l vmins)).lowerTop (ledgerDom l) top).recordLost (ledgerDom l) (s.planList l vmins) lost).topChanged
      s.aclkTop).exhaust (ledgerDom l) gone := by
  refine ⟨((List.range 5).find? fun k => !((s.planList l vmins).getD k (.made 0)).withdrawn).getD 4,
    (List.range 5).filter fun k => ((s.planList l vmins).getD k (.made 0)).withdrawn &&
      !(((List.range 5).map fun k => s.sluice.points.get (.made 0) (5 * l + k)).getD k (.made 0)).withdrawn,
    (s.planList l vmins).all (·.withdrawn), ?_⟩
  unfold State.planDom State.exhaust State.topChanged State.recordLost State.lowerTop State.putPoints State.planList
  rfl

theorem State.lowerTop_marginsKept (s : State) (d : Fin 10) (top : Nat) : s.marginsKept (s.lowerTop d top) :=
  State.marginsKept_trans (State.onlyDom.marginsKept (s.modDom_onlyDom d _)) (State.onlyDom.marginsKept (State.settle_spec _ d).1)

theorem State.recordLost_marginsKept (s : State) (d : Fin 10) (new : List Point) (lost : List Nat) : s.marginsKept (s.recordLost d new lost) :=
  State.foldl_marginsKept (fun s _ => s.event_marginsKept _ _ _ _) lost s

theorem State.topChanged_marginsKept (s : State) (top0 : Nat) : s.marginsKept (s.topChanged top0) := by
  unfold State.topChanged
  split
  · exact State.marginsKept_of rfl rfl
  · exact State.marginsKept_of rfl rfl

theorem State.exhaust_marginsKept (s : State) (d : Fin 10) (gone : Bool) : s.marginsKept (s.exhaust d gone) := by
  unfold State.exhaust
  split
  · have hset : s.marginsKept { s with keeper := { s.keeper with exhausted := true } } := ⟨rfl, rfl⟩
    exact State.marginsKept_trans (State.marginsKept_trans hset (State.event_marginsKept _ _ _ _ _)) (State.reportFailed_marginsKept _)
  · exact State.marginsKept_of rfl rfl

theorem State.planDom_marginsKept (s : State) (l : Nat) (vmins : List Nat) :
    (s.putPoints l (s.planList l vmins)).marginsKept (s.planDom l vmins) := by
  obtain ⟨top, lost, gone, h⟩ := s.planDom_eq l vmins
  rw [h]
  exact State.marginsKept_trans (State.marginsKept_trans (State.marginsKept_trans (State.lowerTop_marginsKept _ _ _)
    (State.recordLost_marginsKept _ _ _ _)) (State.topChanged_marginsKept _ _)) (State.exhaust_marginsKept _ _ _)

theorem planPoint_eq (old : Point) (v : Nat) : planPoint old v =
    if old.withdrawn then { old with vmin := v, vneed := v + old.guard }
    else if v ≤ 775 then ⟨v, v + 75, 75, false⟩ else if v ≤ 805 then ⟨v, 850, 850 - v, false⟩
    else ⟨v, v + old.guard, old.guard, true⟩ := by
  unfold planPoint
  cases old.withdrawn with
  | true => rfl
  | false =>
    simp only [Bool.false_eq_true, if_false]
    by_cases h1 : v ≤ 775
    · rw [if_pos (by omega), if_pos h1]
    · rw [if_neg (by omega), if_neg h1]
      by_cases h2 : v ≤ 805
      · rw [if_pos (by omega), if_pos h2]
        have hm : ((850 : Int) - v).toNat = 850 - v := by omega
        rw [hm, show v + (850 - v) = 850 by omega]
      · rw [if_neg (by omega), if_neg h2]

theorem exec_replanDomain {d : Fin 7} {s : State} (vmins : List Nat) (hdue : s.sluice.planDue = true) (hnew : d.val ∉ s.sluice.planned)
    (htime : s.planTime = true) (hr : s.keeper.rails = true) : let u := if d.val < 6 then s.planDom d.val vmins else s.planHub (vmins.headD 0)
    let v : State := { u with sluice := { u.sluice with planned := d.val :: u.sluice.planned } }
    exec (.replanDomain d vmins) s = .next (if (d.val :: u.sluice.planned).length = 7 then v.planComplete else v).throttles := by
  refine congrArg Host.Outcome.next (if_neg ?_)
  simp [hdue, hnew, htime, hr]

theorem State.planHub_spec (s : State) (vmin : Nat) :
    (s.planHub vmin).sluice = { s.sluice with hubMargin := 850 - (vmin : Int) } ∧ (s.planHub vmin).keeper = s.keeper := by
  unfold State.planHub
  simp only []
  split
  · exact ⟨State.event_sluice _ _ _ _ _, State.event_keeper _ _ _ _ _⟩
  · exact ⟨rfl, rfl⟩

theorem State.planComplete_sluice (s : State) : s.planComplete.sluice = { s.sluice with
    planDue := false, planned := [], lastPlan := s.keeper.uptime, planCount := satInc s.sluice.planCount, deferred := 0, planBoxes := [] } := by
  obtain ⟨u, hu⟩ : ∃ u : State, u = { s with sluice := { s.sluice with
    planDue := false, planned := [], lastPlan := s.keeper.uptime, planCount := satInc s.sluice.planCount, deferred := 0, planBoxes := [] } } :=
    ⟨_, rfl⟩
  have hboxes : ∀ (l : List Nat) (s : State), (l.foldl (fun s n => s.completeAt n 0 0 (leBytes 2 s.aclkTop ++
      leBytes 2 (ofSigned 16 s.leastMargin))) s).sluice = s.sluice := by
    intro l
    induction l with
    | nil => exact fun _ => rfl
    | cons n l ih =>
      intro s
      rw [List.foldl_cons, ih]
      unfold State.completeAt
      split
      · exact State.complete_sluice _ _ _ _ _
      · rfl
  have hdef : s.planComplete = s.sluice.planBoxes.foldl (fun s n => s.completeAt n 0 0 (leBytes 2 s.aclkTop ++
      leBytes 2 (ofSigned 16 s.leastMargin))) (u.event 0x0108 0 srcKeeper [0, u.aclkTop, argInt u.leastMargin]) := by
    rw [hu]
    rfl
  rw [hdef, hboxes, State.event_sluice, hu]

/-- What the Sluice and the Keeper keep as one domain is planned (R528, R529). -/
theorem planned_kept {s u : State} {d : Fin 7} {vmins : List Nat} (hu : u = if d.val < 6 then s.planDom d.val vmins else s.planHub (vmins.headD 0)) :
    u.sluice = { s.sluice with doms := u.sluice.doms, points := u.sluice.points, hubMargin := u.sluice.hubMargin } ∧
      u.keeper = { s.keeper with exhausted := u.keeper.exhausted } := by
  rw [hu]
  split
  · obtain ⟨hsl, hk⟩ := s.planDom_marginsKept d.val vmins
    exact ⟨by rw [hsl]; rfl, hk⟩
  · obtain ⟨hsl, hk⟩ := s.planHub_spec (vmins.headD 0)
    refine ⟨by rw [hsl], by rw [hk]⟩

theorem marginsAreReplanned : Claims.MarginsAreReplanned := by
  intro d vmins s x now hours
  refine ⟨fun h => congrArg Host.Outcome.next (if_pos h), fun h => congrArg Host.Outcome.next (if_neg (Nat.not_le.mpr h)), fun h => ?_,
    fun hdue hnew htime hr => ?_, fun h => ?_⟩
  · exact congrArg Host.Outcome.next (if_pos (by rw [Nat.mul_assoc]; exact h))
  · have hexec := exec_replanDomain vmins hdue hnew htime hr
    obtain ⟨u, hu⟩ : ∃ u, u = if d.val < 6 then s.planDom d.val vmins else s.planHub (vmins.headD 0) := ⟨_, rfl⟩
    rw [← hu] at hexec
    obtain ⟨hsl, hk⟩ := planned_kept hu
    have hplanned : u.sluice.planned = x.planned := by rw [hsl]
    obtain ⟨v, hv⟩ : ∃ v : State, v = { u with sluice := { u.sluice with planned := d.val :: u.sluice.planned } } := ⟨_, rfl⟩
    have hnot : x.planned.length < 6 → exec (.replanDomain d vmins) s = .next v.throttles ∧
        v.throttles.sluice.planned = d.val :: x.planned ∧ v.throttles.sluice.points = u.sluice.points ∧
        v.throttles.sluice.hubMargin = u.sluice.hubMargin := fun hlen => by
      have hshort : ¬(d.val :: u.sluice.planned).length = 7 := by
        rw [hplanned, List.length_cons]
        omega
      have hts := v.throttles_spec.2.1
      refine ⟨?_, ?_, ?_, ?_⟩
      · rw [hexec, hv]
        exact congrArg Host.Outcome.next (congrArg State.throttles (if_neg hshort))
      · rw [hts, hv, hplanned]
      · rw [hts, hv]
      · rw [hts, hv]
    refine ⟨fun h6 hlen hv5 => ?_, fun h6 hlen => ?_, fun hlen => ?_⟩
    · obtain ⟨hexec', hpl, hpts, -⟩ := hnot hlen
      rw [if_pos h6] at hu
      obtain ⟨hkept, -⟩ := s.planDom_marginsKept d.val vmins
      rw [← hu] at hkept
      refine ⟨_, hexec', hpl, fun k hk5 => ?_⟩
      intro v old
      have hpoints : u.sluice.points = (List.range 5).foldl (fun (t : Tbl Point) k => t.set (5 * d.val + k)
          ((s.planList d.val vmins).getD k (.made 0))) s.sluice.points :=
        (congrArg Sluice.points hkept :)
      have hget := Tbl.get_foldl_set (.made 0) (key := fun k => 5 * d.val + k) (fun a b h => Nat.add_left_cancel h)
        (fun k => (s.planList d.val vmins).getD k (.made 0)) (List.range 5) s.sluice.points (Or.inl (List.mem_range.mpr hk5))
      have hval : vmins.getD k old.vmin = v := by
        rw [List.getD_eq_getElem _ _ (by omega)]
        exact (List.getD_eq_getElem _ _ (by omega)).symm
      rw [hpts, hpoints]
      refine hget.trans ((State.planList_getD hk5).trans ?_)
      show planPoint old (vmins.getD k old.vmin) = _
      rw [hval, planPoint_eq]
    · obtain ⟨hexec', hpl, hpts, hhub⟩ := hnot hlen
      rw [if_neg (by omega)] at hu
      obtain ⟨hus, -⟩ := s.planHub_spec (vmins.headD 0)
      rw [← hu] at hus
      refine ⟨_, hexec', ?_, ?_, ?_⟩
      · rw [hhub, hus]
      · rw [hpts, hus]
      · rw [hpl, h6]
    · have hfull : (d.val :: u.sluice.planned).length = 7 := by rw [hplanned, List.length_cons, hlen]
      have hexec' : exec (.replanDomain d vmins) s = .next v.planComplete.throttles := by
        rw [hexec, hv]
        exact congrArg Host.Outcome.next (congrArg State.throttles (if_pos hfull))
      refine ⟨_, hexec', ?_⟩
      rw [v.planComplete.throttles_spec.2.1, v.planComplete_sluice]
      refine ⟨rfl, rfl, ?_, ?_, rfl, rfl⟩
      · show v.keeper.uptime = _
        rw [hv]
        exact (congrArg Keeper.uptime hk :)
      · show satInc v.sluice.planCount = _
        rw [hv]
        show satInc u.sluice.planCount = _
        rw [hsl]
  · refine congrArg Host.Outcome.next (if_pos ?_)
    rcases h with h | h
    · simp [show s.sluice.planDue = false from h]
    · simp [h]

/-- Settles O47: a switch by what holds it, and a plan point by point over the ledger. -/
theorem dividersSwitchAndMarginsAreReplanned : Obligations.DividersSwitchAndMarginsAreReplanned :=
  ⟨dividersSwitchAtBoundaries, marginsAreReplanned⟩

end Sys2Proof.Machine
end

section
/-! The firmware's heartbeat and restart, the resets of class 1 to 3, and the pins (R35 to R39, R547 to R552, R588 to R592, R604). -/

namespace Sys2Proof.Machine

/-! ## READY and the firmware's restart -/

/-- READY follows its conditions, and its cause is raised when it changes (R36). -/
theorem State.readyUpdate_spec (s : State) : let t := s.readyUpdate
    t = { s with keeper := { s.keeper with ready := s.readyCond }, cxl := t.cxl, outbox := t.outbox } ∧
      (s.keeper.ready = s.readyCond → t = s) ∧ (s.keeper.ready ≠ s.readyCond → t.cxl.cause.getLsbD 9 = true) := by
  intro t
  by_cases h : s.keeper.ready = s.readyCond
  · have ht : t = s := if_pos h
    refine ⟨?_, fun _ => ht, fun h' => absurd h h'⟩
    rw [ht, ← h]
  · have ht : t = ({ s with keeper := { s.keeper with ready := s.readyCond } } : State).raise icReady := if_neg h
    refine ⟨?_, fun h' => absurd h' h, fun _ => ?_⟩
    · rw [ht, (State.raise_frame _ icReady).1]
    · rw [ht]
      exact State.raise_hasCause _ icReady (by decide)

/-- A reset of class 4 to 6 outside start-up takes its class and trigger (R559). -/
theorem State.classTaken_spec {s : State} (h : s.keeper.starting = false) (cls trigger : Nat) : ∃ log cxl outbox,
    s.classTaken cls trigger =
      { s with keeper := { s.keeper with cls := cls, trigger := trigger }, log := log, cxl := cxl, outbox := outbox } := by
  obtain ⟨log, cxl, outbox, he⟩ := ({ s with keeper := { s.keeper with cls := cls, trigger := trigger } } : State).event_parts
    0x0110 1 srcKeeper [cls, trigger, s.uptime]
  refine ⟨log, cxl, outbox, ?_⟩
  unfold State.classTaken
  rw [if_neg (by rw [h]; decide)]
  exact he

/-- A completion of every command of a list. -/
def State.closeAll (s : State) (l : List (Fin 8)) (status : Nat) : State := l.foldl (fun t n => t.complete n status 0 []) s

/-- A command that has completed stays as it is. -/
theorem State.complete_again {s : State} {n : Fin 8} (h : (s.boxes.get n).state = 4) (m : Fin 8) (status : Nat) :
    (s.complete m status 0 []).boxes.get n = s.boxes.get n := by
  by_cases hm : n = m
  · subst hm
    unfold State.complete
    rw [if_neg (by simp [Mailbox.outstanding, h])]
  · exact (s.complete_frame m status 0 []).2 n hm

theorem State.closeAll_frame (l : List (Fin 8)) (status : Nat) : ∀ s : State, ∃ boxes cxl outbox,
    s.closeAll l status = { s with boxes := boxes, cxl := cxl, outbox := outbox } := by
  induction l with
  | nil => exact fun s => ⟨_, _, _, rfl⟩
  | cons m l ih =>
    intro s
    obtain ⟨boxes, cxl, outbox, h⟩ := ih (s.complete m status 0 [])
    exact ⟨boxes, cxl, outbox, h.trans (by rw [(s.complete_frame m status 0 []).1])⟩

/-- Commands outside the list stay. -/
theorem State.closeAll_other {n : Fin 8} (status : Nat) : ∀ (l : List (Fin 8)) (s : State), n ∉ l →
    (s.closeAll l status).boxes.get n = s.boxes.get n
  | [], _, _ => rfl
  | m :: l, s, h => by
    obtain ⟨hm, hl⟩ := not_or.mp (fun h2 => h (List.mem_cons.mpr h2))
    exact (State.closeAll_other status l _ hl).trans ((s.complete_frame m status 0 []).2 n hm)

/-- A command that has completed stays so. -/
theorem State.closeAll_done {n : Fin 8} (status : Nat) (l : List (Fin 8)) : ∀ (s : State), (s.boxes.get n).state = 4 →
    (s.closeAll l status).boxes.get n = s.boxes.get n := by
  induction l with
  | nil => exact fun _ _ => rfl
  | cons m l ih =>
    intro s h
    have hc := State.complete_again h m status
    have hl := ih (s.complete m status 0 []) (by rw [hc]; exact h)
    rw [hc] at hl
    exact hl

/-- Every outstanding command of the list completes with the status. -/
theorem State.closeAll_mem {n : Fin 8} (status : Nat) (l : List (Fin 8)) : ∀ (s : State), n ∈ l → (s.boxes.get n).outstanding = true →
    ((s.closeAll l status).boxes.get n).state = 4 ∧ ((s.closeAll l status).boxes.get n).status = BitVec.ofNat 16 status := by
  induction l with
  | nil => exact fun _ h => nomatch h
  | cons m l ih =>
    intro s h hout
    show (((s.complete m status 0 []).closeAll l status).boxes.get n).state = 4 ∧
      (((s.complete m status 0 []).closeAll l status).boxes.get n).status = BitVec.ofNat 16 status
    by_cases hm : n = m
    · obtain ⟨hst, hstat, -, -⟩ := s.complete_outstanding n status 0 [] hout
      rw [← hm, State.closeAll_done status l _ hst]
      exact ⟨hst, hstat⟩
    · exact ih _ ((List.mem_cons.mp h).resolve_left hm) (by rw [(s.complete_frame m status 0 []).2 n hm]; exact hout)

/-- The control-plane commands taken complete with RESTARTED; what else the restart drops is the firmware's own (R481). -/
theorem State.restartBoxes_spec (s : State) : ∃ caps fw job boxes cxl outbox, s.restartBoxes =
      { s with keeper := { s.keeper with stateReq := s.keeper.stateReq.map fun r => (r.1, none) }
               caps := caps, fw := fw, job := job, boxes := boxes, cxl := cxl, outbox := outbox } ∧
    ∀ n : Fin 8,
      ((s.boxes.get n).controlTaken = true → (boxes.get n).state = 4 ∧ (boxes.get n).status = 0xA) ∧
      ((s.boxes.get n).controlTaken = false → boxes.get n = s.boxes.get n) := by
  obtain ⟨l, hl⟩ : ∃ l, l = (List.finRange 8).filter fun n => (s.boxes.get n).controlTaken := ⟨_, rfl⟩
  obtain ⟨boxes, cxl, outbox, h⟩ := State.closeAll_frame l 0xA s
  have hmem : ∀ n, n ∈ l ↔ (s.boxes.get n).controlTaken = true := fun n => by rw [hl]; simp
  refine ⟨s.restartBoxes.caps, s.restartBoxes.fw, s.restartBoxes.job, boxes, cxl, outbox, ?_, fun n => ⟨fun hn => ?_, fun hn => ?_⟩⟩
  · have hr : s.restartBoxes = { s.closeAll l 0xA with
        caps := s.restartBoxes.caps, fw := s.restartBoxes.fw
        keeper := { (s.closeAll l 0xA).keeper with stateReq := (s.closeAll l 0xA).keeper.stateReq.map fun r => (r.1, none) }
        job := s.restartBoxes.job } := by
      rw [hl]
      rfl
    generalize s.restartBoxes = t at hr ⊢
    rw [hr, h]
  · have hb := State.closeAll_mem (n := n) 0xA l s ((hmem n).mpr hn) (by
      obtain ⟨-, hst⟩ := Bool.and_eq_true_iff.mp hn
      rcases Bool.or_eq_true_iff.mp hst with hst | hst <;> simp [Mailbox.outstanding, beq_iff_eq.mp hst])
    rw [h] at hb
    exact hb
  · have hb := State.closeAll_other (n := n) 0xA l s (fun hm => by rw [(hmem n).mp hm] at hn; cases hn)
    rw [h] at hb
    exact hb

/-- What the Keeper holds while the firmware restarts (R39, R559). -/
def Keeper.restarting (k : Keeper) : Keeper :=
  { k with cls := 6, trigger := 2, stateReq := k.stateReq.map fun r => (r.1, none), fwRestart := true, ctrlReady := false, ready := false }

/-- A firmware restart leaves the step, the data plane and the fabric (R39, R481). -/
theorem State.fwRestart_spec {s : State} (h : s.keeper.starting = false) : ∃ caps fw job boxes log cxl outbox, s.fwRestart =
      { s with keeper := s.keeper.restarting, caps := caps, fw := fw, job := job, boxes := boxes, log := log, cxl := cxl, outbox := outbox } ∧
    ∀ n : Fin 8,
      ((s.boxes.get n).controlTaken = true → (boxes.get n).state = 4 ∧ (boxes.get n).status = 0xA) ∧
      ((s.boxes.get n).controlTaken = false → boxes.get n = s.boxes.get n) := by
  obtain ⟨log, cxl1, outbox1, h1⟩ := State.classTaken_spec h 6 2
  obtain ⟨caps, fw, job, boxes, cxl2, outbox2, h2, hboxes⟩ := (s.classTaken 6 2).restartBoxes_spec
  obtain ⟨u, hu⟩ : ∃ u : State, u =
      { (s.classTaken 6 2).restartBoxes with
        keeper := { (s.classTaken 6 2).restartBoxes.keeper with fwRestart := true, ctrlReady := false } } := ⟨_, rfl⟩
  obtain ⟨h3, -, -⟩ := u.readyUpdate_spec
  have hb : (s.classTaken 6 2).boxes = s.boxes := by rw [h1]
  have hr : s.fwRestart = u.readyUpdate := by
    rw [hu]
    rfl
  refine ⟨caps, fw, job, boxes, log, u.readyUpdate.cxl, u.readyUpdate.outbox, ?_, by rw [hb] at hboxes; exact hboxes⟩
  rw [hr]
  generalize u.readyUpdate = t at h3 ⊢
  rw [h3, hu, h2, h1]
  rfl

/-! ## The resets of class 1 to 3 -/

/-- The Keeper after a warm reset has begun in a state whose record names a step and a slot (R546, R548). -/
def Keeper.warmReset (k : Keeper) (r : StepRecord) (trigger : Nat) (chain : Bool) : Keeper :=
  { k.atReset 3 trigger 4 with
    pstep := r.globalStep, vslot := r.slot, pvalid := true, chainFails := if chain then k.chainFails else 0
    heldRecords := k.heldRecords ++ [(0x0110, 1, [3, trigger, k.uptime.toNat])] }

/-- A warm reset resets the dies, keeps the tiers, and brings the throttle reasons up to date (R546, R548). -/
theorem State.warmReset_frame (s : State) (trigger : Nat) (chain : Bool) : ∃ cxl outbox thr doms, s.warmReset trigger chain =
    { s.diesReset true with
      keeper := s.keeper.warmReset s.record trigger chain, cxl := cxl, outbox := outbox
      sluice := { (s.diesReset true).sluice with thr := thr, doms := doms } } := by
  obtain ⟨u, hu⟩ : ∃ u : State, u = { s with keeper := { s.keeper with
    pstep := s.record.globalStep, vslot := s.record.slot, pvalid := true
    chainFails := if chain then s.keeper.chainFails else 0 } } := ⟨_, rfl⟩
  obtain ⟨cxl, outbox, thr, doms, h⟩ := ((u.resetTaken 3 trigger).diesReset true).throttles_frame
  refine ⟨cxl, outbox, thr, doms, ?_⟩
  unfold State.warmReset
  simp only []
  rw [← hu, h, hu]
  rfl

theorem State.warmReset_keeper (s : State) (trigger : Nat) (chain : Bool) :
    (s.warmReset trigger chain).keeper = s.keeper.warmReset s.record trigger chain := by
  obtain ⟨cxl, outbox, thr, doms, h⟩ := s.warmReset_frame trigger chain
  rw [h]

theorem State.warmReset_tiers (s : State) (trigger : Nat) (chain : Bool) : (s.warmReset trigger chain).tiers = s.tiers := by
  obtain ⟨cxl, outbox, thr, doms, h⟩ := s.warmReset_frame trigger chain
  rw [h]
  rfl

/-- The reset of the dies leaves them at their reset values (R551, R552). -/
theorem State.diesReset_atReset (s : State) (warm : Bool) : Claims.diesAtReset s (s.diesReset warm) := by
  refine ⟨rfl, rfl, rfl, rfl, rfl, rfl, rfl, rfl, fun j => ?_, fun r => ?_, rfl, rfl, rfl, rfl, rfl, rfl, rfl, rfl, rfl⟩
  · have hj : State.reset.jet j = {} := Vector.get_replicate ..
    rw [hj]
    exact Vector.get_map_fin _ _ j
  · have hr : State.reset.runnels.get r = {} := Vector.get_replicate ..
    rw [hr]
    exact (congrArg Runnel.cores (Vector.get_map_fin _ s.runnels r) :)

theorem State.warmReset_atReset (s : State) (trigger : Nat) (chain : Bool) : Claims.diesAtReset s (s.warmReset trigger chain) := by
  obtain ⟨cxl, outbox, thr, doms, h⟩ := s.warmReset_frame trigger chain
  rw [h]
  exact s.diesReset_atReset true

theorem State.mainReset_atReset (s : State) (trigger : Nat) : Claims.diesAtReset s (s.mainReset trigger) := by
  obtain ⟨cxl, outbox, thr, doms, h⟩ := s.mainReset_frame trigger
  rw [h]
  exact s.diesReset_atReset false

theorem State.mainReset_tiers (s : State) (trigger : Nat) : (s.mainReset trigger).tiers = [] := by
  obtain ⟨cxl, outbox, thr, doms, h⟩ := s.mainReset_frame trigger
  rw [h]
  rfl

/-- AUX_POR keeps what is in flash and fuses alone (R547). -/
theorem State.auxReset_atReset (s : State) (trigger : Nat) : Claims.diesAtReset s (s.auxReset trigger) := by
  refine ⟨rfl, rfl, rfl, rfl, rfl, rfl, rfl, rfl, fun j => ?_, fun r => ?_, rfl, rfl, rfl, rfl, rfl, rfl, rfl, rfl, rfl⟩
  · have hj : State.reset.jet j = {} := Vector.get_replicate ..
    rw [hj]
    exact Vector.get_map_fin _ _ j
  · have hr : State.reset.runnels.get r = {} := Vector.get_replicate ..
    rw [hr]
    refine (congrArg Runnel.cores (Vector.get_map_fin _ _ r)).trans ?_
    exact (congrArg Runnel.cores (Vector.get_map_fin _ s.runnels r) :)

/-- Which requests a start-up absorbs, by the step at which it entered (R37, R550). -/
theorem State.absorbs_eq_false {s : State} {cls : Nat}
    (h : ¬(s.keeper.step < 11 ∧ s.keeper.abandoned = false) ∨ cls < s.keeper.startClass) : s.absorbs cls = false := by
  unfold State.absorbs Keeper.starting
  rcases h with h | h
  · rw [show (decide (s.keeper.step < 11) && !s.keeper.abandoned) = false by simpa using h]
    rfl
  · rw [decide_eq_false (by omega : ¬s.keeper.startClass ≤ cls), Bool.and_false]

theorem State.absorbs_eq_true {s : State} {cls : Nat} (h : s.keeper.step < 11) (h' : s.keeper.abandoned = false)
    (hcls : s.keeper.startClass ≤ cls) : s.absorbs cls = true := by
  simp [State.absorbs, Keeper.starting, h, h', hcls]

theorem Keeper.startClass_le (k : Keeper) : k.startClass ≤ 3 := by
  unfold Keeper.startClass
  split_ifs <;> omega

/-- The resets of class 1 to 3. -/
theorem resetsEnterStartup : Claims.ResetsEnterStartup := by
  intro trigger s k enters starting
  have habs : starting → s.absorbs 3 = true := fun h => State.absorbs_eq_true h.1 h.2 (Keeper.startClass_le _)
  refine ⟨⟨_, rfl, ⟨rfl, rfl, rfl, rfl, rfl, rfl, ?_⟩, s.auxReset_atReset 3, rfl, rfl, rfl, rfl⟩, fun h => ?_, fun h h' => ?_, fun h hab hr hdue => ?_,
    fun h => ?_, fun h h' => ?_, fun h h' => ?_⟩
  · exact List.mem_concat_self
  · have hno : s.absorbs 2 = false := by
      refine State.absorbs_eq_false (h.imp id fun ⟨h1, h2⟩ => ?_)
      unfold Keeper.startClass
      rw [if_neg h1, if_neg h2]
      decide
    have hk := s.mainReset_keeper trigger.val
    refine ⟨s.mainReset trigger.val, congrArg Host.Outcome.next (if_neg (by rw [hno]; decide)), ?_, s.mainReset_atReset _,
      s.mainReset_tiers _, ?_⟩
    · show _ ∧ _
      rw [hk]
      exact ⟨rfl, rfl, rfl, rfl, rfl, rfl, List.mem_concat_self⟩
    · rw [hk]
      exact ⟨rfl, rfl, rfl, rfl, rfl⟩
  · refine congrArg Host.Outcome.next (if_pos (State.absorbs_eq_true h.1 h.2 ?_))
    unfold Keeper.startClass
    rcases h' with h' | h'
    · rw [if_pos h']
      decide
    · rw [if_neg (by rw [h']; decide), if_pos h']
  · have hmay : s.warmMay = true := by
      unfold State.warmMay
      rw [hr, hab, State.absorbs_eq_false (.inl h)]
      rfl
    have hk := s.warmReset_keeper trigger.val false
    refine ⟨s.warmReset trigger.val false, congrArg Host.Outcome.next (if_pos ?_), ?_, s.warmReset_atReset _ _, s.warmReset_tiers _ _, ?_⟩
    · rw [hmay, Bool.and_true]
      rcases hdue with ⟨ht, hd⟩ | ⟨ht, hd⟩ | ht
      · rw [ht]; exact hd
      · rw [ht]; exact hd
      · rw [ht]; rfl
    · show _ ∧ _
      rw [hk]
      exact ⟨rfl, rfl, rfl, rfl, rfl, rfl, List.mem_concat_self⟩
    · rw [hk]
      exact ⟨hr, rfl, rfl, rfl, rfl, rfl, rfl⟩
  · refine congrArg Host.Outcome.next (if_neg ?_)
    unfold State.warmMay
    rw [habs h]
    simp
  · exact congrArg Host.Outcome.next (if_pos (by rw [h, h']; rfl))
  · exact congrArg Host.Outcome.next (if_neg (by rw [h, h']; decide))

/-! ## The firmware -/

/-- A restart outside start-up, in a state that differs from `s` in what its firmware has recorded (R38, R39, R547). -/
theorem State.fwRestart_restarted {s u : State} (hstep : s.keeper.step = 11) (hk : u.keeper.step = s.keeper.step)
    (hu : ∃ keeper log cxl outbox, u = { s with keeper := keeper, log := log, cxl := cxl, outbox := outbox }) (n : Fin 8) :
    let t := u.fwRestart
    t.keeper.fwRestart = true ∧ t.keeper.ctrlReady = false ∧
      t.keeper.ready = false ∧ t.keeper.cls = 6 ∧ t.keeper.trigger = 2 ∧ t.record = s.record ∧ t.weir = s.weir ∧ t.jets = s.jets ∧
      t.runnels = s.runnels ∧ t.tiers = s.tiers ∧ t.coll = s.coll ∧
      ((s.boxes.get n).server = 1 → ((s.boxes.get n).state = 2 ∨ (s.boxes.get n).state = 3) →
        (t.boxes.get n).state = 4 ∧ (t.boxes.get n).status = 0xA) ∧
      ((s.boxes.get n).state ≠ 2 → (s.boxes.get n).state ≠ 3 → t.boxes.get n = s.boxes.get n) := by
  obtain ⟨caps, fw, job, boxes, log, cxl, outbox, h, hboxes⟩ := State.fwRestart_spec (s := u) (by
    unfold Keeper.starting
    rw [decide_eq_false (by omega)]
    rfl)
  obtain ⟨keeper', log', cxl', outbox', hu⟩ := hu
  have hb : u.boxes = s.boxes := by rw [hu]
  rw [hb] at hboxes
  obtain ⟨htaken, hkept⟩ := hboxes n
  intro t
  have ht : t = _ := h
  clear_value t
  rw [ht, hu]
  refine ⟨rfl, rfl, rfl, rfl, rfl, rfl, rfl, rfl, rfl, rfl, rfl, fun hs hst => htaken ?_, fun h2 h3 => hkept ?_⟩
  · unfold Mailbox.controlTaken
    rcases hst with hst | hst <;> rw [hs, hst] <;> rfl
  · unfold Mailbox.controlTaken
    rw [beq_false_of_ne h2, beq_false_of_ne h3, Bool.or_self, Bool.and_false]

/-- The firmware's hang outside start-up, with the hangs of the last 60 s (R38). -/
theorem exec_fwHang {s : State} (hrun : s.fwRuns = true) (hstep : s.keeper.step = 11) :
    let l := s.keeper.uptime :: s.keeper.hangs.filter fun h => decide (s.keeper.uptime.toNat ≤ h.toNat + 60000000000)
    let u := s.event 0x0010 2 srcKeeper [l.length]
    exec .fwHang s = .next (if 3 ≤ l.length then
        ({ u with keeper := { s.keeper with hangs := [], preq := s.keeper.preq || s.job.image.isSome } } : State).warmReset 2 false
      else ({ u with keeper := { s.keeper with hangs := l } } : State).fwRestart) := by
  intro l u
  have hk : u.keeper = s.keeper := s.event_keeper ..
  have hj : u.job = s.job := s.event_job ..
  have hexec : exec .fwHang s = .next (if !s.fwRuns then s
    else if u.keeper.starting then u
      else if 3 ≤ l.length then
        ({ u with keeper := { u.keeper with hangs := [], preq := u.keeper.preq || u.job.image.isSome } } : State).warmReset 2 false
      else ({ u with keeper := { u.keeper with hangs := l } } : State).fwRestart) := rfl
  rw [hexec, hrun, hk, hj, if_neg (by decide), if_neg (by simp [Keeper.starting, hstep])]

theorem firmwareRestartsAndResets : Claims.FirmwareRestartsAndResets := by
  intro n s k recent restarted hrun
  refine ⟨congrArg Host.Outcome.next (if_pos hrun), ?_, fun hstep => ⟨?_, fun hrec => ?_, fun hrec => ?_⟩⟩
  · obtain ⟨u, hu⟩ : ∃ u : State, u = { s with keeper := { s.keeper with ctrlReady := true } } := ⟨_, rfl⟩
    obtain ⟨h, hsame, hchange⟩ := u.readyUpdate_spec
    have hready : u.keeper.ready = k.ready := by rw [hu]
    have hcond : u.readyCond = (k.dataReady && decide (k.powerState ≤ 1)) := by
      rw [hu]
      exact congrArg (· && _) (Bool.true_and _)
    have hexec : exec .ctrlReadySet s = .next u.readyUpdate := by
      rw [hu]
      exact congrArg Host.Outcome.next (if_pos hrun)
    rw [hready, hcond] at hsame hchange
    refine ⟨u.readyUpdate, hexec, ?_, fun hr => ?_, hchange⟩
    · rw [hcond] at h
      generalize u.readyUpdate = t at h ⊢
      rw [h, hu]
    · rw [hsame hr, hu]
  · refine ⟨s.fwRestart, congrArg Host.Outcome.next (if_pos ?_), State.fwRestart_restarted hstep rfl ⟨_, _, _, _, rfl⟩ n⟩
    simp [hrun, Keeper.starting, show s.keeper.step = 11 from hstep]
  · obtain ⟨log, cxl, outbox, he⟩ := s.event_parts 0x0010 2 srcKeeper [(s.keeper.uptime :: recent).length]
    obtain ⟨u, hu⟩ : ∃ u : State, u = { s.event 0x0010 2 srcKeeper [(s.keeper.uptime :: recent).length] with
      keeper := { s.keeper with hangs := s.keeper.uptime :: recent } } := ⟨_, rfl⟩
    have hexec : exec .fwHang s = .next u.fwRestart := by
      rw [hu]
      refine (exec_fwHang hrun hstep).trans (congrArg Host.Outcome.next (if_neg ?_))
      show ¬3 ≤ recent.length + 1
      omega
    exact ⟨_, hexec, State.fwRestart_restarted hstep (by rw [hu]) ⟨_, log, cxl, outbox, by rw [hu, he]⟩ n⟩
  · refine ⟨_, (exec_fwHang hrun hstep).trans (congrArg Host.Outcome.next (if_pos ?_)), ?_⟩
    · show 3 ≤ recent.length + 1
      omega
    · rw [State.warmReset_keeper, State.warmReset_tiers]
      simp only [State.event_record, State.event_tiers]
      exact ⟨rfl, rfl, rfl, rfl, rfl, trivial⟩

/-- Settles O48: the firmware's restart, and each reset by what its class keeps. -/
theorem firmwareAndModuleReset : Obligations.FirmwareAndModuleReset := ⟨firmwareRestartsAndResets, resetsEnterStartup⟩

/-! ## The pins -/

/-- PERST# released outside a commanded Dry (R548). -/
theorem exec_perstRelease {s : State} (hp : s.keeper.perst = true) (hdry : s.keeper.commandedDry = false) :
    exec .perstRelease s = .next (if s.keeper.warmHold = true ∧ s.keeper.entryNs.toNat + 1000000 ≤ s.keeper.uptime.toNat then
        { s with keeper := { s.keeper with perst := false, warmHold := false, aclkOn := true, stepNs := s.keeper.uptime } }
      else { s with keeper := { s.keeper with perst := false } }) := by
  have hexec : exec .perstRelease s = .next (if !s.keeper.perst then s
    else if s.keeper.commandedDry then ({ s with keeper := { s.keeper with perst := false } } : State).mainReset 0
      else if s.keeper.warmHold && decide (s.keeper.entryNs.toNat + 10 ^ 6 ≤ s.keeper.uptime.toNat) then
        ({ s with keeper := { s.keeper with perst := false } } : State).endHold
      else { s with keeper := { s.keeper with perst := false } }) := rfl
  rw [hexec, hp, hdry, if_neg (by decide), if_neg (by decide)]
  simp only [Bool.and_eq_true, decide_eq_true_eq]
  rfl

/-- Settles O49: each pin by the reset it asks for, or the level it keeps. -/
theorem pinsAreFollowed : Obligations.PinsAreFollowed := by
  unfold Obligations.PinsAreFollowed
  intro v s k main
  have hmain : ∀ (u : State) (i : Instr), exec i s = .next (u.mainReset 0) → main i u.keeper.pwrEn u.keeper.perst := by
    intro u i hexec
    refine ⟨_, hexec, ?_⟩
    rw [u.mainReset_keeper]
    exact ⟨rfl, rfl, rfl, rfl, rfl⟩
  refine ⟨fun hp hstep hab hr => ?_, fun hp hr => ?_, fun hp hw hps => ⟨fun hn => ?_, fun hn => ?_⟩, fun hps hstep => ⟨fun hp => ?_, fun hp => ?_⟩,
    fun hp hr => ?_, fun hp hr => ?_, fun hp hdry => ?_, fun h => ?_, fun h2 hv hch => ⟨fun hr h5 => ?_, fun hr => ?_⟩, rfl, rfl⟩
  · obtain ⟨u, hu⟩ : ∃ u : State, u = { s with keeper := { s.keeper with perst := true } } := ⟨_, rfl⟩
    have hmay : u.warmMay = true := by
      rw [hu]
      unfold State.warmMay
      rw [State.absorbs_eq_false (.inl fun h => by simp [show s.keeper.step = 11 from hstep] at h)]
      simp [show s.keeper.rails = true from hr, show s.keeper.abandoned = false from hab]
    have hexec : exec .perstAssert s = .next (u.warmReset 0 false) := by
      change execPerstAssert s = _
      unfold execPerstAssert
      simp only []
      rw [← hu, hmay, show s.keeper.perst = false from hp]
      rfl
    refine ⟨_, hexec, ?_⟩
    rw [u.warmReset_keeper, u.warmReset_tiers, hu]
    exact ⟨rfl, rfl, rfl, rfl, rfl, rfl⟩
  · have hmay : State.warmMay { s with keeper := { s.keeper with perst := true } } = false := by
      unfold State.warmMay
      rw [show s.keeper.rails = false from hr]
      rfl
    have hexec : exec .perstAssert s = .next (if s.keeper.perst then s
      else if State.warmMay { s with keeper := { s.keeper with perst := true } } then
        ({ s with keeper := { s.keeper with perst := true } } : State).warmReset 0 false
      else { s with keeper := { s.keeper with perst := true } }) := rfl
    rw [hexec, hmay, show s.keeper.perst = false from hp]
    rfl
  · have hdry : k.commandedDry = false := by simp [Keeper.commandedDry, hps]
    exact (exec_perstRelease hp hdry).trans (congrArg Host.Outcome.next (if_pos ⟨hw, hn⟩))
  · have hdry : k.commandedDry = false := by simp [Keeper.commandedDry, hps]
    exact (exec_perstRelease hp hdry).trans (congrArg Host.Outcome.next (if_neg fun h => absurd h.2 (Nat.not_le.mpr hn)))
  · have hdry : k.commandedDry = true := by simp [Keeper.commandedDry, hps, hstep]
    refine hmain { s with keeper := { s.keeper with perst := false } } _ ?_
    exact congrArg Host.Outcome.next ((if_neg (by rw [show s.keeper.perst = true from hp]; decide)).trans (if_pos hdry))
  · have hdry : k.commandedDry = true := by simp [Keeper.commandedDry, hps, hstep]
    refine hmain { s with keeper := { k with pwrEn := true, tripLatch := if k.tripLatch = 2 then 0 else k.tripLatch } } _ ?_
    exact congrArg Host.Outcome.next ((if_neg (by rw [show s.keeper.pwrEn = false from hp]; decide)).trans (if_pos hdry))
  · obtain ⟨u, hu⟩ : ∃ u : State, u = { s with keeper := { s.keeper with
      pwrEn := false, thermtrip := false, tripLatch := if s.keeper.tripLatch = 1 then 2 else s.keeper.tripLatch } } := ⟨_, rfl⟩
    have hexec : exec .pwrEnDeassert s = .next (u.mainReset 0) := by
      rw [hu]
      exact congrArg Host.Outcome.next ((if_neg (by rw [show s.keeper.pwrEn = true from hp]; decide)).trans (if_pos hr))
    have h := hmain u _ hexec
    refine ⟨by rw [hu] at h; exact h, _, hexec, ?_⟩
    rw [u.mainReset_keeper, hu]
    rfl
  · exact congrArg Host.Outcome.next ((if_neg (by rw [show s.keeper.pwrEn = true from hp]; decide)).trans
      (if_neg (by rw [show s.keeper.rails = false from hr]; decide)))
  · have hdry' : k.commandedDry = false := by simpa [Keeper.commandedDry] using hdry
    exact congrArg Host.Outcome.next ((if_neg (by rw [show s.keeper.pwrEn = false from hp]; decide)).trans
      (if_neg (by rw [show Keeper.commandedDry _ = k.commandedDry from rfl, hdry']; decide)))
  · refine congrArg Host.Outcome.next (if_neg ?_)
    rcases h with h | h | h
    · simp [show ¬2 ≤ s.keeper.step from Nat.not_le.mpr h]
    · simp [show v = s.keeper.slotId from h]
    · simp [show s.keeper.slotChanged = true from h]
  · have hwhole : (decide (2 ≤ s.keeper.step) && v != s.keeper.slotId && !s.keeper.slotChanged) = true := by
      simp [show 2 ≤ s.keeper.step from h2, show v ≠ s.keeper.slotId from hv, show s.keeper.slotChanged = false from hch]
    exact congrArg Host.Outcome.next ((if_pos hwhole).trans (if_pos (Bool.and_eq_true_iff.mpr ⟨hr, decide_eq_true h5⟩)))
  · have hwhole : (decide (2 ≤ s.keeper.step) && v != s.keeper.slotId && !s.keeper.slotChanged) = true := by
      simp [show 2 ≤ s.keeper.step from h2, show v ≠ s.keeper.slotId from hv, show s.keeper.slotChanged = false from hch]
    exact congrArg Host.Outcome.next ((if_pos hwhole).trans (if_neg (by rw [show s.keeper.rails = false from hr]; simp)))

end Sys2Proof.Machine
end

section
/-! Start-up: the boot of the Keeper, the steps in turn, their failure, and the changes of power state (R539 to R546, R551 to R556, R567 to
R577, R591). -/

namespace Sys2Proof.Machine

/-! ## Steps 1 and 2, and failures -/

/-- The image of a slot that the ROM boots: one that passes its checks (R569). -/
def Firmware.bootable (f : Firmware) (b : Bool) : Option SlotImage := if f.slotCheck (f.slot b) false = none then f.slot b else none

theorem Firmware.bootable_eq_some_iff (f : Firmware) (b : Bool) (i : SlotImage) :
    f.bootable b = some i ↔ f.slot b = some i ∧ f.slotCheck (some i) false = none := by
  unfold Firmware.bootable
  constructor
  · intro h
    split at h
    · next hc => exact ⟨h, by rw [← h]; exact hc⟩
    · cases h
  · rintro ⟨hs, hc⟩
    rw [hs, if_pos hc]

theorem Firmware.bootable_eq_none {f : Firmware} {b : Bool} (h : ∀ x, ¬(f.slot b = some x ∧ f.slotCheck (some x) false = none)) :
    f.bootable b = none := by
  cases hb : f.bootable b with
  | none => rfl
  | some x => exact absurd ((f.bootable_eq_some_iff b x).mp hb) (h x)

/-- The Keeper boots from the image that the ROM chooses (R569, R591). -/
theorem exec_keeperBoot {s : State} {i : SlotImage} (h1 : s.keeper.step = 1)
    (h : (s.fw.bootable s.fw.active).orElse (fun _ => s.fw.bootable (!s.fw.active)) = some i) :
    exec .keeperBoot s = .next { s with
      fw := s.fw.bootKeeper i
      keeper := { s.keeper with
        noSlot := false, step := 2, stepNs := s.keeper.uptime, slotId := if s.keeper.cls = 1 then s.keeper.slotPins else s.keeper.slotId
        slotChanged := if s.keeper.cls = 1 then false else s.keeper.slotChanged } } := by
  change execKeeperBoot s = _
  unfold execKeeperBoot
  simp only []
  unfold Firmware.bootable at h
  rw [if_neg (fun hn => hn h1), h]

theorem exec_keeperBoot_none {s : State} (h1 : s.keeper.step = 1)
    (h : (s.fw.bootable s.fw.active).orElse (fun _ => s.fw.bootable (!s.fw.active)) = none) :
    exec .keeperBoot s = .next { s with keeper := { s.keeper with noSlot := true } } := by
  change execKeeperBoot s = _
  unfold execKeeperBoot
  simp only []
  unfold Firmware.bootable at h
  rw [if_neg (fun hn => hn h1), h]

/-- The main rails may rise (R541). -/
theorem exec_mainPowerEnable {s : State} (hstep : s.keeper.step = 2) (hr : s.keeper.rails = false) (hab : s.keeper.abandoned = false)
    (hp : s.keeper.pwrEn = true) (ht : s.keeper.tripLatch = 0) (hsag : s.sluice.sagMain = false) :
    exec .mainPowerEnable s = .next (if s.keeper.leak then
        ({ s with keeper := { s.keeper with rails := true, powerState := 0, stepNs := s.keeper.uptime } } : State).emergencyStop 1
      else { s with keeper := { s.keeper with rails := true, powerState := 0, stepNs := s.keeper.uptime } }) :=
  congrArg Host.Outcome.next (if_pos (by simp [hstep, hr, hab, hp, ht, hsag]))

/-- What a first failure in a chain leaves of the Keeper (R543). -/
theorem State.startupFail_first {s : State} (h : s.keeper.chainFails = 0) (ms : Nat) : let t := s.startupFail ms
    t.keeper.step = 4 ∧ t.keeper.cls = 3 ∧ t.keeper.chainFails = 1 ∧ t.keeper.failStep = s.keeper.step ∧
      (0x0111, 3, [s.keeper.step, ms]) ∈ t.keeper.heldRecords := by
  obtain ⟨u, hu⟩ : ∃ u : State, u = State.holdRecord { s with keeper := { s.keeper with failStep := s.keeper.step } } 0x0111 3
    [s.keeper.step, ms] := ⟨_, rfl⟩
  have ht : s.startupFail ms = { u.warmReset 2 true with keeper := { (u.warmReset 2 true).keeper with chainFails := 1 } } := by
    rw [hu]
    exact if_pos h
  intro t
  have htk : t.keeper = { u.keeper.warmReset u.record 2 true with chainFails := 1 } := by
    show (s.startupFail ms).keeper = _
    rw [ht, ← u.warmReset_keeper]
  rw [htk, hu]
  exact ⟨rfl, rfl, rfl, rfl, List.mem_append_left _ List.mem_concat_self⟩

/-- What a second failure in a chain leaves of the Keeper (R543). -/
theorem State.startupFail_again {s : State} (h : s.keeper.chainFails ≠ 0) (ms : Nat) : let t := s.startupFail ms
    t.keeper.abandoned = true ∧ t.keeper.rails = false ∧ t.keeper.energised = 0 ∧ t.keeper.ready = false ∧
      t.keeper.failStep = s.keeper.step ∧ t.keeper.powerState = 3 ∧ (0x0112, 4, [s.keeper.step]) ∈ t.keeper.heldRecords := by
  obtain ⟨u, hu⟩ : ∃ u : State, u = State.holdRecord { s with keeper := { s.keeper with failStep := s.keeper.step } } 0x0111 3
    [s.keeper.step, ms] := ⟨_, rfl⟩
  have ht : s.startupFail ms = u.abandon := by
    rw [hu]
    exact if_neg h
  intro t
  have ht : t = u.abandon := ht
  rw [ht, hu]
  exact ⟨rfl, rfl, rfl, rfl, rfl, rfl, List.mem_concat_self⟩

theorem startupBootsAndFails : Claims.StartupBootsAndFails := by
  intro i ms s k f ok boots
  have hsome : ∀ b, ok b i → s.fw.bootable b = some i := fun b h => (s.fw.bootable_eq_some_iff b i).mpr h
  refine ⟨fun h1 hok => ?_, fun h1 hno hok => ?_, fun h1 hno => ?_, fun h2 hr hab => ⟨fun hp ht hsag hl => ?_, fun hp ht hsag hl => ?_,
    fun h => ?_⟩, fun hstep => ⟨fun hc => ?_, fun hc => ?_⟩⟩
  · exact ⟨_, exec_keeperBoot h1 (by rw [hsome _ hok]; rfl), rfl, rfl⟩
  · exact ⟨_, exec_keeperBoot h1 (by rw [Firmware.bootable_eq_none hno, hsome _ hok]; rfl), rfl, rfl⟩
  · exact exec_keeperBoot_none h1 (by rw [Firmware.bootable_eq_none (hno _), Firmware.bootable_eq_none (hno _)]; rfl)
  · exact (exec_mainPowerEnable h2 hr hab hp ht hsag).trans (congrArg Host.Outcome.next (if_neg (by
      rw [show s.keeper.leak = false from hl]
      decide)))
  · refine ⟨_, (exec_mainPowerEnable h2 hr hab hp ht hsag).trans (congrArg Host.Outcome.next ((if_pos hl).trans
      (State.emergencyStop_on rfl _))), ?_⟩
    rw [(State.stop_spec _ _ _).1]
    exact ⟨rfl, rfl⟩
  · refine congrArg Host.Outcome.next (if_neg ?_)
    rcases h with h | h | h
    · simp [show s.keeper.pwrEn = false from h]
    · simp [show s.keeper.tripLatch ≠ 0 from h]
    · simp [h]
  · exact ⟨_, congrArg Host.Outcome.next (if_pos hstep), s.startupFail_first hc ms⟩
  · exact ⟨_, congrArg Host.Outcome.next (if_pos hstep), s.startupFail_again hc ms⟩

/-! ## Step 4 -/

/-- What a held record says, and an entry's share of it (R546). -/
def Event.heldPart (x : Event) : Nat × Nat × List Nat := (x.code, x.severity, x.args)

/-- The held records are stored in turn (R546). -/
def State.storeHeld (s : State) (l : List (Nat × Nat × List Nat)) : State := l.foldl (fun t e => t.store e.1 e.2.1 srcKeeper e.2.2) s

theorem State.store_parts (s : State) (code sev src : Nat) (args : List Nat) : ∃ log cxl outbox,
    s.store code sev src args = { s with log := log, cxl := cxl, outbox := outbox } := ⟨_, _, _, s.store_frame code sev src args⟩

theorem State.storeHeld_parts (l : List (Nat × Nat × List Nat)) : ∀ s : State, ∃ log cxl outbox,
    s.storeHeld l = { s with log := log, cxl := cxl, outbox := outbox } := by
  induction l with
  | nil => exact fun s => ⟨s.log, s.cxl, s.outbox, rfl⟩
  | cons e l ih =>
    intro s
    obtain ⟨log, cxl, outbox, h⟩ := ih (s.store e.1 e.2.1 srcKeeper e.2.2)
    obtain ⟨log', cxl', outbox', h'⟩ := s.store_parts e.1 e.2.1 srcKeeper e.2.2
    exact ⟨log, cxl, outbox, h.trans (by rw [h'])⟩

/-- A ring with room for them takes the held records behind what it holds. -/
theorem State.storeHeld_ring (l : List (Nat × Nat × List Nat)) : ∀ s : State, s.log.ring.length + l.length ≤ 4096 →
    (s.storeHeld l).log.ring.map Event.heldPart = s.log.ring.map Event.heldPart ++ l := by
  induction l with
  | nil => exact fun s _ => (List.append_nil _).symm
  | cons e l ih =>
    intro s hroom
    rw [List.length_cons] at hroom
    have hring : (s.store e.1 e.2.1 srcKeeper e.2.2).log.ring = s.log.ring ++ [s.entry e.1 e.2.1 srcKeeper e.2.2] := by
      rw [State.store_log]
      exact pushRing_room (by omega) _
    have h := ih (s.store e.1 e.2.1 srcKeeper e.2.2) (by rw [hring, List.length_append, List.length_singleton]; omega)
    rw [hring, List.map_append, List.append_assoc] at h
    exact h

/-- An event joins the ring, or is left out (R495, R496). -/
theorem State.event_ring {s : State} (hroom : s.log.ring.length < 4096) (code sev src : Nat) (args : List Nat) :
    ∃ l, (s.event code sev src args).log.ring = s.log.ring ++ l := by
  by_cases h : s.log.inMsAt (s.uptime / 1000000) < 256 ∨ 2 ≤ sev
  · refine ⟨[({ s with log := s.log.counted (s.uptime / 1000000) } : State).entry code sev src args], ?_⟩
    rw [State.event_stored h, State.store_log]
    exact pushRing_room (by exact hroom) _
  · refine ⟨[], ?_⟩
    rw [State.event_left_out (by omega) (by omega), List.append_nil]

/-- The firmware of a slot that has booted (R570, R575, R577). -/
def Firmware.booted (f : Firmware) (b : Bool) (i : SlotImage) : Firmware :=
  { f with
    running := b, keyIndex := i.keyIndex.val, trial := false, keeperHash := SlotImage.keeper i, versions := i.versions
    measures := i.measurements, keyPair := some (Config.slhKeyPair f.skSeed f.skPrf f.pkSeed) }

/-- A slot's boot, and what it adds to the ring (R570). -/
theorem State.bootSlot_spec (s : State) (b : Bool) (i : SlotImage) : ∃ log cxl outbox,
    s.bootSlot b false i = { s with fw := s.fw.booted b i, log := log, cxl := cxl, outbox := outbox } ∧
      (s.log.ring.length < 4096 → ∃ l, log.ring = s.log.ring ++ l) := by
  by_cases h : s.fw.keeperHash = SlotImage.keeper i
  · refine ⟨s.log, s.cxl, s.outbox, ?_, fun _ => ⟨[], (List.append_nil _).symm⟩⟩
    unfold State.bootSlot
    simp only []
    rw [if_pos h]
    rfl
  · obtain ⟨log, cxl, outbox, he⟩ := s.event_parts 0x0207 1 srcKeeper [s.fw.versions.1.toNat, i.versions.1.toNat]
    refine ⟨log, cxl, outbox, ?_, fun hroom => ?_⟩
    · unfold State.bootSlot
      simp only []
      rw [if_neg h, he]
      rfl
    · obtain ⟨l, hl⟩ := State.event_ring hroom 0x0207 1 srcKeeper [s.fw.versions.1.toNat, i.versions.1.toNat]
      rw [he] at hl
      exact ⟨l, hl⟩

theorem State.chooseSlot_active {s : State} (h : s.fw.pend = none) : s.chooseSlot = (s.fw.active, false, s) := by
  unfold State.chooseSlot
  simp only []
  rw [h]

/-- Step 4 with no slot pending and an active slot that passes its checks (R546, R556, R570). -/
theorem State.bootFirmware_spec {s : State} {i : SlotImage} (hpend : s.fw.pend = none) (hslot : s.fw.slot s.fw.active = some i)
    (hcheck : s.fw.slotCheck (some i) true = none) : ∃ log cxl outbox, s.bootFirmware = ({ s with
        keeper := { s.keeper with boot := satInc s.keeper.boot, heldRecords := [] }
        fw := s.fw.booted s.fw.active i, log := log, cxl := cxl, outbox := outbox }, true) ∧
      (s.log.ring = [] → s.keeper.heldRecords.length < 4096 →
        (log.ring.take s.keeper.heldRecords.length).map Event.heldPart = s.keeper.heldRecords) := by
  obtain ⟨u, hu⟩ : ∃ u : State, u = { s with keeper := { s.keeper with boot := satInc s.keeper.boot, heldRecords := [] } } := ⟨_, rfl⟩
  obtain ⟨log', cxl', outbox', hv⟩ := State.storeHeld_parts s.keeper.heldRecords u
  have hring := State.storeHeld_ring s.keeper.heldRecords u
  obtain ⟨v, hveq⟩ : ∃ v, v = u.storeHeld s.keeper.heldRecords := ⟨_, rfl⟩
  rw [← hveq] at hv hring
  obtain ⟨log, cxl, outbox, hb, hlog⟩ := v.bootSlot_spec s.fw.active i
  have hfw : v.fw = s.fw := by rw [hv, hu]
  refine ⟨log, cxl, outbox, ?_, fun hempty hlen => ?_⟩
  · have hboot : s.bootFirmware = (v.bootSlot s.fw.active false i, true) := by
      have hchoose : v.chooseSlot = (s.fw.active, false, v) := by
        rw [State.chooseSlot_active (by rw [hfw]; exact hpend), hfw]
      unfold State.bootFirmware
      simp only []
      rw [← hu, show s.keeper.heldRecords.foldl (fun (t : State) e => t.store e.1 e.2.1 srcKeeper e.2.2) u = v from hveq.symm, hchoose]
      simp only []
      rw [hfw, hslot, hcheck]
    rw [hboot, hb, hfw, hv, hu]
  · have hu0 : u.log.ring = [] := by rw [hu]; exact hempty
    have hv' := hring (by rw [hu0, List.length_nil]; omega)
    rw [hu0, List.map_nil, List.nil_append] at hv'
    have hlen' : v.log.ring.length = s.keeper.heldRecords.length := by
      rw [← hv', List.length_map]
    obtain ⟨l, hl⟩ := hlog (by omega)
    rw [hl, ← hlen', List.take_left, hv']

/-! ## The steps in turn -/

/-- Each step of start-up, by its number (R539). -/
theorem State.stepDone_two {s : State} (h : s.keeper.step = 2) (rep : StepReport) : s.stepDone rep = s.toStep 3 := by
  unfold State.stepDone
  rw [h]
  rfl

theorem State.stepDone_three {s : State} (h : s.keeper.step = 3) (rep : StepReport) :
    s.stepDone rep = ({ s with keeper := { s.keeper with aclkOn := true } } : State).toStep 4 := by
  unfold State.stepDone
  rw [h]
  rfl

theorem State.stepDone_four {s : State} (h : s.keeper.step = 4) (hboot : s.bootFirmware.2 = true) (rep : StepReport) :
    s.stepDone rep = s.bootFirmware.1.toStep 5 := by
  unfold State.stepDone
  rw [h]
  exact if_pos hboot

theorem State.stepDone_five {s : State} (h : s.keeper.step = 5) {rep : StepReport} (hrep : rep.failedUnits = []) :
    s.stepDone rep = s.toStep 6 := by
  unfold State.stepDone
  rw [h]
  rw [hrep]
  rfl

theorem State.stepDone_six {s : State} (h : s.keeper.step = 6) {rep : StepReport} (hrep : rep.failedUnits = []) :
    s.stepDone rep = s.toStep 7 := by
  unfold State.stepDone
  rw [h]
  rw [hrep]
  rfl

theorem State.stepDone_seven {s : State} (h : s.keeper.step = 7) {rep : StepReport} (hrep : rep.failedPorts = []) :
    s.stepDone rep = ({ s with sluice := { s.sluice with planDue := true, planned := [] } } : State).toStep 8 := by
  unfold State.stepDone
  rw [h]
  rw [hrep]
  rfl

theorem State.stepDone_eight {s : State} (h : s.keeper.step = 8) (rep : StepReport) : s.stepDone rep = s.toStep 9 := by
  unfold State.stepDone
  rw [h]
  rfl

theorem State.stepDone_nine {s : State} (h : s.keeper.step = 9) (rep : StepReport) : s.stepDone rep = s.memoryInit.toStep 10 := by
  unfold State.stepDone
  rw [h]
  rfl

theorem State.stepDone_ten {s : State} (h : s.keeper.step = 10) (rep : StepReport) :
    s.stepDone rep = ((s.selfTest rep.arrayPass).toStep 11).startupDone := by
  unfold State.stepDone
  rw [h]
  rfl

/-- Step 10 clears the stores and takes the arrays' results (R116, R539). -/
theorem State.selfTest_spec (s : State) (pass : Tbl Byte) : ∃ jets runnels caps,
    s.selfTest pass = { s with jets := jets, runnels := runnels, caps := caps } ∧
      ∀ j : Fin 160, jets.get j = { s.jet j with core := { (s.jet j).core with store := [] }, test := pass.get 0xFF j.val } := by
  obtain ⟨t, ht⟩ : ∃ t : State, t = { s with
    jets := Vector.ofFn fun j =>
      { s.jet j with core := { (s.jet j).core with store := [] }, test := pass.get 0xFF j.val }
    runnels := s.runnels.map fun r => { r with cores := r.cores.map fun k => { k with store := [] } } } := ⟨_, rfl⟩
  have hjets : ∀ j : Fin 160, t.jets.get j = { s.jet j with core := { (s.jet j).core with store := [] }, test := pass.get 0xFF j.val } := by
    intro j
    rw [ht]
    exact Vector.getElem_ofFn ..
  have hself : s.selfTest pass = if ((List.finRange 160).map fun j => (t.jet j).arrayMask) = (List.finRange 160).map fun j => (s.jet j).arrayMask
      then t else t.capChange := by
    rw [ht]
    rfl
  obtain ⟨runnels, caps, hframe⟩ : ∃ runnels caps, s.selfTest pass = { s with jets := t.jets, runnels := runnels, caps := caps } := by
    rw [hself]
    split
    · exact ⟨t.runnels, t.caps, by rw [ht]⟩
    · exact ⟨t.runnels, t.capChange.caps, by rw [ht]; rfl⟩
  exact ⟨t.jets, runnels, caps, hframe, hjets⟩

/-- Start-up's end where no trial is activated (R36, R542, R574). -/
theorem State.startupDone_spec {s : State} (h : s.fw.trial = false ∨ (!s.keeper.memFatal && !s.keeper.exhausted) = false) :
    let ok := !s.keeper.memFatal && !s.keeper.exhausted
    ∃ log cxl outbox, s.startupDone = { s with
      keeper := { s.keeper with
        dataReady := ok, ctrlReady := s.keeper.ctrlReady || ok, powerState := 0, ready := (s.keeper.ctrlReady || ok) && ok }
      log := log, cxl := cxl, outbox := outbox } := by
  intro ok
  obtain ⟨u, hu⟩ : ∃ u : State, u = { s with keeper := { s.keeper with
    dataReady := ok, ctrlReady := s.keeper.ctrlReady || ok, powerState := 0 } } := ⟨_, rfl⟩
  have hact : (if ok then u.activate else u) = u := by
    rcases h with h | h
    · rw [show u.activate = u by
        unfold State.activate
        simp only []
        rw [show u.fw.trial = false by rw [hu]; exact h], ite_self]
    · rw [show ok = false from h]
      rfl
  obtain ⟨args, hargs⟩ : ∃ args, args = [(u.uptime - s.keeper.entryNs.toNat) / 1000000, s.keeper.entry] := ⟨_, rfl⟩
  obtain ⟨log, cxl, outbox, he⟩ := u.event_parts 0x0115 0 srcKeeper args
  obtain ⟨hr, -, -⟩ := (u.event 0x0115 0 srcKeeper args).readyUpdate_spec
  have hdone : s.startupDone = (u.event 0x0115 0 srcKeeper args).readyUpdate := by
    unfold State.startupDone
    simp only []
    rw [← hu, hact, ← hargs]
  refine ⟨log, (u.event 0x0115 0 srcKeeper args).readyUpdate.cxl, (u.event 0x0115 0 srcKeeper args).readyUpdate.outbox, ?_⟩
  rw [hdone]
  generalize (u.event 0x0115 0 srcKeeper args).readyUpdate = t at hr ⊢
  rw [hr, he, hu]
  simp [State.readyCond]

/-- Outside a trial, the next step begins and nothing else changes (R539). -/
theorem State.toStep_eq {s : State} (h : s.fw.trial = false) (n : Nat) :
    s.toStep n = { s with keeper := { s.keeper with step := n, stepNs := s.keeper.uptime } } := by
  unfold State.toStep
  rw [h]
  rfl

/-- Step 9 with what a warm reset preserved (R544 to R546). -/
theorem State.memoryInit_preserved {s : State} (hq : s.keeper.preq = true) (he : s.keeper.entry = 4) : ∃ log cxl outbox, s.memoryInit = { s with
    keeper := { s.keeper with pused := true, preq := false }
    record := { s.record with globalStep := s.keeper.pstep, slot := s.keeper.vslot, phase := 0 }
    log := log, cxl := cxl, outbox := outbox } := by
  obtain ⟨u, hu⟩ : ∃ u : State, u = { s with
    keeper := { s.keeper with pused := true, preq := false }
    record := { s.record with globalStep := s.keeper.pstep, slot := s.keeper.vslot, phase := 0 } } := ⟨_, rfl⟩
  obtain ⟨log, cxl, outbox, hev⟩ := u.event_parts 0x0113 1 srcKeeper [s.keeper.pstep.toNat, slotNo s.keeper.vslot]
  refine ⟨log, cxl, outbox, ?_⟩
  unfold State.memoryInit
  simp only []
  rw [if_pos (by rw [hq, he]; rfl), ← hu, hev, hu]

theorem State.memoryInit_cleared {s : State} (h : s.keeper.preq = false ∨ s.keeper.entry ≠ 4) :
    s.memoryInit = { s with keeper := { s.keeper with pused := false }, tiers := [] } := by
  unfold State.memoryInit
  refine if_neg ?_
  rcases h with h | h <;> simp [h]

/-- The end of step 10 where no trial is activated (R36, R542). -/
theorem State.stepDone_last {s : State} (h : s.keeper.step = 10)
    (ht : s.fw.trial = false ∨ (!s.keeper.memFatal && !s.keeper.exhausted) = false) (rep : StepReport) :
    let ok := !s.keeper.memFatal && !s.keeper.exhausted
    ∃ jets runnels caps log cxl outbox, s.stepDone rep = { s with
      keeper := { s.keeper with
        step := 11, stepNs := s.keeper.uptime, dataReady := ok, ctrlReady := s.keeper.ctrlReady || ok, powerState := 0
        ready := (s.keeper.ctrlReady || ok) && ok }
      fw := (s.toStep 11).fw, jets := jets, runnels := runnels, caps := caps, log := log, cxl := cxl, outbox := outbox } ∧
      ∀ j : Fin 160, jets.get j = { s.jet j with core := { (s.jet j).core with store := [] }, test := rep.arrayPass.get 0xFF j.val } := by
  intro ok
  obtain ⟨jets, runnels, caps, hself, hjets⟩ := s.selfTest_spec rep.arrayPass
  obtain ⟨u, hu⟩ : ∃ u : State, u = { s with
    keeper := { s.keeper with step := 11, stepNs := s.keeper.uptime }
    fw := (s.toStep 11).fw, jets := jets, runnels := runnels, caps := caps } := ⟨_, rfl⟩
  have htrial : (s.toStep 11).fw.trial = s.fw.trial := by
    unfold State.toStep
    simp only []
    split <;> rfl
  obtain ⟨log, cxl, outbox, hdone⟩ := State.startupDone_spec (s := u) (by rw [hu]; exact htrial ▸ ht)
  refine ⟨jets, runnels, caps, log, cxl, outbox, ?_, hjets⟩
  rw [State.stepDone_ten h, hself, show State.toStep { s with jets := jets, runnels := runnels, caps := caps } 11 = u by rw [hu]; rfl, hdone, hu]

theorem startupStepsCompleteInTurn : Claims.StartupStepsCompleteInTurn := by
  intro rep i s hs hr k f next
  have hexec : ∀ t : State, s.stepDone rep = t → exec (.startupStepAdvance rep) s = .next t := fun t ht =>
    congrArg Host.Outcome.next ((if_pos (by rw [hs, hr]; rfl)).trans ht)
  refine ⟨fun h => ?_, fun h => ?_, fun h hpend hslot hcheck => ?_, fun h hu => ?_, fun h hp => ?_, fun h => ⟨fun hq he => ?_, fun hq => ?_⟩,
    fun h hm hx ht => ?_, fun h hm => ?_⟩
  · rcases h with h | h
    · rw [h]
      exact ⟨_, ⟨hexec _ (State.stepDone_two h rep), rfl, rfl⟩, rfl, rfl⟩
    · rw [h]
      exact ⟨_, ⟨hexec _ (State.stepDone_eight h rep), rfl, rfl⟩, rfl, rfl⟩
  · exact ⟨_, ⟨hexec _ (State.stepDone_three h rep), rfl, rfl⟩, rfl⟩
  · obtain ⟨log, cxl, outbox, hboot, hring⟩ := State.bootFirmware_spec hpend hslot hcheck
    have hdone := State.stepDone_four h (by rw [hboot]) rep
    rw [hboot, State.toStep_eq rfl] at hdone
    exact ⟨_, ⟨hexec _ hdone, rfl, rfl⟩, rfl, rfl, rfl, rfl, rfl, rfl, rfl, rfl, hring⟩
  · rcases h with h | h
    · rw [h]
      exact ⟨_, ⟨hexec _ (State.stepDone_five h hu), rfl, rfl⟩, rfl, rfl⟩
    · rw [h]
      exact ⟨_, ⟨hexec _ (State.stepDone_six h hu), rfl, rfl⟩, rfl, rfl⟩
  · exact ⟨_, ⟨hexec _ (State.stepDone_seven h hp), rfl, rfl⟩, rfl, rfl, rfl⟩
  · obtain ⟨log, cxl, outbox, hinit⟩ := State.memoryInit_preserved (s := s) hq he
    have hdone := State.stepDone_nine h rep
    rw [hinit] at hdone
    exact ⟨_, ⟨hexec _ hdone, rfl, rfl⟩, rfl, rfl, rfl, rfl, rfl⟩
  · have hdone := State.stepDone_nine h rep
    rw [State.memoryInit_cleared hq] at hdone
    exact ⟨_, ⟨hexec _ hdone, rfl, rfl⟩, rfl, rfl⟩
  · have hok : (!s.keeper.memFatal && !s.keeper.exhausted) = true := by
      rw [show s.keeper.memFatal = false from hm, show s.keeper.exhausted = false from hx]
      rfl
    obtain ⟨jets, runnels, caps, log, cxl, outbox, hdone, hjets⟩ := State.stepDone_last h (.inl ht) rep
    rw [hok] at hdone
    refine ⟨_, ⟨hexec _ hdone, rfl, rfl⟩, rfl, rfl, Bool.or_true _, ?_, fun j => ?_, fun j => ?_, (congrArg State.fw (State.toStep_eq ht 11) :)⟩
    · exact (Bool.and_true _).trans (Bool.or_true _)
    · exact congrArg (fun x : Jet => x.core.store) (hjets j)
    · exact congrArg Jet.test (hjets j)
  · have hok : (!s.keeper.memFatal && !s.keeper.exhausted) = false := by
      rcases hm with hm | hm
      · rw [show s.keeper.memFatal = true from hm]
        rfl
      · rw [show s.keeper.exhausted = true from hm, Bool.not_true, Bool.and_false]
    obtain ⟨jets, runnels, caps, log, cxl, outbox, hdone, -⟩ := State.stepDone_last h (.inr hok) rep
    rw [hok] at hdone
    exact ⟨_, ⟨hexec _ hdone, rfl, rfl⟩, rfl, Bool.and_false _⟩

/-! ## Power states -/

/-- What entry into Still gates (R551 to R553). -/
theorem State.gateBasins_spec (s : State) : ∃ jets basins doms,
    s.gateBasins = { s with jets := jets, basins := basins, sluice := { s.sluice with doms := doms } } ∧
      ∀ j : Fin 160, (jets.get j).core.store = [] := by
  refine ⟨_, _, _, rfl, fun j => ?_⟩
  rw [Vector.get_map_fin]

/-- A change of power state of the running module that is recorded and then READY follows (R36, R553). -/
def State.powerTold (s : State) (st : Nat) : State :=
  ((({ s with keeper := { s.keeper with stateReq := none, powerState := st } } : State).event 0x0114 0 srcKeeper
    [s.keeper.powerState, st]).throttles).readyUpdate

theorem State.powerTold_spec (s : State) (st : Nat) : ∃ log cxl outbox sluice, s.powerTold st = { s with
    keeper := { s.keeper with
      stateReq := none, powerState := st, ready := s.keeper.ctrlReady && s.keeper.dataReady && decide (st ≤ 1) }
    log := log, cxl := cxl, outbox := outbox, sluice := sluice } := by
  obtain ⟨u, hu⟩ : ∃ u : State, u = { s with keeper := { s.keeper with stateReq := none, powerState := st } } := ⟨_, rfl⟩
  obtain ⟨log, cxl1, outbox1, he⟩ := u.event_parts 0x0114 0 srcKeeper [s.keeper.powerState, st]
  obtain ⟨cxl2, outbox2, thr, doms, ht⟩ := (u.event 0x0114 0 srcKeeper [s.keeper.powerState, st]).throttles_frame
  obtain ⟨v, hv⟩ : ∃ v, v = (u.event 0x0114 0 srcKeeper [s.keeper.powerState, st]).throttles := ⟨_, rfl⟩
  obtain ⟨hr, -, -⟩ := v.readyUpdate_spec
  have htold : s.powerTold st = v.readyUpdate := by
    rw [hv, hu]
    rfl
  have hv' := hv.trans ht
  rw [he, hu] at hv'
  refine ⟨log, v.readyUpdate.cxl, v.readyUpdate.outbox, v.sluice, ?_⟩
  rw [htold]
  generalize v.readyUpdate = t at hr ⊢
  rw [hr, hv']
  rfl

/-- The change to a state that keeps the rails up (R553, R554). -/
theorem exec_powerStateChangeDone {s : State} {st : Nat} {n : Fin 8} (hstep : s.keeper.step = 11) (hr : s.keeper.rails = true)
    (hreq : s.keeper.stateReq = some (st, some n.val)) (hst : st ≤ 2) :
    exec .powerStateChangeDone s = .next (((if st = 2 then s.gateBasins else s).powerTold st).complete n 0 0 [BitVec.ofNat 8 st]) := by
  have hk : (if st = 2 then s.gateBasins else s).keeper = s.keeper := by split <;> rfl
  change execPowerStateChangeDone s = _
  unfold execPowerStateChangeDone State.powerTold
  simp only []
  rw [hreq, hk]
  simp only []
  rw [if_neg (by simp [hstep, hr]), if_neg (by omega), hk]
  exact congrArg Host.Outcome.next (dif_pos n.isLt)

theorem powerStateChangesComplete : Claims.PowerStateChangesComplete := by
  intro st n s k hstep hr
  refine ⟨fun hreq hst hout => ?_, fun hreq => ?_, fun hreq => ?_⟩
  · obtain ⟨jets, basins, doms, hu, hgated, hkept⟩ : ∃ jets basins doms, (if st = 2 then s.gateBasins else s) =
        { s with jets := jets, basins := basins, sluice := { s.sluice with doms := doms } } ∧
        (st = 2 → ∀ j : Fin 160, (jets.get j).core.store = []) ∧ (st ≠ 2 → jets = s.jets) := by
      by_cases h2 : st = 2
      · obtain ⟨jets, basins, doms, h, hj⟩ := s.gateBasins_spec
        exact ⟨jets, basins, doms, (if_pos h2).trans h, fun _ => hj, fun h => absurd h2 h⟩
      · exact ⟨_, _, _, if_neg h2, fun h => absurd h h2, fun _ => rfl⟩
    obtain ⟨u, hueq⟩ : ∃ u, u = if st = 2 then s.gateBasins else s := ⟨_, rfl⟩
    rw [← hueq] at hu
    obtain ⟨log, cxl, outbox, sluice, htold⟩ := u.powerTold_spec st
    have hout' : (((u.powerTold st).boxes.get n).outstanding) = true := by rw [htold, hu]; exact hout
    obtain ⟨hstate, hstatus, -, -⟩ := (u.powerTold st).complete_outstanding n 0 0 [BitVec.ofNat 8 st] hout'
    refine ⟨_, (exec_powerStateChangeDone hstep hr hreq hst).trans (by rw [← hueq]), ?_⟩
    refine ⟨?_, ?_, ?_, ?_, ?_, hstate, hstatus, fun h j => ?_, fun h => ?_⟩
    · rw [State.complete_keeper, htold]
    · rw [State.complete_keeper, htold]
    · rw [State.complete_tiers, htold, hu]
    · rw [State.complete_runnels, htold, hu]
    · rw [State.complete_keeper, htold, hu]
    · unfold State.jet
      rw [State.complete_jets, htold, hu]
      exact hgated h j
    · rw [State.complete_jets, htold, hu]
      exact hkept h
  · obtain ⟨u, hu⟩ : ∃ u, u = (s.holdRecord 0x0114 0 [s.keeper.powerState, 3]).diesReset false := ⟨_, rfl⟩
    obtain ⟨cxl, outbox, thr, doms, h⟩ := u.throttles_frame
    have hexec : exec .powerStateChangeDone s = .next { u.throttles with keeper := { u.throttles.keeper with
        stateReq := none, powerState := 3, rails := false, aclkOn := false, energised := 0, fwAlive := false, ctrlReady := false
        dataReady := false, ready := false, fwRestart := false, warmPending := false } } := by
      change execPowerStateChangeDone s = _
      unfold execPowerStateChangeDone
      simp only []
      rw [show s.keeper.stateReq = some (3, none) from hreq]
      simp only []
      rw [if_neg (by simp [show s.keeper.step = 11 from hstep, show s.keeper.rails = true from hr]), if_pos trivial, ← hu]
    rw [h, hu] at hexec
    exact ⟨_, hexec, rfl, rfl, rfl, rfl, rfl, rfl⟩
  · change execPowerStateChangeDone s = _
    unfold execPowerStateChangeDone
    simp only []
    rw [show s.keeper.stateReq = none from hreq]

/-- Settles O50: the boot of the Keeper, each step of start-up and each change of power state by the state it leaves. -/
theorem startupRunsItsSteps : Obligations.StartupRunsItsSteps :=
  ⟨startupBootsAndFails, startupStepsCompleteInTurn, powerStateChangesComplete⟩

end Sys2Proof.Machine
end

section
/-! The sideband: addresses, messages, and the answers to MCTP control and PLDM requests (R594 to R597). -/

namespace Sys2Proof.Machine

/-! ## Answers -/

/-- A request of a kind that waits is answered to the source of the one that has waited longest (R595). -/
theorem State.sideAnswer_waiting {s : State} {q : SideReq} {src : Byte} {m : List Byte} (h : s.waiting q = some (src, m))
    (what : String) (args : List Int) : s.sideAnswer q what args =
      { s with keeper := { s.keeper with requests := s.keeper.requests.erase (src, m) }, outbox := s.outbox ++ [.mctp src.toNat what args] } := by
  unfold State.sideAnswer
  rw [h]
  rfl

/-- The type that the request in turn names (R595). -/
theorem State.askedType_waiting {s : State} {q : SideReq} {src : Byte} {m : List Byte} (h : s.waiting q = some (src, m)) (o : Nat) :
    s.askedType q o = (m.getD o 0).toNat := by
  unfold State.askedType
  rw [h]
  rfl

/-- The endpoint ID does not change which requests wait. -/
theorem State.waiting_eid {s : State} {q : SideReq} {src : Byte} {m : List Byte} (h : s.waiting q = some (src, m)) (eid : Byte) :
    State.waiting { s with keeper := { s.keeper with eid := eid } } q = some (src, m) := h

/-- ENTDAA gives an address to a target without one (R594). -/
theorem exec_entdaa (addr : BitVec 7) (s : State) : exec (.entdaa addr) s = .next { s with keeper := { s.keeper with
    dynAddr := if s.keeper.dynAddr.isNone then some addr else s.keeper.dynAddr } } := by
  by_cases h : s.keeper.dynAddr.isNone = true
  · exact congrArg Host.Outcome.next ((if_pos h).trans (by rw [if_pos h]))
  · exact congrArg Host.Outcome.next ((if_neg h).trans (by rw [if_neg h]))

theorem controlRequestsWaiting_answered : Claims.ControlRequestsAreAnswered := by
  intro eid src m addr s k waits answered
  refine ⟨rfl, ?_, fun h => ⟨fun h0 hf => ?_, fun h0 => ?_⟩, fun h => ?_, fun h => ⟨Config.sidebandVersion 256, ?_⟩, fun h => ?_⟩
  · exact exec_entdaa addr s
  · exact congrArg Host.Outcome.next ((if_neg (not_or.mpr ⟨h0, hf⟩)).trans (State.sideAnswer_waiting (State.waiting_eid h eid) _ _))
  · exact congrArg Host.Outcome.next ((if_pos h0).trans (State.sideAnswer_waiting h _ _))
  · exact congrArg Host.Outcome.next (State.sideAnswer_waiting h _ _)
  · exact congrArg Host.Outcome.next (State.sideAnswer_waiting h _ _)
  · exact congrArg Host.Outcome.next (State.sideAnswer_waiting h _ _)

/-- A numeric sensor's reading is that of the telemetry mirror, where its die has power (R463, R597). -/
theorem State.pldmReading_powered {s : State} {id : Nat} (h1 : 1 ≤ id) (h14 : id ≤ 14) (h : s.keeper.rails = true ∨ 9 ≤ id) :
    s.pldmReading id = some (s.keeper.readings.get 0 id) := by
  refine if_neg ?_
  rintro (h' | h' | ⟨h8, hr⟩)
  · omega
  · omega
  · rcases h with h | h
    · rw [h] at hr
      cases hr
    · omega

theorem State.pldmReading_unpowered {s : State} {id : Nat} (h8 : id ≤ 8) (h : s.keeper.rails = false) : s.pldmReading id = none :=
  if_pos (.inr (.inr ⟨h8, h⟩))

/-- The operational state of a sensor that works, by whether it reads (R597, R600). -/
theorem State.pldmState_working {s : State} {id : Nat} (h : s.pldmFailed id = false) :
    s.pldmState id = if (s.pldmReading id).isNone then 2 else 0 := if_neg (by rw [h]; decide)

/-- What GetSensorReading answers (R597). -/
theorem exec_getsensorreading_some {s : State} {id : W16} (h1 : 1 ≤ id.toNat) (h14 : id.toNat ≤ 14) {v : Int}
    (hr : s.pldmReading id.toNat = some v) : exec (.getsensorreading id) s = .next (s.sideAnswer .sensorReading "GetSensorReading"
      [0, s.pldmState id.toNat, s.pldmPresent id.toNat v, v]) := by
  change execGetsensorreading id s = _
  unfold execGetsensorreading
  simp only []
  rw [if_neg (by omega), hr]

theorem exec_getsensorreading_none {s : State} {id : W16} (h1 : 1 ≤ id.toNat) (h14 : id.toNat ≤ 14)
    (hr : s.pldmReading id.toNat = none) : exec (.getsensorreading id) s = .next (s.sideAnswer .sensorReading "GetSensorReading"
      [0, s.pldmState id.toNat, 0]) := by
  change execGetsensorreading id s = _
  unfold execGetsensorreading
  simp only []
  rw [if_neg (by omega), hr]

/-- Settles O52: each request that waits, by the arguments of its answer. -/
theorem pldmRequestsAreAnswered : Obligations.PldmRequestsAreAnswered := by
  unfold Obligations.PldmRequestsAreAnswered
  intro src m id handle s k waits answered type
  refine ⟨fun h => ⟨_, congrArg Host.Outcome.next (State.sideAnswer_waiting h _ _)⟩, fun h => ⟨fun ht => ⟨Config.sidebandVersion (type 9), ?_⟩, fun h0 h2 => ?_⟩,
    fun h => congrArg Host.Outcome.next (State.sideAnswer_waiting h _ _), fun h => ⟨fun ht => ?_, fun ht => ?_⟩,
    fun h => ⟨fun h1 h14 hp hf => ⟨s.pldmPresent id.toNat (k.readings.get 0 id.toNat), ?_⟩, fun h1 h8 hr hf => ?_, fun hid => ?_⟩,
    fun h => congrArg Host.Outcome.next (State.sideAnswer_waiting h _ _), fun h => ⟨fun hh => ?_, fun hh => ?_⟩⟩
  · have ht' : s.askedType .pldmVersion 9 = type 9 := State.askedType_waiting h 9
    rw [← ht'] at ht ⊢
    exact congrArg Host.Outcome.next ((if_pos ht).trans (State.sideAnswer_waiting h _ _))
  · exact congrArg Host.Outcome.next ((if_neg (by rw [State.askedType_waiting h]; exact not_or.mpr ⟨h0, h2⟩)).trans
      (State.sideAnswer_waiting h _ _))
  · exact congrArg Host.Outcome.next ((if_pos (by rw [State.askedType_waiting h]; exact ht)).trans (State.sideAnswer_waiting h _ _))
  · have ht' : s.askedType .pldmCommands 4 = 2 := (State.askedType_waiting h 4).trans ht
    exact congrArg Host.Outcome.next ((if_neg (by rw [ht']; decide)).trans ((if_pos ht').trans (State.sideAnswer_waiting h _ _)))
  · have hr := State.pldmReading_powered h1 h14 hp
    rw [exec_getsensorreading_some h1 h14 hr, State.sideAnswer_waiting h, State.pldmState_working hf, hr]
    rfl
  · have hr := State.pldmReading_unpowered h8 hr
    rw [exec_getsensorreading_none h1 (by omega) hr, State.sideAnswer_waiting h, State.pldmState_working hf, hr]
    rfl
  · refine congrArg Host.Outcome.next ((if_pos ?_).trans (State.sideAnswer_waiting h _ _))
    rcases hid with hid | hid
    · rw [hid]
      decide
    · exact .inr hid
  · subst hh
    exact congrArg Host.Outcome.next (State.sideAnswer_waiting h _ _)
  · have hne : handle ≠ 0 := fun h0 => by rw [h0] at hh; exact absurd hh (by decide)
    refine congrArg Host.Outcome.next ((if_pos ?_).trans (State.sideAnswer_waiting h _ _))
    rw [if_neg hne]
    exact hh

/-! ## Messages -/

/-- A packet that joins the message of its source in turn (R594, R596). -/
theorem exec_mctpPacket_next {s : State} {src : Byte} {tag : BitVec 3} {seq : BitVec 2} {old : List Byte}
    (h : s.keeper.partials.find? (fun p => p.src == src) = some ⟨src, tag, seq, old⟩) (eom : Bool) (data : List Byte) :
    let put (l : List Partial) : State := { s with keeper := { s.keeper with partials := l } }
    let rest := s.keeper.partials.filter fun p => p.src != src
    exec (.mctpPacketReceive src false eom seq tag data) s = .next
      (if eom then (put rest).mctpMessage src (old ++ data) else put (⟨src, tag, seq + 1, old ++ data⟩ :: rest)) := by
  change execMctpPacketReceive src false eom seq tag data s = _
  unfold execMctpPacketReceive
  simp only []
  rw [h]
  exact congrArg Host.Outcome.next (if_neg (by simp))

/-- A packet out of order is dropped and counted (R596). -/
theorem exec_mctpPacket_disordered {s : State} {src : Byte} {tag tag' : BitVec 3} {seq nextSeq : BitVec 2} {old : List Byte}
    (h : s.keeper.partials.find? (fun p => p.src == src) = some ⟨src, tag', nextSeq, old⟩) (hne : tag ≠ tag' ∨ seq ≠ nextSeq) (eom : Bool)
    (data : List Byte) : exec (.mctpPacketReceive src false eom seq tag data) s = .next s.mctpDrop := by
  change execMctpPacketReceive src false eom seq tag data s = _
  unfold execMctpPacketReceive
  simp only []
  rw [h]
  exact congrArg Host.Outcome.next (if_pos (hne.imp Ne.symm Ne.symm))

theorem messagesAreAssembled : Claims.MessagesAreAssembled := by
  intro src seq nextSeq tag tag' data old eom s k find rest drop put whole
  refine ⟨fun h => ⟨?_, ?_, ?_, ?_⟩, fun h => ⟨?_, exec_mctpPacket_next h true data, exec_mctpPacket_next h false data,
    fun hne => exec_mctpPacket_disordered h hne eom data, ?_⟩⟩
  · change execMctpPacketReceive src true true seq tag data s = _
    unfold execMctpPacketReceive
    simp only []
    rw [show s.keeper.partials.find? (fun p => p.src == src) = none from h]
    rfl
  · change execMctpPacketReceive src true false seq tag data s = _
    unfold execMctpPacketReceive
    simp only []
    rw [show s.keeper.partials.find? (fun p => p.src == src) = none from h]
    rfl
  · change execMctpPacketReceive src false eom seq tag data s = _
    unfold execMctpPacketReceive
    simp only []
    rw [show s.keeper.partials.find? (fun p => p.src == src) = none from h]
    rfl
  · refine congrArg Host.Outcome.next (if_neg ?_)
    rw [List.any_eq_true]
    rintro ⟨p, hp, hsrc⟩
    exact List.find?_eq_none.mp h p hp hsrc
  · change execMctpPacketReceive src true false seq tag data s = _
    unfold execMctpPacketReceive
    simp only []
    rw [show s.keeper.partials.find? (fun p => p.src == src) = some ⟨src, tag', nextSeq, old⟩ from h]
    rfl
  · refine congrArg Host.Outcome.next (if_pos ?_)
    rw [List.any_eq_true]
    exact ⟨_, List.mem_of_find?_eq_some h, beq_self_eq_true src⟩

/-- Settles O51: each request by its answer, and each packet by the message it joins. -/
theorem controlRequestsAreAnswered : Obligations.ControlRequestsAreAnswered := ⟨controlRequestsWaiting_answered, messagesAreAssembled⟩

end Sys2Proof.Machine
end

section
/-! Register reads and writes (R12 to R15, R457, R459 to R461, R468 to R474, R498). -/

namespace Sys2Proof.Machine

/-! ## Rows and banks of registers -/

theorem rowAt_above {base step n off : Nat} (hstep : 0 < step) (h : base + step * n ≤ off) : rowAt base step n off = none := by
  refine if_neg fun h' => ?_
  have : n ≤ (off - base) / step := (Nat.le_div_iff_mul_le hstep).mpr (by rw [Nat.mul_comm]; omega)
  omega

theorem bankAt_mem {base step n words p i : Nat} (hp : p < n) (hi : i < words) (hw : 4 * words ≤ step) :
    bankAt base step n words (base + step * p + 4 * i) = some (p, i) := by
  have hlt : 4 * i < step := by omega
  have hdiv : (step * p + 4 * i) / step = p := by
    rw [Nat.mul_add_div (by omega), Nat.div_eq_of_lt hlt, Nat.add_zero]
  have hmod : (step * p + 4 * i) % step = 4 * i := by rw [Nat.mul_add_mod, Nat.mod_eq_of_lt hlt]
  unfold bankAt
  simp only [Nat.add_assoc, Nat.add_sub_cancel_left, hdiv, hmod, Nat.mul_mod_right, Nat.mul_div_cancel_left i (by decide : 0 < 4)]
  rw [if_pos ⟨Nat.le_add_right .., hp, trivial, hi⟩]

/-! ## Reads -/

/-- A counter that a read clears (R12, R14). -/
theorem exec_rcFieldRead {s : State} {blk : RegBlock} {off : Nat} {c : W32} {put : W32 → State} (h : s.rc blk off = some (c, put))
    (arriving : Nat) : exec (.rcFieldRead blk off arriving) s = .next { put (satAdd 0 arriving) with readData := c.setWidth 64 } := by
  change execRcFieldRead blk off arriving s = _
  unfold execRcFieldRead
  rw [h]

/-- A port's counter (R404). -/
theorem State.rc_port (s : State) (p : Fin 6) (i : Fin 10) : s.rc .fh (0x8410 + 0x100 * p.val + 4 * i.val) =
    some ((s.weir.ports.get p).cnt.get 0 i.val, fun v => s.modPort p fun x => { x with cnt := x.cnt.set i.val v }) := by
  unfold State.rc
  simp only []
  rw [if_neg (by omega), rowAt_above (by decide) (by omega), rowAt_above (by decide) (by omega), rowAt_above (by decide) (by omega),
    bankAt_mem p.isLt i.isLt (by decide)]
  simp only []
  rw [dif_pos p.isLt]

theorem setWidth_high (v : W64) : (v >>> 32).setWidth 32 = v.extractLsb' 32 32 := by
  apply BitVec.eq_of_toNat_eq
  simp

theorem setWidth_low (v : W64) : v.setWidth 32 = v.extractLsb' 0 32 := by
  apply BitVec.eq_of_toNat_eq
  simp

/-- The low half of a 64-bit register is read, and its high half is latched (R15). -/
theorem State.read32_low {s : State} {blk : RegBlock} {off : Nat} {v : W64} (h8 : off % 8 = 0) (h : s.reg64 blk off = some v) (who : Agent) :
    s.read32 who blk off = (v.extractLsb' 0 32, { s with latch := some (blk, off, v.extractLsb' 32 32) }) := by
  unfold State.read32
  rw [h8, Nat.sub_zero, h]
  simp only []
  rw [if_pos trivial, setWidth_low, setWidth_high]

/-- The high half of a 64-bit register is what was latched with the low half, and otherwise live (R15). -/
theorem State.read32_high {s : State} {blk : RegBlock} {off : Nat} {v : W64} (h8 : off % 8 = 0) (h : s.reg64 blk off = some v) (who : Agent) :
    (∀ w, s.latch = some (blk, off, w) → s.read32 who blk (off + 4) = (w, { s with latch := none })) ∧
      (s.latch = none → s.read32 who blk (off + 4) = (v.extractLsb' 32 32, s)) := by
  have hmod : (off + 4) % 8 = 4 := by omega
  refine ⟨fun w hl => ?_, fun hl => ?_⟩
  · unfold State.read32
    rw [hmod, Nat.add_sub_cancel, h]
    simp only []
    rw [if_neg (by decide), hl]
    exact if_pos ⟨rfl, rfl⟩
  · unfold State.read32
    rw [hmod, Nat.add_sub_cancel, h]
    simp only []
    rw [if_neg (by decide), hl, setWidth_high]

/-- A 32-bit register that no read clears (R12). -/
theorem State.read32_plain {s : State} {blk : RegBlock} {off : Nat} (h : s.reg64 blk (off - off % 8) = none) (hrc : s.rc blk off = none)
    (who : Agent) : s.read32 who blk off = (BitVec.ofNat 32 (s.reg32 blk off), s) := by
  unfold State.read32
  rw [h, hrc]

/-- A read that is answered (R15). -/
theorem exec_reg64LowHalfRead {s : State} {who : Agent} {blk : RegBlock} {off : Nat} (hreach : reaches who blk = true)
    (hpow : s.powered blk = true) (h4 : off % 4 = 0) {v : W32} {t : State} (h : s.read32 who blk off = (v, t)) :
    exec (.reg64LowHalfRead who blk off) s = .next { t with readData := v.setWidth 64 } := by
  change execReg64LowHalfRead who blk off s = _
  unfold execReg64LowHalfRead
  rw [if_pos (by rw [hreach, hpow, h4]; rfl), h]

theorem counterReadsClearAndLowHalvesLatch : Claims.CounterReadsClearAndLowHalvesLatch := by
  intro j d p i arriving who n s read left x
  have hread := fun (blk : RegBlock) (off : Nat) (c : W32) (put : W32 → State) (h : s.rc blk off = some (c, put)) =>
    exec_rcFieldRead h arriving
  refine ⟨hread _ _ _ (fun v => s.modJet j fun x => { x with core := { x.core with fmt := { x.core.fmt with sat := v } } }) rfl,
    hread _ _ _ (fun v => s.modJet j fun x => { x with core := { x.core with hazard := v } }) rfl,
    hread _ _ _ (fun v => s.modBasin d fun b => { b with conflict := v }) rfl,
    hread _ _ _ (fun v => { s with record := { s.record with stale := v } }) rfl,
    hread _ _ _ _ (s.rc_port p i),
    hread _ _ _ (fun v => { s with keeper := { s.keeper with rejectCnt := v } }) rfl,
    hread _ _ _ (fun v => { s with sluice := { s.sluice with urgent := v } }) rfl,
    fun blk off v h8 hv hreach hpow => ⟨?_, fun w hl => ?_, fun hl => ?_, ?_⟩, fun blk off h4 hv hrc hreach hpow => ?_, fun blk off h => ?_,
    rfl, rfl, rfl, ?_⟩
  · exact exec_reg64LowHalfRead hreach hpow (by omega) (State.read32_low h8 hv who)
  · exact exec_reg64LowHalfRead hreach hpow (by omega) ((State.read32_high h8 hv who).1 w hl)
  · exact exec_reg64LowHalfRead hreach hpow (by omega) ((State.read32_high h8 hv who).2 hl)
  · unfold State.read64
    rw [hv]
  · exact exec_reg64LowHalfRead hreach hpow h4 (State.read32_plain hv hrc who)
  · refine congrArg Host.Outcome.next (if_neg ?_)
    rcases h with h | h <;> simp [h]
  · exact congrArg some (setBits_low_two _)

/-! ## The fields of 32-bit registers -/

theorem flag_eq (b : Bool) (k : Nat) : flag b k = b.toNat * 2 ^ k := by cases b <;> simp [flag]

/-- FH_STATUS shows READY, PHASE COMMITTED and the firmware's restart (R459). -/
theorem State.fhStatus_bits (s : State) : s.fhStatus.testBit 0 = s.keeper.ready ∧ s.fhStatus.testBit 8 = (s.record.phase == 0x0B) ∧
    s.fhStatus.testBit 9 = s.keeper.fwRestart := by
  unfold State.fhStatus
  simp only [flag_eq]
  have hle : ∀ b : Bool, b.toNat ≤ 1 := Bool.toNat_le
  have hbit : ∀ (m k : Nat) (b : Bool), m / 2 ^ k % 2 = b.toNat → m.testBit k = b := fun m k b h => by
    rw [Nat.testBit_eq_decide_div_mod_eq, h]
    cases b <;> rfl
  have h1 := hle s.keeper.ready
  have h2 := hle (s.record.phase == 0x0B)
  have h3 := hle s.keeper.fwRestart
  exact ⟨hbit _ _ _ (by omega), hbit _ _ _ (by omega), hbit _ _ _ (by omega)⟩

/-- An array's status register (R103, R120). -/
theorem State.reg32_arrStatus (s : State) (j : Fin 160) (a : Fin 8) : s.reg32 (.jet j) (0x800 + 0x40 * a.val) = (s.arr j a).status := by
  unfold State.reg32
  simp only []
  split
  · omega
  · omega
  · have hb := bankAt_mem (base := 0x800) (step := 0x40) (words := 6) (i := 0) a.isLt (by decide) (by decide)
    rw [Nat.mul_zero, Nat.add_zero] at hb
    rw [hb]
    exact congrArg Arr.status (dif_pos a.isLt)

theorem registersReadTheirFields : Claims.RegistersReadTheirFields := by
  intro n d j a s bit b x y
  obtain ⟨hready, hphase, hrestart⟩ := s.fhStatus_bits
  exact ⟨rfl, rfl, hready, hphase, hrestart, rfl, (s.reg32_arrStatus j a).trans rfl, rfl, rfl, rfl, rfl, rfl, rfl, rfl⟩

/-- Settles O53: the reads of counters and halves, and what the registers show. -/
theorem registersReadByTheirAccess : Obligations.RegistersReadByTheirAccess :=
  ⟨counterReadsClearAndLowHalvesLatch, registersReadTheirFields⟩

/-! ## Writes -/

/-- A word that the firmware writes in a powered block where no 64-bit register lies (R12). -/
theorem exec_registerWrite {s : State} {blk : RegBlock} {off : Nat} (hpow : s.powered blk = true) (h4 : off % 4 = 0)
    (h : s.reg64 blk (off - off % 8) = none) (v : W64) :
    exec (.registerWrite .firmware blk off false v) s = .next (s.regWrite32 .firmware blk off (v.toNat % 2 ^ 32)) := by
  have hreach : reaches .firmware blk = true := by cases blk <;> rfl
  refine congrArg Host.Outcome.next ((if_neg ?_).trans ((if_pos rfl).trans ?_))
  · rw [hreach, hpow]
    simp [h4]
  · unfold State.wordWrite
    rw [h]

/-- A field's new value, by its range (R13). -/
theorem rangeField_fst (old v lo hi : Nat) : (rangeField old v lo hi).1 = if lo ≤ v ∧ v ≤ hi then v else old := by
  unfold rangeField
  split <;> rfl

theorem rangeField_snd (old v lo hi : Nat) : (rangeField old v lo hi).2 = !decide (lo ≤ v ∧ v ≤ hi) := by
  unfold rangeField
  split
  · next h => rw [decide_eq_true h]; rfl
  · next h => rw [decide_eq_false h]; rfl

theorem State.noteRsvd_bad {bad : Bool} (h : bad = true) (s : State) (off v : Nat) :
    s.noteRsvd bad off v = s.event 0x0001 1 srcFront [off, v] := if_pos h

theorem State.noteRsvd_good {bad : Bool} (h : bad = false) (s : State) (off v : Nat) : s.noteRsvd bad off v = s :=
  if_neg (by rw [h]; decide)

theorem ofNat_mod_of_dvd {w m n : Nat} (h : 2 ^ w ∣ m) : BitVec.ofNat w (n % m) = BitVec.ofNat w n := by
  apply BitVec.eq_of_toNat_eq
  simp [Nat.mod_mod_of_dvd _ h]

/-- EVENT_LEVEL is written, or kept where the value is reserved (R13, R498). -/
theorem State.fhWrite_level (s : State) (v : Nat) :
    s.fhWrite 0x18 v = ({ s with log := { s.log with level := if v % 8 ≤ 4 then BitVec.ofNat 3 v else s.log.level } } : State).noteRsvd
      (!decide (v % 8 ≤ 4)) 0x18 v := by
  have hval : BitVec.ofNat 3 (rangeField s.log.level.toNat (v % 8) 0 4).1 = if v % 8 ≤ 4 then BitVec.ofNat 3 v else s.log.level := by
    rw [rangeField_fst]
    simp only [Nat.zero_le, true_and]
    split
    · exact ofNat_mod_of_dvd (by decide)
    · exact BitVec.ofNat_toNat ..
  have hbad : (rangeField s.log.level.toNat (v % 8) 0 4).2 = !decide (v % 8 ≤ 4) := by
    rw [rangeField_snd]
    simp
  rw [← hval, ← hbad]
  rfl

/-- The link hold is written, or kept where the value is reserved (R13, R460). -/
theorem State.fhWrite_ctrl (s : State) (v : Nat) :
    s.fhWrite 8 v = ({ s with cxl := { s.cxl with
      intEn := decide (v % 2 = 1)
      linkHold := if v / 256 % 256 ≤ 200 then BitVec.ofNat 8 (v / 256) else s.cxl.linkHold } } : State).noteRsvd
      (!decide (v / 256 % 256 ≤ 200)) 8 v := by
  have hval : BitVec.ofNat 8 (rangeField s.cxl.linkHold.toNat (v / 256 % 256) 0 0xC8).1 =
      if v / 256 % 256 ≤ 200 then BitVec.ofNat 8 (v / 256) else s.cxl.linkHold := by
    rw [rangeField_fst]
    simp only [Nat.zero_le, true_and]
    split
    · exact ofNat_mod_of_dvd (by decide)
    · exact BitVec.ofNat_toNat ..
  have hbad : (rangeField s.cxl.linkHold.toNat (v / 256 % 256) 0 0xC8).2 = !decide (v / 256 % 256 ≤ 200) := by
    rw [rangeField_snd]
    simp
  rw [← hval, ← hbad]
  rfl

/-- A write of CTRL: ABORT, then GO (R471, R474). -/
theorem State.boxWrite_ctrl (s : State) (n : Fin 8) (v : Nat) : s.boxWrite n 0x0C v =
    if v.testBit 0 then (if v.testBit 1 then s.abortBox n else s).go n else if v.testBit 1 then s.abortBox n else s := rfl

/-- The low two bits of a word, by its residue. -/
theorem testBit_zero_eq (w : Nat) : w.testBit 0 = decide (w % 4 % 2 = 1) := by
  rw [Nat.testBit_zero, Nat.mod_mod_of_dvd _ (by decide : 2 ∣ 4)]

theorem testBit_one_eq (w : Nat) : w.testBit 1 = decide (w % 4 / 2 = 1) := by
  rw [Nat.testBit_eq_decide_div_mod_eq]
  exact decide_eq_decide.mpr (by omega)

/-- Settles O54: each register by its access code, and what no write changes. -/
theorem registerWritesFollowTheirAccess : Obligations.RegisterWritesFollowTheirAccess := by
  unfold Obligations.RegisterWritesFollowTheirAccess
  intro n j who blk off wide v s word w low noted x set hr
  have hlow : BitVec.ofNat 15 low = BitVec.ofNat 15 w := ofNat_mod_of_dvd (Nat.dvd_refl _)
  refine ⟨?_, ?_, ?_, ?_, fun hout => ?_, fun hout => ?_, fun hw => ?_, fun hw => ?_, fun hw => ?_, ?_, fun h => ?_⟩
  · rw [hlow]
    exact exec_registerWrite (blk := .fh) (off := 0x0C) hr rfl rfl v
  · rw [hlow]
    exact exec_registerWrite (blk := .fh) (off := 0x10) hr rfl rfl v
  · have hexec := (exec_registerWrite (off := 0x18) (blk := .fh) hr rfl rfl v).trans (congrArg Host.Outcome.next (s.fhWrite_level w))
    refine ⟨fun hbad => hexec.trans ?_, fun hgood => hexec.trans ?_⟩
    · exact congrArg Host.Outcome.next (State.noteRsvd_bad (by rw [decide_eq_false (by omega)]; rfl) ..)
    · exact congrArg Host.Outcome.next (State.noteRsvd_good (by rw [decide_eq_true (by omega)]; rfl) ..)
  · have hexec := (exec_registerWrite (off := 8) (blk := .fh) hr rfl rfl v).trans (congrArg Host.Outcome.next (s.fhWrite_ctrl w))
    refine ⟨fun hbad => hexec.trans ?_, fun hgood => hexec.trans ?_⟩
    · exact congrArg Host.Outcome.next (State.noteRsvd_bad (by rw [decide_eq_false (by omega)]; rfl) ..)
    · exact congrArg Host.Outcome.next (State.noteRsvd_good (by rw [decide_eq_true (by omega)]; rfl) ..)
  · have hset : ∀ f, (if (s.boxes.get n).outstanding then s else s.modBox n f) = s.modBox n f := fun f => if_neg (by rw [hout]; decide)
    exact ⟨(exec_registerWrite (off := 0) (blk := .mailbox n) hr rfl rfl v).trans (congrArg Host.Outcome.next (hset _)),
      (exec_registerWrite (off := 4) (blk := .mailbox n) hr rfl rfl v).trans (congrArg Host.Outcome.next (hset _)),
      (exec_registerWrite (off := 8) (blk := .mailbox n) hr rfl rfl v).trans (congrArg Host.Outcome.next (hset _))⟩
  · have hset : ∀ f, (if (s.boxes.get n).outstanding then s else s.modBox n f) = s := fun f => if_pos hout
    exact ⟨(exec_registerWrite (off := 0) (blk := .mailbox n) hr rfl rfl v).trans (congrArg Host.Outcome.next (hset _)),
      (exec_registerWrite (off := 4) (blk := .mailbox n) hr rfl rfl v).trans (congrArg Host.Outcome.next (hset _)),
      (exec_registerWrite (off := 8) (blk := .mailbox n) hr rfl rfl v).trans (congrArg Host.Outcome.next (hset _))⟩
  · refine (exec_registerWrite (off := 0x0C) (blk := .mailbox n) hr rfl rfl v).trans (congrArg Host.Outcome.next ?_)
    rw [show s.regWrite32 .firmware (.mailbox n) 0x0C w = s.boxWrite n 0x0C w from rfl, State.boxWrite_ctrl, testBit_one_eq, testBit_zero_eq,
      hw]
    rfl
  · refine (exec_registerWrite (off := 0x0C) (blk := .mailbox n) hr rfl rfl v).trans (congrArg Host.Outcome.next ?_)
    rw [show s.regWrite32 .firmware (.mailbox n) 0x0C w = s.boxWrite n 0x0C w from rfl, State.boxWrite_ctrl, testBit_one_eq, testBit_zero_eq,
      hw]
    rfl
  · refine (exec_registerWrite (off := 0x0C) (blk := .mailbox n) hr rfl rfl v).trans (congrArg Host.Outcome.next ?_)
    rw [show s.regWrite32 .firmware (.mailbox n) 0x0C w = s.boxWrite n 0x0C w from rfl, State.boxWrite_ctrl, testBit_one_eq, testBit_zero_eq,
      hw]
    rfl
  · exact exec_registerWrite (blk := .jet j) (off := 0x410) hr rfl rfl v
  · refine congrArg Host.Outcome.next (if_pos ?_)
    rcases h with h | h | h
    · simp [h]
    · simp [h]
    · simp [h]

end Sys2Proof.Machine
end

section
/-! The step sequencer, the restarted firmware and the writes of the record (R26 to R30, R39, R40, R80). -/

namespace Sys2Proof.Machine

/-! ## What entering a phase keeps -/

/-- The step, its phase and its slot, the jets and the tiers are the same in both states (R27). -/
def State.sameStep (s t : State) : Prop :=
  t.record.globalStep = s.record.globalStep ∧ t.record.phase = s.record.phase ∧ t.record.slot = s.record.slot ∧ t.jets = s.jets ∧
    t.tiers = s.tiers

theorem State.sameStep_refl (s : State) : s.sameStep s := ⟨rfl, rfl, rfl, rfl, rfl⟩

theorem State.sameStep_trans {s t u : State} (h : s.sameStep t) (h' : t.sameStep u) : s.sameStep u := by
  obtain ⟨hg, hp, hs, hj, ht⟩ := h
  obtain ⟨hg', hp', hs', hj', ht'⟩ := h'
  exact ⟨hg'.trans hg, hp'.trans hp, hs'.trans hs, hj'.trans hj, ht'.trans ht⟩

theorem State.sameStep_foldl {α : Type} {f : State → α → State} (hf : ∀ (s : State) (x : α), s.sameStep (f s x)) :
    ∀ (l : List α) (s : State), s.sameStep (l.foldl f s)
  | [], s => s.sameStep_refl
  | x :: l, s => State.sameStep_trans (hf s x) (State.sameStep_foldl hf l (f s x))

/-- States with the same record, jets and tiers. -/
theorem State.sameStep_of {s t : State} (hr : t.record = s.record) (hj : t.jets = s.jets) (ht : t.tiers = s.tiers) : s.sameStep t := by
  unfold State.sameStep
  rw [hr]
  exact ⟨rfl, rfl, rfl, hj, ht⟩

theorem State.engaged.sameStep {s t : State} (h : s.engaged t) : s.sameStep t := State.sameStep_of (by rw [h]) (by rw [h]) (by rw [h])

theorem State.setThr_sameStep (s : State) (c : Nat) (on : Bool) : s.sameStep (s.setThr c on) := by
  obtain ⟨sluice, cxl, outbox, h⟩ := s.setThr_frame c on
  exact State.sameStep_of (by rw [h]) (by rw [h]) (by rw [h])

theorem State.event_sameStep (s : State) (code sev src : Nat) (args : List Nat) : s.sameStep (s.event code sev src args) :=
  State.sameStep_of (s.event_record ..) (s.event_jets ..) (s.event_tiers ..)

theorem State.setDone_sameStep (s : State) (n : Nat) : s.sameStep (s.setDone n) := ⟨rfl, rfl, rfl, rfl, rfl⟩

theorem State.passEmpty_sameStep (s : State) : s.sameStep s.passEmpty := by
  unfold State.passEmpty
  simp only []
  split_ifs
  · exact s.setDone_sameStep _
  · exact s.sameStep_refl

theorem State.reportSuspect_sameStep (s : State) (rank : BitVec 15) (cause : Nat) : s.sameStep (s.reportSuspect rank cause) := by
  unfold State.reportSuspect
  simp only []
  split_ifs
  · exact ⟨rfl, rfl, rfl, rfl, rfl⟩
  · exact ⟨rfl, rfl, rfl, rfl, rfl⟩

theorem State.takeStart_sameStep (s : State) (absent carried : List Nat) : s.sameStep (s.takeStart absent carried) := by
  unfold State.takeStart
  simp only []
  split
  · exact State.sameStep_trans ⟨rfl, rfl, rfl, rfl, rfl⟩ (State.openColl_engaged ..).sameStep
  · exact ⟨rfl, rfl, rfl, rfl, rfl⟩

theorem State.sendStart_sameStep (s : State) : s.sameStep s.sendStart := by
  unfold State.sendStart
  simp only []
  refine State.sameStep_trans ?_ (State.takeStart_sameStep _ _ _)
  refine State.sameStep_trans ?_ (State.sameStep_foldl (fun t p => t.reportSuspect_sameStep _ _) _ _)
  refine State.sameStep_trans (t := { s with coll := { s.coll with misses := _ } }) ⟨rfl, rfl, rfl, rfl, rfl⟩ (State.sameStep_foldl ?_ _ _)
  exact fun t r => ⟨rfl, rfl, rfl, rfl, rfl⟩

theorem State.takeReady_sameStep (s : State) (rank : Nat) (carried : Bool) : s.sameStep (s.takeReady rank carried) := by
  unfold State.takeReady
  split
  · exact s.sameStep_refl
  · simp only []
    generalize (if carried = true then rank :: s.coll.readyCarried else s.coll.readyCarried) = l
    split
    · exact State.sameStep_trans ⟨rfl, rfl, rfl, rfl, rfl⟩ (State.sendStart_sameStep _)
    · split
      · exact ⟨rfl, rfl, rfl, rfl, rfl⟩
      · exact ⟨rfl, rfl, rfl, rfl, rfl⟩

theorem State.beginExchange_sameStep (s : State) : s.sameStep s.beginExchange := by
  unfold State.beginExchange
  simp only []
  refine State.sameStep_trans (s.setThr_sameStep 9 true) ?_
  split
  · exact State.takeReady_sameStep _ _ _
  · exact ⟨rfl, rfl, rfl, rfl, rfl⟩

theorem State.reserveCheck_sameStep (s : State) : s.sameStep s.reserveCheck := by
  unfold State.reserveCheck
  simp only []
  split_ifs
  · exact ⟨rfl, rfl, rfl, rfl, rfl⟩
  · exact ⟨rfl, rfl, rfl, rfl, rfl⟩

theorem State.beginReserve_sameStep (s : State) : s.sameStep s.beginReserve :=
  State.sameStep_trans (t := ({ s with job := { s.job with
    desc := some s.formDesc, outgoing := some (s.formEntry s.formDesc), acked := false } } : State).sendSecuring s.partnerRank
      (.entry (s.formEntry s.formDesc))) ⟨rfl, rfl, rfl, rfl, rfl⟩ (State.reserveCheck_sameStep _)

theorem State.stepSkew_sameStep (s : State) (r : Fin 2) (held : Bool) (l agreed : List W32) (groups : Nat) :
    s.sameStep (s.stepSkew r held l agreed groups) := by
  refine State.sameStep_foldl (fun t g => ?_) _ _
  split
  · exact t.sameStep_refl
  · exact State.sameStep_trans ⟨rfl, rfl, rfl, rfl, rfl⟩ (State.event_sameStep ..)

theorem State.takeDesc_sameStep (s : State) (i : Image) (held : Bool) : s.sameStep (s.takeDesc i held) := by
  unfold State.takeDesc
  split
  · exact State.sameStep_trans (State.sameStep_foldl (fun t r => t.stepSkew_sameStep _ _ _ _ _) _ _) ⟨rfl, rfl, rfl, rfl, rfl⟩
  · exact s.sameStep_refl

theorem State.beginUpdate_sameStep (s : State) : s.sameStep s.beginUpdate := by
  unfold State.beginUpdate
  split
  · next i d _ _ =>
    split
    · exact ⟨rfl, rfl, rfl, rfl, rfl⟩
    · refine State.sameStep_trans (State.sameStep_trans (s.takeDesc_sameStep i false) (State.takeDesc_sameStep _ i true))
        (State.sameStep_foldl ?_ _ _)
      exact fun t r => ⟨rfl, rfl, rfl, rfl, rfl⟩
  · exact s.sameStep_refl

theorem State.formVote_sameStep (s : State) : s.sameStep s.formVote := by
  unfold State.formVote
  split
  · split
    · exact s.sameStep_refl
    · refine State.sameStep_trans (State.sameStep_trans ?_ (State.setThr_sameStep _ 9 true)) (State.openColl_engaged ..).sameStep
      exact ⟨rfl, rfl, rfl, rfl, rfl⟩
  · exact s.sameStep_refl

theorem State.beginCommit_sameStep (s : State) : s.sameStep s.beginCommit := by
  unfold State.beginCommit
  simp only []
  refine State.sameStep_trans ?_ (State.formVote_sameStep _)
  split_ifs
  · exact ⟨rfl, rfl, rfl, rfl, rfl⟩
  · exact State.sameStep_trans ⟨rfl, rfl, rfl, rfl, rfl⟩ (State.setThr_sameStep _ 9 true)

/-- Entering a phase keeps the step, the slot, the jets and the tiers (R27, R40). -/
theorem State.enterPhase_spec (s : State) (p : Nat) : let t := s.enterPhase p
    t.record.phase = BitVec.ofNat 8 p ∧ t.record.globalStep = s.record.globalStep ∧ t.record.slot = s.record.slot ∧ t.jets = s.jets ∧
      t.tiers = s.tiers := by
  have h : State.sameStep { s with record := { s.record with phase := BitVec.ofNat 8 p } } (s.enterPhase p) := by
    unfold State.enterPhase
    simp only []
    split_ifs
    · exact State.beginExchange_sameStep _
    · exact State.sameStep_trans ⟨rfl, rfl, rfl, rfl, rfl⟩ (State.beginReserve_sameStep _)
    · exact State.beginUpdate_sameStep _
    · exact State.beginCommit_sameStep _
    · exact State.passEmpty_sameStep _
  obtain ⟨hg, hp, hs, hj, ht⟩ := h
  exact ⟨hp, hg, hs, hj, ht⟩

/-! ## The next step -/

/-- A change of D leaves the cores (R319). -/
theorem State.relay_core (s : State) (i : Image) (p : Policy) (c : CoreId) : (s.relay i p).core c = s.core c := by
  unfold State.relay
  simp only []
  generalize ((s.job.ring.map (·.2)).filter _) = kept
  have hread := State.readEach_counted (s.movedWords i kept) s
  generalize State.readEach (s.movedWords i kept) s = r at hread
  obtain ⟨u, hu⟩ : ∃ u : State, u = { r.2 with
    job := { r.2.job with policy := p, ring := kept.map fun e => (e.globalStep.toNat % (p.d + 1), e) } } := ⟨_, rfl⟩
  have hwrite := State.writeEach_counted ((u.movedWords i kept).zip r.1) u
  have hopen : ∀ v : State, v.openRegions.core c = v.core c := by
    intro v
    unfold State.openRegions
    split
    · exact State.core_congr rfl rfl c
    · rfl
  rw [← hu, hopen, State.counted_core hwrite, hu]
  exact (State.core_congr rfl rfl c).trans (State.counted_core hread c)

/-- A change of policy leaves the cores (R493). -/
theorem State.applyPolicy_core (s : State) (c : CoreId) : s.applyPolicy.core c = s.core c := by
  unfold State.applyPolicy
  split
  · simp only []
    split
    · split_ifs
      · exact State.core_congr rfl rfl c
      · exact (State.relay_core _ _ _ c).trans (State.core_congr rfl rfl c)
    · exact State.core_congr rfl rfl c
  · rfl

theorem State.applyPolicy_none {s : State} (h : s.job.nextPolicy = none) : s.applyPolicy = s := by
  unfold State.applyPolicy
  rw [h]

/-- A step that starts has no phase done before its first (R28), and leaves the tiers. -/
theorem State.enterForward_done (s : State) : s.enterForward.record.doneStep = s.record.globalStep ∧ s.enterForward.tiers = s.tiers := by
  obtain ⟨u, hu⟩ : ∃ u : State, u = { s.captureLanes.clearStep with
    record := { s.captureLanes.clearStep.record with phase := 1 } } := ⟨_, rfl⟩
  have ht : s.enterForward = u.passEmpty := by rw [hu]; rfl
  rw [ht]
  unfold State.passEmpty
  simp only []
  split_ifs
  · rw [hu]
    exact ⟨rfl, rfl⟩
  · rw [hu]
    exact ⟨rfl, rfl⟩

/-- The counters read at a boundary leave each core's lanes (R25, R310). -/
theorem State.boundary_core (s : State) (c : CoreId) : s.boundary.core c = (s.core c).readCounters := by
  cases c with
  | jet j => exact congrArg Jet.core (Vector.get_map_fin Jet.readCounters s.jets j)
  | upd r n =>
    show (s.boundary.runnels.get r).cores.get n = _
    rw [show s.boundary.runnels = s.runnels.map Runnel.readCounters from rfl, Vector.get_map_fin]
    exact Vector.get_map_fin _ _ n

/-- The next step (R27, R191, R493). -/
theorem State.nextStep_spec (s : State) : let t := s.nextStep
    t.record.phase = 1 ∧ t.record.globalStep = s.record.globalStep + 1 ∧ t.record.slot = s.record.slot ∧
      t.record.doneStep = t.record.globalStep ∧ (s.job.nextPolicy = none → t.tiers = s.tiers) ∧
      ∀ c, (t.core c).saved = (s.core c).lanes ∧ (t.core c).lanes = (s.core c).lanes := by
  obtain ⟨u, hu⟩ : ∃ u : State, u = { s.boundary with
    record := { s.boundary.record with globalStep := s.boundary.record.globalStep + 1 } } := ⟨_, rfl⟩
  have ht : s.nextStep = u.applyPolicy.enterForward := by rw [hu]; rfl
  obtain ⟨hphase, hslot, hstep, -, -, hcore⟩ := u.applyPolicy.enterForward_spec
  obtain ⟨hdone, htiers⟩ := u.applyPolicy.enterForward_done
  have hrec := u.applyPolicy_spec.1
  have hcore' : ∀ c, u.applyPolicy.core c = (s.core c).readCounters := fun c => by
    rw [u.applyPolicy_core, hu]
    exact s.boundary_core c
  intro t
  have ht : t = u.applyPolicy.enterForward := ht
  clear_value t
  subst ht
  refine ⟨hphase, ?_, ?_, hdone.trans hstep.symm, fun hnone => ?_, fun c => ?_⟩
  · rw [hstep, hrec, hu]
    rfl
  · rw [hslot, hrec, hu]
    rfl
  · rw [htiers, State.applyPolicy_none (by rw [hu]; exact hnone), hu]
    rfl
  · rw [hcore, hcore']
    exact ⟨rfl, rfl⟩

/-! ## The sequencer -/

/-- What the sequencer does when it may (R40). -/
theorem exec_phaseAdvance {s : State} (hrun : s.job.running = true) (hfw : s.fwServes = true) (hdec : s.job.decided = none)
    (hab : s.job.abortDue = none) : exec .phaseAdvance s = .next
      (if decide (1 ≤ s.record.phase.toNat) && decide (s.record.phase.toNat ≤ 8) && s.record.done s.record.phase.toNat then
        s.enterPhase (s.record.phase.toNat + 1)
      else if s.record.phase.toNat == 0x0A && s.record.done 10 then s.afterPause
      else if s.committed && s.job.haltAt == some s.record.globalStep then s.jobHalt 0
      else if s.committed && !s.pauseDue then s.nextStep
      else s) := by
  refine congrArg Host.Outcome.next (if_neg ?_)
  rw [hrun, hfw, hdec, hab]
  decide

/-- A committed step is in COMMIT (R329). -/
theorem State.committed_phase {s : State} (h : s.committed = true) : s.record.phase.toNat = 9 := by
  unfold State.committed at h
  obtain ⟨h', -⟩ := Bool.and_eq_true_iff.mp h
  obtain ⟨hp, -⟩ := Bool.and_eq_true_iff.mp h'
  rw [beq_iff_eq.mp hp]
  rfl

theorem phasesAdvanceWhenDone : Claims.PhasesAdvanceWhenDone := by
  intro s p
  refine ⟨fun hrun hfw hdec hab => ?_, fun h => ?_⟩
  · have hexec := exec_phaseAdvance hrun hfw hdec hab
    refine ⟨fun h1 h8 hdone => ?_, fun h1 h8 hdone => ?_, fun hcom hpause hhalt => ?_, fun hp hdone hrep => ?_, fun hcom hhalt => ?_⟩
    · rw [if_pos (by rw [decide_eq_true h1, decide_eq_true h8, hdone]; rfl)] at hexec
      obtain ⟨hph, hg, hs, hj, ht⟩ := s.enterPhase_spec (s.record.phase.toNat + 1)
      exact ⟨_, hexec, hph, hg, hs, hj, fun _ => ht⟩
    · have hcom : s.committed = false := by
        by_contra hc
        have := State.committed_phase (by simpa using hc)
        omega
      rw [if_neg (by rw [hdone]; simp), if_neg (by simp [show s.record.phase.toNat ≠ 0x0A by omega]), hcom] at hexec
      exact hexec
    · have hp := State.committed_phase hcom
      have hne : (s.job.haltAt == some s.record.globalStep) = false := beq_false_of_ne hhalt
      rw [if_neg (by rw [hp]; simp), if_neg (by rw [hp]; simp), hcom, hne, hpause] at hexec
      obtain ⟨hph, hg, hs, hd, ht, hc⟩ := s.nextStep_spec
      exact ⟨_, hexec, hph, hg, hs, hd, ht, hc⟩
    · have hafter : s.afterPause = s.applyPolicy.enterForward := if_pos (by rw [hrep]; rfl)
      rw [if_neg (by rw [show s.record.phase.toNat = 0x0A from hp]; simp),
        if_pos (by rw [show s.record.phase.toNat = 0x0A from hp, hdone]; rfl), hafter] at hexec
      obtain ⟨hphase, hslot, hstep, -⟩ := s.applyPolicy.enterForward_spec
      have hrec := s.applyPolicy_spec.1
      exact ⟨_, hexec, hphase, by rw [hstep, hrec], by rw [hslot, hrec]⟩
    · have hp := State.committed_phase hcom
      have heq : (s.job.haltAt == some s.record.globalStep) = true := beq_iff_eq.mpr hhalt
      rw [if_neg (by rw [hp]; simp), if_neg (by rw [hp]; simp), hcom, heq] at hexec
      obtain ⟨hph, hs, hg, hr, -⟩ := s.jobHalt_spec 0
      exact ⟨_, hexec, hph, hr, hg, hs⟩
  · refine congrArg Host.Outcome.next (if_pos ?_)
    rcases h with h | h | h | h
    · simp [h]
    · simp [h]
    · simp [Option.isSome_iff_ne_none.mpr h]
    · simp [Option.isSome_iff_ne_none.mpr h]

/-! ## The restarted firmware -/

theorem restartEndsWithCtrlReady : Claims.RestartEndsWithCtrlReady := by
  intro n winner s hre serves
  obtain ⟨u, hu⟩ : ∃ u : State, u = { s with keeper := { s.keeper with fwRestart := false, ctrlReady := true } } := ⟨_, rfl⟩
  have hserves : serves = u.readyUpdate := by rw [hu]
  obtain ⟨h, -, -⟩ := u.readyUpdate_spec
  rw [← hserves] at h
  have hexec : exec .fwRestartDone s = .next serves.resumeStep := congrArg Host.Outcome.next (if_pos hre)
  have hcond : u.readyCond = (s.keeper.dataReady && decide (s.keeper.powerState ≤ 1)) := by
    rw [hu]
    exact congrArg (· && _) (Bool.true_and _)
  rw [hcond, hu] at h
  clear_value serves
  have hjob : serves.job = s.job := by rw [h]
  have hin : serves.inStep = s.inStep := by
    generalize serves = t at h
    rw [h]
    rfl
  refine ⟨?_, ?_, fun hab hdec => hexec.trans ?_, fun hab hdec => hexec.trans ?_, fun hab hstep => hexec.trans ?_⟩
  · generalize serves = t at h
    rw [h]
  · generalize serves = t at h ⊢
    rw [h]
  · unfold State.resumeStep State.actVote
    rw [hjob, hab, hdec]
  · unfold State.resumeStep State.actVote
    rw [hjob, hab, hdec]
    rfl
  · unfold State.resumeStep
    rw [hjob, hab, hin]
    exact congrArg Host.Outcome.next (if_pos hstep)

/-! ## The record and the converters -/

theorem recordWritesCarryTheirStep : Claims.RecordWritesCarryTheirStep := by
  intro step w p v b s r
  have hwrite : ∀ x : RecordWrite, exec (.dataPlaneRecordWrite step x) s = execDataPlaneRecordWrite step x s := fun _ => rfl
  refine ⟨fun h => ?_, fun h => ⟨?_, ?_, ?_⟩⟩
  · rw [hwrite]
    unfold execDataPlaneRecordWrite
    simp only []
    rw [if_pos h]
  · rw [hwrite]
    unfold execDataPlaneRecordWrite
    simp only []
    rw [if_neg (not_not.mpr h), setBit_true_eq_or]
  · rw [hwrite]
    unfold execDataPlaneRecordWrite
    simp only []
    rw [if_neg (not_not.mpr h)]
  · rw [hwrite]
    unfold execDataPlaneRecordWrite
    simp only []
    rw [if_neg (not_not.mpr h)]

theorem moverConvEnNeedsIdle : Claims.MoverConvEnNeedsIdle := by
  intro j v s
  refine ⟨fun h => congrArg Host.Outcome.next (if_neg ?_), fun h h' => congrArg Host.Outcome.next (if_pos ?_)⟩
  · rcases h with h | h <;> simp [h]
  · rw [h, bne_iff_ne.mpr h']
    rfl

/-- Settles O55: the sequencer's moves, the firmware that resumes, and the writes of the record and of MOVER_CONV_EN. -/
theorem sequencerAdvancesTheStep : Obligations.SequencerAdvancesTheStep :=
  ⟨phasesAdvanceWhenDone, restartEndsWithCtrlReady, recordWritesCarryTheirStep, moverConvEnNeedsIdle⟩

end Sys2Proof.Machine
end
